-- ==== Sys2Proof/Word.lean ====
section
/-! DEFINITION. The word types of the V24 and their plainest arithmetic (00_scope.md R7, 02_number_formats.md R42). -/

namespace Sys2Proof

/-- One byte. -/
abbrev Byte := BitVec 8
/-- A 32-bit lane of a payload (R42). -/
abbrev Lane := BitVec 32
/-- A token payload of 16 lanes (R42). -/
abbrev Payload := BitVec 512
/-- A node word, route entry or unit-section word (R11). -/
abbrev Word64 := BitVec 64
/-- A stream command (R11). -/
abbrev Word128 := BitVec 128
/-- A queue packet of 128 bytes (R311). -/
abbrev Packet := BitVec 1024
/-- A 16-bit tag (R41). -/
abbrev Tag := BitVec 16
/-- The name of a tile of the package: die * 2048 + absolute tile id (R3). -/
abbrev TileKey := Nat
/-- The name of a pseudo-channel: stack * 64 + pseudo-channel (R2). -/
abbrev PcKey := Nat

namespace Word

/-- Bits `[lo + w - 1 : lo]` of a word, as a word of width `w` (R7). -/
def field {n : Nat} (x : BitVec n) (lo w : Nat) : BitVec w := x.extractLsb' lo w

/-- Bit `i` of a word. -/
def bit {n : Nat} (x : BitVec n) (i : Nat) : Bool := x.getLsbD i

/-- A one-bit word from a Bool. -/
def ofBool (b : Bool) : BitVec 1 := BitVec.ofBool b

/-- `base` with bits `[lo + w - 1 : lo]` replaced by `v`. -/
def setField {n w : Nat} (base : BitVec n) (lo : Nat) (v : BitVec w) : BitVec n :=
  (base &&& ~~~((BitVec.allOnes w).setWidth n <<< lo)) ||| (v.setWidth n <<< lo)

/-- Lane `i` of a payload (R42). -/
def lane (p : Payload) (i : Nat) : Lane := p.extractLsb' (32 * i) 32

/-- The payload whose lane `i` is `f i` (R42). -/
def ofLanes (f : Nat → Lane) : Payload :=
  (List.range 16).foldr (fun i acc => ((f i).setWidth 512 <<< (32 * i)) ||| acc) 0

/-- The A64 element `k`, lanes 2k (low) and 2k + 1 (high) (R42). -/
def a64 (p : Payload) (k : Nat) : BitVec 64 := p.extractLsb' (64 * k) 64

/-- The payload whose A64 element `k` is `f k`. -/
def ofA64 (f : Nat → BitVec 64) : Payload :=
  (List.range 8).foldr (fun k acc => ((f k).setWidth 512 <<< (64 * k)) ||| acc) 0

/-- The payload with one 32-bit value in every lane. -/
def splat (v : Lane) : Payload := ofLanes (fun _ => v)

/-- Clamp an integer to a range. -/
def clamp (lo hi v : Int) : Int := if v < lo then lo else if hi < v then hi else v

/-- Ceiling division of naturals. -/
def ceilDiv (a b : Nat) : Nat := (a + b - 1) / b

/-- Little-endian bytes of a word, `n` of them, lowest address first (R11). -/
def toBytes {w : Nat} (n : Nat) (x : BitVec w) : List Byte :=
  (List.range n).map (fun i => x.extractLsb' (8 * i) 8)

/-- The word whose little-endian bytes are given, lowest address first (R11). -/
def ofBytes (w : Nat) (bs : List Byte) : BitVec w :=
  bs.foldr (fun b acc => (acc <<< 8) ||| b.setWidth w) 0

end Word
end Sys2Proof
end

