-- ==== Sys2Proof/Syntax.lean ====
section
/-! DEFINITION. The syntax of the V24: one constructor of `Instr` per row of spec/opcode_table.json. Node words (01 R15), sequencer words (01 R32), stream commands (01 R28) and packets (14 R312) carry their decoded fields; the rows that are events of the machine (95_what_each_step_holds.md) have no operands. -/

namespace Sys2Proof

/-- Operand types of a node word (R15). -/
inductive Ty where
  | i32 | u32 | f32 | bf16x2 | i8x4 | i16x2 | sx | pred | ctl | a64
  deriving DecidableEq, Repr

/-- Rounding modes (R15, R44). -/
inductive RMode where
  | rn | rz | ru | rd | rna
  deriving DecidableEq, Repr

/-- The three latches of a slot (R17, R18). -/
inductive Pos where
  | left | right | pred
  deriving DecidableEq, Repr

/-- A 12-bit target field (R18). -/
inductive Tgt where
  | latch (pos : Pos) (slot : BitVec 5)
  | route (n : BitVec 4)
  | port (p : BitVec 8)
  | none
  deriving DecidableEq, Repr

/-- The common fields of a node word (R15). -/
structure NodeOp where
  ty  : Ty
  tga : Tgt
  tgb : Tgt
  lk  : Bool
  rk  : Bool
  pn  : Bool
  pe  : Bool
  rm  : RMode
  sat : Bool
  pd  : Bool
  deriving DecidableEq, Repr

/-- The common fields of a stream command (R28), less CMD. -/
structure CmdHead where
  acq   : Bool
  rel   : Bool
  gv    : Bool
  tk    : Bool
  scope : BitVec 3
  gvq   : BitVec 3
  tkq   : BitVec 3
  die   : BitVec 4
  index : BitVec 8
  deriving DecidableEq, Repr

/-- OPERANDS of `board.flow`, `board.snap` and `fold` (R163). -/
structure RideOps where
  reach : BitVec 4
  rid   : BitVec 8
  ort   : BitVec 4
  win   : Bool
  early : Bool
  etype : BitVec 4
  offw  : BitVec 10
  cm1   : BitVec 12
  fop   : BitVec 2
  pk    : Bool
  lo    : BitVec 24
  hi    : BitVec 24
  deriving DecidableEq, Repr

/-- OPERANDS of `sieve` (R166). -/
structure SieveOps where
  reach : BitVec 4
  rid   : BitVec 8
  ort   : BitVec 4
  etype : BitVec 4
  offw  : BitVec 10
  cm1   : BitVec 4
  cmp   : BitVec 3
  k     : BitVec 32
  deriving DecidableEq, Repr

/-- OPERANDS of `kvride` (R169). -/
structure KvOps where
  seqid : BitVec 20
  group : BitVec 6
  stack : BitVec 5
  rid   : BitVec 8
  ort   : BitVec 4
  etype : BitVec 4
  pk    : Bool
  first : BitVec 12
  nm1   : BitVec 12
  boff  : BitVec 10
  blm1  : BitVec 10
  deriving DecidableEq, Repr

/-- OPERANDS of the update commands (R171). -/
structure UpdOps where
  reach : BitVec 4
  etype : BitVec 4
  offw  : BitVec 10
  cm1   : BitVec 4
  ntm1  : BitVec 10
  a     : BitVec 32
  b     : BitVec 32
  deriving DecidableEq, Repr

/-- OPERANDS of `copy` (R174). -/
structure CopyOps where
  sreach : BitVec 4
  dreach : BitVec 4
  slo    : BitVec 24
  dlo    : BitVec 24
  nm1    : BitVec 24
  deriving DecidableEq, Repr

/-- OPERANDS of `pagein` and `pageout` (R175). -/
structure PageOps where
  vpn   : BitVec 35
  fpool : BitVec 16
  fpage : BitVec 32
  deriving DecidableEq, Repr

/-- OPERANDS of `bseq` (R177), less MODE. -/
structure BseqOps where
  seqid  : BitVec 20
  stack  : BitVec 5
  pool   : BitVec 12
  g0     : BitVec 6
  gnm1   : BitVec 6
  policy : BitVec 4
  deriving DecidableEq, Repr

/-- OPERANDS of `bind` (R179), less MODE. -/
structure BindOps where
  base  : BitVec 56
  stile : BitVec 11
  sslot : BitVec 5
  deriving DecidableEq, Repr

/-- The instructions and steps of the V24: one constructor per row of the opcode table. The rows with an encoding come first; a row that is an event of the machine carries no operand: where it happens, and with what input from outside, is the state's `focus`. -/
inductive Instr where
  -- integer nodes (R63)
  | add (w : NodeOp)
  | sub (w : NodeOp)
  | mul (w : NodeOp)
  | mulh (w : NodeOp)
  | madd (w : NodeOp)
  | div (w : NodeOp)
  | rem (w : NodeOp)
  | neg (w : NodeOp)
  | abs (w : NodeOp)
  | min (w : NodeOp)
  | max (w : NodeOp)
  | icmp (w : NodeOp) (cond : BitVec 3)
  | and (w : NodeOp)
  | or (w : NodeOp)
  | xor (w : NodeOp)
  | not (w : NodeOp)
  | andn (w : NodeOp)
  | shl (w : NodeOp)
  | shr (w : NodeOp)
  | sra (w : NodeOp)
  | rotl (w : NodeOp)
  | clz (w : NodeOp)
  | popc (w : NodeOp)
  | bfx (w : NodeOp) (sgn : Bool) (wm1 pos : BitVec 5)
  | bfi (w : NodeOp) (wm1 pos : BitVec 5)
  | addi (w : NodeOp) (imm : BitVec 16)
  -- F32 and BF16 nodes (R70)
  | fadd (w : NodeOp)
  | fsub (w : NodeOp)
  | fmul (w : NodeOp)
  | fma (w : NodeOp)
  | fms (w : NodeOp)
  | fnma (w : NodeOp)
  | fmin (w : NodeOp)
  | fmax (w : NodeOp)
  | fabs (w : NodeOp)
  | fneg (w : NodeOp)
  | fcpsgn (w : NodeOp)
  | fcmp (w : NodeOp) (cond : BitVec 3)
  | fclass (w : NodeOp) (mask : BitVec 10)
  | fdiv (w : NodeOp)
  | fsqrt (w : NodeOp)
  | frcp (w : NodeOp)
  | frsqrt (w : NodeOp)
  | exp2f (w : NodeOp)
  | log2f (w : NodeOp)
  | ldx (w : NodeOp)
  | rndi (w : NodeOp)
  -- conversions (R79, R82)
  | cvt (w : NodeOp) (src dst : BitVec 4)
  | pack (w : NodeOp) (sz : Bool)
  | unpack (w : NodeOp) (ext sz : Bool)
  -- lanes (R83)
  | perm (w : NodeOp)
  | bcast (w : NodeOp) (lane : BitVec 4)
  | rsum (w : NodeOp)
  | rmin (w : NodeOp)
  | rmax (w : NodeOp)
  | psum (w : NodeOp)
  | pmin (w : NodeOp)
  | pmax (w : NodeOp)
  | lidx (w : NodeOp) (imm : BitVec 16)
  | mcount (w : NodeOp) (pfx : Bool)
  -- steering, constants, threads (R121, R124, R127)
  | mov (w : NodeOp)
  | sel (w : NodeOp)
  | steer (w : NodeOp) (inv : Bool)
  | merge (w : NodeOp) (alt : Bool)
  | gate (w : NodeOp)
  | dup (w : NodeOp)
  | sink (w : NodeOp)
  | const (w : NodeOp) (imm : BitVec 16)
  | seqgen (w : NodeOp) (eos : Bool)
  | tagGet (w : NodeOp)
  | tagSet (w : NodeOp)
  | spawn (w : NodeOp)
  | jump (w : NodeOp) (block : BitVec 12) (entry : BitVec 4)
  | loop (w : NodeOp) (inv : Bool)
  | retire (w : NodeOp) (free : Bool)
  | widFld (w : NodeOp) (fld : BitVec 3)
  | widLvl (w : NodeOp) (lvl : BitVec 3)
  -- controllers (R132)
  | ctlS (w : NodeOp) (ncm1 own : BitVec 3)
  | ctlP (w : NodeOp) (ncm1 : BitVec 3) (pm1 : BitVec 4) (own : BitVec 3)
  | ctlQ (w : NodeOp) (ncm1 own : BitVec 3)
  -- synchronisation (R135)
  | join (w : NodeOp) (one : Bool) (vbase : BitVec 5) (rbase nm1 : BitVec 4)
  | fenceSc (w : NodeOp) (scope : BitVec 3)
  | sluiceLocSnd (w : NodeOp) (scope : BitVec 3) (pair : BitVec 7) (dm1 : BitVec 4)
  | sluiceXrSnd (w : NodeOp) (scope : BitVec 3) (pair : BitVec 7) (dm1 : BitVec 4)
  | sluiceXrRcv (w : NodeOp) (scope : BitVec 3) (pair : BitVec 7) (dm1 : BitVec 4)
  | censusUp (w : NodeOp) (imm : BitVec 16)
  | censusDn (w : NodeOp) (imm : BitVec 16)
  -- scratchpad (R140)
  | spld (w : NodeOp) (ord : BitVec 2) (blk : Bool) (scope : BitVec 3)
  | spst (w : NodeOp) (ord : BitVec 2) (blk : Bool) (scope : BitVec 3)
  | spatom (w : NodeOp) (ord : BitVec 2) (scope : BitVec 3) (atop : BitVec 3)
  | spown (w : NodeOp)
  -- translation and ports (R147)
  | xlat (w : NodeOp) (acc : Bool)
  | gaddr (w : NodeOp)
  | resume (w : NodeOp)
  -- block nodes (R150)
  | balloc (w : NodeOp)
  | bfree (w : NodeOp)
  | bappend (w : NodeOp)
  | blook (w : NodeOp)
  | btrim (w : NodeOp)
  -- matrix nodes (R100)
  | mma (w : NodeOp)
  | mmaAcc (w : NodeOp)
  | loadw (w : NodeOp)
  | swapw (w : NodeOp)
  | drain (w : NodeOp)
  | zero (w : NodeOp)
  | rowtag (w : NodeOp) (imm : BitVec 16)
  | rprog (w : NodeOp)
  -- projection nodes (R114)
  | pj (w : NodeOp) (psel : BitVec 3)
  | pjp (w : NodeOp)
  | pjs (w : NodeOp) (aux : Bool)
  | pja (w : NodeOp)
  -- system (R154)
  | trap (w : NodeOp) (code : BitVec 16)
  | dtime (w : NodeOp)
  | tileid (w : NodeOp)
  | stat (w : NodeOp)
  -- sequencer ALU (R189)
  | seqAdd (d a b : BitVec 5)
  | seqSub (d a b : BitVec 5)
  | seqAnd (d a b : BitVec 5)
  | seqOr (d a b : BitVec 5)
  | seqXor (d a b : BitVec 5)
  | seqShl (d a b : BitVec 5)
  | seqShr (d a b : BitVec 5)
  | seqSra (d a b : BitVec 5)
  | seqMul (d a b : BitVec 5)
  | seqMulh (d a b : BitVec 5)
  | seqSlt (d a b : BitVec 5)
  | seqSltu (d a b : BitVec 5)
  | seqMin (d a b : BitVec 5)
  | seqMax (d a b : BitVec 5)
  | seqDiv (d a b : BitVec 5)
  | seqRem (d a b : BitVec 5)
  -- sequencer immediates (R190)
  | seqAddi (d a : BitVec 5) (imm : BitVec 16)
  | seqAndi (d a : BitVec 5) (imm : BitVec 16)
  | seqOri (d a : BitVec 5) (imm : BitVec 16)
  | seqXori (d a : BitVec 5) (imm : BitVec 16)
  | seqShli (d a : BitVec 5) (sh : BitVec 6)
  | seqShri (d a : BitVec 5) (sh : BitVec 6)
  | seqSrai (d a : BitVec 5) (sh : BitVec 6)
  | seqSlti (d a : BitVec 5) (imm : BitVec 16)
  | seqInsh (d : BitVec 5) (imm : BitVec 16)
  -- sequencer memory and control flow (R191, R192)
  | seqLd (d a : BitVec 5) (imm : BitVec 16)
  | seqSt (d a : BitVec 5) (imm : BitVec 16)
  | seqLdw (d a : BitVec 5) (imm : BitVec 16)
  | seqStw (d a : BitVec 5) (imm : BitVec 16)
  | seqBeq (d a : BitVec 5) (imm : BitVec 16)
  | seqBne (d a : BitVec 5) (imm : BitVec 16)
  | seqBlt (d a : BitVec 5) (imm : BitVec 16)
  | seqBge (d a : BitVec 5) (imm : BitVec 16)
  | seqBltu (d a : BitVec 5) (imm : BitVec 16)
  | seqBgeu (d a : BitVec 5) (imm : BitVec 16)
  | seqJ (off : BitVec 26)
  | seqJal (off : BitVec 26)
  | seqJr (a : BitVec 5)
  -- sequencer special and command registers (R193, R194)
  | seqSget (d : BitVec 5) (n : BitVec 16)
  | seqSset (a : BitVec 5) (n : BitVec 16)
  | seqCset (c : BitVec 3) (pos : BitVec 7) (wm1 : BitVec 6) (a : BitVec 5) (chk : Bool)
  | seqCget (c : BitVec 3) (pos : BitVec 7) (wm1 : BitVec 6) (a : BitVec 5) (sx : Bool)
  | seqCclr (c : BitVec 3) (pos : BitVec 7) (wm1 : BitVec 6)
  | seqCclrAll (c : BitVec 3)
  | seqCissue (c : BitVec 3)
  -- sequencer tokens, configuration and kernels (R195-R202)
  | seqTokGive (a : BitVec 5) (q : BitVec 3)
  | seqTokTake (d : BitVec 5) (h : Bool) (q : BitVec 3)
  | seqTokPoll (d : BitVec 5) (q : BitVec 3)
  | seqCfgLoad (a : BitVec 5)
  | seqCfgWait (d : BitVec 5)
  | seqSeed (d a : BitVec 5)
  | seqCensusWait (d : BitVec 5)
  | seqLaunchTail (a : BitVec 5)
  | seqWfe (d : BitVec 5) (poll : Bool)
  | seqFence (scope : BitVec 3)
  | seqTrap (code : BitVec 16)
  | seqHalt
  -- stream commands (R156-R186)
  | boardFlow (h : CmdHead) (o : RideOps)
  | boardSnap (h : CmdHead) (o : RideOps)
  | gather (h : CmdHead) (rid : BitVec 8) (ort : BitVec 4)
  | sieve (h : CmdHead) (o : SieveOps)
  | fold (h : CmdHead) (o : RideOps)
  | kvride (h : CmdHead) (o : KvOps)
  | alight (h : CmdHead) (rid : BitVec 8)
  | updW (h : CmdHead) (o : UpdOps)
  | updAdd (h : CmdHead) (o : UpdOps)
  | updMax (h : CmdHead) (o : UpdOps)
  | updScadd (h : CmdHead) (o : UpdOps)
  | copy (h : CmdHead) (o : CopyOps)
  | pagein (h : CmdHead) (o : PageOps)
  | pageout (h : CmdHead) (o : PageOps)
  | bseqNew (h : CmdHead) (o : BseqOps)
  | bseqRestore (h : CmdHead) (o : BseqOps)
  | bseqAddg (h : CmdHead) (o : BseqOps)
  | bdrop (h : CmdHead) (seqid : BitVec 20) (stack : BitVec 5)
  | bindStart (h : CmdHead) (o : BindOps)
  | bindResume (h : CmdHead) (o : BindOps)
  | unbind (h : CmdHead)
  | eos (h : CmdHead) (ort : BitVec 4) (tag : Tag)
  | tempo (h : CmdHead) (round : BitVec 32) (rmask : BitVec 16)
  | drainCmd (h : CmdHead) (rmask : BitVec 16)
  | fenceE (h : CmdHead) (eng : Bool)
  | cfgld (h : CmdHead) (block : BitVec 12)
  | statc (h : CmdHead) (reach : BitVec 4) (seg : BitVec 24)
  -- packets (R312)
  | launch (p : Packet)
  | bindPacket (tq : BitVec 16) (ticket : BitVec 64) (ops : BitVec 96) (region : BitVec 8) (tile : BitVec 16)
  | load (addr : BitVec 64) (len : BitVec 32) (ctx : BitVec 16)
  | unload (handle : BitVec 32)
  | qset (tq ctx : BitVec 16) (ring : BitVec 64) (entries : BitVec 32) (flags : BitVec 8)
  | qsetReset (tq ctx : BitVec 16) (ring : BitVec 64) (entries : BitVec 32) (flags : BitVec 8)
  | ctxset (ctx : BitVec 16) (slice : BitVec 32) (rects : List (BitVec 32))
  | reachsetStage (stack pc slot : BitVec 8) (entry : BitVec 128)
  | reachsetCommit (stack pc slot : BitVec 8) (entry : BitVec 128)
  | sched (policy : BitVec 8)
  | kill (ctx : BitVec 16)
  | poolsetCreate (ctx : BitVec 16) (stack : BitVec 8) (pool : BitVec 16) (npages : BitVec 32) (vpn : BitVec 64)
  | poolsetDestroy (ctx : BitVec 16) (stack : BitVec 8) (pool : BitVec 16) (npages : BitVec 32) (vpn : BitVec 64)
  | keysetLoad (ctx : BitVec 16) (stack slot : BitVec 8) (kref : BitVec 32)
  | keysetErase (ctx : BitVec 16) (stack slot : BitVec 8) (kref : BitVec 32)
  | keysetPolicy (ctx : BitVec 16) (stack slot : BitVec 8) (kref : BitVec 32)
  | ctxreachMap (ctx : BitVec 16) (vpn : BitVec 64) (npages first ffirst : BitVec 32) (fpool : BitVec 16) (crn flags : BitVec 8)
  | ctxreachUnmap (ctx : BitVec 16) (vpn : BitVec 64) (npages : BitVec 32)
  | ctxreachRole (ctx : BitVec 16) (crn role : BitVec 8)
  | ctxreachFarpool (ctx : BitVec 16) (fpool : BitVec 16) (fpages : BitVec 32) (fep fbase : BitVec 64)
  -- events: steering, constants, threads (R121, R124, R127)
  | seqgenToken
  -- events: controllers (R132)
  | ctlPermit
  | ctlDone
  -- events: scratchpad (R140)
  | ownerApply
  | spOwnUpdate
  | spQRequest
  -- events: translation and ports (R147)
  | translationFill
  | invalidationComplete
  -- events: block nodes (R150)
  | blockEngineServe
  | tableRestore
  -- events: matrix unit (R93-R99)
  | mxMma
  | mxMmaAcc
  | mxLoadw
  | mxSwapw
  | mxDrain
  | mxZero
  | mxMarker
  -- events: projection engine (R103-R116)
  | pjInToken
  | pjAdjToken
  | pjProject
  | pjAdjoint
  | pjMarker
  -- events: routes and channels (R21, R52, R53)
  | tokenDeliver
  | channelDecode
  | scaleToken
  -- events: sequencer special and command registers (R193, R194)
  | cissueVerdict
  | tkqTake
  -- events: sequencer tokens, configuration and kernels (R195-R202)
  | fifoTake
  | eventEnqueue
  -- events: stream commands (R156-R186)
  | commandStart
  | commandRetire
  | kvrideAdmit
  | updTokenTake
  | addressGenerate
  -- events: rides, sweep, gather, eddy (R271-R281, R338-R343)
  | rideReserve
  | rideCommit
  | riderBoard
  | segmentVisit
  | gatherRequest
  | postingAccept
  | eddyDivert
  | resumeToken
  | firmwareTierEvent
  -- events: tempo (R300, R301)
  | roundMark
  | tempoCommit
  -- events: kernel life (R240-R253, R321-R330, R348, R364)
  | phaseEnd
  | configurationComplete
  | entryDelivery
  | jumpDelivery
  | kernelRetire
  | admissionDecision
  | sliceExpiry
  | preempt
  | trapRecordEnter
  -- events: packets (R312)
  | reachTableApply
  -- events: registers (R313, R363-R365)
  | qres
  | qcommit
  | registerWrite
  | tqactResume
  | tqactNext
  | tqactKill
  -- events: across hours (R370-R385)
  | linkReplay
  | repairBoundary
  | linkFenced
  | bankPark
  | bankTest
  | bankUnpark
  | cfgScrub
  | ptpLock
  | ptpLockLoss
  | featureAccept
  | getMeasurements
  | keyExchange
  | firmwareImage
  | canaryCommit
  | canaryRevert
  | lcChange
  | reset
  | wipeComplete
  | thermalTrip
  | seqIllegalFetch
  | networkAcknowledgement
  deriving DecidableEq, Repr

end Sys2Proof
end

