-- ==== Sys2Proof/WellFormed.lean ====
section
/-! DEFINITION. When an instruction is well formed: the tables of the node instructions (03 R63, R70, R79, R83; 04 R100, R114; 05 R117-R154), the must-be-zero and range rules of sequencer words (01 R35) and the checks of commands that need no target (01 R30). -/

namespace Sys2Proof

/-- Tile kinds (R13). -/
inductive Kind where
  | mx | vx | sp | pt | ct
  deriving DecidableEq, Repr

/-- How an instruction uses the predicate latch for a third operand (R15 PD, R57). -/
inductive Third where
  | no | must | may
  deriving DecidableEq, Repr

/-- What a node instruction requires of its targets. -/
inductive TgtRule where
  | any
  | both
  | neither
  | only (p : BitVec 8)
  | first (p : BitVec 8)
  deriving DecidableEq, Repr

/-- One row of the node instruction tables: the word's fields and what the table allows. -/
structure NodeForm where
  op    : NodeOp
  opc   : BitVec 8
  low   : BitVec 19 := 0
  left  : Bool := true
  right : Bool := false
  third : Third := .no
  tys   : List Ty := [.ctl]
  satOk : Bool := false
  rmOk  : Bool := false
  peOk  : Bool := false
  lkOk  : Bool := true
  rkOk  : Bool := true
  tgts  : TgtRule := .any
  subOk : Bool := true
  deriving DecidableEq, Repr

/-- The unit ports that are not reserved (R20). -/
def portDefined (p : BitVec 8) : Bool :=
  [0x00, 0x01, 0x02, 0x10, 0x11, 0x12, 0x20, 0x21, 0x30, 0x31, 0x32].contains p || (0x40 ≤ p && p ≤ 0x47)

/-- The kind of tile a unit port stands in (R20). -/
def portKind (p : BitVec 8) : Kind :=
  if p < 0x10 then .mx else if p < 0x20 then .vx else if p < 0x30 then .sp else if p < 0x40 then .pt else .ct

/-- A target field whose pattern is not reserved (R18, R20). -/
def Tgt.ok : Tgt → Bool
  | .port p => portDefined p
  | _ => true

/-- The target rule of a row (R100, R114, R121, R127, R138, R147, R154). -/
def TgtRule.ok : TgtRule → Tgt → Tgt → Bool
  | .any, _, _ => true
  | .both, a, b => a != .none && b != .none
  | .neither, a, b => a == .none && b == .none
  | .only p, a, b => a == .port p && b == .none
  | .first p, a, _ => a == .port p

/-- Only `pjp` and `pja` may name `pj.ctl` and `pj.adj`, each in its TGA (R114). -/
def TgtRule.pjOk : TgtRule → Tgt → Tgt → Bool
  | .only p, a, b => (p == 0x11 || a != .port 0x11) && b != .port 0x11 && b != .port 0x12
  | .first p, a, b => (p == 0x12 || a != .port 0x12) && b != .port 0x11 && b != .port 0x12
  | _, a, b => a != .port 0x11 && a != .port 0x12 && b != .port 0x11 && b != .port 0x12

/-- Every word rule of R16, R57 and R19 that a word answers by itself, for one row. -/
def NodeForm.ok (f : NodeForm) : Bool :=
  f.tys.contains f.op.ty
  && (!f.op.sat || f.satOk)
  && (f.op.rm == .rn || f.rmOk)
  && !(f.op.pd && f.op.pe)
  && (!f.op.pn || f.op.pe)
  && (!f.op.pe || f.peOk)
  && (match f.third with
      | .no => !f.op.pd
      | .must => f.op.pd
      | .may => true)
  && (!f.op.lk || (f.left && f.lkOk))
  && (!f.op.rk || (f.right && f.rkOk))
  && (!f.left || !f.op.lk || (f.right && !f.op.rk) || f.op.pe || f.op.pd)
  && f.op.tga.ok && f.op.tgb.ok
  && (f.op.tga == .none || f.op.tga != f.op.tgb)
  && f.tgts.ok f.op.tga f.op.tgb
  && f.tgts.pjOk f.op.tga f.op.tgb
  && f.subOk

namespace NodeForm

/-- SUB bits [18:16] and IMM16 together (R15). -/
def low19 (sub : BitVec 3) (imm : BitVec 16) : BitVec 19 := sub ++ imm
/-- SUB bit 16 alone, with IMM16. -/
def bit16 (b : Bool) (imm : BitVec 16) : BitVec 19 := low19 ((BitVec.ofBool b).setWidth 3) imm
/-- A unary row. -/
def un (w : NodeOp) (opc : BitVec 8) (tys : List Ty) : NodeForm := { op := w, opc := opc, tys := tys }
/-- A binary row. -/
def bin (w : NodeOp) (opc : BitVec 8) (tys : List Ty) : NodeForm := { op := w, opc := opc, right := true, tys := tys }
/-- A ternary row with PD required (R57). -/
def ter (w : NodeOp) (opc : BitVec 8) (tys : List Ty) : NodeForm :=
  { op := w, opc := opc, right := true, third := .must, tys := tys }
/-- A unary row of the flow chapter: LK is refused (R117). -/
def unF (w : NodeOp) (opc : BitVec 8) (tys : List Ty) : NodeForm := { op := w, opc := opc, tys := tys, lkOk := false }
/-- A binary row of the flow chapter; `rk` says whether RK is allowed (R117). -/
def binF (w : NodeOp) (opc : BitVec 8) (tys : List Ty) (rk : Bool) : NodeForm :=
  { op := w, opc := opc, right := true, tys := tys, lkOk := false, rkOk := rk }

end NodeForm

open NodeForm in
/-- The legal pairs of `cvt` with the RMODE and SAT they allow (R79): (allows RMODE, SAT may be 0, SAT may be 1). -/
def cvtPair (src dst : BitVec 4) : Option (Bool × Bool × Bool) :=
  let ints : List (BitVec 4) := [0, 1, 4, 9]
  let sxs : List (BitVec 4) := [5, 6, 7]
  if src == 2 && dst == 3 then some (true, true, false)
  else if src == 3 && dst == 2 then some (false, true, false)
  else if src == 2 && ints.contains dst then some (true, false, true)
  else if (src == 0 || src == 1) && dst == 2 then some (true, true, false)
  else if (src == 9 || src == 4) && dst == 2 then some (false, true, false)
  else if ints.contains src && ints.contains dst && src != dst then some (false, true, true)
  else if src == 2 && sxs.contains dst then some (false, true, false)
  else if sxs.contains src && dst == 2 then some (false, true, false)
  else none

/-- ATOP and TY of `spatom` agree (R140). -/
def atopTyOk (atop : BitVec 3) (ty : Ty) : Bool :=
  match ty with
  | .f32 => atop == 3 || atop == 5
  | .i32 | .u32 => atop == 0 || atop == 1 || atop == 2 || atop == 3 || atop == 4
  | _ => false

open NodeForm in
/-- The row of the node tables that an instruction stands in; `none` for every other instruction. DEDUCED (log 142): a `sluice.loc` word with PAIR not zero is refused, since the loc form does not use PAIR (R135). -/
def Instr.nodeForm : Instr → Option NodeForm
  | .add w => some { bin w 0x01 [.i32, .u32, .i16x2, .i8x4] with satOk := true, peOk := true }
  | .sub w => some { bin w 0x02 [.i32, .u32, .i16x2, .i8x4] with satOk := true, peOk := true }
  | .mul w => some { bin w 0x03 [.i32, .u32, .i16x2, .i8x4] with satOk := true, peOk := true }
  | .mulh w => some { bin w 0x04 [.i32, .u32] with peOk := true }
  | .madd w => some { ter w 0x05 [.i32, .u32] with satOk := true }
  | .div w => some { bin w 0x06 [.i32, .u32] with satOk := true, peOk := true }
  | .rem w => some { bin w 0x07 [.i32, .u32] with peOk := true }
  | .neg w => some { un w 0x08 [.i32, .i16x2, .i8x4] with satOk := true, peOk := true }
  | .abs w => some { un w 0x09 [.i32, .i16x2, .i8x4] with satOk := true, peOk := true }
  | .min w => some { bin w 0x0A [.i32, .u32, .i16x2, .i8x4] with peOk := true }
  | .max w => some { bin w 0x0B [.i32, .u32, .i16x2, .i8x4] with peOk := true }
  | .icmp w cond => some { bin w 0x0C [.i32, .u32] with low := low19 cond 0, subOk := cond < 6 }
  | .and w => some { bin w 0x0D [.i32, .pred] with peOk := true }
  | .or w => some { bin w 0x0E [.i32, .pred] with peOk := true }
  | .xor w => some { bin w 0x0F [.i32, .pred] with peOk := true }
  | .not w => some { un w 0x10 [.i32, .pred] with peOk := true }
  | .andn w => some { bin w 0x11 [.i32, .pred] with peOk := true }
  | .shl w => some { bin w 0x12 [.i32] with peOk := true }
  | .shr w => some { bin w 0x13 [.i32] with peOk := true }
  | .sra w => some { bin w 0x14 [.i32] with peOk := true }
  | .rotl w => some { bin w 0x15 [.i32] with peOk := true }
  | .clz w => some { un w 0x16 [.i32] with peOk := true }
  | .popc w => some { un w 0x17 [.i32] with peOk := true }
  | .bfx w sgn wm1 pos =>
      some { un w 0x18 [.i32] with peOk := true, low := bit16 sgn ((0 : BitVec 6) ++ wm1 ++ pos), subOk := pos.toNat + wm1.toNat ≤ 31 }
  | .bfi w wm1 pos =>
      some { bin w 0x19 [.i32] with peOk := true, low := low19 0 ((0 : BitVec 6) ++ wm1 ++ pos), subOk := pos.toNat + wm1.toNat ≤ 31 }
  | .addi w imm => some { un w 0x1A [.i32, .u32] with satOk := true, peOk := true, low := low19 0 imm }
  | .fadd w => some { bin w 0x20 [.f32, .bf16x2] with rmOk := true, peOk := true }
  | .fsub w => some { bin w 0x21 [.f32, .bf16x2] with rmOk := true, peOk := true }
  | .fmul w => some { bin w 0x22 [.f32, .bf16x2] with rmOk := true, peOk := true }
  | .fma w => some { ter w 0x23 [.f32, .bf16x2] with rmOk := true }
  | .fms w => some { ter w 0x24 [.f32, .bf16x2] with rmOk := true }
  | .fnma w => some { ter w 0x25 [.f32, .bf16x2] with rmOk := true }
  | .fmin w => some { bin w 0x26 [.f32, .bf16x2] with peOk := true }
  | .fmax w => some { bin w 0x27 [.f32, .bf16x2] with peOk := true }
  | .fabs w => some { un w 0x28 [.f32, .bf16x2] with peOk := true }
  | .fneg w => some { un w 0x29 [.f32, .bf16x2] with peOk := true }
  | .fcpsgn w => some { bin w 0x2A [.f32, .bf16x2] with peOk := true }
  | .fcmp w cond => some { bin w 0x2B [.f32] with low := low19 cond 0, subOk := cond < 7 }
  | .fclass w mask => some { un w 0x2C [.f32] with low := low19 0 ((0 : BitVec 6) ++ mask) }
  | .fdiv w => some { bin w 0x2D [.f32] with rmOk := true, peOk := true }
  | .fsqrt w => some { un w 0x2E [.f32] with rmOk := true, peOk := true }
  | .frcp w => some { un w 0x2F [.f32] with rmOk := true, peOk := true }
  | .frsqrt w => some { un w 0x30 [.f32] with rmOk := true, peOk := true }
  | .exp2f w => some { un w 0x31 [.f32] with rmOk := true, peOk := true }
  | .log2f w => some { un w 0x32 [.f32] with rmOk := true, peOk := true }
  | .ldx w => some { bin w 0x33 [.f32] with rmOk := true, peOk := true }
  | .rndi w => some { un w 0x34 [.f32] with rmOk := true }
  | .cvt w src dst =>
      some { un w 0x50 [.ctl] with
        rmOk := true, satOk := true, low := low19 0 ((0 : BitVec 8) ++ src ++ dst)
        subOk := match cvtPair src dst with
          | some (rm, s0, s1) => (w.rm == .rn || rm) && (if w.sat then s1 else s0)
          | none => false }
  | .pack w sz => some { bin w 0x51 [.ctl] with low := bit16 sz 0 }
  | .unpack w ext sz => some { un w 0x52 [.ctl] with low := low19 ((0 : BitVec 1) ++ BitVec.ofBool ext ++ BitVec.ofBool sz) 0 }
  | .perm w => some { bin w 0x60 [.ctl] with third := .may, peOk := true }
  | .bcast w lane => some { un w 0x61 [.ctl] with peOk := true, low := low19 0 ((0 : BitVec 12) ++ lane) }
  | .rsum w => some { un w 0x62 [.i32, .u32, .f32] with rmOk := w.ty == .f32, satOk := w.ty != .f32 }
  | .rmin w => some (un w 0x63 [.i32, .u32, .f32])
  | .rmax w => some (un w 0x64 [.i32, .u32, .f32])
  | .psum w => some { bin w 0x65 [.i32, .u32, .f32] with rmOk := w.ty == .f32, satOk := w.ty != .f32 }
  | .pmin w => some (bin w 0x66 [.i32, .u32, .f32])
  | .pmax w => some (bin w 0x67 [.i32, .u32, .f32])
  | .lidx w imm => some { un w 0x68 [.i32] with peOk := true, low := low19 0 imm }
  | .mcount w pfx => some { un w 0x69 [.pred] with low := bit16 pfx 0 }
  | .mov w => some (unF w 0x70 [.ctl])
  | .sel w => some { binF w 0x71 [.ctl] false with third := .must }
  | .steer w inv => some { binF w 0x72 [.ctl] true with low := bit16 inv 0 }
  | .merge w alt => some { binF w 0x73 [.ctl] false with low := bit16 alt 0 }
  | .gate w => some (binF w 0x74 [.ctl] true)
  | .dup w => some { unF w 0x75 [.ctl] with tgts := .both }
  | .sink w => some { unF w 0x76 [.ctl] with tgts := .neither }
  | .const w imm => some { unF w 0x77 [.i32, .u32, .f32] with low := low19 0 imm }
  | .seqgen w fin => some { unF w 0x78 [.i32] with low := bit16 fin 0 }
  | .tagGet w => some { unF w 0x79 [.i32] with peOk := true }
  | .tagSet w => some (binF w 0x7A [.ctl] true)
  | .spawn w => some (unF w 0x7B [.ctl])
  | .jump w block entry => some { unF w 0x7C [.ctl] with tgts := .neither, low := low19 0 (block ++ entry) }
  | .loop w inv => some { binF w 0x7D [.ctl] true with low := bit16 inv 0 }
  | .retire w free => some { unF w 0x7E [.ctl] with tgts := .neither, low := bit16 free 0 }
  | .widFld w fld => some { unF w 0x7F [.u32] with low := low19 0 ((0 : BitVec 13) ++ fld), subOk := fld < 6 }
  | .widLvl w lvl => some { unF w 0x80 [.a64] with low := low19 0 ((0 : BitVec 13) ++ lvl), subOk := lvl < 7 }
  | .ctlS w ncm1 own => some { binF w 0x81 [.ctl] false with low := low19 0 (ncm1 ++ (0 : BitVec 4) ++ own ++ (0 : BitVec 6)) }
  | .ctlP w ncm1 pm1 own => some { binF w 0x82 [.ctl] false with low := low19 0 (ncm1 ++ pm1 ++ own ++ (0 : BitVec 6)) }
  | .ctlQ w ncm1 own => some { binF w 0x83 [.ctl] false with low := low19 0 (ncm1 ++ (0 : BitVec 4) ++ own ++ (0 : BitVec 6)) }
  | .join w one vbase rbase nm1 =>
      some { unF w 0x90 [.ctl] with
        tgts := .neither, low := bit16 one (vbase ++ rbase ++ (0 : BitVec 3) ++ nm1)
        subOk := vbase.toNat + nm1.toNat + 1 ≤ 32 && rbase.toNat + nm1.toNat + 1 ≤ 16 }
  | .fenceSc w scope => some { unF w 0x91 [.ctl] with low := low19 0 (scope ++ (0 : BitVec 13)), subOk := scope < 5 }
  | .sluiceLocSnd w scope pair dm1 =>
      some { unF w 0x92 [.ctl] with
        low := low19 0 (scope ++ (0 : BitVec 1) ++ (0 : BitVec 1) ++ pair ++ dm1), subOk := 0 < scope && scope < 5 && pair == 0 }
  | .sluiceXrSnd w scope pair dm1 =>
      some { unF w 0x92 [.ctl] with
        tgts := .neither, low := low19 0 (scope ++ (1 : BitVec 1) ++ (0 : BitVec 1) ++ pair ++ dm1), subOk := 0 < scope && scope < 5 }
  | .sluiceXrRcv w scope pair dm1 =>
      some { unF w 0x92 [.ctl] with
        left := false, low := low19 0 (scope ++ (1 : BitVec 1) ++ (1 : BitVec 1) ++ pair ++ dm1), subOk := 0 < scope && scope < 5 }
  | .censusUp w imm => some { unF w 0x93 [.ctl] with low := low19 0 imm, subOk := imm != 0 }
  | .censusDn w imm => some { unF w 0x94 [.ctl] with low := low19 0 imm, subOk := imm != 0 }
  | .spld w ord blk scope =>
      some { unF w 0xA0 [.ctl] with
        peOk := !blk, low := low19 (ord ++ BitVec.ofBool blk) (scope ++ (0 : BitVec 13))
        subOk := (ord == 0 || ord == 1) && scope < 5 && (ord != 0 || scope == 0) }
  | .spst w ord blk scope =>
      some { binF w 0xA1 [.ctl] true with
        peOk := !blk, low := low19 (ord ++ BitVec.ofBool blk) (scope ++ (0 : BitVec 13))
        subOk := (ord == 0 || ord == 2) && scope < 5 && (ord != 0 || scope == 0) }
  | .spatom w ord scope atop =>
      some { binF w 0xA2 [.i32, .u32, .f32] true with
        third := if atop == 4 then .must else .no
        low := low19 (ord ++ (0 : BitVec 1)) (scope ++ atop ++ (0 : BitVec 10))
        subOk := scope < 5 && (ord != 0 || scope == 0) && atopTyOk atop w.ty }
  | .spown w => some { unF w 0xA3 [.ctl] with left := false }
  | .xlat w acc => some { unF w 0xB0 [.a64] with low := bit16 acc 0 }
  | .gaddr w => some { unF w 0xB1 [.a64] with tgts := .only 0x31 }
  | .resume w => some { unF w 0xB2 [.ctl] with tgts := .only 0x32 }
  | .balloc w => some (unF w 0xB8 [.u32])
  | .bfree w => some (unF w 0xB9 [.u32])
  | .bappend w => some (unF w 0xBA [.u32])
  | .blook w => some (unF w 0xBB [.u32])
  | .btrim w => some (unF w 0xBC [.u32])
  | .mma w => some { un w 0xC0 [.ctl] with tgts := .first 0x02 }
  | .mmaAcc w => some { un w 0xC1 [.ctl] with tgts := .first 0x02 }
  | .loadw w => some { un w 0xC2 [.ctl] with tgts := .first 0x02 }
  | .swapw w => some { un w 0xC3 [.ctl] with tgts := .first 0x02 }
  | .drain w => some { un w 0xC4 [.ctl] with tgts := .first 0x02 }
  | .zero w => some { un w 0xC5 [.ctl] with tgts := .first 0x02 }
  | .rowtag w imm => some { bin w 0xC6 [.ctl] with low := low19 0 imm }
  | .rprog w => some (un w 0xC7 [.ctl])
  | .pj w psel => some { un w 0xD0 [.f32] with tgts := .only 0x10, low := low19 psel 0 }
  | .pjp w => some { bin w 0xD1 [.f32] with tgts := .only 0x11 }
  | .pjs w aux => some { un w 0xD2 [.ctl] with low := bit16 aux 0 }
  | .pja w => some { bin w 0xD3 [.f32] with tgts := .first 0x12 }
  | .trap w code => some { unF w 0xE0 [.ctl] with peOk := true, tgts := .neither, low := low19 0 code }
  | .dtime w => some (unF w 0xE1 [.a64])
  | .tileid w => some (unF w 0xE2 [.u32])
  | .stat w => some (unF w 0xE3 [.u32])
  | _ => none

/-- The slot counts of the tile kinds (R37). -/
def Kind.slots : Kind → Nat
  | .mx => 8
  | .vx => 32
  | .sp => 16
  | .pt => 16
  | .ct => 16

/-- The opcodes each tile kind accepts (R37). -/
def opcLegal (k : Kind) (opc : BitVec 8) : Bool :=
  if opc < 0x20 then true
  else if opc < 0x70 then k == .vx
  else if opc < 0xA0 then true
  else if opc < 0xB0 then k == .sp
  else if opc < 0xC0 then k == .pt
  else if opc < 0xD0 then k == .mx
  else if opc < 0xE0 then k == .vx
  else if opc < 0xF0 then true
  else false

/-- SCOPE, GVQ, TKQ rules of a command's common fields (R28, R30). -/
def CmdHead.ok (h : CmdHead) : Bool :=
  h.scope < 5 && (h.acq || h.rel || h.scope == 0) && (h.gv || h.gvq == 0) && (h.tk || h.tkq == 0)

/-- DIE and INDEX name a PT (R28). -/
def CmdHead.isPort (h : CmdHead) : Bool := h.die < 12
/-- DIE and INDEX name a copy engine (R28). -/
def CmdHead.isEngine (h : CmdHead) : Bool := (h.die < 12 && h.index < 16) || ((h.die == 12 || h.die == 13) && h.index < 32)
/-- DIE and INDEX name an I/O-die engine (R175). -/
def CmdHead.isIoEngine (h : CmdHead) : Bool := (h.die == 12 || h.die == 13) && h.index < 32

/-- The checks of a command that its words answer (R30, R163-R186): common fields, the group of DIE and INDEX, and OPERANDS ranges that need no target state. -/
def Instr.cmdOk : Instr → Bool
  | .boardFlow h o | .boardSnap h o =>
      h.ok && h.isPort && o.etype < 9 && (o.etype != 8 || (o.offw == 0 && o.cm1 == 0)) && o.fop == 0
      && (!o.pk || (5 ≤ o.etype && o.etype ≤ 7)) && (o.win || (o.lo == 0 && o.hi == 0 && !o.early)) && (!o.win || o.lo < o.hi)
  | .fold h o =>
      h.ok && h.isPort && o.etype < 3 && o.cm1 < 16 && !o.pk && (o.win || (o.lo == 0 && o.hi == 0 && !o.early)) && (!o.win || o.lo < o.hi)
  | .gather h _ _ => h.ok && h.isPort
  | .sieve h o => h.ok && h.isPort && o.etype < 3 && o.cm1 < 15 && o.cmp < 6
  | .kvride h o =>
      h.ok && h.isPort && o.stack < 24 && (o.etype < 4 || (5 ≤ o.etype && o.etype ≤ 7)) && (!o.pk || 5 ≤ o.etype)
      && o.boff.toNat + o.blm1.toNat ≤ 1023
  | .alight h _ => h.ok && h.isPort
  | .updW h o =>
      h.ok && h.isPort && o.etype < 3 && o.offw.toNat % 16 + o.cm1.toNat ≤ 15 && o.b == 0 && (o.a &&& 0x0FFFFFFF) == 0
      && [0, 1, 3, 5, 6, 7].contains (Word.field o.a 28 4)
  | .updAdd h o | .updMax h o =>
      h.ok && h.isPort && o.etype < 3 && o.offw.toNat % 16 + o.cm1.toNat ≤ 15 && o.a == 0 && o.b == 0
  | .updScadd h o => h.ok && h.isPort && o.etype == 2 && o.offw.toNat % 16 + o.cm1.toNat ≤ 15
  | .copy h _ => h.ok && h.isEngine
  | .pagein h _ | .pageout h _ => h.ok && h.isIoEngine
  | .bseqNew h o | .bseqAddg h o | .bseqRestore h o =>
      h.ok && h.isPort && o.stack < 24 && o.g0.toNat + o.gnm1.toNat ≤ 63 && o.policy < 8
  | .bdrop h _ stack => h.ok && h.isPort && stack < 24
  | .bindStart h _ | .bindResume h _ => h.ok && h.isPort
  | .unbind h => h.ok && h.isPort
  | .eos h _ _ => h.ok && h.isPort
  | .tempo h _ _ => h.ok && h.isPort
  | .drainCmd h _ => h.ok && h.isPort
  | .fenceE h eng => h.ok && (if eng then h.isEngine else h.isPort)
  | .cfgld h _ => h.ok && h.isPort
  | .statc h _ _ => h.ok && h.isPort
  | _ => false

/-- The range rules of sequencer words that fields of the right width can still break (R32, R35). -/
def Instr.seqOk : Instr → Bool
  | .seqCset _ pos wm1 _ _ | .seqCget _ pos wm1 _ _ | .seqCclr _ pos wm1 => pos.toNat + wm1.toNat ≤ 127
  | _ => true

/-- Which of the encodings an instruction is written in. -/
inductive Layer where
  | node | seq | cmd | packet | event
  deriving DecidableEq, Repr

/-- The layer of an instruction (01, 14 R312); `event` for the rows with no encoding. -/
def Instr.layer : Instr → Layer
  | .seqAdd .. | .seqSub .. | .seqAnd .. | .seqOr .. | .seqXor .. | .seqShl .. | .seqShr .. | .seqSra .. | .seqMul .. | .seqMulh ..
  | .seqSlt .. | .seqSltu .. | .seqMin .. | .seqMax .. | .seqDiv .. | .seqRem .. | .seqAddi .. | .seqAndi .. | .seqOri .. | .seqXori ..
  | .seqShli .. | .seqShri .. | .seqSrai .. | .seqSlti .. | .seqInsh .. | .seqLd .. | .seqSt .. | .seqLdw .. | .seqStw ..
  | .seqBeq .. | .seqBne .. | .seqBlt .. | .seqBge .. | .seqBltu .. | .seqBgeu .. | .seqJ .. | .seqJal .. | .seqJr ..
  | .seqSget .. | .seqSset .. | .seqCset .. | .seqCget .. | .seqCclr .. | .seqCclrAll .. | .seqCissue ..
  | .seqTokGive .. | .seqTokTake .. | .seqTokPoll .. | .seqCfgLoad .. | .seqCfgWait .. | .seqSeed .. | .seqCensusWait ..
  | .seqLaunchTail .. | .seqWfe .. | .seqFence .. | .seqTrap .. | .seqHalt => .seq
  | .boardFlow .. | .boardSnap .. | .gather .. | .sieve .. | .fold .. | .kvride .. | .alight .. | .updW .. | .updAdd .. | .updMax ..
  | .updScadd .. | .copy .. | .pagein .. | .pageout .. | .bseqNew .. | .bseqRestore .. | .bseqAddg .. | .bdrop .. | .bindStart ..
  | .bindResume .. | .unbind .. | .eos .. | .tempo .. | .drainCmd .. | .fenceE .. | .cfgld .. | .statc .. => .cmd
  | .launch .. | .bindPacket .. | .load .. | .unload .. | .qset .. | .qsetReset .. | .ctxset .. | .reachsetStage .. | .reachsetCommit ..
  | .sched .. | .kill .. | .poolsetCreate .. | .poolsetDestroy .. | .keysetLoad .. | .keysetErase .. | .keysetPolicy ..
  | .ctxreachMap .. | .ctxreachUnmap .. | .ctxreachRole .. | .ctxreachFarpool .. => .packet
  | i => if i.nodeForm.isSome then .node else .event

/-- A well-formed instruction: what the assembler and the checks of its layer accept by the word alone (R16, R30, R35). -/
def Instr.wellFormed (i : Instr) : Bool :=
  match i.layer with
  | .node => (i.nodeForm.map NodeForm.ok).getD false
  | .seq => i.seqOk
  | .cmd => i.cmdOk
  | .packet => true
  | .event => true

end Sys2Proof
end

