-- ==== Sys2Proof/Config.lean ====
section
/-! DEFINITION. What the package is made of (00 R1-R4), and the free values: constants with no body, one for each value the spec leaves open (log 4). -/

namespace Sys2Proof

/-- Life-cycle states (R383). -/
inductive LcState where
  | manufacture | provisioned | deployed | returned
  deriving DecidableEq, Repr

end Sys2Proof

namespace Sys2Proof.Config

/-- Fabric dies (R1). -/
def dies : Nat := 12
/-- Stacks (R1). -/
def stackCount : Nat := 24
/-- Pseudo-channels of a stack (R2). -/
def pcs : Nat := 64
/-- Tiles of a die (R3). -/
def tiles : Nat := 2048
/-- Bytes of scratchpad of an SP tile (R3). -/
def scratchBytes : Nat := 524288
/-- Bytes of sequencer RAM (R187). -/
def ramBytes : Nat := 65536
/-- Units of 64 KiB of a pseudo-channel's usable space (R264). -/
def pcUnits : Nat := 22528
/-- Units of PC63 that the table reach leaves (R268). -/
def pc63Units : Nat := 21504
/-- Entries of a home map (R334). -/
def homeEntries : Nat := 65536
/-- Sequence records and leaf frames of a stack's table SRAM (R345). -/
def seqRecords : Nat := 4096
/-- Leaf frames (R345). -/
def leafFrames : Nat := 1904
/-- Pages all pools of a stack may hold (R344). -/
def poolPages : Nat := 45056
/-- The features offered on the management endpoint (R372). -/
def offered : BitVec 128 := 0x3F

/-- The tile kind at a place of a quad, by row and column (R3). -/
def quadKind (row col : Nat) : Kind :=
  match row, col with
  | 0, 0 => .pt | 0, 1 => .mx | 0, 2 => .mx | 0, 3 => .vx
  | 1, 0 => .mx | 1, 1 => .sp | 1, 2 => .vx | 1, 3 => .mx
  | 2, 0 => .vx | 2, 1 => .mx | 2, 2 => .ct | 2, 3 => .sp
  | 3, 0 => .mx | 3, 1 => .vx | 3, 2 => .sp | _, _ => .pt

/-- The kind of the tile with id y * 64 + x, absolute or relative to a quad-aligned origin (R3, R13). -/
def tileKind (tile : Nat) : Kind := quadKind ((tile / 64) % 4) ((tile % 64) % 4)

/-- FREE VALUE: whether an ML-DSA-65 signature over some bytes verifies under a key (R228, R382, R383): the spec names the algorithm and does not restate it. -/
opaque sigVerifies (key msg sig : List Byte) : Bool
/-- FREE VALUE: the SHAKE256 digest of 64 bytes of some bytes (R228, R380). -/
opaque shake256 (msg : List Byte) : BitVec 512
/-- FREE VALUE: the key that the host delivered inside the SPDM session under an index (R379). -/
opaque sessionKey (n : Nat) (kref : BitVec 32) : BitVec 512
/-- FREE VALUE: the device key drawn for slot 0 (R379). -/
opaque drawnKey (n : Nat) : BitVec 512
/-- FREE VALUE: the policy that the host delivered inside the SPDM session under an index: REQSIG, KEYIDs, PRIVKEY (R381). -/
opaque sessionPolicy (n : Nat) (kref : BitVec 32) : Bool × List (BitVec 256) × Bool
/-- FREE VALUE: which granules of a frame or far page hold new contents after an abandoned move (R367). -/
opaque abandonedMix (n granule : Nat) : Bool
/-- FREE VALUE: the bytes that a saved launch leaves in its pages of the save reach (R350): the spec gives their contents, not their layout. -/
opaque saveByte (n o : Nat) : Byte
/-- FREE VALUE: which of the CT tiles that R236 allows is the sequencer tile of a region of several: the Kueno file has no field for it. -/
opaque seqPick (handle region : Nat) : Nat
/-- FREE VALUE: the I/O-die engine the firmware chooses for a `pagein` of its own, 0-31 on X0 and 32-63 on X1 (R343). -/
opaque tierEngine (n : Nat) : Nat
/-- FREE VALUE: which bank of a pseudo-channel is its spare (R287). -/
opaque spareBank (pc : Nat) : BitVec 6
/-- FREE VALUE: DETAIL of the health events whose values R373 names without their places (kinds 2, 5, 6, 8, 10), as a function of those values. -/
opaque eventDetail (kind a b : Nat) : BitVec 128
/-- FREE VALUE: UNIT or SUB of a health event to whose kind R373 gives none. -/
opaque eventBlank (kind n : Nat) : BitVec 8
/-- FREE VALUE: the replay sequence number of a link that is fenced (R373): the spec does not say how replays are numbered. -/
opaque replayNumber (n : Nat) : Nat
/-- FREE VALUE: WORD of a CFG_PARITY record (R361, R362), which names neither slot nor unit. -/
opaque parityWord (n : Nat) : BitVec 64
/-- FREE VALUE: how a key policy is laid out when it is measured (R380). -/
opaque policyBytes (reqSig : Bool) (keyIds : List (BitVec 256)) (privKey : Bool) : List Byte
/-- FREE VALUE: the bytes of a signed life-cycle request (R383) and of the signed part of a firmware image (R382). -/
opaque requestBytes (a b : Nat) (body : List Byte) : List Byte
/-- FREE VALUE: one byte of the ML-DSA-65 signature that the device makes over a measurement response with its identity key (R228, R380). -/
opaque signByte (key : List Byte) (digests : List (BitVec 512)) (n i : Nat) : Byte
/-- The ML-DSA-65 identity key of the device (R380): fixed for a part, not given by the spec. -/
opaque identityKey : List Byte
/-- FREE VALUE: what a granule reads as after the key or the tweak it was encrypted under has been replaced (R379; log 119). -/
opaque rekeyed (n granule : Nat) (old : BitVec 512) : BitVec 512
/-- The vendor key anchored at manufacture (R382) and the authority keys of the life-cycle states (R383): fixed for a part, not given by the spec. -/
opaque vendorKey : List Byte
/-- The key of the authority of a life-cycle state (R383). -/
opaque authorityKey (s : LcState) : List Byte
/-- FREE VALUE: the payload of the fault token that a read of a bad scratchpad word delivers (R143): it names the word's address, in a layout the spec does not give. -/
opaque eccPayload (addr : Nat) : Payload

end Sys2Proof.Config
end

