-- ==== Sys2Proof/Decode.lean ====
section
/-! DEFINITION. The decoders and the encoders of the four word formats: node words (01 R15, R18, R36), sequencer words (01 R32-R35), stream commands (01 R28, R31; 06), packets (14 R312). Each decoder takes the fields of a word, and accepts the word only when its own encoding of the result is that word, so a nonzero reserved bit is never dropped. -/

namespace Sys2Proof

/-- Why a word is not an instruction (R8). -/
inductive DecodeError where
  /-- OPC, OP, FN, CMD or TYPE is reserved. -/
  | reservedOp
  /-- TY, RMODE or a target pattern is reserved (R15, R18). -/
  | reservedField
  /-- A bit that must be zero is not (R16, R35, R156, R312). -/
  | nonzeroBit
  /-- A rule of the instruction's table is broken (R16, R30, R35). -/
  | brokenRule
  /-- The `nop` word: a valid slot that never fires (R69). -/
  | nop
  deriving DecidableEq, Repr

/-! ### Fields -/

/-- The code of an operand type (R15). -/
def Ty.code : Ty → BitVec 4
  | .i32 => 0 | .u32 => 1 | .f32 => 2 | .bf16x2 => 3 | .i8x4 => 4 | .i16x2 => 5 | .sx => 6 | .pred => 7 | .ctl => 8 | .a64 => 9

/-- The operand type of a code; 10 to 15 are reserved (R15). -/
def Ty.ofCode (c : BitVec 4) : Option Ty :=
  if c == 0 then some .i32 else if c == 1 then some .u32 else if c == 2 then some .f32 else if c == 3 then some .bf16x2
  else if c == 4 then some .i8x4 else if c == 5 then some .i16x2 else if c == 6 then some .sx else if c == 7 then some .pred
  else if c == 8 then some .ctl else if c == 9 then some .a64 else none

/-- The code of a rounding mode (R15). -/
def RMode.code : RMode → BitVec 3
  | .rn => 0 | .rz => 1 | .ru => 2 | .rd => 3 | .rna => 4

/-- The rounding mode of a code; 101 to 111 are reserved (R15). -/
def RMode.ofCode (c : BitVec 3) : Option RMode :=
  if c == 0 then some .rn else if c == 1 then some .rz else if c == 2 then some .ru else if c == 3 then some .rd
  else if c == 4 then some .rna else none

/-- The code of a latch position (R18, R27). -/
def Pos.code : Pos → BitVec 2
  | .left => 0 | .right => 1 | .pred => 2

/-- The latch position of a code; 11 is reserved (R27). -/
def Pos.ofCode (c : BitVec 2) : Option Pos :=
  if c == 0 then some .left else if c == 1 then some .right else if c == 2 then some .pred else none

/-- The 12-bit pattern of a target (R18). -/
def Tgt.code : Tgt → BitVec 12
  | .latch p s => p.code ++ (0 : BitVec 5) ++ s
  | .route n => (0xC0 : BitVec 8) ++ n
  | .port p => (0xD : BitVec 4) ++ p
  | .none => 0xFFF

/-- The target of a 12-bit pattern; every other pattern is reserved (R18, R20). -/
def Tgt.ofCode (c : BitVec 12) : Option Tgt :=
  if c == 0xFFF then some .none
  else if Word.field c 4 8 == 0xC0 then some (.route (Word.field c 0 4))
  else if Word.field c 8 4 == 0xD then
    (if portDefined (Word.field c 0 8) then some (.port (Word.field c 0 8)) else Option.none)
  else if Word.field c 5 5 == 0 then (Pos.ofCode (Word.field c 10 2)).map (fun p => .latch p (Word.field c 0 5))
  else Option.none

/-! ### Node words -/

/-- The word of a node form (R15). -/
def NodeForm.word (f : NodeForm) : Word64 :=
  f.opc ++ f.op.ty.code ++ f.op.tga.code ++ f.op.tgb.code ++ BitVec.ofBool f.op.lk ++ BitVec.ofBool f.op.rk
    ++ BitVec.ofBool f.op.pn ++ BitVec.ofBool f.op.pe ++ f.op.rm.code ++ BitVec.ofBool f.op.sat ++ BitVec.ofBool f.op.pd ++ f.low

/-- The word of a node instruction. -/
def encodeNode (i : Instr) : Option Word64 := i.nodeForm.map NodeForm.word

/-- The `nop` word (R69). -/
def nopWord : Word64 := 0x008FFFFFF0000000

/-- The common fields of a node word, if none of them is reserved (R15, R16). -/
def decodeNodeOp (w : Word64) : Option NodeOp :=
  match Ty.ofCode (Word.field w 52 4), Tgt.ofCode (Word.field w 40 12), Tgt.ofCode (Word.field w 28 12), RMode.ofCode (Word.field w 21 3) with
  | some ty, some tga, some tgb, some rm =>
      some { ty := ty, tga := tga, tgb := tgb, lk := Word.bit w 27, rk := Word.bit w 26, pn := Word.bit w 25, pe := Word.bit w 24,
             rm := rm, sat := Word.bit w 20, pd := Word.bit w 19 }
  | _, _, _, _ => none

/-- The instruction an opcode names, with its SUB fields read from bits [18:0] (R36 and the family tables). -/
def nodeOfOpc (opc : BitVec 8) (w : NodeOp) (x : BitVec 19) : Option Instr :=
  match opc.toNat with
  | 0x01 => some (.add w)
  | 0x02 => some (.sub w)
  | 0x03 => some (.mul w)
  | 0x04 => some (.mulh w)
  | 0x05 => some (.madd w)
  | 0x06 => some (.div w)
  | 0x07 => some (.rem w)
  | 0x08 => some (.neg w)
  | 0x09 => some (.abs w)
  | 0x0A => some (.min w)
  | 0x0B => some (.max w)
  | 0x0C => some (.icmp w (Word.field x 16 3))
  | 0x0D => some (.and w)
  | 0x0E => some (.or w)
  | 0x0F => some (.xor w)
  | 0x10 => some (.not w)
  | 0x11 => some (.andn w)
  | 0x12 => some (.shl w)
  | 0x13 => some (.shr w)
  | 0x14 => some (.sra w)
  | 0x15 => some (.rotl w)
  | 0x16 => some (.clz w)
  | 0x17 => some (.popc w)
  | 0x18 => some (.bfx w (Word.bit x 16) (Word.field x 5 5) (Word.field x 0 5))
  | 0x19 => some (.bfi w (Word.field x 5 5) (Word.field x 0 5))
  | 0x1A => some (.addi w (Word.field x 0 16))
  | 0x20 => some (.fadd w)
  | 0x21 => some (.fsub w)
  | 0x22 => some (.fmul w)
  | 0x23 => some (.fma w)
  | 0x24 => some (.fms w)
  | 0x25 => some (.fnma w)
  | 0x26 => some (.fmin w)
  | 0x27 => some (.fmax w)
  | 0x28 => some (.fabs w)
  | 0x29 => some (.fneg w)
  | 0x2A => some (.fcpsgn w)
  | 0x2B => some (.fcmp w (Word.field x 16 3))
  | 0x2C => some (.fclass w (Word.field x 0 10))
  | 0x2D => some (.fdiv w)
  | 0x2E => some (.fsqrt w)
  | 0x2F => some (.frcp w)
  | 0x30 => some (.frsqrt w)
  | 0x31 => some (.exp2f w)
  | 0x32 => some (.log2f w)
  | 0x33 => some (.ldx w)
  | 0x34 => some (.rndi w)
  | 0x50 => some (.cvt w (Word.field x 4 4) (Word.field x 0 4))
  | 0x51 => some (.pack w (Word.bit x 16))
  | 0x52 => some (.unpack w (Word.bit x 17) (Word.bit x 16))
  | 0x60 => some (.perm w)
  | 0x61 => some (.bcast w (Word.field x 0 4))
  | 0x62 => some (.rsum w)
  | 0x63 => some (.rmin w)
  | 0x64 => some (.rmax w)
  | 0x65 => some (.psum w)
  | 0x66 => some (.pmin w)
  | 0x67 => some (.pmax w)
  | 0x68 => some (.lidx w (Word.field x 0 16))
  | 0x69 => some (.mcount w (Word.bit x 16))
  | 0x70 => some (.mov w)
  | 0x71 => some (.sel w)
  | 0x72 => some (.steer w (Word.bit x 16))
  | 0x73 => some (.merge w (Word.bit x 16))
  | 0x74 => some (.gate w)
  | 0x75 => some (.dup w)
  | 0x76 => some (.sink w)
  | 0x77 => some (.const w (Word.field x 0 16))
  | 0x78 => some (.seqgen w (Word.bit x 16))
  | 0x79 => some (.tagGet w)
  | 0x7A => some (.tagSet w)
  | 0x7B => some (.spawn w)
  | 0x7C => some (.jump w (Word.field x 4 12) (Word.field x 0 4))
  | 0x7D => some (.loop w (Word.bit x 16))
  | 0x7E => some (.retire w (Word.bit x 16))
  | 0x7F => some (.widFld w (Word.field x 0 3))
  | 0x80 => some (.widLvl w (Word.field x 0 3))
  | 0x81 => some (.ctlS w (Word.field x 13 3) (Word.field x 6 3))
  | 0x82 => some (.ctlP w (Word.field x 13 3) (Word.field x 9 4) (Word.field x 6 3))
  | 0x83 => some (.ctlQ w (Word.field x 13 3) (Word.field x 6 3))
  | 0x90 => some (.join w (Word.bit x 16) (Word.field x 11 5) (Word.field x 7 4) (Word.field x 0 4))
  | 0x91 => some (.fenceSc w (Word.field x 13 3))
  | 0x92 => if (Word.bit x 12) then (if (Word.bit x 11) then some (.sluiceXrRcv w (Word.field x 13 3) (Word.field x 4 7) (Word.field x 0 4)) else some (.sluiceXrSnd w (Word.field x 13 3) (Word.field x 4 7) (Word.field x 0 4))) else some (.sluiceLocSnd w (Word.field x 13 3) (Word.field x 4 7) (Word.field x 0 4))
  | 0x93 => some (.censusUp w (Word.field x 0 16))
  | 0x94 => some (.censusDn w (Word.field x 0 16))
  | 0xA0 => some (.spld w (Word.field x 17 2) (Word.bit x 16) (Word.field x 13 3))
  | 0xA1 => some (.spst w (Word.field x 17 2) (Word.bit x 16) (Word.field x 13 3))
  | 0xA2 => some (.spatom w (Word.field x 17 2) (Word.field x 13 3) (Word.field x 10 3))
  | 0xA3 => some (.spown w)
  | 0xB0 => some (.xlat w (Word.bit x 16))
  | 0xB1 => some (.gaddr w)
  | 0xB2 => some (.resume w)
  | 0xB8 => some (.balloc w)
  | 0xB9 => some (.bfree w)
  | 0xBA => some (.bappend w)
  | 0xBB => some (.blook w)
  | 0xBC => some (.btrim w)
  | 0xC0 => some (.mma w)
  | 0xC1 => some (.mmaAcc w)
  | 0xC2 => some (.loadw w)
  | 0xC3 => some (.swapw w)
  | 0xC4 => some (.drain w)
  | 0xC5 => some (.zero w)
  | 0xC6 => some (.rowtag w (Word.field x 0 16))
  | 0xC7 => some (.rprog w)
  | 0xD0 => some (.pj w (Word.field x 16 3))
  | 0xD1 => some (.pjp w)
  | 0xD2 => some (.pjs w (Word.bit x 16))
  | 0xD3 => some (.pja w)
  | 0xE0 => some (.trap w (Word.field x 0 16))
  | 0xE1 => some (.dtime w)
  | 0xE2 => some (.tileid w)
  | 0xE3 => some (.stat w)
  | _ => none

/-- The instruction of a node word (R16, R38). Legality in a tile's kind is the loader's (`opcLegal`). -/
def decodeNode (w : Word64) : Except DecodeError Instr :=
  if w == nopWord then .error .nop
  else
    match decodeNodeOp w with
    | none => .error .reservedField
    | some op =>
        match nodeOfOpc (Word.field w 56 8) op (Word.field w 0 19) with
        | none => .error .reservedOp
        | some i =>
            match i.nodeForm with
            | none => .error .reservedOp
            | some f => if f.word != w then .error .nonzeroBit else if f.ok then .ok i else .error .brokenRule

/-! ### Sequencer words -/

/-- R-form (R32). -/
def rForm (op : BitVec 6) (d a b : BitVec 5) (fn : BitVec 11) : BitVec 32 := op ++ d ++ a ++ b ++ fn
/-- I-form (R32). -/
def iForm (op : BitVec 6) (d a : BitVec 5) (imm : BitVec 16) : BitVec 32 := op ++ d ++ a ++ imm
/-- J-form (R32). -/
def jForm (op : BitVec 6) (off : BitVec 26) : BitVec 32 := op ++ off
/-- C-form (R32). -/
def cForm (op : BitVec 6) (c : BitVec 3) (pos : BitVec 7) (wm1 : BitVec 6) (a sub : BitVec 5) : BitVec 32 :=
  op ++ c ++ pos ++ wm1 ++ a ++ sub

/-- The word of a sequencer instruction (R32-R34, R189-R202). -/
def encodeSeq : Instr → Option (BitVec 32)
  | .seqAdd d a b => some (rForm 0x01 d a b 0)
  | .seqSub d a b => some (rForm 0x01 d a b 1)
  | .seqAnd d a b => some (rForm 0x01 d a b 2)
  | .seqOr d a b => some (rForm 0x01 d a b 3)
  | .seqXor d a b => some (rForm 0x01 d a b 4)
  | .seqShl d a b => some (rForm 0x01 d a b 5)
  | .seqShr d a b => some (rForm 0x01 d a b 6)
  | .seqSra d a b => some (rForm 0x01 d a b 7)
  | .seqMul d a b => some (rForm 0x01 d a b 8)
  | .seqMulh d a b => some (rForm 0x01 d a b 9)
  | .seqSlt d a b => some (rForm 0x01 d a b 10)
  | .seqSltu d a b => some (rForm 0x01 d a b 11)
  | .seqMin d a b => some (rForm 0x01 d a b 12)
  | .seqMax d a b => some (rForm 0x01 d a b 13)
  | .seqDiv d a b => some (rForm 0x01 d a b 14)
  | .seqRem d a b => some (rForm 0x01 d a b 15)
  | .seqAddi d a imm => some (iForm 0x02 d a imm)
  | .seqAndi d a imm => some (iForm 0x03 d a imm)
  | .seqOri d a imm => some (iForm 0x04 d a imm)
  | .seqXori d a imm => some (iForm 0x05 d a imm)
  | .seqSlti d a imm => some (iForm 0x09 d a imm)
  | .seqLd d a imm => some (iForm 0x0B d a imm)
  | .seqSt d a imm => some (iForm 0x0C d a imm)
  | .seqLdw d a imm => some (iForm 0x0D d a imm)
  | .seqStw d a imm => some (iForm 0x0E d a imm)
  | .seqBeq d a imm => some (iForm 0x10 d a imm)
  | .seqBne d a imm => some (iForm 0x11 d a imm)
  | .seqBlt d a imm => some (iForm 0x12 d a imm)
  | .seqBge d a imm => some (iForm 0x13 d a imm)
  | .seqBltu d a imm => some (iForm 0x14 d a imm)
  | .seqBgeu d a imm => some (iForm 0x15 d a imm)
  | .seqShli d a sh => some (iForm 0x06 d a ((0 : BitVec 10) ++ sh))
  | .seqShri d a sh => some (iForm 0x07 d a ((0 : BitVec 10) ++ sh))
  | .seqSrai d a sh => some (iForm 0x08 d a ((0 : BitVec 10) ++ sh))
  | .seqInsh d imm => some (iForm 0x0A d 0 imm)
  | .seqJ off => some (jForm 0x16 off)
  | .seqJal off => some (jForm 0x17 off)
  | .seqJr a => some (rForm 0x18 0 a 0 0)
  | .seqSget d n => some (iForm 0x19 d 0 n)
  | .seqSset a n => some (iForm 0x1A 0 a n)
  | .seqCset c pos wm1 a chk => some (cForm 0x20 c pos wm1 a ((BitVec.ofBool chk).setWidth 5))
  | .seqCget c pos wm1 a sx => some (cForm 0x21 c pos wm1 a ((BitVec.ofBool sx).setWidth 5))
  | .seqCclr c pos wm1 => some (cForm 0x22 c pos wm1 0 0)
  | .seqCclrAll c => some (cForm 0x22 c 0 0 0 1)
  | .seqCissue c => some (cForm 0x23 c 0 0 0 0)
  | .seqTokGive a q => some (iForm 0x28 0 a ((0 : BitVec 13) ++ q))
  | .seqTokTake d h q => some (iForm 0x29 d 0 ((0 : BitVec 12) ++ BitVec.ofBool h ++ q))
  | .seqTokPoll d q => some (iForm 0x2A d 0 ((0 : BitVec 13) ++ q))
  | .seqCfgLoad a => some (iForm 0x2C 0 a 0)
  | .seqCfgWait d => some (iForm 0x2D d 0 0)
  | .seqSeed d a => some (iForm 0x2E d a 0)
  | .seqCensusWait d => some (iForm 0x2F d 0 0)
  | .seqLaunchTail a => some (iForm 0x30 0 a 0)
  | .seqWfe d poll => some (iForm 0x31 d 0 ((0 : BitVec 15) ++ BitVec.ofBool poll))
  | .seqFence scope => some (iForm 0x32 0 0 ((0 : BitVec 13) ++ scope))
  | .seqTrap code => some (iForm 0x33 0 0 code)
  | .seqHalt => some (iForm 0x34 0 0 0)
  | _ => none

/-- The instruction an OP and FN name, with its fields (R33, R34); `none` where they are reserved. -/
def seqOfOp (w : BitVec 32) : Option Instr :=
  let d := Word.field w 21 5
  let a := Word.field w 16 5
  let b := Word.field w 11 5
  let imm := Word.field w 0 16
  let c := Word.field w 23 3
  let pos := Word.field w 16 7
  let wm1 := Word.field w 10 6
  let ca := Word.field w 5 5
  match (Word.field w 26 6).toNat with
  | 0x01 =>
      match (Word.field w 0 11).toNat with
      | 0 => some (.seqAdd d a b)
      | 1 => some (.seqSub d a b)
      | 2 => some (.seqAnd d a b)
      | 3 => some (.seqOr d a b)
      | 4 => some (.seqXor d a b)
      | 5 => some (.seqShl d a b)
      | 6 => some (.seqShr d a b)
      | 7 => some (.seqSra d a b)
      | 8 => some (.seqMul d a b)
      | 9 => some (.seqMulh d a b)
      | 10 => some (.seqSlt d a b)
      | 11 => some (.seqSltu d a b)
      | 12 => some (.seqMin d a b)
      | 13 => some (.seqMax d a b)
      | 14 => some (.seqDiv d a b)
      | 15 => some (.seqRem d a b)
      | _ => none
  | 0x02 => some (.seqAddi d a imm)
  | 0x03 => some (.seqAndi d a imm)
  | 0x04 => some (.seqOri d a imm)
  | 0x05 => some (.seqXori d a imm)
  | 0x06 => some (.seqShli d a (Word.field w 0 6))
  | 0x07 => some (.seqShri d a (Word.field w 0 6))
  | 0x08 => some (.seqSrai d a (Word.field w 0 6))
  | 0x09 => some (.seqSlti d a imm)
  | 0x0A => some (.seqInsh d imm)
  | 0x0B => some (.seqLd d a imm)
  | 0x0C => some (.seqSt d a imm)
  | 0x0D => some (.seqLdw d a imm)
  | 0x0E => some (.seqStw d a imm)
  | 0x10 => some (.seqBeq d a imm)
  | 0x11 => some (.seqBne d a imm)
  | 0x12 => some (.seqBlt d a imm)
  | 0x13 => some (.seqBge d a imm)
  | 0x14 => some (.seqBltu d a imm)
  | 0x15 => some (.seqBgeu d a imm)
  | 0x16 => some (.seqJ (Word.field w 0 26))
  | 0x17 => some (.seqJal (Word.field w 0 26))
  | 0x18 => some (.seqJr a)
  | 0x19 => some (.seqSget d imm)
  | 0x1A => some (.seqSset a imm)
  | 0x20 => some (.seqCset c pos wm1 ca (Word.bit w 0))
  | 0x21 => some (.seqCget c pos wm1 ca (Word.bit w 0))
  | 0x22 => if Word.bit w 0 then some (.seqCclrAll c) else some (.seqCclr c pos wm1)
  | 0x23 => some (.seqCissue c)
  | 0x28 => some (.seqTokGive a (Word.field w 0 3))
  | 0x29 => some (.seqTokTake d (Word.bit w 3) (Word.field w 0 3))
  | 0x2A => some (.seqTokPoll d (Word.field w 0 3))
  | 0x2C => some (.seqCfgLoad a)
  | 0x2D => some (.seqCfgWait d)
  | 0x2E => some (.seqSeed d a)
  | 0x2F => some (.seqCensusWait d)
  | 0x30 => some (.seqLaunchTail a)
  | 0x31 => some (.seqWfe d (Word.bit w 0))
  | 0x32 => some (.seqFence (Word.field w 0 3))
  | 0x33 => some (.seqTrap imm)
  | 0x34 => some (.seqHalt)
  | _ => none

/-- The instruction of a sequencer word (R35). -/
def decodeSeq (w : BitVec 32) : Except DecodeError Instr :=
  match seqOfOp w with
  | none => .error .reservedOp
  | some i => if encodeSeq i != some w then .error .nonzeroBit else if i.seqOk then .ok i else .error .brokenRule

/-! ### Stream commands -/

/-- Bits [127:96] of a command (R28). -/
def CmdHead.word (cmd : BitVec 7) (h : CmdHead) : BitVec 32 :=
  cmd ++ BitVec.ofBool h.acq ++ BitVec.ofBool h.rel ++ BitVec.ofBool h.gv ++ BitVec.ofBool h.tk ++ h.scope ++ h.gvq ++ h.tkq ++ h.die ++ h.index

/-- The common fields of a command (R28). -/
def decodeHead (w : Word128) : CmdHead :=
  { acq := Word.bit w 120, rel := Word.bit w 119, gv := Word.bit w 118, tk := Word.bit w 117, scope := Word.field w 114 3,
    gvq := Word.field w 111 3, tkq := Word.field w 108 3, die := Word.field w 104 4, index := Word.field w 96 8 }

/-- OPERANDS of R163. -/
def RideOps.word (o : RideOps) : BitVec 96 :=
  o.reach ++ o.rid ++ o.ort ++ BitVec.ofBool o.win ++ BitVec.ofBool o.early ++ o.etype ++ o.offw ++ o.cm1 ++ o.fop
    ++ BitVec.ofBool o.pk ++ (0 : BitVec 1) ++ o.lo ++ o.hi
/-- OPERANDS of R166. -/
def SieveOps.word (o : SieveOps) : BitVec 96 :=
  o.reach ++ o.rid ++ o.ort ++ (0 : BitVec 2) ++ o.etype ++ o.offw ++ o.cm1 ++ o.cmp ++ (0 : BitVec 25) ++ o.k
/-- OPERANDS of R169. -/
def KvOps.word (o : KvOps) : BitVec 96 :=
  o.seqid ++ o.group ++ o.stack ++ o.rid ++ o.ort ++ o.etype ++ BitVec.ofBool o.pk ++ o.first ++ o.nm1 ++ o.boff ++ o.blm1 ++ (0 : BitVec 4)
/-- OPERANDS of R171. -/
def UpdOps.word (o : UpdOps) : BitVec 96 := o.reach ++ o.etype ++ o.offw ++ o.cm1 ++ o.ntm1 ++ o.a ++ o.b
/-- OPERANDS of R174. -/
def CopyOps.word (o : CopyOps) : BitVec 96 := o.sreach ++ o.dreach ++ o.slo ++ o.dlo ++ o.nm1 ++ (0 : BitVec 16)
/-- OPERANDS of R175. -/
def PageOps.word (o : PageOps) : BitVec 96 := o.vpn ++ o.fpool ++ o.fpage ++ (0 : BitVec 13)
/-- OPERANDS of R177 with MODE. -/
def BseqOps.word (o : BseqOps) (mode : BitVec 2) : BitVec 96 :=
  o.seqid ++ o.stack ++ o.pool ++ mode ++ o.g0 ++ o.gnm1 ++ o.policy ++ (0 : BitVec 41)
/-- OPERANDS of R179 with MODE. -/
def BindOps.word (o : BindOps) (mode : BitVec 2) : BitVec 96 := o.base ++ mode ++ o.stile ++ o.sslot ++ (0 : BitVec 22)

/-- OPERANDS of a BIND packet or a `bind` command (R179, R328). -/
def decodeBind (x : BitVec 96) : BindOps × BitVec 2 :=
  ({ base := Word.field x 40 56, stile := Word.field x 27 11, sslot := Word.field x 22 5 }, Word.field x 38 2)

/-- The word of a stream command (R28, R31, R163-R186). -/
def encodeCmd : Instr → Option Word128
  | .boardFlow h o => some (h.word 0x00 ++ o.word)
  | .boardSnap h o => some (h.word 0x01 ++ o.word)
  | .gather h rid ort => some (h.word 0x02 ++ ((0 : BitVec 4) ++ rid ++ ort ++ (0 : BitVec 80)))
  | .sieve h o => some (h.word 0x03 ++ o.word)
  | .fold h o => some (h.word 0x04 ++ o.word)
  | .kvride h o => some (h.word 0x05 ++ o.word)
  | .alight h rid => some (h.word 0x06 ++ ((0 : BitVec 4) ++ rid ++ (0 : BitVec 84)))
  | .updW h o => some (h.word 0x10 ++ o.word)
  | .updAdd h o => some (h.word 0x11 ++ o.word)
  | .updMax h o => some (h.word 0x12 ++ o.word)
  | .updScadd h o => some (h.word 0x13 ++ o.word)
  | .copy h o => some (h.word 0x18 ++ o.word)
  | .pagein h o => some (h.word 0x19 ++ o.word)
  | .pageout h o => some (h.word 0x1A ++ o.word)
  | .bseqNew h o => some (h.word 0x20 ++ o.word 0)
  | .bseqRestore h o => some (h.word 0x20 ++ o.word 1)
  | .bseqAddg h o => some (h.word 0x20 ++ o.word 2)
  | .bdrop h seqid stack => some (h.word 0x21 ++ (seqid ++ stack ++ (0 : BitVec 71)))
  | .bindStart h o => some (h.word 0x28 ++ o.word 0)
  | .bindResume h o => some (h.word 0x28 ++ o.word 1)
  | .unbind h => some (h.word 0x29 ++ (0 : BitVec 96))
  | .eos h ort tag => some (h.word 0x2A ++ ((0 : BitVec 76) ++ ort ++ tag))
  | .tempo h round rmask => some (h.word 0x30 ++ ((0 : BitVec 48) ++ round ++ rmask))
  | .drainCmd h rmask => some (h.word 0x31 ++ ((0 : BitVec 80) ++ rmask))
  | .fenceE h eng => some (h.word 0x32 ++ ((0 : BitVec 95) ++ BitVec.ofBool eng))
  | .cfgld h block => some (h.word 0x33 ++ ((0 : BitVec 84) ++ block))
  | .statc h reach seg => some (h.word 0x34 ++ (reach ++ seg ++ (0 : BitVec 68)))
  | _ => none

/-- The command a CMD names, with its fields (R31); `none` where CMD or MODE is reserved. -/
def cmdOfCode (w : Word128) : Option Instr :=
  let h := decodeHead w
  let x : BitVec 96 := Word.field w 0 96
  let ride : RideOps :=
    { reach := Word.field x 92 4, rid := Word.field x 84 8, ort := Word.field x 80 4, win := Word.bit x 79, early := Word.bit x 78,
      etype := Word.field x 74 4, offw := Word.field x 64 10, cm1 := Word.field x 52 12, fop := Word.field x 50 2, pk := Word.bit x 49,
      lo := Word.field x 24 24, hi := Word.field x 0 24 }
  let upd : UpdOps :=
    { reach := Word.field x 92 4, etype := Word.field x 88 4, offw := Word.field x 78 10, cm1 := Word.field x 74 4,
      ntm1 := Word.field x 64 10, a := Word.field x 32 32, b := Word.field x 0 32 }
  let page : PageOps := { vpn := Word.field x 61 35, fpool := Word.field x 45 16, fpage := Word.field x 13 32 }
  let bseq : BseqOps :=
    { seqid := Word.field x 76 20, stack := Word.field x 71 5, pool := Word.field x 59 12, g0 := Word.field x 51 6,
      gnm1 := Word.field x 45 6, policy := Word.field x 41 4 }
  match (Word.field w 121 7).toNat with
  | 0x00 => some (.boardFlow h ride)
  | 0x01 => some (.boardSnap h ride)
  | 0x02 => some (.gather h (Word.field x 84 8) (Word.field x 80 4))
  | 0x03 => some (.sieve h
      { reach := Word.field x 92 4, rid := Word.field x 84 8, ort := Word.field x 80 4, etype := Word.field x 74 4,
        offw := Word.field x 64 10, cm1 := Word.field x 60 4, cmp := Word.field x 57 3, k := Word.field x 0 32 })
  | 0x04 => some (.fold h ride)
  | 0x05 => some (.kvride h
      { seqid := Word.field x 76 20, group := Word.field x 70 6, stack := Word.field x 65 5, rid := Word.field x 57 8,
        ort := Word.field x 53 4, etype := Word.field x 49 4, pk := Word.bit x 48, first := Word.field x 36 12,
        nm1 := Word.field x 24 12, boff := Word.field x 14 10, blm1 := Word.field x 4 10 })
  | 0x06 => some (.alight h (Word.field x 84 8))
  | 0x10 => some (.updW h upd)
  | 0x11 => some (.updAdd h upd)
  | 0x12 => some (.updMax h upd)
  | 0x13 => some (.updScadd h upd)
  | 0x18 => some (.copy h
      { sreach := Word.field x 92 4, dreach := Word.field x 88 4, slo := Word.field x 64 24, dlo := Word.field x 40 24, nm1 := Word.field x 16 24 })
  | 0x19 => some (.pagein h page)
  | 0x1A => some (.pageout h page)
  | 0x20 =>
      match (Word.field x 57 2).toNat with
      | 0 => some (.bseqNew h bseq)
      | 1 => some (.bseqRestore h bseq)
      | 2 => some (.bseqAddg h bseq)
      | _ => none
  | 0x21 => some (.bdrop h (Word.field x 76 20) (Word.field x 71 5))
  | 0x28 =>
      match (Word.field x 38 2).toNat with
      | 0 => some (.bindStart h (decodeBind x).1)
      | 1 => some (.bindResume h (decodeBind x).1)
      | _ => none
  | 0x29 => some (.unbind h)
  | 0x2A => some (.eos h (Word.field x 16 4) (Word.field x 0 16))
  | 0x30 => some (.tempo h (Word.field x 16 32) (Word.field x 0 16))
  | 0x31 => some (.drainCmd h (Word.field x 0 16))
  | 0x32 => some (.fenceE h (Word.bit x 0))
  | 0x33 => some (.cfgld h (Word.field x 0 12))
  | 0x34 => some (.statc h (Word.field x 92 4) (Word.field x 68 24))
  | _ => none

/-- The instruction of a stream command (R30, R31). -/
def decodeCmd (w : Word128) : Except DecodeError Instr :=
  match cmdOfCode w with
  | none => .error .reservedOp
  | some i => if encodeCmd i != some w then .error .nonzeroBit else if i.cmdOk then .ok i else .error .brokenRule

/-- A CMD value the map assigns (R31). -/
def cmdDefined (c : BitVec 7) : Bool :=
  [0x00, 0x01, 0x02, 0x03, 0x04, 0x05, 0x06, 0x10, 0x11, 0x12, 0x13, 0x18, 0x19, 0x1A, 0x20, 0x21, 0x28, 0x29, 0x2A, 0x30, 0x31, 0x32, 0x33,
   0x34].contains c

/-- DIE and INDEX name a port or engine of the command's group (R28, R30, R184). -/
def cmdGroupOk (w : Word128) : Bool :=
  let h := decodeHead w
  let c : BitVec 7 := Word.field w 121 7
  if c == 0x18 then h.isEngine
  else if c == 0x19 || c == 0x1A then h.isIoEngine
  else if c == 0x32 then (if Word.bit w 0 then h.isEngine else h.isPort)
  else h.isPort

/-- The four checks the sequencer makes at the `cissue` word (R30). -/
def cmdSequencerChecks (w : Word128) : Bool := cmdDefined (Word.field w 121 7) && (decodeHead w).ok && cmdGroupOk w

/-! ### Packets -/

/-- Why a packet is turned away before its own checks (R312). -/
inductive PacketError where
  | badType
  | badReq
  deriving DecidableEq, Repr

/-- A little-endian operand of `n` bytes at byte offset `o` (R312). -/
def pk (p : Packet) (o n : Nat) : BitVec (8 * n) := p.extractLsb' (8 * o) (8 * n)

/-- The operand bytes of a packet at their offsets. -/
def pkPut {w : Nat} (o : Nat) (v : BitVec w) : Packet := v.setWidth 1024 <<< (8 * o)

/-- The rectangles of a CTXSET packet, one 32-bit word each (R312). -/
def pkRects (p : Packet) (n : Nat) : List (BitVec 32) := (List.range n).map (fun k => pk p (0x10 + 4 * k) 4)

/-- The packet of a packet instruction (R312, R332, R344, R379). -/
def encodePacket : Instr → Option Packet
  | .launch p => some p
  | .bindPacket tq ticket ops region tile =>
      some (pkPut 0 (0x02 : BitVec 8) ||| pkPut 0x02 tq ||| pkPut 0x08 ticket ||| pkPut 0x10 ops ||| pkPut 0x1C region ||| pkPut 0x1E tile)
  | .load addr len ctx => some (pkPut 0 (0x03 : BitVec 8) ||| pkPut 0x08 addr ||| pkPut 0x10 len ||| pkPut 0x14 ctx)
  | .unload handle => some (pkPut 0 (0x04 : BitVec 8) ||| pkPut 0x04 handle)
  | .qset tq ctx ring entries flags | .qsetReset tq ctx ring entries flags =>
      some (pkPut 0 (0x05 : BitVec 8) ||| pkPut 0x04 tq ||| pkPut 0x06 ctx ||| pkPut 0x08 ring ||| pkPut 0x10 entries ||| pkPut 0x14 flags)
  | .ctxset ctx slice rects =>
      some (pkPut 0 (0x06 : BitVec 8) ||| pkPut 0x04 ctx ||| pkPut 0x08 slice ||| pkPut 0x0C (BitVec.ofNat 8 rects.length)
        ||| (List.range rects.length).foldr (fun k acc => pkPut (0x10 + 4 * k) (rects.getD k 0) ||| acc) 0)
  | .reachsetStage stack pc slot entry =>
      some (pkPut 0 (0x07 : BitVec 8) ||| pkPut 0x04 stack ||| pkPut 0x05 pc ||| pkPut 0x06 slot ||| pkPut 0x10 entry)
  | .reachsetCommit stack pc slot entry =>
      some (pkPut 0 (0x07 : BitVec 8) ||| pkPut 1 (1 : BitVec 8) ||| pkPut 0x04 stack ||| pkPut 0x05 pc ||| pkPut 0x06 slot ||| pkPut 0x10 entry)
  | .sched policy => some (pkPut 0 (0x08 : BitVec 8) ||| pkPut 0x04 policy)
  | .kill ctx => some (pkPut 0 (0x09 : BitVec 8) ||| pkPut 0x04 ctx)
  | .poolsetCreate ctx stack pool npages vpn =>
      some (pkPut 0 (0x0A : BitVec 8) ||| pkPut 0x04 ctx ||| pkPut 0x06 stack ||| pkPut 0x08 pool ||| pkPut 0x0C npages ||| pkPut 0x10 vpn)
  | .poolsetDestroy ctx stack pool npages vpn =>
      some (pkPut 0 (0x0A : BitVec 8) ||| pkPut 0x04 ctx ||| pkPut 0x06 stack ||| pkPut 0x07 (1 : BitVec 8) ||| pkPut 0x08 pool ||| pkPut 0x0C npages
        ||| pkPut 0x10 vpn)
  | .keysetLoad ctx stack slot kref =>
      some (pkPut 0 (0x0B : BitVec 8) ||| pkPut 0x04 ctx ||| pkPut 0x06 stack ||| pkPut 0x07 slot ||| pkPut 0x0C kref)
  | .keysetErase ctx stack slot kref =>
      some (pkPut 0 (0x0B : BitVec 8) ||| pkPut 0x04 ctx ||| pkPut 0x06 stack ||| pkPut 0x07 slot ||| pkPut 0x08 (1 : BitVec 8) ||| pkPut 0x0C kref)
  | .keysetPolicy ctx stack slot kref =>
      some (pkPut 0 (0x0B : BitVec 8) ||| pkPut 0x04 ctx ||| pkPut 0x06 stack ||| pkPut 0x07 slot ||| pkPut 0x08 (2 : BitVec 8) ||| pkPut 0x0C kref)
  | .ctxreachMap ctx vpn npages first ffirst fpool crn flags =>
      some (pkPut 0 (0x0C : BitVec 8) ||| pkPut 0x04 ctx ||| pkPut 0x08 vpn ||| pkPut 0x10 npages ||| pkPut 0x14 first ||| pkPut 0x18 ffirst
        ||| pkPut 0x1C fpool ||| pkPut 0x1E crn ||| pkPut 0x1F flags)
  | .ctxreachUnmap ctx vpn npages =>
      some (pkPut 0 (0x0C : BitVec 8) ||| pkPut 0x04 ctx ||| pkPut 0x06 (1 : BitVec 8) ||| pkPut 0x08 vpn ||| pkPut 0x10 npages)
  | .ctxreachRole ctx crn role =>
      some (pkPut 0 (0x0C : BitVec 8) ||| pkPut 0x04 ctx ||| pkPut 0x06 (2 : BitVec 8) ||| pkPut 0x08 crn ||| pkPut 0x09 role)
  | .ctxreachFarpool ctx fpool fpages fep fbase =>
      some (pkPut 0 (0x0C : BitVec 8) ||| pkPut 0x04 ctx ||| pkPut 0x06 (3 : BitVec 8) ||| pkPut 0x08 fpool ||| pkPut 0x0C fpages ||| pkPut 0x10 fep
        ||| pkPut 0x18 fbase)
  | _ => none

/-- The packet a TYPE (and OP) names, with its operands (R312); an OP the table does not list is BADREQ. -/
def packetOfType (p : Packet) : Except PacketError Instr :=
  match (pk p 0 1).toNat with
  | 0x01 => .ok (.launch p)
  | 0x02 => .ok (.bindPacket (pk p 0x02 2) (pk p 0x08 8) (pk p 0x10 12) (pk p 0x1C 1) (pk p 0x1E 2))
  | 0x03 => .ok (.load (pk p 0x08 8) (pk p 0x10 4) (pk p 0x14 2))
  | 0x04 => .ok (.unload (pk p 0x04 4))
  | 0x05 =>
      if Word.bit (pk p 0x14 1) 2 then .ok (.qsetReset (pk p 4 2) (pk p 6 2) (pk p 8 8) (pk p 0x10 4) (pk p 0x14 1))
      else .ok (.qset (pk p 4 2) (pk p 6 2) (pk p 8 8) (pk p 0x10 4) (pk p 0x14 1))
  | 0x06 => .ok (.ctxset (pk p 4 2) (pk p 8 4) (pkRects p (pk p 0x0C 1).toNat))
  | 0x07 =>
      if Word.bit (pk p 1 1) 0 then .ok (.reachsetCommit (pk p 4 1) (pk p 5 1) (pk p 6 1) (pk p 0x10 16))
      else .ok (.reachsetStage (pk p 4 1) (pk p 5 1) (pk p 6 1) (pk p 0x10 16))
  | 0x08 => .ok (.sched (pk p 4 1))
  | 0x09 => .ok (.kill (pk p 4 2))
  | 0x0A =>
      match (pk p 7 1).toNat with
      | 0 => .ok (.poolsetCreate (pk p 4 2) (pk p 6 1) (pk p 8 2) (pk p 0x0C 4) (pk p 0x10 8))
      | 1 => .ok (.poolsetDestroy (pk p 4 2) (pk p 6 1) (pk p 8 2) (pk p 0x0C 4) (pk p 0x10 8))
      | _ => .error .badReq
  | 0x0B =>
      match (pk p 8 1).toNat with
      | 0 => .ok (.keysetLoad (pk p 4 2) (pk p 6 1) (pk p 7 1) (pk p 0x0C 4))
      | 1 => .ok (.keysetErase (pk p 4 2) (pk p 6 1) (pk p 7 1) (pk p 0x0C 4))
      | 2 => .ok (.keysetPolicy (pk p 4 2) (pk p 6 1) (pk p 7 1) (pk p 0x0C 4))
      | _ => .error .badReq
  | 0x0C =>
      match (pk p 6 1).toNat with
      | 0 => .ok (.ctxreachMap (pk p 4 2) (pk p 8 8) (pk p 0x10 4) (pk p 0x14 4) (pk p 0x18 4) (pk p 0x1C 2) (pk p 0x1E 1) (pk p 0x1F 1))
      | 1 => .ok (.ctxreachUnmap (pk p 4 2) (pk p 8 8) (pk p 0x10 4))
      | 2 => .ok (.ctxreachRole (pk p 4 2) (pk p 8 1) (pk p 9 1))
      | 3 => .ok (.ctxreachFarpool (pk p 4 2) (pk p 8 2) (pk p 0x0C 4) (pk p 0x10 8) (pk p 0x18 8))
      | _ => .error .badReq
  | _ => .error .badType

/-- The instruction of a packet (R312): every byte that is not named must be zero, and NRECT lies in 1-8. A LAUNCH packet's reserved bytes are 0x16-0x17 and 0x1E-0x1F (R317). -/
def decodePacket (p : Packet) : Except PacketError Instr :=
  match packetOfType p with
  | .error e => .error e
  | .ok (.launch p) => if pk p 0x16 2 == 0 && pk p 0x1E 2 == 0 then .ok (.launch p) else .error .badReq
  | .ok (.ctxset ctx slice rects) =>
      if encodePacket (.ctxset ctx slice rects) == some p && 1 ≤ rects.length && rects.length ≤ 8 then .ok (.ctxset ctx slice rects)
      else .error .badReq
  | .ok i => if encodePacket i == some p then .ok i else .error .badReq

/-! ### One encoder, and the host's words -/

/-- A word of one of the four encodings. -/
inductive Code where
  | node (w : Word64)
  | seq (w : BitVec 32)
  | cmd (w : Word128)
  | packet (p : Packet)
  deriving DecidableEq, Repr

/-- The word of an instruction; `none` for the events, which have no encoding. -/
def encode (i : Instr) : Option Code :=
  match i.layer with
  | .node => (encodeNode i).map .node
  | .seq => (encodeSeq i).map .seq
  | .cmd => (encodeCmd i).map .cmd
  | .packet => (encodePacket i).map .packet
  | .event => none

/-- The instruction of a word of the three layers (01). -/
def decode : Code → Option Instr
  | .node w => (decodeNode w).toOption
  | .seq w => (decodeSeq w).toOption
  | .cmd w => (decodeCmd w).toOption
  | .packet p => match decodePacket p with
      | .ok i => some i
      | .error _ => none

/-- The instruction the decoder reads from a word numbered as the opcode table numbers it. A row of at most 32 bits is a sequencer word, one of 33 to 64 bits a node word, one of 65 to 128 bits a stream command (R11): bit 0 is the least significant bit in each. -/
def decodeTableWord (nbits w : Nat) : Option Instr :=
  if nbits ≤ 32 then (decodeSeq (BitVec.ofNat 32 w)).toOption
  else if nbits ≤ 64 then (decodeNode (BitVec.ofNat 64 w)).toOption
  else if nbits ≤ 128 then (decodeCmd (BitVec.ofNat 128 w)).toOption
  else none

end Sys2Proof
end

