-- ==== Sys2Proof/Machine/Map.lean ====
section
/-! DEFINITION. Finite maps from naturals as plain data: lists of key and value pairs with rising keys. A key that is not listed stands for the reset value, which each reader names. -/

namespace Sys2Proof.Machine

/-- A map from naturals: pairs in rising order of their keys. -/
abbrev Map (α : Type) := List (Nat × α)

namespace Map

/-- The value listed under a key. -/
def get? {α : Type} : Map α → Nat → Option α
  | [], _ => none
  | (k, v) :: m, i => if k == i then some v else get? m i

/-- The value under a key, or the value every unlisted key has. -/
def getD {α : Type} (m : Map α) (i : Nat) (d : α) : α := (get? m i).getD d

/-- List a value under a key, in order. -/
def put {α : Type} : Map α → Nat → α → Map α
  | [], i, x => [(i, x)]
  | (k, v) :: m, i, x =>
      if i < k then (i, x) :: (k, v) :: m
      else if k == i then (i, x) :: m
      else (k, v) :: put m i x

/-- Take a key out of the list. -/
def del {α : Type} : Map α → Nat → Map α
  | [], _ => []
  | (k, v) :: m, i => if k == i then del m i else (k, v) :: del m i

/-- Change the value under a key; an unlisted key starts from the given value. -/
def upd {α : Type} (m : Map α) (i : Nat) (d : α) (f : α → α) : Map α := put m i (f (getD m i d))

/-- Whether a key is listed. -/
def has {α : Type} (m : Map α) (i : Nat) : Bool := (get? m i).isSome

/-- The listed keys. -/
def keys {α : Type} (m : Map α) : List Nat := m.map Prod.fst

/-- The listed values. -/
def vals {α : Type} (m : Map α) : List α := m.map Prod.snd

/-- Change every listed value. -/
def mapV {α : Type} (m : Map α) (f : Nat → α → α) : Map α := m.map (fun kv => (kv.1, f kv.1 kv.2))

/-- Keep the entries that pass a test. -/
def keep {α : Type} (m : Map α) (p : Nat → α → Bool) : Map α := m.filter (fun kv => p kv.1 kv.2)

/-- List every entry of another map. -/
def putAll {α : Type} (m n : Map α) : Map α := n.foldl (fun (a : Map α) kv => put a kv.1 kv.2) m

/-- The least natural that is not listed and below a bound, looking from `i` up for `n` keys. -/
def lowestFree {α : Type} (m : Map α) : Nat → Nat → Option Nat
  | 0, _ => none
  | n + 1, i => if has m i then lowestFree m n (i + 1) else some i

end Map
end Sys2Proof.Machine
end

