-- ==== Sys2Proof/Machine/State.lean ====
section
/-! DEFINITION. The state of the machine: everything the spec gives it, as plain data (INVENTORY.md, State), and the state after reset (19 R384). Fields that are the model's own are named so. -/

namespace Sys2Proof.Machine

/-! ### Tokens -/

/-- Token types, in the order of their codes 000 to 111 (R41). -/
inductive TT where
  | data | scale | control | tempo | drain | eos | fault | resume
  deriving DecidableEq, Repr

/-- A token: its header and its payload (R41). The other fields are the model's own: `hb`, the accesses without a completion token that the firings before it have initiated; `acc`, the access it initiates itself (R289, R290); `wr`, the access kind that the elements of a fault token were translated for (R340); `ride`, the ride that sent it (R273). -/
structure Tok where
  tt  : TT := .data
  vc  : BitVec 5 := 0
  seq : BitVec 8 := 0
  tag : Tag := 0
  pay : Payload := 0
  hb  : List Nat := []
  acc : Option Nat := none
  wr  : Bool := false
  ride : Option Nat := none
  deriving DecidableEq, Repr

/-- A token on its way into a latch or a unit port, with what the node or decoder that feeds a port adds to it: a second operand (`pja`, `pjp`), a selector (`pj`), the target of adjoint rows (`pja`), the scale words of a packed token (R53, R114, R116); at `pt.g`, the tempo round in which it arrived (R303). -/
structure Parcel where
  tok    : Tok
  aux    : Option Payload := none
  psel   : Option (BitVec 3) := none
  via    : Tgt := .none
  scales : List (BitVec 16) := []
  round  : Nat := 0
  deriving DecidableEq, Repr

/-- A parcel and the target it leaves for. -/
structure Emit where
  dst    : Tgt
  parcel : Parcel
  deriving DecidableEq, Repr

/-! ### Places and agents -/

/-- A PT's command queue or a copy engine (R157); an I/O die is die 12 or 13. -/
inductive Station where
  | port (k : TileKey)
  | engine (die idx : Nat)
  deriving DecidableEq, Repr

/-- A place a token or a parcel leaves: a hop of a route, a channel's decoded output, a slot's pending output, a tile's unit, a port's delivery buffer, a sluice window (R21, R53, R58, R138). -/
inductive Place where
  | hop (k : TileKey) (route hop : Nat)
  | chan (k : TileKey) (vc : Nat)
  | slot (k : TileKey) (n : Nat)
  | mx (k : TileKey)
  | pj (k : TileKey)
  | ride (cmd : Nat)
  | sluice (region pair : Nat)
  deriving DecidableEq, Repr

/-- An operation on a device register that has no row of its own (R313, R363, R370, R373, R378). `writeOther` and `readOther` are writes and reads of a queue's registers that R313 does not allow, `otherAtomic` any atomic but those of QRES and QCOMMIT. -/
inductive RegOp where
  | slot (q i : Nat) (p : Packet)
  | writeOther (q : Nat)
  | readOther (q : Nat)
  | otherAtomic (q : Nat)
  | readQhead (q : Nat)
  | readQtick (q i : Nat)
  | readQstamp (q i : Nat)
  | tqctl (q ctx : Nat) (v : BitVec 64)
  | tqReadOnly (q ctx : Nat)
  | readTqstat (q ctx : Nat)
  | readTqctl (q ctx : Nat)
  | readTqentry (q ctx k : Nat)
  | readTqres (q ctx : Nat)
  | readTqact (q ctx : Nat)
  | eventRing (addr : BitVec 64) (entries : BitVec 32)
  | readCorrected (memory : Nat)
  deriving DecidableEq, Repr

/-- What a network response does (R316, R342). -/
inductive NetAck where
  | page (cmd : Nat)
  | pageFailed (cmd : Nat)
  | load (q : Nat)
  | loadFailed (q : Nat)
  deriving DecidableEq, Repr

/-- A firmware image offered on the management endpoint with its update's parameters: the canary queues, the window in seconds, and the limits of the watch: trap records in one second, nanoseconds from commit arrival to start, nanoseconds without a phase end (R382). -/
structure FwImage where
  version  : BitVec 32
  svn      : BitVec 32
  body     : List Byte
  sig      : List Byte
  queues   : List Nat
  windowS  : Nat
  maxTraps : Nat
  maxStart : Nat
  maxRun   : Nat
  deriving DecidableEq, Repr

/-- The model's own: which agent acts, and where, with its input from outside. An instruction acts at the agent in focus. A slot named as `pipe` fires with a latency: its results stay in its pipe and leave later (R58, R61). A link is named with its lane, whether a retransmitted flit fails, and the flits it has carried since its last event (R374). -/
inductive Agent where
  | idle
  | seq (k : TileKey)
  | fifo (k : TileKey) (q : Nat)
  | slot (k : TileKey) (n : Nat)
  | pipe (k : TileKey) (n : Nat)
  | tile (k : TileKey)
  | port (k : TileKey) (p : Nat)
  | chan (k : TileKey) (vc : Nat)
  | place (p : Place)
  | station (t : Station)
  | cmd (id : Nat)
  | cmdAt (id : Nat) (pc : PcKey)
  | landing (pc : PcKey) (i : Nat)
  | engine (stack i : Nat)
  | page (ctx vpn : Nat)
  | mark (k : TileKey) (pc : PcKey)
  | eddy (k : TileKey) (e : Nat)
  | region (r : Nat)
  | regionItem (r i : Nat)
  | launch (l : Nat)
  | ctx (c : Nat)
  | queue (q : Nat)
  | commit (q word : Nat) (bits : BitVec 64)
  | reg (r : RegOp)
  | tqact (q ctx : Nat) (v : BitVec 64)
  | net (a : NetAck)
  | device
  | link (stack dir lane : Nat) (again : Bool) (flits : Nat)
  | bank (pc : PcKey) (failing : List Nat)
  | scrub (k : TileKey) (offset : Nat)
  | time (t : BitVec 64)
  | bits (b : BitVec 128)
  | image (i : FwImage)
  | number (n : Nat)
  | lifeCycle (target : LcState) (sig : List Byte)
  deriving DecidableEq, Repr

/-- The model's own: an error that strikes a memory (R369, R378): an 8-byte word of a scratchpad or of sequencer RAM, a granule of DRAM, an entry of a base-die SRAM (0 map, 1 table, 2 weir, 3 landing); or one that a memory's protection corrects. -/
inductive Upset where
  | scratch (word : Nat)
  | ram (word : Nat)
  | granule (addr : Nat)
  | sram (stack : Nat) (memory entry : Nat)
  | corrected (memory : Nat)
  deriving DecidableEq, Repr

/-- The model's own: one coming action. `issue` lets an agent run the word it stands at; `act` is an event of the machine; `clock` moves device time; `upset` strikes a memory. -/
inductive Move where
  | issue (a : Agent)
  | act (a : Agent) (i : Instr)
  | clock (ns : Nat)
  | upset (u : Upset)
  deriving DecidableEq, Repr

/-! ### A tile -/

/-- The state of a controller while it holds a go token: permits sent to and dones received from each child; or, after a marker, the markers that have come back (R133, R134). -/
structure CtlRun where
  go     : Tok
  marker : Bool := false
  back   : Nat := 0
  issued : List Nat := []
  fin    : List Nat := []
  deriving DecidableEq, Repr

/-- Node state that outlives one firing (R349): of a `seqgen` its trigger and its position. -/
inductive SlotRun where
  | idle
  | seqgen (trigger : Tok) (k : Nat)
  | alt (rightDue : Bool)
  | ctl (c : CtlRun)
  | join (arcs : List (Option Tok))
  | sluice (buf : List Tok)
  | gaddr (count : Nat)
  deriving DecidableEq, Repr

/-- A request of a slot whose result is not there yet: the operand token, what has been collected, and the result once it is known; results leave in issue order (R148, R150). `no` tells the requests of a slot apart. -/
structure Pend where
  tok   : Tok
  no    : Nat := 0
  acc   : Payload := 0
  count : Nat := 0
  done  : Option Tok := none
  deriving DecidableEq, Repr

/-- One slot of a tile (R15, R17). `leftFirst` says which of two waiting tokens arrived first (R123); `rounds` counts tempo markers passed (R300); `drained` says that a drain marker has passed since the move began (R304); `eoses` counts end-of-stream tokens consumed (R179); `once` lets one access pass the race check after RESUME (R365). -/
structure Slot where
  word      : Word64 := 0
  left      : Option Tok := none
  right     : Option Tok := none
  pred      : Option Tok := none
  leftFirst : Bool := true
  run       : SlotRun := .idle
  out       : List Emit := []
  pend      : List Pend := []
  stopped   : Bool := false
  commute   : Bool := false
  rounds    : Nat := 0
  drained   : Bool := false
  eoses     : Nat := 0
  once      : Bool := false
  deriving DecidableEq, Repr

/-- A route: its entry and the token places of its hops, the first hop first (R21). -/
structure Route where
  entry : Word64 := 0
  hops  : List (Option Tok) := []
  deriving DecidableEq, Repr

/-- An inbound channel: its entry, where the route that ends at it delivers, the token at its decoder, its scale queue, and decoded tokens not yet delivered (R21, R24, R52, R53). -/
structure Chan where
  entry   : BitVec 16 := 0
  dst     : Tgt := .none
  arrived : Option Tok := none
  queue   : List (BitVec 16) := []
  parts   : List Parcel := []
  deriving DecidableEq, Repr

/-- A control word in progress in a matrix unit: the next line, blocks of a packed token not yet used, whether a drain follows or runs (R93-R97), and what its tokens carry of the accesses before them. -/
structure MxRun where
  ctl    : Word64
  hb     : List Nat := []
  line   : Nat := 0
  blocks : List (BitVec 16 × List Nat) := []
  out    : List Emit := []
  drains : Bool := false
  deriving DecidableEq, Repr

/-- A matrix unit (R88, R99). W is keyed (buffer * 32 + line) * 32 + element, ACC (accumulator * 32 + i) * 32 + j; an unlisted entry is +0. `spill` are copies of partial sums that a stop sends, `spilled` that it has begun to (R101). -/
structure MxUnit where
  w         : Map Lane := []
  acc       : Map Lane := []
  rprog     : BitVec 16 := 0xFFFF
  run       : Option MxRun := none
  lastRoute : Option (BitVec 4) := none
  stopped   : Bool := false
  rounds    : Nat := 0
  spill     : List Emit := []
  spilled   : Bool := false
  deriving DecidableEq, Repr

/-- What a place of the projection engine's row buffer holds: a projection row, an adjoint row, or the p elements of an L2 adjoint row (R102, R112). -/
inductive PjKind where
  | row | adjoint | second
  deriving DecidableEq, Repr

/-- A support record (R111). -/
structure Support where
  mask   : BitVec 4096 := 0
  aux    : BitVec 4096 := 0
  scalar : Lane := 0
  param  : Lane := 0
  size   : BitVec 13 := 0
  len    : BitVec 13 := 0
  psel   : BitVec 3 := 0
  tag    : Tag := 0
  inside : Bool := false
  valid  : Bool := false
  deriving DecidableEq, Repr

/-- A place that is not FREE (R102); a listed element is present. An adjoint row keeps the record it found and the target its output goes to (R112). -/
structure PjPlace where
  complete : Bool := false
  tag      : Tag
  kind     : PjKind
  psel     : BitVec 3
  elems    : Map Lane := []
  found    : Support := {}
  via      : Tgt := .none
  hb       : List Nat := []
  deriving DecidableEq, Repr

/-- A projection engine (R102): an unlisted place is FREE, an unlisted record has VALID = 0. `ready` are the COMPLETE places in order; while `out` holds tokens, the first of them is in process (R104). `held` counts, for a marker or fault token at a port, the COMPLETE places it still waits for (R116). -/
structure PjUnit where
  places  : Map PjPlace := []
  sup     : Map Support := []
  a       : Lane := 0
  b       : Lane := 0
  ready   : List Nat := []
  out     : List Emit := []
  held    : Map Nat := []
  stopped : Bool := false
  deriving DecidableEq, Repr

/-- One update waiting at an owner node (R144, R145): a lane of a `spatom` token (source 0-15) or a token of `sp.own` (source 16). -/
structure OwnUpd where
  src   : Nat
  lane  : Nat
  tag   : Tag
  seq   : BitVec 8
  atop  : BitVec 3
  ty    : BitVec 2
  addr  : Lane
  v     : Lane
  cmp   : Lane
  reply : Bool
  round : Nat
  no    : Nat := 0
  acc   : Option Nat := none
  deriving DecidableEq, Repr

/-- The owner node and the memory node of an SP tile (R141, R144, R300). `replies` are the replies that `sp.own` updates ask for, in the order of the updates. `line` are the requesters that are ready for the memory node, and `ownLine` those for the owner node, the longest-ready first: a slot by its number, `sp.q` as 32, `sp.own` as 33 (R141, R144). -/
structure OwnUnit where
  queue     : List OwnUpd := []
  replies   : List Pend := []
  closed    : Nat := 0
  ownRounds : Nat := 0
  qRounds   : Nat := 0
  stopped   : Bool := false
  qStopped  : Bool := false
  qOnce     : Bool := false
  line      : List Nat := []
  ownLine   : List Nat := []
  deriving DecidableEq, Repr

/-- A fabric tile (R3, R13). `region` is the region it is loaded in, `rel` its id relative to the region's origin; `drained` are the unit ports a drain marker has reached in this move (R304). -/
structure Tile where
  kind    : Kind := .pt
  region  : Option Nat := none
  rel     : Nat := 0
  scope   : BitVec 8 := 0
  image   : BitVec 8192 := 0
  units   : List Word64 := []
  slots   : Map Slot := []
  routes  : Map Route := []
  chans   : Map Chan := []
  sregs   : Map Lane := []
  ports   : Map Parcel := []
  counts  : Map (BitVec 32) := []
  drained : List Nat := []
  mx      : MxUnit := {}
  pj      : PjUnit := {}
  own     : OwnUnit := {}
  deriving DecidableEq, Repr

/-! ### A sequencer -/

/-- What a sequencer waits for besides the conditions of its word (R29, R188). -/
inductive SeqWait where
  | none
  | verdict (cmd : Nat)
  | tkq (cmd : Nat) (q : BitVec 3)
  deriving DecidableEq, Repr

/-- A producer that offers a token to a FIFO, the longest-offering first (R195). -/
inductive Offer where
  | fabric
  | completion (st : Station) (t : Tok)
  | give (t : Tok)
  deriving DecidableEq, Repr

/-- A sequencer (R187, R193). The registers s1-s31 and c0-c7 and the FIFOs read their reset value while unlisted. `pc` is 0x10000 once the word at 0xFFFC has completed (R35). `seen` is PHASE at the last `census.wait` (R198). `fails` are failures of commands with GV = 0 not yet raised: status and issue number (R160). `hb` are accesses that happen before its next word (R289). -/
structure Seq where
  region  : Nat := 0
  pc      : BitVec 32 := 0
  s       : Map (BitVec 64) := []
  c       : Map Word128 := []
  q       : Map (List Tok) := []
  offers  : Map (List Offer) := []
  events  : List (BitVec 64) := []
  issue   : BitVec 32 := 0
  cause   : BitVec 64 := 0
  evmask  : BitVec 64 := 0
  running : Bool := false
  halted  : Bool := false
  stopped : Bool := false
  wait    : SeqWait := .none
  seen    : BitVec 32 := 0
  fails   : List (BitVec 32 × BitVec 32) := []
  hb      : List Nat := []
  deriving DecidableEq, Repr

/-! ### Commands, riders, updates -/

/-- Who issued a command: a sequencer, the packet of a queue (BIND), or the firmware (R328, R343). -/
inductive Origin where
  | seq (k : TileKey) (issue : BitVec 32)
  | packet (q : Nat) (ticket : BitVec 64)
  | firmware
  deriving DecidableEq, Repr

/-- Where a command stands (R29, R157): its verdict is out, its target holds it while its TKQ token is out, it may start, it has started, it has retired. -/
inductive Phase where
  | queued | held | accepted | started | done
  deriving DecidableEq, Repr

/-- One result lane of a `fold`: its exact sum in units of 2^(-149) or 1, what was special among the elements, the running minimum or maximum, and the nonzero count (R167). -/
structure FoldLane where
  sum  : Int := 0
  nan  : Bool := false
  pinf : Bool := false
  ninf : Bool := false
  negz : Bool := true
  best : Option Lane := none
  n    : Nat := 0
  deriving DecidableEq, Repr

/-- A block of a `kvride` snapshot: its index, the bit of its page's mask it has, its page, the physical address of its slice once translated, the class its translation failed with, whether it stands in an eddy entry, whether it has begun to be wanted and the landings at which it is, the units collected, how many have been delivered, and the tempo round in which it was admitted (R303, R341, R347); the slice of a `dead` one has met a poisoned segment and stopped (R369). -/
structure KvBlock where
  index  : Nat
  bit    : Nat
  vpn    : Nat
  pa     : Option (BitVec 64) := none
  failed : BitVec 4 := 0
  held   : Bool := false
  eddied : Bool := false
  wanted : Bool := false
  lands  : List PcKey := []
  data   : Map (List Tok) := []
  given  : Nat := 0
  round  : Nat := 0
  dead   : Bool := false
  deriving DecidableEq, Repr

/-- What an update does to a word (R172). -/
inductive UpdOp where
  | write | add | max
  | scadd (a b : Lane)
  deriving DecidableEq, Repr

/-- One update in a weir (R278): the local segment and first word it names, its words, its stamp, the command that posted it, or 0 and the launch for an entry of the overflow ring, and in tempo mode its round and sort key (R244, R300, R301). -/
structure Weir where
  cmd   : Nat
  launch : Nat := 0
  slot  : Nat
  seg   : Nat
  word  : Nat
  op    : UpdOp
  ety   : BitVec 4
  vals  : List Lane
  ftag  : BitVec 4 := 0
  stamp : Nat
  round : Option Nat := none
  key   : List Nat := []
  acc   : Option Nat := none
  deriving DecidableEq, Repr

/-- A token of a command on its way out of its port: the rider in whose buffer it stands (a pseudo-channel, or 1536 for none), and its route (R164, R274). -/
structure Leaving where
  rider : PcKey
  route : Nat
  tok   : Tok
  deriving DecidableEq, Repr

/-- A stream command from its issue to its retirement: its word, its issuer, its counts, the tokens in its delivery buffers, and what its kind needs. `lost` counts updates that were discarded behind a fenced link or at a poisoned granule (R286, R369). `order` is its place in the order of arrival at its station while it waits, and in the order of starts from then on (R157); `away` is the saved launch with whose quads the PT it stands at has left (R348). -/
structure Cmd where
  word     : Word128
  station  : Station
  origin   : Origin
  launch   : Nat
  ctx      : Nat
  region   : Nat
  phase    : Phase := .queued
  status   : Nat := 0
  detail   : Nat := 0
  detail2  : Nat := 0
  members  : List PcKey := []
  pending  : List PcKey := []
  reserved : List PcKey := []
  early    : Nat := 0
  missed   : Nat := 0
  lost     : Nat := 0
  taken    : Nat := 0
  posted   : Nat := 0
  applied  : Nat := 0
  sentAt   : Nat := 0
  flight   : List (Nat × PcKey × Weir) := []
  out      : List Leaving := []
  fold     : List FoldLane := []
  blocks   : List KvBlock := []
  admitted : Bool := false
  underway : Bool := false
  extended : Bool := false
  stopped  : Bool := false
  hb       : List Nat := []
  order    : Nat := 0
  away     : Option Nat := none
  deriving DecidableEq, Repr

/-- What a rider reads for (R275, R276, R277); `table` is the device's own that restores a sequence table, `restore` one that brings a saved launch back (R270, R346, R351). -/
inductive RideKind where
  | flow | snap | gather | kv | table | restore
  deriving DecidableEq, Repr

/-- A rider entry of a landing (R270-R274): reserved, waiting to board, or riding from `from_` for `left` more segments of its first lap, with the segments it has missed or wants: reach slot, local segment, and how many visits of it to let pass (R277). `at_` is its boarding in the landing's order; a `dead` one met a poisoned segment and takes nothing more (R369). Of a `table` rider `start` is the sequence, of a `restore` rider the launch. -/
structure Rider where
  cmd    : Nat
  slot   : Nat
  kind   : RideKind
  commit : Bool := false
  on     : Bool := false
  start  : Nat := 0
  left   : Nat := 0
  at_    : Nat := 0
  dead   : Bool := false
  holds  : Bool := false
  want   : List (Nat × Nat × Nat) := []
  deriving DecidableEq, Repr

/-- One landing and the sweep unit over it (R264, R265, R270, R278, R283, R301). `order` numbers boardings and postings in the order they arrive. A cursor is keyed by reach slot: the next local segment and the lap; `since` is the REACHSET commit that configured the slot, 0 for reset: reaches of one commit have their laps from one lap-clock instant (R265). -/
structure Landing where
  reaches : Map (BitVec 128) := []
  cursors : Map (Nat × Nat) := []
  since   : Map Nat := []
  riders  : List Rider := []
  weir    : List Weir := []
  pairs   : List Nat := []
  marks   : List (Nat × Nat × Nat) := []
  order   : Nat := 0
  parked  : Option Nat := none
  testing : Bool := false
  next    : Nat := 0
  retired : List Nat := []
  repairs : List (BitVec 32) := []
  fixes   : List (BitVec 32) := []
  deriving DecidableEq, Repr

/-! ### A port tile's units -/

/-- A request of the gather unit (R276): its acceptance number, header, addresses, and the bytes served so far; a `dead` one has met a poisoned segment and stopped (R369). -/
structure Req where
  order : Nat
  tag   : Tag
  seq   : BitVec 8
  addrs : List (BitVec 64)
  got   : Map (BitVec 64) := []
  diverted : Bool := false
  hb    : List Nat := []
  access : Option Nat := none
  dead  : Bool := false
  deriving DecidableEq, Repr

/-- An eddy entry (R337); an unlisted entry has VALID = 0. `acc`, `round`, `hb`, `access` and `vc` are what the diverted fault token carried (R41, R290, R303, R340). -/
structure Eddy where
  kv    : Bool
  cls   : BitVec 2
  order : Nat
  tag   : Tag
  seq   : BitVec 8
  body  : Payload
  cmd   : Nat
  acc   : Bool := false
  round : Nat := 0
  hb    : List Nat := []
  access : Option Nat := none
  vc    : BitVec 5 := 0
  deriving DecidableEq, Repr

/-- The units of a PT (R166-R181, R276, R298, R336, R337, R349). `lc` are LC0 to LC3, `gen` the running `bind`, `sent` the address tokens sent, `stopAt` an `unbind` waiting for the end of an outermost iteration; `gather` the open command, `window` its merge window, `resumes` are eddy entries that a device resume token is on its way to, `tier` tier events not yet taken (R338, R342). -/
structure PortUnit where
  lc      : List Nat := [0, 0, 0, 0]
  gen     : Option Nat := none
  base    : BitVec 56 := 0
  sent    : Nat := 0
  stopAt  : Option Nat := none
  gather  : Option Nat := none
  closing : Option Tok := none
  window  : List Req := []
  ready   : List Req := []
  accepts : Nat := 0
  eddy    : Map Eddy := []
  cache   : List (BitVec 128) := []
  cr      : Nat := 1
  resumes : List Nat := []
  tier    : List (BitVec 64) := []
  gStopped : Bool := false
  qStopped : Bool := false
  rStopped : Bool := false
  deriving DecidableEq, Repr

/-! ### Kernels, regions, launches -/

/-- A tile image of a block with its COMMUTE bits (R12, R218). -/
structure Image where
  bits    : BitVec 8192
  commute : BitVec 32 := 0
  deriving DecidableEq, Repr

/-- An entry port of a block: relative tile, slot, position (R239). -/
structure Port where
  tile : Nat
  slot : Nat
  pos  : Pos
  deriving DecidableEq, Repr

/-- A block of a kernel (R235). -/
structure Block where
  region  : Nat
  images  : Map Image := []
  entries : List Port := []
  deriving DecidableEq, Repr

/-- A region of a kernel: its size in quads, its sequencer tile, its sequencer RAM image (R216, R235, R236). -/
structure KRegion where
  w   : Nat
  h   : Nat
  seq : Option Nat := none
  ram : List Byte := []
  deriving DecidableEq, Repr

/-- A resident kernel (R227). -/
structure Kernel where
  ctx     : Nat
  regions : List KRegion
  blocks  : Map Block
  closing : List (Nat × BitVec 64) := []
  deriving DecidableEq, Repr

/-- A parked token or one in transit from a `jump` (R240, R243). `overflow` is its byte offset in the overflow ring, `carve` else the scratchpad byte of its carve-out entry; an overflow entry is `asked` for by the device's gather, and `fetched` once read back (R244), or `lost` where its segment is poisoned (R369). -/
structure Parked where
  block    : Nat
  entry    : Nat
  tok      : Tok
  stile    : Nat
  sslot    : Nat
  carve    : Nat := 0
  overflow : Option Nat := none
  asked    : Bool := false
  fetched  : Bool := false
  lost     : Bool := false
  deriving DecidableEq, Repr

/-- A seed still to be injected (R326). -/
structure Seed where
  tile : Nat
  slot : Nat
  pos  : Pos
  tok  : Tok
  deriving DecidableEq, Repr

/-- A running region (R235-R253, R304, R307). `quiet` says that the phase end of the present quiet has been declared; `due` that a further one is due (R253), `cfgLoad` that the load under way was asked for by a `cfg.load` (R196). `used` are the pool tags in use; `asked` are the `spawn` slots that have asked the pool for a tag and have none, as tile * 32 + slot (R128); `spills` are the words that the region's PT has still to post to the overflow ring, each with its byte offset (R244). -/
structure Region where
  launch   : Nat
  index    : Nat
  die      : Nat
  qx       : Nat
  qy       : Nat
  w        : Nat
  h        : Nat
  block    : Option Nat := none
  loading  : Option Nat := none
  cfgNext  : Option Nat := none
  cfgLoad  : Bool := false
  report   : BitVec 64 := 0
  census   : Int := 0
  phase    : BitVec 32 := 0
  moves    : Nat := 0
  sph      : BitVec 8 := 0
  used     : List Nat := []
  queues   : Map (List Parked) := []
  transit  : List Parked := []
  spills   : List (Nat × List Lane) := []
  ages     : Map Nat := []
  asked    : List Nat := []
  seeds    : List Seed := []
  windows  : Map (List Tok) := []
  quiet    : Bool := false
  due      : Bool := false
  closed   : Bool := false
  deriving DecidableEq, Repr

/-- Where a launch stands (R320, R330, R351). -/
inductive LaunchPhase where
  | running | saved | retired
  deriving DecidableEq, Repr

/-- A launch from its admission to its completion (R317, R319, R320). `flags` are the FLAGS of its completion record: 1 LATE, 2 TAILED, 8 PREEMPTED (R315). `tailed` says that it has issued its `launch.tail`, whose packet is `tail`; `stopping` that its pre-emption has begun; `finals` are the blocks its regions held when it retired (R319); `records` counts its unanswered trap records (R360). `arrived` is the time of its packet's commit, `startAt` of its start, `phaseAt` the time of its last phase end or its start, `trapTimes` the times of its trap records, all in ns: what the watch of a firmware update measures (R382). `killing` says that its kill has begun (R367), `chain` are the handles of the kernels before it in its tail chain (R320), `bypass` counts its bypasses while it waits pre-empted (R323), `resuming` says that it has been admitted again and the rides that restore it have not all alighted (R351). -/
structure Launch where
  packet    : Packet
  queue     : Nat
  ticket    : BitVec 64
  stamp     : BitVec 64
  ctx       : Nat
  handle    : Nat
  places    : List (Nat × Nat × Nat)
  regions   : List Nat := []
  phase     : LaunchPhase := .running
  started   : BitVec 64 := 0
  flags     : Nat := 0
  tailed    : Bool := false
  tail      : Option Packet := none
  stopping  : Bool := false
  finals    : Map Nat := []
  records   : Nat := 0
  arrived   : BitVec 64 := 0
  startAt   : BitVec 64 := 0
  phaseAt   : BitVec 64 := 0
  trapTimes : List (BitVec 64) := []
  killing   : Bool := false
  resuming  : Bool := false
  chain     : List Nat := []
  bypass    : Nat := 0
  deriving DecidableEq, Repr

/-! ### Queues and contexts -/

/-- A packet that has been consumed and has not completed (R315, R320), with the time its commit arrived (R382); of a tail child, `chain` are the handles of the kernels before it (R320); of a candidate, `bypass` counts its bypasses (R323). -/
structure Open where
  ticket  : BitVec 64
  stamp   : BitVec 64
  packet  : Packet
  started : BitVec 64 := 0
  flags   : Nat := 0
  arrived : BitVec 64 := 0
  chain   : List Nat := []
  bypass  : Nat := 0
  deriving DecidableEq, Repr

/-- The model's own: a LOAD whose object has passed its checks and whose reach data is being written: ticket, start, handle, kernel, and the commands that post it (R219). -/
structure LoadWrite where
  ticket : BitVec 64
  start  : BitVec 64
  handle : Nat
  kernel : Kernel
  cmds   : List Nat
  deriving DecidableEq, Repr

/-- A queue (R313). `taken` is the number of reservations granted and not consumed, `head` QHEAD, `next` the next slot QRES grants. `waiting` is a launch consumed from the ring head and not yet admitted; `tails` are children of tail launches and `resumes` pre-empted launches that wait ahead of it; `loading` are LOADs whose object is being read; `writing` are LOADs whose reach data is being written; `binds` are BINDs to a chain whose tail child has not started (R328); `arrived` are the times at which slots were committed, `canary` that the reserve strip serves the queue (R382). -/
structure Queue where
  enabled  : Bool := false
  dropLate : Bool := false
  ctx      : Nat := 0
  ring     : BitVec 64 := 0
  entries  : BitVec 32 := 0
  commit   : BitVec 256 := 0
  head     : BitVec 32 := 0
  next     : Nat := 0
  taken    : Nat := 0
  count    : BitVec 52 := 0
  slots    : Map Packet := []
  ticks    : Map (BitVec 64) := []
  stamps   : Map (BitVec 64) := []
  done     : Nat := 0
  opens    : List Open := []
  waiting  : Option Open := none
  tails    : List Open := []
  resumes  : List Nat := []
  loading  : List (BitVec 64 × BitVec 64 × BitVec 32 × BitVec 16) := []
  writing  : List LoadWrite := []
  binds    : List Open := []
  arrived  : Map (BitVec 64) := []
  canary   : Bool := false
  deriving DecidableEq, Repr

/-- A far pool of a context (R332). -/
structure FarPool where
  pages : BitVec 32
  fep   : BitVec 64
  fbase : BitVec 64
  deriving DecidableEq, Repr

/-- A map window of a context (R332). -/
structure Window where
  vpn    : Nat
  npages : Nat
  first  : Nat
  ffirst : Nat
  fpool  : BitVec 16
  crn    : BitVec 4
  r      : Bool
  w      : Bool
  far    : Bool
  deriving DecidableEq, Repr

/-- A context's key policy (R381). -/
structure KeyPolicy where
  reqSig  : Bool := false
  keyIds  : List (BitVec 256) := []
  privKey : Bool := false
  deriving DecidableEq, Repr

/-- A trap record and the agent it stopped (R358, R361). -/
structure Trap where
  bits  : Packet
  agent : Agent
  fatal : Bool
  launch : Nat
  deriving DecidableEq, Repr

/-- An entry of a trap queue: the record it last held, and whether it is in use (R363). -/
structure TqEntry where
  trap : Trap
  used : Bool
  deriving DecidableEq, Repr

/-- A context (R331, R244, R330, R363). `offered` are records made and not yet entered, oldest first; `kills` are KILL packets, queue and ticket, whose launches have not all ended (R367). -/
structure Context where
  rects    : List (BitVec 32) := []
  slice    : Nat := 2000
  left     : Nat := 2000
  overflow : Option (BitVec 4) := none
  save     : Option (BitVec 4) := none
  wptr     : Nat := 0
  rptr     : Nat := 0
  unread   : List Nat := []
  farpools : Map FarPool := []
  windows  : List Window := []
  policy   : KeyPolicy := {}
  tq       : Map TqEntry := []
  offered  : List Trap := []
  handler  : Bool := false
  tqres    : BitVec 32 := 0
  trapNo   : BitVec 32 := 0
  lost     : Nat := 0
  frozen   : Bool := false
  over_    : Bool := false
  kills    : List (Nat × BitVec 64) := []
  deriving DecidableEq, Repr

/-! ### Stacks, links, device -/

/-- A layer group of a sequence: its level-1 entry and its leaf (R345). -/
structure Group where
  policy : BitVec 4
  frame  : Nat := 0x7FF
  leaf   : List (BitVec 32) := []
  deriving DecidableEq, Repr

/-- A sequence's table (R345). While it is evicted, `places` are the segments of the table reach it fills: its record's, then four for each leaf in turn (R346). -/
structure SeqTable where
  ctx    : Nat
  pool   : Nat
  used   : Nat
  groups : Map Group := []
  places : List Nat := []
  deriving DecidableEq, Repr

/-- A block pool (R344); `used` are the ids of used blocks. -/
structure Pool where
  ctx    : Nat
  vpn    : Nat
  npages : Nat
  used   : List Nat := []
  deriving DecidableEq, Repr

/-- A request to a block engine: from a block slot (tile, slot) of a launch or from a command (R150, R177, R347). -/
inductive BlockReq where
  | node (k : TileKey) (n : Nat) (launch : Nat) (ctx : Nat) (round : Nat) (opc : BitVec 8) (tok : Tok)
  | cmd (id : Nat)
  deriving DecidableEq, Repr

/-- A stack's base die but for its landings: home map, table SRAM, pools, evicted tables, keys, requests in order of arrival (R334, R344-R346, R379). `dropping` are the sequences that a `bdrop` is part way through (R178). -/
structure Stack where
  home     : Map (BitVec 128) := []
  seqs     : Map SeqTable := []
  evicted  : Map SeqTable := []
  pools    : Map Pool := []
  reqs     : List BlockReq := []
  marks    : List (Nat × Nat × Nat) := []
  restoring : List Nat := []
  dropping : List Nat := []
  uses     : Nat := 0
  keys     : Map (BitVec 512) := []
  deriving DecidableEq, Repr

/-- One direction of a die-to-die link (R374, R375): the flits it has carried, and of each lane those at which its CRC errors fell. -/
structure Link where
  crc     : Map (List Nat) := []
  flits   : Nat := 0
  due     : Option Nat := none
  spare   : Bool := false
  replay  : Bool := false
  fails   : Nat := 0
  fenced  : Bool := false
  deriving DecidableEq, Repr

/-- What a saved launch left in shadow and save reach (R349, R350), with the eddy releases and answers to its records that wait for its return (R342, R360), the pages of the save reach it takes, and which of its memories' words are in error (R143, R378). `shadowed` says that its shadow stands in the shadow stores of its quads, and has not been moved to its save reach (R349). -/
structure Saved where
  tiles   : Map Tile
  seqs    : Map Seq
  ports   : Map PortUnit
  scratch : List Host.Cell
  ram     : List Host.Cell
  shadow  : Map (BitVec 24)
  events  : List (TileKey × BitVec 64) := []
  releases : List (TileKey × Nat) := []
  answers  : List (Nat × Trap) := []
  pages    : List Nat := []
  shadowed : Bool := true
  ecc      : List Nat := []
  ramEcc   : List Nat := []
  deriving DecidableEq, Repr

/-- A canary update in progress: its image, since when it is watched, and the first limit passed: 0 trap records, 1 start, 2 phase (R382). -/
structure Canary where
  image  : FwImage
  since  : BitVec 64
  passed : Option Nat := none
  deriving DecidableEq, Repr

/-- The device: time, features, firmware, life cycle, policies and faults (R312, R371-R373, R376, R378, R380-R385). `reserved` is the ticket of the reserved candidate (R323); `commits` are REACHSET commits that wait for the lap clock and `applied` counts the commits that have taken effect (R265); `unmaps` UNMAPs that wait for their invalidation (context, first page, pages), each with its queue and ticket (R312, R336); `selfTest` are the pseudo-channels whose self-test at reset has ended, while it runs; `corrected` counts corrected errors by memory: 0 scratchpad, 1 sequencer RAM, 2 DRAM, 3 base-die SRAM. -/
structure Device where
  dtime    : BitVec 64 := 0
  locked   : Bool := false
  stepped  : Bool := false
  feats    : Option (BitVec 128) := none
  ringAddr : BitVec 64 := 0
  ringLen  : BitVec 32 := 0
  ringNext : Nat := 0
  image    : List Byte := []
  version  : BitVec 32 := 0
  svn      : BitVec 32 := 0
  minSvn   : BitVec 32 := 0
  canary   : Option Canary := none
  lc       : LcState := .deployed
  wiping   : Bool := false
  tripped  : Bool := false
  measured : Bool := false
  session  : Bool := false
  bid      : Bool := false
  reserved : Option (BitVec 64) := none
  staged   : List (PcKey × Nat × BitVec 128) := []
  commits  : List (Nat × BitVec 64 × List (PcKey × Nat × BitVec 128)) := []
  applied  : Nat := 0
  unmaps   : List (Nat × BitVec 64 × Nat × Nat × Nat) := []
  selfTest : Option (List PcKey) := none
  corrected : Map Nat := []
  nextKey  : Nat := 0
  handles  : Nat := 0
  deriving DecidableEq, Repr

/-- The model's own: an answer the device gave to the outside (R313, R363, R372, R380). -/
inductive Answer where
  | value (v : BitVec 1024)
  | measured (digests : List (BitVec 512)) (signature : List Byte)
  | done
  | uetError
  | refused
  deriving DecidableEq, Repr

/-! ### The whole state -/

/-- The state of the V24. Keys: a tile by die * 2048 + absolute tile id, a pseudo-channel by stack * 64 + number, an engine by die * 32 + index, a link by stack * 2 + direction (0 down, 1 up). Bytes of DRAM are keyed pc * 2^31 + offset, of a scratchpad tile * 2^19 + address, of sequencer RAM tile * 2^16 + address, of far memory endpoint * 2^64 + address. `held` are completion tokens waiting at a port or engine behind an earlier one, each with its launch and its FIFO (R29). `decayed` and `poison` list granules by their first byte's key, `ecc` and `ramEcc` 8-byte words likewise. `sends` numbers what ports send to landings and what `spatom` slots ask of owners. A format tag is keyed (pc * 16 + slot) * 2^24 + local segment, and reads the entry's DTAG while unlisted (R284). `accs` are the initiated accesses without a completion token that are not yet performed everywhere, each with whether it is performed at NODE and REGION; `syncs` are those that releases to a scratchpad word have passed on to whoever acquires from it (R290-R292). -/
structure State where
  agenda   : List Move := []
  focus    : Agent := .idle
  fresh    : Nat := 0
  uet      : List Answer := []
  tiles    : Map Tile := []
  seqs     : Map Seq := []
  ports    : Map PortUnit := []
  cmds     : Map Cmd := []
  nextCmd  : Nat := 0
  held     : List (Station × Nat × TileKey × Nat × Tok) := []
  sends    : Nat := 0
  regions  : Map Region := []
  launches : Map Launch := []
  kernels  : Map Kernel := []
  staging  : Map (List (Nat × Nat)) := []
  saved    : Map Saved := []
  queues   : Map Queue := []
  contexts : Map Context := []
  landings : Map Landing := []
  bases    : Map Stack := []
  dieCache : Map (List (BitVec 128)) := []
  links    : Map Link := []
  dram     : List Host.Cell := []
  tags     : Map (BitVec 4) := []
  decayed  : List Nat := []
  poison   : List Nat := []
  scratch  : List Host.Cell := []
  ecc      : List Nat := []
  shadow   : Map (BitVec 24) := []
  ram      : List Host.Cell := []
  ramEcc   : List Nat := []
  accs     : Map Bool := []
  nextAcc  : Nat := 0
  syncs    : Map (List Nat) := []
  host     : List Host.Cell := []
  far      : List Host.Cell := []
  dev      : Device := {}
  deriving DecidableEq, Repr

/-- Why a run stops. Neither reason is the hardware's: a run that never meets one is a run of the machine. -/
inductive Fault where
  /-- Raised by every meaning when the agent in focus is not one that performs the instruction, or does not exist in the state. Safe: the model stops where no agent of the hardware acts. -/
  | noAgent
  deriving DecidableEq, Repr

/-- Why an instruction has no meaning. -/
inductive Refusal where
  /-- Raised by the arms of Machine/Dispatch.lean that have no meaning yet. Safe: nothing is claimed of them. -/
  | notModelled (mnemonic : String)
  deriving DecidableEq, Repr

/-! ### Reset -/

/-- The table reach of PC63 (R268): VALID, DEVICE, share 8, G = 4 KiB, DTAG RAW, 16,384 segments at unit 21,504. -/
def tableReach : BitVec 128 :=
  BitVec.ofNat 128 (2 ^ 127 + 2 ^ 120 + 7 * 2 ^ 90 + 12 * 2 ^ 86 + 1 * 2 ^ 82 + 16384 * 2 ^ 36 + 21504 * 2 ^ 20)

/-- A backwater reach from unit 0: `units` units of 64 KiB, swept in segments of 4 KiB with a share (R264, R266). -/
def backwater (units share : Nat) : BitVec 128 :=
  BitVec.ofNat 128 (2 ^ 127 + 2 ^ 125 + (share - 1) * 2 ^ 90 + 12 * 2 ^ 86 + 1 * 2 ^ 82 + units * 16 * 2 ^ 36)

/-- The landing of a pseudo-channel after the wipe (R384): one backwater reach, and on PC63 the table reach. DESIGN CHOICE (log 137): the backwater reach stands in slot 0 with G = 4 KiB, the table reach in slot 15. -/
def resetLanding (pc : PcKey) : Landing :=
  if pc % 64 == 63 then
    { reaches := [(0, backwater Config.pc63Units 56), (15, tableReach)], cursors := [(0, (0, 0)), (15, (0, 0))] }
  else { reaches := [(0, backwater Config.pcUnits 64)], cursors := [(0, (0, 0))] }

/-- A stack's base die after the wipe (R379, R384): only slot 0 holds a key, drawn anew. -/
def resetStack (n : Nat) : Stack := { keys := [(0, Config.drawnKey n)] }

/-- The state after reset, once its wipe has ended (R187, R264, R313, R363, R384): every store reads zero, every queue is empty. A landing that is not listed is `resetLanding`, a stack `resetStack`, and every other unlisted key reads the default its reader names. -/
def State.reset : State := { dev := { nextKey := Config.stackCount } }

end Sys2Proof.Machine
end

