-- ==== Sys2Proof/Machine/Flags.lean ====
section
/-! DEFINITION. The counters of a tile, the only flags the V24 keeps (02 R56): lanes 0 to 10, which saturate at 0xFFFF_FFFF. -/

namespace Sys2Proof.Machine

/-- A counter with 1 added, saturating (R56). -/
def satInc (c : BitVec 32) : BitVec 32 := if c == 0xFFFFFFFF then c else c + 1

/-- Add 1 to each counter lane named (R56). -/
def countLanes (m : Map (BitVec 32)) : List Nat → Map (BitVec 32)
  | [] => m
  | l :: ls => countLanes (m.upd l 0 satInc) ls

/-- The count token's lanes: counters 0 to 10, then zero (R56). -/
def countPayload (m : Map (BitVec 32)) : Payload := Word.ofLanes fun i => if i < 11 then m.getD i 0 else 0

/-- Sum with saturation at 0xFFFF_FFFF (R186, R254). -/
def satAdd (a b : BitVec 32) : BitVec 32 := if 2 ^ 32 ≤ a.toNat + b.toNat then 0xFFFFFFFF else a + b

end Sys2Proof.Machine
end

