-- ==== Sys2Proof/Machine/Memory.lean ====
section
/-! DEFINITION. Byte memories: lists of (address, byte) pairs with rising addresses and no zero byte. An unlisted address reads 0, which is what the wipe leaves (19 R384). -/

namespace Sys2Proof.Machine

namespace Mem

/-- The byte at an address. -/
def read : List Host.Cell → Nat → Byte
  | [], _ => 0
  | (k, b) :: m, a => if k == a then b else read m a

/-- Put a byte at an address; a zero byte takes the entry out. -/
def write : List Host.Cell → Nat → Byte → List Host.Cell
  | [], a, b => if b == 0 then [] else [(a, b)]
  | (k, c) :: m, a, b =>
      if a < k then (if b == 0 then (k, c) :: m else (a, b) :: (k, c) :: m)
      else if k == a then (if b == 0 then m else (a, b) :: m)
      else (k, c) :: write m a b

/-- The canonical form, from a least address: rising addresses, no zero byte. -/
def wfFrom : Nat → List Host.Cell → Bool
  | _, [] => true
  | lo, (k, b) :: m => lo ≤ k && b != 0 && wfFrom (k + 1) m

/-- The canonical form of a memory. -/
def wf (m : List Host.Cell) : Bool := wfFrom 0 m

/-- The bytes at an address, lowest first. -/
def readN (m : List Host.Cell) (a n : Nat) : List Byte := (List.range n).map (fun i => read m (a + i))

/-- Put bytes from an address on, lowest first. -/
def writeN : List Host.Cell → Nat → List Byte → List Host.Cell
  | m, _, [] => m
  | m, a, b :: bs => writeN (write m a b) (a + 1) bs

/-- A little-endian word of `n` bytes (R11). -/
def load (m : List Host.Cell) (a n w : Nat) : BitVec w := Word.ofBytes w (readN m a n)

/-- Store a word of `n` bytes little-endian (R11). -/
def store {w : Nat} (m : List Host.Cell) (a n : Nat) (v : BitVec w) : List Host.Cell := writeN m a (Word.toBytes n v)

/-- Take every byte of a range out: it reads 0 (R384). -/
def clear (m : List Host.Cell) (lo n : Nat) : List Host.Cell := m.filter (fun c => c.1 < lo || lo + n ≤ c.1)

end Mem
end Sys2Proof.Machine
end

