-- ==== Sys2Proof/Machine/Ops.lean ====
section
/-! DEFINITION. The named operations over the state: reading and writing its parts, taking a trap (18 R358-R364) and its return, delivering a token to a target (01 R17-R21), the census (05 R120, 10 R251). -/

namespace Sys2Proof.Machine

/-- The outcome of an instruction. -/
abbrev Out := Host.Outcome State Fault Refusal

namespace TT

/-- The 3-bit code of a token type (R41). -/
def code : TT → BitVec 3
  | .data => 0 | .scale => 1 | .control => 2 | .tempo => 3 | .drain => 4 | .eos => 5 | .fault => 6 | .resume => 7

/-- The token type of a code (R41). -/
def ofCode (c : BitVec 3) : TT :=
  if c == 0 then .data else if c == 1 then .scale else if c == 2 then .control else if c == 3 then .tempo
  else if c == 4 then .drain else if c == 5 then .eos else if c == 6 then .fault else .resume

/-- Markers: tempo, drain, end-of-stream (R60). -/
def isMarker : TT → Bool
  | .tempo | .drain | .eos => true
  | _ => false

end TT

namespace Tok

/-- The 32-bit header of a token (R41). -/
def header (t : Tok) : BitVec 32 := t.tt.code ++ t.vc ++ t.seq ++ t.tag

/-- Header and lane 0 in one word (R41). -/
def headLane (t : Tok) : BitVec 64 := t.header ++ Word.lane t.pay 0

end Tok

/-- Header and lane 0 of a latch, zero if it is empty (R361). -/
def latchWord : Option Tok → BitVec 64
  | some t => t.headLane
  | none => 0

/-! ### Parts of the state -/

namespace State

/-- A tile; an unlisted one is not loaded. -/
def tile (s : State) (k : TileKey) : Tile := s.tiles.getD k {}
/-- Replace a tile. -/
def setTile (s : State) (k : TileKey) (t : Tile) : State := { s with tiles := s.tiles.put k t }
/-- A slot of a tile. -/
def slot (s : State) (k : TileKey) (n : Nat) : Slot := (s.tile k).slots.getD n {}
/-- Replace a slot of a tile. -/
def setSlot (s : State) (k : TileKey) (n : Nat) (sl : Slot) : State :=
  s.setTile k { s.tile k with slots := (s.tile k).slots.put n sl }
/-- A sequencer. -/
def seq (s : State) (k : TileKey) : Seq := s.seqs.getD k {}
/-- Replace a sequencer. -/
def setSeq (s : State) (k : TileKey) (q : Seq) : State := { s with seqs := s.seqs.put k q }
/-- The units of a PT. -/
def port (s : State) (k : TileKey) : PortUnit := s.ports.getD k {}
/-- Replace the units of a PT. -/
def setPort (s : State) (k : TileKey) (p : PortUnit) : State := { s with ports := s.ports.put k p }
/-- A region; an unlisted one belongs to no launch. -/
def region (s : State) (r : Nat) : Region := s.regions.getD r { launch := 0, index := 0, die := 0, qx := 0, qy := 0, w := 0, h := 0 }
/-- Replace a region. -/
def setRegion (s : State) (r : Nat) (x : Region) : State := { s with regions := s.regions.put r x }
/-- A context. -/
def ctx (s : State) (c : Nat) : Context := s.contexts.getD c {}
/-- Replace a context. -/
def setCtx (s : State) (c : Nat) (x : Context) : State := { s with contexts := s.contexts.put c x }
/-- A queue. -/
def queue (s : State) (q : Nat) : Queue := s.queues.getD q {}
/-- Replace a queue. -/
def setQueue (s : State) (q : Nat) (x : Queue) : State := { s with queues := s.queues.put q x }
/-- A launch; an unlisted one has ended. -/
def launch (s : State) (l : Nat) : Launch :=
  s.launches.getD l { packet := 0, queue := 0, ticket := 0, stamp := 0, ctx := 0, handle := 0, places := [], phase := .retired }
/-- Replace a launch. -/
def setLaunch (s : State) (l : Nat) (x : Launch) : State := { s with launches := s.launches.put l x }
/-- A command. -/
def cmd (s : State) (c : Nat) : Cmd :=
  s.cmds.getD c { word := 0, station := .port 0, origin := .firmware, launch := 0, ctx := 0, region := 0, phase := .done }
/-- Replace a command. -/
def setCmd (s : State) (c : Nat) (x : Cmd) : State := { s with cmds := s.cmds.put c x }
/-- A landing; an unlisted one is as the wipe leaves it. -/
def landing (s : State) (pc : PcKey) : Landing := s.landings.getD pc (resetLanding pc)
/-- Replace a landing. -/
def setLanding (s : State) (pc : PcKey) (x : Landing) : State := { s with landings := s.landings.put pc x }
/-- A stack's base die; an unlisted one is as the wipe leaves it. -/
def base (s : State) (n : Nat) : Stack := s.bases.getD n (resetStack n)
/-- Replace a stack's base die. -/
def setBase (s : State) (n : Nat) (x : Stack) : State := { s with bases := s.bases.put n x }
/-- Replace the device part. -/
def setDev (s : State) (d : Device) : State := { s with dev := d }
/-- Give an answer to the outside. -/
def answer (s : State) (a : Answer) : State := { s with uet := a :: s.uet }
/-- The kernel of a launch. -/
def kernelOf (s : State) (l : Nat) : Kernel := s.kernels.getD (s.launch l).handle { ctx := 0, regions := [], blocks := [] }
/-- The region a tile is loaded in. -/
def regionOf (s : State) (k : TileKey) : Nat := ((s.tile k).region).getD 0
/-- The launch a tile works for. -/
def launchOf (s : State) (k : TileKey) : Nat := (s.region (s.regionOf k)).launch
/-- The context a tile works for. -/
def ctxOf (s : State) (k : TileKey) : Nat := (s.launch (s.launchOf k)).ctx
/-- The flags of a launch's packet (R317): bit 1 TEMPO, bit 2 RACE. -/
def launchFlag (s : State) (l i : Nat) : Bool := Word.bit (pk (s.launch l).packet 1 1) i
/-- Whether a tile's launch runs in tempo mode. -/
def tempo (s : State) (k : TileKey) : Bool := s.launchFlag (s.launchOf k) 1
/-- Whether a tile's launch runs with the race check. -/
def race (s : State) (k : TileKey) : Bool := s.launchFlag (s.launchOf k) 2
/-- Whether a region is in its place with a loaded block: what is under way in it may settle even when it has been stopped (R237, R348 step 2). -/
def regionThere (s : State) (r : Nat) : Bool := s.regions.has r && (s.region r).loading.isNone
/-- Whether a region has been told to stop: its launch is being pre-empted, or stands at a fatal record (R348, R359). -/
def regionStops (s : State) (r : Nat) : Bool := (s.region r).closed || (s.launch (s.region r).launch).stopping

end State

/-- NLVL of a PT's unit section (R26). -/
def nlvl (t : Tile) : Nat := (Word.field (t.units.getD 1 0) 58 3).toNat

/-- CNTi of a PT's unit section (R26). -/
def cntOf (t : Tile) (i : Nat) : Nat := (Word.field (t.units.getD (2 + i) 0) 32 32).toNat

/-- Whether every address of a generator has been generated (R181). -/
def genEnded (t : Tile) (lc : List Nat) : Bool := cntOf t (nlvl t - 1) ≤ lc.getD (nlvl t - 1) 0

/-- Addresses left in the outermost iteration that the counters stand in; none at its boundary (R180). -/
def genLeft (t : Tile) (lc : List Nat) : Nat :=
  let size := (List.range (nlvl t - 1)).foldl (fun a i => a * cntOf t i) 1
  let at_ := ((List.range (nlvl t - 1)).reverse).foldl (fun a i => a * cntOf t i + lc.getD i 0) 0
  if at_ == 0 then 0 else size - at_

/-- Whether the units of a tile have come to the point where a stop ends their work: a generator at the end of an outermost iteration, a matrix unit with no control word or with SPV set; a unit that a trap has stopped stands where it is (R101, R348, R360). -/
def unitStops (s : State) (k : TileKey) (t : Tile) : Bool :=
  let p := s.port k
  (p.gen.isNone || genEnded t p.lc || genLeft t p.lc < 8)
  && (t.kind != .mx || t.mx.stopped || Word.bit (t.units.headD 0) 43 || (t.mx.run.isNone && !t.ports.has 2))

namespace State

/-- Whether every unit of a region has come to its stop; from then on no slot of a region that stops fires (R348 step 1). -/
def regionAtRest (s : State) (r : Nat) : Bool := s.tiles.all (fun t => t.2.region != some r || unitStops s t.1 t.2)
/-- Whether agents of a region may act: its block is loaded, and it has not come to a stop (R237, R325, R348, R359). -/
def regionRuns (s : State) (r : Nat) : Bool := s.regionThere r && !(s.regionStops r && s.regionAtRest r)
/-- Whether the tile's slots and units may act. -/
def tileRuns (s : State) (k : TileKey) : Bool :=
  match (s.tile k).region with
  | some r => s.regionRuns r
  | none => false

/-- Whether what is under way in a tile may settle (R348 step 2). -/
def tileThere (s : State) (k : TileKey) : Bool :=
  match (s.tile k).region with
  | some r => s.regionThere r
  | none => false

/-- The next free value's number: each use is a fresh one. -/
def bump (s : State) : State := { s with fresh := s.fresh + 1 }

end State

/-- Whether the firmware issued a command for a BIND packet. -/
def Origin.isPacket : Origin → Bool
  | .packet _ _ => true
  | _ => false

/-! ### The parts of a launch, on its quads or saved (12 R297, 15 R348-R351) -/

/-- A sequencer of a launch. -/
def seqIn (s : State) (l : Nat) (k : TileKey) : Seq :=
  match s.saved.get? l with
  | some y => y.seqs.getD k {}
  | none => s.seq k
/-- Replace a sequencer of a launch. -/
def setSeqIn (s : State) (l : Nat) (k : TileKey) (q : Seq) : State :=
  match s.saved.get? l with
  | some y => { s with saved := s.saved.put l { y with seqs := y.seqs.put k q } }
  | none => s.setSeq k q
/-- The units of a launch's PT. -/
def portIn (s : State) (l : Nat) (k : TileKey) : PortUnit :=
  match s.saved.get? l with
  | some y => y.ports.getD k {}
  | none => s.port k
/-- Replace the units of a launch's PT. -/
def setPortIn (s : State) (l : Nat) (k : TileKey) (p : PortUnit) : State :=
  match s.saved.get? l with
  | some y => { s with saved := s.saved.put l { y with ports := y.ports.put k p } }
  | none => s.setPort k p
/-- A tile of a launch. -/
def tileIn (s : State) (l : Nat) (k : TileKey) : Tile :=
  match s.saved.get? l with
  | some y => y.tiles.getD k {}
  | none => s.tile k
/-- Replace a tile of a launch. -/
def setTileIn (s : State) (l : Nat) (k : TileKey) (t : Tile) : State :=
  match s.saved.get? l with
  | some y => { s with saved := s.saved.put l { y with tiles := y.tiles.put k t } }
  | none => s.setTile k t

/-- The units of the PT at which a command stands. -/
def portAt (s : State) (c : Cmd) (k : TileKey) : PortUnit :=
  match c.away with
  | some l => portIn s l k
  | none => s.port k
/-- Replace the units of the PT at which a command stands. -/
def setPortAt (s : State) (c : Cmd) (k : TileKey) (p : PortUnit) : State :=
  match c.away with
  | some l => setPortIn s l k p
  | none => s.setPort k p
/-- A tile of the region at one of whose PTs a command stands. -/
def tileAt (s : State) (c : Cmd) (k : TileKey) : Tile :=
  match c.away with
  | some l => tileIn s l k
  | none => s.tile k
/-- Whether two commands stand at one PT or engine. -/
def sameStation (a b : Cmd) : Bool := a.station == b.station && a.away == b.away

/-! ### Traps: the machine's exceptions (18 R358-R364) -/

/-- What a trap record says of the agent that trapped (R361). -/
structure Site where
  agent  : Agent
  launch : Nat
  die    : Nat
  unitNo : Nat
  tile   : Nat
  seq    : Bool := false
  unit   : Bool := false
  word   : BitVec 64 := 0
  latl   : Option Tok := none
  latr   : Option Tok := none
  latp   : Option Tok := none
  deriving DecidableEq, Repr

/-- The class of a cause: fatal or replayable (R362). -/
def causeFatal (c : BitVec 8) : Bool := (1 ≤ c && c ≤ 0x0F) || c == 0x16 || c == 0x17

/-- FLAGS of a record (R361): the latch bits are zero for units and sequencers. -/
def recordFlags (x : Site) (cause : BitVec 8) : BitVec 8 :=
  let plain := !x.seq && !x.unit
  (0 : BitVec 2) ++ BitVec.ofBool (plain && x.latp.isSome) ++ BitVec.ofBool (plain && x.latr.isSome) ++ BitVec.ofBool (plain && x.latl.isSome)
    ++ BitVec.ofBool x.unit ++ BitVec.ofBool x.seq ++ BitVec.ofBool (causeFatal cause)

/-- WHERE of a record (R361). -/
def recordWhere (x : Site) : BitVec 32 :=
  BitVec.ofNat 4 x.die ++ (0 : BitVec 4) ++ BitVec.ofNat 8 x.unitNo ++ (0 : BitVec 5) ++ BitVec.ofNat 11 x.tile

/-- A trap record (R361). -/
def trapRecord (s : State) (x : Site) (cause : BitVec 8) (detail : BitVec 64) : Packet :=
  let l := s.launch x.launch
  pkPut 0 s.dev.dtime ||| pkPut 0x08 l.ticket ||| pkPut 0x10 (BitVec.ofNat 16 l.ctx) ||| pkPut 0x12 cause
    ||| pkPut 0x13 (recordFlags x cause) ||| pkPut 0x14 (recordWhere x) ||| pkPut 0x18 (s.ctx l.ctx).trapNo
    ||| pkPut 0x20 x.word ||| pkPut 0x28 detail ||| pkPut 0x30 (latchWord x.latl) ||| pkPut 0x38 (latchWord x.latr)
    ||| pkPut 0x40 (latchWord x.latp)

/-- Stop or release the agent of a trap (R358, R365). -/
def setStopped (s : State) (a : Agent) (b : Bool) : State :=
  match a with
  | .slot k n => s.setSlot k n { s.slot k n with stopped := b }
  | .seq k => s.setSeq k { s.seq k with stopped := b }
  | .cmd c => s.setCmd c { s.cmd c with stopped := b }
  | .port k p =>
      let t := s.tile k
      if p < 0x10 then s.setTile k { t with mx := { t.mx with stopped := b } }
      else if p < 0x20 then s.setTile k { t with pj := { t.pj with stopped := b } }
      else if p == 0x20 then s.setTile k { t with own := { t.own with qStopped := b } }
      else if p == 0x21 then s.setTile k { t with own := { t.own with stopped := b } }
      else if p == 0x30 then s.setPort k { s.port k with qStopped := b }
      else if p == 0x31 then s.setPort k { s.port k with gStopped := b }
      else if p == 0x32 then s.setPort k { s.port k with rStopped := b }
      else s
  | _ => s

/-- Stop every region of a launch (R348 steps 1 and 2, R359). -/
def closeLaunch (s : State) (l : Nat) : State :=
  { s with regions := s.regions.mapV (fun _ r => if r.launch == l then { r with closed := true } else r) }

/-- Taking a trap, the one entry of every cause: the agent stops with its state kept, the record is made at once and offered to the trap queue of the agent's context, a sequencer's CAUSE holds the cause, and a fatal cause stops every region of the launch (R193, R203, R358, R359, R361). -/
def raiseTrap (s : State) (x : Site) (cause : BitVec 8) (detail : BitVec 64) : State :=
  let l := s.launch x.launch
  let c := s.ctx l.ctx
  let t : Trap := { bits := trapRecord s x cause detail, agent := x.agent, fatal := causeFatal cause, launch := x.launch }
  let s1 := s.setCtx l.ctx { c with offered := c.offered ++ [t], trapNo := c.trapNo + 1 }
  let s2 := s1.setLaunch x.launch { l with records := l.records + 1, trapTimes := s.dev.dtime :: l.trapTimes }
  let s3 := setStopped s2 x.agent true
  let s4 := match x.agent with
    | .seq k => s3.setSeq k { s3.seq k with cause := cause.setWidth 64 }
    | _ => s3
  if causeFatal cause then closeLaunch s4 x.launch else s4

/-- The site of a node slot. -/
def slotSite (s : State) (k : TileKey) (n : Nat) : Site :=
  let sl := s.slot k n
  { agent := .slot k n, launch := s.launchOf k, die := k / 2048, unitNo := n, tile := k % 2048, word := sl.word, latl := sl.left, latr := sl.right,
    latp := sl.pred }

/-- The site of a unit port: the token it was taking stands in LATL (R361). -/
def unitSite (s : State) (k : TileKey) (p : Nat) (word : BitVec 64) (tok : Option Tok) : Site :=
  { agent := .port k p, launch := s.launchOf k, die := k / 2048, unitNo := p, tile := k % 2048, unit := true, word := word, latl := tok }

/-- The site of a sequencer at a word: {zero, PC, word} (R361). -/
def seqSite (s : State) (k : TileKey) (word : BitVec 32) : Site :=
  { agent := .seq k, launch := s.launchOf k, die := k / 2048, unitNo := 0, tile := k % 2048, seq := true,
    word := (0 : BitVec 16) ++ (s.seq k).pc.setWidth 16 ++ word }

/-- The port number that stands for a command in a record (log 30). -/
def stationUnit : Station → Nat × Nat × Nat
  | .port k => (k / 2048, 0x30, k % 2048)
  | .engine die idx => (die, idx, 0)

/-- The site of a command at its port or engine. -/
def cmdSite (s : State) (c : Nat) (word : BitVec 64) : Site :=
  let u := stationUnit (s.cmd c).station
  { agent := .cmd c, launch := (s.cmd c).launch, die := u.1, unitNo := u.2.1, tile := u.2.2, unit := true, word := word }

/-- The causes of R362. -/
abbrev causeMarkSkew : BitVec 8 := 0x01
/-- BADTOKEN. -/
abbrev causeBadToken : BitVec 8 := 0x02
/-- MX_BADCTL. -/
abbrev causeMxBadCtl : BitVec 8 := 0x03
/-- MX_FAULTIN. -/
abbrev causeMxFaultIn : BitVec 8 := 0x04
/-- PJ_ROW. -/
abbrev causePjRow : BitVec 8 := 0x05
/-- PJ_NOREC. -/
abbrev causePjNoRec : BitVec 8 := 0x06
/-- CENSUS_NEG. -/
abbrev causeCensusNeg : BitVec 8 := 0x07
/-- CENSUS_OVF. -/
abbrev causeCensusOvf : BitVec 8 := 0x08
/-- TAG_FREE. -/
abbrev causeTagFree : BitVec 8 := 0x09
/-- FAULT_SUNK. -/
abbrev causeFaultSunk : BitVec 8 := 0x0A
/-- CTL_PROTO. -/
abbrev causeCtlProto : BitVec 8 := 0x0B
/-- SP_ADDR. -/
abbrev causeSpAddr : BitVec 8 := 0x0C
/-- SP_OWNED. -/
abbrev causeSpOwned : BitVec 8 := 0x0D
/-- SP_REQ. -/
abbrev causeSpReq : BitVec 8 := 0x0E
/-- RACE. -/
abbrev causeRace : BitVec 8 := 0x10
/-- USER. -/
abbrev causeUser : BitVec 8 := 0x11
/-- SPILL_FULL. -/
abbrev causeSpillFull : BitVec 8 := 0x12
/-- TEMPO_WEIR. -/
abbrev causeTempoWeir : BitVec 8 := 0x13
/-- UNMAPPED. -/
abbrev causeUnmapped : BitVec 8 := 0x14
/-- PERM. -/
abbrev causePerm : BitVec 8 := 0x15
/-- SEG_UE. -/
abbrev causeSegUe : BitVec 8 := 0x16
/-- CFG_PARITY. -/
abbrev causeCfgParity : BitVec 8 := 0x17
/-- SEQ_ILLEGAL. -/
abbrev causeSeqIllegal : BitVec 8 := 0x20
/-- SEQ_ADDR. -/
abbrev causeSeqAddr : BitVec 8 := 0x21
/-- SEQ_RANGE. -/
abbrev causeSeqRange : BitVec 8 := 0x22
/-- SEQ_SEED. -/
abbrev causeSeqSeed : BitVec 8 := 0x23
/-- SEQ_TAIL. -/
abbrev causeSeqTail : BitVec 8 := 0x24
/-- CMD_BAD. -/
abbrev causeCmdBad : BitVec 8 := 0x25
/-- CMD_FAIL. -/
abbrev causeCmdFail : BitVec 8 := 0x26

/-! ### Targets (01 R17-R21) -/

/-- A sticky bit of a node word: LK is bit 27, RK bit 26; the predicate latch is never sticky (R15, R17). -/
def stickyAt (w : Word64) : Pos → Bool
  | .left => Word.bit w 27
  | .right => Word.bit w 26
  | .pred => false

namespace Slot

/-- A latch of a slot. -/
def at_ (sl : Slot) : Pos → Option Tok
  | .left => sl.left
  | .right => sl.right
  | .pred => sl.pred

/-- A latch with new contents. Which of two waiting tokens came first is noted for `merge` (R123). -/
def put (sl : Slot) (p : Pos) (t : Option Tok) : Slot :=
  match p with
  | .left => { sl with left := t, leftFirst := if t.isSome then sl.right.isNone else false }
  | .right => { sl with right := t, leftFirst := if t.isSome then sl.left.isSome else true }
  | .pred => { sl with pred := t }

/-- A token arriving at a latch: a sticky latch keeps the latest token and discards a marker (R17, R60). -/
def arrive (sl : Slot) (p : Pos) (t : Tok) : Slot :=
  if stickyAt sl.word p && t.tt.isMarker then sl else sl.put p (some t)

/-- Whether a latch takes a token now (R17). -/
def accepts (sl : Slot) (p : Pos) : Bool := stickyAt sl.word p || (sl.at_ p).isNone

end Slot

/-- DVC of a route entry (R21). -/
def routeDvc (e : Word64) : BitVec 5 := Word.field e 42 5
/-- DTILE of a route entry (R21). -/
def routeTile (e : Word64) : Nat := (Word.field e 47 11).toNat

/-- Whether the first hop of a route is empty. -/
def routeFree (t : Tile) (r : Nat) : Bool :=
  match (t.routes.getD r {}).hops with
  | none :: _ => true
  | _ => false

/-- Whether a target of a tile takes a token now (R17, R19). -/
def targetFree (t : Tile) : Tgt → Bool
  | .none => true
  | .latch p n => (t.slots.getD n.toNat {}).accepts p
  | .route r => routeFree t r.toNat
  | .port p => !(t.ports.has p.toNat)

/-- A route with a token in its first hop, with the route's VC (R21, R58). -/
def routePut (t : Tile) (r : Nat) (tok : Tok) : Tile :=
  let rt := t.routes.getD r {}
  match rt.hops with
  | [] => t
  | _ :: hs => { t with routes := t.routes.put r { rt with hops := some { tok with vc := routeDvc rt.entry } :: hs } }

/-- A marker or fault token arriving at a port of the projection engine is held for the places that are COMPLETE now (R116). -/
def pjHold (u : PjUnit) (p : Nat) (x : Tok) : PjUnit :=
  if 0x10 ≤ p && p ≤ 0x12 && (x.tt.isMarker || x.tt == .fault) then { u with held := u.held.put p u.ready.length } else u

/-- A parcel reaches a target that is free, with the VC it has there (R17-R20, R41). A token into a sequencer port also offers itself to its FIFO (R195). -/
def land (s : State) (k : TileKey) (d : Tgt) (x : Parcel) : State :=
  let t := s.tile k
  match d with
  | .none => s
  | .latch p n => s.setSlot k n.toNat ((s.slot k n.toNat).arrive p x.tok)
  | .route r => s.setTile k (routePut t r.toNat x.tok)
  | .port p =>
      let y := if p == 0x31 then { x with round := (s.port k).cr } else x
      let s1 := s.setTile k { t with ports := t.ports.put p.toNat y, pj := pjHold t.pj p.toNat x.tok }
      if 0x40 ≤ p && p ≤ 0x47 then
        let q := s1.seq k
        s1.setSeq k { q with offers := q.offers.upd (p.toNat - 0x40) [] (fun l => l ++ [.fabric]) }
      else s1

/-! ### Accesses without a completion token (12 R289-R291) -/

/-- The unit port at which a token for a target ends up, if it is one (R19, R21). -/
def portOfTgt (t : Tile) : Tgt → Option Nat
  | .port p => some p.toNat
  | .route r =>
      let e := (t.routes.getD r.toNat {}).entry
      if Word.field e 40 2 == (3 : BitVec 2) then some (Word.field e 27 8).toNat else none
  | _ => none

/-- Whether a token sent to a port is an access that returns no completion token: an update for `pt.q`, addresses for `pt.g`, an owner update with REPLY = 0 (R290). A fault token at `pt.g` is one that will be diverted. -/
def opensAccess (p : Nat) (x : Tok) : Bool :=
  ((x.tt == .data || x.tt == .control) && (p == 0x30 || p == 0x31 || (p == 0x21 && !Word.bit (Word.lane x.pay 0) 5)))
  || (x.tt == .fault && p == 0x31)

/-- A token about to be sent to a target, with the access it initiates (R290). -/
def openAcc (s : State) (k : TileKey) (d : Tgt) (x : Tok) : State × Tok :=
  match portOfTgt (s.tile k) d with
  | some p =>
      if x.acc.isNone && opensAccess p x then
        ({ s with accs := s.accs.put s.nextAcc false, nextAcc := s.nextAcc + 1 }, { x with acc := some s.nextAcc, hb := s.nextAcc :: x.hb })
      else (s, x)
  | none => (s, x)

/-- The union of two lists of accesses. -/
def hbJoin (a b : List Nat) : List Nat := b.foldl (fun x n => if x.contains n then x else x ++ [n]) a

/-- The accesses that happen before any of some tokens and are not yet performed everywhere. -/
def pastOf (s : State) (ts : List Tok) : List Nat := (ts.foldl (fun a t => hbJoin a t.hb) []).filter s.accs.has

/-- A token with what happens before the action that sends it. -/
def Tok.after (t : Tok) (h : List Nat) : Tok := { t with hb := hbJoin h t.hb }

/-- An access is performed everywhere (R291). -/
def accDone (s : State) : Option Nat → State
  | some a => { s with accs := s.accs.del a }
  | none => s

/-- An update has been stamped at its landing: it is performed at NODE and REGION (R291). -/
def accStamped (s : State) : Option Nat → State
  | some a => if s.accs.has a then { s with accs := s.accs.put a true } else s
  | none => s

/-! ### Delivery (01 R17-R21, 03 R58) -/

/-- Deliver a parcel to a target of its own tile that is free: a token that a local target delivers carries VC 0, one that leaves on a route the VC of its route (R21, R41). -/
def deliver (s : State) (k : TileKey) (d : Tgt) (x : Parcel) : State :=
  let r := openAcc s k d x.tok
  land r.1 k d { x with tok := { r.2 with vc := 0 } }

/-- Deliver an optional token to a target. -/
def deliverTok (s : State) (k : TileKey) (d : Tgt) (t : Option Tok) : State :=
  match t with
  | some t => deliver s k d { tok := t }
  | none => s

/-- Whether two targets are the right and the left latch of one slot, in this order: of tokens that arrive there in one cycle the left comes first (R123). -/
def leftSecond : Tgt → Tgt → Bool
  | .latch .right m, .latch .left n => m == n
  | _, _ => false

/-- Deliver up to two tokens of one action to two targets. -/
def deliverPair (s : State) (k : TileKey) (da db : Tgt) (a b : Option Tok) : State :=
  if leftSecond da db then deliverTok (deliverTok s k db b) k da a else deliverTok (deliverTok s k da a) k db b

/-- An optional token for a target, with the access it initiates. -/
def openTok (s : State) (k : TileKey) (d : Tgt) : Option Tok → State × Option Tok
  | some t => ((openAcc s k d t).1, some (openAcc s k d t).2)
  | none => (s, none)

/-- The parcel of an optional token for a target. -/
def tokEmit (d : Tgt) (t : Option Tok) : List Emit := if d == .none then [] else t.toList.map (fun x => { dst := d, parcel := { tok := x } })

/-- The parcels of up to two tokens for two targets, in the order in which they leave. -/
def pairEmits (da db : Tgt) (a b : Option Tok) : List Emit :=
  if leftSecond da db then tokEmit db b ++ tokEmit da a else tokEmit da a ++ tokEmit db b

/-- One token to two targets, with every access that either delivery initiates. -/
def deliver2 (s : State) (k : TileKey) (da db : Tgt) (x : Tok) : State :=
  let a := openAcc s k da x
  let b := openAcc a.1 k db x
  let own := a.2.acc.toList ++ b.2.acc.toList
  deliverPair b.1 k da db (some (a.2.after own)) (some (b.2.after own))

/-- One action of a slot sends up to two tokens, each with every access that either of them initiates: to targets that are free, or, for a slot that acts with a latency, into its pipe (R58, R61). -/
def sendBoth (s : State) (k : TileKey) (n : Nat) (da db : Tgt) (a b : Option Tok) : State :=
  let x := openTok s k da a
  let y := openTok x.1 k db b
  let own := (x.2.bind (·.acc)).toList ++ (y.2.bind (·.acc)).toList
  let a1 := x.2.map (fun t => t.after own)
  let b1 := y.2.map (fun t => t.after own)
  match s.focus with
  | .pipe .. => y.1.setSlot k n { y.1.slot k n with out := pairEmits da db a1 b1 }
  | _ => deliverPair y.1 k da db a1 b1

/-- One action of a slot sends one parcel, as `sendBoth` sends tokens. -/
def sendOne (s : State) (k : TileKey) (n : Nat) (d : Tgt) (x : Parcel) : State :=
  match s.focus with
  | .pipe .. => s.setSlot k n { s.slot k n with out := [{ dst := d, parcel := x }] }
  | _ => deliver s k d x

/-- Whether every parcel's target is free. -/
def allFree (t : Tile) (es : List Emit) : Bool := es.all (fun e => targetFree t e.dst)

/-- Deliver parcels one after another. -/
def deliverAll (s : State) (k : TileKey) : List Emit → State
  | [] => s
  | e :: es => deliverAll (deliver s k e.dst e.parcel) k es

/-- Whether some node slot of the tile targets a route (R92, R136, R146, R162). -/
def slotTargets (t : Tile) (r : Nat) : Bool :=
  t.slots.any (fun x =>
    Tgt.ofCode (Word.field x.2.word 40 12) == some (.route (BitVec.ofNat 4 r)) || Tgt.ofCode (Word.field x.2.word 28 12) == some (.route (BitVec.ofNat 4 r)))

/-- A valid route that no slot targets (R92, R146, R162). DEDUCED (log 157): only TGA and TGB target a route here; one that a `join` releases on (R136) is not targeted by it. -/
def unitRoute (t : Tile) (r : Nat) : Bool := t.routes.has r && !slotTargets t r

/-! ### The census and counters -/

/-- Add 1 to counter lanes of a tile (R56). -/
def countTile (s : State) (k : TileKey) (lanes : List Nat) : State :=
  if lanes.isEmpty then s else s.setTile k { s.tile k with counts := countLanes (s.tile k).counts lanes }

/-- Why a census change cannot take place: below zero or above 2^31 - 1 (R120, R251). -/
def censusTrap (c d : Int) : Option (BitVec 8) :=
  if c + d < 0 then some causeCensusNeg else if 2147483647 < c + d then some causeCensusOvf else none

/-- Change a region's census (R120). -/
def censusAdd (s : State) (r : Nat) (d : Int) : State :=
  if d == 0 then s else s.setRegion r { s.region r with census := (s.region r).census + d }

end Sys2Proof.Machine
end

