-- ==== Sys2Proof/Machine/Completion.lean ====
section
/-! DEFINITION. Completion records of packets (14 R315, R316). -/

namespace Sys2Proof.Machine

namespace Status

/-- The completion status codes of R316. -/
abbrev ok : Nat := 0
/-- LATE_DROPPED. -/
abbrev lateDropped : Nat := 1
/-- BADTYPE. -/
abbrev badType : Nat := 2
/-- BADHANDLE. -/
abbrev badHandle : Nat := 3
/-- BADREQ. -/
abbrev badReq : Nat := 4
/-- TOOBIG. -/
abbrev tooBig : Nat := 5
/-- DENIED. -/
abbrev denied : Nat := 6
/-- NOTARGET. -/
abbrev noTarget : Nat := 7
/-- KILLED. -/
abbrev killed : Nat := 8
/-- FEATURE. -/
abbrev feature : Nat := 9
/-- CFG. -/
abbrev cfg : Nat := 10
/-- NET_ERR. -/
abbrev netErr : Nat := 11

end Status

/-- A completion record before it is written: status, FLAGS, RESULT and START (R315). -/
structure Completion where
  status : Nat
  flags  : Nat := 0
  result : Nat := 0
  start  : BitVec 64 := 0
  deriving DecidableEq, Repr

/-- The 32 bytes of a completion record (R315). -/
def completionBytes (ticket : BitVec 64) (c : Completion) (fin : BitVec 64) : List Byte :=
  Word.toBytes 8 ticket ++ Word.toBytes 2 (BitVec.ofNat 16 c.status) ++ Word.toBytes 2 (BitVec.ofNat 16 c.flags)
    ++ Word.toBytes 4 (BitVec.ofNat 32 c.result) ++ Word.toBytes 8 c.start ++ Word.toBytes 8 fin

/-- The host address of the next record of a queue's ring (R315). -/
def completionAddr (q : Queue) : Nat := q.ring.toNat + 32 * (q.done % q.entries.toNat)

/-- A packet completes: its record is written into the queue's ring, and it stands no longer among the queue's open packets (R315). -/
def completePacket (s : State) (q : Nat) (ticket : BitVec 64) (c : Completion) : State :=
  let x := s.queue q
  { s.setQueue q { x with done := x.done + 1, opens := x.opens.filter (fun o => o.ticket != ticket) } with
    host := Mem.writeN s.host (completionAddr x) (completionBytes ticket c s.dev.dtime) }

end Sys2Proof.Machine
end

