-- ==== Sys2Proof/Machine/Float.lean ====
section
/-! DEFINITION. F32 and BF16 arithmetic (02 R44-R46, 03 R70-R78): operands are read as exact values, results are computed exactly, and one function rounds. -/

namespace Sys2Proof.Fp

/-- A binary format with 8 exponent bits and `frac` fraction bits (R44, R46). -/
structure Fmt where
  frac : Nat
  deriving DecidableEq, Repr

/-- F32 (R44). -/
def f32 : Fmt := ⟨23⟩
/-- BF16 (R46). -/
def bf16 : Fmt := ⟨7⟩

/-- The value of a pattern: a NaN, an infinity or the exact value (-1)^neg * m * 2^e. -/
inductive Val where
  | nan
  | inf (neg : Bool)
  | fin (neg : Bool) (m : Nat) (e : Int)
  deriving DecidableEq, Repr

/-- What the statistics network counts for one element, lanes 7 to 10 (R56, R62). -/
structure Note where
  invalid : Bool := false
  ovf     : Bool := false
  tiny    : Bool := false
  divZero : Bool := false
  deriving DecidableEq, Repr

/-- A result pattern with what is counted for it. -/
structure Res where
  bits : Nat
  note : Note := {}
  deriving DecidableEq, Repr

namespace Fmt

/-- The pattern of +infinity. -/
def infBits (f : Fmt) : Nat := 255 * 2 ^ f.frac
/-- The canonical quiet NaN (R45). -/
def nanBits (f : Fmt) : Nat := 255 * 2 ^ f.frac + 2 ^ (f.frac - 1)
/-- The pattern of the largest finite magnitude. -/
def maxBits (f : Fmt) : Nat := 255 * 2 ^ f.frac - 1
/-- The sign bit. -/
def signBit (f : Fmt) : Nat := 2 ^ (f.frac + 8)
/-- The exponent of the lowest bit of a subnormal. -/
def emin (f : Fmt) : Int := -126 - f.frac
/-- A pattern with a sign. -/
def signed (f : Fmt) (neg : Bool) (b : Nat) : Nat := if neg then f.signBit + b else b

/-- The value of a pattern (R44, R46). -/
def read (f : Fmt) (bits : Nat) : Val :=
  let neg := bits / f.signBit % 2 == 1
  let ex := bits / 2 ^ f.frac % 256
  let fr := bits % 2 ^ f.frac
  if ex == 255 then (if fr == 0 then .inf neg else .nan)
  else if ex == 0 then .fin neg fr f.emin
  else .fin neg (2 ^ f.frac + fr) (f.emin + ((ex : Int) - 1))

end Fmt

/-- Whether a remainder `r` of `2^d` units rounds the integer `n` up (R44). -/
def roundUp (mode : RMode) (neg : Bool) (n r unit : Nat) : Bool :=
  match mode with
  | .rn => unit < 2 * r || (2 * r == unit && n % 2 == 1)
  | .rna => unit ≤ 2 * r && r != 0
  | .rz => false
  | .ru => !neg && r != 0
  | .rd => neg && r != 0

/-- m * 2^e as an integer rounded in a mode: the quotient and whether it is inexact (R78). -/
def toIntegral (mode : RMode) (neg : Bool) (m : Nat) (e : Int) : Nat :=
  if 0 ≤ e then m * 2 ^ e.toNat
  else
    let unit := 2 ^ (-e).toNat
    let n := m / unit
    if roundUp mode neg n (m % unit) unit then n + 1 else n

/-- The number of bits of a natural. -/
def bitLen (n : Nat) : Nat := if n == 0 then 0 else n.log2 + 1

/-- Overflow by mode (R44). -/
def overflow (f : Fmt) (mode : RMode) (neg : Bool) : Nat :=
  match mode with
  | .rn | .rna => f.signed neg f.infBits
  | .rz => f.signed neg f.maxBits
  | .ru => f.signed neg (if neg then f.maxBits else f.infBits)
  | .rd => f.signed neg (if neg then f.infBits else f.maxBits)

/-- The exact value (-1)^neg * m * 2^e rounded once to a format (R44), with its counts (R56, R62): an overflow is counted for an exact magnitude above the largest finite one (log 20). DESIGN CHOICE (log 103): in RN and RNA a magnitude above the largest finite one by less than half an ulp rounds to it, as nearest does, and not to infinity, as R44's overflow sentence read alone would have it. A zero keeps the sign `neg`. -/
def round (f : Fmt) (mode : RMode) (neg : Bool) (m : Nat) (e : Int) : Res :=
  if m == 0 then ⟨f.signed neg 0, {}⟩
  else
    let t := max (e + bitLen m - (f.frac + 1)) f.emin
    let unit := 2 ^ (t - e).toNat
    let n := if t ≤ e then m * 2 ^ (e - t).toNat else m / unit
    let r := if t ≤ e then 0 else m % unit
    let n' := if t ≤ e then n else if roundUp mode neg n r unit then n + 1 else n
    let pat := (t - f.emin).toNat * 2 ^ f.frac + n'
    let cut := (t - f.emin).toNat * 2 ^ f.frac + n
    let beyond := f.infBits ≤ cut || (cut == f.maxBits && r != 0)
    let isTiny := e + bitLen m ≤ -126 && r != 0
    if f.infBits ≤ pat then ⟨overflow f mode neg, { ovf := true }⟩
    else ⟨f.signed neg pat, { ovf := beyond, tiny := isTiny }⟩

/-- The canonical NaN, counted invalid unless an operand was NaN (R45, R71). -/
def nanRes (f : Fmt) (operandNan : Bool) : Res := ⟨f.nanBits, { invalid := !operandNan }⟩

/-- An infinity that no rounding produced. -/
def infRes (f : Fmt) (neg : Bool) : Res := ⟨f.signed neg f.infBits, {}⟩

/-- The negation of an exact value. -/
def Val.neg : Val → Val
  | .nan => .nan
  | .inf n => .inf (!n)
  | .fin n m e => .fin (!n) m e

/-- The product of two values; `none` for an invalid 0 * infinity (R71). -/
def mulV : Val → Val → Option Val
  | .nan, _ | _, .nan => some .nan
  | .inf a, .inf b => some (.inf (a != b))
  | .inf a, .fin b m _ | .fin b m _, .inf a => if m == 0 then none else some (.inf (a != b))
  | .fin a m e, .fin b n g => some (.fin (a != b) (m * n) (e + g))

/-- The exact sum of two finite values, as a sign, a magnitude and an exponent; an exact zero takes its sign under IEEE 754-2019 (R44). -/
def addFin (mode : RMode) (a : Bool) (m : Nat) (e : Int) (b : Bool) (n : Nat) (g : Int) : Bool × Nat × Int :=
  let lo := min e g
  let x : Int := m * 2 ^ (e - lo).toNat
  let y : Int := n * 2 ^ (g - lo).toNat
  let s := (if a then -x else x) + (if b then -y else y)
  if s == 0 then ((if a == b then a else mode == .rd), 0, lo) else (s < 0, s.natAbs, lo)

/-- The sum of two values rounded once (R71). -/
def addV (f : Fmt) (mode : RMode) (x y : Val) : Res :=
  match x, y with
  | .nan, _ | _, .nan => nanRes f true
  | .inf a, .inf b => if a == b then infRes f a else nanRes f false
  | .inf a, .fin _ _ _ | .fin _ _ _, .inf a => infRes f a
  | .fin a m e, .fin b n g =>
      let s := addFin mode a m e b n g
      round f mode s.1 s.2.1 s.2.2

/-- `fadd` (R71). -/
def add (f : Fmt) (mode : RMode) (l r : Nat) : Res := addV f mode (f.read l) (f.read r)
/-- `fsub` (R71). -/
def sub (f : Fmt) (mode : RMode) (l r : Nat) : Res := addV f mode (f.read l) (f.read r).neg

/-- A value rounded once. -/
def roundV (f : Fmt) (mode : RMode) : Val → Res
  | .nan => nanRes f true
  | .inf n => infRes f n
  | .fin n m e => round f mode n m e

/-- `fmul` (R71). -/
def mul (f : Fmt) (mode : RMode) (l r : Nat) : Res :=
  match mulV (f.read l) (f.read r) with
  | none => nanRes f false
  | some v => roundV f mode v

/-- `fma`, `fms`, `fnma`: the product and the addend with one rounding (R71). -/
def fused (f : Fmt) (mode : RMode) (negProd negAdd : Bool) (l r p : Nat) : Res :=
  let c := f.read p
  match mulV (f.read l) (f.read r) with
  | none => nanRes f (c == .nan)
  | some v => addV f mode (if negProd then v.neg else v) (if negAdd then c.neg else c)

/-- The exact ratio num / den rounded once; den is not 0. A remainder is kept as one low bit below 64 or more bits of the quotient, which rounds as the ratio does. -/
def roundRatio (f : Fmt) (mode : RMode) (neg : Bool) (num den : Nat) : Res :=
  let k := 64 + bitLen den - bitLen num
  let q := num * 2 ^ k / den
  let r := num * 2 ^ k % den
  round f mode neg (2 * q + (if r == 0 then 0 else 1)) (-(k : Int) - 1)

/-- m * 2^e as a ratio of naturals. -/
def ratio (m : Nat) (e : Int) : Nat × Nat := if 0 ≤ e then (m * 2 ^ e.toNat, 1) else (m, 2 ^ (-e).toNat)

/-- `fdiv` (R75). -/
def div (f : Fmt) (mode : RMode) (l r : Nat) : Res :=
  match f.read l, f.read r with
  | .nan, _ | _, .nan => nanRes f true
  | .inf _, .inf _ => nanRes f false
  | .inf a, .fin b _ _ => infRes f (a != b)
  | .fin a _ _, .inf b => ⟨f.signed (a != b) 0, {}⟩
  | .fin a m e, .fin b n g =>
      if n == 0 then
        (if m == 0 then nanRes f false else ⟨f.signed (a != b) f.infBits, { divZero := true }⟩)
      else if m == 0 then ⟨f.signed (a != b) 0, {}⟩
      else
        let x := ratio m e
        let y := ratio n g
        roundRatio f mode (a != b) (x.1 * y.2) (x.2 * y.1)

/-- The integer square root by its bits, from bit `b - 1` down. -/
def isqrtFrom (x : Nat) : Nat → Nat → Nat
  | 0, r => r
  | b + 1, r => isqrtFrom x b (if (r + 2 ^ b) * (r + 2 ^ b) ≤ x then r + 2 ^ b else r)

/-- The integer square root. -/
def isqrt (x : Nat) : Nat := isqrtFrom x (bitLen x / 2 + 1) 0

/-- The square root of num / den rounded once, by 64 or more bits of the root and one low bit for a remainder. -/
def roundSqrt (f : Fmt) (mode : RMode) (num den : Nat) : Res :=
  let k := 66 + (bitLen den + 1 - bitLen num) / 2 + 1
  let x := num * 2 ^ (2 * k) / den
  let q := isqrt x
  let isExact := q * q * den == num * 2 ^ (2 * k)
  round f mode false (2 * q + (if isExact then 0 else 1)) (-(k : Int) - 1)

/-- `fsqrt` (R75). -/
def sqrt (f : Fmt) (mode : RMode) (l : Nat) : Res :=
  match f.read l with
  | .nan => nanRes f true
  | .inf n => if n then nanRes f false else infRes f false
  | .fin n m e =>
      if m == 0 then ⟨f.signed n 0, {}⟩
      else if n then nanRes f false
      else let x := ratio m e; roundSqrt f mode x.1 x.2

/-- `frcp` (R75). -/
def rcp (f : Fmt) (mode : RMode) (l : Nat) : Res :=
  match f.read l with
  | .nan => nanRes f true
  | .inf n => ⟨f.signed n 0, {}⟩
  | .fin n m e =>
      if m == 0 then ⟨f.signed n f.infBits, { divZero := true }⟩
      else let x := ratio m e; roundRatio f mode n x.2 x.1

/-- `frsqrt` (R75). -/
def rsqrt (f : Fmt) (mode : RMode) (l : Nat) : Res :=
  match f.read l with
  | .nan => nanRes f true
  | .inf n => if n then nanRes f false else ⟨0, {}⟩
  | .fin n m e =>
      if m == 0 then ⟨f.signed n f.infBits, { divZero := true }⟩
      else if n then nanRes f false
      else let x := ratio m e; roundSqrt f mode x.2 x.1

/-! ### Powers and logarithms of two (R76)

Fixed-point numbers with 512 fraction bits. A result is irrational unless its rule names it exact, so its first bits and one low bit below them round as the exact value does (log 21). -/

/-- Fraction bits of the fixed-point numbers. -/
def fxBits : Nat := 512

/-- The sum of z^(2k+1) / (2k+1) from a power `p` of z, over `n` terms. -/
def atanhSum (z2 : Nat) : Nat → Nat → Nat → Nat → Nat
  | 0, _, _, acc => acc
  | n + 1, k, p, acc => atanhSum z2 n (k + 2) (p * z2 / 2 ^ fxBits) (acc + p / k)

/-- ln ((1 + z) / (1 - z)) for a ratio z = a / b of at most 1/3. -/
def lnRatio (a b : Nat) : Nat :=
  let z := a * 2 ^ fxBits / b
  2 * atanhSum (z * z / 2 ^ fxBits) 170 1 z 0

/-- ln 2. -/
def ln2 : Nat := lnRatio 1 3

/-- The sum of x^k / k! from a term on, over `n` terms. -/
def expSum (x : Int) : Nat → Nat → Int → Int → Int
  | 0, _, _, acc => acc
  | n + 1, k, t, acc => expSum x n (k + 1) (t * x / ((k : Int) * 2 ^ fxBits)) (acc + t)

/-- 2^x for a fixed-point x in [-1, 1]. -/
def pow2 (x : Int) : Nat := (expSum (x * ln2 / 2 ^ fxBits) 130 1 (2 ^ fxBits) 0).toNat

/-- `exp2f` (R76). -/
def exp2 (f : Fmt) (mode : RMode) (l : Nat) : Res :=
  match f.read l with
  | .nan => nanRes f true
  | .inf _ => nanRes f false
  | .fin n m e =>
      let x := ratio m e
      if m == 0 then round f mode false 1 0
      else if x.2 < x.1 then nanRes f false
      else if x.1 == x.2 then round f mode false 1 (if n then -1 else 1)
      else
        let fx : Int := (x.1 * 2 ^ fxBits / x.2 : Nat)
        let v := pow2 (if n then -fx else fx)
        round f mode false (2 * (v / 2 ^ (fxBits - 200)) + 1) (-201)

/-- `log2f` (R76). -/
def log2 (f : Fmt) (mode : RMode) (l : Nat) : Res :=
  match f.read l with
  | .nan => nanRes f true
  | .inf n => if n then nanRes f false else infRes f false
  | .fin n m e =>
      if m == 0 then ⟨f.signed true f.infBits, { divZero := true }⟩
      else if n then nanRes f false
      else
        let b := bitLen m - 1
        let ex : Int := e + b
        if m == 2 ^ b then round f mode (ex < 0) ex.natAbs 0
        else
          let g : Int := (lnRatio (m - 2 ^ b) (m + 2 ^ b) * 2 ^ fxBits / ln2 : Nat)
          let v : Int := ex * 2 ^ fxBits + g
          round f mode (v < 0) (2 * (v.natAbs / 2 ^ (fxBits - 200)) + 1) (-201)

/-- `ldx` (R77). -/
def ldx (f : Fmt) (mode : RMode) (l : Nat) (n : Int) : Res :=
  match f.read l with
  | .nan => ⟨f.nanBits, {}⟩
  | .inf _ => ⟨l, {}⟩
  | .fin s m e => if m == 0 then ⟨l, {}⟩ else round f mode s m (e + n)

/-! ### Comparisons and selections (R72-R74) -/

/-- Whether a value is a NaN. -/
def isNan (f : Fmt) (b : Nat) : Bool := f.read b == .nan

/-- Exact comparison of two values that are no NaN: -1, 0 or 1 (R73). -/
def cmpV : Val → Val → Int
  | .inf a, .inf b => if a == b then 0 else if a then -1 else 1
  | .inf a, _ => if a then -1 else 1
  | _, .inf b => if b then 1 else -1
  | .fin a m e, .fin b n g =>
      let lo := min e g
      let x : Int := m * 2 ^ (e - lo).toNat
      let y : Int := n * 2 ^ (g - lo).toNat
      let s := (if a then -x else x) - (if b then -y else y)
      if s < 0 then -1 else if s == 0 then 0 else 1
  | _, _ => 0

/-- Comparison of two patterns that are no NaN. -/
def cmp (f : Fmt) (l r : Nat) : Int := cmpV (f.read l) (f.read r)

/-- `fmin` and `fmax` (R72). -/
def minMax (f : Fmt) (wantMax : Bool) (l r : Nat) : Nat :=
  match isNan f l, isNan f r with
  | true, true => f.nanBits
  | true, false => r
  | false, true => l
  | false, false =>
      let c := cmp f l r
      if c == 0 then
        (let neg := l / f.signBit % 2 == 1
         if (l / f.signBit) == (r / f.signBit) then l
         else if neg == wantMax then r else l)
      else if (c == 1) == wantMax then l else r

/-- `fcmp` (R73). -/
def cond (f : Fmt) (c : BitVec 3) (l r : Nat) : Bool :=
  let un := isNan f l || isNan f r
  let k := cmp f l r
  match c.toNat with
  | 0 => !un && k == 0
  | 1 => un || k != 0
  | 2 => !un && k == -1
  | 3 => !un && k != 1
  | 4 => !un && k == 1
  | 5 => !un && k != -1
  | _ => un

/-- The class number of an F32 pattern (R74). -/
def classOf (b : Nat) : Nat :=
  let neg := b / 2 ^ 31 % 2 == 1
  let ex := b / 2 ^ 23 % 256
  let fr := b % 2 ^ 23
  if ex == 255 then (if fr == 0 then (if neg then 0 else 7) else if fr / 2 ^ 22 == 1 then 9 else 8)
  else if ex == 0 then (if fr == 0 then (if neg then 3 else 4) else if neg then 2 else 5)
  else if neg then 1 else 6

/-- `rndi` to TGA: the integral value as F32 (R78). -/
def rndiF (mode : RMode) (l : Nat) : Nat :=
  match f32.read l with
  | .nan => f32.nanBits
  | .inf _ => l
  | .fin n m e => (round f32 .rz n (toIntegral mode n m e) 0).bits

/-- An F32 as an integer: rounded to integral, then clamped to a range; NaN gives 0 (R78, R80). -/
def toInt (mode : RMode) (lo hi : Int) (l : Nat) : Int :=
  match f32.read l with
  | .nan => 0
  | .inf n => if n then lo else hi
  | .fin n m e =>
      let v : Int := toIntegral mode n m e
      let v := if n then -v else v
      if v < lo then lo else if hi < v then hi else v

/-- An integer rounded once to F32 (R79). -/
def ofInt (mode : RMode) (v : Int) : Res := round f32 mode (v < 0) v.natAbs 0

/-- F32 narrowed to BF16 (R46). -/
def narrow (mode : RMode) (l : Nat) : Res := roundV bf16 mode (f32.read l)

end Sys2Proof.Fp
end

