-- ==== Sys2Proof/Machine/Arith.lean ====
section
/-! DEFINITION. What the arithmetic, conversion and lane instructions compute on the payloads of one firing (03 R57-R87; 02 R42-R50). No state is touched here. -/

namespace Sys2Proof.Machine

/-- The result of one computation: the payloads for TGA and TGB, and the counter lanes of R56 it adds 1 to, one entry each. -/
structure Calc where
  a     : Payload
  b     : Payload
  tally : List Nat := []
  deriving DecidableEq, Repr

/-- The same payload to both targets (R58). -/
def Calc.both (p : Payload) (tally : List Nat := []) : Calc := ⟨p, p, tally⟩

/-- The lanes of R56 that a note counts. -/
def noteLanes (n : Fp.Note) : List Nat :=
  (if n.invalid then [7] else []) ++ (if n.ovf then [8] else []) ++ (if n.tiny then [9] else []) ++ (if n.divZero then [10] else [])

/-! ### Elements -/

/-- The element width of a type (R42). -/
def Ty.width : Ty → Nat
  | .i16x2 | .bf16x2 => 16
  | .i8x4 => 8
  | _ => 32

/-- Whether a type is read unsigned (R47). -/
def Ty.unsigned : Ty → Bool
  | .u32 => true
  | _ => false

/-- A pattern of width `w` read as an integer (R47). -/
def readInt (w : Nat) (uns : Bool) (x : Nat) : Int := if uns || x < 2 ^ (w - 1) then x else (x : Int) - 2 ^ w

/-- The least value of an integer type (R47). -/
def loOf (w : Nat) (uns : Bool) : Int := if uns then 0 else -(2 ^ (w - 1) : Nat)
/-- The greatest value of an integer type (R47). -/
def hiOf (w : Nat) (uns : Bool) : Int := if uns then (2 ^ w : Nat) - 1 else (2 ^ (w - 1) : Nat) - 1

/-- An exact integer reduced to a pattern of width `w` (R47, R64). -/
def reduceInt (w : Nat) (uns sat : Bool) (v : Int) : Nat :=
  let v := if sat then Word.clamp (loOf w uns) (hiOf w uns) v else v
  (v % (2 ^ w : Nat)).toNat

/-- The elements of a lane, low first (R42). -/
def elems (w : Nat) (x : Lane) : List Nat := (List.range (32 / w)).map (fun j => x.toNat / 2 ^ (w * j) % 2 ^ w)

/-- The lane with the given elements, low first. -/
def packElems (w : Nat) (es : List Nat) : Lane := BitVec.ofNat 32 (es.foldr (fun e acc => acc * 2 ^ w + e % 2 ^ w) 0)

/-- One integer operation on each element of a lane (R64). -/
def intLane (ty : Ty) (sat : Bool) (f : Int → Int → Int → Int) (l r p : Lane) : Lane :=
  let w := Ty.width ty
  let u := Ty.unsigned ty
  packElems w ((List.range (32 / w)).map fun j =>
    reduceInt w u sat (f (readInt w u ((elems w l).getD j 0)) (readInt w u ((elems w r).getD j 0)) (readInt w u ((elems w p).getD j 0))))

/-- Whether lane `i` is enabled (R59). -/
def laneOn (w : NodeOp) (p : Payload) (i : Nat) : Bool := !w.pe || (p.getLsbD i != w.pn)

/-- A lane operation under the predicate: a disabled lane passes the left lane (R59). -/
def predLanes (w : NodeOp) (l p : Payload) (f : Nat → Lane) : Payload :=
  Word.ofLanes fun i => if laneOn w p i then f i else Word.lane l i

/-- An integer instruction of R64. -/
def intCalc (w : NodeOp) (f : Int → Int → Int → Int) (l r p : Payload) : Calc :=
  .both (predLanes w l p fun i => intLane w.ty w.sat f (Word.lane l i) (Word.lane r i) (Word.lane p i))

/-- `div` with its corner (R65). -/
def divInt (ty : Ty) (sat : Bool) (l r : Int) : Int :=
  if r == 0 then
    (if !sat then 0 else if 0 < l then hiOf 32 (Ty.unsigned ty) else if l < 0 then loOf 32 (Ty.unsigned ty) else 0)
  else l.tdiv r

/-- `rem` (R65). -/
def remInt (l r : Int) : Int := if r == 0 then l else l - l.tdiv r * r

/-- The immediate of `addi` (R64). -/
def immInt (ty : Ty) (imm : BitVec 16) : Int := if Ty.unsigned ty then (imm.toNat : Int) else imm.toInt

/-- A mask token: bits [15:0] hold the mask, the rest are zero (R43). -/
def maskOf (f : Nat → Bool) : Payload :=
  BitVec.ofNat 512 ((List.range 16).foldr (fun i acc => 2 * acc + (if f i then 1 else 0)) 0)

/-- An integer comparison (R66). -/
def icmpHolds (cond : BitVec 3) (l r : Int) : Bool :=
  match cond.toNat with
  | 0 => l == r
  | 1 => l != r
  | 2 => l < r
  | 3 => l ≤ r
  | 4 => r < l
  | _ => r ≤ l

/-- `icmp` (R66). -/
def icmpCalc (w : NodeOp) (cond : BitVec 3) (l r : Payload) : Calc :=
  .both (maskOf fun i => icmpHolds cond (readInt 32 (Ty.unsigned w.ty) (Word.lane l i).toNat) (readInt 32 (Ty.unsigned w.ty) (Word.lane r i).toNat))

/-- A bitwise instruction: on lanes for I32, on mask bits for PRED (R59, R66). -/
def logicCalc (w : NodeOp) (f : Lane → Lane → Lane) (l r p : Payload) : Calc :=
  if w.ty == .pred then
    let x := f (Word.lane l 0) (Word.lane r 0)
    .both (maskOf fun i => if laneOn w p i then x.getLsbD i else l.getLsbD i)
  else .both (predLanes w l p fun i => f (Word.lane l i) (Word.lane r i))

/-- A 32-bit lane instruction under the predicate (R67, R68). -/
def bitCalc (w : NodeOp) (f : Lane → Lane → Lane) (l r p : Payload) : Calc :=
  .both (predLanes w l p fun i => f (Word.lane l i) (Word.lane r i))

/-- `shl` (R67). -/
def shlLane (l r : Lane) : Lane := if r.toNat < 32 then l <<< r.toNat else 0
/-- `shr` (R67). -/
def shrLane (l r : Lane) : Lane := if r.toNat < 32 then l >>> r.toNat else 0
/-- `sra` (R67). -/
def sraLane (l r : Lane) : Lane := if r.toNat < 32 then l.sshiftRight r.toNat else if l.msb then 0xFFFFFFFF else 0
/-- `rotl` (R67). -/
def rotlLane (l r : Lane) : Lane := l.rotateLeft (r.toNat % 32)
/-- `clz` (R67). -/
def clzLane (l : Lane) : Lane := BitVec.ofNat 32 (32 - Fp.bitLen l.toNat)
/-- `popc` (R67). -/
def popcLane (l : Lane) : Lane := BitVec.ofNat 32 ((List.range 32).filter (fun i => l.getLsbD i)).length
/-- `bfx` (R68). -/
def bfxLane (sgn : Bool) (wm1 pos : BitVec 5) (l : Lane) : Lane :=
  let w := wm1.toNat + 1
  let x := l.toNat / 2 ^ pos.toNat % 2 ^ w
  if sgn && 2 ^ (w - 1) ≤ x then BitVec.ofNat 32 (x + 2 ^ 32 - 2 ^ w) else BitVec.ofNat 32 x
/-- `bfi` (R68). -/
def bfiLane (wm1 pos : BitVec 5) (l r : Lane) : Lane :=
  let m : Lane := BitVec.ofNat 32 ((2 ^ (wm1.toNat + 1) - 1) * 2 ^ pos.toNat)
  (l &&& ~~~m) ||| ((r <<< pos.toNat) &&& m)

/-! ### F32 and BF16 (R70-R78) -/

/-- The format of a type. -/
def fmtOf (ty : Ty) : Fp.Fmt := if ty == .bf16x2 then Fp.bf16 else Fp.f32

/-- A rounded operation on each element of a lane, with its counts. -/
def fpLane (ty : Ty) (f : Nat → Nat → Nat → Fp.Res) (l r p : Lane) : Lane × List Nat :=
  let w := Ty.width ty
  let rs := (List.range (32 / w)).map fun j => f ((elems w l).getD j 0) ((elems w r).getD j 0) ((elems w p).getD j 0)
  (packElems w (rs.map (·.bits)), rs.flatMap (fun x => noteLanes x.note))

/-- An F32 or BF16x2 instruction under the predicate; disabled lanes count nothing (R59, R62, R71). -/
def fpCalc (w : NodeOp) (f : Nat → Nat → Nat → Fp.Res) (l r p : Payload) : Calc :=
  .both (predLanes w l p fun i => (fpLane w.ty f (Word.lane l i) (Word.lane r i) (Word.lane p i)).1)
    ((List.range 16).flatMap fun i => if laneOn w p i then (fpLane w.ty f (Word.lane l i) (Word.lane r i) (Word.lane p i)).2 else [])

/-- An instruction of R72, which never rounds and counts nothing. -/
def selCalc (w : NodeOp) (f : Nat → Nat → Nat) (l r p : Payload) : Calc := fpCalc w (fun a b _ => ⟨f a b, {}⟩) l r p

/-- `fabs`: the sign bit cleared (R72). -/
def absBits (f : Fp.Fmt) (a : Nat) : Nat := a % f.signBit
/-- `fneg`: the sign bit inverted (R72). -/
def negBits (f : Fp.Fmt) (a : Nat) : Nat := if f.signBit ≤ a then a - f.signBit else a + f.signBit
/-- `fcpsgn` (R72). -/
def cpsgnBits (f : Fp.Fmt) (a b : Nat) : Nat := absBits f a + (b / f.signBit) * f.signBit

/-- `fcmp` (R73). -/
def fcmpCalc (cond : BitVec 3) (l r : Payload) : Calc :=
  .both (maskOf fun i => Fp.cond Fp.f32 cond (Word.lane l i).toNat (Word.lane r i).toNat)

/-- `fclass` (R74). -/
def fclassCalc (mask : BitVec 10) (l : Payload) : Calc := .both (maskOf fun i => mask.getLsbD (Fp.classOf (Word.lane l i).toNat))

/-- `rndi`: F32 to TGA, I32 to TGB (R78). -/
def rndiCalc (w : NodeOp) (l : Payload) : Calc :=
  { a := Word.ofLanes fun i => BitVec.ofNat 32 (Fp.rndiF w.rm (Word.lane l i).toNat)
    b := Word.ofLanes fun i => BitVec.ofInt 32 (Fp.toInt w.rm (loOf 32 false) (hiOf 32 false) (Word.lane l i).toNat) }

/-! ### SX blocks (R48-R50) -/

/-- The magnitude bits of an SX format by its code in `cvt` and FMT (R48, R79). -/
def sxBits (code : Nat) : Nat := if code == 5 then 2 else if code == 6 then 4 else 7

/-- An SX block: its scale word and its codes (R48). -/
structure SxBlock where
  scale : BitVec 16
  codes : List Nat
  deriving DecidableEq, Repr

/-- The shift of a group (R48). -/
def sxSigma (scale : BitVec 16) (g : Nat) : Nat := scale.toNat / 2 ^ (2 * g) % 4

/-- The F32 values of a block; decoding never rounds (R49). -/
def sxDecode (m : Nat) (scale : BitVec 16) (codes : List Nat) : List Lane :=
  let e := scale.toNat / 256
  (List.range 16).map fun i =>
    if e == 255 then 0x7FC00000
    else
      let c := codes.getD i 0
      BitVec.ofNat 32 (Fp.round Fp.f32 .rn (c / 2 ^ m % 2 == 1) (c % 2 ^ m) ((e : Int) - 127 - (sxSigma scale (i / 4) : Int) - ((m : Int) - 1))).bits

/-- Counter lanes of a decoded block (R56). -/
def sxDecodeTally (scale : BitVec 16) : List Nat := if scale.toNat / 256 == 255 then [2, 5] else [5]

/-- A finite F32 pattern as magnitude m * 2^(-149). -/
def magOf (x : Nat) : Nat :=
  match Fp.f32.read x with
  | .fin _ m e => m * 2 ^ (e + 149).toNat
  | _ => 0

/-- Encode 16 F32 inputs into one block, with its counts (R50, R56). Magnitudes are counted in units of 2^(-149); limits are compared after clearing their denominators. -/
def sxEncode (m : Nat) (xs : List Nat) : SxBlock × List Nat :=
  if xs.any (fun x => Fp.isNan Fp.f32 x) then (⟨0xFF00, List.replicate 16 0⟩, [2, 4])
  else
    let isInf := fun x => x % 2 ^ 31 == Fp.f32.infBits
    let ys := xs.map (fun x => if isInf x then (x / 2 ^ 31) * 2 ^ 31 + Fp.f32.maxBits else x)
    let infs := (xs.filter isInf).map (fun _ => 3)
    let sgn := fun i => ys.getD i 0 / 2 ^ 31 % 2
    let mags := ys.map (fun x => magOf x)
    let a := mags.foldl Nat.max 0
    if a == 0 then (⟨0, (List.range 16).map (fun i => sgn i * 2 ^ m)⟩, infs ++ [4])
    else
      let e := Word.clamp (-127) 127 ((Fp.bitLen a : Int) - 1 - 149)
      -- group limit for shift k: max < 2^(e-k+1) (1 - 2^-m), in units of 2^(-149) scaled by 2^m
      let gmax : Nat → Nat := fun g => ((List.range 4).map (fun j => mags.getD (4 * g + j) 0)).foldl Nat.max 0
      let fits := fun g (k : Nat) =>
        let p := e - k + 1 + 149
        gmax g * 2 ^ m < 2 ^ p.toNat * (2 ^ m - 1)
      let sigma : Nat → Nat := fun g => if fits g 3 then 3 else if fits g 2 then 2 else if fits g 1 then 1 else 0
      let q := fun i =>
        -- |x| * 2^(m-1) / 2^(e-sigma), |x| = mag * 2^(-149)
        Fp.toIntegral .rn false (mags.getD i 0) (((m : Int) - 1) - (e - (sigma (i / 4) : Int)) - 149)
      let top := 2 ^ m - 1
      let code := fun i => sgn i * 2 ^ m + min (q i) top
      let sat := ((List.range 16).filter (fun i => top < q i)).map (fun _ => 0)
      let zero := ((List.range 16).filter (fun i => q i == 0 && mags.getD i 0 != 0)).map (fun _ => 1)
      let gs := sigma 0 + 4 * sigma 1 + 16 * sigma 2 + 64 * sigma 3
      (⟨BitVec.ofNat 16 ((e + 127).toNat * 256 + gs), (List.range 16).map code⟩, infs ++ sat ++ zero ++ [4])

/-- The codes of a code field (R48). -/
def sxCodes (m : Nat) (x : Nat) : List Nat := (List.range 16).map (fun i => x / 2 ^ ((m + 1) * i) % 2 ^ (m + 1))

/-- A block in its memory layout (R48, R81). -/
def sxBlockBits (m : Nat) (b : SxBlock) : Payload :=
  BitVec.ofNat 512 (b.scale.toNat + 2 ^ 16 * b.codes.foldr (fun c acc => acc * 2 ^ (m + 1) + c) 0)

/-- `cvt` from F32 to an SX format (R81). -/
def cvtToSx (m : Nat) (l : Payload) : Calc :=
  let r := sxEncode m ((List.range 16).map fun i => (Word.lane l i).toNat)
  .both (sxBlockBits m r.1) r.2

/-- `cvt` from an SX format to F32 (R81). -/
def cvtOfSx (m : Nat) (l : Payload) : Calc :=
  let scale : BitVec 16 := l.extractLsb' 0 16
  let vs := sxDecode m scale (sxCodes m (l.toNat / 2 ^ 16))
  .both (Word.ofLanes fun i => vs.getD i 0) (sxDecodeTally scale)

/-- Width and signedness of an integer format of `cvt` (R79, R80). -/
def cvtInt (c : BitVec 4) : Option (Nat × Bool) :=
  if c == 0 then some (32, false) else if c == 1 then some (32, true) else if c == 4 then some (8, false)
  else if c == 9 then some (16, false) else none

/-- One lane of a `cvt` between formats that are not SX (R79, R80). These pairs count nothing: R62 gives `cvt` lanes 0 to 5 only (log 22). -/
def cvtLane (w : NodeOp) (src dst : BitVec 4) (x : Lane) : Lane :=
  match cvtInt src, cvtInt dst with
  | some (ws, us), some (wd, ud) =>
      -- an I8 or I16 result is sign-extended to the lane
      let v := readInt ws us (x.toNat % 2 ^ ws)
      BitVec.ofInt 32 (readInt wd ud (reduceInt wd ud w.sat v))
  | some (ws, us), none =>
      let r := Fp.ofInt w.rm (readInt ws us (x.toNat % 2 ^ ws))
      (BitVec.ofNat 32 r.bits)
  | none, some (wd, ud) => (BitVec.ofInt 32 (Fp.toInt w.rm (loOf wd ud) (hiOf wd ud) x.toNat))
  | none, none =>
      if dst == 3 then
        (BitVec.ofNat 32 (Fp.narrow w.rm x.toNat).bits)
      else (x <<< 16)

/-- `cvt` (R79-R81). -/
def cvtCalc (w : NodeOp) (src dst : BitVec 4) (l : Payload) : Calc :=
  if 5 ≤ dst && dst ≤ 7 then cvtToSx (sxBits dst.toNat) l
  else if 5 ≤ src && src ≤ 7 then cvtOfSx (sxBits src.toNat) l
  else .both (Word.ofLanes fun i => cvtLane w src dst (Word.lane l i))

/-! ### `pack`, `unpack` and the lane instructions (R82-R87) -/

/-- Element `k` of width `w` of a payload (R42). -/
def elemAt (w : Nat) (p : Payload) (k : Nat) : Nat := p.toNat / 2 ^ (w * k) % 2 ^ w

/-- The payload whose element `k` of width `w` is `f k` (R42). -/
def ofElems (w : Nat) (f : Nat → Nat) : Payload :=
  BitVec.ofNat 512 ((List.range (512 / w)).foldr (fun k acc => acc * 2 ^ w + f k % 2 ^ w) 0)

/-- `pack` (R82). -/
def packCalc (sz : Bool) (l r : Payload) : Calc :=
  if sz then .both (ofElems 8 fun k => if k < 32 then elemAt 16 l k else elemAt 16 r (k - 32))
  else .both (ofElems 16 fun k => if k < 16 then elemAt 32 l k else elemAt 32 r (k - 16))

/-- A pattern of width `w` extended to `v` bits (R82). -/
def extElem (w v : Nat) (ext : Bool) (x : Nat) : Nat := if ext && 2 ^ (w - 1) ≤ x then x + 2 ^ v - 2 ^ w else x

/-- `unpack` (R82). -/
def unpackCalc (ext sz : Bool) (l : Payload) : Calc :=
  if sz then
    { a := ofElems 16 fun j => extElem 8 16 ext (elemAt 8 l j), b := ofElems 16 fun j => extElem 8 16 ext (elemAt 8 l (32 + j)) }
  else
    { a := ofElems 32 fun i => extElem 16 32 ext (elemAt 16 l i), b := ofElems 32 fun i => extElem 16 32 ext (elemAt 16 l (16 + i)) }

/-- `perm` (R84). -/
def permCalc (w : NodeOp) (l r p : Payload) : Calc :=
  .both (predLanes w l p fun i =>
    let idx := (Word.lane r i).toInt
    if 0 ≤ idx && idx ≤ 15 then Word.lane l idx.toNat
    else if w.pd && 16 ≤ idx && idx ≤ 31 then Word.lane p (idx.toNat - 16)
    else 0)

/-- `bcast` (R84). -/
def bcastCalc (w : NodeOp) (lane : BitVec 4) (l p : Payload) : Calc := .both (predLanes w l p fun _ => Word.lane l lane.toNat)

/-- The operations of the reductions and prefixes. -/
inductive Red where
  | sum | min | max
  deriving DecidableEq, Repr

/-- One step of an F32 reduction (R85). -/
def redF (op : Red) (rm : RMode) (x y : Nat) : Fp.Res :=
  match op with
  | .sum => Fp.add Fp.f32 rm x y
  | .min => ⟨Fp.minMax Fp.f32 false x y, {}⟩
  | .max => ⟨Fp.minMax Fp.f32 true x y, {}⟩

/-- One level of the reduction tree over adjacent pairs (R85). -/
def treeLevel (op : Red) (rm : RMode) : List Nat → List Nat × List Nat
  | x :: y :: rest =>
      let r := redF op rm x y
      let t := treeLevel op rm rest
      (r.bits :: t.1, noteLanes r.note ++ t.2)
  | xs => (xs, [])

/-- The lanes of a payload as patterns. -/
def laneNats (p : Payload) : List Nat := (List.range 16).map fun i => (Word.lane p i).toNat

/-- The lanes of a payload as integers of a type. -/
def laneInts (ty : Ty) (p : Payload) : List Int := (laneNats p).map (readInt 32 (Ty.unsigned ty))

/-- The F32 tree of R85: distances 1, 2, 4, 8 are four levels over adjacent pairs. DESIGN CHOICE (log 105): every addition of the tree counts by itself under R62. -/
def treeF (op : Red) (rm : RMode) (xs : List Nat) : Nat × List Nat :=
  let a := treeLevel op rm xs
  let b := treeLevel op rm a.1
  let c := treeLevel op rm b.1
  let d := treeLevel op rm c.1
  (d.1.getD 0 0, a.2 ++ b.2 ++ c.2 ++ d.2)

/-- An integer reduction of exact values (R85). -/
def redI (op : Red) : List Int → Int
  | [] => 0
  | x :: xs =>
      match op with
      | .sum => xs.foldl (· + ·) x
      | .min => xs.foldl min x
      | .max => xs.foldl max x

/-- `rsum`, `rmin`, `rmax` (R85). -/
def reduceCalc (op : Red) (w : NodeOp) (l : Payload) : Calc :=
  if w.ty == .f32 then
    let r := treeF op w.rm (laneNats l)
    .both (Word.splat (BitVec.ofNat 32 r.1)) r.2
  else .both (Word.splat (BitVec.ofNat 32 (reduceInt 32 (Ty.unsigned w.ty) w.sat (redI op (laneInts w.ty l)))))

/-- One prefix step at distance `d`, on the values of the step before (R86). -/
def scanStep (op : Red) (rm : RMode) (d : Nat) (ys : List Nat) : List Nat × List Nat :=
  let rs := (List.range 16).map fun i => if i < d then (⟨ys.getD i 0, {}⟩ : Fp.Res) else redF op rm (ys.getD (i - d) 0) (ys.getD i 0)
  (rs.map (·.bits), rs.flatMap (fun r => noteLanes r.note))

/-- `psum`, `pmin`, `pmax` (R86). DESIGN CHOICE (log 105): every addition of an F32 scan step counts by itself under R62. -/
def prefixCalc (op : Red) (w : NodeOp) (l r : Payload) : Calc :=
  if w.ty == .f32 then
    let a := scanStep op w.rm 1 (laneNats l)
    let b := scanStep op w.rm 2 a.1
    let c := scanStep op w.rm 4 b.1
    let d := scanStep op w.rm 8 c.1
    let seed := (Word.lane r 15).toNat
    let out := d.1.map (fun y => redF op w.rm seed y)
    .both (Word.ofLanes fun i => BitVec.ofNat 32 ((out.map (·.bits)).getD i 0))
      (a.2 ++ b.2 ++ c.2 ++ d.2 ++ out.flatMap (fun x => noteLanes x.note))
  else
    let xs := laneInts w.ty l
    let seed := readInt 32 (Ty.unsigned w.ty) (Word.lane r 15).toNat
    .both (Word.ofLanes fun i => BitVec.ofNat 32 (reduceInt 32 (Ty.unsigned w.ty) w.sat (redI op (seed :: xs.take (i + 1)))))

/-- `lidx` (R87). -/
def lidxCalc (w : NodeOp) (imm : BitVec 16) (l p : Payload) : Calc :=
  .both (predLanes w l p fun i => BitVec.ofNat 32 i + imm.signExtend 32)

/-- `mcount` (R87). -/
def mcountCalc (pfx : Bool) (l : Payload) : Calc :=
  .both (Word.ofLanes fun i =>
    BitVec.ofNat 32 (((List.range (if pfx then i + 1 else 16)).filter (fun j => l.getLsbD j)).length))

end Sys2Proof.Machine
end

