-- ==== Sys2Proof/Machine/Operands.lean ====
section
/-! DEFINITION. The operands of a node: which latches a slot enables, what the token types in them make of a firing, and the firing itself (01 R17; 03 R57-R60; 10 R255). -/

namespace Sys2Proof.Machine

/-- The positions a node form enables, lowest first (R17). -/
def enabledPos (f : NodeForm) : List Pos :=
  (if f.left then [.left] else []) ++ (if f.right then [.right] else []) ++ (if f.op.pe || f.op.pd then [.pred] else [])

/-- Whether a position of a node form is sticky (R17). -/
def stickyPos (f : NodeForm) : Pos → Bool
  | .left => f.op.lk
  | .right => f.op.rk
  | .pred => false

/-- The enabled positions that are not sticky, lowest first. -/
def firmPos (f : NodeForm) : List Pos := (enabledPos f).filter (fun p => !stickyPos f p)

/-- The operands of one firing; `head` gives the result its TAG and SEQ (R58). -/
structure Opnds where
  l    : Tok := {}
  r    : Tok := {}
  p    : Tok := {}
  head : Tok := {}
  deriving DecidableEq, Repr

/-- What the latches of a slot make of a firing (R60). -/
inductive Gate where
  | wait
  | trap (cause : BitVec 8)
  | forward (t : Tok)
  | go (o : Opnds)
  deriving DecidableEq, Repr

/-- The operands a slot holds. -/
def opndsOf (f : NodeForm) (sl : Slot) : Opnds :=
  let head := match (firmPos f).head? with
    | some p => (sl.at_ p).getD {}
    | none => {}
  { l := sl.left.getD {}, r := sl.right.getD {}, p := sl.pred.getD {}, head := head }

/-- The firing rule and the table of R60. With every enabled latch full: a resume token traps, a fault token is forwarded from the lowest position, markers of one TT in every non-sticky latch are forwarded, and any other mix with a marker traps. DESIGN CHOICE (log 104): a resume token beside a fault token traps before the fault is forwarded, and a trap waits for full latches but not for free targets; R60 orders neither. -/
def gateOf (f : NodeForm) (sl : Slot) : Gate :=
  let toks := (enabledPos f).map sl.at_
  let firm := (firmPos f).filterMap sl.at_
  if toks.any Option.isNone then .wait
  else
    let full := toks.filterMap id
    if full.any (fun t => t.tt == .resume) then .trap causeBadToken
    else
      match full.find? (fun t => t.tt == .fault) with
      | some t => .forward t
      | none =>
          match firm.find? (fun t => t.tt.isMarker) with
          | none => .go (opndsOf f sl)
          | some t => if firm.all (fun u => u.tt == t.tt) then .forward (firm.headD t) else .trap causeMarkSkew

/-- A slot with its non-sticky operands consumed (R58). -/
def consume (f : NodeForm) (sl : Slot) : Slot := (firmPos f).foldl (fun x p => x.put p none) sl

/-- The state after a slot consumes its operands. -/
def consumeAt (s : State) (k : TileKey) (n : Nat) (f : NodeForm) : State := s.setSlot k n (consume f (s.slot k n))

/-- Whether a target takes a token at a firing of slot `n`, whose own non-sticky latches the firing empties (R255). -/
def freeAfter (s : State) (k : TileKey) (n : Nat) (f : NodeForm) (t : Tgt) : Bool :=
  targetFree ((consumeAt s k n f).tile k) t

/-- Both targets of a node take a token at its firing. -/
def bothFree (s : State) (k : TileKey) (n : Nat) (f : NodeForm) : Bool := freeAfter s k n f f.op.tga && freeAfter s k n f f.op.tgb

/-- Run a meaning at the slot in focus, if it may act: it exists, no trap has stopped it, its region runs (R325, R358), and no earlier result waits in it (R58). Elsewhere nothing happens; at no slot there is no agent. -/
def atSlot (s : State) (go : TileKey → Nat → Slot → Out) : Out :=
  match s.focus with
  | .slot k n | .pipe k n =>
      if (s.tile k).slots.has n then
        (if s.tileRuns k && !(s.slot k n).stopped && (s.slot k n).out.isEmpty then go k n (s.slot k n) else .next s)
      else .fault .noAgent
  | _ => .fault .noAgent

/-- Note a marker that passes a slot: tempo rounds, drain waves and ends of streams are counted by it (R179, R300, R304). -/
def noteMarker (s : State) (k : TileKey) (n : Nat) (t : Tok) : State :=
  match t.tt with
  | .tempo => s.setSlot k n { s.slot k n with rounds := (s.slot k n).rounds + 1 }
  | .drain => s.setSlot k n { s.slot k n with drained := true }
  | .eos => s.setSlot k n { s.slot k n with eoses := (s.slot k n).eoses + 1 }
  | _ => s

/-- The accesses that happen before a firing of a slot: those before the tokens it reads (R289). -/
def slotPast (s : State) (k : TileKey) (n : Nat) (f : NodeForm) : List Nat := pastOf s ((enabledPos f).filterMap (s.slot k n).at_)

/-- Consume the operands and forward one token, unchanged, to both targets (R60). -/
def forwardBoth (s : State) (k : TileKey) (n : Nat) (f : NodeForm) (t : Tok) : State :=
  let x := some (t.after (slotPast s k n f))
  sendBoth (noteMarker (consumeAt s k n f) k n t) k n f.op.tga f.op.tgb x x

/-- A firing on data: consume, then send a token to each target (R58). -/
def fireTo (s : State) (k : TileKey) (n : Nat) (f : NodeForm) (a b : Option Tok) : State :=
  let h := slotPast s k n f
  sendBoth (consumeAt s k n f) k n f.op.tga f.op.tgb (a.map (fun t => t.after h)) (b.map (fun t => t.after h))

/-- The arcs of a join slot (R136). -/
def arcsOf (n : Nat) : SlotRun → List (Option Tok)
  | .join a => a
  | _ => List.replicate n none

/-- The arc of a join word that a VC is, and how many arcs it has (R136). -/
def joinArc (w : Word64) (v : Nat) : Option (Nat × Nat) :=
  match decodeNode w with
  | .ok (.join _ _ vbase _ nm1) => if vbase.toNat ≤ v && v ≤ vbase.toNat + nm1.toNat then some (v - vbase.toNat, nm1.toNat + 1) else none
  | _ => none

/-- The firing of a slot under R60: traps, forwarded tokens, and on data the given step. -/
def fireSlot (f : NodeForm) (s : State) (onData : TileKey → Nat → Opnds → Out) : Out :=
  atSlot s fun k n sl =>
    match gateOf f sl with
    | .wait => .next s
    | .trap c => .next (raiseTrap s (slotSite s k n) c 0)
    | .forward t => if bothFree s k n f then .next (forwardBoth s k n f t) else .next s
    | .go o => onData k n o

/-- A result token with the header of R58. -/
def resultTok (o : Opnds) (p : Payload) : Tok := { tt := .data, seq := o.head.seq, tag := o.head.tag, pay := p }

/-- Where a node counts its elements: VX tiles count F32, BF16 and SX work, no other kind does (R56, R62). -/
def countsHere (s : State) (k : TileKey) : Bool := (s.tile k).kind == .vx

/-- The firing of an arithmetic node: one computation, counted, to both targets (R58, R62). -/
def fireCalc (f : NodeForm) (compute : Payload → Payload → Payload → Calc) (s : State) : Out :=
  fireSlot f s fun k n o =>
    if bothFree s k n f then
      let c := compute o.l.pay o.r.pay o.p.pay
      let s1 := if countsHere s k then countTile s k c.tally else s
      .next (fireTo s1 k n f (some (resultTok o c.a)) (some (resultTok o c.b)))
    else .next s

/-- The form of a node instruction; an instruction with none has the empty form, which no slot fires. -/
def formOf (i : Instr) : NodeForm := i.nodeForm.getD { op := { ty := .ctl, tga := .none, tgb := .none, lk := false, rk := false, pn := false, pe := false, rm := .rn, sat := false, pd := false }, opc := 0, left := false }

end Sys2Proof.Machine
end

