-- ==== Sys2Proof/Machine/Order.lean ====
section
/-! DEFINITION. When a release or a fence may complete (05 R137; 12 R288-R296): every access without a completion token that was initiated by a firing before it is performed at the scope. Such accesses are followed through the tokens (log 31). -/

namespace Sys2Proof.Machine

/-- Whether a release at a scope may complete after some accesses: at NODE and REGION each has been stamped, at PARTITION, DEVICE and SYSTEM each has been performed everywhere (R291, R292). -/
def released (s : State) (past : List Nat) (scope : BitVec 3) : Bool :=
  past.all (fun a => match s.accs.get? a with
    | none => true
    | some stamped => stamped && scope < 2)

/-- Releases and acquires of different agents synchronise only at REGION or wider (R288, R292). -/
def wideScope (scope : BitVec 3) : Bool := 1 ≤ scope

/-- What releases to some scratchpad words pass on to an acquire that reads them: the accesses not yet performed everywhere (R292). -/
def syncPast (s : State) (keys : List Nat) : List Nat := (keys.foldl (fun a k => hbJoin a (s.syncs.getD k [])) []).filter s.accs.has

/-- A release has written some words: whoever acquires from them comes after it (R292). -/
def syncPut (s : State) (keys : List Nat) (past : List Nat) : State :=
  if past.isEmpty then s
  else { s with syncs := keys.foldl (fun m k => m.put k (hbJoin ((m.getD k []).filter s.accs.has) past)) s.syncs }

/-- A region's sync phase moves on, when its launch is race-checked (R307). -/
def syncEvent (s : State) (r : Nat) : State :=
  if s.launchFlag (s.region r).launch 2 then s.setRegion r { s.region r with sph := (s.region r).sph + 1 } else s

end Sys2Proof.Machine
end

