-- ==== Sys2Proof/Machine/Images.lean ====
section
/-! DEFINITION. Tile images (01 R12-R27): reading their parts, and the state a load gives a tile (10 R237). -/

namespace Sys2Proof.Machine

/-! ### Parts of an image (R12, R13) -/

namespace Img

/-- The word of `w` bits at a byte offset. -/
def at_ (x : BitVec 8192) (o w : Nat) : BitVec w := Word.field x (8 * o) w
/-- TILE. -/
def tile (x : BitVec 8192) : Nat := (Word.field x 32 11).toNat
/-- SCOPEID. -/
def scope (x : BitVec 8192) : BitVec 8 := Word.field x 48 8
/-- NPRE. -/
def npre (x : BitVec 8192) : Nat := (Word.field x 56 8).toNat
/-- NODEV bit s. -/
def nodev (x : BitVec 8192) (s : Nat) : Bool := Word.bit x (64 + s)
/-- CHANV bit v. -/
def chanv (x : BitVec 8192) (v : Nat) : Bool := Word.bit x (96 + v)
/-- ROUTEV bit n. -/
def routev (x : BitVec 8192) (n : Nat) : Bool := Word.bit x (128 + n)
/-- SREGV bit i. -/
def sregv (x : BitVec 8192) (i : Nat) : Bool := Word.bit x (144 + i)
/-- USIZE. -/
def usize (x : BitVec 8192) : Nat := (Word.field x 160 16).toNat
/-- CHK. -/
def chk (x : BitVec 8192) : BitVec 32 := Word.field x 224 32
/-- Node word s. -/
def node (x : BitVec 8192) (s : Nat) : Word64 := at_ x (0x20 + 8 * s) 64
/-- Route entry n. -/
def route (x : BitVec 8192) (n : Nat) : Word64 := at_ x (0x120 + 8 * n) 64
/-- Channel entry v. -/
def chan (x : BitVec 8192) (v : Nat) : BitVec 16 := at_ x (0x1A0 + 2 * v) 16
/-- Initial value of SREGi. -/
def sreg (x : BitVec 8192) (i : Nat) : BitVec 32 := at_ x (0x1E0 + 4 * i) 32
/-- Word i of the area at 0x220. -/
def area (x : BitVec 8192) (i : Nat) : Word64 := at_ x (0x220 + 8 * i) 64

end Img

/-- Words of a kind's unit section (R26). -/
def unitWords : Kind → Nat
  | .pt => 6
  | .ct => 1
  | _ => 2

/-- Preload record i of an image (R27). -/
def preload (x : BitVec 8192) (kind : Kind) (i : Nat) : Word64 := Img.area x (unitWords kind + i)

/-- CRC-32 of the IEEE 802.3 frame check sequence, bit by bit (R13). -/
def crcBits : List Bool → BitVec 32 → BitVec 32
  | [], c => c
  | b :: bs, c => crcBits bs (if (c.getLsbD 0) != b then (c >>> 1) ^^^ (0xEDB88320 : BitVec 32) else c >>> 1)

/-- CHK of an image, taken with CHK as zero (R13). -/
def imageCrc (x : BitVec 8192) : BitVec 32 :=
  let y := Word.setField x 224 (0 : BitVec 32)
  ~~~(crcBits ((List.range 8192).map (fun i => y.getLsbD i)) 0xFFFFFFFF)

/-! ### Where tiles lie (R3, R13, R319) -/

/-- The key of a tile of a region, from its relative id. -/
def regionTile (r : Region) (rel : Nat) : TileKey := r.die * 2048 + (4 * r.qy + rel / 64) * 64 + 4 * r.qx + rel % 64

/-- The relative ids of a region's tiles, ascending (R13). -/
def regionRels (r : Region) : List Nat :=
  (List.range (4 * r.h)).flatMap (fun y => (List.range (4 * r.w)).map (fun x => y * 64 + x))

/-- The distance of two relative tile ids in mesh hops (R21). -/
def meshDist (a b : Nat) : Nat :=
  let ax := a % 64; let bx := b % 64; let ay := a / 64; let by_ := b / 64
  (if ax ≤ bx then bx - ax else ax - bx) + (if ay ≤ by_ then by_ - ay else ay - by_)

/-- The target at which a route ends (R21). -/
def routeDst (e : Word64) : Tgt :=
  match Pos.ofCode (Word.field e 40 2) with
  | some p => .latch p (Word.field e 35 5)
  | none => .port (Word.field e 27 8)

/-- The target of the route of a block that ends at a tile's channel (R22). -/
def chanDst (b : Block) (rel v : Nat) : Tgt :=
  let hits := b.images.flatMap (fun im => (List.range 16).filterMap (fun n =>
    let e := Img.route im.2.bits n
    if Img.routev im.2.bits n && routeTile e == rel && (routeDvc e).toNat == v then some (routeDst e) else Option.none))
  hits.headD .none

/-! ### The state an image gives (R17, R25-R27, R88, R102, R237) -/

/-- A preload record's token in its latch (R27). -/
def preloadInto (m : Map Slot) (rec_ : Word64) : Map Slot :=
  let n := (Word.field rec_ 59 5).toNat
  let t : Tok := { tt := TT.ofCode (Word.field rec_ 53 3), tag := Word.field rec_ 32 16, pay := Word.splat (Word.field rec_ 0 32) }
  match Pos.ofCode (Word.field rec_ 57 2) with
  | some p => m.upd n {} (fun sl => sl.put p (some t))
  | none => m

/-- The slots of an image, with its preloads (R12, R27). -/
def imageSlots (kind : Kind) (im : Image) : Map Slot :=
  let x := im.bits
  let m := (List.range 32).foldl (fun (m : Map Slot) s =>
    if Img.nodev x s then m.put s { word := Img.node x s, commute := Word.bit im.commute s } else m) []
  (List.range (Img.npre x)).foldl (fun m i => preloadInto m (preload x kind i)) m

/-- The routes of an image: one token place per hop (R21). -/
def imageRoutes (x : BitVec 8192) (rel : Nat) : Map Route :=
  (List.range 16).foldl (fun (m : Map Route) n =>
    if Img.routev x n then
      let e := Img.route x n
      m.put n { entry := e, hops := List.replicate (Nat.max 1 (meshDist rel (routeTile e))) none }
    else m) []

/-- The channels of an image (R24). -/
def imageChans (b : Block) (x : BitVec 8192) (rel : Nat) : Map Chan :=
  (List.range 32).foldl (fun (m : Map Chan) v =>
    if Img.chanv x v then m.put v { entry := Img.chan x v, dst := chanDst b rel v } else m) []

/-- The scale registers of an image; an unlisted one is zero (R25). -/
def imageSregs (x : BitVec 8192) : Map Lane :=
  (List.range 16).foldl (fun (m : Map Lane) i => if Img.sregv x i && Img.sreg x i != 0 then m.put i (Img.sreg x i) else m) []

/-- A tile at whose inputs `r0` tempo rounds have been closed (R298, R300). -/
def tileAtRound (t : Tile) (r0 : Nat) : Tile :=
  if r0 == 0 then t
  else { t with slots := t.slots.mapV (fun _ x => { x with rounds := r0 }), mx := { t.mx with rounds := r0 }
                own := { t.own with closed := r0, ownRounds := r0, qRounds := r0 } }

/-- The tile that a load leaves at a relative id of a region (R237); a tile without an image is empty (R12). -/
def loadedTile (r : Nat) (b : Block) (rel : Nat) : Tile :=
  let kind := Config.tileKind rel
  match b.images.get? rel with
  | none => { kind := kind, region := some r, rel := rel }
  | some im =>
      let x := im.bits
      let unit0 := Img.area x 0
      { kind := kind, region := some r, rel := rel, scope := Img.scope x, image := x
        units := (List.range (unitWords kind)).map (Img.area x)
        slots := imageSlots kind im, routes := imageRoutes x rel, chans := imageChans b x rel, sregs := imageSregs x
        pj := if kind == .vx then { a := Word.field unit0 32 32, b := Word.field unit0 0 32 } else {} }

/-- The tempo rounds that the PTs of a region have ended: the inputs of a block that is loaded now stand after them, so that rounds go on from block to block (R298, R304, R305, log 116). -/
def roundsEnded (s : State) (r : Nat) : Nat :=
  ((regionRels (s.region r)).map (fun rel => (s.port (regionTile (s.region r) rel)).cr - 1)).foldl Nat.max 0

/-- Load a block into a region: every tile takes the state its image gives (R237). -/
def loadTiles (s : State) (r : Nat) (b : Block) : State :=
  let rg := s.region r
  { s with tiles := (regionRels rg).foldl (fun (m : Map Tile) rel => m.put (regionTile rg rel) (tileAtRound (loadedTile r b rel) (roundsEnded s r))) s.tiles }

/-- The targets that a tile's unit section names: PTGT and STGT of a VX tile, ATGT of a PT (R26). -/
def unitTgtsOf (t : Tile) : List Tgt :=
  let tgt := fun (o : Nat) => (Tgt.ofCode (Word.field (t.units.getD 1 0) o 12)).getD .none
  match t.kind with
  | .vx => [tgt 40, tgt 28]
  | .pt => [tgt 46]
  | _ => []

/-- The sequencer tile of a region, if its kernel names one (R236). -/
def regionSeq (s : State) (r : Nat) : Option TileKey :=
  let rg := s.region r
  match (s.kernelOf rg.launch).regions[rg.index]? with
  | some k => k.seq.map (regionTile rg)
  | none => none

/-- The block of a region's kernel with a number. -/
def blockOf (s : State) (r b : Nat) : Option Block := (s.kernelOf (s.region r).launch).blocks.get? b

end Sys2Proof.Machine
end

