-- ==== Sys2Proof/Machine/Sweep.lean ====
section
/-! DEFINITION. Swept memory (11 R264-R285): the fields of a reach entry, stripes and their geometry, physical addresses (15 R335), the bytes and tags of a segment, eligibility, and posting into a weir. -/

namespace Sys2Proof.Machine

/-! ### Reach entries (R264) -/

namespace Reach

/-- VALID. -/
def valid (e : BitVec 128) : Bool := Word.bit e 127
/-- SHARED. -/
def shared (e : BitVec 128) : Bool := Word.bit e 126
/-- BACKWATER. -/
def backwater (e : BitVec 128) : Bool := Word.bit e 125
/-- CRN. -/
def crn (e : BitVec 128) : BitVec 4 := Word.field e 121 4
/-- DEVICE. -/
def device (e : BitVec 128) : Bool := Word.bit e 120
/-- CTX. -/
def ctx (e : BitVec 128) : Nat := (Word.field e 104 16).toNat
/-- KEY. -/
def key (e : BitVec 128) : Nat := (Word.field e 96 8).toNat
/-- The share, SM1 + 1. -/
def share (e : BitVec 128) : Nat := (Word.field e 90 6).toNat + 1
/-- LOG2G. -/
def log2g (e : BitVec 128) : Nat := (Word.field e 86 4).toNat
/-- The segment size G in bytes. -/
def g (e : BitVec 128) : Nat := 2 ^ log2g e
/-- DTAG. -/
def dtag (e : BitVec 128) : BitVec 4 := Word.field e 82 4
/-- RANK. -/
def rank (e : BitVec 128) : Nat := (Word.field e 71 11).toNat
/-- The number of members, NM1 + 1. -/
def count (e : BitVec 128) : Nat := (Word.field e 60 11).toNat + 1
/-- LSEG. -/
def lseg (e : BitVec 128) : Nat := (Word.field e 36 24).toNat
/-- BASE in units of 64 KiB. -/
def base (e : BitVec 128) : Nat := (Word.field e 20 16).toNat
/-- Bytes of the extent. -/
def extent (e : BitVec 128) : Nat := lseg e * g e
/-- Units the extent occupies (R266). -/
def units (e : BitVec 128) : Nat := Word.ceilDiv (extent e) 65536
/-- The entry is the member of a stripe that a program of the context names by a number (R264, R268). -/
def named (e : BitVec 128) (c : Nat) (n : BitVec 4) : Bool :=
  valid e && !device e && !backwater e && ctx e == c && crn e == n

end Reach

/-! ### Stripes (R269) -/

/-- A member of a stripe: its pseudo-channel, its slot there, its entry. -/
structure Member where
  pc    : PcKey
  slot  : Nat
  entry : BitVec 128
  deriving DecidableEq, Repr

/-- Insert a member in rank order. -/
def insMember (m : Member) : List Member → List Member
  | [] => [m]
  | x :: xs => if Reach.rank m.entry < Reach.rank x.entry then m :: x :: xs else x :: insMember m xs

/-- The members of a context's stripe, in rank order (R269). -/
def stripe (s : State) (c : Nat) (n : BitVec 4) : List Member :=
  s.landings.foldr (fun l acc =>
    l.2.reaches.foldr (fun r acc => if Reach.named r.2 c n then insMember ⟨l.1, r.1, r.2⟩ acc else acc) acc) []

namespace Stripe

/-- G of a stripe; 64 where there is none. -/
def g (ms : List Member) : Nat := match ms with
  | m :: _ => Reach.g m.entry
  | [] => 64
/-- L_m of a stripe. -/
def lm (ms : List Member) : Nat := match ms with
  | m :: _ => Reach.lseg m.entry
  | [] => 0
/-- L of a stripe. -/
def len (ms : List Member) : Nat := ms.length * lm ms
/-- Segments in one interleave unit, J (R269). -/
def unit (ms : List Member) : Nat := Nat.min (2 ^ 21) (lm ms * g ms) / g ms
/-- The member and the local segment of stripe segment `seg` (R269). -/
def place (ms : List Member) (seg : Nat) : Option (Member × Nat) :=
  let j := unit ms
  let u := seg / j
  if seg < len ms then (ms[u % ms.length]?).map (fun m => (m, u / ms.length * j + seg % j)) else none
/-- The stripe segment that a rank visits at local segment `c` (R269). -/
def segAt (ms : List Member) (rank c : Nat) : Nat :=
  let j := unit ms
  ((c / j) * ms.length + rank) * j + c % j

end Stripe

/-- Whether it is a member's turn in its stripe's visit order: no member that was configured at the same lap-clock instant stands at an earlier local position, nor at the same one with a lower RANK (R265, R269). A reach that no stripe has waits for none, nor does a member for one that another commit configured (log 136). -/
def visitTurn (s : State) (m : Member) : Bool :=
  let at_ := fun (x : Member) => (s.landing x.pc).cursors.getD x.slot (0, 0)
  let since := fun (x : Member) => (s.landing x.pc).since.getD x.slot 0
  let here := at_ m
  !Reach.named m.entry (Reach.ctx m.entry) (Reach.crn m.entry) || (stripe s (Reach.ctx m.entry) (Reach.crn m.entry)).all (fun x =>
    let c := at_ x
    since x != since m || here.2 < c.2 || (here.2 == c.2 && (here.1 < c.1 || (here.1 == c.1 && Reach.rank m.entry ≤ Reach.rank x.entry))))

/-- The key of a byte of a reach's extent. -/
def extentByte (pc : PcKey) (e : BitVec 128) (o : Nat) : Nat := pc * 2 ^ 31 + Reach.base e * 65536 + o

/-- The key of byte `o` of a local segment. -/
def segByte (m : Member) (loc o : Nat) : Nat := extentByte m.pc m.entry (loc * Reach.g m.entry + o)

/-- The stored bytes of a local segment. -/
def segBytes (s : State) (m : Member) (loc : Nat) : List Byte := Mem.readN s.dram (segByte m loc 0) (Reach.g m.entry)

/-- The key of a local segment's format tag. -/
def tagKey (pc : PcKey) (slot loc : Nat) : Nat := (pc * 16 + slot) * 2 ^ 24 + loc

/-- The format tag of a local segment (R284). -/
def segTag (s : State) (m : Member) (loc : Nat) : BitVec 4 := s.tags.getD (tagKey m.pc m.slot loc) (Reach.dtag m.entry)

/-- Whether a segment holds a poisoned granule (R369). -/
def segPoisoned (s : State) (m : Member) (loc : Nat) : Bool :=
  s.poison.any (fun a => segByte m loc 0 ≤ a && a < segByte m loc 0 + Reach.g m.entry)

/-! ### Physical addresses (R335) -/

/-- CRN of a physical address. -/
def paCrn (pa : BitVec 64) : BitVec 4 := Word.field pa 52 4
/-- OFFSET of a physical address. -/
def paOffset (pa : BitVec 64) : Nat := (Word.field pa 0 42).toNat

/-- A physical address (R335). -/
def paOf (crn : BitVec 4) (off : Nat) : BitVec 64 := (0 : BitVec 8) ++ crn ++ (0 : BitVec 10) ++ BitVec.ofNat 42 off

/-- Where a physical address lies: member, local segment, byte in the segment; nothing outside every reach (R335). -/
def paPlace (s : State) (c : Nat) (pa : BitVec 64) : Option (Member × Nat × Nat) :=
  if Word.field pa 56 8 != (0 : BitVec 8) || Word.field pa 42 10 != (0 : BitVec 10) then none
  else
    let ms := stripe s c (paCrn pa)
    (Stripe.place ms (paOffset pa / Stripe.g ms)).map (fun x => (x.1, x.2, paOffset pa % Stripe.g ms))

/-! ### The weir (R278-R283, R300, R301) -/

/-- The launch a weir entry was posted for. -/
def weirLaunch (s : State) (w : Weir) : Nat := if w.cmd == 0 then w.launch else (s.cmd w.cmd).launch

/-- The PTs of a launch, its marking set (R301). -/
def launchPorts (s : State) (l : Nat) : List TileKey :=
  (s.launch l).regions.flatMap (fun r => (regionRels (s.region r)).filterMap (fun rel =>
    if Config.tileKind rel == .pt then some (regionTile (s.region r) rel) else none))

/-- Whether a round is closed at a landing: its mark has come from each PT of the launch (R300). -/
def roundClosed (s : State) (ld : Landing) (l r : Nat) : Bool :=
  (launchPorts s l).all (fun k => ld.marks.any (fun m => m.1 == l && m.2.1 == k && r ≤ m.2.2))

/-- Whether an update waits for its round (R301). -/
def tempoHeld (s : State) (ld : Landing) (w : Weir) : Bool :=
  match w.round with
  | some r => !roundClosed s ld (weirLaunch s w) r
  | none => false

/-- Whether a snapshot rider that boarded before an update still holds it (R279, R280). -/
def snapHeld (ld : Landing) (w : Weir) : Bool :=
  ld.riders.any (fun r => r.on && r.holds && r.slot == w.slot && r.at_ < w.stamp)

/-- An update in the weir is eligible at a visit that begins now, or it is held (R279). -/
def eligible (s : State) (ld : Landing) (w : Weir) : Bool := !snapHeld ld w && !tempoHeld s ld w

/-- Postings that commands have sent to a landing and it has not yet taken. -/
def inFlight (s : State) (pc : PcKey) : Nat :=
  s.cmds.foldl (fun n c => n + (c.2.flight.filter (fun f => f.2.1 == pc)).length) 0

/-- Whether a landing's weir of 4096 entries has room for `n` more (R278). -/
def weirRoom (s : State) (pc : PcKey) (n : Nat) : Bool := (s.landing pc).weir.length + inFlight s pc + n ≤ 4096

/-- Tempo-held updates of a landing, with those on their way to it (R301). -/
def tempoHeldAt (s : State) (pc : PcKey) : Nat :=
  ((s.landing pc).weir.filter (fun w => tempoHeld s (s.landing pc) w)).length
    + s.cmds.foldl (fun n c => n + (c.2.flight.filter (fun f => f.2.1 == pc && f.2.2.round.isSome)).length) 0

/-- A landing accepts an update and stamps it (R278). -/
def weirPut (s : State) (pc : PcKey) (w : Weir) : State :=
  let ld := s.landing pc
  s.setLanding pc { ld with weir := ld.weir ++ [{ w with stamp := ld.order }], order := ld.order + 1 }

/-- The lanes of 64 bytes. -/
def lanesOf (bs : List Byte) : List Lane := (List.range 16).map (fun i => Word.ofBytes 32 ((bs.drop (4 * i)).take 4))

/-- An update of one whole granule of a segment (R278). -/
def granuleWrite (cmd slot loc gr : Nat) (bs : List Byte) (ftag : BitVec 4) : Weir :=
  { cmd := cmd, slot := slot, seg := loc, word := 16 * gr, op := .write, ety := 1, vals := lanesOf bs, ftag := ftag, stamp := 0 }

/-! ### Links, and what is on its way to a landing (R157, R286, R375) -/

/-- Whether the link to a pseudo-channel's stack is fenced. -/
def fencedPc (s : State) (pc : PcKey) : Bool :=
  let n := pc / 64
  (s.links.getD (2 * n) {}).fenced || (s.links.getD (2 * n + 1) {}).fenced

/-- Whether something that a station sent earlier to a landing has not yet arrived there: a posting, a registration, a round mark (R157, R301). -/
def earlierSent (s : State) (st : Station) (pc : PcKey) (no : Nat) : Bool :=
  s.cmds.any (fun c => c.2.station == st
    && (c.2.flight.any (fun f => f.1 < no && f.2.1 == pc) || (c.2.pending.contains pc && c.2.sentAt < no)))

end Sys2Proof.Machine
end

