-- ==== Sys2Proof/Machine/FlowNodes.lean ====
section
/-! DEFINITION. Dataflow, thread, controller and synchronisation nodes (05 R117-R139), except `jump` (Machine/Threads.lean). -/

namespace Sys2Proof.Machine

/-! ### Steering (R121, R122) -/

/-- A firing on data that sends tokens computed from the operands when both targets are free. -/
def fireMove (f : NodeForm) (s : State) (a b : Opnds → Option Tok) : Out :=
  fireSlot f s fun k n o => if bothFree s k n f then .next (fireTo s k n f (a o) (b o)) else .next s

/-- `mov` (R122). -/
def execMov (w : NodeOp) (s : State) : Out := fireMove (formOf (.mov w)) s (fun o => some o.l) (fun o => some o.l)

/-- The payload of `sel` (R122). -/
def selPay (l r p : Payload) : Payload := Word.ofLanes fun i => if p.getLsbD i then Word.lane l i else Word.lane r i

/-- `sel` (R122). -/
def execSel (w : NodeOp) (s : State) : Out :=
  fireMove (formOf (.sel w)) s (fun o => some { o.l with pay := selPay o.l.pay o.r.pay o.p.pay }) (fun o => some { o.l with pay := selPay o.l.pay o.r.pay o.p.pay })

/-- Steering: one token to TGA or to TGB; only the chosen target is asked (R122, R129). -/
def steerTo (f : NodeForm) (inv : Bool) (contTok : Tok → Tok) (s : State) : Out :=
  fireSlot f s fun k n o =>
    if (o.r.pay.getLsbD 0) != inv then
      (if freeAfter s k n f f.op.tga then .next (fireTo s k n f (some (contTok o.l)) none) else .next s)
    else
      (if freeAfter s k n f f.op.tgb then .next (fireTo s k n f none (some o.l)) else .next s)

/-- `steer` (R122). -/
def execSteer (w : NodeOp) (inv : Bool) (s : State) : Out := steerTo (formOf (.steer w inv)) inv id s

/-- `loop`: the continue path adds 1 to SEQ (R129). -/
def execLoop (w : NodeOp) (inv : Bool) (s : State) : Out := steerTo (formOf (.loop w inv)) inv (fun t => { t with seq := t.seq + 1 }) s

/-- `gate`: the right latch counts for its presence only, and markers and faults on the left pass like data (R122). -/
def execGate (w : NodeOp) (s : State) : Out :=
  let f := formOf (.gate w)
  atSlot s fun k n sl =>
    match sl.left, sl.right with
    | some l, some r =>
        if l.tt == .resume || r.tt == .resume then .next (raiseTrap s (slotSite s k n) causeBadToken 0)
        else if bothFree s k n f then .next (forwardBoth s k n f l)
        else .next s
    | _, _ => .next s

/-- Take or refuse a census change before a firing: the node traps and the firing does not take place (R120, R251). -/
def withCensus (s : State) (k : TileKey) (n : Nat) (d : Int) (go : State → Out) : Out :=
  let r := s.regionOf k
  match censusTrap (s.region r).census d with
  | some c => .next (raiseTrap s (slotSite s k n) c (BitVec.ofInt 64 (s.region r).census))
  | none => go (censusAdd s r d)

/-- A unary firing that counts: markers pass uncounted, a resume token traps, every other token counts (R60, R120, R299). -/
def fireCounted (f : NodeForm) (d : Int) (s : State) (a b : Tok → Option Tok) : Out :=
  atSlot s fun k n sl =>
    match sl.left with
    | none => .next s
    | some l =>
        if l.tt == .resume then .next (raiseTrap s (slotSite s k n) causeBadToken 0)
        else if !bothFree s k n f then .next s
        else if l.tt.isMarker then .next (forwardBoth s k n f l)
        else withCensus s k n d fun s1 =>
          if l.tt == .fault then .next (forwardBoth s1 k n f l) else .next (fireTo s1 k n f (a l) (b l))

/-- `dup` (R120, R122). -/
def execDup (w : NodeOp) (s : State) : Out := fireCounted (formOf (.dup w)) 1 s some some

/-- `sink` (R120, R122). -/
def execSink (w : NodeOp) (s : State) : Out :=
  let f := formOf (.sink w)
  atSlot s fun k n sl =>
    match sl.left with
    | none => .next s
    | some l =>
        if l.tt == .resume then .next (raiseTrap s (slotSite s k n) causeBadToken 0)
        else if l.tt == .fault then .next (raiseTrap s (slotSite s k n) causeFaultSunk 0)
        else if l.tt.isMarker then .next (noteMarker (consumeAt s k n f) k n l)
        else withCensus s k n (-1) fun s1 => .next (consumeAt s1 k n f)

/-! ### `merge` (R123) -/

/-- What a merge does next: nothing, a trap, one token from a side, or a pair of markers. -/
inductive MergePick where
  | wait
  | trap (c : BitVec 8)
  | left
  | right
  | pair
  deriving DecidableEq, Repr

/-- Whether a latch holds a marker. -/
def holdsMarker : Option Tok → Bool
  | some t => t.tt.isMarker
  | none => false

/-- The choice of R123: `rightDue` is the side `alt` waits for. -/
def mergePick (alt rightDue leftFirst : Bool) (l r : Option Tok) : MergePick :=
  if l.any (fun t => t.tt == .resume) || r.any (fun t => t.tt == .resume) then .trap causeBadToken
  else if holdsMarker l && holdsMarker r then
    (if l.map (·.tt) == r.map (·.tt) then .pair else .trap causeMarkSkew)
  else if alt then
    let due := if rightDue then r else l
    let other := if rightDue then l else r
    if due.isNone then .wait
    else if holdsMarker due then (if other.isSome then .trap causeMarkSkew else .wait)
    else if rightDue then .right else .left
  else
    let lOk := l.isSome && !holdsMarker l
    let rOk := r.isSome && !holdsMarker r
    if lOk && rOk then (if leftFirst then .left else .right) else if lOk then .left else if rOk then .right else .wait

/-- The side a merge slot in `alt` waits for. -/
def rightDueOf : SlotRun → Bool
  | .alt b => b
  | _ => false

/-- `merge` (R123). -/
def execMerge (w : NodeOp) (alt : Bool) (s : State) : Out :=
  let f := formOf (.merge w alt)
  atSlot s fun k n sl =>
    let take (p : Pos) : Out :=
      match sl.at_ p with
      | none => .next s
      | some t =>
          let sl1 := { sl.put p none with run := if alt then .alt (p == .left) else sl.run }
          let s1 := s.setSlot k n sl1
          if targetFree (s1.tile k) f.op.tga && targetFree (s1.tile k) f.op.tgb then
            .next (sendBoth s1 k n f.op.tga f.op.tgb (some t) (some t))
          else .next s
    match mergePick alt (rightDueOf sl.run) sl.leftFirst sl.left sl.right with
    | .wait => .next s
    | .trap c => .next (raiseTrap s (slotSite s k n) c 0)
    | .left => take .left
    | .right => take .right
    | .pair => if bothFree s k n f then .next (forwardBoth s k n f (sl.left.getD {})) else .next s

/-! ### Constants, generators, tags (R124-R126) -/

/-- The lane of a `const` (R125). -/
def constLane (ty : Ty) (imm : BitVec 16) : Lane :=
  match ty with
  | .u32 => imm.setWidth 32
  | .f32 => imm ++ (0 : BitVec 16)
  | _ => imm.signExtend 32

/-- `const` (R125). -/
def execConst (w : NodeOp) (imm : BitVec 16) (s : State) : Out :=
  fireCalc (formOf (.const w imm)) (fun _ _ _ => .both (Word.splat (constLane w.ty imm))) s

/-- `tag.get` (R125). -/
def execTagGet (w : NodeOp) (s : State) : Out :=
  fireMove (formOf (.tagGet w)) s
    (fun o => some (resultTok o (predLanes w o.l.pay o.p.pay fun _ => o.l.tag.setWidth 32)))
    (fun o => some (resultTok o (predLanes w o.l.pay o.p.pay fun _ => o.l.tag.setWidth 32)))

/-- `tag.set`: l with another TAG (R125). -/
def execTagSet (w : NodeOp) (s : State) : Out :=
  fireMove (formOf (.tagSet w)) s (fun o => some { o.l with tag := Word.field o.r.pay 0 16 }) (fun o => some { o.l with tag := Word.field o.r.pay 0 16 })

/-- The census change of a finished `seqgen` (R120). -/
def seqgenCount (count : Nat) (fin hasB : Bool) : Int := (count : Int) - 1 + (if fin then 1 else 0) + (if hasB then 1 else 0)

/-- How many emissions a `seqgen` run has: its tokens, then an end token, then a done token (R126). -/
def seqgenSteps (count : Nat) (fin hasB : Bool) : Nat := count + (if fin then 1 else 0) + (if hasB then 1 else 0)

/-- The count of a `seqgen` trigger (R126). -/
def seqgenN (t : Tok) : Nat := (Word.lane t.pay 1).toNat

/-- `seqgen` taking a trigger (R126): a run with nothing to send finishes at once. -/
def execSeqgen (w : NodeOp) (fin : Bool) (s : State) : Out :=
  let f := formOf (.seqgen w fin)
  atSlot s fun k n sl =>
    match sl.run with
    | .seqgen .. => .next s
    | _ =>
        match gateOf f sl with
        | .wait => .next s
        | .trap c => .next (raiseTrap s (slotSite s k n) c 0)
        | .forward t => if bothFree s k n f then .next (forwardBoth s k n f t) else .next s
        | .go o =>
            if seqgenSteps (seqgenN o.l) fin (w.tgb != .none) == 0 then withCensus s k n (-1) fun s1 => .next (consumeAt s1 k n f)
            else
              let s1 := consumeAt s k n f
              .next (s1.setSlot k n { s1.slot k n with run := .seqgen o.l 0 })

/-- The token of a `seqgen` at position `k` of a trigger, and the target it leaves for (R126); the done token has the SEQ of the trigger (R58, R118). -/
def seqgenTok (w : NodeOp) (fin : Bool) (t : Tok) (k : Nat) : Tgt × Tok :=
  if k < seqgenN t then
    (w.tga, { t with tt := .data, seq := BitVec.ofNat 8 k
                     pay := Word.ofLanes fun i => Word.lane t.pay 0 + BitVec.ofNat 32 (16 * k + i) * Word.lane t.pay 2 })
  else if fin && k == seqgenN t then (w.tga, { t with tt := .eos, seq := BitVec.ofNat 8 (seqgenN t), pay := 0 })
  else (w.tgb, { t with tt := .control, pay := BitVec.ofNat 512 (seqgenN t) })

/-- SEQGEN_TOKEN: the next token of a `seqgen` run; with the last one the run ends and the census changes (R120, R126). -/
def execSeqgenToken (s : State) : Out :=
  atSlot s fun k n sl =>
    match sl.run, decodeNode sl.word with
    | .seqgen t pos, .ok (.seqgen w fin) =>
        let e := seqgenTok w fin t pos
        let count := seqgenN t
        if !targetFree (s.tile k) e.1 then .next s
        else if pos + 1 == seqgenSteps count fin (w.tgb != .none) then
          withCensus s k n (seqgenCount count fin (w.tgb != .none)) fun s1 =>
            .next (deliverTok (s1.setSlot k n { s1.slot k n with run := .idle }) k e.1 (some e.2))
        else .next (deliverTok (s.setSlot k n { sl with run := .seqgen t (pos + 1) }) k e.1 (some e.2))
    | _, _ => .next s

/-! ### Threads (R127-R131) -/

/-- The lowest free pool tag at or above `t`, over `n` tags (R128). -/
def lowestTag (used : List Nat) : Nat → Nat → Option Nat
  | 0, _ => none
  | n + 1, t => if used.contains t then lowestTag used n (t + 1) else some t

/-- A slot's place in the order in which simultaneous requests to a region's tag pool are granted: tile id, then slot (R128). -/
def spawnRank (s : State) (k : TileKey) (n : Nat) : Nat := (s.tile k).rel * 32 + n

/-- Whether no other waiting `spawn` of the region comes before a slot (R128). -/
def spawnTurn (s : State) (k : TileKey) (n : Nat) : Bool := (s.region (s.regionOf k)).asked.all (fun m => spawnRank s k n ≤ m)

/-- A slot's request stands at the pool, or stands there no longer. DEDUCED (log 160): the requests that stand at the pool when a tag comes free are those that R128 orders. -/
def spawnAsk (s : State) (k : TileKey) (n : Nat) (stands : Bool) : State :=
  let r := s.regionOf k
  let rest := (s.region r).asked.filter (· != spawnRank s k n)
  s.setRegion r { s.region r with asked := if stands then spawnRank s k n :: rest else rest }

/-- `spawn` (R120, R128): while no tag is free, or one that waits comes before it, it does not fire, and its request stands. -/
def execSpawn (w : NodeOp) (s : State) : Out :=
  let f := formOf (.spawn w)
  atSlot s fun k n sl =>
    match sl.left with
    | none => .next s
    | some l =>
        if l.tt == .resume then .next (raiseTrap s (slotSite s k n) causeBadToken 0)
        else if !bothFree s k n f then .next s
        else if l.tt.isMarker then .next (forwardBoth s k n f l)
        else if l.tt == .fault then withCensus s k n 1 fun s1 => .next (forwardBoth s1 k n f l)
        else
          let r := s.regionOf k
          match (if spawnTurn s k n then lowestTag (s.region r).used 65279 0x0100 else none) with
          | none => .next (spawnAsk s k n true)
          | some t =>
              withCensus (spawnAsk s k n false) k n 1 fun s1 =>
                let s2 := s1.setRegion r { s1.region r with used := t :: (s1.region r).used }
                .next (fireTo s2 k n f (some { l with tag := BitVec.ofNat 16 t })
                  (some { tt := .control, seq := l.seq, tag := l.tag, pay := BitVec.ofNat 512 t }))

/-- `retire` (R120, R122, R130). DESIGN CHOICE (log 152): where both apply, TAG_FREE is raised and not CENSUS_NEG. -/
def execRetire (w : NodeOp) (free : Bool) (s : State) : Out :=
  let f := formOf (.retire w free)
  atSlot s fun k n sl =>
    match sl.left with
    | none => .next s
    | some l =>
        let r := s.regionOf k
        if l.tt == .resume then .next (raiseTrap s (slotSite s k n) causeBadToken 0)
        else if l.tt == .fault then .next (raiseTrap s (slotSite s k n) causeFaultSunk 0)
        else if l.tt.isMarker then .next (noteMarker (consumeAt s k n f) k n l)
        else if free && !((s.region r).used.contains l.tag.toNat) then
          .next (raiseTrap s (slotSite s k n) causeTagFree (l.tag.setWidth 64))
        else withCensus s k n (-1) fun s1 =>
          let s2 := if free then s1.setRegion r { s1.region r with used := (s1.region r).used.filter (· != l.tag.toNat) } else s1
          .next (consumeAt s2 k n f)

/-- The width of work-id field `f` of a launch (R317). -/
def widWidth (s : State) (l f : Nat) : Nat := (pk (s.launch l).packet (0x18 + f) 1).toNat

/-- Where work-id field `f` starts (R131, R249). -/
def widStart (s : State) (l f : Nat) : Nat := (List.range f).foldl (fun acc i => acc + widWidth s l i) 0

/-- `wid.fld` (R131). -/
def execWidFld (w : NodeOp) (fld : BitVec 3) (s : State) : Out :=
  let f := formOf (.widFld w fld)
  fireSlot f s fun k n o =>
    if bothFree s k n f then
      let l := s.launchOf k
      let v := (Word.a64 o.l.pay 0).toNat / 2 ^ widStart s l fld.toNat % 2 ^ widWidth s l fld.toNat
      let t := resultTok o (Word.splat (BitVec.ofNat 32 v))
      .next (fireTo s k n f (some t) (some t))
    else .next s

/-- `wid.lvl` (R131). -/
def execWidLvl (w : NodeOp) (lvl : BitVec 3) (s : State) : Out :=
  let f := formOf (.widLvl w lvl)
  fireSlot f s fun k n o =>
    if bothFree s k n f then
      let st := widStart s (s.launchOf k) lvl.toNat
      let v : BitVec 64 := BitVec.ofNat 64 ((Word.a64 o.l.pay 0).toNat / 2 ^ st * 2 ^ st)
      let t := resultTok o (Word.ofA64 fun _ => v)
      .next (fireTo s k n f (some t) (some t))
    else .next s

/-! ### Controllers (R132-R134) -/

/-- The three controllers. -/
inductive CtlKind where
  | s | p | q
  deriving DecidableEq, Repr

/-- A controller's word: its kind, number of children, permits per child, own index, operands. -/
structure CtlForm where
  kind   : CtlKind
  nch    : Nat
  permit : Nat
  own    : Nat
  w      : NodeOp
  deriving DecidableEq, Repr

/-- The controller a slot holds. -/
def ctlForm (word : Word64) : Option CtlForm :=
  match decodeNode word with
  | .ok (.ctlS w n o) => some ⟨.s, n.toNat + 1, 1, o.toNat, w⟩
  | .ok (.ctlP w n p o) => some ⟨.p, n.toNat + 1, p.toNat + 1, o.toNat, w⟩
  | .ok (.ctlQ w n o) => some ⟨.q, n.toNat + 1, 1, o.toNat, w⟩
  | _ => none

/-- Iterations of a go token (R132). -/
def goCount (t : Tok) : Nat := (Word.lane t.pay 0).toNat

/-- Whether every done a go token asks for has come (R133). -/
def ctlFinished (c : CtlForm) (r : CtlRun) : Bool :=
  let n := goCount r.go
  if n == 0 then true
  else match c.kind with
    | .s => r.fin.sum == n * c.nch
    | .p => n ≤ r.fin.getD (c.nch - 1) 0
    | .q => (List.range c.nch).all (fun i => r.fin.getD i 0 == 1)

/-- The next permit, as child and iteration (R133). -/
def ctlNext (c : CtlForm) (r : CtlRun) : Option (Nat × Nat) :=
  let n := goCount r.go
  if n == 0 || r.marker then none
  else match c.kind with
    | .s => if r.issued.sum == r.fin.sum && r.issued.sum < n * c.nch then some (r.issued.sum % c.nch, r.issued.sum / c.nch) else none
    | .p =>
        ((List.range c.nch).find? (fun i =>
          r.issued.getD i 0 < n && r.issued.getD i 0 - r.fin.getD i 0 < c.permit
            && (i == 0 || r.issued.getD i 0 < r.fin.getD (i - 1) 0))).map (fun i => (i, r.issued.getD i 0))
    | .q => ((List.range c.nch).find? (fun i => r.issued.getD i 0 == 0)).map (fun i => (i, n))

/-- A controller taking its go token, or a marker when it is idle (R133, R134). A fault token is forwarded (R119). -/
def ctlTake (f : NodeForm) (nch : Nat) (s : State) : Out :=
  atSlot s fun k n sl =>
    match sl.run, sl.right with
    | .ctl _, _ => .next s
    | _, none => .next s
    | _, some g =>
        if g.tt == .resume then .next (raiseTrap s (slotSite s k n) causeBadToken 0)
        else
          let s1 := s.setSlot k n (sl.put .right none)
          if g.tt == .fault then
            (if targetFree (s1.tile k) f.op.tga && targetFree (s1.tile k) f.op.tgb then
              .next (sendBoth s1 k n f.op.tga f.op.tgb (some g) (some g)) else .next s)
          else if g.tt.isMarker then
            (if targetFree (s1.tile k) f.op.tga then
              .next (deliverTok (s1.setSlot k n { s1.slot k n with run := .ctl { go := g, marker := true } }) k f.op.tga (some g))
             else .next s)
          else .next (s.setSlot k n { sl with run := .ctl { go := g, issued := List.replicate nch 0, fin := List.replicate nch 0 } })

/-- `ctl.s` taking a go token (R133). -/
def execCtlS (w : NodeOp) (ncm1 own : BitVec 3) (s : State) : Out := ctlTake (formOf (.ctlS w ncm1 own)) (ncm1.toNat + 1) s

/-- `ctl.p` taking a go token (R133). -/
def execCtlP (w : NodeOp) (ncm1 : BitVec 3) (pm1 : BitVec 4) (own : BitVec 3) (s : State) : Out :=
  ctlTake (formOf (.ctlP w ncm1 pm1 own)) (ncm1.toNat + 1) s

/-- `ctl.q` taking a go token (R133). -/
def execCtlQ (w : NodeOp) (ncm1 own : BitVec 3) (s : State) : Out := ctlTake (formOf (.ctlQ w ncm1 own)) (ncm1.toNat + 1) s

/-- CTL_PERMIT: the next permit leaves on TGA (R132, R133). DESIGN CHOICE (log 108): permits and done tokens of a controller carry SEQ 0; R132 gives them none. -/
def execCtlPermit (s : State) : Out :=
  atSlot s fun k n sl =>
    match sl.run, ctlForm sl.word with
    | .ctl r, some c =>
        match ctlNext c r with
        | none => .next s
        | some (ch, it) =>
            if targetFree (s.tile k) c.w.tga then
              let t : Tok := { tt := .control, tag := r.go.tag, pay := BitVec.ofNat 512 (ch + 2 ^ 32 * (it % 2 ^ 32)), hb := pastOf s [r.go] }
              let r1 := { r with issued := r.issued.set ch (r.issued.getD ch 0 + 1) }
              .next (deliverTok (s.setSlot k n { sl with run := .ctl r1 }) k c.w.tga (some t))
            else .next s
    | _, _ => .next s

/-- A done token, marker or fault in a controller's left latch (R134). DESIGN CHOICE (log 151): the one marker sent on TGB is the last that came back, with its TAG and SEQ. -/
def ctlDoneIn (s : State) (k : TileKey) (n : Nat) (sl : Slot) (c : CtlForm) (l : Tok) : Out :=
  let drop := s.setSlot k n (sl.put .left none)
  let proto : Out := .next (raiseTrap s (slotSite s k n) causeCtlProto ((Word.lane l.pay 0).setWidth 64))
  if l.tt == .resume then .next (raiseTrap s (slotSite s k n) causeBadToken 0)
  else if l.tt == .fault then
    (if targetFree (drop.tile k) c.w.tga && targetFree (drop.tile k) c.w.tgb then
      .next (sendBoth drop k n c.w.tga c.w.tgb (some l) (some l)) else .next s)
  else if l.tt.isMarker then
    match sl.run with
    | .ctl r =>
        if r.marker && r.go.tt == l.tt then
          (if r.back + 1 < c.nch then .next (drop.setSlot k n { drop.slot k n with run := .ctl { r with back := r.back + 1 } })
           else if targetFree (drop.tile k) c.w.tgb then
             .next (deliverTok (noteMarker (drop.setSlot k n { drop.slot k n with run := .idle }) k n l) k c.w.tgb (some l))
           else .next s)
        else .next (raiseTrap s (slotSite s k n) causeMarkSkew 0)
    | _ => .next (raiseTrap s (slotSite s k n) causeMarkSkew 0)
  else
    let ch := (Word.lane l.pay 0).toNat
    match sl.run with
    | .ctl r =>
        if r.marker || c.nch ≤ ch || r.issued.getD ch 0 ≤ r.fin.getD ch 0 then proto
        else .next (drop.setSlot k n { drop.slot k n with run := .ctl { r with fin := r.fin.set ch (r.fin.getD ch 0 + 1), go := r.go.after (pastOf s [l]) } })
    | _ => proto

/-- CTL_DONE: a done token of a child is taken; or, when every done has come, the go token is consumed and the done leaves on TGB (R132-R134). -/
def execCtlDone (s : State) : Out :=
  atSlot s fun k n sl =>
    match ctlForm sl.word, sl.left with
    | none, _ => .next s
    | some c, some l => ctlDoneIn s k n sl c l
    | some c, none =>
        match sl.run with
        | .ctl r =>
            if !r.marker && ctlFinished c r then
              let s1 := s.setSlot k n { sl.put .right none with run := .idle }
              if targetFree (s1.tile k) c.w.tgb then
                .next (deliverTok s1 k c.w.tgb (some { tt := .control, tag := r.go.tag, pay := BitVec.ofNat 512 c.own, hb := pastOf s [r.go] }))
              else .next s
            else .next s
        | _ => .next s

/-! ### Synchronisation (R135-R139) -/

/-- The token an arc releases: a fault or marker as it is, else with TT 010 (R136). -/
def arcOut (t : Tok) : Tok := if t.tt == .fault || t.tt.isMarker then t else { t with tt := .control }

/-- The releases of a join (R136), each after all that happens before any arc's token. -/
def joinOut (one : Bool) (rbase : Nat) (toks : List Tok) : List Emit :=
  let past := toks.foldl (fun a t => hbJoin a t.hb) []
  if one then
    let t := (toks.find? (fun t => t.tt == .fault)).getD (toks.headD {})
    [{ dst := .route (BitVec.ofNat 4 rbase), parcel := { tok := (arcOut t).after past } }]
  else (List.range toks.length).map fun i => { dst := .route (BitVec.ofNat 4 (rbase + i)), parcel := { tok := (arcOut (toks.getD i {})).after past } }

/-- `join`: when every arc holds a token it consumes them all, and its releases wait to leave (R136). DEDUCED (log 143): markers at some arcs and a fault token at another are MARK_SKEW, as markers and data are. -/
def execJoin (w : NodeOp) (one : Bool) (vbase : BitVec 5) (rbase nm1 : BitVec 4) (s : State) : Out :=
  atSlot s fun k n sl =>
    let arcs := arcsOf (nm1.toNat + 1) sl.run
    let toks := arcs.filterMap id
    if vbase.toNat + nm1.toNat < 32 && w.tga == .none && toks.length == nm1.toNat + 1 then
      let mk := toks.any (fun t => t.tt.isMarker)
      if toks.any (fun t => t.tt == .resume) then .next (raiseTrap s (slotSite s k n) causeBadToken 0)
      else if mk && !(toks.all (fun t => t.tt == (toks.headD {}).tt)) then .next (raiseTrap s (slotSite s k n) causeMarkSkew 0)
      else
        withCensus s k n (if one && !mk then -(nm1.toNat : Int) else 0) fun s1 =>
          let s2 := s1.setSlot k n { s1.slot k n with run := .join (List.replicate (nm1.toNat + 1) none), out := joinOut one rbase.toNat toks }
          .next (syncEvent (if mk then noteMarker s2 k n (toks.headD {}) else s2) (s.regionOf k))
    else .next s

/-- `fence.sc`: l leaves unchanged once the fence may complete; its firing is its place in the fence order (R137, R294). -/
def execFenceSc (w : NodeOp) (scope : BitVec 3) (s : State) : Out :=
  let f := formOf (.fenceSc w scope)
  fireSlot f s fun k n o =>
    if bothFree s k n f && released s (slotPast s k n f) scope then
      .next (syncEvent (fireTo s k n f (some o.l) (some o.l)) (s.regionOf k))
    else .next s

/-- Tokens a sluice slot holds. -/
def sluiceBuf : SlotRun → List Tok
  | .sluice b => b
  | _ => []

/-- `sluice.loc`: a token enters the buffer while it has room; TOKEN_DELIVER lets the oldest leave (R138). -/
def execSluiceLocSnd (w : NodeOp) (scope : BitVec 3) (pair : BitVec 7) (dm1 : BitVec 4) (s : State) : Out :=
  let f := formOf (.sluiceLocSnd w scope pair dm1)
  atSlot s fun k n sl =>
    match sl.left with
    | none => .next s
    | some l =>
        if l.tt == .resume then .next (raiseTrap s (slotSite s k n) causeBadToken 0)
        else if (sluiceBuf sl.run).length ≤ dm1.toNat then
          .next (noteMarker (s.setSlot k n { consume f sl with run := .sluice (sluiceBuf sl.run ++ [l]) }) k n l)
        else .next s

/-- `sluice.xr.snd`: the token enters the pair's window once the release is done, while fewer than D tokens are unaccepted (R138). -/
def execSluiceXrSnd (w : NodeOp) (scope : BitVec 3) (pair : BitVec 7) (dm1 : BitVec 4) (s : State) : Out :=
  let f := formOf (.sluiceXrSnd w scope pair dm1)
  atSlot s fun k n sl =>
    match sl.left with
    | none => .next s
    | some l =>
        let r := s.regionOf k
        let win := (s.region r).windows.getD pair.toNat []
        if l.tt == .resume then .next (raiseTrap s (slotSite s k n) causeBadToken 0)
        else if win.length ≤ dm1.toNat && released s (pastOf s [l]) scope then
          let s1 := noteMarker (consumeAt s k n f) k n l
          .next (s1.setRegion r { s1.region r with windows := (s1.region r).windows.put pair.toNat (win ++ [l]) })
        else .next s

/-- `sluice.xr.rcv`: the oldest token of its buffer leaves, with an acquire (R138). -/
def execSluiceXrRcv (w : NodeOp) (scope : BitVec 3) (pair : BitVec 7) (dm1 : BitVec 4) (s : State) : Out :=
  let f := formOf (.sluiceXrRcv w scope pair dm1)
  atSlot s fun k n sl =>
    match sluiceBuf sl.run with
    | [] => .next s
    | t :: ts =>
        if targetFree (s.tile k) f.op.tga && targetFree (s.tile k) f.op.tgb then
          .next (sendBoth (noteMarker (s.setSlot k n { sl with run := .sluice ts }) k n t) k n f.op.tga f.op.tgb (some t) (some t))
        else .next s

/-- `census.up` (R120, R139). -/
def execCensusUp (w : NodeOp) (imm : BitVec 16) (s : State) : Out := fireCounted (formOf (.censusUp w imm)) imm.toNat s some some

/-- `census.dn` (R120, R139). -/
def execCensusDn (w : NodeOp) (imm : BitVec 16) (s : State) : Out := fireCounted (formOf (.censusDn w imm)) (-(imm.toNat : Int)) s some some

end Sys2Proof.Machine
end

