-- ==== Sys2Proof/Machine/Threads.lean ====
section
/-! DEFINITION. Threads between blocks (10 R238-R253): `jump`, parking and the overflow ring, deliveries, phase ends and the block scheduler, the end of a load. -/

namespace Sys2Proof.Machine

/-! ### Entry queues (R240-R245) -/

/-- The carve-out entries in use in a region (R243). -/
def carveUsed (rg : Region) : Nat := rg.queues.foldl (fun n q => n + (q.2.filter (fun p => p.overflow.isNone)).length) 0

/-- CARVE of a launch's packet, in KiB (R317). -/
def carveKiB (s : State) (l : Nat) : Nat := (pk (s.launch l).packet 0x14 2).toNat

/-- The queue of a block in a region. -/
def blockQueue (rg : Region) (b : Nat) : List Parked := rg.queues.getD b []

/-- Waiting threads of a block: the distinct tags in its queue (R245). -/
def waitingThreads (rg : Region) (b : Nat) : Nat := ((blockQueue rg b).map (fun p => p.tok.tag)).dedup.length

/-- The header of a parked entry with its NEXT all ones (R243). -/
def parkedHeader (p : Parked) : Word128 :=
  BitVec.allOnes 64 ++ BitVec.ofNat 12 p.block ++ BitVec.ofNat 4 p.entry ++ p.tok.tt.code ++ (0 : BitVec 5) ++ p.tok.seq
    ++ BitVec.ofNat 5 p.sslot ++ BitVec.ofNat 11 p.stile ++ p.tok.tag

/-- The 128 bytes of a parked entry (R243). -/
def parkedBytes (p : Parked) : List Byte := Word.toBytes 16 (parkedHeader p) ++ List.replicate 48 0 ++ Word.toBytes 64 p.tok.pay

/-- The token of a parked entry's bytes (R243). -/
def parkedToken (bs : List Byte) : Tok :=
  let h : Word128 := Word.ofBytes 128 (bs.take 16)
  { tt := TT.ofCode (Word.field h 45 3), seq := Word.field h 32 8, tag := Word.field h 0 16, pay := Word.ofBytes 512 (bs.drop 64) }

/-- Where byte `off` of a context's overflow reach lies: member, local segment, byte in the segment (R244). -/
def overflowPlace (s : State) (c off : Nat) : Option (Member × Nat × Nat) :=
  match (s.ctx c).overflow with
  | none => none
  | some n =>
      let ms := stripe s c n
      (Stripe.place ms (off / Stripe.g ms)).map (fun x => (x.1, x.2, off % Stripe.g ms))

/-- Bytes of a context's overflow reach (R244). -/
def overflowSize (s : State) (c : Nat) : Nat :=
  match (s.ctx c).overflow with
  | none => 0
  | some n => let ms := stripe s c n; Stripe.len ms * Stripe.g ms

/-- The offset after an entry of the overflow ring (R244). -/
def overflowNext (s : State) (c off : Nat) : Nat := (off + 128) % Nat.max 128 (overflowSize s c)

/-- Whether the overflow ring can take an entry: it exists, and W would not reach R while an entry is unread (R244). -/
def overflowRoom (s : State) (c : Nat) : Bool :=
  let x := s.ctx c
  128 ≤ overflowSize s c && (x.unread.isEmpty || overflowNext s c x.wptr != x.rptr)

/-- The tempo round that what a region's PT posts carries (R301). -/
def spillRound (s : State) (r : Nat) : Option Nat :=
  if s.launchFlag (s.region r).launch 1 then some (s.port (regionTile (s.region r) 0)).cr else none

/-- Words for the region's PT to post at an offset of the overflow reach (R244). -/
def spillPut (s : State) (r off : Nat) (vals : List Lane) : State :=
  s.setRegion r { s.region r with spills := (s.region r).spills ++ [(off, vals)] }

/-- The region's PT posts the oldest words it has for the overflow ring, once their landing has room and what it sent there earlier has arrived (R157, R244, R278); behind a fenced link they are discarded (R286); beyond the tempo-held updates a landing takes, the PT traps (R301). A PT that is saved with its launch posts on once it has returned (R297). -/
def spillMove (s : State) (r : Nat) : Option State :=
  let rg := s.region r
  match rg.spills with
  | [] => none
  | (off, vals) :: rest =>
      let s1 := s.setRegion r { rg with spills := rest }
      if s.saved.has rg.launch then none
      else match overflowPlace s (s.launch rg.launch).ctx off with
      | none => some s1
      | some (m, loc, o) =>
          let k := regionTile rg 0
          let round := spillRound s r
          if (s.port k).qStopped || earlierSent s (.port k) m.pc s.sends then none
          else if fencedPc s m.pc then some s1
          else if !weirRoom s m.pc 1 then none
          else if round.isSome && 2048 ≤ tempoHeldAt s m.pc then some (raiseTrap s (unitSite s k 0x30 0 none) causeTempoWeir 0)
          else some (weirPut s1 m.pc { cmd := 0, launch := rg.launch, slot := m.slot, seg := loc, word := o / 4, op := .write, ety := 1, vals := vals, stamp := 0, round := round })

/-- NEXT of an entry that stands before a carve-out or overflow entry (R243). -/
def parkedNext (p : Parked) : BitVec 64 :=
  match p.overflow with
  | some o => (1 : BitVec 1) ++ (0 : BitVec 7) ++ BitVec.ofNat 56 o
  | none => BitVec.ofNat 64 p.carve

/-- The scratchpad byte at which a region's carve-out ends (R242). -/
def carveEnd (s : State) (r : Nat) : Nat := if s.launchFlag (s.region r).launch 2 then 262144 else 524288

/-- The lowest free entry of a region's carve-out (R243, log 23). -/
def carveFree (s : State) (r : Nat) : Nat :=
  let rg := s.region r
  let used := rg.queues.flatMap (fun q => q.2.filterMap (fun p => if p.overflow.isNone then some p.carve else none))
  let n := 8 * carveKiB s rg.launch
  let at_ := fun i => carveEnd s r - 128 * n + 128 * i
  ((List.range n).map at_).find? (fun a => !used.contains a) |>.getD 0

/-- Write bytes of a region's carve-out, in the scratchpad of its SP tile 65 (R242, R243). -/
def carveWrite (s : State) (r a : Nat) (bs : List Byte) : State :=
  { s with scratch := Mem.writeN s.scratch (regionTile (s.region r) 65 * 524288 + a) bs }

/-- Link the entry before a new one to it, where it stands (R243). -/
def linkEntry (s : State) (r : Nat) (prev : Option Parked) (p : Parked) : State :=
  match prev with
  | none => s
  | some x =>
      match x.overflow with
      | some o => if x.fetched then s else spillPut s r (o + 8) [(parkedNext p).setWidth 32, Word.field (parkedNext p) 32 32]
      | none => carveWrite s r (x.carve + 8) (Word.toBytes 8 (parkedNext p))

/-- The link of the entry before a removed one names the entry after it, or none (R243). -/
def relinkEntry (s : State) (r : Nat) (prev next : Option Parked) : State :=
  match prev, next with
  | none, _ => s
  | some _, some y => linkEntry s r prev y
  | some x, none =>
      match x.overflow with
      | some o => if x.fetched then s else spillPut s r (o + 8) [0xFFFFFFFF, 0xFFFFFFFF]
      | none => carveWrite s r (x.carve + 8) (List.replicate 8 0xFF)

/-- The entries that stand just before and just after an entry in its queue. -/
def neighbours (p : Parked) : Option Parked → List Parked → Option Parked × Option Parked
  | prev, x :: xs => if x == p then (prev, xs.head?) else neighbours p (some x) xs
  | _, [] => (none, none)

/-- An entry in the carve-out: its 128 bytes, linked (R243). -/
def carvePut (s : State) (r : Nat) (prev : Option Parked) (p : Parked) : State :=
  linkEntry (carveWrite s r p.carve (parkedBytes p)) r prev p

/-- An entry in the overflow ring: the region's PT posts it at W, W advances, and the entry is linked (R243, R244). -/
def overflowPut (s : State) (r : Nat) (prev : Option Parked) (p : Parked) : State :=
  let c := (s.launch (s.region r).launch).ctx
  let w := (s.ctx c).wptr
  let bs := parkedBytes p
  let s1 := linkEntry (spillPut (spillPut s r w (lanesOf (bs.take 64))) r (w + 64) (lanesOf (bs.drop 64))) r prev p
  let y := s1.ctx c
  s1.setCtx c { y with wptr := overflowNext s c w, unread := y.unread ++ [w], rptr := if y.unread.isEmpty then w else y.rptr }

/-- An overflow entry has been read back or removed: R moves to the oldest unread entry, or to W (R244). -/
def overflowFree (s : State) (c off : Nat) : State :=
  let x := s.ctx c
  let u := x.unread.filter (· != off)
  s.setCtx c { x with unread := u, rptr := u.headD x.wptr }

/-- What the entry machinery does with a jumped token (R240, R244). -/
inductive Entry where
  | transit
  | carve
  | spill
  | full
  deriving DecidableEq, Repr

/-- The fate of a token for a port of a block (R240, R244). -/
def entryFate (s : State) (r b e : Nat) : Entry :=
  let rg := s.region r
  let q := blockQueue rg b
  if rg.block == some b && rg.loading.isNone && !(q.any (fun p => p.entry == e)) then .transit
  else if !(q.any (fun p => p.overflow.isSome && !p.fetched)) && carveUsed rg < 8 * carveKiB s rg.launch then .carve
  else if overflowRoom s (s.launch rg.launch).ctx then .spill else .full

/-- Put an entry at the end of its block's queue. A block that comes to have waiting threads while its region is quiet makes a further phase end due (R253). -/
def parkAt (s : State) (r : Nat) (p : Parked) : State :=
  let rg := s.region r
  let q := blockQueue rg p.block
  s.setRegion r { rg with queues := rg.queues.put p.block (q ++ [p]), due := rg.due || (rg.quiet && q.isEmpty && (rg.loading.orElse fun _ => rg.block) != some p.block) }

/-- The region of a launch that owns a block (R235). -/
def ownerRegion (s : State) (l b : Nat) : Option Nat :=
  match (s.kernelOf l).blocks.get? b with
  | none => none
  | some k => (s.launch l).regions.find? (fun r => (s.region r).index == k.region)

/-- The entry machinery accepts a token (R240, R243, R244). -/
def entryAccept (s : State) (r : Nat) (p : Parked) : State :=
  let rg := s.region r
  let prev := (blockQueue rg p.block).getLast?
  match entryFate s r p.block p.entry with
  | .transit => s.setRegion r { rg with transit := rg.transit ++ [p] }
  | .carve =>
      let x := { p with carve := carveFree s r }
      parkAt (carvePut s r prev x) r x
  | .spill =>
      let x := { p with overflow := some (s.ctx (s.launch rg.launch).ctx).wptr }
      parkAt (overflowPut s r prev x) r x
  | .full => s

/-- `jump`: the token passes to the entry machinery of the block's region, and the census of its own region falls by 1, but not for a marker (R120, R129, R240). With the overflow ring full the slot traps SPILL_FULL (R244). DESIGN CHOICE (log 153): where both apply, CENSUS_NEG is raised and not SPILL_FULL. -/
def execJump (w : NodeOp) (block : BitVec 12) (entry : BitVec 4) (s : State) : Out :=
  let f := formOf (.jump w block entry)
  atSlot s fun k n sl =>
    match sl.left with
    | none => .next s
    | some l =>
        let r := s.regionOf k
        let c := s.ctxOf k
        if l.tt == .resume then .next (raiseTrap s (slotSite s k n) causeBadToken 0)
        else
          match ownerRegion s (s.launchOf k) block.toNat with
          | none => .next s
          | some to_ =>
              let p : Parked := { block := block.toNat, entry := entry.toNat, tok := { l with vc := 0 }, stile := (s.tile k).rel, sslot := n }
              let fate := entryFate s to_ block.toNat entry.toNat
              let d : Int := if l.tt.isMarker then 0 else -1
              match censusTrap (s.region r).census d with
              | some cause => .next (raiseTrap s (slotSite s k n) cause (BitVec.ofInt 64 (s.region r).census))
              | none =>
                  if fate == .full then .next (raiseTrap s (slotSite s k n) causeSpillFull (BitVec.ofNat 64 (s.ctx c).wptr))
                  else .next (entryAccept (noteMarker (consumeAt (censusAdd s r d) k n f) k n l) to_ p)

/-! ### Deliveries (R240, R241, R245) -/

/-- Put a token into an entry latch that is empty, counted at that moment; `gone` takes it from where it waited (R241). DEDUCED (log 145): where the census would leave its range, the trap is raised at the entry latch's slot (R251). -/
def entryPut (s : State) (r : Nat) (pt : Port) (t : Tok) (gone : Region → Region) : State :=
  let k := regionTile (s.region r) pt.tile
  let d : Int := if t.tt.isMarker then 0 else 1
  if !(((s.slot k pt.slot).at_ pt.pos).isNone) then s
  else
    match censusTrap (s.region r).census d with
    | some c => if (s.slot k pt.slot).stopped then s else raiseTrap s (slotSite s k pt.slot) c (BitVec.ofInt 64 (s.region r).census)
    | none =>
        let s1 := deliver (censusAdd s r d) k (.latch pt.pos (BitVec.ofNat 5 pt.slot)) { tok := t }
        s1.setRegion r (gone (s1.region r))

/-- Entry port i of a region's loaded block. -/
def entryPort (s : State) (r i : Nat) : Option Port :=
  match (s.region r).block with
  | none => none
  | some b => (blockOf s r b).bind (fun k => k.entries[i]?)

/-- Take the first element that passes a test out of a list. -/
def takeFirst {α : Type} (p : α → Bool) : List α → Option (α × List α)
  | [] => none
  | x :: xs => if p x then some (x, xs) else (takeFirst p xs).map (fun y => (y.1, x :: y.2))

/-- JUMP_DELIVERY: the oldest token in transit for an entry port reaches its latch, if that is empty (R240, R241). -/
def execJumpDelivery (s : State) : Out :=
  match s.focus with
  | .regionItem r i =>
      if !s.regions.has r then .fault .noAgent
      else if !s.regionRuns r then .next s
      else
        match takeFirst (fun p : Parked => p.entry == i) (s.region r).transit, entryPort s r i with
        | some (p, rest), some pt => .next (entryPut s r pt p.tok fun x => { x with transit := rest })
        | _, _ => .next s
  | _ => .fault .noAgent

/-- {TAG, SEQ} of a token as one number. -/
def tagSeq (t : Tok) : Nat := t.tag.toNat * 256 + t.seq.toNat

/-- The next parked token for a port: the oldest, or in tempo mode the least in (TAG, SEQ) (R245, R304). -/
def nextParked (tempo : Bool) (q : List Parked) (e : Nat) : Option Parked :=
  let mine := q.filter (fun p => p.entry == e)
  if tempo then mine.foldl (fun (b : Option Parked) p => match b with
    | none => some p
    | some x => if tagSeq p.tok < tagSeq x.tok then some p else some x) none
  else mine.head?

/-- Whether the overflow entries of another queue, of any context, are being read back (R244, log 133). -/
def otherAsked (s : State) (r b : Nat) : Bool :=
  s.regions.any (fun x => x.2.queues.any (fun q => (x.1 != r || q.1 != b) && q.2.any (fun p => p.asked && !p.fetched && !p.lost)))

/-- Ask the device's gather for an overflow entry that has been posted: its rider at the landing, one entry, wants the segment, once no other queue is being read back (R244). Behind a fenced link the entry reads as zero bytes (R286). -/
def overflowAsk (s : State) (r b : Nat) (p : Parked) : State :=
  let c := (s.launch (s.region r).launch).ctx
  match p.overflow.bind (overflowPlace s c) with
  | none => s
  | some (m, loc, _) =>
      let ld := s.landing m.pc
      if (s.region r).spills.any (fun x => p.overflow == some (x.1 / 128 * 128)) || otherAsked s r b then s else
      if fencedPc s m.pc then
        overflowFree (s.setRegion r { s.region r with
          queues := (s.region r).queues.upd b [] (fun q => q.map (fun y => if y.overflow == p.overflow then { y with asked := true, fetched := true, tok := { parkedToken (List.replicate 128 0) with hb := y.tok.hb } } else y)) })
          c (p.overflow.getD 0)
      else
      let mark := fun (x : State) => x.setRegion r { x.region r with
        queues := (x.region r).queues.upd b [] (fun q => q.map (fun y => if y.overflow == p.overflow then { y with asked := true } else y)) }
      match takeFirst (fun (x : Rider) => x.cmd == 0 && x.kind == .gather) ld.riders with
      | some (x, rest) => mark (s.setLanding m.pc { ld with riders := rest ++ [{ x with want := x.want ++ [(m.slot, loc, 0)] }] })
      | none =>
          if ld.riders.length < 64 then
            mark (s.setLanding m.pc { ld with riders := ld.riders ++ [{ cmd := 0, slot := m.slot, kind := .gather, commit := true, on := true, want := [(m.slot, loc, 0)] }] })
          else s

/-- ENTRY_DELIVERY: what the region has for the overflow ring is posted (OVERFLOW_POST); else the queue of the loaded block gives an entry port its next token, if the latch is empty; an overflow entry is first read back, but outside tempo mode only after the queue's entries in the carve-out (R244, R245, R304). A block's age returns to 0 when its queue becomes empty (R247). -/
def execEntryDelivery (s : State) : Out :=
  match s.focus with
  | .regionItem r i =>
      let rg := s.region r
      if !s.regions.has r then .fault .noAgent
      else
        match spillMove s r with
        | some s1 => .next s1
        | none =>
        if !s.regionRuns r || rg.transit.any (fun p => p.entry == i) then .next s
        else
        match rg.block, entryPort s r i with
        | some b, some pt =>
            (match nextParked (s.launchFlag rg.launch 1) (blockQueue rg b) i with
             | none => .next s
             | some p =>
                 if p.overflow.isSome && !p.fetched then
                   (if p.asked || (!s.launchFlag rg.launch 1 && (blockQueue rg b).any (fun x => x.overflow.isNone)) then .next s
                    else .next (overflowAsk s r b p))
                 else
                   let nb := neighbours p none (blockQueue rg b)
                   let s1 := entryPut s r pt p.tok fun x =>
                     let q := (blockQueue x b).erase p
                     { x with queues := x.queues.put b q, ages := if q.isEmpty then x.ages.put b 0 else x.ages }
                   .next (if blockQueue (s1.region r) b == blockQueue rg b then s1 else relinkEntry s1 r nb.1 nb.2))
        | _, _ => .next s
  | _ => .fault .noAgent

/-! ### Phase ends (R246, R247, R252, R253, R304) -/

/-- The tiles of a region. -/
def tilesOf (s : State) (r : Nat) : List (TileKey × Tile) := s.tiles.filter (fun t => t.2.region == some r)

/-- Whether a slot keeps its region busy: a `seqgen` part way, a controller with a go token in work or in its right latch, a `spawn` waiting for a tag, a token in an `xr.rcv` buffer (R252 points 1, 7, 8). -/
def slotBusy (rg : Region) (sl : Slot) : Bool :=
  (match sl.run with
   | .seqgen .. => true
   | .ctl c => !c.marker
   | .sluice (_ :: _) => Word.field sl.word 56 8 == (0x92 : BitVec 8) && Word.field sl.word 11 2 == (3 : BitVec 2)
   | _ => false)
  || (0x81 ≤ Word.field sl.word 56 8 && Word.field sl.word 56 8 ≤ (0x83 : BitVec 8) && (sl.right.any (fun t => !t.tt.isMarker && t.tt != .fault)))
  || (Word.field sl.word 56 8 == (0x7B : BitVec 8) && (sl.left.any (fun t => !t.tt.isMarker && t.tt != .fault))
      && 65279 ≤ rg.used.length)

/-- Whether a matrix unit or a projection engine keeps its region busy (R252 points 4, 5). -/
def unitBusy (t : Tile) : Bool :=
  t.mx.run.isSome || (t.ports.get? 0x02).any (fun x => x.tok.tt == .data || x.tok.tt == .control) || t.pj.places.any (fun p => p.2.complete) || !t.pj.ready.isEmpty || !t.pj.out.isEmpty

/-- Whether a command stands at a PT of a region. -/
def atRegion (s : State) (r : Nat) (c : Cmd) : Bool := match c.station with
  | .port k => c.away.isNone && (s.tile k).region == some r
  | .engine _ _ => false

/-- Commands that hold back the phase end of a region: an unretired `bind` at one of its PTs; a started and unretired ride (R252 points 2, 3). -/
def cmdBusy (s : State) (r : Nat) (c : Cmd) : Bool :=
  let code := (Word.field c.word 121 7).toNat
  (atRegion s r c || (c.region == r && c.origin.isPacket)) && c.phase != .done && (code == 0x28 || (c.phase == .started && code ≤ 0x05))

/-- Whether a launch seed of a launch still waits, in any of its regions (R326). -/
def seedsWait (s : State) (l : Nat) : Bool := s.regions.any (fun x => x.2.launch == l && !x.2.seeds.isEmpty)

/-- Whether a `seed` that names a latch stalls: the region is being loaded, a seed of the launch still waits, or the latch is full (R197, R326). -/
def seedStalls (s : State) (r : Nat) (v : BitVec 64) : Bool :=
  (s.region r).loading.isSome || seedsWait s (s.region r).launch
  || (match Pos.ofCode (Word.field v 16 2) with
      | some p => ((s.slot (regionTile (s.region r) (Word.field v 0 11).toNat) (Word.field v 11 5).toNat).at_ p).isSome
      | none => false)

/-- Whether the word a region's sequencer stands at is a `seed` that stalls (R197, R252 point 6). -/
def seedWaits (s : State) (r : Nat) : Bool :=
  match regionSeq s r with
  | none => false
  | some k =>
      let q := s.seq k
      let w : BitVec 32 := Mem.load s.ram (k * 65536 + q.pc.toNat) 4 32
      q.running && !q.halted && !q.stopped && q.pc.toNat < 65536 &&
        (match decodeSeq w with
         | .ok (.seqSeed d _) => seedStalls s r (if d == 0 then 0 else q.s.getD d.toNat 0)
         | _ => false)

/-- Whether a token sent by an `xr.snd` waits for a receiver in a region's loaded block (R138, R252 point 7). -/
def windowWaits (s : State) (r : Nat) : Bool :=
  let pairs := (tilesOf s r).flatMap (fun t => t.2.slots.filterMap (fun x =>
    if Word.field x.2.word 56 8 == (0x92 : BitVec 8) && Word.field x.2.word 11 2 == (3 : BitVec 2) then some (Word.field x.2.word 4 7).toNat else none))
  s.regions.any (fun x => x.2.launch == (s.region r).launch && x.2.windows.any (fun w => !w.2.isEmpty && pairs.contains w.1))

/-- The condition of R252. -/
def regionQuiet (s : State) (r : Nat) : Bool :=
  let rg := s.region r
  rg.census == 0 && rg.seeds.isEmpty && rg.asked.isEmpty && rg.transit.isEmpty
  && (match rg.block with
      | some b => (blockQueue rg b).isEmpty
      | none => true)
  && (tilesOf s r).all (fun t => !(t.2.slots.any (fun x => slotBusy rg x.2)) && !unitBusy t.2)
  && !(s.cmds.any (fun c => cmdBusy s r c.2)) && !seedWaits s r && !windowWaits s r

/-- The unit ports of a tile that have a producer: a local target, the target of a unit or a route's end (R19, R26, R304). -/
def portsFed (t : Tile) : List Nat :=
  let local_ := t.slots.flatMap (fun x => [Word.field x.2.word 40 12, Word.field x.2.word 28 12].filterMap (fun c => match Tgt.ofCode c with
    | some (.port p) => some p.toNat
    | _ => none))
  let far := t.chans.filterMap (fun c => match c.2.dst with
    | .port p => some p.toNat
    | _ => none)
  local_ ++ (unitTgtsOf t).filterMap (portOfTgt { t with routes := [] }) ++ far

/-- The drain wave of R304: every valid slot and every fed unit port of the region has seen a drain marker in this move. -/
def drainWave (s : State) (r : Nat) : Bool :=
  (tilesOf s r).all (fun t => t.2.slots.all (fun x => x.2.drained || x.2.word == nopWord) && (portsFed t.2).all (fun p => t.2.drained.contains p))

/-- The candidates of the block scheduler (R247). -/
def candidates (rg : Region) : List Nat := (rg.queues.keep (fun b q => !q.isEmpty && rg.block != some b)).keys

/-- The choice of R247: the greatest age of 16 or more, else the most waiting threads; ties to the lower number. -/
def schedPick (rg : Region) : Option Nat :=
  let cs := candidates rg
  let best := fun (val : Nat → Nat) (l : List Nat) => l.foldl (fun (b : Option Nat) c => match b with
    | none => some c
    | some x => if val x < val c then some c else some x) none
  let old := cs.filter (fun b => 16 ≤ rg.ages.getD b 0)
  if old.isEmpty then best (waitingThreads rg) cs else best (fun b => rg.ages.getD b 0) old

/-- The ages after a decision that loads a block (R246, R247). -/
def agesAfter (rg : Region) (chosen : Nat) : Map Nat :=
  ((candidates rg).filter (· != chosen)).foldl (fun m b => m.upd b 0 (· + 1)) (rg.ages.put chosen 0)

/-- PHASE_END: PHASE rises, then a pending `cfg.load` begins, or else the block scheduler decides (R246, R253). While a load is under way none is declared, and one that is due stands until the load has finished (log 53). -/
def execPhaseEnd (s : State) : Out :=
  match s.focus with
  | .region r =>
      let rg := s.region r
      if !s.regions.has r then .fault .noAgent
      else if s.regionStops r || rg.loading.isSome || !regionQuiet s r || (rg.quiet && !rg.due) || (s.launchFlag rg.launch 1 && !drainWave s r) then .next s
      else
        let x := { rg with phase := rg.phase + 1, quiet := true, due := false }
        let y := match rg.cfgNext with
          | some b => { x with cfgNext := none, loading := some b, cfgLoad := true, ages := agesAfter rg b }
          | none =>
              match schedPick rg with
              | some b => { x with loading := some b, ages := agesAfter rg b }
              | none => x
        let l := s.launch rg.launch
        .next (syncEvent ((s.setRegion r y).setLaunch rg.launch { l with phaseAt := s.dev.dtime }) r)
  | _ => .fault .noAgent

/-! ### The end of a load (R14, R196, R237, R325-R327) -/

/-- The first image of a block whose CHK does not match, as a report: CFG_BADCRC (R14). -/
def crcReport (b : Block) : BitVec 64 :=
  match b.images.find? (fun im => imageCrc im.2.bits != Img.chk im.2.bits) with
  | some im => (3 : BitVec 8) ++ BitVec.ofNat 11 im.1 ++ (0x1C : BitVec 10) ++ (0 : BitVec 35)
  | none => 0

/-- Whether a lower-numbered seed of a region's launch still waits, in any region; a seed's TAG is its number (R326). -/
def seedBefore (s : State) (r : Nat) (d : Seed) : Bool :=
  s.regions.any (fun x => x.2.launch == (s.region r).launch && x.1 != r && x.2.seeds.any (fun e => e.tok.tag < d.tok.tag))

/-- The launch seeds of a region enter their latches, in the order of all the launch's seeds, as far as these are empty (R326). DEDUCED (log 145): where the census would leave its range, the trap is raised at the seed latch's slot (R251). -/
def injectSeeds (s : State) (r : Nat) : List Seed → State
  | [] => s.setRegion r { s.region r with seeds := [] }
  | d :: ds =>
      let k := regionTile (s.region r) d.tile
      let rest := s.setRegion r { s.region r with seeds := d :: ds }
      if !((s.slot k d.slot).at_ d.pos).isNone || seedBefore s r d then rest
      else match censusTrap (s.region r).census 1 with
      | some c => if (s.slot k d.slot).stopped then rest else raiseTrap rest (slotSite s k d.slot) c (BitVec.ofInt 64 (s.region r).census)
      | none => injectSeeds (deliver (censusAdd s r 1) k (.latch d.pos (BitVec.ofNat 5 d.slot)) { tok := d.tok }) r ds

/-- The sequencer of a region starts at BOOT with the wave (R187, R325). -/
def startSeq (s : State) (r : Nat) : State :=
  match regionSeq s r with
  | none => s
  | some k =>
      let boot := Word.field ((s.tile k).units.headD 0) 50 14
      s.setSeq k { region := r, pc := 4 * boot.setWidth 32, running := true }

/-- The tokens that a load discards at the ports of a region's sequencer no longer offer themselves (R195, R237). -/
def unofferFabric (s : State) (r : Nat) : State :=
  { s with seqs := s.seqs.mapV (fun _ q => if q.region == r then { q with offers := q.offers.mapV (fun _ o => o.filter (fun x => x != .fabric)) } else q) }

/-- Whether a FIFO of a region's sequencer has room for a token that stands at its port: a load ends long after a FIFO takes what it has room for (R195, R237, log 123). -/
def fifoDue (s : State) (r : Nat) : Bool :=
  match regionSeq s r with
  | none => false
  | some k => (List.range 8).any (fun n => (s.tile k).ports.has (0x40 + n) && ((s.seq k).q.getD n []).length < 16)

/-- Whether every region of a launch has its block. -/
def allLoaded (s : State) (l : Nat) : Bool := (s.launch l).regions.all (fun r => (s.region r).block.isSome)

/-- CONFIGURATION_COMPLETE: a load ends. Every tile takes the state its image gives, unless a CHK fails, in which case nothing changes (R14); the tokens it discards at sequencer ports no longer offer themselves (R237); at the launch's own load the sequencer starts and the seeds are injected, and with the last region's wave a launch that is no tail child has its start time (R315, R325, R326). -/
def execConfigurationComplete (s : State) : Out :=
  match s.focus with
  | .region r =>
      let rg := s.region r
      if !s.regions.has r then .fault .noAgent
      else if rg.closed || (rg.block.isSome && fifoDue s r) then .next s
      else
        match rg.loading with
        | none => .next (injectSeeds s r rg.seeds)
        | some b =>
            match blockOf s r b with
            | none => .next s
            | some blk =>
                let rep := crcReport blk
                if rep != 0 then .next (s.setRegion r { rg with loading := none, cfgLoad := false, report := rep })
                else
                  let s1 := (unofferFabric (loadTiles s r blk) r).setRegion r { rg with block := some b, loading := none, cfgLoad := false, report := 0, sph := 0, asked := [], moves := if rg.block.isNone then 0 else rg.moves + 1 }
                  if rg.block.isSome then .next s1
                  else
                    let s2 := injectSeeds (startSeq s1 r) r rg.seeds
                    .next (if allLoaded s2 rg.launch && (s2.launch rg.launch).flags / 2 % 2 == 0 then s2.setLaunch rg.launch { s2.launch rg.launch with started := s.dev.dtime } else s2)
  | _ => .fault .noAgent

end Sys2Proof.Machine
end

