-- ==== Sys2Proof/Machine/SpNodes.lean ====
section
/-! DEFINITION. Scratchpad instructions, the memory node and the owner node (05 R140-R146; 10 R242; 12 R300, R307, R308). -/

namespace Sys2Proof.Machine

/-! ### Addresses (R140-R143, R242) -/

/-- The key of a scratchpad byte. -/
def spKey (k : TileKey) (a : Nat) : Nat := k * 524288 + a

/-- A scratchpad word. -/
def spWord (s : State) (k : TileKey) (a : Nat) : Lane := Mem.load s.scratch (spKey k a) 4 32

/-- Store a scratchpad word. -/
def spStore (s : State) (k : TileKey) (a : Nat) (v : Lane) : State := { s with scratch := Mem.store s.scratch (spKey k a) 4 v }

/-- Word 0 of a tile's unit section. -/
def unit0 (t : Tile) : Word64 := t.units.headD 0

/-- Whether a word lies in the owner range of a tile (R26, R144). -/
def inOwner (t : Tile) (a : Nat) : Bool :=
  let w := unit0 t
  let lo := (Word.field w 44 19).toNat
  Word.bit w 63 && lo ≤ a && a + 4 ≤ lo + (Word.field w 24 20).toNat

/-- The first byte of a tile's usable scratchpad that it does not own or that the carve-out takes: 262,144 with the race check, and less the carve-out in the tile with relative id 65 (R143, R242). -/
def spLimit (s : State) (k : TileKey) : Nat :=
  (if s.race k then 262144 else 524288) - (if (s.tile k).rel == 65 then 1024 * carveKiB s (s.launchOf k) else 0)

/-- DETAIL of SP_ADDR and SP_OWNED (R362). -/
def spDetail (lane : Nat) (a : Lane) : BitVec 64 := BitVec.ofNat 64 (lane * 2 ^ 32 + a.toNat)

/-- Why one word access traps (R143). -/
def spWordTrap (s : State) (k : TileKey) (store : Bool) (lane : Nat) (a : Lane) : Option (BitVec 8 × BitVec 64) :=
  if a.toNat % 4 != 0 || spLimit s k < a.toNat + 4 then some (causeSpAddr, spDetail lane a)
  else if store && inOwner (s.tile k) a.toNat then some (causeSpOwned, spDetail lane a)
  else none

/-- The first trap among the words of an access, lowest lane first (R143). -/
def spTrap (s : State) (k : TileKey) (store : Bool) (ws : List (Nat × Lane)) : Option (BitVec 8 × BitVec 64) :=
  ws.findSome? (fun x => spWordTrap s k store x.1 x.2)

/-- The words a `w` access touches: one per enabled lane. -/
def laneWords (w : NodeOp) (l p : Payload) : List (Nat × Lane) :=
  ((List.range 16).filter (laneOn w p)).map (fun i => (i, Word.lane l i))

/-- The words a `blk` access touches: 64 bytes from lane 0. -/
def blkWords (l : Payload) : List (Nat × Lane) := (List.range 16).map (fun i => (i, Word.lane l 0 + BitVec.ofNat 32 (4 * i)))

/-- Why an access traps: a `blk` address is also a multiple of 64 and at most 524,224 (R143). -/
def accessTrap (s : State) (k : TileKey) (store blk : Bool) (l : Payload) (ws : List (Nat × Lane)) : Option (BitVec 8 × BitVec 64) :=
  if blk && ((Word.lane l 0).toNat % 64 != 0 || 524224 < (Word.lane l 0).toNat) then some (causeSpAddr, spDetail 0 (Word.lane l 0))
  else spTrap s k store ws

/-! ### The race check (R307, R308) -/

/-- SPH of a tile's region. -/
def sphOf (s : State) (k : TileKey) : BitVec 8 := (s.region (s.regionOf k)).sph

/-- The shadow of a word. -/
def shadowOf (s : State) (k a : Nat) : BitVec 24 := s.shadow.getD (spKey k a) 0xFFFF00

/-- DETAIL of RACE (R362). -/
def raceDetail (s : State) (k a : Nat) (t : Tag) : BitVec 64 :=
  t ++ Word.field (shadowOf s k a) 8 16 ++ sphOf s k ++ (0 : BitVec 5) ++ BitVec.ofNat 19 a

/-- The first word of an access that races, as its DETAIL (R308); owner words are exempt. -/
def raceHit (s : State) (k : TileKey) (t : Tag) (ws : List (Nat × Lane)) : Option (BitVec 64) :=
  if !s.race k then none
  else ws.findSome? (fun x =>
    let a := x.2.toNat
    let sh := shadowOf s k a
    let wt : Tag := Word.field sh 8 16
    if !inOwner (s.tile k) a && wt != 0xFFFF && wt != t && Word.field sh 0 8 == sphOf s k then some (raceDetail s k a t) else none)

/-- Set the shadows of words a store wrote (R308). -/
def shadowSet (s : State) (k : TileKey) (t : Tag) (ws : List (Nat × Lane)) : State :=
  if !s.race k then s
  else { s with shadow := ws.foldl (fun m x => if inOwner (s.tile k) x.2.toNat then m else m.put (spKey k x.2.toNat) (t ++ sphOf s k)) s.shadow }

/-! ### Loads and stores (R141, R142) -/

/-- ORD acquires: `acq`, `ar`. -/
def ordAcq (o : BitVec 2) : Bool := o == 1 || o == 3
/-- ORD releases: `rel`, `ar`. -/
def ordRel (o : BitVec 2) : Bool := o == 2 || o == 3

/-- A sync event if a condition holds (R307). -/
def syncIf (c : Bool) (s : State) (k : TileKey) : State := if c then syncEvent s (s.regionOf k) else s

/-- The first 8-byte word among the words of a read that has an uncorrectable error (R143, R378). -/
def eccHit (s : State) (k : TileKey) (ws : List (Nat × Lane)) : Option Nat :=
  ws.findSome? (fun x => let a := x.2.toNat / 8 * 8; if s.ecc.contains (spKey k a) then some a else none)

/-- Words that a store writes whole lose their error mark. -/
def eccClear (s : State) (k : TileKey) (ws : List (Nat × Lane)) : State :=
  if s.ecc.isEmpty then s
  else
    let as_ := ws.map (fun x => spKey k x.2.toNat)
    { s with ecc := s.ecc.filter (fun e => !(as_.contains e && as_.contains (e + 4))) }

/-- Whether a slot's tempo round lets it touch the owner range: the owner has committed every round before it (R300). -/
def ownerOpen (s : State) (k : TileKey) (rounds : Nat) (ws : List (Nat × Lane)) : Bool :=
  !s.tempo k || rounds ≤ (s.tile k).own.closed || !(ws.any (fun x => inOwner (s.tile k) x.2.toNat))

/-- SP_ECC (R362). -/
abbrev causeSpEcc : BitVec 8 := 0x0F

/-- ORD of a slot's word (R140). -/
def slotOrd (sl : Slot) : BitVec 2 := Word.field sl.word 17 2

/-- SCOPE of a scratchpad slot's word (R140). -/
def slotScope (sl : Slot) : BitVec 3 := Word.field sl.word 13 3

/-- Whether a slot is a `spatom`. -/
def isSpatom (sl : Slot) : Bool := Word.field sl.word 56 8 == (0xA2 : BitVec 8)

/-- Whether an acquiring `spatom` of the tile has been accepted and not yet performed: the memory node accepts no later access (R141, R144). DEDUCED (log 114): in tempo mode this lasts until its round has committed (R300). -/
def acqHeld (t : Tile) : Bool := t.slots.any (fun x => isSpatom x.2 && ordAcq (slotOrd x.2) && x.2.pend.any (fun p => p.done.isNone))

/-- Whether owner updates that a tile has accepted are still to be performed before a releasing store (R141, R144, R292). -/
def relHeld (s : State) (k : TileKey) : Bool := !(s.tile k).own.queue.isEmpty

/-- Whether it is a requester's turn at a node that serves one at a time: of those that it may serve now, none has been ready longer (R141, R144). -/
def turnOf (line : List Nat) (open_ : Nat → Bool) (n : Nat) : Bool := match line.find? open_ with
  | none => true
  | some m => m == n || !line.contains n

/-- Whether the memory node takes a load now (R141, R300). -/
def loadOpen (s : State) (k : TileKey) (n : Nat) (f : NodeForm) (ws : List (Nat × Lane)) : Bool :=
  bothFree s k n f && !acqHeld (s.tile k) && ownerOpen s k (s.slot k n).rounds ws

/-- Whether a releasing access may be performed (R141, R292). -/
def relOpen (s : State) (k : TileKey) (n : Nat) (f : NodeForm) (ord : BitVec 2) (scope : BitVec 3) : Bool :=
  !ordRel ord || released s (slotPast s k n f) scope

/-- Whether the memory node may perform a store now; a release waits (R141, R292). -/
def storeOpen (s : State) (k : TileKey) (n : Nat) (f : NodeForm) (ord : BitVec 2) (scope : BitVec 3) : Bool :=
  bothFree s k n f && !acqHeld (s.tile k) && !(ordRel ord && relHeld s k) && relOpen s k n f ord scope

/-- The scratchpad words of an access as keys. -/
def wordKeys (k : TileKey) (ws : List (Nat × Lane)) : List Nat := ws.map (fun x => spKey k x.2.toNat)

/-- The words of an access. -/
def accessWords (w : NodeOp) (blk : Bool) (l p : Payload) : List (Nat × Lane) := if blk then blkWords l else laneWords w l p

/-! ### Turns at the memory node and the owner node (R141, R144) -/

/-- The words that a request at `sp.q` names (R146). -/
def qWords (p : Payload) : List (Nat × Lane) := (List.range 15).map (fun i => (i, Word.lane p i))

/-- The route that a request at `sp.q` names (R146). -/
def qRoute (p : Payload) : Nat := (Word.field (Word.lane p 15) 0 4).toNat

/-- Whether the memory node may serve the request at `sp.q` now (R141, R146, R300). -/
def qOpen (s : State) (k : TileKey) : Bool :=
  let t := s.tile k
  !acqHeld t && (t.ports.get? 0x20).any (fun p => routeFree t (qRoute p.tok.pay) && ownerOpen s k t.own.qRounds (qWords p.tok.pay))

/-- Whether a slot may be served by the memory node now. -/
def slotOpen (s : State) (k : TileKey) (n : Nat) : Bool :=
  let sl := s.slot k n
  match decodeNode sl.word with
  | .ok (.spld w ord blk scope) =>
      let f := formOf (.spld w ord blk scope)
      loadOpen s k n f (accessWords w blk (opndsOf f sl).l.pay (opndsOf f sl).p.pay)
  | .ok (.spst w ord blk scope) => storeOpen s k n (formOf (.spst w ord blk scope)) ord scope
  | _ => false

/-- Whether a requester's turn at the memory node has come (R141). -/
def memTurn (s : State) (k : TileKey) (n : Nat) : Bool := turnOf (s.tile k).own.line (fun m => if m == 32 then qOpen s k else slotOpen s k m) n

/-- Whether the owner node may take a `spatom` now (R144, R292). -/
def atomOpen (s : State) (k : TileKey) (n : Nat) : Bool :=
  let sl := s.slot k n
  match decodeNode sl.word with
  | .ok (.spatom w ord scope atop) => !acqHeld (s.tile k) && relOpen s k n (formOf (.spatom w ord scope atop)) ord scope
  | _ => false

/-- Whether a requester's turn at the owner node has come (R144). -/
def ownTurn (s : State) (k : TileKey) (n : Nat) : Bool := turnOf (s.tile k).own.ownLine (fun m => m == 33 || atomOpen s k m) n

/-- A requester that has been served joins the lines anew when it is ready again. -/
def leaveLines (s : State) (k : TileKey) (n : Nat) : State :=
  let t := s.tile k
  s.setTile k { t with own := { t.own with line := t.own.line.filter (· != n), ownLine := t.own.ownLine.filter (· != n) } }

/-- `spld`, when its turn at the memory node has come (R141, R142). -/
def execSpld (w : NodeOp) (ord : BitVec 2) (blk : Bool) (scope : BitVec 3) (s : State) : Out :=
  let f := formOf (.spld w ord blk scope)
  fireSlot f s fun k n o =>
    let ws := accessWords w blk o.l.pay o.p.pay
    let s0 := syncIf (ordAcq ord) s k
    if !loadOpen s k n f ws || !memTurn s k n then .next s
    else match accessTrap s k false blk o.l.pay ws with
    | some (c, d) => .next (raiseTrap s (slotSite s k n) c d)
    | none =>
        match (if (s.slot k n).once then none else raceHit s0 k o.l.tag ws) with
        | some d => .next (raiseTrap s (slotSite s k n) causeRace d)
        | none =>
            let s1 := leaveLines (s0.setSlot k n { s0.slot k n with once := false }) k n
            match eccHit s k ws with
            | some a =>
                let t : Tok := { tt := .fault, seq := o.l.seq, tag := o.l.tag, pay := Config.eccPayload a }
                .next (raiseTrap (fireTo s1 k n f (some t) (some t)) (slotSite s k n) causeSpEcc (BitVec.ofNat 64 a))
            | none =>
                let v := if blk then Word.ofLanes (fun i => spWord s k ((Word.lane o.l.pay 0).toNat + 4 * i))
                  else predLanes w o.l.pay o.p.pay (fun i => spWord s k (Word.lane o.l.pay i).toNat)
                let t := (resultTok o v).after (if ordAcq ord && wideScope scope then syncPast s (wordKeys k ws) else [])
                .next (fireTo s1 k n f (some t) (some t))

/-- Store lanes of a payload at the words of an access, ascending, so that of equal addresses the highest lane remains (R141). -/
def storeWords (s : State) (k : TileKey) (r : Payload) (ws : List (Nat × Lane)) : State :=
  ws.foldl (fun x a => spStore x k a.2.toNat (Word.lane r a.1)) s

/-- `spst`, when its turn at the memory node has come (R141, R142): its completion token leaves once the store is performed; a release waits (R292). -/
def execSpst (w : NodeOp) (ord : BitVec 2) (blk : Bool) (scope : BitVec 3) (s : State) : Out :=
  let f := formOf (.spst w ord blk scope)
  fireSlot f s fun k n o =>
    let ws := accessWords w blk o.l.pay o.p.pay
    if !storeOpen s k n f ord scope || !memTurn s k n then .next s
    else match accessTrap s k true blk o.l.pay ws with
    | some (c, d) => .next (raiseTrap s (slotSite s k n) c d)
    | none =>
        match (if (s.slot k n).once then none else raceHit s k o.l.tag ws) with
        | some d => .next (raiseTrap s (slotSite s k n) causeRace d)
        | none =>
            let s0 := leaveLines (s.setSlot k n { s.slot k n with once := false }) k n
            let s1 := if ordRel ord && wideScope scope then syncPut s0 (wordKeys k ws) (slotPast s k n f) else s0
            let s2 := syncIf (ordRel ord) (shadowSet (eccClear (storeWords s1 k o.r.pay ws) k ws) k o.l.tag ws) k
            let t : Tok := { tt := .control, seq := o.l.seq, tag := o.l.tag }
            .next (fireTo s2 k n f (some t) (some t))

/-! ### Atomics and the owner node (R144, R145, R300) -/

/-- The lanes of a `spatom` token as owner updates. -/
def atomUpds (n no : Nat) (ty : BitVec 2) (atop : BitVec 3) (round : Nat) (o : Opnds) : List OwnUpd :=
  (List.range 16).map (fun i =>
    { src := n, lane := i, tag := o.l.tag, seq := o.l.seq, atop := atop, ty := ty, addr := Word.lane o.l.pay i, v := Word.lane o.r.pay i
      cmp := Word.lane o.p.pay i, reply := true, round := round, no := no })

/-- Why an owner update traps: it lies outside the usable scratchpad, or outside the owner range (R143, R242). -/
def ownTrap (s : State) (k : TileKey) (lane : Nat) (a : Lane) : Option (BitVec 8 × BitVec 64) :=
  if a.toNat % 4 != 0 || spLimit s k < a.toNat + 4 || !inOwner (s.tile k) a.toNat then some (causeSpAddr, spDetail lane a) else none

/-- TYPE of an owner update (R145). -/
def ownTy (ty : Ty) : BitVec 2 := if ty == .i32 then 0 else if ty == .u32 then 1 else 2

/-- Whether a slot's token has waited for nothing that came before it: no result of an earlier token is pending. -/
def noPend (sl : Slot) : Bool := sl.pend.isEmpty

/-- A firing whose results come later: markers and faults are forwarded only when no result is pending (R148, R300, R302). -/
def fireLater (f : NodeForm) (s : State) (markerOk : State → TileKey → Nat → Tok → Bool) (onData : TileKey → Nat → Opnds → Out) : Out :=
  atSlot s fun k n sl =>
    match gateOf f sl with
    | .wait => .next s
    | .trap c => .next (raiseTrap s (slotSite s k n) c 0)
    | .forward t => if noPend sl && markerOk s k n t && bothFree s k n f then .next (forwardBoth s k n f t) else .next s
    | .go o => onData k n o

/-- `spatom`, when its turn at the owner node has come: its 16 lanes go to the owner node; the result leaves after lane 15 (R144). -/
def execSpatom (w : NodeOp) (ord : BitVec 2) (scope atop : BitVec 3) (s : State) : Out :=
  let f := formOf (.spatom w ord scope atop)
  fireLater f s (fun s k n t => t.tt != .tempo || !s.tempo k || (s.slot k n).rounds < (s.tile k).own.closed) fun k n o =>
    let ws := (List.range 16).map (fun i => (i, Word.lane o.l.pay i))
    match ws.findSome? (fun x => ownTrap s k x.1 x.2) with
    | some (c, d) => .next (raiseTrap s (slotSite s k n) c d)
    | none =>
        if acqHeld (s.tile k) || !relOpen s k n f ord scope || !ownTurn s k n then .next s
        else
          let s1 := syncIf (ordAcq ord) (consumeAt (leaveLines s k n) k n f) k
          let s2 := s1.setSlot k n { s1.slot k n with pend := (s1.slot k n).pend ++ [{ tok := (resultTok o 0).after (slotPast s k n f), no := s.sends }] }
          let t := s2.tile k
          let s3 := s2.setTile k { t with own := { t.own with queue := t.own.queue ++ atomUpds n s.sends (ownTy w.ty) atop ((s.slot k n).rounds + 1) o } }
          .next { s3 with sends := s.sends + 1 }

/-- The new value of an owner word, and the counters `fadd` touches (R144). -/
def ownNew (u : OwnUpd) (old : Lane) : Lane × List Nat :=
  let isgn := u.ty == 0
  let lt := fun (a b : Lane) => if isgn then a.slt b else a.ult b
  if u.atop == 0 then (old + u.v, [])
  else if u.atop == 1 then (if lt u.v old then u.v else old, [])
  else if u.atop == 2 then (if lt old u.v then u.v else old, [])
  else if u.atop == 3 then (u.v, [])
  else if u.atop == 4 then (if old == u.cmp then u.v else old, [])
  else
    let r := Fp.add Fp.f32 .rn old.toNat u.v.toNat
    (BitVec.ofNat 32 r.bits, noteLanes r.note)

/-- A result lane of the `spatom` token with a number; its result is known with the last of its 16 lanes (R144). -/
def pendLane (ps : List Pend) (no lane : Nat) (v : Lane) : List Pend :=
  ps.map (fun p =>
    if p.no == no && p.done.isNone then
      let acc := p.acc ||| (v.setWidth 512 <<< (32 * lane))
      { p with acc := acc, count := p.count + 1, done := if p.count + 1 == 16 then some { p.tok with pay := acc } else none }
    else p)

/-- The reply with a number gets its payload and is known; a fault token stands for a read that failed (R143, R145). -/
def pendKnown (ps : List Pend) (no : Nat) (t : Tok → Tok) : List Pend :=
  ps.map (fun p => if p.no == no && p.done.isNone then { p with done := some (t p.tok) } else p)

/-- The synchronisation of one owner update: what a release before it passes on, what an acquire takes over (R292). -/
def ownSync (s : State) (k : TileKey) (u : OwnUpd) : State :=
  let sl := s.slot k u.src
  if u.src < 16 && wideScope (slotScope sl) then
    let key := [spKey k u.addr.toNat]
    let past := pastOf s ((sl.pend.filter (fun p => p.no == u.no)).map (·.tok))
    let got := syncPast s key
    let s1 := if ordRel (slotOrd sl) then syncPut s key past else s
    if ordAcq (slotOrd sl) && !got.isEmpty then
      s1.setSlot k u.src { sl with pend := sl.pend.map (fun p => if p.no == u.no then { p with tok := p.tok.after got, done := p.done.map (·.after got) } else p) }
    else s1
  else s

/-- Give an owner update's old value to its source (R144, R145). -/
def ownReply (s : State) (k : TileKey) (u : OwnUpd) (old : Lane) : State :=
  if u.src < 16 then
    let sl := s.slot k u.src
    let s1 := s.setSlot k u.src { sl with pend := pendLane sl.pend u.no u.lane old }
    syncIf (u.lane == 15 && ordRel (slotOrd sl)) s1 k
  else
    let t := s.tile k
    s.setTile k { t with own := { t.own with replies := pendKnown t.own.replies u.no (fun x => { x with pay := old.setWidth 512 }) } }

/-- An update whose word has an uncorrectable error is not applied: its source gets a fault token in place of the data, and SP_ECC is raised (R143, log 115). -/
def ownBad (s : State) (k : TileKey) (u : OwnUpd) (a : Nat) : State :=
  let bad := fun (x : Tok) => { x with tt := .fault, pay := Config.eccPayload a }
  if u.src < 16 then
    let sl := s.slot k u.src
    raiseTrap (s.setSlot k u.src { sl with pend := pendKnown sl.pend u.no bad }) (slotSite s k u.src) causeSpEcc (BitVec.ofNat 64 a)
  else
    let t := s.tile k
    let s1 := s.setTile k { t with own := { t.own with replies := pendKnown t.own.replies u.no bad } }
    raiseTrap s1 (unitSite s k 0x21 0 none) causeSpEcc (BitVec.ofNat 64 a)

/-- Apply one update to its owner word; an access of `sp.own` is then performed, one that faults is not (R144, R291, R296). -/
def ownApply (s : State) (k : TileKey) (u : OwnUpd) : State :=
  match eccHit s k [(u.lane, u.addr)] with
  | some a => ownBad s k u a
  | none =>
      let s0 := accDone s u.acc
      let old := spWord s k u.addr.toNat
      let r := ownNew u old
      ownReply (countTile (spStore (ownSync s0 k u) k u.addr.toNat r.1) k r.2) k u old

/-- The order of owner updates in a tempo commit: address, then {TAG, SEQ, lane, source} (R300). -/
def ownRank (u : OwnUpd) : Nat := (((u.addr.toNat * 65536 + u.tag.toNat) * 256 + u.seq.toNat) * 16 + u.lane) * 32 + u.src

/-- Insert by a rank, after equals: a stable sort's step. -/
def insRank {α : Type} (rank : α → Nat) (x : α) : List α → List α
  | [] => [x]
  | y :: ys => if rank x < rank y then x :: y :: ys else y :: insRank rank x ys

/-- A stable sort by a rank. -/
def sortRank {α : Type} (rank : α → Nat) (l : List α) : List α := l.foldl (fun acc x => insRank rank x acc) []

/-- Whether a marker of the owner's next round stands in an input slot, or has passed (R300). -/
def slotAtRound (sl : Slot) (closed : Nat) : Bool :=
  closed < sl.rounds || (sl.left.any (fun t => t.tt == .tempo) && (sl.right.isNone || stickyAt sl.word .right || sl.right.any (fun t => t.tt == .tempo)))

/-- Whether the owner's next round closes: its marker stands in every `spatom` slot, and in `sp.own` if that has a producer (R300). -/
def ownRoundCloses (t : Tile) : Bool :=
  t.slots.all (fun x => Word.field x.2.word 56 8 != (0xA2 : BitVec 8) || slotAtRound x.2 t.own.closed)
  && (!(portsFed t).contains 0x21 || t.own.closed < t.own.ownRounds || (t.ports.get? 0x21).any (fun p => p.tok.tt == .tempo))

/-- The tile in focus, if its region runs. -/
def atTile (s : State) (kind : Kind) (go : TileKey → Tile → Out) : Out :=
  match s.focus with
  | .tile k => if (s.tile k).kind == kind && s.tiles.has k then (if s.tileRuns k then go k (s.tile k) else .next s) else .fault .noAgent
  | _ => .fault .noAgent

/-- OWNER_APPLY: outside tempo mode the owner applies its oldest update (R144). -/
def execOwnerApply (s : State) : Out :=
  atTile s .sp fun k t =>
    match t.own.queue with
    | [] => .next s
    | u :: us => if s.tempo k then .next s else .next (ownApply (s.setTile k { t with own := { t.own with queue := us } }) k u)

/-- TEMPO_COMMIT: when a round closes, the owner applies all its updates, sorted by address and logical id (R300). -/
def execTempoCommit (s : State) : Out :=
  atTile s .sp fun k t =>
    if s.tempo k && ownRoundCloses t then
      let r := t.own.closed + 1
      let now := sortRank ownRank (t.own.queue.filter (fun u => u.round ≤ r))
      let s1 := s.setTile k { t with own := { t.own with queue := t.own.queue.filter (fun u => r < u.round), closed := r } }
      .next (now.foldl (fun x u => ownApply x k u) s1)
    else .next s

/-- Take the token at a unit port. -/
def portTake (s : State) (k : TileKey) (p : Nat) : State :=
  s.setTile k { s.tile k with ports := (s.tile k).ports.del p }

/-- Note a drain marker at a unit port (R304). -/
def portDrain (s : State) (k : TileKey) (p : Nat) (t : Tok) : State :=
  if t.tt == .drain then s.setTile k { s.tile k with drained := p :: (s.tile k).drained } else s

/-- Whether the tile holds a `spown` slot. -/
def hasSpown (t : Tile) : Bool := t.slots.any (fun x => Word.field x.2.word 56 8 == (0xA3 : BitVec 8))

/-- Whether a token at `sp.own` is well made (R140, R145). -/
def ownReqOk (t : Tile) (p : Payload) : Bool :=
  let l0 := Word.lane p 0
  let atop : BitVec 3 := Word.field l0 0 3
  let ty : BitVec 2 := Word.field l0 3 2
  Word.field l0 6 26 == (0 : BitVec 26)
  && (if ty == 2 then atop == 3 || atop == 5 else ty != 3 && atop < 5)
  && (!Word.bit l0 5 || hasSpown t)

/-- SP_OWN_UPDATE: the owner node takes a token at `sp.own`; a tempo marker waits for its round's commit (R145, R300). DESIGN CHOICE (log 111): drain and end-of-stream markers and fault tokens are consumed without effect; R145 and R300 do not say. DESIGN CHOICE (log 154): of a token with a bad field and a bad address SP_REQ is raised. -/
def execSpOwnUpdate (s : State) : Out :=
  atTile s .sp fun k t =>
    match t.ports.get? 0x21 with
    | none => .next s
    | some p =>
        if t.own.stopped then .next s
        else
          let x := p.tok
          let site := unitSite s k 0x21 0 (some x)
          if x.tt == .resume then .next (raiseTrap s site causeBadToken 0)
          else if x.tt == .tempo then
            (if s.tempo k && t.own.closed ≤ t.own.ownRounds then .next s
             else
               let s1 := portTake s k 0x21
               .next (s1.setTile k { s1.tile k with own := { (s1.tile k).own with ownRounds := t.own.ownRounds + 1 } }))
          else if x.tt.isMarker || x.tt == .fault then .next (portDrain (portTake s k 0x21) k 0x21 x)
          else if !ownReqOk t x.pay then .next (raiseTrap s site causeSpReq 0)
          else match ownTrap s k 1 (Word.lane x.pay 1) with
          | some (c, d) => .next (raiseTrap s site c d)
          | none =>
              if !ownTurn s k 33 then .next s else
              let l0 := Word.lane x.pay 0
              let u : OwnUpd := { src := 16, lane := 0, tag := x.tag, seq := x.seq, atop := Word.field l0 0 3, ty := Word.field l0 3 2
                                  addr := Word.lane x.pay 1, v := Word.lane x.pay 2, cmp := Word.lane x.pay 3, reply := Word.bit l0 5
                                  round := t.own.ownRounds + 1, no := s.sends, acc := x.acc }
              let reply : List Pend := if u.reply then [{ tok := { seq := x.seq, tag := x.tag, hb := pastOf s [x] }, no := s.sends }] else []
              let s1 := portTake (leaveLines s k 33) k 0x21
              let t1 := s1.tile k
              .next { s1.setTile k { t1 with own := { t1.own with queue := t1.own.queue ++ [u], replies := t1.own.replies ++ reply } } with sends := s.sends + 1 }

/-- `spown` sends the oldest reply of the owner node once it is known (R145). -/
def execSpown (w : NodeOp) (s : State) : Out :=
  atSlot s fun k n _ =>
    let t := s.tile k
    match t.own.replies with
    | [] => .next s
    | p :: ps =>
        let s1 := s.setTile k { t with own := { t.own with replies := ps } }
        match p.done with
        | none => .next s
        | some x =>
            if targetFree (s1.tile k) w.tga && targetFree (s1.tile k) w.tgb then .next (sendBoth s1 k n w.tga w.tgb (some x) (some x))
            else .next s

/-- SP_Q_REQUEST: the memory node serves a load request at `sp.q`; the reply leaves on the route it names (R146). DESIGN CHOICE (log 111): a marker or fault token at `sp.q` is discarded; R146 does not say. DEDUCED (log 155): bits of lane 15 above RRT that are not zero raise SP_REQ. -/
def execSpQRequest (s : State) : Out :=
  atTile s .sp fun k t =>
    match t.ports.get? 0x20 with
    | none => .next s
    | some p =>
        if t.own.qStopped then .next s
        else
          let x := p.tok
          let site := unitSite s k 0x20 0 (some x)
          let rrt := qRoute x.pay
          let ws := qWords x.pay
          if x.tt == .resume then .next (raiseTrap s site causeBadToken 0)
          else if x.tt.isMarker || x.tt == .fault then
            let s1 := portDrain (portTake s k 0x20) k 0x20 x
            let t1 := s1.tile k
            .next (if x.tt == .tempo then s1.setTile k { t1 with own := { t1.own with qRounds := t1.own.qRounds + 1 } } else s1)
          else if Word.field (Word.lane x.pay 15) 4 28 != (0 : BitVec 28) || !unitRoute t rrt then .next (raiseTrap s site causeSpReq 0)
          else if !qOpen s k || !memTurn s k 32 then .next s
          else match spTrap s k false ws with
          | some (c, d) => .next (raiseTrap s site c d)
          | none =>
              match (if t.own.qOnce then none else raceHit s k x.tag ws) with
              | some d => .next (raiseTrap s site causeRace d)
              | none =>
                  let s1 := portTake (leaveLines s k 32) k 0x20
                  let t1 := s1.tile k
                  let s2 := s1.setTile k { t1 with own := { t1.own with qOnce := false } }
                  match eccHit s k ws with
                  | some a =>
                      let y : Tok := { tt := .fault, seq := x.seq, tag := x.tag, pay := Config.eccPayload a, hb := pastOf s [x] }
                      .next (raiseTrap (deliver s2 k (.route (BitVec.ofNat 4 rrt)) { tok := y }) site causeSpEcc (BitVec.ofNat 64 a))
                  | none =>
                      let y : Tok := { tt := .data, seq := x.seq, tag := x.tag, hb := pastOf s [x]
                                       pay := Word.ofLanes fun i => if i < 15 then spWord s k (Word.lane x.pay i).toNat else 0 }
                      .next (deliver s2 k (.route (BitVec.ofNat 4 rrt)) { tok := y })

/-! ### Who is ready for the memory node and the owner node (R141, R144, R255) -/

/-- Whether a slot holds operands to fire on. -/
def holdsData (f : NodeForm) (sl : Slot) : Bool := !sl.stopped && sl.out.isEmpty && (match gateOf f sl with
  | .go _ => true
  | _ => false)

/-- Whether a slot is ready for the memory node: its firing rule holds. What else the node waits for takes nothing from its place in the line (R141, R255). -/
def memReady (s : State) (k : TileKey) (n : Nat) : Bool :=
  let sl := s.slot k n
  match decodeNode sl.word with
  | .ok (.spld w ord blk scope) => let f := formOf (.spld w ord blk scope); holdsData f sl && bothFree s k n f
  | .ok (.spst w ord blk scope) => let f := formOf (.spst w ord blk scope); holdsData f sl && bothFree s k n f
  | _ => false

/-- Whether a slot is ready for the owner node (R144, R255). -/
def ownReady (s : State) (k : TileKey) (n : Nat) : Bool :=
  let sl := s.slot k n
  match decodeNode sl.word with
  | .ok (.spatom w ord scope atop) => holdsData (formOf (.spatom w ord scope atop)) sl
  | _ => false

/-- Whether a request stands at `sp.q` whose reply can leave (R141, R146). -/
def qReady (s : State) (k : TileKey) : Bool :=
  let t := s.tile k
  !t.own.qStopped && (t.ports.get? 0x20).any (fun p => (p.tok.tt == .data || p.tok.tt == .control) && routeFree t (qRoute p.tok.pay))

/-- Whether an update stands at `sp.own` (R144, R145). -/
def ownPortReady (t : Tile) : Bool := !t.own.stopped && (t.ports.get? 0x21).any (fun p => p.tok.tt == .data || p.tok.tt == .control)

/-- A line of requesters goes on: those still ready keep their places, those that have become ready at one moment join it in ascending number (R141). -/
def lineOn (old now : List Nat) : List Nat := old.filter now.contains ++ now.filter (fun n => !old.contains n)

/-- The two lines of an SP tile after a step. -/
def tileLines (s : State) (k : TileKey) (t : Tile) : Tile :=
  let mem := t.slots.keys.filter (memReady s k) ++ (if qReady s k then [32] else [])
  let own := t.slots.keys.filter (ownReady s k) ++ (if ownPortReady t then [33] else [])
  { t with own := { t.own with line := lineOn t.own.line mem, ownLine := lineOn t.own.ownLine own } }

/-- Every step ends by noting which requesters of memory and owner nodes have become ready (R141, R144). -/
def settleLines (s : State) : State :=
  { s with tiles := s.tiles.mapV (fun k t => if t.kind == .sp && s.tileRuns k then tileLines s k t else t) }

end Sys2Proof.Machine
end

