-- ==== Sys2Proof/Machine/Blocks.lean ====
section
/-! DEFINITION. The map (15 R334-R336), block pools, sequence tables, and the block engine's service of a request (05 R150-R153; 15 R344-R346; 12 R302). -/

namespace Sys2Proof.Machine

/-! ### The map (R334) -/

namespace MapEntry

/-- VALID. -/
def valid (e : BitVec 128) : Bool := Word.bit e 127
/-- CTX. -/
def ctx (e : BitVec 128) : Nat := (Word.field e 111 16).toNat
/-- VPN. -/
def vpn (e : BitVec 128) : Nat := (Word.field e 76 35).toNat
/-- TIER: far. -/
def far (e : BitVec 128) : Bool := Word.bit e 75
/-- R. -/
def r (e : BitVec 128) : Bool := Word.bit e 74
/-- W. -/
def w (e : BitVec 128) : Bool := Word.bit e 73
/-- TRANSIT. -/
def transit (e : BitVec 128) : Bool := Word.bit e 72
/-- CRN. -/
def crn (e : BitVec 128) : BitVec 4 := Word.field e 68 4
/-- PAGE. -/
def page (e : BitVec 128) : Nat := (Word.field e 47 21).toNat

/-- An entry (R334). -/
def mk (c v : Nat) (far r w transit : Bool) (crn : BitVec 4) (page : Nat) : BitVec 128 :=
  (1 : BitVec 1) ++ BitVec.ofNat 16 c ++ BitVec.ofNat 35 v ++ BitVec.ofBool far ++ BitVec.ofBool r ++ BitVec.ofBool w ++ BitVec.ofBool transit
    ++ crn ++ BitVec.ofNat 21 page ++ (0 : BitVec 47)

/-- An entry with TIER and TRANSIT set anew. -/
def moved (e : BitVec 128) (far transit : Bool) : BitVec 128 :=
  mk (ctx e) (vpn e) far (r e) (w e) transit (crn e) (page e)

end MapEntry

/-- Whether an entry is the one of (CTX, VPN). -/
def entryFor (c v : Nat) (e : BitVec 128) : Bool := MapEntry.valid e && MapEntry.ctx e == c && MapEntry.vpn e == v

/-- The home map of a page (R334). -/
def homeOf (v : Nat) : Nat := v % 24

/-- The map entry of (CTX, VPN) with its place in its home map. -/
def mapFind (s : State) (c v : Nat) : Option (Nat × BitVec 128) := (s.base (homeOf v)).home.find? (fun x => entryFor c v x.2)

/-- Replace the map entry of (CTX, VPN): measured state changes (R380, R381). -/
def mapSet (s : State) (c v : Nat) (f : BitVec 128 → BitVec 128) : State :=
  let b := s.base (homeOf v)
  (s.setDev { s.dev with measured := false }).setBase (homeOf v) { b with home := b.home.mapV (fun _ e => if entryFor c v e then f e else e) }

/-- Whether a PT cache or a die cache holds (CTX, VPN) (R336). -/
def cached (s : State) (c v : Nat) : Bool :=
  s.ports.any (fun p => p.2.cache.any (entryFor c v)) || s.dieCache.any (fun d => d.2.any (entryFor c v))

/-- What a translation of one element gives (R336). -/
inductive Xlat where
  | ok (pa : BitVec 64)
  | fail (cls : BitVec 4)
  deriving DecidableEq, Repr

/-- The virtual page of an address (R334). -/
def vaVpn (va : BitVec 64) : Nat := (Word.field va 21 35).toNat

/-- The translation of an element against the entry found for its page (R336). -/
def xlatWith (acc : Bool) (va : BitVec 64) (e : Option (BitVec 128)) : Xlat :=
  if Word.field va 56 8 != (0 : BitVec 8) then .fail 1
  else match e with
  | none => .fail 1
  | some e =>
      if (!acc && !MapEntry.r e) || (acc && !MapEntry.w e) then .fail 2
      else if MapEntry.far e || MapEntry.transit e then .fail 3
      else .ok (paOf (MapEntry.crn e) (MapEntry.page e * 2 ^ 21 + (Word.field va 0 21).toNat))

/-- The translation of an element by the map (R336). -/
def xlatOne (s : State) (c : Nat) (acc : Bool) (va : BitVec 64) : Xlat := xlatWith acc va ((mapFind s c (vaVpn va)).map Prod.snd)

/-- A failed element as `xlat` gives it (R148). -/
def failedElem (cls : BitVec 4) (va : BitVec 64) : BitVec 64 := cls ++ (0 : BitVec 4) ++ (Word.field va 0 56 : BitVec 56)

/-- The result of a translation as an element (R148). -/
def xlatElem (va : BitVec 64) : Xlat → BitVec 64
  | .ok pa => pa
  | .fail c => failedElem c va

/-! ### Pools (R344) -/

/-- The least block id whose bit is free, looking at `n` ids from `i` (R344). -/
def lowestBlock (used : List Nat) : Nat → Nat → Option Nat
  | 0, _ => none
  | n + 1, i => if used.contains i then lowestBlock used n (i + 1) else some i

/-- The lowest free block of a pool (R152). -/
def poolFree (p : Pool) : Option Nat := lowestBlock p.used (32 * p.npages) 0

/-- Mark a block of a pool used or free. -/
def poolMark (b : Stack) (pool id : Nat) (use : Bool) : Stack :=
  { b with pools := match b.pools.get? pool with
      | some p => b.pools.put pool { p with used := if use then id :: p.used else p.used.filter (· != id) }
      | none => b.pools }

/-! ### Sequence tables (R345, R346) -/

/-- Leaf frames in use. -/
def framesUsed (b : Stack) : List Nat := b.seqs.flatMap (fun t => t.2.groups.filterMap (fun g => if g.2.leaf.isEmpty then none else some g.2.frame))

/-- The segments of the table reach that evicted tables fill: one for a record, four for each leaf (R346). -/
def reachUsed (m : Map SeqTable) : Nat := m.foldl (fun n t => n + 1 + 4 * (t.2.groups.filter (fun g => !g.2.leaf.isEmpty)).length) 0

/-- The sequence a request names, if any: the SEQID of a block request (R150), of a `bseq`, `bdrop` or `kvride` command (R169, R177). -/
def reqSeq (s : State) : BlockReq → Option Nat
  | .node _ _ _ _ _ opc t => if opc == 0xB8 || opc == 0xB9 then none else some (Word.lane t.pay 0).toNat
  | .cmd id => some (Word.field (s.cmd id).word 76 20).toNat

/-- The sequence evicted when room is needed: the resident one with the oldest last use that is not being restored or dropped and has no `kvride` waiting for it (R346). -/
def victim (b : Stack) (keep : Nat) : Option (Nat × SeqTable) :=
  (b.seqs.filter (fun t => t.1 != keep && !b.restoring.contains t.1 && !b.dropping.contains t.1)).foldl (fun (m : Option (Nat × SeqTable)) t => match m with
    | none => some t
    | some x => if t.2.used < x.2.used then some t else some x) none

/-- The lowest free segments of the table reach, as many as asked for among `fuel` from `i` (R346). -/
def freeSegs (used : List Nat) : Nat → Nat → Nat → List Nat
  | 0, _, _ => []
  | _, 0, _ => []
  | fuel + 1, n + 1, i => if used.contains i then freeSegs used fuel (n + 1) (i + 1) else i :: freeSegs used fuel n (i + 1)

/-- TABLE_EVICT: the record and the leaves of a table go to the table reach, if it has room (R346). -/
def evict (b : Stack) (v : Nat × SeqTable) : Option Stack :=
  let n := 1 + 4 * (v.2.groups.filter (fun g => !g.2.leaf.isEmpty)).length
  let m := b.evicted.put v.1 { v.2 with places := freeSegs (b.evicted.flatMap (fun t => t.2.places)) 16384 n 0 }
  if reachUsed m ≤ 16384 then some { b with evicted := m, seqs := b.seqs.del v.1 } else none

/-- Room for a sequence record, evicting if need be; `none` where the table reach is full. -/
def recordRoom (b : Stack) (keep : Nat) : Option Stack :=
  if b.seqs.length < Config.seqRecords then some b else (victim b keep).bind (evict b)

/-- The lowest free leaf frame. -/
def frameFree (b : Stack) : Option Nat := lowestBlock (framesUsed b) Config.leafFrames 0

/-- Room for `n` leaf frames, evicting up to `fuel` tables (R346). -/
def framesRoom (keep n : Nat) : Nat → Stack → Option Stack
  | 0, _ => none
  | fuel + 1, b =>
      if (framesUsed b).length + n ≤ Config.leafFrames then some b
      else match (victim b keep).bind (evict b) with
      | none => none
      | some b1 => framesRoom keep n fuel b1

/-- The table of a sequence, resident or evicted. -/
def anyTable (b : Stack) (q : Nat) : Option SeqTable := (b.seqs.get? q).orElse (fun _ => b.evicted.get? q)

/-! ### Serving a request (R150-R153) -/

/-- The result of a request: status, and lanes 1 to 3 (R150). -/
structure BlockRes where
  status : Nat
  l1 : Nat := 0
  l2 : Nat := 0
  l3 : Nat := 0
  deriving DecidableEq, Repr

/-- The payload of a result (R150). -/
def blockPay (r : BlockRes) : Payload := BitVec.ofNat 512 (r.status + 2 ^ 32 * r.l1 + 2 ^ 64 * r.l2 + 2 ^ 96 * r.l3)

/-- Bits of a lane above the lowest `w` are zero. -/
def laneFits (p : Payload) (i w : Nat) : Bool := (Word.lane p i).toNat < 2 ^ w

/-- Whether a request is well made: a STACK below 24, and every lane and bit not named zero (R150). -/
def blockArgsOk (opc : BitVec 8) (p : Payload) : Bool :=
  let zeroFrom := fun (i : Nat) => (List.range 15).all (fun j => j < i || Word.lane p j == 0)
  (Word.lane p 15).toNat < 24
  && (if opc == 0xB8 then laneFits p 0 12 && zeroFrom 1
      else if opc == 0xB9 then laneFits p 0 12 && zeroFrom 2
      else if opc == 0xBA then laneFits p 0 20 && laneFits p 1 6 && zeroFrom 2
      else laneFits p 0 20 && laneFits p 1 6 && laneFits p 2 12 && zeroFrom 3)

/-- A group of a context's sequence (R151, R333). -/
def groupOf (b : Stack) (c q g : Nat) : Option (SeqTable × Group) :=
  match b.seqs.get? q with
  | some t => if t.ctx == c then (t.groups.get? g).map (fun x => (t, x)) else none
  | none => none

/-- Put a group back into its table, with the last-use stamp moved on. -/
def groupPut (b : Stack) (q : Nat) (t : SeqTable) (g : Nat) (x : Group) : Stack :=
  { b with seqs := b.seqs.put q { t with groups := t.groups.put g x, used := b.uses }, uses := b.uses + 1 }

/-- `balloc` (R152). -/
def serveAlloc (b : Stack) (c pool : Nat) : Stack × BlockRes :=
  match b.pools.get? pool with
  | none => (b, ⟨5, 0, 0, 0⟩)
  | some p =>
      if p.ctx != c then (b, ⟨5, 0, 0, 0⟩)
      else match poolFree p with
      | none => (b, ⟨2, 0, 0, 0⟩)
      | some id => (poolMark b pool id true, ⟨0, id, 0, 0⟩)

/-- `bfree` (R152, R344). -/
def serveFree (b : Stack) (c pool id : Nat) : Stack × BlockRes :=
  match b.pools.get? pool with
  | none => (b, ⟨5, 0, 0, 0⟩)
  | some p =>
      if p.ctx != c then (b, ⟨5, 0, 0, 0⟩)
      else if p.npages ≤ id / 32 then (b, ⟨7, 0, 0, 0⟩)
      else if p.used.contains id then (poolMark b pool id false, ⟨0, id, 0, 0⟩) else (b, ⟨6, 0, 0, 0⟩)

/-- `bappend`: NOPOOL where the sequence's pool is gone, or is another context's (R151, R152, R345, R353). -/
def serveAppend (b : Stack) (c q g : Nat) : Stack × BlockRes :=
  match groupOf b c q g with
  | none => (b, ⟨3, 0, 0, 0⟩)
  | some (t, x) =>
      if !(b.pools.get? t.pool).any (fun p => p.ctx == c) then (b, ⟨5, 0, 0, 0⟩)
      else if 4096 ≤ x.leaf.length then (b, ⟨1, 0, 0, 0⟩)
      else match (b.pools.get? t.pool).bind poolFree with
      | none => (b, ⟨2, 0, 0, 0⟩)
      | some id =>
          match (if x.leaf.isEmpty then framesRoom q 1 4097 b else some b) with
          | none => (b, ⟨2, 0, 0, 0⟩)
          | some b1 =>
              let fr := if x.leaf.isEmpty then (frameFree b1).getD 0x7FF else x.frame
              let n := x.leaf.length
              (groupPut (poolMark b1 t.pool id true) q t g { x with frame := fr, leaf := x.leaf ++ [BitVec.ofNat 32 id] }, ⟨0, id, n, n + 1⟩)

/-- `blook` (R151, R152). -/
def serveLook (b : Stack) (c q g i : Nat) : Stack × BlockRes :=
  match groupOf b c q g with
  | none => (b, ⟨3, 0, 0, 0⟩)
  | some (t, x) =>
      match x.leaf[i]? with
      | none => (b, ⟨4, 0, 0, 0⟩)
      | some id => (groupPut b q t g x, ⟨0, id.toNat, i, x.leaf.length⟩)

/-- `btrim` (R151, R152, R345): the frame returns when the count falls to 0. -/
def serveTrim (b : Stack) (c q g i : Nat) : Stack × BlockRes :=
  match groupOf b c q g with
  | none => (b, ⟨3, 0, 0, 0⟩)
  | some (t, x) =>
      if x.leaf.length < i then (b, ⟨4, 0, 0, 0⟩)
      else
        let b1 := (x.leaf.drop i).foldl (fun b id => poolMark b t.pool id.toNat false) b
        (groupPut b1 q t g { x with leaf := x.leaf.take i, frame := if i == 0 then 0x7FF else x.frame }, ⟨0, x.leaf.length - i, i, i⟩)

/-- One request of a block node, as one step (R152). -/
def serveReq (b : Stack) (c : Nat) (opc : BitVec 8) (p : Payload) : Stack × BlockRes :=
  let a := fun i => (Word.lane p i).toNat
  if opc == 0xB8 then serveAlloc b c (a 0)
  else if opc == 0xB9 then serveFree b c (a 0) (a 1)
  else if opc == 0xBA then serveAppend b c (a 0) (a 1)
  else if opc == 0xBB then serveLook b c (a 0) (a 1) (a 2)
  else serveTrim b c (a 0) (a 1) (a 2)

/-! ### Which request is served next (R153, R178, R302, R346) -/

/-- The block slots of an image. -/
def imageBlockSlots (x : BitVec 8192) : List Nat :=
  (List.range 32).filter (fun n => Img.nodev x n && Word.field (Img.node x n) 59 5 == (0x17 : BitVec 5))

/-- The block slots of a launch's marking set, as tile * 32 + slot: those of every block of each of its regions, fixed at its admission (R301). -/
def blockSlots (s : State) (l : Nat) : List Nat :=
  (s.launch l).regions.flatMap (fun r =>
    let rg := s.region r
    ((s.kernelOf l).blocks.filter (fun b => b.2.region == rg.index)).flatMap (fun b =>
      b.2.images.flatMap (fun im => (imageBlockSlots im.2.bits).map (fun n => regionTile rg im.1 * 32 + n))))

/-- Whether a round is closed at an engine: its mark has come from each block slot of the launch (R300). -/
def engineRoundClosed (s : State) (b : Stack) (l r : Nat) : Bool :=
  (blockSlots s l).all (fun k => b.marks.any (fun m => m.1 == l && m.2.1 == k && r ≤ m.2.2))

/-- The logical id of a block request: {TAG, SEQ, die, tile, slot} (R302). -/
def reqId (t : Tok) (k n : Nat) : Nat := (t.tag.toNat * 256 + t.seq.toNat) * 2 ^ 21 + k * 32 + n

/-- Whether a request may be served now: in tempo mode its round is closed and no request of its launch comes before it in that round (R302). -/
def tempoTurn (s : State) (b : Stack) : BlockReq → Bool
  | .cmd _ => true
  | .node k n l _ round _ t =>
      if !s.launchFlag l 1 then true
      else engineRoundClosed s b l round
        && b.reqs.all (fun q => match q with
          | .node k2 n2 l2 _ round2 _ t2 =>
              l2 != l || round < round2 || (round2 == round && reqId t k n ≤ reqId t2 k2 n2)
          | .cmd _ => true)

/-- Whether a request waits: for its round, for the restore of its table, or for a `bdrop` of its sequence part way through (R178, R346). -/
def reqWaits (s : State) (b : Stack) (q : BlockReq) : Bool :=
  !tempoTurn s b q || (match reqSeq s q with
    | some sq => b.restoring.contains sq || (b.dropping.contains sq && (match q with
        | .cmd id => Word.field (s.cmd id).word 121 7 != (0x21 : BitVec 7)
        | .node .. => true))
    | none => false)

/-- Whether a request is a `bdrop` part way through, between whose steps requests for other sequences are served (R178). -/
def dropsOn (s : State) (b : Stack) : BlockReq → Bool
  | .cmd id => Word.field (s.cmd id).word 121 7 == (0x21 : BitVec 7) && (reqSeq s (.cmd id)).any b.dropping.contains
  | .node .. => false

/-- Whether it is request `i`'s turn: it does not wait, and every request that came before it does, or is a `bdrop` part way through of another sequence (R153, R178). -/
def reqTurn (s : State) (b : Stack) (i : Nat) : Bool :=
  match b.reqs[i]? with
  | none => false
  | some q => !reqWaits s b q && (b.reqs.take i).all (fun x => reqWaits s b x || (dropsOn s b x && reqSeq s x != reqSeq s q))

/-- The place of a command's request at an engine. -/
def cmdReqIdx (b : Stack) (id : Nat) : Option Nat := (List.range b.reqs.length).find? (fun i => b.reqs[i]? == some (.cmd id))

/-- The context a request is made for. -/
def reqCtx (s : State) : BlockReq → Nat
  | .node _ _ _ c _ _ _ => c
  | .cmd id => (s.cmd id).ctx

/-- Whether a request needs a table of its context that is evicted: its restore then begins (R333, R346). -/
def needsRestore (s : State) (b : Stack) (q : BlockReq) : Option Nat :=
  match reqSeq s q with
  | some sq => if (b.seqs.get? sq).isNone && (b.evicted.get? sq).any (fun t => t.ctx == reqCtx s q) then some sq else none
  | none => none

/-- The engine in focus. -/
def atEngine (s : State) (go : Nat → Nat → Stack → Out) : Out :=
  match s.focus with
  | .engine n i => if n < Config.stackCount then go n i (s.base n) else .fault .noAgent
  | _ => .fault .noAgent

/-- The pending result of a slot that a token asked for, by its place in issue order. -/
def pendFor (ps : List Pend) (t : Tok) (p : Payload) : List Pend :=
  match ps with
  | [] => []
  | x :: rest => if x.done.isNone && x.tok == t then { x with done := some { x.tok with pay := p } } :: rest
      else x :: pendFor rest t p

/-- A stack with a table restored and room made for its record and leaves; `none` where the table reach has no room for the evictions that needs (R346). -/
def restoreTable (b : Stack) (sq : Nat) : Option Stack :=
  match b.evicted.get? sq with
  | none => none
  | some t =>
      let need := (t.groups.filter (fun g => !g.2.leaf.isEmpty)).length
      match (recordRoom { b with evicted := b.evicted.del sq } sq).bind (fun b1 => framesRoom sq need 4097 b1) with
      | none => none
      | some b1 =>
          let gs := t.groups.foldl (fun (acc : Map Group × List Nat) g =>
            if g.2.leaf.isEmpty then (acc.1.put g.1 g.2, acc.2)
            else
              let fr := (lowestBlock acc.2 Config.leafFrames 0).getD 0x7FF
              (acc.1.put g.1 { g.2 with frame := fr }, fr :: acc.2)) ([], framesUsed b1)
          some { b1 with seqs := b1.seqs.put sq { t with groups := gs.1, used := b1.uses, places := [] }, uses := b1.uses + 1
                         restoring := b1.restoring.filter (· != sq) }

/-- A slot of a launch takes the result of a request, even while the launch is saved (R150, R348 step 2). -/
def slotResult (s : State) (l k slot : Nat) (t : Tok) (r : BlockRes) : State :=
  let x := tileIn s l k
  match x.slots.get? slot with
  | some sl => setTileIn s l k { x with slots := x.slots.put slot { sl with pend := pendFor sl.pend t (blockPay r) } }
  | none => s

/-! ### The table reach (R268, R345, R346) -/

/-- A level-1 entry (R345). -/
def levelEntry (g : Group) : Word64 :=
  (1 : BitVec 1) ++ g.policy ++ BitVec.ofNat 16 g.leaf.length ++ BitVec.ofNat 11 (if g.leaf.isEmpty then 0x7FF else g.frame) ++ (0 : BitVec 32)

/-- The record of a table: its header, whose layout is the device's own, each byte a free value (log 29), and 64 level-1 entries (R345). -/
def recordBytes (fresh : Nat) (t : SeqTable) : List Byte :=
  (List.range 64).map (Config.saveByte fresh)
    ++ (List.range 64).flatMap (fun g => match t.groups.get? g with
      | some x => Word.toBytes 8 (levelEntry x)
      | none => Word.toBytes 8 ((0x7FF : Word64) <<< 32))

/-- The bytes of a leaf, in 16 KiB (R345). -/
def leafBytes (g : Group) : List Byte := g.leaf.flatMap (Word.toBytes 4) ++ List.replicate (16384 - 4 * g.leaf.length) 0

/-- The 4 KiB segments of an evicted table, with what each holds (R346). -/
def tableSegs (fresh : Nat) (t : SeqTable) : List (Nat × List Byte) :=
  let bytes := recordBytes fresh t :: ((t.groups.filter (fun g => !g.2.leaf.isEmpty)).flatMap (fun g =>
    (List.range 4).map (fun i => ((leafBytes g.2).drop (4096 * i)).take 4096)))
  t.places.zip bytes

/-- An engine comes to a new state: the tables it has evicted on the way are written to the table reach, whole granules that poison no longer marks (R346, R369). -/
def setEngine (s : State) (n : Nat) (b : Stack) : State :=
  let old := s.base n
  let out := b.evicted.filter (fun t => !old.evicted.has t.1)
  let s1 := s.setBase n b
  if out.isEmpty then s1
  else { s1 with
    dram := out.foldl (fun m t => (tableSegs s.fresh t.2).foldl (fun m x => Mem.writeN m (extentByte (n * 64 + 63) tableReach (4096 * x.1)) x.2) m) s.dram
    poison := s.poison.filter (fun a => !out.any (fun t => t.2.places.any (fun p => a / 4096 == extentByte (n * 64 + 63) tableReach (4096 * p) / 4096)))
    fresh := s.fresh + 1 }

/-- The landing of a stack's table reach (R268). -/
def tableLanding (n : Nat) : PcKey := n * 64 + 63

/-- The first segment that restoring a table reads: that of its record (R346). -/
def recordWant (b : Stack) (sq : Nat) : List (Nat × Nat × Nat) :=
  match (b.evicted.get? sq).bind (fun t => t.places.head?) with
  | some p => [(15, p, 0)]
  | none => []

/-- The restore of a table begins, on a ride of the device's that holds a rider entry at the table reach's landing and wants the table's record; with no entry free it waits (R270, R346). -/
def beginRestore (s : State) (n sq : Nat) : State :=
  let ld := s.landing (tableLanding n)
  if 64 ≤ ld.riders.length then s
  else
    let r : Rider := { cmd := 0, slot := 15, kind := .table, on := true, start := sq, want := recordWant (s.base n) sq }
    (s.setBase n { s.base n with restoring := sq :: (s.base n).restoring }).setLanding (tableLanding n) { ld with riders := ld.riders ++ [r] }

/-- Whether the ride that restores a table has read its record and its leaves (R346). -/
def tableRead (s : State) (n sq : Nat) : Bool :=
  (s.landing (tableLanding n)).riders.all (fun r => r.kind != .table || r.start != sq || (r.want.isEmpty && !r.dead))

/-- The ride that restored a table alights (R270). -/
def endRestore (s : State) (n sq : Nat) : State :=
  let ld := s.landing (tableLanding n)
  s.setLanding (tableLanding n) { ld with riders := ld.riders.filter (fun r => !(r.kind == .table && r.start == sq)) }

/-- BLOCK_ENGINE_SERVE: the engine serves the block node request whose turn it is, as one step; a request for an evicted table begins its restore, or gets NOBLOCK where that has no room (R152, R153, R346). -/
def execBlockEngineServe (s : State) : Out :=
  atEngine s fun n i b =>
    if !reqTurn s b i then .next s
    else match b.reqs[i]? with
    | some (.node k slot l c round opc t) =>
        let rest := { b with reqs := b.reqs.eraseIdx i }
        (match needsRestore s b (.node k slot l c round opc t) with
         | some sq =>
             if (restoreTable b sq).isSome then .next (beginRestore s n sq)
             else .next (slotResult (s.setBase n rest) l k slot t ⟨2, 0, 0, 0⟩)
         | none =>
             let r := serveReq rest c opc t.pay
             .next (slotResult (setEngine s n r.1) l k slot t r.2))
    | _ => .next s

/-- TABLE_RESTORE: an evicted table that a request waits for is resident again, once its ride has read it (R346). -/
def execTableRestore (s : State) : Out :=
  atEngine s fun n sq b =>
    if !b.restoring.contains sq || !tableRead s n sq then .next s
    else match restoreTable b sq with
    | none => .next (endRestore (s.setBase n { b with restoring := b.restoring.filter (· != sq) }) n sq)
    | some b1 => .next (endRestore (setEngine s n b1) n sq)

end Sys2Proof.Machine
end

