-- ==== Sys2Proof/Machine/PortNodes.lean ====
section
/-! DEFINITION. Translation, port and block nodes of PT tiles (05 R147-R150; 15 R336; 12 R302), and the events that answer them. -/

namespace Sys2Proof.Machine

/-! ### `xlat` (R148, R336) -/

/-- The entry for a page in a tile's PT cache or its die's cache. -/
def cacheFind (s : State) (k : TileKey) (c v : Nat) : Option (BitVec 128) :=
  ((s.port k).cache.find? (entryFor c v)).orElse (fun _ => (s.dieCache.getD (k / 2048) []).find? (entryFor c v))

/-- Whether the caches alone translate an element. -/
def cacheHit (s : State) (k : TileKey) (c : Nat) (va : BitVec 64) : Bool :=
  Word.field va 56 8 != (0 : BitVec 8) || (cacheFind s k c (vaVpn va)).isSome

/-- The result token of a translated operand, by the given way of finding entries (R148). -/
def xlatToken (find : Nat → Option (BitVec 128)) (acc : Bool) (l : Tok) : Tok :=
  let rs := fun i => let va := Word.a64 l.pay i; (va, xlatWith acc va (find (vaVpn va)))
  let bad := (List.range 8).any (fun i => match (rs i).2 with
    | .ok _ => false
    | .fail _ => true)
  { tt := if bad then .fault else .data, seq := l.seq, tag := l.tag, hb := l.hb, wr := bad && acc, pay := Word.ofA64 fun i => xlatElem (rs i).1 (rs i).2 }

/-- `xlat`: operands that the caches translate have their result at once, the others wait for TRANSLATION_FILL; results leave in the order of their operands (R148). -/
def execXlat (w : NodeOp) (acc : Bool) (s : State) : Out :=
  let f := formOf (.xlat w acc)
  fireLater f s (fun _ _ _ _ => true) fun k n o =>
    let c := s.ctxOf k
    let hit := (List.range 8).all (fun i => cacheHit s k c (Word.a64 o.l.pay i))
    let s1 := consumeAt s k n f
    let sl := s1.slot k n
    let t := (resultTok o o.l.pay).after (slotPast s k n f)
    .next (s1.setSlot k n { sl with pend := sl.pend ++ [{ tok := t, done := if hit then some (xlatToken (cacheFind s k c) acc t) else none }] })

/-- Put an entry into a cache of a size, dropping its oldest one beyond that. -/
def cachePut (size : Nat) (l : List (BitVec 128)) (e : BitVec 128) : List (BitVec 128) :=
  (e :: l.filter (fun x => !entryFor (MapEntry.ctx e) (MapEntry.vpn e) x)).take size

/-- Whether an UNMAP of a page waits for its invalidation (R336). -/
def unmapping (s : State) (c v : Nat) : Bool := s.dev.unmaps.any (fun u => u.2.2.1 == c && u.2.2.2.1 ≤ v && v < u.2.2.2.1 + u.2.2.2.2)

/-- Fill the PT cache and the die cache with a page's entry, if it is near, not in transit and not being unmapped (R336). -/
def fillPage (s : State) (k : TileKey) (c v : Nat) : State :=
  match mapFind s c v with
  | none => s
  | some (_, e) =>
      if MapEntry.far e || MapEntry.transit e || unmapping s c v then s
      else
        let p := s.port k
        let s1 := s.setPort k { p with cache := cachePut 1024 p.cache e }
        { s1 with dieCache := s1.dieCache.upd (k / 2048) [] (fun l => cachePut 16384 l e) }

/-- TRANSLATION_FILL: the map answers a slot's oldest waiting operand; the caches are filled (R148, R336). -/
def execTranslationFill (s : State) : Out :=
  match s.focus with
  | .slot k n =>
      if !(s.tile k).slots.has n then .fault .noAgent
      else
        let sl := s.slot k n
        match decodeNode sl.word, takeFirst (fun (p : Pend) => p.done.isNone) sl.pend with
        | .ok (.xlat _ acc), some (p, _) =>
            let c := s.ctxOf k
            let s1 := (List.range 8).foldl (fun x i => fillPage x k c (vaVpn (Word.a64 p.tok.pay i))) s
            let t := xlatToken (fun v => (mapFind s c v).map Prod.snd) acc p.tok
            let fin := sl.pend.takeWhile (fun p => p.done.isSome)
            .next (s1.setSlot k n { sl with pend := fin ++ { p with done := some t } :: sl.pend.drop (fin.length + 1) })
        | _, _ => .next s
  | _ => .fault .noAgent

/-- A window without the pages from `v` on, `n` of them: what is left before and after (R332). -/
def cutWindow (v n : Nat) (x : Window) : List Window :=
  if x.vpn + x.npages ≤ v || v + n ≤ x.vpn then [x]
  else
    let lo := v - x.vpn
    let hi := v + n - x.vpn
    (if x.vpn < v then [{ x with npages := lo }] else [])
    ++ (if v + n < x.vpn + x.npages then [{ x with vpn := v + n, npages := x.npages - hi, first := x.first + hi, ffirst := x.ffirst + hi }] else [])

/-- Pages leave the map of a context: measured state changes (R332, R380). -/
def unmapPages (s : State) (c v n : Nat) : State :=
  let keep := fun (e : BitVec 128) => !(MapEntry.valid e && MapEntry.ctx e == c && v ≤ MapEntry.vpn e && MapEntry.vpn e < v + n)
  let s1 := { s with bases := s.bases.mapV (fun _ b => { b with home := b.home.keep (fun _ e => keep e) }) }
  (s1.setCtx c { s1.ctx c with windows := (s1.ctx c).windows.flatMap (cutWindow v n) }).setDev { s1.dev with measured := false }

/-- Whether a cache of the package holds one of some pages (R336). -/
def anyCached (s : State) (c v n : Nat) : Bool := (List.range n).any (fun i => cached s c (v + i))

/-- Every UNMAP whose pages no cache holds any more takes effect, and its packet completes (R332, R336). -/
def settleUnmaps (s : State) : State :=
  s.dev.unmaps.foldl (fun z u =>
    let (q, t, c, v, n) := u
    if anyCached z c v n then z
    else
      let z1 := unmapPages z c v n
      completePacket (z1.setDev { z1.dev with unmaps := z1.dev.unmaps.filter (· != u) }) q t
        { status := Status.ok, start := ((z.queue q).opens.find? (fun o => o.ticket == t)).elim 0 (fun o => o.started) }) s

/-- INVALIDATION_COMPLETE: no PT cache and no die cache of the package holds the page's entry; an UNMAP that waited for no more takes effect (R336). -/
def execInvalidationComplete (s : State) : Out :=
  match s.focus with
  | .page c v =>
      .next (settleUnmaps { s with ports := s.ports.mapV (fun _ p => { p with cache := p.cache.filter (fun e => !entryFor c v e) })
                                   dieCache := s.dieCache.mapV (fun _ l => l.filter (fun e => !entryFor c v e)) })
  | _ => .fault .noAgent

/-! ### `gaddr`, `resume` (R149) -/

/-- Firings of a `gaddr` slot since its block was loaded. -/
def gaddrCount : SlotRun → Nat
  | .gaddr n => n
  | _ => 0

/-- `gaddr`: data and fault tokens go to `pt.g` with the count of the slot's firings as SEQ; markers pass, and their passing is a firing (R60, R149). -/
def execGaddr (w : NodeOp) (s : State) : Out :=
  let f := formOf (.gaddr w)
  atSlot s fun k n sl =>
    match gateOf f sl with
    | .wait => .next s
    | .trap c => .next (raiseTrap s (slotSite s k n) c 0)
    | .forward t =>
        if !bothFree s k n f then .next s
        else
          let s1 := s.setSlot k n { sl with run := .gaddr (gaddrCount sl.run + 1) }
          .next (forwardBoth s1 k n f (if t.tt == .fault then { t with seq := BitVec.ofNat 8 (gaddrCount sl.run) } else t))
    | .go o =>
        if bothFree s k n f then
          let s1 := s.setSlot k n { sl with run := .gaddr (gaddrCount sl.run + 1) }
          .next (fireTo s1 k n f (some { o.l with seq := BitVec.ofNat 8 (gaddrCount sl.run) }) none)
        else .next s

/-- `resume` (R149). -/
def execResume (w : NodeOp) (s : State) : Out :=
  let f := formOf (.resume w)
  fireSlot f s fun k n o =>
    if bothFree s k n f then
      .next (fireTo s k n f (some { tt := .resume, seq := o.l.seq, tag := o.l.tag, pay := (Word.lane o.l.pay 0).setWidth 512 }) none)
    else .next s

/-! ### Block nodes (R150, R302) -/

/-- Send a slot's round mark to the engine of every stack, which keeps the latest of each slot (R302). -/
def sendBlockMarks (s : State) (k n r : Nat) : State :=
  (List.range Config.stackCount).foldl (fun x i =>
    let b := x.base i
    x.setBase i { b with marks := (s.launchOf k, k * 32 + n, r) :: b.marks.filter (fun m => !(m.1 == s.launchOf k && m.2.1 == k * 32 + n)) }) s

/-- Whether a slot's mark of a round has been sent. -/
def blockMarkSent (s : State) (k n r : Nat) : Bool := (s.base 0).marks.any (fun m => m.1 == s.launchOf k && m.2.1 == k * 32 + n && r ≤ m.2.2)

/-- The round a tempo marker ends (R298). -/
def markerRound (t : Tok) : Nat := (Word.lane t.pay 0).toNat

/-- The firing of a block node: its request goes to the engine of its stack, with at most 16 outstanding; a malformed one gets ARG (R150). A tempo marker first sends the round's marks (R302). -/
def fireBlock (f : NodeForm) (s : State) : Out :=
  atSlot s fun k n sl =>
    match gateOf f sl with
    | .wait => .next s
    | .trap c => .next (raiseTrap s (slotSite s k n) c 0)
    | .forward t =>
        if t.tt == .tempo && s.tempo k && !blockMarkSent s k n (markerRound t) then .next (sendBlockMarks s k n (markerRound t))
        else if noPend sl && bothFree s k n f then .next (forwardBoth s k n f t) else .next s
    | .go o =>
        if 16 ≤ sl.pend.length then .next s
        else
          let t := (resultTok o o.l.pay).after (slotPast s k n f)
          let s1 := consumeAt s k n f
          let y := s1.slot k n
          if blockArgsOk f.opc o.l.pay then
            let i := (Word.lane o.l.pay 15).toNat
            let s2 := s1.setSlot k n { y with pend := y.pend ++ [{ tok := t }] }
            let b := s2.base i
            .next (s2.setBase i { b with reqs := b.reqs ++ [.node k n (s.launchOf k) (s.ctxOf k) (sl.rounds + 1) f.opc t] })
          else .next (s1.setSlot k n { y with pend := y.pend ++ [{ tok := t, done := some { t with pay := blockPay ⟨7, 0, 0, 0⟩ } }] })

/-- `balloc` (R150). -/
def execBalloc (w : NodeOp) (s : State) : Out := fireBlock (formOf (.balloc w)) s
/-- `bfree` (R150). -/
def execBfree (w : NodeOp) (s : State) : Out := fireBlock (formOf (.bfree w)) s
/-- `bappend` (R150). -/
def execBappend (w : NodeOp) (s : State) : Out := fireBlock (formOf (.bappend w)) s
/-- `blook` (R150). -/
def execBlook (w : NodeOp) (s : State) : Out := fireBlock (formOf (.blook w)) s
/-- `btrim` (R150). -/
def execBtrim (w : NodeOp) (s : State) : Out := fireBlock (formOf (.btrim w)) s

end Sys2Proof.Machine
end

