-- ==== Sys2Proof/Machine/Matrix.lean ====
section
/-! DEFINITION. The matrix unit and its node instructions (04 R88-R100; 02 R51, R55). -/

namespace Sys2Proof.Machine

/-! ### Node instructions (R100) -/

/-- `mma` to `zero`: the left token as a control token with a MOP (R100). -/
def fireMop (f : NodeForm) (mop : BitVec 6) (s : State) : Out :=
  let out := fun (o : Opnds) => some { resultTok o (Word.setField o.l.pay 58 mop) with tt := TT.control }
  fireMove f s out out

/-- `mma` (R100). -/
def execMma (w : NodeOp) (s : State) : Out := fireMop (formOf (.mma w)) 0 s
/-- `mma.acc` (R100). -/
def execMmaAcc (w : NodeOp) (s : State) : Out := fireMop (formOf (.mmaAcc w)) 1 s
/-- `loadw` (R100). -/
def execLoadw (w : NodeOp) (s : State) : Out := fireMop (formOf (.loadw w)) 2 s
/-- `swapw` (R100). -/
def execSwapw (w : NodeOp) (s : State) : Out := fireMop (formOf (.swapw w)) 3 s
/-- `drain` (R100). -/
def execDrain (w : NodeOp) (s : State) : Out := fireMop (formOf (.drain w)) 4 s
/-- `zero` (R100). -/
def execZero (w : NodeOp) (s : State) : Out := fireMop (formOf (.zero w)) 5 s

/-- `rowtag` (R100). -/
def execRowtag (w : NodeOp) (imm : BitVec 16) (s : State) : Out :=
  let out := fun (o : Opnds) => some { resultTok o (Word.setField o.l.pay 0 (Word.field o.r.pay 0 16 + imm)) with tt := TT.control }
  fireMove (formOf (.rowtag w imm)) s out out

/-- `rprog` reads RPROG as it fires (R100). -/
def execRprog (w : NodeOp) (s : State) : Out :=
  let f := formOf (.rprog w)
  fireSlot f s fun k n o =>
    if bothFree s k n f then
      let t := resultTok o (Word.splat ((s.tile k).mx.rprog.setWidth 32))
      .next (fireTo s k n f (some t) (some t))
    else .next s

/-! ### The control word (R91, R92) -/

namespace MxCtl

/-- MOP. -/
def mop (c : Word64) : Nat := (Word.field c 58 6).toNat
/-- A count field in which 0 means 32. -/
def or32 (x : BitVec 5) : Nat := if x == 0 then 32 else x.toNat
/-- M. -/
def m (c : Word64) : Nat := or32 (Word.field c 53 5)
/-- N. -/
def n (c : Word64) : Nat := or32 (Word.field c 48 5)
/-- K. -/
def k (c : Word64) : Nat := or32 (Word.field c 43 5)
/-- ACC. -/
def acc (c : Word64) : Bool := Word.bit c 42
/-- WSEL. -/
def wsel (c : Word64) : Nat := (Word.field c 40 2).toNat
/-- ASEL. -/
def asel (c : Word64) : Nat := (Word.field c 39 1).toNat
/-- PSEL. -/
def psel (c : Word64) : BitVec 3 := Word.field c 36 3
/-- DRT. -/
def drt (c : Word64) : BitVec 4 := Word.field c 32 4
/-- CBI. -/
def cbi (c : Word64) : BitVec 7 := Word.field c 25 7
/-- ROWTAG. -/
def rowtag (c : Word64) : BitVec 16 := Word.field c 0 16

/-- The bits a MOP may set, by the table of R92: MOP itself and its used fields; nothing for a reserved MOP. -/
def used (c : Word64) : Word64 :=
  let bits := fun (l : List (Nat × Nat)) => l.foldl (fun (a : Word64) x => a ||| ((BitVec.allOnes x.2).setWidth 64 <<< x.1)) 0
  match mop c with
  | 0 => bits [(58, 6), (53, 5), (48, 5), (43, 5), (42, 1), (40, 2), (39, 1), (0, 16)]
  | 1 => bits [(58, 6), (53, 5), (48, 5), (43, 5), (42, 1), (40, 2), (39, 1), (36, 3), (32, 4), (25, 7), (0, 16)]
  | 2 => bits [(58, 6), (53, 5), (43, 5), (40, 2)]
  | 3 => bits [(58, 6), (40, 2)]
  | 4 => bits [(58, 6), (53, 5), (48, 5), (39, 1), (36, 3), (32, 4), (25, 7), (0, 16)]
  | 5 => bits [(58, 6), (39, 1)]
  | _ => 0

/-- The word drains: MMA.ACC and DRAIN. -/
def drains (c : Word64) : Bool := mop c == 1 || mop c == 4

/-- The check of a control word as the unit takes it (R92). -/
def ok (t : Tile) (c : Word64) : Bool :=
  let dfmt : BitVec 4 := Word.field (unit0 t) 51 4
  mop c < 6 && (c &&& ~~~(used c)) == 0
  && (psel c == 0 || (Word.field c 48 5 == (0 : BitVec 5) && dfmt == 2))
  && (!drains c || unitRoute t (drt c).toNat)

end MxCtl

/-! ### Operands (R49, R51, R55, R89, R90) -/

/-- AFMT of a tile. -/
def mxAfmt (t : Tile) : Nat := (Word.field (unit0 t) 60 4).toNat
/-- SMODE of a tile. -/
def mxSmode (t : Tile) : Bool := Word.bit (unit0 t) 55
/-- Blocks in a packed token (R51). -/
def mxPack (afmt : Nat) : Nat := if afmt == 5 then 10 else if afmt == 6 then 6 else 4

/-- The blocks of a packed token with their scale words (R51, R53). DESIGN CHOICE (log 109): a token that came by a local target passed no channel decoder and brings no scale words; its blocks decode with scale word 0x0000. -/
def mxBlocks (afmt : Nat) (p : Parcel) : List (BitVec 16 × List Nat) :=
  let m := sxBits afmt
  (List.range (mxPack afmt)).map (fun b => (p.scales.getD b 0, sxCodes m (p.tok.pay.toNat / 2 ^ (16 * (m + 1) * b))))

/-- Element kk of a BF16 token as an F32 pattern (R42, R46, R90). -/
def mxBf16 (p : Payload) (kk : Nat) : Lane := BitVec.ofNat 32 (elemAt 16 p kk * 65536)

/-- What a line's reading gives: the elements, what stays of the run's blocks, whether a token is taken, and the blocks decoded. -/
structure LineRead where
  xs     : List Lane
  blocks : List (BitVec 16 × List Nat)
  take   : Bool
  tally  : List Nat := []
  deriving DecidableEq, Repr

/-- Read a line of K elements from the run's blocks and the token at the port; nothing while the token it needs has not come (R90). -/
def readLine (t : Tile) (kv : Nat) (blocks : List (BitVec 16 × List Nat)) (p : Option Parcel) : Option LineRead :=
  let afmt := mxAfmt t
  if afmt == 3 then p.map (fun p => { xs := (List.range kv).map (mxBf16 p.tok.pay), blocks := [], take := true })
  else
    let need := Word.ceilDiv kv 16
    let go := fun (bs : List (BitVec 16 × List Nat)) (take : Bool) =>
      let mine := bs.take need
      { xs := (mine.flatMap (fun b => sxDecode (sxBits afmt) b.1 b.2)).take kv, blocks := bs.drop need, take := take
        tally := mine.flatMap (fun b => sxDecodeTally b.1) : LineRead }
    if need ≤ blocks.length then some (go blocks false)
    else p.map (fun p => go (blocks ++ mxBlocks afmt p) true)

/-- One product added to an exact sum; `none` for a NaN (R55). -/
def dotAdd (x y : Fp.Val) : Fp.Val :=
  match x, y with
  | .nan, _ | _, .nan => .nan
  | .inf a, .inf b => if a == b then .inf a else .nan
  | .inf a, _ | _, .inf a => .inf a
  | .fin a m e, .fin b n g => let r := Fp.addFin .rn a m e b n g; .fin r.1 r.2.1 r.2.2

/-- The exact sum of products of a block, −0 only when every product is (R55). -/
def dotBlock : List (Lane × Lane) → Fp.Val
  | [] => .fin true 0 0
  | (x, y) :: rest =>
      match Fp.mulV (Fp.f32.read x.toNat) (Fp.f32.read y.toNat) with
      | none => .nan
      | some v => dotAdd v (dotBlock rest)

/-- Blocks of 16 consecutive elements, in order. -/
def chunks16 {α : Type} : Nat → List α → List (List α)
  | 0, _ => []
  | n + 1, l => if l.isEmpty then [] else l.take 16 :: chunks16 n (l.drop 16)

/-- One output over one line: blocks in ascending k, each added with one rounding (R55, R93). -/
def accumulate (a0 : Lane) (ps : List (Lane × Lane)) : Lane :=
  (chunks16 2 ps).foldl (fun a c => BitVec.ofNat 32 (Fp.addV Fp.f32 .rn (Fp.f32.read a.toNat) (dotBlock c)).bits) a0

/-- Key of an element of a stationary buffer. -/
def wKey (buf line kk : Nat) : Nat := (buf * 32 + line) * 32 + kk
/-- Key of an accumulator entry. -/
def accKey (a i j : Nat) : Nat := (a * 32 + i) * 32 + j

/-- Put a lane; zero is not listed. -/
def lanePut (m : Map Lane) (i : Nat) (v : Lane) : Map Lane := if v == 0 then m.del i else m.put i v

/-- The accumulators after line q of an MMA (R93). -/
def mmaLine (u : MxUnit) (smode : Bool) (c : Word64) (q : Nat) (xs : List Lane) : Map Lane :=
  let kv := MxCtl.k c
  let others := if smode then MxCtl.m c else MxCtl.n c
  (List.range others).foldl (fun (m : Map Lane) o =>
    let i := if smode then o else q
    let j := if smode then q else o
    let key := accKey (MxCtl.asel c) i j
    let ps := (List.range kv).map (fun kk => (xs.getD kk 0, u.w.getD (wKey (MxCtl.wsel c) o kk) 0))
    lanePut m key (accumulate (if MxCtl.acc c then u.acc.getD key 0 else 0) ps)) u.acc

/-- The buffers after line q of a LOADW (R95). -/
def loadLine (u : MxUnit) (c : Word64) (q : Nat) (xs : List Lane) : Map Lane :=
  (List.range (MxCtl.k c)).foldl (fun (m : Map Lane) kk => lanePut m (wKey (MxCtl.wsel c) q kk) (xs.getD kk 0)) u.w

/-- The buffers after a SWAPW (R96). -/
def swapBuffers (w : Map Lane) (a b : Nat) : Map Lane :=
  (List.range 1024).foldl (fun (m : Map Lane) i => lanePut (lanePut m (a * 1024 + i) (w.getD (b * 1024 + i) 0)) (b * 1024 + i) (w.getD (a * 1024 + i) 0)) w

/-! ### Draining (R97) -/

/-- The tokens of drained row i. -/
def drainRow (t : Tile) (c : Word64) (i : Nat) : List Tok :=
  let u := t.mx
  let tag := MxCtl.rowtag c + BitVec.ofNat 16 i
  let nv := MxCtl.n c
  let el := fun j => u.acc.getD (accKey (MxCtl.asel c) i j) 0
  let cbi := MxCtl.cbi c
  let sel : List Tok := if MxCtl.psel c == 0 then []
    else [{ tt := .control, tag := tag, seq := cbi.setWidth 8, pay := (MxCtl.psel c).setWidth 512 }]
  let base := 2 * cbi.setWidth 8
  let mode := (RMode.ofCode (Word.field (unit0 t) 48 3)).getD .rn
  if Word.field (unit0 t) 51 4 == (2 : BitVec 4) then
    sel ++ (List.range (Word.ceilDiv nv 16)).map (fun h =>
      { tag := tag, seq := base + BitVec.ofNat 8 h, pay := Word.ofLanes (fun l => if 16 * h + l < nv then el (16 * h + l) else 0) })
  else
    sel ++ [{ tag := tag, seq := base
              pay := ofElems 16 (fun j => if j < nv then (Fp.roundV Fp.bf16 mode (Fp.f32.read (el j).toNat)).bits else 0) }]

/-- All tokens of a drain, in order. -/
def drainEmits (t : Tile) (c : Word64) : List Emit :=
  (List.range (MxCtl.m c)).flatMap (fun i => (drainRow t c i).map (fun x => { dst := .route (MxCtl.drt c), parcel := { tok := x } }))

/-! ### Taking and running control words (R92-R99) -/

/-- The line count of an operation that reads lines: MMA by its mode, LOADW its M (R93, R95). -/
def mxLines (t : Tile) (c : Word64) : Nat := if MxCtl.mop c == 2 || !mxSmode t then MxCtl.m c else MxCtl.n c

/-- The port an operation reads: `mx.a` is 0, `mx.w` is 1 (R89). -/
def mxPort (t : Tile) (c : Word64) : Nat := if (MxCtl.mop c == 2) != mxSmode t then 1 else 0

/-- Change the unit of a tile. -/
def setMx (s : State) (k : TileKey) (u : MxUnit) : State := s.setTile k { s.tile k with mx := u }

/-- The drain of a word begins: its tokens stand ready for the route, after all that happens before the word (R94, R97). -/
def mxBeginDrain (s : State) (k : TileKey) (c : Word64) (past : List Nat) : State :=
  let t := s.tile k
  let out := (drainEmits t c).map (fun (e : Emit) => { e with parcel := { e.parcel with tok := e.parcel.tok.after past } })
  setMx s k { t.mx with run := some { ctl := c, hb := past, out := out, drains := true }, lastRoute := some (MxCtl.drt c) }

/-- One line of the running word (R90, R93, R95, R99). -/
def mxLine (s : State) (k : TileKey) (r : MxRun) : Out :=
  let t := s.tile k
  let c := r.ctl
  let port := mxPort t c
  let p := t.ports.get? port
  let needs := mxAfmt t == 3 || r.blocks.length < Word.ceilDiv (MxCtl.k c) 16
  let bad := if needs then p.map (fun x => x.tok) else none
  let site := unitSite s k port c bad
  let stop := bad.bind (fun x => if x.tt == .fault then some (causeMxFaultIn, BitVec.ofNat 64 r.line)
    else if x.tt.isMarker then some (causeMarkSkew, (0 : BitVec 64))
    else if x.tt == .resume then some (causeBadToken, 0) else none)
  match stop with
  | some (cause, d) => .next (raiseTrap s site cause d)
  | none =>
      match readLine t (MxCtl.k c) r.blocks p with
      | none => .next s
      | some x =>
          let s1 := countTile (if x.take then portTake s k port else s) k x.tally
          let past := if x.take then hbJoin r.hb (pastOf s ((p.map (·.tok)).toList)) else r.hb
          let u := (s1.tile k).mx
          let isLoad := MxCtl.mop c == 2
          let u1 := if isLoad then { u with w := loadLine u c r.line x.xs }
            else { u with acc := mmaLine u (mxSmode t) c r.line x.xs, rprog := MxCtl.rowtag c + BitVec.ofNat 16 r.line }
          if r.line + 1 < mxLines t c then .next (setMx s1 k { u1 with run := some { r with line := r.line + 1, blocks := x.blocks, hb := past } })
          else
            let s2 := setMx s1 k { u1 with run := none }
            .next (if MxCtl.mop c == 1 then mxBeginDrain s2 k c past else s2)

/-- The line a word in progress has reached: while it drains, the rows whose tokens have all left (R97, R99). -/
def mxReached (t : Tile) (r : MxRun) : Nat :=
  if r.drains then MxCtl.m r.ctl - Word.ceilDiv r.out.length (Nat.max 1 (drainRow t r.ctl 0).length) else r.line

/-- A fault or resume token that arrives at `mx.c` while a word is in progress stops it at the line it has reached (R99). -/
def mxArrival (s : State) (k : TileKey) (t : Tile) (r : MxRun) : Option State :=
  (t.ports.get? 0x02).bind (fun p =>
    let site := unitSite s k 0x02 (Word.field p.tok.pay 0 64) (some p.tok)
    if p.tok.tt == .fault then some (raiseTrap s site causeMxFaultIn (BitVec.ofNat 64 (mxReached t r)))
    else if p.tok.tt == .resume then some (raiseTrap s site causeBadToken 0)
    else none)

/-- The unit takes the token at `mx.c`: a fault or resume token traps, a word that fails its check traps, any other begins (R92, R96, R99). -/
def mxTake (s : State) (k : TileKey) (mop : Nat) (x : Tok) : Out :=
  let t := s.tile k
  let c : Word64 := Word.field x.pay 0 64
  let site := unitSite s k 0x02 c (some x)
  if x.tt == .fault then .next (raiseTrap s site causeMxFaultIn 0)
  else if x.tt == .resume then .next (raiseTrap s site causeBadToken 0)
  else if x.tt.isMarker then .next s
  else if !MxCtl.ok t c then .next (raiseTrap s site causeMxBadCtl 0)
  else if MxCtl.mop c != mop then .next s
  else
    let s1 := portTake s k 0x02
    let u := (s1.tile k).mx
    if mop < 3 then .next (setMx s1 k { u with run := some { ctl := c, hb := pastOf s [x] } })
    else if mop == 3 then .next (setMx s1 k { u with w := swapBuffers u.w (MxCtl.wsel c) (MxCtl.wsel c ^^^ 1) })
    else if mop == 4 then .next (mxBeginDrain s1 k c (pastOf s [x]))
    else .next (setMx s1 k { u with acc := u.acc.keep (fun i _ => i / 1024 != MxCtl.asel c) })

/-- A resume token at `mx.a` or `mx.w` traps, whether or not a word reads that port (R99). -/
def mxResume (s : State) (k : TileKey) (t : Tile) : Option State :=
  [0, 1].findSome? (fun p => (t.ports.get? p).bind (fun x =>
    if x.tok.tt == .resume then some (raiseTrap s (unitSite s k p (t.mx.run.elim 0 (fun r => r.ctl)) (some x.tok)) causeBadToken 0) else none))

/-- The unit's next step for words of one MOP: a line of the running word, or the taking of the next (R98). -/
def mxStep (mop : Nat) (s : State) : Out :=
  atTile s .mx fun k t =>
    if t.mx.stopped then .next s
    else
      match mxResume s k t with
      | some s1 => .next s1
      | none =>
      match t.mx.run with
      | some r =>
          match mxArrival s k t r with
          | some s1 => .next s1
          | none => if MxCtl.mop r.ctl == mop && !r.drains then mxLine s k r else .next s
      | none =>
          match t.ports.get? 0x02 with
          | none => .next s
          | some p => mxTake s k mop p.tok

/-- MX_MMA: take an MMA, or do its next line (R93). -/
def execMxMma (s : State) : Out := mxStep 0 s
/-- MX_MMA_ACC: the same for MMA.ACC, whose drain begins after the last line (R94). -/
def execMxMmaAcc (s : State) : Out := mxStep 1 s
/-- MX_LOADW: take a LOADW, or load its next line (R95). -/
def execMxLoadw (s : State) : Out := mxStep 2 s
/-- MX_SWAPW (R96). -/
def execMxSwapw (s : State) : Out := mxStep 3 s
/-- MX_DRAIN: take a DRAIN; its tokens then leave in order (R97). -/
def execMxDrain (s : State) : Out := mxStep 4 s
/-- MX_ZERO (R96). -/
def execMxZero (s : State) : Out := mxStep 5 s

/-- MX_MARKER: a marker at `mx.c` is forwarded on the route of the most recent drain, or discarded if there was none (R99). -/
def execMxMarker (s : State) : Out :=
  atTile s .mx fun k t =>
    match (if t.mx.stopped then none else mxResume s k t), t.ports.get? 0x02 with
    | some s1, _ => .next s1
    | none, none => .next s
    | none, some p =>
        if t.mx.stopped then .next s
        else if t.mx.run.isSome || !t.mx.spill.isEmpty then .next ((t.mx.run.bind (mxArrival s k t)).getD s)
        else if !p.tok.tt.isMarker then mxTake s k 64 p.tok
        else
          let s1 := portDrain (portTake s k 0x02) k 0x02 p.tok
          let u := (s1.tile k).mx
          let s2 := if p.tok.tt == .tempo then setMx s1 k { u with rounds := u.rounds + 1 } else s1
          match t.mx.lastRoute with
          | none => .next s2
          | some r => if routeFree t r.toNat then .next (deliver s2 k (.route r) { tok := p.tok }) else .next s

end Sys2Proof.Machine
end

