-- ==== Sys2Proof/Machine/Projection.lean ====
section
/-! DEFINITION. The projection engine and its node instructions (04 R102-R116). -/

namespace Sys2Proof.Machine

/-! ### Exact rows: finite F32 values as integers in units of 2^(-149) -/

namespace Pj

/-- Whether an F32 pattern is finite. -/
def finite (x : Lane) : Bool := Word.field x 23 8 != (0xFF : BitVec 8)
/-- Whether an F32 pattern is a NaN. -/
def isNan (x : Lane) : Bool := Fp.f32.read x.toNat == .nan
/-- The canonical NaN. -/
abbrev nan : Lane := 0x7FC00000
/-- A finite pattern as an integer in units of 2^(-149). -/
def units (x : Lane) : Int := if x.msb then -(magOf x.toNat : Int) else magOf x.toNat

/-- num / den rounded to nearest once; den is positive. A zero quotient is +0 (log 40). -/
def quot (num : Int) (den : Nat) : Lane := BitVec.ofNat 32 (Fp.roundRatio Fp.f32 .rn (num < 0) num.natAbs den).bits

/-- The order of two patterns that are no NaN: `l < r` exactly, zeros equal. -/
def less (l r : Lane) : Bool :=
  let v := fun (x : Lane) => match Fp.f32.read x.toNat with
    | .inf n => if n then -(2 ^ 300 : Int) else 2 ^ 300
    | _ => units x
  v l < v r

/-- x - y rounded once, with its counts (R106). -/
def sub (x y : Lane) : Lane × List Nat :=
  let r := Fp.sub Fp.f32 .rn x.toNat y.toNat
  (BitVec.ofNat 32 r.bits, noteLanes r.note)

/-! ### Projections (R105-R111) -/

/-- What a projection gives: the outputs, the support size, the record, the counts of rounded elements. -/
structure Result where
  p     : List Lane
  size  : Nat
  sup   : Support
  tally : List Nat := []
  deriving DecidableEq, Repr

/-- A mask from the positions that pass a test. -/
def maskFrom (l : List Bool) : BitVec 4096 := BitVec.ofNat 4096 (l.foldr (fun b acc => 2 * acc + b.toNat) 0)

/-- The mask of all positions below L. -/
def maskAll (n : Nat) : BitVec 4096 := BitVec.ofNat 4096 (2 ^ n - 1)

/-- The threshold search of R106 over a support set, as positions; fuel bounds the rounds. -/
def search (xs : List Lane) (a : Lane) : Nat → List Nat → Lane × List Nat
  | 0, S => (0, S)
  | fuel + 1, S =>
      let tau := quot (S.foldl (fun acc i => acc + units (xs.getD i 0)) 0 - units a) (S.length * 2 ^ 149)
      let S2 := S.filter (fun i => less tau (xs.getD i 0))
      if S2.length == S.length || S2.isEmpty then (tau, S) else search xs a fuel S2

/-- max(RN(exact(x - tau)), +0) with its counts (R106). -/
def above (x tau : Lane) : Lane × List Nat :=
  let r := sub x tau
  if r.1.msb then (0, []) else r

/-- The simplex outputs, support and threshold of a row (R106). -/
def simplex (xs : List Lane) (a : Lane) : List (Lane × List Nat) × List Nat × Lane :=
  let r := search xs a (xs.length + 1) (List.range xs.length)
  let inS := maskFrom ((List.range xs.length).map (fun i => r.2.contains i))
  ((List.range xs.length).map (fun i => if inS.getLsbD i then above (xs.getD i 0) r.1 else (0, [])), r.2, r.1)

/-- A pool of R110: start, exact sum, count. -/
structure Pool where
  start : Nat
  sum   : Int
  count : Nat
  deriving DecidableEq, Repr

/-- Merge the top pools of a stack while they violate the order (R110); `up` is PSEL 5. -/
def settle (up : Bool) : Nat → Pool → List Pool → List Pool
  | 0, v, st => v :: st
  | _ + 1, v, [] => [v]
  | fuel + 1, v, u :: st =>
      let bad := if up then v.sum * u.count < u.sum * v.count else u.sum * v.count < v.sum * u.count
      if bad then settle up fuel ⟨u.start, u.sum + v.sum, u.count + v.count⟩ st else v :: u :: st

/-- The pools of a row, first pool first (R110). -/
def pools (up : Bool) (xs : List Lane) : List Pool :=
  ((List.range xs.length).foldl (fun st i => settle up (i + 1) ⟨i, units (xs.getD i 0), 1⟩ st) []).reverse

/-- The common part of a record. DESIGN CHOICE (log 106): SCALAR is +0 where R105 to R110 name none, as for a monotone row (R111). -/
def base (t : Tag) (psel : BitVec 3) (a : Lane) (n : Nat) : Support :=
  { mask := maskAll n, param := a, size := BitVec.ofNat 13 n, len := BitVec.ofNat 13 n, psel := psel, tag := t, valid := true }

/-- Whether the parameters are valid for a selector (R105). -/
def valid (psel : BitVec 3) (a b : Lane) : Bool :=
  if psel == 1 then finite a && less 0 a
  else if psel == 2 || psel == 3 then finite a && !less a 0
  else if psel == 4 then !isNan a && !isNan b && !less b a
  else true

/-- The parameters a selector reads. -/
def params (psel : BitVec 3) (a b : Lane) : List Lane :=
  if psel == 1 || psel == 2 || psel == 3 then [a] else if psel == 4 then [a, b] else []

/-- The element-wise sets (R109): the output and whether it lies in the set. -/
def element (psel : BitVec 3) (a b x : Lane) : Lane × Bool :=
  if psel == 0 then (x, true)
  else if isNan x then (nan, false)
  else if psel == 7 then (if less 0 x then (x, true) else (0, false))
  else if less x a then (a, false)
  else if less b x then (b, false)
  else (x, true)

/-- A projection of a row (R105-R111). -/
def project (t : Tag) (psel : BitVec 3) (a b : Lane) (xs : List Lane) : Result :=
  let n := xs.length
  let rec0 := base t psel a n
  let bulk := psel == 1 || psel == 2 || psel == 3 || psel == 5 || psel == 6
  if !valid psel a b || (bulk && !xs.all finite) then
    { p := xs.map (fun _ => nan), size := 0, sup := { rec0 with mask := 0, scalar := nan, size := 0 }
      tally := if (xs ++ params psel a b).any isNan then [] else xs.map (fun _ => 7) }
  else if psel == 1 then
    let r := simplex xs a
    { p := r.1.map Prod.fst, size := r.2.1.length, tally := r.1.flatMap Prod.snd
      sup := { rec0 with mask := maskFrom ((List.range n).map (fun i => r.2.1.contains i)), scalar := r.2.2, size := BitVec.ofNat 13 r.2.1.length } }
  else if psel == 2 then
    let signs := maskFrom (xs.map (fun x => x.msb))
    if xs.foldl (fun acc x => acc + (magOf x.toNat : Int)) 0 ≤ units a then
      { p := xs, size := n, sup := { rec0 with inside := true } }
    else if units a == 0 then
      { p := xs.map (fun x => x &&& 0x80000000), size := 0, sup := { rec0 with mask := 0, aux := signs, scalar := 0x7F800000, size := 0 } }
    else
      let r := simplex (xs.map (fun x => x &&& 0x7FFFFFFF)) a
      { p := List.zipWith (fun (q : Lane × List Nat) x => q.1 ||| (x &&& 0x80000000)) r.1 xs, size := r.2.1.length, tally := r.1.flatMap Prod.snd
        sup := { rec0 with mask := maskFrom ((List.range n).map (fun i => r.2.1.contains i)), aux := signs, scalar := r.2.2, size := BitVec.ofNat 13 r.2.1.length } }
  else if psel == 3 then
    let q := xs.foldl (fun acc x => acc + magOf x.toNat * magOf x.toNat) 0
    let a2 := magOf a.toNat * magOf a.toNat
    if q ≤ a2 then { p := xs, size := 0, sup := { rec0 with inside := true, scalar := 0x3F800000, size := 0 } }
    else
      let sc : Lane := BitVec.ofNat 32 (Fp.roundSqrt Fp.f32 .rn a2 q).bits
      let out := xs.map (fun x => Fp.mul Fp.f32 .rn x.toNat sc.toNat)
      { p := out.map (fun r => BitVec.ofNat 32 r.bits), size := 1, tally := out.flatMap (fun r => noteLanes r.note)
        sup := { rec0 with scalar := sc, size := 1 } }
  else if psel == 5 || psel == 6 then
    let ps := pools (psel == 5) xs
    let out := ps.flatMap (fun x => List.replicate x.count (Fp.roundRatio Fp.f32 .rn (x.sum < 0) x.sum.natAbs (x.count * 2 ^ 149)))
    { p := out.map (fun r => BitVec.ofNat 32 r.bits), size := ps.length, tally := out.flatMap (fun r => noteLanes r.note)
      sup := { rec0 with aux := maskFrom ((List.range n).map (fun i => ps.any (fun x => x.start == i))), size := BitVec.ofNat 13 ps.length } }
  else
    let out := xs.map (element psel a b)
    let size := (out.filter Prod.snd).length
    { p := out.map Prod.fst, size := size, sup := { rec0 with mask := maskFrom (out.map Prod.snd), size := BitVec.ofNat 13 size } }

/-! ### Adjoints (R112, R113) -/

/-- The exact sum of values, a finite zero being +0 (R113; log 40). -/
def sumV (vs : List Fp.Val) : Fp.Val :=
  vs.foldl (fun acc v => match acc, v with
    | .nan, _ | _, .nan => .nan
    | .inf x, .inf y => if x == y then .inf x else .nan
    | .inf x, _ | _, .inf x => .inf x
    | .fin x m e, .fin y n g => let r := Fp.addFin .rn x m e y n g; .fin (r.1 && r.2.1 != 0) r.2.1 r.2.2) (.fin false 0 0)

/-- A value divided by a positive ratio num / den, rounded once; `anyNan` says whether an operand was NaN. -/
def divR (anyNan : Bool) (v : Fp.Val) (num den : Nat) : Fp.Res :=
  match v with
  | .nan => Fp.nanRes Fp.f32 anyNan
  | .inf x => Fp.infRes Fp.f32 x
  | .fin x m e => let r := Fp.ratio m e; Fp.roundRatio Fp.f32 .rn x (r.1 * den) (r.2 * num)

/-- The pattern of a quotient that is no output element. -/
def divV (v : Fp.Val) (num den : Nat) : Lane := BitVec.ofNat 32 (divR true v num den).bits

/-- s * (v - p * g) with one rounding (R113); an invalid product is NaN. -/
def scaled (sc v p g : Lane) : Fp.Res :=
  let rd := fun (x : Lane) => Fp.f32.read x.toNat
  let anyNan := isNan sc || isNan v || isNan p || isNan g
  match Fp.mulV (rd p) (rd g) with
  | none => Fp.nanRes Fp.f32 anyNan
  | some pg =>
      let inner : Fp.Val := match rd v, pg.neg with
        | .nan, _ | _, .nan => .nan
        | .inf x, .inf y => if x == y then .inf x else .nan
        | .inf x, _ | _, .inf x => .inf x
        | .fin x m e, .fin y n h => let r := Fp.addFin .rn x m e y n h; .fin r.1 r.2.1 r.2.2
      match Fp.mulV (rd sc) inner with
      | none => Fp.nanRes Fp.f32 anyNan
      | some .nan => Fp.nanRes Fp.f32 anyNan
      | some x => Fp.roundV Fp.f32 .rn x

/-- The outputs of pools: one rounded mean for each position (R113). -/
def poolMeans (starts : List Bool) (vs : List Lane) : List Fp.Res :=
  let seg := (List.range vs.length).foldl (fun (acc : List (List Lane)) i =>
    if starts.getD i false || acc.isEmpty then [vs.getD i 0] :: acc
    else match acc with
      | h :: t => (vs.getD i 0 :: h) :: t
      | [] => [[vs.getD i 0]]) []
  seg.reverse.flatMap (fun g => List.replicate g.length (divR (g.any isNan) (sumV (g.map (fun x => Fp.f32.read x.toNat))) g.length 1))

/-- An adjoint row's outputs with the counts of rounded elements (R113). -/
def adjoint (r : Support) (vs ps : List Lane) : List Lane × List Nat :=
  let n := vs.length
  let idx := List.range n
  let rd := fun (x : Lane) => Fp.f32.read x.toNat
  let on := fun i => r.mask.getLsbD i
  if r.scalar == nan then (vs.map (fun _ => nan), [])
  else if r.psel == 0 || ((r.psel == 2 || r.psel == 3) && r.inside) then (vs, [])
  else if r.psel == 4 || r.psel == 7 then (idx.map (fun i => if on i then vs.getD i 0 else 0), [])
  else if r.psel == 5 || r.psel == 6 then
    let out := poolMeans (idx.map (fun i => r.aux.getLsbD i)) vs
    (out.map (fun x => BitVec.ofNat 32 x.bits), out.flatMap (fun x => noteLanes x.note))
  else if r.psel == 3 then
    (if magOf r.param.toNat == 0 then (vs.map (fun _ => 0), [])
     else
       let a2 := magOf r.param.toNat * magOf r.param.toNat
       let dots := List.zipWith (fun p v => (Fp.mulV (rd p) (rd v)).getD .nan) ps vs
       -- a^2 is a2 * 2^(-298)
       let g := divV (sumV dots) a2 (2 ^ 298)
       let out := List.zipWith (fun p v => scaled r.scalar v p g) ps vs
       (out.map (fun x => BitVec.ofNat 32 x.bits), out.flatMap (fun x => noteLanes x.note)))
  else
    let sg := fun i => r.psel == 2 && r.aux.getLsbD i
    let S := idx.filter on
    if S.isEmpty then (vs.map (fun _ => 0), [])
    else
      let c := divV (sumV (S.map (fun i => let v := rd (vs.getD i 0); if sg i then v.neg else v))) S.length 1
      let out := idx.map (fun i =>
        if on i then
          let q := if sg i then Fp.add Fp.f32 .rn (vs.getD i 0).toNat c.toNat else Fp.sub Fp.f32 .rn (vs.getD i 0).toNat c.toNat
          (BitVec.ofNat 32 q.bits, noteLanes q.note)
        else ((0 : Lane), []))
      (out.map Prod.fst, out.flatMap Prod.snd)

end Pj

/-! ### The engine -/

/-- Lr of a tile: RLM1 + 1 (R26, R102). -/
def pjLen (t : Tile) : Nat := (Word.field (t.units.getD 1 0) 52 12).toNat + 1
/-- NP of a tile (R102). -/
def pjPlaces (t : Tile) : Nat := 4096 / pjLen t
/-- PTGT. -/
def pjPtgt (t : Tile) : Tgt := (Tgt.ofCode (Word.field (t.units.getD 1 0) 40 12)).getD .none
/-- STGT. -/
def pjStgt (t : Tile) : Tgt := (Tgt.ofCode (Word.field (t.units.getD 1 0) 28 12)).getD .none

/-- Change the engine of a tile. -/
def setPj (s : State) (k : TileKey) (u : PjUnit) : State := s.setTile k { s.tile k with pj := u }

/-- The elements a token brings to a row: positions below Lr (R103). -/
def pjElems (t : Tile) (x : Tok) (p : Payload) : List (Nat × Lane) :=
  (List.range 16).filterMap (fun l => let i := 16 * x.seq.toNat + l; if i < pjLen t then some (i, Word.lane p l) else none)

/-- Write a token's elements into a place. -/
def pjWrite (p : PjPlace) (x : Tok) (es : List (Nat × Lane)) : PjPlace :=
  { p with elems := es.foldl (fun (m : Map Lane) e => m.put e.1 e.2) p.elems, hb := hbJoin p.hb x.hb }

/-- Note a place that has all its positions: it becomes COMPLETE and waits its turn (R103, R104). -/
def pjSettle (t : Tile) (u : PjUnit) (q : Nat) : PjUnit :=
  match u.places.get? q with
  | some p => if p.elems.length == pjLen t && !p.complete then
      { u with places := u.places.put q { p with complete := true }, ready := u.ready ++ [q] } else u
  | none => u

/-- Take a marker, fault or resume token at a port of the engine: a resume token traps; others wait for PJ_MARKER (R116). -/
def pjOther (s : State) (k : TileKey) (port : Nat) (x : Tok) : Out :=
  if x.tt == .resume then .next (raiseTrap s (unitSite s k port 0 (some x)) causeBadToken 0) else .next s

/-- PJ_IN_TOKEN: the engine takes a token at `pj.in` (R103). -/
def execPjInToken (s : State) : Out :=
  atTile s .vx fun k t =>
    match t.ports.get? 0x10 with
    | none => .next s
    | some x =>
        let tok := x.tok
        if t.pj.stopped then .next s
        else if tok.tt == .resume || tok.tt == .fault || tok.tt.isMarker then pjOther s k 0x10 tok
        else
          let q := tok.tag.toNat % pjPlaces t
          let isSel := tok.tt == .control && x.psel.isNone
          let es := if isSel then [] else pjElems t tok tok.pay
          let own : Option (BitVec 3) := if isSel then some (Word.field tok.pay 0 3) else x.psel
          let bad := Host.Outcome.next (raiseTrap s (unitSite s k 0x10 0 (some tok)) causePjRow (BitVec.ofNat 64 q))
          let put := fun (p : PjPlace) =>
            let s1 := portTake s k 0x10
            let t1 := s1.tile k
            setPj s1 k (pjSettle t1 { t1.pj with places := t1.pj.places.put q (pjWrite p tok es) } q)
          if !isSel && es.isEmpty then .next (portTake s k 0x10)
          else
            match t.pj.places.get? q with
            | none =>
                (match own with
                 | some ps => .next (put { tag := tok.tag, kind := .row, psel := ps })
                 | none => bad)
            | some p =>
                if p.complete then .next s
                else if p.tag != tok.tag || p.kind != .row || own.any (fun ps => ps != p.psel) || es.any (fun e => p.elems.has e.1) then bad
                else .next (put p)

/-- Whether a record is an L2 record outside the ball, whose adjoint rows take two places (R112). -/
def Support.twoPlaces (r : Support) : Bool := r.psel == 3 && !r.inside

/-- PJ_ADJ_TOKEN: the engine takes a pair at `pj.adj` (R112). DESIGN CHOICE (log 107): a token with no matching record whose place another row is ASSEMBLING in raises PJ_ROW; R103 and R112 each name a cause and no order. -/
def execPjAdjToken (s : State) : Out :=
  atTile s .vx fun k t =>
    match t.ports.get? 0x12 with
    | none => .next s
    | some x =>
        let tok := x.tok
        if t.pj.stopped then .next s
        else if tok.tt == .resume || tok.tt == .fault || tok.tt.isMarker then pjOther s k 0x12 tok
        else
          let np := pjPlaces t
          let q := tok.tag.toNat % np
          let q2 := (tok.tag.toNat + 1) % np
          let es := pjElems t tok tok.pay
          let es2 := pjElems t tok (x.aux.getD 0)
          let site := unitSite s k 0x12 0 (some tok)
          let row := fun (n : Nat) => Host.Outcome.next (raiseTrap s site causePjRow (BitVec.ofNat 64 n))
          let put := fun (p : PjPlace) (p2 : Option PjPlace) =>
            let s1 := portTake s k 0x12
            let t1 := s1.tile k
            let m := t1.pj.places.put q (pjWrite p tok es)
            let m2 := match p2 with
              | some y => let z := pjWrite y tok es2; m.put q2 { z with complete := z.elems.length == pjLen t }
              | none => m
            setPj s1 k (pjSettle t1 { t1.pj with places := m2 } q)
          if es.isEmpty then .next (portTake s k 0x12)
          else
            match t.pj.places.get? q with
            | some p =>
                if p.complete then .next s
                else if p.tag != tok.tag || p.kind != .adjoint || es.any (fun e => p.elems.has e.1) then row q
                else .next (put p (if p.found.twoPlaces then t.pj.places.get? q2 else none))
            | none =>
                let r := t.pj.sup.getD (tok.tag.toNat % 8) {}
                if !r.valid || r.tag != tok.tag then .next (raiseTrap s site causePjNoRec (tok.tag.setWidth 64))
                else
                  let p : PjPlace := { tag := tok.tag, kind := .adjoint, psel := r.psel, found := r, via := x.via }
                  if !r.twoPlaces then .next (put p none)
                  else if np == 1 then row q
                  else match t.pj.places.get? q2 with
                  | none => .next (put p (some { tag := tok.tag, kind := .second, psel := r.psel }))
                  | some y => if y.complete then .next s else row q2

/-- Apply the parameter token waiting at `pj.ctl`, before a row (R114). -/
def pjParams (s : State) (k : TileKey) : State :=
  match (s.tile k).ports.get? 0x11 with
  | some x =>
      if x.tok.tt == .data || x.tok.tt == .control || x.tok.tt == .scale then
        let s1 := portTake s k 0x11
        setPj s1 k { (s1.tile k).pj with a := Word.lane x.tok.pay 1, b := Word.lane x.tok.pay 0 }
      else s
  | none => s

/-- The elements of a place in order. -/
def placeRow (n : Nat) (p : PjPlace) : List Lane := (List.range n).map (fun i => p.elems.getD i 0)

/-- The tokens of an output row, after all that happens before the row's tokens (R104). -/
def rowEmits (p : PjPlace) (xs : List Lane) (d : Tgt) : List Emit :=
  (List.range (Word.ceilDiv xs.length 16)).map (fun j =>
    { dst := d, parcel := { tok := { tag := p.tag, seq := BitVec.ofNat 8 j, pay := Word.ofLanes (fun l => xs.getD (16 * j + l) 0), hb := p.hb } } })

/-- The next row of a kind is processed when the engine is idle and no marker's turn has come; its output then leaves, and its place is freed with the last token (R104, R116). DEDUCED (log 150): the tokens that wait at `pj.ctl` are taken as the processing of a row begins, and at no other time (R114). -/
def pjNext (s : State) (row : Bool) (go : State → TileKey → Tile → PjPlace → Out) : Out :=
  atTile s .vx fun k t =>
    if t.pj.stopped || !t.pj.out.isEmpty || t.pj.held.any (fun h => h.2 == 0) then .next s
    else
      match t.pj.ready.head?.bind t.pj.places.get? with
      | some p => if (p.kind == .row) == row then (let s1 := pjParams s k; go s1 k (s1.tile k) p) else .next s
      | none => .next s

/-- PJ_PROJECT: a projection row: its record, its output, its support size (R104-R111). -/
def execPjProject (s : State) : Out :=
  pjNext s true fun s1 k t p =>
    let r := Pj.project p.tag p.psel t.pj.a t.pj.b (placeRow (pjLen t) p)
    let size : Emit := { dst := pjStgt t, parcel := { tok := { tag := p.tag, pay := Word.splat (BitVec.ofNat 32 r.size), hb := p.hb } } }
    let s2 := setPj s1 k { t.pj with sup := t.pj.sup.put (p.tag.toNat % 8) r.sup, out := rowEmits p r.p (pjPtgt t) ++ [size] }
    .next (countTile s2 k r.tally)

/-- PJ_ADJOINT: an adjoint row, to the TGB of its `pja` word (R112, R113). -/
def execPjAdjoint (s : State) : Out :=
  pjNext s false fun s1 k t p =>
    let n := pjLen t
    let ps := match t.pj.places.get? ((p.tag.toNat + 1) % pjPlaces t) with
      | some y => placeRow n y
      | none => []
    let r := Pj.adjoint p.found (placeRow n p) ps
    .next (countTile (setPj s1 k { t.pj with out := rowEmits p r.1 p.via }) k r.2)

/-- The place in process is freed: its output has left (R104). Held markers count it (R116). -/
def pjFree (t : Tile) (u : PjUnit) : PjUnit :=
  match u.ready with
  | [] => u
  | q :: rest =>
      let two : Bool := match u.places.get? q with
        | some p => p.kind == .adjoint && p.found.twoPlaces
        | none => false
      let m := u.places.del q
      let q2 := match u.places.get? q with
        | some p => (p.tag.toNat + 1) % pjPlaces t
        | none => q
      { u with places := if two then m.del q2 else m, ready := rest, held := u.held.mapV (fun _ n => n - 1) }

/-- The targets of a marker or fault token at a port of the engine (R116). -/
def pjMarkerTgts (t : Tile) (port : Nat) (x : Parcel) : Tgt × Tgt := if port == 0x12 then (x.via, .none) else (pjPtgt t, pjStgt t)

/-- One port's part of PJ_MARKER: once the places that were COMPLETE at the token's arrival are done, it is forwarded (R116). -/
def pjMark (s : State) (k : TileKey) (port : Nat) : Option State :=
  let t := s.tile k
  match t.ports.get? port with
  | none => none
  | some x =>
      if !(x.tok.tt.isMarker || x.tok.tt == .fault) then none
      else
        match t.pj.held.getD port 0 with
        | 0 =>
            let d := pjMarkerTgts t port x
            if targetFree t d.1 && targetFree t d.2 then
              let s1 := portDrain (portTake s k port) k port x.tok
              let s2 := setPj s1 k { (s1.tile k).pj with held := (s1.tile k).pj.held.del port }
              some (deliver2 s2 k d.1 d.2 x.tok)
            else none
        | _ + 1 => none

/-- PJ_MARKER: the first of the ports `pj.in`, `pj.ctl`, `pj.adj` whose marker or fault token can go on (R116); a resume token at `pj.ctl` traps. -/
def execPjMarker (s : State) : Out :=
  atTile s .vx fun k t =>
    if t.pj.stopped then .next s
    else match t.ports.get? 0x11 with
    | some x => if x.tok.tt == .resume then pjOther s k 0x11 x.tok
        else .next (((pjMark s k 0x11).orElse (fun _ => (pjMark s k 0x10).orElse (fun _ => pjMark s k 0x12))).getD s)
    | none => .next (((pjMark s k 0x10).orElse (fun _ => pjMark s k 0x12)).getD s)

/-! ### Node instructions (R114) -/

/-- Deliver a firing's parcel to TGA alone. -/
def firePort (f : NodeForm) (s : State) (fwd : Parcel → Parcel) (go : Opnds → Parcel) : Out :=
  atSlot s fun k n sl =>
    match gateOf f sl with
    | .wait => .next s
    | .trap c => .next (raiseTrap s (slotSite s k n) c 0)
    | .forward t =>
        if freeAfter s k n f f.op.tga then
          .next (sendOne (noteMarker (consumeAt s k n f) k n t) k n f.op.tga (fwd { tok := t.after (slotPast s k n f) }))
        else .next s
    | .go o =>
        let x := go o
        if freeAfter s k n f f.op.tga then
          .next (sendOne (consumeAt s k n f) k n f.op.tga { x with tok := x.tok.after (slotPast s k n f) })
        else .next s

/-- `pj` (R114). -/
def execPj (w : NodeOp) (psel : BitVec 3) (s : State) : Out :=
  firePort (formOf (.pj w psel)) s id fun o => { tok := resultTok o o.l.pay, psel := some psel }

/-- `pjp`: {l lane 0, r lane 0} (R114). -/
def execPjp (w : NodeOp) (s : State) : Out :=
  firePort (formOf (.pjp w)) s id fun o =>
    { tok := resultTok o (Word.ofLanes fun i => if i == 0 then Word.lane o.r.pay 0 else if i == 1 then Word.lane o.l.pay 0 else 0) }

/-- `pja`: the pair, with the slot's TGB (R114, R116). -/
def execPja (w : NodeOp) (s : State) : Out :=
  firePort (formOf (.pja w)) s (fun p => { p with via := w.tgb }) fun o => { tok := resultTok o o.l.pay, aux := some o.r.pay, via := w.tgb }

/-- `pjs` reads a support record: eight tokens to TGA, with the first of them one to TGB (R114). -/
def execPjs (w : NodeOp) (aux : Bool) (s : State) : Out :=
  let f := formOf (.pjs w aux)
  fireSlot f s fun k n o =>
    if !bothFree s k n f then .next s
    else
      let r := (s.tile k).pj.sup.getD (o.l.tag.toNat % 8) {}
      let hit := r.valid && r.tag == o.l.tag
      let bits : BitVec 4096 := if !hit then 0 else if aux then r.aux else r.mask
      let part := fun (i : Nat) => { resultTok o (Word.field bits (512 * i) 512) with seq := BitVec.ofNat 8 i, hb := slotPast s k n f }
      let info : Payload := if !hit then 0 else
        Word.ofLanes fun i => match i with
          | 0 => r.scalar
          | 1 => r.size.setWidth 32
          | 2 => r.len.setWidth 32
          | 3 => r.psel.setWidth 32
          | 4 => r.tag.setWidth 32
          | 5 => (1 : Lane) + (if r.inside then 2 else 0)
          | _ => 0
      let s1 := fireTo s k n f (some (part 0)) (some (resultTok o info))
      .next (s1.setSlot k n { s1.slot k n with out := (s1.slot k n).out ++ (List.range 7).map (fun i => { dst := f.op.tga, parcel := { tok := part (i + 1) } }) })

end Sys2Proof.Machine
end

