-- ==== Sys2Proof/Machine/Routes.lean ====
section
/-! DEFINITION. Tokens on their way (01 R21, R24, R25; 02 R51-R53; 05 R138; 06 R162): TOKEN_DELIVER, CHANNEL_DECODE, SCALE_TOKEN. -/

namespace Sys2Proof.Machine

/-! ### TOKEN_DELIVER -/

/-- A list with one element replaced. -/
def setAt {α : Type} (l : List α) (i : Nat) (x : α) : List α := l.take i ++ x :: l.drop (i + 1)

/-- One hop of a route: to the next hop, or from the last one to the inbound channel where it ends (R21). -/
def hopMove (s : State) (k : TileKey) (r h : Nat) : State :=
  let t := s.tile k
  let rt := t.routes.getD r {}
  match (rt.hops[h]?).getD none with
  | none => s
  | some x =>
      let out := s.setTile k { t with routes := t.routes.put r { rt with hops := setAt rt.hops h none } }
      if h + 1 < rt.hops.length then
        match (rt.hops[h + 1]?).getD none with
        | none => out.setTile k { t with routes := t.routes.put r { rt with hops := setAt (setAt rt.hops h none) (h + 1) (some x) } }
        | some _ => s
      else
        let d := regionTile (s.region (s.regionOf k)) (routeTile rt.entry)
        let v := (routeDvc rt.entry).toNat
        let c := (out.tile d).chans.getD v {}
        if c.arrived.isNone then out.setTile d { out.tile d with chans := (out.tile d).chans.put v { c with arrived := some x } } else s

/-- The slot and the arc of a `join` at which a channel ends, and how many arcs the `join` has (R136). -/
def chanArc (t : Tile) (v : Nat) : Tgt → Option (Nat × Nat × Nat)
  | .latch .left n => (joinArc (t.slots.getD n.toNat {}).word v).map (fun a => (n.toNat, a))
  | _ => none

/-- A decoded token of a channel reaches its latch, its port or its arc of a `join`, with the VC of the route it came on (R17, R20, R41, R136). -/
def chanMove (s : State) (k : TileKey) (v : Nat) : State :=
  let t := s.tile k
  let c := t.chans.getD v {}
  match c.parts with
  | [] => s
  | p :: ps =>
      let s1 := s.setTile k { t with chans := t.chans.put v { c with parts := ps } }
      match chanArc t v c.dst with
      | some (n, a, m) =>
          let arcs := arcsOf m (s.slot k n).run
          if (arcs.getD a none).isNone then s1.setSlot k n { s1.slot k n with run := .join (arcs.set a (some p.tok)) } else s
      | none => if targetFree t c.dst then land s1 k c.dst p else s

/-- The targets of a slot's word. -/
def wordTgts (w : Word64) : Tgt × Tgt := ((Tgt.ofCode (Word.field w 40 12)).getD .none, (Tgt.ofCode (Word.field w 28 12)).getD .none)

/-- What a slot has to send leaves: a result from its pipe, tokens of a result that is longer than one token, the oldest pending result once it is known, the oldest token of a `sluice.loc` after its release (R58, R61, R114, R138, R148). -/
def slotMove (s : State) (k : TileKey) (n : Nat) : State :=
  let t := s.tile k
  let sl := s.slot k n
  let d := wordTgts sl.word
  let both := targetFree t d.1 && targetFree t d.2
  let send := fun (s1 : State) (x : Tok) => sendBoth s1 k n d.1 d.2 (some x) (some x)
  match sl.out with
  | e :: es => if targetFree t e.dst then deliver (s.setSlot k n { sl with out := es }) k e.dst e.parcel else s
  | [] =>
      if !s.tileRuns k then s
      else match sl.pend with
      | p :: ps =>
          (match p.done with
           | some x => if both then send (s.setSlot k n { sl with pend := ps }) x else s
           | none => s)
      | [] =>
          match sl.run with
          | .sluice (x :: xs) =>
              if !sl.stopped && Word.field sl.word 56 8 == (0x92 : BitVec 8) && !Word.bit sl.word 12 && both
                  && released s (pastOf s [x]) (Word.field sl.word 13 3) then send (s.setSlot k n { sl with run := .sluice xs }) x
              else s
          | _ => s

/-- The copies of the accumulators that a matrix unit sends on its SPILL route at a stop, with SPV set (R101). -/
def spillOf (t : Tile) : List Emit :=
  (List.range 2).flatMap (fun a => (List.range 32).flatMap (fun i => (List.range 2).map (fun h =>
    { dst := .route (Word.field (t.units.headD 0) 44 4)
      parcel := { tok := { tag := BitVec.ofNat 16 i, seq := BitVec.ofNat 8 (2 * a + h), hb := (t.mx.run.map (fun r => r.hb)).getD []
                           pay := Word.ofLanes (fun j => t.mx.acc.getD ((a * 32 + i) * 32 + 16 * h + j) 0) } } })))

/-- Whether a matrix unit has still to begin its copies: its region has come to a stop and SPV is set (R101, R348 step 2). -/
def spillDue (s : State) (k : TileKey) (t : Tile) : Bool :=
  t.kind == .mx && Word.bit (t.units.headD 0) 43 && !t.mx.stopped && !t.mx.spilled && s.tileThere k && !s.tileRuns k

/-- The copies of a stop are made ready, behind any that an earlier stop has left; else a copied partial sum leaves (R101). -/
def copyMove (s : State) (k : TileKey) : State :=
  let t := s.tile k
  if spillDue s k t then setMx s k { t.mx with spill := t.mx.spill ++ spillOf t, spilled := true }
  else match t.mx.spill with
  | e :: es => if targetFree t e.dst then deliver (setMx s k { t.mx with spill := es }) k e.dst e.parcel else s
  | [] => s

/-- A drained token leaves, and with the last of them the control word is finished (R97, R98); where none can leave, a copied partial sum does (R101). -/
def mxMove (s : State) (k : TileKey) : State :=
  let t := s.tile k
  match (t.mx.run.map (fun r => r.out)).getD [] with
  | e :: es =>
      if targetFree t e.dst then deliver (setMx s k { t.mx with run := if es.isEmpty then none else t.mx.run.map (fun r => { r with out := es }) }) k e.dst e.parcel
      else copyMove s k
  | [] => copyMove s k

/-- A token of the row in process leaves; with the last of them its place is freed (R104). -/
def pjMove (s : State) (k : TileKey) : State :=
  let t := s.tile k
  match t.pj.out with
  | [] => s
  | e :: es =>
      if targetFree t e.dst then
        let u := { t.pj with out := es }
        deliver (setPj s k (if es.isEmpty then pjFree t u else u)) k e.dst e.parcel
      else s

/-- The routes of its port that a command owns (R162, R182, R183): the ORT of a ride, a `gather`, a `kvride` or an `eos`; for `tempo` and `drain` the routes whose marker has not left. -/
def cmdRoutes (s : State) (c : Cmd) : List Nat :=
  let code := (Word.field c.word 121 7).toNat
  if code ≤ 4 then [(Word.field c.word 80 4).toNat]
  else if code == 5 then [(Word.field c.word 53 4).toNat]
  else if code == 0x2A then [(Word.field c.word 16 4).toNat]
  else if code == 0x30 || code == 0x31 then
    (if c.admitted then c.out.map (fun x => x.route)
     else match c.station with
     | .port k => (s.tile k).routes.keys.filter (fun r => Word.field c.word 0 16 == (0 : BitVec 16) || Word.bit c.word r)
     | .engine _ _ => [])
  else []

/-- Whether a command started earlier at the same port still owns a route (R162). -/
def routeTaken (s : State) (id r : Nat) : Bool :=
  let c := s.cmd id
  s.cmds.any (fun x => x.1 != id && x.2.order < c.order && sameStation c x.2 && x.2.phase == .started && (cmdRoutes s x.2).contains r)

/-- The first token of a command that may leave now: no earlier one of its own stands before it on its route, no earlier command owns the route, and the route takes it. A token for a route that the loaded block does not have is discarded (log 41). -/
def firstOut (s : State) (id : Nat) (t : Tile) : List Nat → List Leaving → Option Nat
  | _, [] => none
  | seen, x :: xs =>
      if !seen.contains x.route && !routeTaken s id x.route && (routeFree t x.route || !t.routes.has x.route) then some seen.length
      else firstOut s id t (x.route :: seen) xs

/-- A token of a command leaves its port; a ride's is known as its own until the sink accepts it (R162, R164, R273). -/
def rideMove (s : State) (id : Nat) : State :=
  let c := s.cmd id
  match c.station with
  | .engine _ _ => s
  | .port k =>
      let t := s.tile k
      match firstOut s id t [] c.out with
      | none => s
      | some i =>
          match c.out[i]? with
          | none => s
          | some x =>
              let s1 := s.setCmd id { c with out := c.out.eraseIdx i }
              if t.routes.has x.route then deliver s1 k (.route (BitVec.ofNat 4 x.route)) { tok := { x.tok.after c.hb with ride := if Word.field c.word 121 7 < (6 : BitVec 7) then some id else none } } else s1

/-- The slot that receives a pair in a loaded block of another region of a launch (R138). -/
def sluiceRcv (s : State) (l pair : Nat) : Option (TileKey × Nat) :=
  s.tiles.findSome? (fun t => match t.2.region with
    | none => none
    | some r => if (s.region r).launch == l && s.regionRuns r then
        (t.2.slots.findSome? (fun x => if Word.field x.2.word 56 8 == (0x92 : BitVec 8) && Word.field x.2.word 11 2 == (3 : BitVec 2)
            && (Word.field x.2.word 4 7).toNat == pair then some (t.1, x.1) else none)) else none)

/-- The oldest token of a pair's window reaches the receiver's buffer, if that has room (R138). -/
def sluiceMove (s : State) (r pair : Nat) : State :=
  match (s.region r).windows.getD pair [], sluiceRcv s (s.region r).launch pair with
  | x :: xs, some (k, n) =>
      let sl := s.slot k n
      let buf := match sl.run with
        | .sluice b => b
        | _ => []
      if buf.length ≤ (Word.field sl.word 0 4).toNat then
        let s1 := s.setRegion r { s.region r with windows := (s.region r).windows.put pair xs }
        s1.setSlot k n { sl with run := .sluice (buf ++ [x]) }
      else s
  | _, _ => s

/-- Whether a place may give up a token: what is under way settles in a region that stops, while its ports take nothing new (R348 step 2); a trapped unit sends nothing, and a trapped slot only the results it already has (R61, R358). -/
def placeRuns (s : State) : Place → Bool
  | .hop k _ _ | .chan k _ | .slot k _ => s.tileThere k
  | .mx k => s.tileThere k && !(s.tile k).mx.stopped
  | .pj k => s.tileThere k && !(s.tile k).pj.stopped
  | .ride id => match (s.cmd id).station with
      | .port k => (s.cmd id).away.isNone && s.tileRuns k
      | .engine _ _ => false
  | .sluice r _ => s.regionRuns r

/-- TOKEN_DELIVER: one token moves one place on, if the next place takes it (R17, R21, R58). -/
def execTokenDeliver (s : State) : Out :=
  match s.focus with
  | .place p =>
      if !placeRuns s p then .next s
      else match p with
      | .hop k r h => .next (hopMove s k r h)
      | .chan k v => .next (chanMove s k v)
      | .slot k n => .next (slotMove s k n)
      | .mx k => .next (mxMove s k)
      | .pj k => .next (pjMove s k)
      | .ride id => .next (rideMove s id)
      | .sluice r pair => .next (sluiceMove s r pair)
  | _ => .fault .noAgent

/-! ### Decoding on arrival (R52, R53) -/

/-- FMT of a channel entry. -/
def chanFmt (c : Chan) : Nat := (Word.field c.entry 12 4).toNat
/-- SREG of a channel entry. -/
def chanSreg (c : Chan) : Nat := (Word.field c.entry 8 4).toNat
/-- PACK of a channel entry. -/
def chanPack (c : Chan) : Bool := Word.bit c.entry 7
/-- Whether a channel's format is SX. -/
def chanSx (c : Chan) : Bool := 5 ≤ chanFmt c && chanFmt c ≤ 7

/-- An integer times the F32 value of a scale register, rounded once, and what there is to count of it (R53, R56). -/
def scaleInt (v : Int) (f : Lane) : Fp.Res :=
  match Fp.mulV (.fin (v < 0) v.natAbs 0) (Fp.f32.read f.toNat) with
  | none => Fp.nanRes Fp.f32 false
  | some x => Fp.roundV Fp.f32 .rn x

/-- Sixteen scaled integers as a payload. -/
def scaledPay (v : Nat → Int) (f : Lane) : Payload := Word.ofLanes fun i => BitVec.ofNat 32 (scaleInt (v i) f).bits

/-- The counter lanes of `n` scaled integers (R56). -/
def scaledTally (n : Nat) (v : Nat → Int) (f : Lane) : List Nat := (List.range n).flatMap (fun i => noteLanes (scaleInt (v i) f).note)

/-- The scale words that a token's blocks decode with: the queue's words in turn, then the last one again; the register's low half and the queue afterwards (R52). -/
def takeScales : Nat → BitVec 16 → List (BitVec 16) → List (BitVec 16) × BitVec 16 × List (BitVec 16)
  | 0, cur, q => ([], cur, q)
  | n + 1, cur, q =>
      let w := q.headD cur
      let r := takeScales n w q.tail
      (w :: r.1, r.2)

/-- The agent is a channel of a tile in its place: what has arrived is decoded even in a region that stops (R348 step 2). -/
def atChan (s : State) (go : TileKey → Nat → Tile → Chan → Out) : Out :=
  match s.focus with
  | .chan k v =>
      if !(s.tile k).chans.has v then .fault .noAgent
      else if s.tileThere k then go k v (s.tile k) ((s.tile k).chans.getD v {}) else .next s
  | _ => .fault .noAgent

/-- Replace a channel of a tile. -/
def setChan (s : State) (k : TileKey) (v : Nat) (c : Chan) : State := s.setTile k { s.tile k with chans := (s.tile k).chans.put v c }

/-- CHANNEL_DECODE: the arrived token, unless it is a scale token, becomes what the channel delivers (R52, R53). -/
def execChannelDecode (s : State) : Out :=
  atChan s fun k v t c =>
    match c.arrived with
    | none => .next s
    | some x =>
        let give := fun (s1 : State) (c1 : Chan) (ps : List Parcel) => setChan s1 k v { c1 with arrived := none, parts := ps }
        let f := t.sregs.getD (chanSreg c) 0
        if !c.parts.isEmpty || x.tt == .scale then .next s
        else if x.tt != .data then .next (give s c [{ tok := x }])
        else if chanSx c then
          let m := sxBits (chanFmt c)
          let n := if chanPack c then mxPack (chanFmt c) else 1
          let r := takeScales n (Word.field f 0 16) c.queue
          let s1 := s.setTile k { t with sregs := t.sregs.put (chanSreg c) (Word.setField f 0 r.2.1) }
          let c1 := { c with queue := r.2.2 }
          if chanPack c then .next (give s1 c1 [{ tok := x, scales := r.1 }])
          else
            let w := r.1.headD 0
            let vs := sxDecode m w (sxCodes m x.pay.toNat)
            .next (give (countTile s1 k (sxDecodeTally w)) c1 [{ tok := { x with pay := Word.ofLanes fun i => vs.getD i 0 } }])
        else if chanFmt c == 0 && chanSreg c != 0 then
          let v := fun i => (Word.lane x.pay i).toInt
          .next (give (countTile s k (scaledTally 16 v f)) c [{ tok := { x with pay := scaledPay v f } }])
        else if chanFmt c == 4 && chanSreg c != 0 then
          let v := fun i => readInt 8 false (elemAt 8 x.pay i)
          .next (give (countTile s k (scaledTally 64 v f)) c ((List.range 4).map (fun j =>
            { tok := { x with pay := scaledPay (fun i => v (16 * j + i)) f } })))
        else .next (give s c [{ tok := x }])

/-- SCALE_TOKEN: an arrived scale token fills the channel's queue, or is discarded and counted (R52, R56). -/
def execScaleToken (s : State) : Out :=
  atChan s fun k v _ c =>
    match c.arrived with
    | none => .next s
    | some x =>
        let n := x.seq.toNat
        if x.tt != .scale then .next s
        else if !chanSx c || n == 0 || 32 < n then .next (countTile (setChan s k v { c with arrived := none }) k [6])
        else if 32 < c.queue.length + n then .next s
        else .next (setChan s k v { c with arrived := none, queue := c.queue ++ (List.range n).map (fun j => Word.field x.pay (16 * j) 16) })

end Sys2Proof.Machine
end

