-- ==== Sys2Proof/Machine/Sequencer.lean ====
section
/-! DEFINITION. The sequencer (06 R187-R203): its words, its FIFOs, its events. -/

namespace Sys2Proof.Machine

/-! ### The sequencer in focus -/

/-- A register; s0 reads 0 (R187). -/
def Seq.reg (q : Seq) (n : BitVec 5) : BitVec 64 := if n == 0 then 0 else q.s.getD n.toNat 0
/-- Write a register; s0 ignores it (R187). -/
def Seq.put (q : Seq) (n : BitVec 5) (v : BitVec 64) : Seq := if n == 0 then q else { q with s := q.s.put n.toNat v }
/-- A command register. -/
def Seq.creg (q : Seq) (n : BitVec 3) : Word128 := q.c.getD n.toNat 0
/-- The tokens in a FIFO. -/
def Seq.fifo (q : Seq) (n : Nat) : List Tok := q.q.getD n []
/-- A sequencer has consumed a token: what happens before the token happens before its next word (R289). -/
def Seq.learn (q : Seq) (s : State) (t : Tok) : Seq := { q with hb := hbJoin (q.hb.filter s.accs.has) t.hb }
/-- The next word in sequence. -/
def Seq.step (q : Seq) : Seq := { q with pc := q.pc + 4 }

/-- The word a sequencer stands at; 0 beyond the end of RAM (R35). -/
def seqWord (s : State) (k : TileKey) : BitVec 32 :=
  let pc := (s.seq k).pc.toNat
  if pc < 65536 then Mem.load s.ram (k * 65536 + pc) 4 32 else 0

/-- A trap of a sequencer at the word it stands at (R203, R361). -/
def raiseSeq (s : State) (k : TileKey) (cause : BitVec 8) (detail : BitVec 64) : State :=
  raiseTrap s (seqSite s k (seqWord s k)) cause detail

/-- Whether a sequencer may issue: it runs, nothing has stopped it or its region, it has not halted and waits for no verdict (R29, R187, R348). -/
def seqRuns (s : State) (k : TileKey) : Bool :=
  let q := s.seq k
  q.running && !q.stopped && !q.halted && q.wait == .none && !s.regionStops q.region && s.regions.has q.region

/-- The first 8-byte word of a range of sequencer RAM that has an uncorrectable error (R378). -/
def ramBad (s : State) (k : TileKey) (a n : Nat) : Option Nat :=
  ((List.range (Word.ceilDiv n 8)).map (fun i => (a + 8 * i) / 8 * 8)).find? (fun x => s.ramEcc.contains (k * 65536 + x))

/-- A read of sequencer RAM: SP_ECC where a word of it is bad, and the sequencer stops before the word that read it (R378). -/
def ramRead (s : State) (k : TileKey) (a n : Nat) (go : Out) : Out :=
  match ramBad s k a n with
  | some x => .next (raiseSeq s k 0x0F (BitVec.ofNat 64 x))
  | none => go

/-- Run a word at the sequencer in focus; the word itself has been read from RAM. -/
def atSeq (s : State) (go : TileKey → Seq → Out) : Out :=
  match s.focus with
  | .seq k =>
      if !s.seqs.has k then .fault .noAgent
      else if seqRuns s k then
        (if (s.seq k).pc.toNat < 65536 then ramRead s k (s.seq k).pc.toNat 4 (go k (s.seq k)) else go k (s.seq k))
      else .next s
  | _ => .fault .noAgent

/-- A word that only writes registers (R188). -/
def seqAlu (s : State) (f : Seq → Seq) : Out := atSeq s fun k q => .next (s.setSeq k (f q).step)

/-! ### ALU and immediates (R189, R190) -/

/-- An R-form word. -/
def rWord (s : State) (d a b : BitVec 5) (f : BitVec 64 → BitVec 64 → BitVec 64) : Out :=
  seqAlu s fun q => q.put d (f (q.reg a) (q.reg b))

/-- A shift amount of 64 or more shifts everything out (R189). -/
def shBy (b : BitVec 64) (f : Nat → BitVec 64) (far : BitVec 64) : BitVec 64 := if b.toNat < 64 then f b.toNat else far

/-- The sign fill of a word. -/
def signFill (a : BitVec 64) : BitVec 64 := if a.msb then BitVec.allOnes 64 else 0

/-- 1 or 0. -/
def flag64 (b : Bool) : BitVec 64 := if b then 1 else 0

/-- `add` (R189). -/
def execSeqAdd (d a b : BitVec 5) (s : State) : Out := rWord s d a b fun x y => x + y
/-- `sub` (R189). -/
def execSeqSub (d a b : BitVec 5) (s : State) : Out := rWord s d a b fun x y => x - y
/-- `and` (R189). -/
def execSeqAnd (d a b : BitVec 5) (s : State) : Out := rWord s d a b fun x y => x &&& y
/-- `or` (R189). -/
def execSeqOr (d a b : BitVec 5) (s : State) : Out := rWord s d a b fun x y => x ||| y
/-- `xor` (R189). -/
def execSeqXor (d a b : BitVec 5) (s : State) : Out := rWord s d a b fun x y => x ^^^ y
/-- `shl` (R189). -/
def execSeqShl (d a b : BitVec 5) (s : State) : Out := rWord s d a b fun x y => shBy y (fun n => x <<< n) 0
/-- `shr` (R189). -/
def execSeqShr (d a b : BitVec 5) (s : State) : Out := rWord s d a b fun x y => shBy y (fun n => x >>> n) 0
/-- `sra` (R189). -/
def execSeqSra (d a b : BitVec 5) (s : State) : Out := rWord s d a b fun x y => shBy y (fun n => x.sshiftRight n) (signFill x)
/-- `mul` (R189). -/
def execSeqMul (d a b : BitVec 5) (s : State) : Out := rWord s d a b fun x y => x * y
/-- `mulh` (R189). -/
def execSeqMulh (d a b : BitVec 5) (s : State) : Out := rWord s d a b fun x y => BitVec.ofInt 64 ((x.toInt * y.toInt) / 2 ^ 64)
/-- `slt` (R189). -/
def execSeqSlt (d a b : BitVec 5) (s : State) : Out := rWord s d a b fun x y => flag64 (x.slt y)
/-- `sltu` (R189). -/
def execSeqSltu (d a b : BitVec 5) (s : State) : Out := rWord s d a b fun x y => flag64 (x.ult y)
/-- `min` (R189). -/
def execSeqMin (d a b : BitVec 5) (s : State) : Out := rWord s d a b fun x y => if y.slt x then y else x
/-- `max` (R189). -/
def execSeqMax (d a b : BitVec 5) (s : State) : Out := rWord s d a b fun x y => if x.slt y then y else x
/-- `div` (R189). -/
def execSeqDiv (d a b : BitVec 5) (s : State) : Out := rWord s d a b fun x y => if y == 0 then 0 else BitVec.ofInt 64 (x.toInt.tdiv y.toInt)
/-- `rem` (R189). -/
def execSeqRem (d a b : BitVec 5) (s : State) : Out :=
  rWord s d a b fun x y => if y == 0 then x else BitVec.ofInt 64 (x.toInt - x.toInt.tdiv y.toInt * y.toInt)

/-- An I-form word. -/
def iWord (s : State) (d a : BitVec 5) (f : BitVec 64 → BitVec 64) : Out := seqAlu s fun q => q.put d (f (q.reg a))

/-- `addi` (R190). -/
def execSeqAddi (d a : BitVec 5) (imm : BitVec 16) (s : State) : Out := iWord s d a fun x => x + imm.signExtend 64
/-- `andi` (R190). -/
def execSeqAndi (d a : BitVec 5) (imm : BitVec 16) (s : State) : Out := iWord s d a fun x => x &&& imm.setWidth 64
/-- `ori` (R190). -/
def execSeqOri (d a : BitVec 5) (imm : BitVec 16) (s : State) : Out := iWord s d a fun x => x ||| imm.setWidth 64
/-- `xori` (R190). -/
def execSeqXori (d a : BitVec 5) (imm : BitVec 16) (s : State) : Out := iWord s d a fun x => x ^^^ imm.setWidth 64
/-- `shli` (R190). -/
def execSeqShli (d a : BitVec 5) (sh : BitVec 6) (s : State) : Out := iWord s d a fun x => x <<< sh.toNat
/-- `shri` (R190). -/
def execSeqShri (d a : BitVec 5) (sh : BitVec 6) (s : State) : Out := iWord s d a fun x => x >>> sh.toNat
/-- `srai` (R190). -/
def execSeqSrai (d a : BitVec 5) (sh : BitVec 6) (s : State) : Out := iWord s d a fun x => x.sshiftRight sh.toNat
/-- `slti` (R190). -/
def execSeqSlti (d a : BitVec 5) (imm : BitVec 16) (s : State) : Out := iWord s d a fun x => flag64 (x.slt (imm.signExtend 64))
/-- `insh` (R190). -/
def execSeqInsh (d : BitVec 5) (imm : BitVec 16) (s : State) : Out := iWord s d d fun x => (x <<< 16) ||| imm.setWidth 64

/-! ### Memory and control flow (R191, R192) -/

/-- An aligned access of `n` bytes at a word's address, or SEQ_ADDR (R191). -/
def seqMem (s : State) (a : BitVec 5) (imm : BitVec 16) (n : Nat) (go : TileKey → Seq → Nat → Out) : Out :=
  atSeq s fun k q =>
    let x := q.reg a + imm.signExtend 64
    if x.toNat % n != 0 || 65536 ≤ x.toNat then .next (raiseSeq s k causeSeqAddr x) else go k q x.toNat

/-- `ld` (R191). -/
def execSeqLd (d a : BitVec 5) (imm : BitVec 16) (s : State) : Out :=
  seqMem s a imm 8 fun k q x => ramRead s k x 8 (.next (s.setSeq k (q.put d (Mem.load s.ram (k * 65536 + x) 8 64)).step))
/-- `ldw` (R191). -/
def execSeqLdw (d a : BitVec 5) (imm : BitVec 16) (s : State) : Out :=
  seqMem s a imm 4 fun k q x =>
    ramRead s k x 4 (.next (s.setSeq k (q.put d ((Mem.load s.ram (k * 65536 + x) 4 32 : BitVec 32).setWidth 64)).step))

/-- `st` (R191); a whole word written anew has no error. -/
def execSeqSt (d a : BitVec 5) (imm : BitVec 16) (s : State) : Out :=
  seqMem s a imm 8 fun k q x =>
    .next { s.setSeq k q.step with ram := Mem.store s.ram (k * 65536 + x) 8 (q.reg d), ramEcc := s.ramEcc.filter (· != k * 65536 + x) }
/-- `stw` (R191). -/
def execSeqStw (d a : BitVec 5) (imm : BitVec 16) (s : State) : Out :=
  seqMem s a imm 4 fun k q x => .next { s.setSeq k q.step with ram := Mem.store s.ram (k * 65536 + x) 4 ((q.reg d).setWidth 32 : BitVec 32) }

/-- Transfer control to a target, or SEQ_ILLEGAL at the branching word (R35, R192). -/
def seqJump (s : State) (k : TileKey) (q : Seq) (target : Int) : Out :=
  if target < 0 || 65536 ≤ target || target % 4 != 0 then .next (raiseSeq s k causeSeqIllegal 0)
  else .next (s.setSeq k { q with pc := BitVec.ofInt 32 target })

/-- A conditional branch (R192). -/
def seqBranch (s : State) (d a : BitVec 5) (imm : BitVec 16) (cond : BitVec 64 → BitVec 64 → Bool) : Out :=
  atSeq s fun k q => if cond (q.reg d) (q.reg a) then seqJump s k q ((q.pc.toNat : Int) + 4 * imm.toInt) else .next (s.setSeq k q.step)

/-- `beq` (R192). -/
def execSeqBeq (d a : BitVec 5) (imm : BitVec 16) (s : State) : Out := seqBranch s d a imm fun x y => x == y
/-- `bne` (R192). -/
def execSeqBne (d a : BitVec 5) (imm : BitVec 16) (s : State) : Out := seqBranch s d a imm fun x y => x != y
/-- `blt` (R192). -/
def execSeqBlt (d a : BitVec 5) (imm : BitVec 16) (s : State) : Out := seqBranch s d a imm fun x y => x.slt y
/-- `bge` (R192). -/
def execSeqBge (d a : BitVec 5) (imm : BitVec 16) (s : State) : Out := seqBranch s d a imm fun x y => !x.slt y
/-- `bltu` (R192). -/
def execSeqBltu (d a : BitVec 5) (imm : BitVec 16) (s : State) : Out := seqBranch s d a imm fun x y => x.ult y
/-- `bgeu` (R192). -/
def execSeqBgeu (d a : BitVec 5) (imm : BitVec 16) (s : State) : Out := seqBranch s d a imm fun x y => !x.ult y

/-- `j` (R192). -/
def execSeqJ (off : BitVec 26) (s : State) : Out := atSeq s fun k q => seqJump s k q ((q.pc.toNat : Int) + 4 * off.toInt)
/-- `jal`: s31 takes the address of the next word (R192). -/
def execSeqJal (off : BitVec 26) (s : State) : Out :=
  atSeq s fun k q =>
    let t := (q.pc.toNat : Int) + 4 * off.toInt
    if t < 0 || 65536 ≤ t then .next (raiseSeq s k causeSeqIllegal 0)
    else .next (s.setSeq k { q.put 31 ((q.pc + 4).setWidth 64) with pc := BitVec.ofInt 32 t })
/-- `jr` (R192). -/
def execSeqJr (a : BitVec 5) (s : State) : Out := atSeq s fun k q => seqJump s k q ((q.reg a).toNat : Int)

/-! ### Special registers (R193) -/

/-- Whether a unit port of a tile has a producer. -/
def portFed (t : Tile) (p : Nat) : Bool := (portsFed t).contains p

/-- The rounds that the committing elements and the PTs of a region have closed (R300, R305). -/
def closedRounds (s : State) (r : Nat) : List Nat :=
  (tilesOf s r).flatMap (fun t =>
    match t.2.kind with
    | .pt => [(s.port t.1).cr - 1]
    | .mx => if portFed t.2 0x02 then [t.2.mx.rounds] else []
    | .sp => if t.2.slots.any (fun x => Word.field x.2.word 56 8 == (0xA2 : BitVec 8)) || portFed t.2 0x21 then [t.2.own.closed] else []
    | _ => [])

/-- TEMPO: the highest round all of them have closed (R305). -/
def tempoReg (s : State) (r : Nat) : Nat :=
  match closedRounds s r with
  | [] => 0
  | x :: xs => xs.foldl Nat.min x

/-- NSEED of a launch packet. -/
def nseed (p : Packet) : Nat := (pk p 0x13 1).toNat
/-- WID: the value of seed 0 (R193, R249). -/
def widReg (p : Packet) : BitVec 64 := if nseed p == 0 then 0 else pk p 0x40 8

/-- The value of a special register, for the numbers of R193. -/
def sregRead (s : State) (q : Seq) (n : Nat) : Option (BitVec 64) :=
  let l := s.launch (s.region q.region).launch
  let f := s.dev.feats.getD 0
  if n == 0 then some (widReg l.packet)
  else if n == 1 then some s.dev.dtime
  else if n == 2 then some (BitVec.ofNat 64 l.ctx)
  else if n == 3 then some (Word.field f 0 64)
  else if n == 4 then some (Word.field f 64 64)
  else if n == 5 then some q.cause
  else if n == 6 then some (BitVec.ofNat 64 (s.ctx l.ctx).left)
  else if n == 7 then some (BitVec.ofNat 64 (tempoReg s q.region))
  else if n == 8 then some ((s.region q.region).phase.setWidth 64)
  else if n == 9 then some q.evmask
  else if 16 ≤ n && n ≤ 23 then some ((pk l.packet (0x60 + 4 * (n - 16)) 4).setWidth 64)
  else none

/-- `sget` (R193). -/
def execSeqSget (d : BitVec 5) (n : BitVec 16) (s : State) : Out :=
  atSeq s fun k q =>
    match sregRead s q n.toNat with
    | some v => .next (s.setSeq k (q.put d v).step)
    | none => .next (raiseSeq s k causeSeqIllegal 0)

/-- `sset`: CAUSE takes 0, EVMASK a value without reserved bits; every other write is illegal (R193). -/
def execSeqSset (a : BitVec 5) (n : BitVec 16) (s : State) : Out :=
  atSeq s fun k q =>
    if n == 5 && q.reg a == 0 then .next (s.setSeq k { q.step with cause := 0 })
    else if n == 9 && q.reg a < 2 then .next (s.setSeq k { q.step with evmask := q.reg a })
    else .next (raiseSeq s k causeSeqIllegal 0)

/-! ### Command registers (R194) -/

/-- Bits [pos + n - 1 : pos] of a command register replaced by the low bits of a value. -/
def cregPut (c : Word128) (pos n : Nat) (v : BitVec 64) : Word128 :=
  let mask : Word128 := (BitVec.ofNat 128 (2 ^ n - 1)) <<< pos
  (c &&& ~~~mask) ||| (((v.setWidth 128) <<< pos) &&& mask)

/-- Bits [pos + n - 1 : pos] of a command register, zero-extended or sign-extended. -/
def cregGet (c : Word128) (pos n : Nat) (sx : Bool) : BitVec 64 :=
  let f := (c >>> pos).toNat % 2 ^ n
  if sx && 2 ^ (n - 1) ≤ f then BitVec.ofInt 64 ((f : Int) - 2 ^ n) else BitVec.ofNat 64 f

/-- `cset` (R194). -/
def execSeqCset (c : BitVec 3) (pos : BitVec 7) (wm1 : BitVec 6) (a : BitVec 5) (chk : Bool) (s : State) : Out :=
  atSeq s fun k q =>
    let n := wm1.toNat + 1
    if chk && 2 ^ n ≤ (q.reg a).toNat then .next (raiseSeq s k causeSeqRange (q.reg a))
    else .next (s.setSeq k { q.step with c := q.c.put c.toNat (cregPut (q.creg c) pos.toNat n (q.reg a)) })

/-- `cget` (R194). -/
def execSeqCget (c : BitVec 3) (pos : BitVec 7) (wm1 : BitVec 6) (a : BitVec 5) (sx : Bool) (s : State) : Out :=
  seqAlu s fun q => q.put a (cregGet (q.creg c) pos.toNat (wm1.toNat + 1) sx)

/-- `cclr` (R194). -/
def execSeqCclr (c : BitVec 3) (pos : BitVec 7) (wm1 : BitVec 6) (s : State) : Out :=
  seqAlu s fun q => { q with c := q.c.put c.toNat (cregPut (q.creg c) pos.toNat (wm1.toNat + 1) 0) }

/-- `cclr.all` (R194). -/
def execSeqCclrAll (c : BitVec 3) (s : State) : Out := seqAlu s fun q => { q with c := q.c.put c.toNat 0 }

/-! ### Issue (R29, R30, R157-R160) -/

/-- CMD of a command word. -/
def cmdCode (w : Word128) : Nat := (Word.field w 121 7).toNat
/-- RID of a ride command (R163, R166, R168, R169). -/
def cmdRid (w : Word128) : BitVec 8 := if cmdCode w == 5 then Word.field w 57 8 else Word.field w 84 8

/-- The PT with an index on a die (R333). -/
def ptKey (die n : Nat) : TileKey :=
  let qx := n / 2 % 16
  let qy := n / 32
  if n % 2 == 0 then die * 2048 + 4 * qy * 64 + 4 * qx else die * 2048 + (4 * qy + 3) * 64 + 4 * qx + 3

/-- Whether a command goes to a copy engine (R28, R184). -/
def toEngine (w : Word128) : Bool := cmdCode w == 0x18 || cmdCode w == 0x19 || cmdCode w == 0x1A || (cmdCode w == 0x32 && Word.bit w 0)

/-- The port or engine a command names. -/
def stationOf (w : Word128) : Station :=
  let h := decodeHead w
  if toEngine w then .engine h.die.toNat h.index.toNat else .port (ptKey h.die.toNat h.index.toNat)

/-- Commands of a station that have not yet started (R157); the queue of a PT whose quads were saved has left with them (R348, log 117). -/
def waitingAt (s : State) (st : Station) : List Nat :=
  (s.cmds.keep (fun _ c => c.station == st && c.away.isNone && (c.phase == .queued || c.phase == .held || c.phase == .accepted))).keys

/-- A completion token (R159). -/
def completionTok (w : Word128) (issue : BitVec 32) (status d1 d2 : Nat) : Tok :=
  { tt := .control, tag := if cmdCode w ≤ 5 then (cmdRid w).setWidth 16 else 0, seq := issue.setWidth 8
    pay := BitVec.ofNat 512 (status % 2 ^ 32 + 2 ^ 32 * (d1 % 2 ^ 32) + 2 ^ 64 * (d2 % 2 ^ 32)) }

/-- Whether a FIFO's offer comes from `tok.give`. -/
def Offer.isGive : Offer → Bool
  | .give _ => true
  | _ => false

/-- Whether a sequencer has a completion token of a station that is not yet in its FIFO. -/
def Seq.owes (q : Seq) (st : Station) : Bool :=
  q.offers.any (fun o => o.2.any (fun x => match x with
    | .completion st2 _ => st2 == st
    | _ => false))

/-- Whether a station has a completion token that is not yet in its FIFO (R29). -/
def completionWaits (s : State) (st : Station) : Bool :=
  s.held.any (fun x => x.1 == st) || s.seqs.any (fun q => q.2.owes st) || s.saved.any (fun y => y.2.seqs.any (fun q => q.2.owes st))

/-- A completion token reaches its FIFO, where it stands among the offers; the FIFO of a saved launch keeps it at once if it has room (R195, R348 step 2). -/
def giveCompletion (s : State) (l : Nat) (st : Station) (k : TileKey) (n : Nat) (t : Tok) : State :=
  let q := seqIn s l k
  if s.saved.has l && (q.offers.getD n []).isEmpty && (q.fifo n).length < 16 then setSeqIn s l k { q with q := q.q.put n (q.fifo n ++ [t]) }
  else setSeqIn s l k { q with offers := q.offers.upd n [] (fun o => o ++ [.completion st t]) }

/-- A completion token of a launch's command is offered to its FIFO, behind its station's earlier ones (R29, R195). -/
def offerCompletion (s : State) (l : Nat) (st : Station) (k : TileKey) (q : Nat) (t : Tok) : State :=
  if completionWaits s st then { s with held := s.held ++ [(st, l, k, q, t)] } else giveCompletion s l st k q t

/-- The completion tokens a station holds are offered, up to the first that must wait. -/
def offerNext (st : Station) : Nat → State → State
  | 0, s => s
  | n + 1, s =>
      match takeFirst (fun (x : Station × Nat × TileKey × Nat × Tok) => x.1 == st) s.held with
      | some ((_, l, k, q, t), rest) =>
          let s1 := giveCompletion { s with held := rest } l st k q t
          if (seqIn s1 l k).owes st then s1 else offerNext st n s1
      | none => s

/-- DETAIL of CMD_BAD and CMD_FAIL (R362). -/
def failDetail (issue : BitVec 32) (status : Nat) : BitVec 64 := issue ++ BitVec.ofNat 32 status

/-- Raise the oldest failure of a command that a launch's sequencer has not yet been told of, unless a trap already stops it or the launch is saved (R160, R348). -/
def seqFail (s : State) (l : Nat) (k : TileKey) : State :=
  let q := s.seq k
  match q.fails with
  | [] => s
  | f :: fs => if s.saved.has l || q.stopped then s else raiseSeq (s.setSeq k { q with fails := fs }) k causeCmdFail (failDetail f.2 f.1.toNat)

/-- `cissue` (R29, R30, R194): the checks that need no target are made at once; a command that passes them is delivered as soon as its target's queue has room, and its verdict awaited. DESIGN CHOICE (log 149): the completion token of a command that fails the sequencer's checks waits for room in its FIFO at a port station of the sequencer's own tile. -/
def execSeqCissue (c : BitVec 3) (s : State) : Out :=
  atSeq s fun k q =>
    let w := q.creg c
    let h := decodeHead w
    if !cmdSequencerChecks w then
      let q1 := { q with issue := q.issue + 1 }
      if h.gv then .next (offerCompletion (s.setSeq k q1.step) (s.region q.region).launch (.port k) k h.gvq.toNat (completionTok w q.issue 4 0 0))
      else .next (raiseSeq (s.setSeq k q1) k causeCmdBad (failDetail q.issue 4))
    else if 16 ≤ (waitingAt s (stationOf w)).length then .next s
    else
      let id := s.nextCmd + 1
      let l := (s.region q.region).launch
      let x : Cmd := { word := w, station := stationOf w, origin := .seq k q.issue, launch := l, ctx := (s.launch l).ctx, region := q.region, hb := q.hb }
      .next { (s.setCmd id x).setSeq k { q with issue := q.issue + 1, wait := .verdict id } with nextCmd := id }

/-- TKQ_TAKE: an accepted command with TK takes its token; the target may then start it (R29, R161). -/
def execTkqTake (s : State) : Out :=
  match s.focus with
  | .seq k =>
      let q := s.seq k
      if !s.seqs.has k then .fault .noAgent
      else if q.stopped || s.regionStops q.region then .next s
      else
        match q.wait with
        | .tkq id n =>
            (match q.fifo n.toNat with
             | [] => .next s
             | t :: ts =>
                 let s1 := s.setSeq k { (q.learn s t) with pc := q.pc + 4, wait := .none, q := q.q.put n.toNat ts }
                 .next (s1.setCmd id { s1.cmd id with phase := .accepted, hb := hbJoin (s1.cmd id).hb t.hb }))
        | _ => .next s
  | _ => .fault .noAgent

/-! ### FIFOs (R195) -/

/-- `tok.give`: the token enters the FIFO, or is offered until it does (R195). -/
def execSeqTokGive (a : BitVec 5) (n : BitVec 3) (s : State) : Out :=
  atSeq s fun k q =>
    let t : Tok := { tt := .control, pay := (q.reg a).setWidth 512, hb := q.hb }
    let offs := q.offers.getD n.toNat []
    if (q.fifo n.toNat).length < 16 && offs.isEmpty then .next (s.setSeq k { q.step with q := q.q.put n.toNat (q.fifo n.toNat ++ [t]) })
    else if offs.any (·.isGive) then .next s
    else .next (s.setSeq k { q with offers := q.offers.put n.toNat (offs ++ [.give t]) })

/-- `tok.take` (R195). -/
def execSeqTokTake (d : BitVec 5) (h : Bool) (n : BitVec 3) (s : State) : Out :=
  atSeq s fun k q =>
    match q.fifo n.toNat with
    | [] => .next s
    | t :: ts => .next (s.setSeq k (({ q.learn s t with q := q.q.put n.toNat ts }).put d (if h then t.headLane else Word.field t.pay 0 64)).step)

/-- `tok.poll` (R195). -/
def execSeqTokPoll (d : BitVec 5) (n : BitVec 3) (s : State) : Out := seqAlu s fun q => q.put d (BitVec.ofNat 64 (q.fifo n.toNat).length)

/-- FIFO_TAKE: a FIFO with room takes the token that has been offered longest; a sequencer that has been stopped gives nothing (R195, R348). -/
def execFifoTake (s : State) : Out :=
  match s.focus with
  | .fifo k n =>
      let q := s.seq k
      if !s.seqs.has k then .fault .noAgent
      else if 16 ≤ (q.fifo n).length || !s.regions.has q.region then .next s
      else
        let put := fun (s1 : State) (t : Tok) (rest : List Offer) =>
          let q1 := s1.seq k
          s1.setSeq k { q1 with q := q1.q.put n (q1.fifo n ++ [t]), offers := q1.offers.put n rest }
        match takeFirst (fun (o : Offer) => !(o.isGive && (q.stopped || s.regionStops q.region))) (q.offers.getD n []) with
        | none => .next s
        | some (.fabric, rest) =>
            (match (s.tile k).ports.get? (0x40 + n) with
             | some p =>
                 let tl := s.tile k
                 let seen := if p.tok.tt == .drain then (0x40 + n) :: tl.drained else tl.drained
                 .next (put (s.setTile k { tl with ports := tl.ports.del (0x40 + n), drained := seen }) p.tok rest)
             | none => .next (s.setSeq k { q with offers := q.offers.put n rest }))
        | some (.completion st t, rest) => .next (offerNext st s.held.length (put s t rest))
        | some (.give t, rest) => let s1 := put s t rest; .next (s1.setSeq k (s1.seq k).step)
  | _ => .fault .noAgent

/-! ### Configuration, seeds, phases, tail launches (R196-R199) -/

/-- `cfg.load`: the block is loaded at the region's next phase end; a further one is due where its phase end has been declared already; only an earlier `cfg.load` whose load has not finished makes it wait (R196, R253). -/
def execSeqCfgLoad (a : BitVec 5) (s : State) : Out :=
  atSeq s fun k q =>
    let rg := s.region q.region
    let b := (Word.field (q.reg a) 0 12).toNat
    match blockOf s q.region b with
    | none => .next (raiseSeq s k causeSeqRange (q.reg a))
    | some blk =>
        if blk.region != rg.index then .next (raiseSeq s k causeSeqRange (q.reg a))
        else if rg.cfgNext.isSome || (rg.loading.isSome && rg.cfgLoad) then .next s
        else
          let s1 := s.setSeq k q.step
          .next (s1.setRegion q.region { rg with cfgNext := some b, due := rg.due || rg.quiet })

/-- `cfg.wait` (R196). DEDUCED (log 144): it waits for any load of the region that is under way, also one that the block scheduler began. -/
def execSeqCfgWait (d : BitVec 5) (s : State) : Out :=
  atSeq s fun k q =>
    let rg := s.region q.region
    if rg.cfgNext.isSome || rg.loading.isSome then .next s else .next (s.setSeq k (q.put d rg.report).step)

/-- Whether a latch of a tile has a producer: a local target, a target of the tile's unit or a route's end (R19, R26, R197). -/
def latchFed (t : Tile) (p : Pos) (n : BitVec 5) : Bool :=
  t.slots.any (fun x => let d := (Tgt.ofCode (Word.field x.2.word 40 12), Tgt.ofCode (Word.field x.2.word 28 12))
    d.1 == some (.latch p n) || d.2 == some (.latch p n))
  || (unitTgtsOf t).contains (.latch p n)
  || t.chans.any (fun c => c.2.dst == .latch p n)

/-- Whether a slot's word enables a position: its opcode, PE and PD alone say so, whatever else is wrong with the word (R14, R17). -/
def wordEnables (w : Word64) (p : Pos) : Bool :=
  let op : NodeOp := { ty := (Ty.ofCode (Word.field w 52 4)).getD .ctl, tga := .none, tgb := .none, lk := false, rk := false, pn := false
                       pe := Word.bit w 24, rm := .rn, sat := false, pd := Word.bit w 19 }
  w != nopWord && (((nodeOfOpc (Word.field w 56 8) op (Word.field w 0 19)).bind (·.nodeForm)).any (fun f => (enabledPos f).contains p))

/-- Whether the block loaded in a region has an entry port at a latch (R239). -/
def entryAt (s : State) (r : Nat) (rel slot : Nat) (p : Pos) : Bool :=
  ((s.region r).block.bind (blockOf s r)).any (fun b => b.entries.any (fun e => e.tile == rel && e.slot == slot && e.pos == p))

/-- `seed`: one counted token into a latch without a producer, once every seed of the launch is in (R120, R197, R239, R326). -/
def execSeqSeed (d a : BitVec 5) (s : State) : Out :=
  atSeq s fun k q =>
    let v := q.reg d
    let rg := s.region q.region
    if rg.loading.isSome || seedsWait s rg.launch then .next s
    else
      let rel := (Word.field v 0 11).toNat
      let n : BitVec 5 := Word.field v 11 5
      let tag : Tag := Word.field v 18 16
      let t := regionTile rg rel
      let bad := Host.Outcome.next (raiseSeq s k causeSeqSeed v)
      match Pos.ofCode (Word.field v 16 2) with
      | none => bad
      | some p =>
          if !(regionRels rg).contains rel || !(s.tile t).slots.has n.toNat || !wordEnables (s.slot t n.toNat).word p || latchFed (s.tile t) p n
              || entryAt s q.region rel n.toNat p || 0xFF < tag || Word.field v 34 30 != (0 : BitVec 30) then bad
          else if ((s.slot t n.toNat).at_ p).isSome then .next s
          else
            match censusTrap rg.census 1 with
            | some c => .next (raiseSeq s k c (BitVec.ofInt 64 rg.census))
            | none =>
                let s1 := censusAdd (s.setSeq k q.step) q.region 1
                .next (deliver s1 t (.latch p n) { tok := { tag := tag, pay := (q.reg a).setWidth 512, hb := q.hb } })

/-- `census.wait` (R198). -/
def execSeqCensusWait (d : BitVec 5) (s : State) : Out :=
  atSeq s fun k q =>
    let ph := (s.region q.region).phase
    if q.seen < ph then .next (s.setSeq k (({ q with seen := ph }).put d (ph.setWidth 64)).step) else .next s

/-- `launch.tail` (R199). -/
def execSeqLaunchTail (a : BitVec 5) (s : State) : Out :=
  atSeq s fun k q =>
    let x := q.reg a
    let l := (s.region q.region).launch
    let la := s.launch l
    if la.tailed || x.toNat % 8 != 0 || 65536 < x.toNat + 128 then .next (raiseSeq s k causeSeqTail x)
    else
      let p : Packet := Mem.load s.ram (k * 65536 + x.toNat) 128 1024
      ramRead s k x.toNat 128 (.next ((s.setSeq k q.step).setLaunch l { la with tailed := true, tail := some p }))

/-! ### Events, fences, ends (R200-R202) -/

/-- `wfe` (R200). -/
def execSeqWfe (d : BitVec 5) (poll : Bool) (s : State) : Out :=
  atSeq s fun k q =>
    match q.events with
    | e :: es => .next (s.setSeq k (({ q with events := es }).put d e).step)
    | [] => if poll then .next (s.setSeq k (q.put d 0).step) else .next s

/-- Whether a command this sequencer issued has not retired. -/
def seqCmdsOpen (s : State) (k : TileKey) : Bool :=
  s.cmds.any (fun c => c.2.phase != .done && c.2.launch == s.launchOf k && (match c.2.origin with
    | .seq k2 _ => k2 == k
    | _ => false))

/-- `fence` (R201). -/
def execSeqFence (scope : BitVec 3) (s : State) : Out :=
  atSeq s fun k q =>
    if 5 ≤ scope then .next (raiseSeq s k causeSeqIllegal 0)
    else if seqCmdsOpen s k || !released s q.hb scope then .next s
    else .next (s.setSeq k q.step)

/-- `trap` (R202). -/
def execSeqTrap (code : BitVec 16) (s : State) : Out := atSeq s fun k _ => .next (raiseSeq s k causeUser (code.setWidth 64))

/-- `halt` (R202): the sequencer issues nothing further. -/
def execSeqHalt (s : State) : Out := atSeq s fun k q => .next (s.setSeq k { q with halted := true })

/-- EVENT_ENQUEUE: a tier event of a port of the region enters the event queue, if that has room and EVMASK lets it (R200, R338). -/
def execEventEnqueue (s : State) : Out :=
  match s.focus with
  | .fifo k p =>
      let q := s.seq k
      if !s.seqs.has k then .fault .noAgent
      else if !q.running || (s.region q.region).closed || q.evmask == 0 || 16 ≤ q.events.length || (s.tile p).region != some q.region then .next s
      else
        match (s.port p).tier with
        | [] => .next s
        | e :: es => .next ((s.setPort p { s.port p with tier := es }).setSeq k { q with events := q.events ++ [e] })
  | _ => .fault .noAgent

/-- SEQ_ILLEGAL_FETCH: a word that is reserved or breaks its format, or the fetch beyond the end of RAM, traps (R35). -/
def execSeqIllegalFetch (s : State) : Out :=
  atSeq s fun k q =>
    if 65536 ≤ q.pc.toNat then .next (raiseSeq s k causeSeqIllegal 0x10000)
    else
      match decodeSeq (seqWord s k) with
      | .ok _ => .next s
      | .error _ => .next (raiseSeq s k causeSeqIllegal 0)

end Sys2Proof.Machine
end

