-- ==== Sys2Proof/Machine/Commands.lean ====
section
/-! DEFINITION. Stream commands at their targets (01 R28-R30; 06 R156-R186): the verdict, the start, what each command does when it starts, and how it retires. -/

namespace Sys2Proof.Machine

/-! ### The status of a command (R159) -/

namespace CStat

/-- BUSY. -/
abbrev busy : Nat := 1
/-- SLIPPED. -/
abbrev slipped : Nat := 2
/-- LINK_FENCED. -/
abbrev fenced : Nat := 3
/-- CMD_BAD. -/
abbrev bad : Nat := 4
/-- DENIED. -/
abbrev denied : Nat := 5
/-- ABORTED. -/
abbrev aborted : Nat := 6
/-- NORIDER. -/
abbrev noRider : Nat := 7
/-- RANGE. -/
abbrev range : Nat := 8
/-- NOSEQ. -/
abbrev noSeq : Nat := 9
/-- EXISTS. -/
abbrev exist : Nat := 10
/-- TABLE_FULL. -/
abbrev tableFull : Nat := 11
/-- WRONGTIER. -/
abbrev wrongTier : Nat := 12
/-- NET_ERR. -/
abbrev netErr : Nat := 13
/-- CFG. -/
abbrev cfg : Nat := 14

end CStat

/-! ### Ownership (R158, R331, R333) -/

/-- Whether a rectangle of a partition holds a quad of a die (R312). -/
def rectHolds (r : BitVec 32) (d qx qy : Nat) : Bool :=
  let x := (Word.field r 24 4).toNat
  let y := (Word.field r 21 3).toNat
  (Word.field r 28 4).toNat == d && x ≤ qx && qx ≤ x + (Word.field r 17 4).toNat && y ≤ qy && qy ≤ y + (Word.field r 14 3).toNat

/-- Whether a context's partition holds a quad (R331). -/
def ownsQuad (s : State) (c d qx qy : Nat) : Bool := (s.ctx c).rects.any (fun r => rectHolds r d qx qy)

/-- Whether a port or an engine lies in a context's partition (R333). -/
def stationOwned (s : State) (c : Nat) : Station → Bool
  | .port k => ownsQuad s c (k / 2048) (k % 64 / 4) (k % 2048 / 256)
  | .engine d i => 12 ≤ d || (List.range 8).any (fun y => ownsQuad s c d i y)

/-- Whether a command names a sequence or a pool of another context (R158, R333). -/
def cmdForeign (s : State) (c : Nat) (w : Word128) : Bool :=
  let code := cmdCode w
  let stack := if code == 5 then (Word.field w 65 5).toNat else (Word.field w 71 5).toNat
  let table := (anyTable (s.base stack) (Word.field w 76 20).toNat).any (fun t => t.ctx != c)
  let pool := match (s.base stack).pools.get? (Word.field w 59 12).toNat with
    | some p => p.ctx != c
    | none => true
  stack < 24 && (code == 5 || code == 0x20 || code == 0x21)
    && (table || (code == 0x20 && Word.field w 57 2 == (0 : BitVec 2) && pool))

/-! ### The checks of the target (R30, R162-R186, R284, R298, R372) -/

/-- A feature that the driver has accepted (R372). -/
def feature (s : State) (i : Nat) : Bool := Word.bit (s.dev.feats.getD 0) i

/-- Bytes of an element, or of a block of SX, of an element type (R48, R163, R164). -/
def etypeBytes (e : BitVec 4) : Nat :=
  if e < 3 then 4 else if e == 3 then 2 else if e == 4 then 1 else if e == 5 then 8 else if e == 6 then 12 else 18

/-- A ride's field lies within the segment (R163). -/
def fieldFits (g : Nat) (o : RideOps) : Bool := o.etype == 8 || 4 * o.offw.toNat + (o.cm1.toNat + 1) * etypeBytes o.etype ≤ g

/-- An update's field lies within the segment (log 43). -/
def updFits (g : Nat) (o : UpdOps) : Bool := 4 * (o.offw.toNat + o.cm1.toNat + 1) ≤ g

/-- The PT of a command's station. -/
def cmdPort (c : Cmd) : TileKey := match c.station with
  | .port k => k
  | .engine _ _ => 0

/-- Whether a ride that the PT has accepted and that has not retired holds an RID (R163). -/
def ridHeld (s : State) (id : Nat) (c : Cmd) (rid : BitVec 8) : Bool :=
  s.cmds.any (fun x => x.1 != id && sameStation c x.2 && x.2.phase != .queued && x.2.phase != .done && cmdCode x.2.word ≤ 5 && cmdRid x.2.word == rid)

/-- Every bit of a mask names a valid route of the PT (R183). -/
def maskOk (t : Tile) (m : BitVec 16) : Bool := (List.range 16).all (fun r => !Word.bit m r || t.routes.has r)

/-- The stripe a command names. -/
def cmdStripe (s : State) (c : Cmd) (n : BitVec 4) : List Member := stripe s c.ctx n

/-- A `copy`'s ranges lie within stripes of equal segment size (R174). -/
def copyOk (s : State) (c : Cmd) (o : CopyOps) : Bool :=
  let a := cmdStripe s c o.sreach
  let b := cmdStripe s c o.dreach
  !a.isEmpty && !b.isEmpty && Stripe.g a == Stripe.g b && o.slo.toNat + o.nm1.toNat < Stripe.len a && o.dlo.toNat + o.nm1.toNat < Stripe.len b

/-- A page move names a page of a far pool of the context, with the far tier accepted (R175, R372). -/
def pageOk (s : State) (c : Cmd) (o : PageOps) : Bool :=
  feature s 3 && (match (s.ctx c.ctx).farpools.get? o.fpool.toNat with
    | some p => o.fpage < p.pages
    | none => false)

/-- A `bind` names a PT with loops and a valid slot of its region (R179, R181). -/
def bindOk (s : State) (k : TileKey) (o : BindOps) : Bool :=
  let r := s.regionOf k
  let d := regionTile (s.region r) o.stile.toNat
  (s.tile k).region.isSome && nlvl (s.tile k) != 0 && (regionRels (s.region r)).contains o.stile.toNat && (s.tile d).region == some r
    && (s.tile d).slots.has o.sslot.toNat

/-- The target's own check of a command that its words pass (R30 stage 3). DEDUCED (log 158): a RID that a ride of the PT holds fails `sieve`, `gather` and `kvride` too, and a field beyond the segment fails `sieve`, as R163 says of `board` and `fold`. -/
def targetCheck (s : State) (id : Nat) (c : Cmd) : Instr → Bool
  | .boardFlow _ o | .boardSnap _ o | .fold _ o =>
      let ms := cmdStripe s c o.reach
      !ms.isEmpty && fieldFits (Stripe.g ms) o && (!o.win || o.hi.toNat ≤ Stripe.len ms) && unitRoute (s.tile (cmdPort c)) o.ort.toNat
        && !ridHeld s id c o.rid && (o.etype != 5 || feature s 5)
  | .sieve _ o =>
      let ms := cmdStripe s c o.reach
      !ms.isEmpty && 4 * (o.offw.toNat + o.cm1.toNat + 1) ≤ Stripe.g ms && unitRoute (s.tile (cmdPort c)) o.ort.toNat
        && !ridHeld s id c o.rid
  | .gather _ rid ort => unitRoute (s.tile (cmdPort c)) ort.toNat && !ridHeld s id c rid
  | .kvride _ o => unitRoute (s.tile (cmdPort c)) o.ort.toNat && !ridHeld s id c o.rid && (o.etype != 5 || feature s 5)
  | .updW _ o =>
      let ms := cmdStripe s c o.reach
      let tag : BitVec 4 := Word.field o.a 28 4
      !ms.isEmpty && updFits (Stripe.g ms) o && (tag == 0 || Stripe.g ms == 64) && (tag != 5 || feature s 5)
  | .updAdd _ o | .updMax _ o | .updScadd _ o => let ms := cmdStripe s c o.reach; !ms.isEmpty && updFits (Stripe.g ms) o
  | .copy _ o => copyOk s c o
  | .pagein _ o | .pageout _ o => pageOk s c o
  | .bseqNew _ o | .bseqRestore _ o | .bseqAddg _ o => Word.field o.policy 0 2 != (1 : BitVec 2) || feature s 5
  | .bindStart _ o | .bindResume _ o => bindOk s (cmdPort c) o
  | .eos _ ort _ => unitRoute (s.tile (cmdPort c)) ort.toNat
  | .tempo _ round m => maskOk (s.tile (cmdPort c)) m && (!s.launchFlag c.launch 1 || round.toNat == (s.port (cmdPort c)).cr)
  | .drainCmd _ m => maskOk (s.tile (cmdPort c)) m
  | .statc _ reach _ => !(cmdStripe s c reach).isEmpty
  | _ => true

/-- The verdict on a command that has reached its target: refused with a status, or accepted (R30 stages 2 and 3). -/
def verdict (s : State) (id : Nat) (c : Cmd) : Option Nat :=
  if !stationOwned s c.ctx c.station || cmdForeign s c.ctx c.word then some CStat.denied
  else match decodeCmd c.word with
  | .ok i => if targetCheck s id c i then none else some CStat.bad
  | .error _ => some CStat.bad

/-- A command has been accepted at its station: it takes its place in the order of arrival (R157). -/
def arrive (s : State) (id : Nat) (p : Phase) : State :=
  { s.setCmd id { s.cmd id with phase := p, order := s.sends } with sends := s.sends + 1 }

/-- CISSUE_VERDICT: the verdict reaches the sequencer. Refused, the command retires at once: its completion goes to GVQ, or CMD_BAD or CMD_FAIL is raised at the `cissue` word, which the sequencer has not left. Accepted, the command waits for its TKQ token, or may start (R29, R30, R158, R160). A PT that has left with a saved launch gives no verdict. -/
def execCissueVerdict (s : State) : Out :=
  match s.focus with
  | .seq k =>
      let q := s.seq k
      if !s.seqs.has k then .fault .noAgent
      else if q.stopped || s.regionStops q.region then .next s
      else match q.wait with
      | .verdict id =>
          let c := s.cmd id
          let h := decodeHead c.word
          let issue := q.issue - 1
          if c.away.isSome then .next s else
          (match verdict s id c with
           | some st =>
               let s1 := s.setCmd id { c with phase := .done, status := st }
               if h.gv then
                 .next (offerCompletion (s1.setSeq k { q.step with wait := .none }) c.launch c.station k h.gvq.toNat (completionTok c.word issue st 0 0))
               else
                 let cause := if st == CStat.bad then causeCmdBad else causeCmdFail
                 .next (raiseSeq (s1.setSeq k { q with wait := .none }) k cause (failDetail issue st))
           | none =>
               let s1 := arrive s id (if h.tk then .held else .accepted)
               if h.tk then .next (s1.setSeq k { q with wait := .tkq id h.tkq })
               else .next (s1.setSeq k { q.step with wait := .none }))
      | _ => .next s
  | _ => .fault .noAgent

/-! ### Starting (R157, R161, R176, R179, R184, R347) -/

/-- Commands that act on the units of their PT or the tiles of their region: `gather`, `bind`, `unbind`, `tempo`, `drain`, `statc`. -/
def needsQuads (c : Cmd) : Bool :=
  let code := cmdCode c.word
  code == 0x02 || code == 0x28 || code == 0x29 || code == 0x30 || code == 0x31 || code == 0x34

/-- Whether a region stands on its quads, and has not come to a stop. -/
def regionGoes (s : State) (r : Nat) : Bool := s.regions.has r && !(s.regionStops r && s.regionAtRest r)

/-- Whether a started command may go on. It does so at its engine or landings while its region is stopped or saved (R297, R348); one that acts on its PT's units waits for them, one that acts on its region's tiles for those. -/
def cmdLive (s : State) (c : Cmd) : Bool :=
  !needsQuads c
  || (c.away.isNone && ((s.tile (cmdPort c)).region.all (regionGoes s)) && (cmdCode c.word != 0x34 || regionGoes s c.region))

/-- Whether some command that started and has not retired at the station of a command passes a test. -/
def startedAt (s : State) (c : Cmd) (p : Nat → Cmd → Bool) : Bool :=
  s.cmds.any (fun x => sameStation c x.2 && x.2.phase == .started && p x.1 x.2)

/-- Whether a started command has not yet made its first step at its port. A port makes that step of one command before it starts the next, so that what commands send and set up comes about in the order in which they start (R157). -/
def fresh (c : Cmd) : Bool := c.phase == .started && !c.admitted && !c.underway && !c.stopped && cmdCode c.word != 0x20 && cmdCode c.word != 0x21

/-- Whether the region of a command's issuer has been told to stop, or is saved. -/
def issuerStops (s : State) (c : Cmd) : Bool := c.origin != .firmware && (!s.regions.has c.region || s.regionStops c.region)

/-- Whether others may pass a command that waits: one of a launch that stops or is saved, at a PT, or whose sequencer has not taken its TKQ token (log 117). -/
def passedOver (s : State) (c : Cmd) : Bool :=
  issuerStops s c && (c.phase == .held || (match c.station with
    | .port _ => true
    | .engine _ _ => false))

/-- The command that has arrived first at a station, of those that may not be passed over (R157). -/
def firstArrived (s : State) (st : Station) : Option Nat :=
  ((waitingAt s st).filter (fun i => (s.cmd i).phase != .queued && !passedOver s (s.cmd i))).foldl (fun a i => match a with
    | none => some i
    | some j => if (s.cmd i).order < (s.cmd j).order then some i else some j) none

/-- Whether the first waiting command of a station may start now: at a port, while neither its region nor its issuer's has been told to stop (R348, log 117); a `fence.e` once every command that reached the station before it has retired (R184). -/
def startOk (s : State) (c : Cmd) : Bool :=
  let code := cmdCode c.word
  let startedAt := startedAt s c
  c.phase == .accepted && !startedAt (fun _ x => fresh x)
  && (code != 0x32 || !(s.cmds.any (fun x => sameStation c x.2 && (x.2.phase == .started || ((x.2.phase == .held || x.2.phase == .accepted) && x.2.order < c.order)))))
  && (match c.station with
   | .engine _ _ => !startedAt (fun _ _ => true)
   | .port k =>
       if issuerStops s c || (s.tile k).region.any s.regionStops then false
       else if code == 0x28 then (s.port k).gen.isNone
       else if code == 0x02 then (s.port k).gather.isNone
       else if code == 0x05 then !startedAt (fun _ x => cmdCode x.word == 5)
       else true)

/-- Send a command's request to the block engine of its stack (R178, R347). -/
def blockRequest (s : State) (id stack : Nat) : State :=
  let b := s.base stack
  s.setBase stack { b with reqs := b.reqs ++ [.cmd id] }

/-- The BIND packet's `bind` at a station whose region has been loaded and whose check is due. -/
def bindDue (s : State) (t : Station) : Option Nat :=
  (waitingAt s t).find? (fun id => (s.cmd id).phase == .queued && (s.cmd id).origin.isPacket && s.regionThere (s.cmd id).region)

/-- The issue check of a packet's `bind`, once its region stands loaded on its quads (R30, R328). -/
def bindVerdict (s : State) (id : Nat) : State :=
  let c := s.cmd id
  match c.origin with
  | .packet q t =>
      if !s.regionThere c.region || s.saved.has c.launch then s
      else if (verdict s id c).isNone then arrive s id .accepted
      else completePacket (s.setCmd id { c with phase := .done, status := CStat.bad }) q t
        { status := Status.badReq, start := ((s.queue q).opens.find? (fun o => o.ticket == t)).elim 0 (fun o => o.started) }
  | _ => s

/-- COMMAND_START: a port or engine starts the command that arrived first at it, once that has its TKQ token (R29, R157). The `bind` of a BIND packet that waited for its region's load is checked here (R30, R328). -/
def execCommandStart (s : State) : Out :=
  match s.focus with
  | .station t =>
      (match bindDue s t, firstArrived s t with
       | some id, _ => .next (bindVerdict s id)
       | none, none => .next s
       | none, some id =>
           let c := s.cmd id
           if startOk s c then
             let s1 := { s.setCmd id { c with phase := .started, order := s.sends } with sends := s.sends + 1 }
             let code := cmdCode c.word
             .next (if code == 0x20 || code == 0x21 then blockRequest s1 id (Word.field c.word 71 5).toNat else s1)
           else .next s)
  | _ => .fault .noAgent

/-- The command in focus, when it has started and its own step is still to come. -/
def atCmd (s : State) (go : Nat → Cmd → Out) : Out :=
  match s.focus with
  | .cmd id =>
      if !s.cmds.has id then .fault .noAgent
      else if (s.cmd id).phase == .started && !(s.cmd id).admitted && !(s.cmd id).stopped && cmdLive s (s.cmd id) then go id (s.cmd id)
      else .next s
  | _ => .fault .noAgent

/-! ### Rides (R165-R170) -/

/-- A command's registration goes to every member of a stripe, numbered among what its port sends (R157, R271). -/
def sendRide (s : State) (id : Nat) (c : Cmd) (ms : List Member) : State :=
  let pcs := ms.map (fun m => m.pc)
  { s.setCmd id { c with admitted := true, members := pcs, pending := pcs, sentAt := s.sends } with sends := s.sends + 1 }

/-- `board.flow` (R165). -/
def execBoardFlow (_h : CmdHead) (o : RideOps) (s : State) : Out := atCmd s fun id c => .next (sendRide s id c (cmdStripe s c o.reach))
/-- `board.snap` (R165). -/
def execBoardSnap (_h : CmdHead) (o : RideOps) (s : State) : Out := atCmd s fun id c => .next (sendRide s id c (cmdStripe s c o.reach))
/-- `sieve` (R166). -/
def execSieve (_h : CmdHead) (o : SieveOps) (s : State) : Out := atCmd s fun id c => .next (sendRide s id c (cmdStripe s c o.reach))
/-- `fold`: each result lane starts empty (R167). -/
def execFold (_h : CmdHead) (o : RideOps) (s : State) : Out :=
  atCmd s fun id c => .next (sendRide s id { c with fold := List.replicate (o.cm1.toNat + 1) {} } (cmdStripe s c o.reach))

/-- `gather` opens the PT's gather unit (R168). -/
def execGather (_h : CmdHead) (_rid : BitVec 8) (_ort : BitVec 4) (s : State) : Out :=
  atCmd s fun id c =>
    let k := cmdPort c
    .next ((s.setCmd id { c with admitted := true }).setPort k { s.port k with gather := some id, closing := none, window := [], ready := [] })

/-- `kvride` asks the block engine of its stack for admission (R347). -/
def execKvride (_h : CmdHead) (o : KvOps) (s : State) : Out :=
  atCmd s fun id c => if c.underway then .next s else .next (blockRequest (s.setCmd id { c with underway := true }) id o.stack.toNat)

/-- Whether a rider of a command stands at a landing. -/
def hasRider (ld : Landing) (id : Nat) : Bool := ld.riders.any (fun r => r.cmd == id)

/-- Whether any landing holds a rider of a command. -/
def riding (s : State) (id : Nat) : Bool := s.landings.any (fun l => hasRider l.2 id)

/-- Every rider of a command alights (R170, R286, R367). -/
def dropRiders (s : State) (id : Nat) : State :=
  { s with landings := s.landings.mapV (fun _ l => if hasRider l id then { l with riders := l.riders.filter (fun r => r.cmd != id) } else l) }

/-- Members of a ride that have not alighted. -/
def membersLeft (s : State) (id : Nat) (c : Cmd) : Nat := c.pending.length + (s.landings.filter (fun l => hasRider l.2 id)).length

/-- The ride at a command's PT that holds an RID, started and not retired. -/
def rideOf (s : State) (c : Cmd) (rid : BitVec 8) : Option (Nat × Cmd) :=
  s.cmds.find? (fun x => sameStation c x.2 && x.2.phase == .started && cmdCode x.2.word ≤ 5 && cmdRid x.2.word == rid)

/-- An element joins a lane of a `fold`; magnitudes are summed exactly, in units of 2^(-149). -/
def foldAdd (etype : BitVec 4) (fop : BitVec 2) (a : FoldLane) (v : Lane) : FoldLane :=
  if fop == 3 then { a with n := a.n + (if v == 0 || (etype == 2 && v == 0x80000000) then 0 else 1) }
  else if fop == 0 then
    if etype == 2 then
      match Fp.f32.read v.toNat with
      | .nan => { a with nan := true, negz := false }
      | .inf neg => if neg then { a with ninf := true, negz := false } else { a with pinf := true, negz := false }
      | .fin neg m e =>
          let x : Int := m * 2 ^ (e + 149).toNat
          { a with sum := if neg then a.sum - x else a.sum + x, negz := a.negz && m == 0 && neg }
    else { a with sum := a.sum + v.toNat }
  else
    { a with best := match a.best with
        | none => some v
        | some b =>
            some (if etype == 2 then BitVec.ofNat 32 (Fp.minMax Fp.f32 (fop == 2) b.toNat v.toNat)
              else
                let less := if etype == 0 then v.slt b else v.ult b
                let more := if etype == 0 then b.slt v else b.ult v
                if fop == 1 then (if less then v else b) else (if more then v else b)) }

/-- The result of a lane over `n` segments; a minimum or maximum over nothing but NaNs is the canonical NaN (R45, R72). -/
def foldResult (etype : BitVec 4) (fop : BitVec 2) (n : Nat) (a : FoldLane) : Lane :=
  if fop == 3 then BitVec.ofNat 32 a.n
  else if fop == 0 then
    if etype != 2 then BitVec.ofInt 32 a.sum
    else if a.nan || (a.pinf && a.ninf) then 0x7FC00000
    else if a.pinf then 0x7F800000
    else if a.ninf then 0xFF800000
    else if a.sum == 0 then (if a.negz && n != 0 then 0x80000000 else 0)
    else BitVec.ofNat 32 (Fp.round Fp.f32 .rn (a.sum < 0) a.sum.natAbs (-149)).bits
  else
    match a.best with
    | some v => if etype == 2 && Fp.isNan Fp.f32 v.toNat then 0x7FC00000 else v
    | none =>
        if etype == 0 then (if fop == 1 then 0x7FFFFFFF else 0x80000000)
        else if etype == 1 then (if fop == 1 then 0xFFFFFFFF else 0)
        else (if fop == 1 then 0x7F800000 else 0xFF800000)

/-- Once a `fold` has alighted everywhere its PT sends the result token (R167). -/
def foldClose (s : State) (id : Nat) : State :=
  let c := s.cmd id
  if cmdCode c.word == 4 && c.phase == .started && c.underway && !c.extended && c.status != CStat.busy && c.pending.isEmpty && !riding s id then
    let ety : BitVec 4 := Word.field c.word 74 4
    let fop : BitVec 2 := Word.field c.word 50 2
    let rs := (List.range c.fold.length).map (fun i => foldResult ety fop c.taken (c.fold.getD i {}))
    let t : Tok := { tag := (cmdRid c.word).setWidth 16, pay := Word.ofLanes fun i => rs.getD i 0 }
    s.setCmd id { c with extended := true, out := c.out ++ [{ rider := 1536, route := (Word.field c.word 80 4).toNat, tok := t }] }
  else s

/-- Whether a ride has already alighted at every member, so that nothing but tokens on their way is left of it (R170). -/
def alighted (s : State) (id : Nat) (c : Cmd) : Bool :=
  let code := cmdCode c.word
  let p := portAt s c (cmdPort c)
  !riding s id && c.pending.isEmpty &&
    (if code == 2 then p.gather == some id && p.closing.isSome && p.window.isEmpty && p.ready.isEmpty && !p.eddy.any (fun e => e.2.cmd == id)
     else if code == 5 then c.admitted && c.blocks.isEmpty
     else c.underway)

/-- `alight`: the ride ends at every member where it still rides, a gather with the requests it holds; one that has alighted is not affected (R170). -/
def execAlight (_h : CmdHead) (rid : BitVec 8) (s : State) : Out :=
  atCmd s fun id c =>
    match rideOf s c rid with
    | none => .next (s.setCmd id { c with admitted := true, status := CStat.noRider })
    | some (r, x) =>
        let s1 := s.setCmd id { c with admitted := true }
        let code := cmdCode x.word
        if alighted s r x then .next s1
        else
          let y := { x with admitted := true, underway := true, status := CStat.aborted, early := x.early + membersLeft s r x, pending := [], blocks := [] }
          let s2 := dropRiders (s1.setCmd r y) r
          let k := cmdPort c
          let p := portAt s2 c k
          let gone := (p.window ++ p.ready).map (·.access) ++ (p.eddy.vals.filter (fun e => e.cmd == r)).map (·.access)
          let s2 := gone.foldl accDone s2
          let left := p.eddy.keep (fun _ e => e.cmd != r)
          .next (if code == 2 then setPortAt s2 c k { p with window := [], ready := [], eddy := left }
                 else if code == 4 then foldClose s2 r
                 else { setPortAt s2 c k { p with eddy := left } with
                   bases := s2.bases.mapV (fun _ b => { b with reqs := b.reqs.filter (· != .cmd r) }) })

/-! ### Updates (R171, R172) -/

/-- Tokens an update command takes (R171). -/
def updTokens (c : Cmd) : Nat := (Word.field c.word 64 10).toNat + 1

/-- Whether a command is an update command. -/
def isUpd (c : Cmd) : Bool := 0x10 ≤ cmdCode c.word && cmdCode c.word ≤ 0x13

/-- An update command takes tokens once every update command started before it at its PT has taken its last (R172). -/
def updStart (s : State) : Out :=
  atCmd s fun id c =>
    if startedAt s c (fun _ x => x.order < c.order && isUpd x && x.taken < updTokens x) then .next (s.setCmd id { c with underway := true })
    else .next (s.setCmd id { c with admitted := true })

/-- `upd.w` (R172). -/
def execUpdW (_h : CmdHead) (_o : UpdOps) (s : State) : Out := updStart s
/-- `upd.add` (R172). -/
def execUpdAdd (_h : CmdHead) (_o : UpdOps) (s : State) : Out := updStart s
/-- `upd.max` (R172). -/
def execUpdMax (_h : CmdHead) (_o : UpdOps) (s : State) : Out := updStart s
/-- `upd.scadd` (R172). -/
def execUpdScadd (_h : CmdHead) (_o : UpdOps) (s : State) : Out := updStart s

/-! ### Copies and tiers (R174, R175, R342) -/

/-- `copy`: the engine rides the source as a snapshot (R174). -/
def execCopy (_h : CmdHead) (o : CopyOps) (s : State) : Out := atCmd s fun id c => .next (sendRide s id c (cmdStripe s c o.sreach))

/-- `pagein`: the entry must be far; TRANSIT is set (R175, R342). -/
def execPagein (_h : CmdHead) (o : PageOps) (s : State) : Out :=
  atCmd s fun id c =>
    let v := o.vpn.toNat
    match mapFind s c.ctx v with
    | some (_, e) =>
        if MapEntry.far e && !MapEntry.transit e then
          .next ((mapSet s c.ctx v (fun e => MapEntry.moved e true true)).setCmd id { c with admitted := true, underway := true })
        else .next (s.setCmd id { c with admitted := true, status := CStat.wrongTier })
    | none => .next (s.setCmd id { c with admitted := true, status := CStat.wrongTier })

/-- `pageout`: the entry must be near; once no cache holds it TRANSIT is set, and the engine rides the stripe page as a snapshot (R175, R336, R342). -/
def execPageout (_h : CmdHead) (o : PageOps) (s : State) : Out :=
  atCmd s fun id c =>
    let v := o.vpn.toNat
    match mapFind s c.ctx v with
    | some (_, e) =>
        if MapEntry.far e || MapEntry.transit e then .next (s.setCmd id { c with admitted := true, status := CStat.wrongTier })
        else if cached s c.ctx v then .next s
        else .next (sendRide (mapSet s c.ctx v (fun e => MapEntry.moved e false true)) id c (cmdStripe s c (MapEntry.crn e)))
    | none => .next (s.setCmd id { c with admitted := true, status := CStat.wrongTier })

/-! ### Block commands (R177, R178, R345, R346) -/

/-- A block command is done with a status. -/
def blockDone (s : State) (stack : Nat) (b : Stack) (id : Nat) (c : Cmd) (st : Nat) : Out :=
  .next ((setEngine s stack b).setCmd id { c with admitted := true, status := st })

/-- A block command whose turn it is at its engine: the engine without the request. What it names may have come to belong to another context since it was accepted: it is DENIED (R333). A table that is evicted is first restored; with no room for that the command retires TABLE_FULL. -/
def atBlockCmd (s : State) (stack seqid : Nat) (go : Nat → Cmd → Stack → Out) : Out :=
  atCmd s fun id c =>
    let b := s.base stack
    match cmdReqIdx b id with
    | none => .next s
    | some i =>
        if !reqTurn s b i then .next s
        else
          let rest := { b with reqs := b.reqs.eraseIdx i }
          if cmdForeign s c.ctx c.word then blockDone s stack rest id c CStat.denied
          else if (needsRestore s b (.cmd id)).isSome then
            (if (restoreTable b seqid).isSome then .next (beginRestore s stack seqid)
             else .next ((s.setBase stack rest).setCmd id { c with admitted := true, status := CStat.tableFull }))
          else go id c rest

/-- The groups a `bseq` names (R177). -/
def bseqGroups (o : BseqOps) : List Nat := (List.range (o.gnm1.toNat + 1)).map (fun i => o.g0.toNat + i)

/-- Empty leaves for groups, added to those present. -/
def addGroups (m : Map Group) (gs : List Nat) (policy : BitVec 4) : Map Group := gs.foldl (fun m g => m.put g { policy := policy }) m

/-- `bseq.new` (R177, R333, R346). -/
def execBseqNew (_h : CmdHead) (o : BseqOps) (s : State) : Out :=
  let st := o.stack.toNat
  atCmd s fun id c =>
    let b := s.base st
    match cmdReqIdx b id with
    | none => .next s
    | some i =>
        if !reqTurn s b i then .next s
        else
          let rest := { b with reqs := b.reqs.eraseIdx i }
          if cmdForeign s c.ctx c.word then blockDone s st rest id c CStat.denied
          else if (anyTable b o.seqid.toNat).isSome then blockDone s st rest id c CStat.exist
          else match recordRoom rest o.seqid.toNat with
          | none => blockDone s st rest id c CStat.tableFull
          | some b1 =>
              let t : SeqTable := { ctx := c.ctx, pool := o.pool.toNat, used := b1.uses, groups := addGroups [] (bseqGroups o) o.policy }
              blockDone s st { b1 with seqs := b1.seqs.put o.seqid.toNat t, uses := b1.uses + 1 } id c 0

/-- `bseq.restore` (R177, R346). -/
def execBseqRestore (_h : CmdHead) (o : BseqOps) (s : State) : Out :=
  atBlockCmd s o.stack.toNat o.seqid.toNat fun id c b =>
    match b.seqs.get? o.seqid.toNat with
    | none => blockDone s o.stack.toNat b id c CStat.noSeq
    | some t => blockDone s o.stack.toNat { b with seqs := b.seqs.put o.seqid.toNat { t with used := b.uses }, uses := b.uses + 1 } id c 0

/-- `bseq.addg` (R177). -/
def execBseqAddg (_h : CmdHead) (o : BseqOps) (s : State) : Out :=
  atBlockCmd s o.stack.toNat o.seqid.toNat fun id c b =>
    match b.seqs.get? o.seqid.toNat with
    | none => blockDone s o.stack.toNat b id c CStat.noSeq
    | some t =>
        if (bseqGroups o).any t.groups.has then blockDone s o.stack.toNat b id c CStat.exist
        else
          let t1 := { t with groups := addGroups t.groups (bseqGroups o) o.policy, used := b.uses }
          blockDone s o.stack.toNat { b with seqs := b.seqs.put o.seqid.toNat t1, uses := b.uses + 1 } id c 0

/-- The first group of a table that holds a block. -/
def fullGroup (t : SeqTable) : Option (Nat × Group) := t.groups.find? (fun g => !g.2.leaf.isEmpty)

/-- `bdrop`: one block is freed at each step, then the table goes (R177, R178). -/
def execBdrop (_h : CmdHead) (seqid : BitVec 20) (stack : BitVec 5) (s : State) : Out :=
  let st := stack.toNat
  let q := seqid.toNat
  atBlockCmd s st q fun id c b =>
    match b.seqs.get? q with
    | none => blockDone s st b id c CStat.noSeq
    | some t =>
        match fullGroup t with
        | none => blockDone s st { b with seqs := b.seqs.del q, dropping := b.dropping.filter (· != q) } id c 0
        | some (g, x) =>
            let leaf := x.leaf.drop 1
            let b1 := poolMark (s.base st) t.pool (x.leaf.headD 0).toNat false
            let x1 := { x with leaf := leaf, frame := if leaf.isEmpty then 0x7FF else x.frame }
            let s1 := s.setBase st { b1 with seqs := b1.seqs.put q { t with groups := t.groups.put g x1 }, dropping := q :: b1.dropping.filter (· != q) }
            .next (s1.setCmd id { c with detail := c.detail + 1 })

/-! ### Stream binding (R179-R182) -/

/-- BASE of a PT's unit section (R26). -/
def unitBase (t : Tile) : BitVec 56 := Word.field (t.units.headD 0) 0 56

/-- `bind` with the counters it starts from; it notes how many streams its sink has already ended. -/
def bindFrom (s : State) (o : BindOps) (start : Bool) : Out :=
  atCmd s fun id c =>
    let k := cmdPort c
    let p := s.port k
    let sink := regionTile (s.region (s.regionOf k)) o.stile.toNat
    let p1 := { p with gen := some id, base := if o.base == 0 then unitBase (s.tile k) else o.base, stopAt := none }
    let p2 := if start then { p1 with lc := [0, 0, 0, 0], sent := 0 } else p1
    .next ((s.setPort k p2).setCmd id { c with admitted := true, sentAt := (s.slot sink o.sslot.toNat).eoses })

/-- `bind.start` (R179). -/
def execBindStart (_h : CmdHead) (o : BindOps) (s : State) : Out := bindFrom s o true
/-- `bind.resume` (R179). -/
def execBindResume (_h : CmdHead) (o : BindOps) (s : State) : Out := bindFrom s o false

/-- `unbind`: an idle generator is stopped already, a running one stops at the end of its outermost iteration (R180). -/
def execUnbind (_h : CmdHead) (s : State) : Out :=
  atCmd s fun id c =>
    let p := s.port (cmdPort c)
    match p.gen with
    | none => .next (s.setCmd id { c with admitted := true, extended := true, detail := p.lc.getD 0 0, detail2 := p.lc.getD 1 0 })
    | some _ => if p.stopAt.isSome then .next (s.setCmd id { c with underway := true }) else .next ((s.setCmd id { c with admitted := true }).setPort (cmdPort c) { p with stopAt := some id })

/-- `eos` (R182). -/
def execEos (_h : CmdHead) (ort : BitVec 4) (tag : Tag) (s : State) : Out :=
  atCmd s fun id c => .next (s.setCmd id { c with admitted := true, out := [{ rider := 1536, route := ort.toNat, tok := { tt := .eos, tag := tag } }] })

/-! ### Markers, fences, configuration, counters (R183-R186) -/

/-- The routes a mask names: every valid route when it is 0 (R183). -/
def maskRoutes (t : Tile) (m : BitVec 16) : List Nat := t.routes.keys.filter (fun r => m == 0 || Word.bit m r)

/-- Every landing of every reach of a context (R301). -/
def ctxLandings (s : State) (c : Nat) : List PcKey :=
  (s.landings.keep (fun _ l => l.reaches.any (fun e => Reach.valid e.2 && !Reach.device e.2 && !Reach.backwater e.2 && Reach.ctx e.2 == c))).keys

/-- Whether an element of a gather or a `kvride` that arrived at a PT in a round is diverted there, or is about to be (R303). -/
def roundDiverted (s : State) (k : TileKey) (r : Nat) : Bool :=
  (s.port k).eddy.any (fun e => e.2.round ≤ r)
  || s.cmds.any (fun c => c.2.station == .port k && c.2.away.isNone && c.2.phase == .started && c.2.blocks.any (fun b => b.held && b.pa.isNone && b.round ≤ r))
  || ((s.port k).gather.isSome && ((s.tile k).ports.get? 0x31).any (fun p => p.tok.tt == .fault && p.round ≤ r))

/-- `tempo`: a marker for each route, and in tempo mode the round marks, once no element of the round is still diverted (R183, R298, R301, R303). -/
def execTempo (_h : CmdHead) (round : BitVec 32) (m : BitVec 16) (s : State) : Out :=
  atCmd s fun id c =>
    let k := cmdPort c
    let mode := s.launchFlag c.launch 1
    let out : List Leaving := (maskRoutes (s.tile k) m).map (fun r => { rider := 1536, route := r, tok := { tt := .tempo, pay := round.setWidth 512 } })
    if mode && roundDiverted s k round.toNat then .next (s.setCmd id { c with underway := true })
    else
      let s1 := { s.setCmd id { c with admitted := true, out := out, pending := if mode then ctxLandings s c.ctx else [], sentAt := s.sends } with sends := s.sends + 1 }
      .next (if mode then s1.setPort k { s.port k with cr := round.toNat + 1 } else s1)

/-- `drain` (R183). -/
def execDrainCmd (_h : CmdHead) (m : BitVec 16) (s : State) : Out :=
  atCmd s fun id c =>
    .next (s.setCmd id { c with admitted := true, out := (maskRoutes (s.tile (cmdPort c)) m).map (fun r => { rider := 1536, route := r, tok := { tt := .drain } }) })

/-- `fence.e`: what it waits for it has waited for before it started (R184). -/
def execFenceE (_h : CmdHead) (_eng : Bool) (s : State) : Out := atCmd s fun id c => .next (s.setCmd id { c with admitted := true })

/-- `cfgld`: the staging buffer of a die holds one block for each region (R185). -/
def execCfgld (h : CmdHead) (block : BitVec 12) (s : State) : Out :=
  atCmd s fun id c =>
    match (s.kernelOf c.launch).blocks.get? block.toNat with
    | none => .next (s.setCmd id { c with admitted := true, status := CStat.cfg })
    | some b =>
        let r := ((s.launch c.launch).regions.getD b.region 0)
        let s1 := s.setCmd id { c with admitted := true }
        .next { s1 with staging := s1.staging.upd h.die.toNat [] (fun l => (r, block.toNat) :: l.filter (fun x => x.1 != r)) }

/-- Whether a tile holds a `stat` node. -/
def hasStat (t : Tile) : Bool := t.slots.any (fun x => Word.field x.2.word 56 8 == (0xE3 : BitVec 8))

/-- The tiles whose counters `statc` takes: those of the region without a `stat` node (R186). -/
def statTiles (s : State) (r : Nat) : List (TileKey × Tile) := (tilesOf s r).filter (fun t => !hasStat t.2)

/-- Counters summed over tiles, lane by lane, with saturation (R186). -/
def statSum (ts : List (TileKey × Tile)) (i : Nat) : BitVec 32 := ts.foldl (fun a t => satAdd a (t.2.counts.getD i 0)) 0

/-- Reset the counters of tiles. -/
def statReset (s : State) (ts : List (TileKey × Tile)) : State := ts.foldl (fun x t => x.setTile t.1 { x.tile t.1 with counts := [] }) s

/-- What orders a command's updates in a tempo round: die, PT index, issue number, token index (R300). -/
def tempoKey (c : Cmd) (token : Nat) : List Nat :=
  let i := match c.origin with
    | .seq _ i => i.toNat
    | _ => 0
  [(Word.field c.word 104 4).toNat, (Word.field c.word 96 8).toNat, i, token]

/-- The round an update of a command belongs to: the PT's CR, in tempo mode (R301). -/
def cmdRound (s : State) (c : Cmd) : Option Nat := if s.launchFlag c.launch 1 then some (s.port (cmdPort c)).cr else none

/-- `statc`: the region's counters become one posted update (R186); beyond the tempo-held updates a landing takes, the PT traps (R301). -/
def execStatc (_h : CmdHead) (reach : BitVec 4) (seg : BitVec 24) (s : State) : Out :=
  atCmd s fun id c =>
    match Stripe.place (cmdStripe s c reach) seg.toNat with
    | none => .next (s.setCmd id { c with admitted := true, status := CStat.range })
    | some (m, loc) =>
        let k := cmdPort c
        if !weirRoom s m.pc 1 || (s.port k).qStopped then .next (s.setCmd id { c with underway := true })
        else if (cmdRound s c).isSome && 2048 ≤ tempoHeldAt s m.pc then
          .next (raiseTrap s (unitSite s k 0x30 0 none) causeTempoWeir ((tempoKey c 0).getD 2 0 % 4096))
        else
          let ts := statTiles s c.region
          let u : Weir := { cmd := id, slot := m.slot, seg := loc, word := 0, op := .add, ety := 1
                            vals := (List.range 16).map (fun i => if i < 11 then statSum ts i else 0), stamp := 0
                            round := cmdRound s c, key := tempoKey c 0 }
          let s1 := (statReset s ts).setCmd id { c with admitted := true, posted := 1, flight := [(s.sends, m.pc, u)] }
          .next { s1 with sends := s.sends + 1 }

/-! ### Retiring (R159-R161) -/

/-- The ORT of a ride (R163, R166-R169). -/
def rideRoute (c : Cmd) : Nat := if cmdCode c.word == 5 then (Word.field c.word 53 4).toNat else (Word.field c.word 80 4).toNat

/-- Whether a token of a ride has not yet been accepted by its sink: it stands in a hop of its route, at the channel where that ends, or before a sequencer FIFO without room (R21, R195, R273, R310). -/
def onRoute (s : State) (id : Nat) (c : Cmd) : Bool :=
  let mine := fun (t : Tok) => t.ride == some id
  let at_ := tileAt s c (cmdPort c)
  let rt := at_.routes.getD (rideRoute c) {}
  let t := tileAt s c (regionTile (s.region (at_.region.getD 0)) (routeTile rt.entry))
  let ch := t.chans.getD (routeDvc rt.entry).toNat {}
  rt.hops.any (fun h => h.any mine) || ch.arrived.any mine || ch.parts.any (fun p => mine p.tok)
    || (match ch.dst with
        | .port p => 0x40 ≤ p && p ≤ 0x47 && (t.ports.get? p.toNat).any (fun p => mine p.tok)
        | _ => false)

/-- Whether everything a command waits for has come about. -/
def cmdFinished (s : State) (id : Nat) (c : Cmd) : Bool :=
  let code := cmdCode c.word
  let applied := c.flight.isEmpty && c.posted == c.applied
  let rode := c.underway && c.pending.isEmpty && !riding s id && c.out.isEmpty && !(code < 5 && onRoute s id c)
  c.admitted && !c.stopped &&
  (if code == 2 then
     let p := s.port (cmdPort c)
     let ort := (Word.field c.word 80 4).toNat
     c.out.isEmpty
       && (c.status == CStat.aborted || (p.closing.isSome && p.window.isEmpty && p.ready.isEmpty && !(p.eddy.any (fun e => e.2.cmd == id)) && !riding s id))
       && (p.closing.isNone || (routeFree (s.tile (cmdPort c)) ort && !routeTaken s id ort))
   else if code == 5 then c.blocks.isEmpty && !riding s id && c.out.isEmpty && !onRoute s id c
   else if code == 4 then rode && (c.extended || c.status == CStat.busy)
   else if code < 5 then rode
   else if isUpd c then c.taken == updTokens c && applied
   else if code == 0x18 then rode && applied
   else if code == 0x19 then (c.status == CStat.wrongTier || c.status == CStat.netErr || (c.taken == 32768 && applied))
   else if code == 0x1A then (c.status == CStat.wrongTier || c.status == CStat.netErr || (rode && c.extended))
   else if code == 0x28 then
     let k := cmdPort c
     let sink := regionTile (s.region (s.regionOf k)) (Word.field c.word 27 11).toNat
     c.sentAt < (s.slot sink (Word.field c.word 22 5).toNat).eoses
   else if code == 0x29 then c.extended
   else if code == 0x2A || code == 0x30 || code == 0x31 then c.out.isEmpty
   else if code == 0x34 then applied
   else true)

/-- The status a command retires with (R159). -/
def cmdStatus (c : Cmd) : Nat :=
  let code := cmdCode c.word
  if c.status == 0 && c.missed != 0 && (code < 2 || code == 3 || code == 4 || code == 5 || code == 0x18) then CStat.slipped else c.status

/-- DETAIL and DETAIL2 of a command's completion (R165-R186). DESIGN CHOICE (log 159): DETAIL of a `bind` is LC0, which R179 does not say. -/
def cmdDetails (s : State) (c : Cmd) : Nat × Nat :=
  let code := cmdCode c.word
  let cut := c.status == CStat.fenced || c.status == CStat.aborted
  if c.status == CStat.busy then (0, 0)
  else if code == 2 then (c.taken, c.missed)
  else if code ≤ 5 || code == 0x18 then (c.taken, (if cut then c.early else c.missed) + c.lost)
  else if isUpd c then (c.applied, c.missed + c.lost)
  else if code == 0x28 then ((s.port (cmdPort c)).lc.getD 0 0, 0)
  else (c.detail, c.detail2 + c.lost)

/-- The eddy entries that a completed `pagein` releases: those of the context that hold a TIER_MISS element of the page (R342). -/
def holdsPage (vpn : Nat) (e : Eddy) : Bool :=
  if e.kv then (Word.a64 e.body 0).toNat == vpn && e.cls == 3
  else (List.range 8).any (fun i => Word.field (Word.a64 e.body i) 60 4 == (3 : BitVec 4) && vaVpn (Word.a64 e.body i) == vpn)

/-- Send a device resume token to every eddy entry of a context that a page released; a saved launch's entries keep the release (R342, R351). -/
def releasePage (s : State) (c vpn : Nat) : State × Nat :=
  let hits := fun (p : PortUnit) => (p.eddy.keep (fun _ e => holdsPage vpn e && (s.cmd e.cmd).ctx == c)).keys
  let near := s.ports.foldl (fun n p => n + (hits p.2).length) 0
  let kept := s.saved.foldl (fun n x => n + x.2.ports.foldl (fun n p => n + (hits p.2).length) 0) 0
  ({ s with ports := s.ports.mapV (fun _ p => { p with resumes := p.resumes ++ hits p })
            saved := s.saved.mapV (fun _ x => { x with releases := x.releases ++ x.ports.flatMap (fun p => (hits p.2).map (fun e => (p.1, e))) }) },
   near + kept)

/-- What the end of a command does at its units: a page move settles the map entry, a gather unit closes and passes its end-of-stream token on, a scale pair is given up (R168, R283, R342). -/
def cmdEnd (s : State) (id : Nat) (c : Cmd) : State × Nat :=
  let code := cmdCode c.word
  if code == 0x19 && c.status != CStat.wrongTier then
    let v := (Word.field c.word 61 35).toNat
    if c.status == CStat.netErr || c.status == CStat.fenced then (mapSet s c.ctx v (fun e => MapEntry.moved e true false), 0)
    else releasePage (mapSet s c.ctx v (fun e => MapEntry.moved e false false)) c.ctx v
  else if code == 0x1A && c.status != CStat.wrongTier then
    (mapSet s c.ctx (Word.field c.word 61 35).toNat (fun e => MapEntry.moved e (c.status != CStat.netErr && c.status != CStat.fenced) false), 0)
  else if code == 2 then
    let k := cmdPort c
    let p := s.port k
    let s1 := s.setPort k { p with gather := none, closing := none, window := [], ready := [] }
    (match p.closing with
     | some t => deliver s1 k (.route (Word.field c.word 80 4)) { tok := t }
     | none => s1, 0)
  else if code == 0x13 then
    ({ s with landings := s.landings.mapV (fun _ l => if l.pairs.contains id then { l with pairs := l.pairs.filter (· != id) } else l) }, 0)
  else (s, 0)

/-- LOADs whose reach data has been applied make their kernel resident, and complete (R219, R227). -/
def settleLoads (s : State) : State :=
  s.queues.foldl (fun z q =>
    let ended := fun (x : LoadWrite) => x.cmds.all (fun i => let c := z.cmd i; c.phase == .done || (c.flight.isEmpty && c.posted == c.applied))
    (q.2.writing.filter ended).foldl (fun y x =>
      completePacket { (y.setQueue q.1 { y.queue q.1 with writing := (y.queue q.1).writing.filter (· != x) }) with kernels := y.kernels.put x.handle x.kernel }
        q.1 x.ticket { status := Status.ok, result := x.handle, start := x.start }) z) s

/-- COMMAND_RETIRE: a finished command performs its release, and then gives its completion token to GVQ, or, having failed with GV = 0, is noted for its sequencer's CMD_FAIL; the `bind` of a BIND packet completes the packet (R29, R159-R161, R328). -/
def execCommandRetire (s : State) : Out :=
  match s.focus with
  | .cmd id =>
      let c := s.cmd id
      let h := decodeHead c.word
      if !s.cmds.has id then .fault .noAgent
      else if c.phase != .started || ((cmdCode c.word == 2 || cmdCode c.word == 0x28) && !cmdLive s c) || !cmdFinished s id c then .next s
      else
        let st := cmdStatus c
        let e := cmdEnd (s.setCmd id { c with phase := .done, out := [] }) id c
        let d := if cmdCode c.word == 0x19 then (e.2, c.lost) else cmdDetails s c
        if h.rel && !released e.1 c.hb h.scope then .next s
        else match c.origin with
        | .seq k issue =>
            if h.gv then .next (offerCompletion e.1 c.launch c.station k h.gvq.toNat ((completionTok c.word issue st d.1 d.2).after c.hb))
            else if st == 0 || st == CStat.slipped then .next e.1
            else
              let q := seqIn e.1 c.launch k
              .next (seqFail (setSeqIn e.1 c.launch k { q with fails := q.fails ++ [(BitVec.ofNat 32 st, issue)] }) c.launch k)
        | .packet q ticket =>
            let start := ((s.queue q).opens.find? (fun o => o.ticket == ticket)).elim 0 (fun o => o.started)
            .next (completePacket e.1 q ticket { status := Status.ok, result := d.1, start := start })
        | .firmware => .next (settleLoads e.1)
  | _ => .fault .noAgent

end Sys2Proof.Machine
end

