-- ==== Sys2Proof/Machine/Rides.lean ====
section
/-! DEFINITION. Rides (11 R270-R281, R284, R285): reservations and boarding, the tokens of a segment, and what a visit gives to a rider. -/

namespace Sys2Proof.Machine

/-! ### What a ride covers (R163, R166, R174, R342) -/

/-- The stripe and the window of a ride, and whether it alights once its window is exhausted. -/
structure Course where
  ms    : List Member
  lo    : Nat
  hi    : Nat
  early : Bool
  deriving DecidableEq, Repr

/-- The course of a ride command. -/
def course (s : State) (c : Cmd) : Course :=
  let code := cmdCode c.word
  let ms := stripe s c.ctx (Word.field c.word 92 4)
  if code == 0x18 then
    let lo := (Word.field c.word 64 24).toNat
    { ms := ms, lo := lo, hi := lo + (Word.field c.word 16 24).toNat + 1, early := true }
  else if code == 0x1A then
    match mapFind s c.ctx (Word.field c.word 61 35).toNat with
    | some (_, e) =>
        let p := stripe s c.ctx (MapEntry.crn e)
        let n := 2 ^ 21 / Stripe.g p
        { ms := p, lo := MapEntry.page e * n, hi := (MapEntry.page e + 1) * n, early := true }
    | none => { ms := [], lo := 0, hi := 0, early := true }
  else if code != 3 && Word.bit c.word 79 then
    { ms := ms, lo := (Word.field c.word 24 24).toNat, hi := (Word.field c.word 0 24).toNat, early := Word.bit c.word 78 }
  else { ms := ms, lo := 0, hi := Stripe.len ms, early := false }

/-- Whether a stripe segment lies in a ride's window. -/
def Course.has (x : Course) (seg : Nat) : Bool := x.lo ≤ seg && seg < x.hi

/-- Whether one of the next `n` local segments of a member from `loc` on lies in the window (R272). -/
def Course.ahead (x : Course) (rank lm loc n : Nat) : Bool := (List.range n).any (fun d => x.has (Stripe.segAt x.ms rank ((loc + d) % Nat.max 1 lm)))

/-! ### Reservations (R270, R271) -/

/-- Whether a ride's riders have snapshot semantics: `board.snap`, `copy`, `pageout` (R275, R342). -/
def snapRide (c : Cmd) : Bool := cmdCode c.word == 0x01 || cmdCode c.word == 0x18 || cmdCode c.word == 0x1A

/-- Whether a command rides a stripe. -/
def isRide (c : Cmd) : Bool :=
  let code := cmdCode c.word
  (code < 5 && code != 2) || code == 0x18 || code == 0x1A

/-- The slot of a landing that holds a ride's member there. -/
def memberSlot (s : State) (c : Cmd) (pc : PcKey) : Nat := (((course s c).ms.find? (fun m => m.pc == pc)).map (fun m => m.slot)).getD 0

/-- RIDE_RESERVE: a landing reserves one of its 64 entries for a ride, or refuses; behind a fenced link the member counts as alighted (R270, R271, R375). -/
def execRideReserve (s : State) : Out :=
  match s.focus with
  | .cmdAt id pc =>
      let c := s.cmd id
      if !s.cmds.has id then .fault .noAgent
      else if c.phase != .started || !isRide c || !c.admitted || !c.pending.contains pc || earlierSent s c.station pc c.sentAt then .next s
      else
        let x := { c with pending := c.pending.erase pc }
        let ld := s.landing pc
        if fencedPc s pc then .next (s.setCmd id { x with early := x.early + 1, status := if x.status == 0 then CStat.fenced else x.status })
        else if 64 ≤ ld.riders.length then .next (s.setCmd id { x with status := CStat.busy })
        else
          let r : Rider := { cmd := id, slot := memberSlot s c pc, kind := if snapRide c then .snap else .flow }
          .next ((s.setLanding pc { ld with riders := ld.riders ++ [r] }).setCmd id { x with reserved := pc :: x.reserved })
  | _ => .fault .noAgent

/-- RIDE_COMMIT: every member has answered. A refusal cancels the ride, which retires BUSY, but for a page move, which asks again; otherwise every rider may board (R165, R271). -/
def execRideCommit (s : State) : Out :=
  match s.focus with
  | .cmd id =>
      let c := s.cmd id
      if !s.cmds.has id then .fault .noAgent
      else if c.phase != .started || !isRide c || !c.admitted || c.underway || !c.pending.isEmpty || c.status == CStat.wrongTier then .next s
      else if c.status == CStat.busy then
        (let s1 := dropRiders s id
         if cmdCode c.word == 0x1A then .next (s1.setCmd id { c with status := 0, early := 0, pending := c.members, reserved := [] })
         else .next (s1.setCmd id { c with underway := true }))
      else
        let s1 := { s with landings := s.landings.mapV (fun _ l =>
          if hasRider l id then { l with riders := l.riders.map (fun (r : Rider) => if r.cmd == id then { r with commit := true } else r) } else l) }
        .next (foldClose (s1.setCmd id { c with underway := true }) id)
  | _ => .fault .noAgent

/-! ### Wanted slices of a `kvride` (R277, R341) -/

/-- Units of 64 bytes of a `kvride`'s slice (R169). -/
def kvUnits (c : Cmd) : Nat := (Word.field c.word 4 10).toNat + 1

/-- Where a unit of a block lies. -/
def kvPlace (s : State) (c : Cmd) (b : KvBlock) (u : Nat) : Option (Member × Nat × Nat) :=
  b.pa.bind (fun pa => paPlace s c.ctx (pa + BitVec.ofNat 64 (64 * u)))

/-- The local segments that a block's units not yet collected need at one landing: slot and local segment, each once. -/
def kvSegs (s : State) (c : Cmd) (b : KvBlock) (pc : PcKey) : List (Nat × Nat) :=
  ((List.range (kvUnits c)).filterMap (fun u =>
    if b.data.has u then none
    else match kvPlace s c b u with
      | some (m, loc, _) => if m.pc == pc then some (m.slot, loc) else none
      | none => none)).dedup

/-- Wanted entries of a slice: where the cursor is inside it, its segments from the cursor on wait for the next lap (R277). -/
def kvWant (ld : Landing) (segs : List (Nat × Nat)) : List (Nat × Nat × Nat) :=
  let inside := segs.any (fun x => x.2 < (ld.cursors.getD x.1 (0, 0)).1) && segs.any (fun x => (ld.cursors.getD x.1 (0, 0)).1 ≤ x.2)
  segs.map (fun x => (x.1, x.2, if inside && (ld.cursors.getD x.1 (0, 0)).1 ≤ x.2 then 1 else 0))

/-! ### Boarding (R271, R272, R276, R277, R280) -/

/-- Whether a landing holds a held update for a reach (R279, R280). -/
def heldAt (s : State) (ld : Landing) (slot : Nat) : Bool := ld.weir.any (fun w => w.slot == slot && !eligible s ld w)

/-- Local segments of a reach slot. -/
def slotLen (ld : Landing) (slot : Nat) : Nat := Reach.lseg (ld.reaches.getD slot 0)

/-- RIDER_BOARD: a committed rider boards at a visit boundary; a snapshot rider only while no update of its reach is held. A member that holds no segment of an EARLY window alights at once (R271, R272, R280). -/
def execRiderBoard (s : State) : Out :=
  match s.focus with
  | .landing pc i =>
      let ld := s.landing pc
      (match ld.riders[i]? with
       | none => .fault .noAgent
       | some r =>
           let c := s.cmd r.cmd
           if !r.commit || r.on || (r.kind == .snap && heldAt s ld r.slot) then .next s
           else
             let cur := (ld.cursors.getD r.slot (0, 0)).1
             let lm := slotLen ld r.slot
             let ride := r.kind == .flow || r.kind == .snap
             let want := if r.kind == .kv then (c.blocks.filter (fun b => b.lands.contains pc && !b.dead)).flatMap (fun b => kvWant ld (kvSegs s c b pc)) else r.want
             let x := { r with on := true, start := cur, left := if ride then lm else 0, at_ := ld.order, holds := r.kind == .snap, want := want }
             let co := course s c
             if ride && co.early && !co.ahead (Reach.rank (ld.reaches.getD r.slot 0)) lm cur lm then
               .next (foldClose (s.setLanding pc { ld with riders := ld.riders.eraseIdx i, order := ld.order + 1 }) r.cmd)
             else .next (s.setLanding pc { ld with riders := setAt ld.riders i x, order := ld.order + 1 }))
  | _ => .fault .noAgent

/-! ### The tokens of a segment (R164, R166, R285) -/

/-- A list in pieces of `n`. -/
def chunksOf {α : Type} (n : Nat) (l : List α) : List (List α) :=
  (List.range (Word.ceilDiv l.length n)).map (fun j => (l.drop (n * j)).take n)

/-- Bytes as data tokens of 64 bytes with one header, zero-padded (R164). -/
def byteTokens (tag : Tag) (seq : BitVec 8) (bs : List Byte) : List Tok :=
  (chunksOf 64 bs).map (fun c => { tag := tag, seq := seq, pay := Word.ofBytes 512 c })

/-- The magnitude of a code in another width (R285). -/
def sxRewidth (ms mr : Nat) (c : Nat) : Nat :=
  let sign := c / 2 ^ ms % 2
  let m := c % 2 ^ ms
  let q := if ms ≤ mr then m * 2 ^ (mr - ms)
    else
      let d := 2 ^ (ms - mr)
      let lo := m / d
      let r := m % d
      Nat.min (if 2 * r < d || (2 * r == d && lo % 2 == 0) then lo else lo + 1) (2 ^ mr - 1)
  sign * 2 ^ mr + q

/-- `n` blocks of a segment from byte `off` on, in width `mr`, by the segment's own tag (R285). -/
def sxField (mr : Nat) (tag : BitVec 4) (bs : List Byte) (off n : Nat) : List (BitVec 16 × List Nat) :=
  let zeros := List.replicate 16 0
  if 5 ≤ tag && tag ≤ 7 then
    let sz := etypeBytes tag
    let ms := sxBits tag.toNat
    (List.range n).map (fun i =>
      let x := (bs.drop (off + i * sz)).take sz
      if off + (i + 1) * sz ≤ bs.length then
        (Word.ofBytes 16 (x.take 2), (sxCodes ms (Word.ofBytes 512 (x.drop 2)).toNat).map (sxRewidth ms mr))
      else (0, zeros))
  else (List.range n).map (fun _ => (0xFF00, zeros))

/-- The code fields of blocks, packed from bit 0 on (R51). -/
def sxPacked (m : Nat) (bs : List (BitVec 16 × List Nat)) : Nat :=
  bs.foldr (fun b acc => acc * 2 ^ (16 * (m + 1)) + b.2.foldr (fun c a => a * 2 ^ (m + 1) + c) 0) 0

/-- Blocks as scale tokens and data tokens: one block each, or packed with padding blocks (R51, R164). -/
def sxTokens (ety : BitVec 4) (pk : Bool) (tag : Tag) (seq : BitVec 8) (bs : List (BitVec 16 × List Nat)) : List Tok :=
  let m := sxBits ety.toNat
  let per := if pk then mxPack ety.toNat else 1
  (chunksOf per bs).flatMap (fun c =>
    let full := c ++ List.replicate (per - c.length) (0, List.replicate 16 0)
    [{ tt := .scale, tag := tag, seq := BitVec.ofNat 8 per, pay := BitVec.ofNat 512 (full.foldr (fun b acc => acc * 65536 + b.1.toNat) 0) },
     { tag := tag, seq := seq, pay := BitVec.ofNat 512 (sxPacked m full) }])

/-- The header of a segment's tokens: {TAG, SEQ} is the segment index (R164). -/
def segTagOf (seg : Nat) : Tag := BitVec.ofNat 16 (seg / 256)
/-- SEQ of a segment's tokens. -/
def segSeqOf (seg : Nat) : BitVec 8 := BitVec.ofNat 8 seg

/-- The tokens that `board` delivers of a segment (R163, R164). -/
def boardTokens (s : State) (w : Word128) (m : Member) (loc seg : Nat) : List Tok :=
  let ety : BitVec 4 := Word.field w 74 4
  let off := 4 * (Word.field w 64 10).toNat
  let n := (Word.field w 52 12).toNat + 1
  let bs := segBytes s m loc
  if ety == 8 then byteTokens (segTagOf seg) (segSeqOf seg) bs
  else if ety < 5 then byteTokens (segTagOf seg) (segSeqOf seg) ((bs.drop off).take (n * etypeBytes ety))
  else sxTokens ety (Word.bit w 49) (segTagOf seg) (segSeqOf seg) (sxField (sxBits ety.toNat) (segTag s m loc) bs off n)

/-- The words of a field of a segment. -/
def segWords (s : State) (m : Member) (loc off n : Nat) : List Lane :=
  (List.range n).map (fun i => Mem.load s.dram (segByte m loc (4 * (off + i))) 4 32)

/-- Whether an element matches a `sieve`'s comparison (R166). -/
def sieveHolds (ety : BitVec 4) (cmp : BitVec 3) (x k : Lane) : Bool :=
  if ety == 2 then Fp.cond Fp.f32 cmp x.toNat k.toNat
  else icmpHolds cmp (readInt 32 (ety == 1) x.toNat) (readInt 32 (ety == 1) k.toNat)

/-- The token of a segment that a `sieve` lets through (R166). -/
def sieveTokens (s : State) (w : Word128) (m : Member) (loc seg : Nat) : List Tok :=
  let n := (Word.field w 60 4).toNat + 1
  let xs := segWords s m loc (Word.field w 64 10).toNat n
  let hits := (List.range n).filter (fun i => sieveHolds (Word.field w 74 4) (Word.field w 57 3) (xs.getD i 0) (Word.field w 0 32))
  let mask := hits.foldl (fun a i => a + 2 ^ i) 0
  if hits.isEmpty then []
  else [{ tag := segTagOf seg, seq := segSeqOf seg, pay := Word.ofLanes fun i => if i == 15 then BitVec.ofNat 32 mask else xs.getD i 0 }]

/-- Tokens of a rider still in its delivery buffer (R274). -/
def buffered (c : Cmd) (pc : PcKey) : Nat := (c.out.filter (fun x => x.rider == pc)).length

/-- Whether a delivery buffer takes `n` more tokens. A segment of more than 32 tokens is taken by an empty buffer (log 44). -/
def bufferTakes (have_ n : Nat) : Bool := have_ == 0 || have_ + n ≤ 32

/-- A ride's tokens enter its rider's buffer, or find no room. -/
def takeTokens (c : Cmd) (pc : PcKey) (route count : Nat) (ts : List Tok) : Option Cmd :=
  if bufferTakes (buffered c pc) ts.length then
    some { c with out := c.out ++ ts.map (fun t => { rider := pc, route := route, tok := t }), taken := c.taken + count }
  else none

/-- A `copy` posts a source segment to its destination, one update for each granule, with the segment's format tag (R174). -/
def copySegment (s : State) (id : Nat) (c : Cmd) (m : Member) (loc seg : Nat) : Option State :=
  let dst := stripe s c.ctx (Word.field c.word 88 4)
  let n := Reach.g m.entry / 64
  let d := (Word.field c.word 40 24).toNat + seg - (Word.field c.word 64 24).toNat
  match Stripe.place dst d with
  | none => some s
  | some (x, l) =>
      if bufferTakes (c.flight.filter (fun f => f.2.2.key.head? == some m.pc)).length n then
        let tag := segTag s m loc
        let posts := (List.range n).map (fun g =>
          (s.sends + g, x.pc, { granuleWrite id x.slot l g (Mem.readN s.dram (segByte m loc (64 * g)) 64) tag with key := [m.pc] }))
        some { s.setCmd id { c with flight := c.flight ++ posts, posted := c.posted + n, taken := c.taken + 1 } with sends := s.sends + n }
      else none

/-- The far address of a byte of a page move (R332, R342). -/
def farByte (s : State) (c : Cmd) (o : Nat) : Nat :=
  match (s.ctx c.ctx).farpools.get? (Word.field c.word 45 16).toNat with
  | some p => p.fep.toNat * 2 ^ 64 + (p.fbase.toNat + (Word.field c.word 13 32).toNat * 2 ^ 21 + o) % 2 ^ 64
  | none => 0

/-- A `pageout` writes a source segment to its far page (R342). -/
def pageSegment (s : State) (id : Nat) (c : Cmd) (x : Course) (m : Member) (loc seg : Nat) : State :=
  { s.setCmd id { c with taken := c.taken + 1 } with
    far := Mem.writeN s.far (farByte s c ((seg - x.lo) * Reach.g m.entry)) (segBytes s m loc) }

/-- A `fold` takes a segment's elements into its lanes (R167). -/
def foldSegment (s : State) (c : Cmd) (m : Member) (loc : Nat) : Cmd :=
  let ws := segWords s m loc (Word.field c.word 64 10).toNat c.fold.length
  { c with taken := c.taken + 1, fold := (List.range c.fold.length).map (fun i => foldAdd (Word.field c.word 74 4) (Word.field c.word 50 2) (c.fold.getD i {}) (ws.getD i 0)) }

/-- A segment is offered to a ride; `none` when its buffer lacks room (R274). -/
def rideOffer (s : State) (id : Nat) (x : Course) (m : Member) (loc seg : Nat) : Option State :=
  let c := s.cmd id
  let code := cmdCode c.word
  let ort := (Word.field c.word 80 4).toNat
  if code == 0x18 then copySegment s id c m loc seg
  else if code == 0x1A then some (pageSegment s id c x m loc seg)
  else if code == 4 then some (s.setCmd id (foldSegment s c m loc))
  else if code == 3 then
    let ts := sieveTokens s c.word m loc seg
    (takeTokens c m.pc ort ts.length ts).map (s.setCmd id)
  else (takeTokens c m.pc ort 1 (boardTokens s c.word m loc seg)).map (s.setCmd id)

/-! ### Uncorrectable segments (R362, R369) -/

/-- WORD of a SEG_UE record (R362). -/
def segWord (m : Member) (loc : Nat) : BitVec 64 :=
  (0 : BitVec 16) ++ BitVec.ofNat 5 (m.pc / 64) ++ BitVec.ofNat 6 (m.pc % 64) ++ (0 : BitVec 13) ++ BitVec.ofNat 24 loc

/-- A command that would have received a poisoned segment raises SEG_UE and stops (R369). -/
def raiseSeg (s : State) (id : Nat) (m : Member) (loc seg : Nat) : State :=
  raiseTrap s (cmdSite s id (segWord m loc)) causeSegUe (paOf (Reach.crn m.entry) (seg * Reach.g m.entry))

/-! ### A visit and a rider (R272, R274, R281) -/

/-- What a visit makes of a ride's rider: the segment is delivered, missed, or not for it; a first lap that ends ends a hold; a rider with nothing left alights. -/
def visitRide (s : State) (m : Member) (loc : Nat) (r : Rider) : State × Option Rider :=
  let c := s.cmd r.cmd
  let x := course s c
  let rank := Reach.rank m.entry
  let seg := Stripe.segAt x.ms rank loc
  let first := r.left != 0
  let due := if first then x.has seg else r.want.contains (m.slot, loc, 0)
  let left := r.left - 1
  let y := { r with left := left, holds := r.holds && left != 0 }
  if due && r.dead then (s, some y)
  else if due && segPoisoned s m loc then (raiseSeg s r.cmd m loc seg, some { y with dead := true })
  else
    let z : State × Rider :=
      if !due then (s, y)
      else match rideOffer s r.cmd x m loc seg with
      | some s1 => (s1, { y with want := y.want.filter (· != (m.slot, loc, 0)) })
      | none => (s.setCmd r.cmd { c with missed := c.missed + 1 }, if y.want.contains (m.slot, loc, 0) then y else { y with want := y.want ++ [(m.slot, loc, 0)] })
    let lm := Reach.lseg m.entry
    let over_ := left == 0 || (x.early && !x.ahead rank lm (loc + 1) left)
    (z.1, if over_ && z.2.want.isEmpty && !r.dead then none else some z.2)

end Sys2Proof.Machine
end

