-- ==== Sys2Proof/Machine/Gather.lean ====
section
/-! DEFINITION. The gather unit (11 R276), `kvride` (06 R169; 11 R277; 15 R341, R347), the eddy queue and its resumption (15 R337-R340, R343; 12 R303). -/

namespace Sys2Proof.Machine

/-! ### Wanted lists (R276, R277) -/

/-- Ask a command's rider at a landing for segments, creating the rider if it has none; `none` where the landing has no free entry, where the list of a gather rider is full, or while something that the port sent earlier is still on its way there (R157, R276, R278). -/
def addWants (s : State) (id : Nat) (kind : RideKind) (pc : PcKey) (ws : List (Nat × Nat × Nat)) : Option State :=
  let ld := s.landing pc
  let mine := fun (r : Rider) => r.cmd == id && r.kind == kind
  let late := earlierSent s (s.cmd id).station pc s.sends
  match ld.riders.find? mine with
  | some r =>
      let new := ws.filter (fun w => !(r.want.any (fun x => x.1 == w.1 && x.2.1 == w.2.1)))
      if !new.isEmpty && (late || (kind == .gather && 256 < r.want.length + new.length)) then none
      else some (s.setLanding pc { ld with riders := ld.riders.map (fun (x : Rider) => if mine x then { x with want := x.want ++ new } else x) })
  | none =>
      if late || 64 ≤ ld.riders.length then none
      else
        let slot := (ws.headD (0, 0, 0)).1
        some (s.setLanding pc { ld with riders := ld.riders ++ [{ cmd := id, slot := slot, kind := kind, commit := true, want := ws }] })

/-! ### Where a route of a PT ends (R339) -/

/-- Whether the slot at which a route of a command's PT ends is marked COMMUTE (R339). -/
def routeCommutes (s : State) (c : Cmd) (route : Nat) : Bool :=
  let at_ := tileAt s c (cmdPort c)
  match at_.routes.get? route with
  | none => false
  | some r =>
      match routeDst r.entry with
      | .latch _ n => ((tileAt s c (regionTile (s.region (at_.region.getD 0)) (routeTile r.entry))).slots.getD n.toNat {}).commute
      | _ => false

/-! ### Replies (R168, R276, R339) -/

/-- Acceptance numbers of diverted requests of a gather that have not replied. -/
def divertedOrders (p : PortUnit) (id : Nat) : List Nat :=
  ((p.eddy.vals.filter (fun e => !e.kv && e.cmd == id)).map (fun e => e.order))
    ++ (((p.window ++ p.ready).filter (fun r => r.diverted)).map (fun r => r.order))

/-- The reply of a request (R168). -/
def replyTok (r : Req) : Tok := { tag := r.tag, seq := r.seq, pay := Word.ofA64 fun i => r.got.getD i 0, hb := r.hb }

/-- Replies that may leave do so, up to `fuel` of them: unless the ride's slot has COMMUTE, none passes a diverted request accepted before it (R339). -/
def flushReplies (s : State) (k : TileKey) (id : Nat) : Nat → State
  | 0 => s
  | fuel + 1 =>
      let c := s.cmd id
      let p := portAt s c k
      let ort := (Word.field c.word 80 4).toNat
      let held := divertedOrders p id
      match takeFirst (fun (r : Req) => routeCommutes s c ort || !(held.any (fun o => o < r.order))) p.ready with
      | none => s
      | some (r, rest) =>
          let s1 := setPortAt s c k { p with ready := rest }
          flushReplies (s1.setCmd id { c with taken := c.taken + 1, out := c.out ++ [{ rider := 1536, route := ort, tok := replyTok r }] }) k id fuel

/-- Requests whose eight addresses are served are ready to reply, in the order the window accepted them; their reading is performed (R276, R291). -/
def finishReqs (s : State) (k : TileKey) (id : Nat) : State :=
  let c := s.cmd id
  let p := portAt s c k
  let full := fun (r : Req) => r.got.length == 8
  let ready := p.ready ++ p.window.filter full
  let s1 := (p.window.filter full).foldl (fun x r => accDone x r.access) s
  flushReplies (setPortAt s1 c k { p with window := p.window.filter (fun r => !full r), ready := ready }) k id ready.length

/-! ### Requests (R168, R276, R286) -/

/-- Addresses of a request that no landing serves: misaligned, or outside every reach (R168). -/
def addrBad (s : State) (c : Nat) (a : BitVec 64) : Bool := a.toNat % 8 != 0 || (paPlace s c a).isNone

/-- Whether an address lies behind a fenced link (R286). -/
def addrFenced (s : State) (c : Nat) (a : BitVec 64) : Bool := (paPlace s c a).any (fun x => fencedPc s x.1.pc)

/-- The wants of one request are listed at their landings, as far as these have room (R276). -/
def placeReq (s : State) (id : Nat) (r : Req) : State :=
  (List.range 8).foldl (fun x i =>
    if r.got.has i || r.dead then x
    else match paPlace x (x.cmd id).ctx (r.addrs.getD i 0) with
      | some (m, loc, _) => (addWants x id .gather m.pc [(m.slot, loc, 0)]).getD x
      | none => x) s

/-- A request enters the merge window: addresses that no landing serves deliver zero at once and set RANGE, or LINK_FENCED behind a fenced link (R168, R286). -/
def acceptReq (s : State) (k : TileKey) (id : Nat) (r : Req) : State :=
  let c := s.cmd id
  let bad := (List.range 8).filter (fun i => addrBad s c.ctx (r.addrs.getD i 0))
  let cut := (List.range 8).filter (fun i => addrFenced s c.ctx (r.addrs.getD i 0))
  let r1 := { r with got := (bad ++ cut).foldl (fun m i => m.put i 0) [] }
  let st := if !cut.isEmpty then CStat.fenced else if !bad.isEmpty && c.status == 0 then CStat.range else c.status
  let s1 := s.setCmd id { c with missed := c.missed + bad.length, status := st }
  let p := s1.port k
  finishReqs (placeReq (s1.setPort k { p with window := p.window ++ [r1] }) id r1) k id

/-- Requests in the window get zero for elements behind a fenced link, and the gather retires LINK_FENCED (R286). -/
def fenceGather (s : State) (id : Nat) : State :=
  let c := s.cmd id
  let k := cmdPort c
  let cut := fun (r : Req) => (List.range 8).filter (fun i => !r.dead && !r.got.has i && addrFenced s c.ctx (r.addrs.getD i 0))
  let p := portAt s c k
  if p.window.all (fun r => (cut r).isEmpty) then s
  else
    let w := p.window.map (fun (r : Req) => { r with got := (cut r).foldl (fun m i => m.put i 0) r.got })
    finishReqs ((setPortAt s c k { p with window := w }).setCmd id { c with status := CStat.fenced }) k id

/-- Take a token away from a unit port of a tile, noting a drain marker. -/
def portDrop (s : State) (k : TileKey) (p : Nat) (t : Tok) : State := portDrain (portTake s k p) k p t

/-- GATHER_REQUEST: the open gather unit lists wants that had found no room, those behind a link fenced since then excepted, and takes the token at `pt.g`: a request into the window, an end-of-stream token that closes the unit. Fault tokens are left to EDDY_DIVERT (R168, R276). -/
def execGatherRequest (s : State) : Out :=
  atTile s .pt fun k t =>
    let p := s.port k
    match p.gather with
    | none => .next s
    | some id =>
        let s0 := fenceGather s id
        let s1 := (s0.port k).window.foldl (fun x r => placeReq x id r) s0
        match t.ports.get? 0x31 with
        | none => .next s1
        | some x =>
            if p.closing.isSome || p.gStopped then .next s1
            else
              let y := x.tok
              (match y.tt with
               | .fault => .next s1
               | .resume => .next (raiseTrap s1 (unitSite s1 k 0x31 0 (some y)) causeBadToken 0)
               | .eos => let s2 := portDrop s1 k 0x31 y; .next (s2.setPort k { s2.port k with closing := some y })
               | .tempo | .drain => .next (portDrop s1 k 0x31 y)
               | _ =>
                   if 64 ≤ (s1.port k).window.length then .next s1
                   else
                     let s2 := portTake s1 k 0x31
                     let r : Req := { order := p.accepts, tag := y.tag, seq := y.seq, addrs := (List.range 8).map (Word.a64 y.pay), hb := pastOf s [y], access := y.acc }
                     .next (acceptReq (s2.setPort k { s2.port k with accepts := p.accepts + 1 }) k id r))

/-- What a segment gives to the addresses of one request. -/
def serveGot (s : State) (c : Nat) (m : Member) (loc : Nat) (r : Req) : Map (BitVec 64) :=
  (List.range 8).foldl (fun (g : Map (BitVec 64)) i =>
    if g.has i then g
    else match paPlace s c (r.addrs.getD i 0) with
      | some (x, l, o) => if x.pc == m.pc && x.slot == m.slot && l == loc then g.put i (Mem.load s.dram (segByte m loc o) 8 64) else g
      | none => g) r.got

/-- A collected segment serves every pending address of a gather that lies in it (R276). -/
def serveSegment (s : State) (id : Nat) (m : Member) (loc : Nat) : State :=
  let c := s.cmd id
  let k := cmdPort c
  let p := portAt s c k
  finishReqs (setPortAt s c k { p with window := p.window.map (fun (r : Req) => if r.dead then r else { r with got := serveGot s c.ctx m loc r }) }) k id

/-- Whether a request that goes on needs a segment for an address it has not been served. -/
def reqNeeds (s : State) (c : Nat) (m : Member) (loc : Nat) (r : Req) : Bool :=
  !r.dead && (List.range 8).any (fun i => !r.got.has i
    && (paPlace s c (r.addrs.getD i 0)).any (fun x => x.1.pc == m.pc && x.1.slot == m.slot && x.2.1 == loc))

/-- A gather meets a poisoned segment: each request that needs it raises SEG_UE and stops; the others go on (R369). -/
def poisonGather (s : State) (id : Nat) (m : Member) (loc : Nat) : State :=
  let c := s.cmd id
  let p := portAt s c (cmdPort c)
  let hit := reqNeeds s c.ctx m loc
  let s1 := setPortAt s c (cmdPort c) { p with window := p.window.map (fun (r : Req) => if hit r then { r with dead := true } else r) }
  (p.window.filter hit).foldl (fun x _ => raiseSeg x id m loc (Stripe.segAt (stripe s c.ctx (Reach.crn m.entry)) (Reach.rank m.entry) loc)) s1

/-! ### The device's overflow gather (R244) -/

/-- Whether a posting of the overflow ring still waits in the weir for a segment. -/
def overflowPending (s : State) (m : Member) (loc : Nat) : Bool := (s.landing m.pc).weir.any (fun w => w.cmd == 0 && w.slot == m.slot && w.seg == loc)

/-- The parked entries of a region that are asked for in a segment. -/
def askedIn (s : State) (rg : Region) (m : Member) (loc : Nat) : List Nat :=
  let c := (s.launch rg.launch).ctx
  rg.queues.flatMap (fun q => q.2.filterMap (fun p => if p.asked && !p.fetched && !p.lost
      && (p.overflow.bind (overflowPlace s c)).any (fun x => x.1.pc == m.pc && x.1.slot == m.slot && x.2.1 == loc) then p.overflow else none))

/-- Parked entries asked for at the places of a test are read back, which frees their places in the ring (R244). -/
def fetchOverflow (s : State) (here : Member → Nat → Bool) (bytes : Member → Nat → Nat → List Byte) : State :=
  let due := fun (c : Nat) (p : Parked) => p.asked && !p.fetched && !p.lost && (p.overflow.bind (overflowPlace s c)).any (fun x => here x.1 x.2.1)
  let freed := s.regions.foldl (fun z r =>
    let c := (s.launch r.2.launch).ctx
    (r.2.queues.flatMap (fun q => q.2.filterMap (fun p => if due c p then p.overflow else none))).foldl (fun z o => overflowFree z c o) z) s
  { freed with regions := s.regions.mapV (fun _ rg =>
      let c := (s.launch rg.launch).ctx
      { rg with queues := rg.queues.mapV (fun _ q => q.map (fun (p : Parked) =>
          match p.overflow.bind (overflowPlace s c) with
          | some (x, l, o) => if due c p then { p with fetched := true, tok := { parkedToken (bytes x l o) with hb := p.tok.hb } } else p
          | none => p)) }) }

/-- Parked entries asked for in a segment are read back from its bytes (R244). -/
def serveOverflow (s : State) (m : Member) (loc : Nat) : State :=
  fetchOverflow s (fun x l => x.pc == m.pc && x.slot == m.slot && l == loc) (fun x l o => Mem.readN s.dram (segByte x l o) 128)

/-- Parked entries asked for behind a link that is fenced read as zero bytes (R244, R286). -/
def fenceOverflow (s : State) (pc : PcKey) : State := fetchOverflow s (fun x _ => x.pc == pc) (fun _ _ _ => List.replicate 128 0)

/-- The regions that have asked for an overflow entry in a segment. -/
def overflowAskers (s : State) (m : Member) (loc : Nat) : List Nat :=
  s.regions.filterMap (fun r => if (askedIn s r.2 m loc).isEmpty then none else some r.1)

/-- The overflow gather meets a poisoned segment: SEG_UE for every region whose entries need it, which stay unread (R369). -/
def overflowUe (s : State) (m : Member) (loc : Nat) : State :=
  let s1 := (overflowAskers s m loc).foldl (fun s r =>
      let l := (s.region r).launch
      let seg := Stripe.segAt (stripe s (s.launch l).ctx (Reach.crn m.entry)) (Reach.rank m.entry) loc
      raiseTrap s { agent := .region r, launch := l, die := (s.region r).die, unitNo := 0x30, tile := regionTile (s.region r) 0 % 2048, unit := true, word := segWord m loc }
        causeSegUe (paOf (Reach.crn m.entry) (seg * Reach.g m.entry))) s
  { s1 with regions := s1.regions.mapV (fun _ rg =>
      let here := askedIn s rg m loc
      { rg with queues := rg.queues.mapV (fun _ q => q.map (fun (p : Parked) => if p.asked && !p.fetched && p.overflow.any here.contains then { p with lost := true } else p)) }) }

/-- What a visit makes of a gather rider: a wanted segment is collected, and the rider alights with its last one (R276). DEDUCED (log 138): the overflow gather lets a segment pass while one of its overflow postings still waits there, and collects it at a later visit. -/
def visitGather (s : State) (m : Member) (loc : Nat) (r : Rider) : State × Option Rider :=
  if !r.want.contains (m.slot, loc, 0) then (s, some r)
  else
    let want := r.want.filter (· != (m.slot, loc, 0))
    let out := fun (x : State) => (x, if want.isEmpty then none else some { r with want := want })
    let bad := segPoisoned s m loc
    if r.cmd == 0 then
      if overflowPending s m loc then (s, some r)
      else out (if bad then overflowUe s m loc else serveOverflow s m loc)
    else out (if bad then poisonGather s r.cmd m loc else serveSegment s r.cmd m loc)

/-! ### `kvride` (R169, R277, R341, R347) -/

/-- The tokens of one unit of a block. In an SX type a unit holds as many whole blocks as fit in 64 bytes (log 45). DEDUCED (log 156): SEQ is the unit's number mod 256 (R169). -/
def kvTokens (w : Word128) (index u : Nat) (tag : BitVec 4) (bs : List Byte) : List Tok :=
  let ety : BitVec 4 := Word.field w 49 4
  let t : Tag := BitVec.ofNat 16 index
  let q := BitVec.ofNat 8 u
  if ety < 4 then byteTokens t q bs else sxTokens ety (Word.bit w 48) t q (sxField (sxBits ety.toNat) tag bs 0 (64 / etypeBytes ety))

/-- The tokens of a unit of zero bytes (R169, R286). -/
def kvZero (w : Word128) (index u : Nat) : List Tok := kvTokens w index u (Word.field w 49 4) (List.replicate 64 0)

/-- ORT of a `kvride`. -/
def kvOrt (c : Cmd) : Nat := (Word.field c.word 53 4).toNat

/-- Whether a block may be wanted: translated, and held back by no block of a lower index that was diverted (R341). -/
def kvFree (s : State) (c : Cmd) (b : KvBlock) : Bool :=
  b.pa.isSome && (routeCommutes s c (kvOrt c) || !(c.blocks.any (fun x => x.held && x.index < b.index)))

/-- The landing whose rider collects a unit of a block; 1536 where none does. -/
def kvRider (s : State) (c : Cmd) (b : KvBlock) (u : Nat) : PcKey := ((kvPlace s c b u).map (fun x => x.1.pc)).getD 1536

/-- One block delivers the units that are next in order; a finished one leaves the snapshot. -/
def kvEmitOne (s : State) (n : Nat) (x : Cmd) (b : KvBlock) : Cmd :=
  let us := if b.dead then [] else ((List.range n).drop b.given).takeWhile b.data.has
  let out : List Leaving := us.flatMap (fun u => (b.data.getD u []).map (fun t => { rider := kvRider s x b u, route := kvOrt x, tok := t }))
  let given := b.given + us.length
  if given == n then { x with out := x.out ++ out, taken := x.taken + 1 }
  else { x with out := x.out ++ out, blocks := x.blocks ++ [{ b with given := given }] }

/-- The blocks of a snapshot deliver what they can (R169). -/
def kvEmit (s : State) (c : Cmd) : Cmd := c.blocks.foldl (kvEmitOne s (kvUnits c)) { c with blocks := [] }

/-- The landings a block's slice lies at. -/
def kvLandings (s : State) (c : Cmd) (b : KvBlock) : List PcKey :=
  ((List.range (kvUnits c)).filterMap (fun u => (kvPlace s c b u).map (fun x => x.1.pc))).dedup

/-- Members of a `kvride` behind a fenced link count once each as alighted early, and the ride retires LINK_FENCED (R165, R286, R375). -/
def kvCut (c : Cmd) (pcs : List PcKey) : Cmd :=
  let new := pcs.filter (fun p => !c.members.contains p)
  { c with members := c.members ++ new, early := c.early + new.length, status := CStat.fenced }

/-- One block's slice is wanted at each of its landings that has room; at the others the ride waits. What lies outside every reach, or behind a fenced link, is zero (R169, R277, R286). -/
def kvWantBlock (s : State) (id : Nat) (b : KvBlock) : State :=
  let c := s.cmd id
  if b.dead || !kvFree s c b then s
  else
    let here := (kvLandings s c b).filter (fun pc => !b.lands.contains pc)
    let cut := here.filter (fencedPc s)
    let gone := (List.range (kvUnits c)).filter (fun u => !b.data.has u && (kvPlace s c b u).all (fun x => cut.contains x.1.pc))
    let out := (List.range (kvUnits c)).any (fun u => (kvPlace s c b u).isNone)
    let asked := (here.filter (fun pc => !fencedPc s pc)).foldl (fun (x : State × List PcKey) pc =>
      match addWants x.1 id .kv pc (kvWant (x.1.landing pc) (kvSegs x.1 c b pc)) with
      | some y => (y, x.2 ++ [pc])
      | none => x) (s, [])
    let b1 := { b with wanted := true, lands := b.lands ++ asked.2, data := gone.foldl (fun d u => d.put u (kvZero c.word b.index u)) b.data }
    let c1 := if out && c.status == 0 then { c with status := CStat.range } else c
    let c2 := if cut.isEmpty then c1 else kvCut c1 cut
    let c3 := { c2 with blocks := c.blocks.map (fun (x : KvBlock) => if x.index == b.index then b1 else x) }
    asked.1.setCmd id (if gone.isEmpty then c3 else kvEmit asked.1 c3)

/-- Every block that may be wanted is wanted, in ascending index. -/
def kvWants (s : State) (id : Nat) : State :=
  ((s.cmd id).blocks.map (fun b => b.index)).foldl (fun x i => match (x.cmd id).blocks.find? (fun b => b.index == i) with
    | some b => kvWantBlock x id b
    | none => x) s

/-- The blocks of a snapshot with their pages translated, and the round in which they arrive at the PT (R303, R341, R347). -/
def kvSnapshot (s : State) (c : Cmd) (t : SeqTable) (g : Group) : List KvBlock :=
  let first := (Word.field c.word 36 12).toNat
  let n := (Word.field c.word 24 12).toNat + 1
  let base := match (s.base (Word.field c.word 65 5).toNat).pools.get? t.pool with
    | some p => p.vpn
    | none => 0
  (List.range n).filterMap (fun i =>
    (g.leaf[first + i]?).map (fun x =>
      let v := base + x.toNat / 32
      let bit := x.toNat % 32
      let va := BitVec.ofNat 64 (v * 2 ^ 21 + bit * 65536 + 64 * (Word.field c.word 14 10).toNat)
      match xlatOne s c.ctx false va with
      | .ok pa => { index := first + i, bit := bit, vpn := v, pa := some pa, round := (portAt s c (cmdPort c)).cr }
      | .fail cls => { index := first + i, bit := bit, vpn := v, failed := cls, held := true, round := (portAt s c (cmdPort c)).cr }))

/-- KVRIDE_ADMIT: the engine admits a `kvride`, whose snapshot is copied and translated in one step; an admitted one lists wants that had found no room; a table that has come to belong to another context is DENIED (R169, R333, R341, R346, R347). -/
def execKvrideAdmit (s : State) : Out :=
  match s.focus with
  | .cmd id =>
      let c := s.cmd id
      let n := (Word.field c.word 65 5).toNat
      let q := (Word.field c.word 76 20).toNat
      let b := s.base n
      if !s.cmds.has id then .fault .noAgent
      else if c.phase != .started || cmdCode c.word != 5 || c.stopped then .next s
      else if c.admitted then .next (kvWants s id)
      else match cmdReqIdx b id with
      | none => .next s
      | some i =>
          if !reqTurn s b i then .next s
          else
            let rest := { b with reqs := b.reqs.eraseIdx i }
            if cmdForeign s c.ctx c.word then .next ((s.setBase n rest).setCmd id { c with admitted := true, status := CStat.denied })
            else if (needsRestore s b (.cmd id)).isSome then
              (if (restoreTable b q).isSome then .next (beginRestore s n q)
               else .next ((s.setBase n rest).setCmd id { c with admitted := true, status := CStat.tableFull }))
            else
              let g := (Word.field c.word 70 6).toNat
              (match groupOf b c.ctx q g with
               | none => .next ((s.setBase n rest).setCmd id { c with admitted := true, status := CStat.noSeq })
               | some (t, x) =>
                   .next (kvWants ((s.setBase n (groupPut rest q t g x)).setCmd id { c with admitted := true, blocks := kvSnapshot s c t x }) id))
  | _ => .fault .noAgent

/-- Whether a unit of a block lies in a segment and has not been collected. -/
def kvHere (s : State) (c : Cmd) (m : Member) (loc : Nat) (b : KvBlock) (u : Nat) : Bool :=
  !b.data.has u && (kvPlace s c b u).any (fun x => x.1.pc == m.pc && x.1.slot == m.slot && x.2.1 == loc)

/-- Whether a block goes on and wants a unit of a segment. -/
def kvNeeds (s : State) (c : Cmd) (m : Member) (loc : Nat) (b : KvBlock) : Bool :=
  b.lands.contains m.pc && !b.dead && (List.range (kvUnits c)).any (kvHere s c m loc b)

/-- The units that a block may collect in a segment: no lower one of its slice has been missed at the landing, since a rider's tokens leave in the order it collects them (R169, R274, log 139). -/
def kvTakes (s : State) (c : Cmd) (m : Member) (loc : Nat) (b : KvBlock) : List Nat :=
  if !kvNeeds s c m loc b then []
  else ((List.range (kvUnits c)).takeWhile (fun u => b.data.has u || kvHere s c m loc b u || !(kvPlace s c b u).any (fun x => x.1.pc == m.pc))).filter (kvHere s c m loc b)

/-- A collected segment gives its units to the blocks that want them. -/
def kvCollect (s : State) (c : Cmd) (m : Member) (loc : Nat) : Cmd :=
  { c with blocks := c.blocks.map (fun (b : KvBlock) =>
      { b with data := (kvTakes s c m loc b).foldl (fun d u => match kvPlace s c b u with
        | some (_, _, o) => d.put u (kvTokens c.word b.index u (segTag s m loc) (Mem.readN s.dram (segByte m loc o) 64))
        | none => d) b.data }) }

/-- Tokens of a `kvride` that stand in the buffer of its rider at a landing: those on their way out, and those collected there that wait for a lower unit (R169, R274). -/
def kvBuffered (s : State) (c : Cmd) (pc : PcKey) : Nat :=
  buffered c pc + (c.blocks.map (fun b => (b.data.map (fun d => if b.given ≤ d.1 && kvRider s c b d.1 == pc then d.2.length else 0)).sum)).sum

/-- A `kvride` meets a poisoned segment: each slice that needs it raises SEG_UE and stops; the others go on (R369). -/
def poisonKv (s : State) (id : Nat) (m : Member) (loc : Nat) : State :=
  let c := s.cmd id
  let hit := kvNeeds s c m loc
  let s1 := s.setCmd id { c with blocks := c.blocks.map (fun (b : KvBlock) => if hit b then { b with dead := true } else b) }
  (c.blocks.filter hit).foldl (fun x _ => raiseSeg x id m loc (Stripe.segAt (stripe s c.ctx (Reach.crn m.entry)) (Reach.rank m.entry) loc)) s1

/-- What a visit makes of a `kvride`'s rider: of a wanted segment the units whose turn it is are collected if the buffer has room for all their tokens, and the segment is missed where a unit stays behind (R274, R277, R341, R369). -/
def visitKv (s : State) (m : Member) (loc : Nat) (r : Rider) : State × Option Rider :=
  let hit := fun (w : Nat × Nat × Nat) => w.1 == m.slot && w.2.1 == loc
  let c := s.cmd r.cmd
  let want := r.want.filter (fun w => !hit w)
  let out := fun (x : State) => (x, if want.isEmpty then none else some { r with want := want })
  if !r.want.any hit then (s, some r)
  else if !r.want.contains (m.slot, loc, 0) then
    (s, some { r with want := r.want.map (fun w => if hit w then (w.1, w.2.1, w.2.2 - 1) else w) })
  else if segPoisoned s m loc then out (poisonKv s r.cmd m loc)
  else
    let y := kvCollect s c m loc
    let miss := fun (x : Cmd) => (s.setCmd r.cmd { x with missed := x.missed + 1 }, some r)
    if !bufferTakes (kvBuffered s c m.pc) (kvBuffered s y m.pc - kvBuffered s c m.pc) then miss c
    else if y.blocks.any (kvNeeds s y m loc) then miss (kvEmit s y)
    else out (s.setCmd r.cmd (kvEmit s y))

/-! ### The eddy queue (R337, R338, R303) -/

/-- The class of an element that failed, 0 for a physical address (R148). -/
def elemClass (a : BitVec 64) : BitVec 4 := Word.field a 60 4

/-- The class of the lowest failed element of a body (R337). -/
def lowestClass (body : Payload) : BitVec 2 :=
  match (List.range 8).find? (fun i => elemClass (Word.a64 body i) != 0) with
  | some i => (elemClass (Word.a64 body i)).setWidth 2
  | none => 0

/-- A tier event word (R200). -/
def tierWord (k : TileKey) (e vpn : Nat) : BitVec 64 :=
  let q := k % 2048
  let row := q / 64
  let n := (row / 4 * 16 + q % 64 / 4) * 2 + (if q % 4 == 0 then 0 else 1)
  (1 : BitVec 4) ++ BitVec.ofNat 4 (k / 2048) ++ BitVec.ofNat 8 n ++ BitVec.ofNat 6 e ++ (0 : BitVec 7) ++ BitVec.ofNat 35 vpn

/-- The failed elements of an entry, the first of each page. -/
def failedElems (x : Eddy) : List (BitVec 64) :=
  if x.kv then [failedElem (x.cls.setWidth 4) (BitVec.ofNat 64 ((Word.a64 x.body 0).toNat * 2 ^ 21))]
  else ((List.range 8).map (Word.a64 x.body)).foldl (fun acc a => if elemClass a == 0 || acc.any (fun b => vaVpn b == vaVpn a) then acc else acc ++ [a]) []

/-- Raise the events of an entry: a tier event, or the replayable trap of UNMAPPED or PERM, once for each page (R338). -/
def eddyEvents (s : State) (k : TileKey) (e : Nat) (x : Eddy) : State :=
  (failedElems x).foldl (fun y a =>
    if elemClass a == 3 then y.setPort k { y.port k with tier := (y.port k).tier ++ [tierWord k e (vaVpn a)] }
    else
      let head : Tok := { tt := .fault, vc := x.vc, tag := x.tag, seq := x.seq, pay := x.body }
      let site := { unitSite y k 0x31 (BitVec.ofNat 64 e) (some head) with agent := .eddy k e }
      raiseTrap y site (if elemClass a == 2 then causePerm else causeUnmapped) a) s

/-- The blocks of a `kvride` whose page failed and that stand in no entry: the lowest such page's. -/
def kvToDivert (c : Cmd) : Option (Nat × List KvBlock) :=
  match c.blocks.find? (fun b => b.held && b.pa.isNone && !b.eddied) with
  | none => none
  | some b => some (b.vpn, c.blocks.filter (fun x => x.vpn == b.vpn && x.held && x.pa.isNone && !x.eddied))

/-- The fault token at `pt.g` that the open gather has next, with the gather's command. -/
def faultWaits (t : Tile) (p : PortUnit) : Option (Parcel × Nat) :=
  match t.ports.get? 0x31, p.gather with
  | some y, some id => if y.tok.tt == .fault && p.closing.isNone && !p.gStopped then some (y, id) else none
  | _, _ => none

/-- EDDY_DIVERT: a fault token at `pt.g`, or the next failed page of a `kvride`, takes the lowest free entry and raises its events; the entry keeps the round in which the token arrived and the access kind it was translated for (R303, R338, R340, R341). -/
def execEddyDivert (s : State) : Out :=
  atTile s .pt fun k t =>
    let p := s.port k
    match p.eddy.lowestFree 64 0 with
    | none => .next s
    | some e =>
        match faultWaits t p with
        | some (y, id) =>
            let x := y.tok
            let d : Eddy := { kv := false, cls := lowestClass x.pay, order := p.accepts, tag := x.tag, seq := x.seq, body := x.pay, cmd := id
                              acc := x.wr, round := y.round, hb := pastOf s [x], access := x.acc, vc := x.vc }
            let s1 := portTake s k 0x31
            .next (eddyEvents (s1.setPort k { p with eddy := p.eddy.put e d, accepts := p.accepts + 1 }) k e d)
        | none =>
            match s.cmds.find? (fun c => c.2.away.isNone && c.2.station == .port k && c.2.phase == .started && cmdCode c.2.word == 5 && (kvToDivert c.2).isSome) with
            | none => .next s
            | some (id, c) =>
                match kvToDivert c with
                | none => .next s
                | some (v, bs) =>
                    let mask := bs.foldl (fun a b => a + 2 ^ b.bit) 0
                    let low := bs.foldl (fun a b => Nat.min a b.index) 4096
                    let cls : BitVec 4 := (bs.head?.map (fun b => b.failed)).getD 0
                    let d : Eddy := { kv := true, cls := cls.setWidth 2, order := low, tag := (cmdRid c.word).setWidth 16, seq := 0
                                      body := BitVec.ofNat 512 (v + 2 ^ 64 * mask), cmd := id
                                      round := (bs.head?.map (fun b => b.round)).getD 0 }
                    let c1 := { c with blocks := c.blocks.map (fun (b : KvBlock) => if b.vpn == v && b.held && b.pa.isNone then { b with eddied := true } else b) }
                    .next (eddyEvents ((s.setCmd id c1).setPort k { p with eddy := p.eddy.put e d }) k e d)

/-! ### Resumption (R340, R341) -/

/-- An entry's failed elements translated again. -/
def retranslate (s : State) (c : Nat) (x : Eddy) : Payload :=
  Word.ofA64 fun i =>
    let a := Word.a64 x.body i
    if elemClass a == 0 then a
    else
      let va : BitVec 64 := (Word.field a 0 56 : BitVec 56).setWidth 64
      xlatElem va (xlatOne s c x.acc va)

/-- A resume token names an entry: one not in use takes no notice; one whose elements all translate is released, into the merge window or to the ride; any other keeps its place and raises its events again. `none` while the merge window is full (R340, R341). -/
def resumeEntry (s : State) (k : TileKey) (e : Nat) : Option State :=
  let p := s.port k
  match p.eddy.get? e with
  | none => some s
  | some x =>
      let c := s.cmd x.cmd
      if x.kv then
        let v := (Word.a64 x.body 0).toNat
        match xlatOne s c.ctx false (BitVec.ofNat 64 (v * 2 ^ 21)) with
        | .ok _ =>
            let free := fun (b : KvBlock) =>
              if b.vpn == v && b.eddied then
                match xlatOne s c.ctx false (BitVec.ofNat 64 (v * 2 ^ 21 + b.bit * 65536 + 64 * (Word.field c.word 14 10).toNat)) with
                | .ok pa => { b with pa := some pa, eddied := false }
                | .fail _ => b
              else b
            some (kvWants ((s.setPort k { p with eddy := p.eddy.del e }).setCmd x.cmd { c with blocks := c.blocks.map free }) x.cmd)
        | .fail cls =>
            let y := { x with cls := cls.setWidth 2 }
            some (eddyEvents (s.setPort k { p with eddy := p.eddy.put e y }) k e y)
      else
        let body := retranslate s c.ctx x
        if (List.range 8).all (fun i => elemClass (Word.a64 body i) == 0) then
          if 64 ≤ p.window.length then none
          else
            let r : Req := { order := x.order, tag := x.tag, seq := x.seq, addrs := (List.range 8).map (Word.a64 body), diverted := true
                             hb := x.hb, access := x.access }
            some (acceptReq (s.setPort k { p with eddy := p.eddy.del e }) k x.cmd r)
        else
          let y := { x with body := body, cls := lowestClass body }
          some (eddyEvents (s.setPort k { p with eddy := p.eddy.put e y }) k e y)

/-- RESUME_TOKEN: the port takes the token at `pt.r`, or a resume token that the device sent. A marker or a fault token is discarded, a data or control token or an entry above 63 raises BADTOKEN (R149, R340, R342). -/
def execResumeToken (s : State) : Out :=
  atTile s .pt fun k t =>
    let p := s.port k
    match t.ports.get? 0x32 with
    | some x =>
        let y := x.tok
        if p.rStopped then .next s
        else if y.tt.isMarker || y.tt == .fault then .next (portDrop s k 0x32 y)
        else if y.tt != .resume || 63 < (Word.lane y.pay 0).toNat then .next (raiseTrap s (unitSite s k 0x32 0 (some y)) causeBadToken 0)
        else .next ((resumeEntry (portTake s k 0x32) k (Word.lane y.pay 0).toNat).getD s)
    | none =>
        match p.resumes with
        | [] => .next s
        | e :: es => .next ((resumeEntry (s.setPort k { p with resumes := es }) k e).getD s)

/-! ### The firmware's answer to a tier event (R343) -/

/-- The far place of a page by the window that maps it (R332, R343). -/
def farPlace (s : State) (c v : Nat) : Option (BitVec 16 × Nat) :=
  ((s.ctx c).windows.find? (fun w => w.vpn ≤ v && v < w.vpn + w.npages)).map (fun w => (w.fpool, w.ffirst + (v - w.vpn)))

/-- The word of the firmware's `pagein` (R175) on an engine. -/
def firmwarePagein (die idx v : Nat) (fpool : BitVec 16) (fpage : Nat) : Word128 :=
  (0x19 : BitVec 7) ++ (0 : BitVec 13) ++ BitVec.ofNat 4 die ++ BitVec.ofNat 8 idx ++ BitVec.ofNat 35 v ++ fpool ++ BitVec.ofNat 32 fpage ++ (0 : BitVec 13)

/-- Whether a sequencer of a tile's region has asked for tier events (R193, R200). -/
def tierToSeq (s : State) (k : TileKey) : Bool :=
  match regionSeq s (s.regionOf k) with
  | some q => (s.seq q).evmask != 0
  | none => false

/-- FIRMWARE_TIER_EVENT: with `evmask` clear the firmware answers a tier event with one `pagein` for its page, on an I/O-die engine of its choice; one that fails the checks of R30 and R175 has no effect (R343). -/
def execFirmwareTierEvent (s : State) : Out :=
  match s.focus with
  | .tile k =>
      let p := s.port k
      let c := s.ctxOf k
      (match p.tier with
       | [] => .next s
       | w :: ws =>
           let v := (Word.field w 0 35).toNat
           let die := 12 + Config.tierEngine s.fresh / 32 % 2
           let idx := Config.tierEngine s.fresh % 32
           let st : Station := .engine die idx
           let s1 := s.setPort k { p with tier := ws }
           if tierToSeq s k then .next s
           else if s.cmds.any (fun x => x.2.origin == .firmware && cmdCode x.2.word == 0x19 && x.2.ctx == c && x.2.phase != .done && (Word.field x.2.word 61 35).toNat == v) then .next s1
           else match farPlace s c v with
           | none => .next s1
           | some (fpool, fpage) =>
               if !feature s 3 || !((s.ctx c).farpools.get? fpool.toNat).any (fun p => fpage < p.pages.toNat) then .next s1
               else if 16 ≤ (waitingAt s st).length then .next s
               else
                 let x : Cmd := { word := firmwarePagein die idx v fpool fpage, station := st, origin := .firmware, launch := s.launchOf k, ctx := c, region := 0
                                  phase := .accepted, order := s.sends }
                 .next { s1.setCmd (s.nextCmd + 1) x with nextCmd := s.nextCmd + 1, sends := s.sends + 1, fresh := s.fresh + 1 })
  | _ => .fault .noAgent

end Sys2Proof.Machine
end

