-- ==== Sys2Proof/Machine/Queues.lean ====
section
/-! DEFINITION. The queue endpoints (14 R313-R316): reserving, writing and committing slots, reading the registers of queues and trap queues (18 R363), and the consumption of the packet at a queue's head (14 R312, R314). -/

namespace Sys2Proof.Machine

/-- Queues of the device (R313). -/
def queueCount : Nat := 4096

/-- Whether the life-cycle state lets queues accept packets (R383). -/
def lcAccepts (l : LcState) : Bool := l == .provisioned || l == .deployed

/-- Whether a queue accepts packets: enabled, a feature subset accepted, no wipe running (R313, R372, R383, R384). -/
def queueTakes (s : State) (q : Nat) : Bool :=
  q < queueCount && (s.queue q).enabled && s.dev.feats.isSome && !s.dev.wiping && lcAccepts s.dev.lc

/-- The ticket of a queue's reservation number (R313). -/
def ticketOf (q : Nat) (count : BitVec 52) : BitVec 64 := BitVec.ofNat 12 q ++ count

/-- QRES: a reservation takes the next slot, its ticket and its ticket stamp; with 256 slots reserved it answers all ones (R313). -/
def execQres (s : State) : Out :=
  match s.focus with
  | .queue q =>
      let x := s.queue q
      if !queueTakes s q then .next (s.answer .uetError)
      else if 256 ≤ x.taken then .next (s.answer (.value 0xFFFFFFFF))
      else
        let y := { x with next := (x.next + 1) % 256, taken := x.taken + 1, count := x.count + 1,
                          ticks := x.ticks.put x.next (ticketOf q x.count), stamps := x.stamps.put x.next s.dev.dtime }
        .next ((s.setQueue q y).answer (.value (BitVec.ofNat 1024 x.next)))
  | _ => .fault .noAgent

/-- QCOMMIT: an atomic OR publishes packets (R313, R314, R370); the time is noted for the watch of a firmware update (R382). -/
def execQcommit (s : State) : Out :=
  match s.focus with
  | .commit q word bits =>
      let x := s.queue q
      if !queueTakes s q || 4 ≤ word then .next (s.answer .uetError)
      else
        let new := x.commit ||| (bits.setWidth 256 <<< (64 * word))
        let times := (List.range 256).foldl (fun (m : Map (BitVec 64)) i => if Word.bit new i && !Word.bit x.commit i then m.put i s.dev.dtime else m) x.arrived
        .next ((s.setQueue q { x with commit := new, arrived := times }).answer .done)
  | _ => .fault .noAgent

/-- Whether a queue's endpoint gives access to a context's trap queue (R363). -/
def tqAccess (s : State) (q c : Nat) : Bool := q < queueCount && (s.queue q).enabled && (s.queue q).ctx == c

/-- Entries of a trap queue in use. -/
def tqUsed (x : Context) : Nat := (x.tq.filter (fun e => e.2.used)).length

/-- Whether a context is frozen (R364); beyond a trip point every one is (R385). -/
def frozenCtx (s : State) (c : Nat) : Bool := (s.ctx c).frozen || s.dev.tripped

/-- TQSTAT (R363). -/
def tqStat (x : Context) (frozen : Bool) : BitVec 64 :=
  BitVec.ofBool x.over_ ++ BitVec.ofBool frozen ++ (0 : BitVec 14) ++ BitVec.ofNat 16 (Nat.min x.lost 0xFFFF) ++ (0 : BitVec 23) ++ BitVec.ofNat 9 (tqUsed x)

/-- Read a register, or answer a UET error where it is not there. -/
def readReg (s : State) (ok : Bool) (v : BitVec 1024) : Out := .next (s.answer (if ok then .value v else .uetError))

/-- REGISTER_WRITE: every operation on a queue or trap queue register that has no row of its own, the event ring's place, and the counts of corrected errors; one that the register does not allow is answered with a UET error (R313, R363, R370, R373, R378). -/
def execRegisterWrite (s : State) : Out :=
  match s.focus with
  | .reg (.slot q i p) =>
      if !queueTakes s q || 256 ≤ i then .next (s.answer .uetError)
      else .next ((s.setQueue q { s.queue q with slots := (s.queue q).slots.put i p }).answer .done)
  | .reg (.writeOther _) | .reg (.readOther _) | .reg (.otherAtomic _) => .next (s.answer .uetError)
  | .reg (.readQhead q) => readReg s (q < queueCount) ((s.queue q).head.setWidth 1024)
  | .reg (.readQtick q i) => readReg s (q < queueCount && i < 256) (((s.queue q).ticks.getD i (BitVec.allOnes 64)).setWidth 1024)
  | .reg (.readQstamp q i) => readReg s (q < queueCount && i < 256) (((s.queue q).stamps.getD i 0).setWidth 1024)
  | .reg (.tqctl q c v) =>
      if !tqAccess s q c || Word.field v 1 63 != (0 : BitVec 63) then .next (s.answer .uetError)
      else .next ((s.setCtx c { s.ctx c with handler := Word.bit v 0 }).answer .done)
  | .reg (.tqReadOnly _ _) | .reg (.readTqact _ _) => .next (s.answer .uetError)
  | .reg (.readTqstat q c) => readReg s (tqAccess s q c) ((tqStat (s.ctx c) (frozenCtx s c)).setWidth 1024)
  | .reg (.readTqctl q c) => readReg s (tqAccess s q c) ((BitVec.ofBool (s.ctx c).handler).setWidth 1024)
  | .reg (.readTqentry q c k) => readReg s (tqAccess s q c && k < 256) (((s.ctx c).tq.get? k).elim 0 (fun e => e.trap.bits))
  | .reg (.readTqres q c) => readReg s (tqAccess s q c) ((s.ctx c).tqres.setWidth 1024)
  | .reg (.eventRing a n) => .next ((s.setDev { s.dev with ringAddr := a, ringLen := n }).answer .done)
  | .reg (.readCorrected m) => readReg s (m < 4) (BitVec.ofNat 1024 (s.dev.corrected.getD m 0))
  | _ => .fault .noAgent

/-! ### Consuming a packet (R312, R314, R320, R321) -/

/-- The slot at a queue's head. -/
def headSlot (x : Queue) : Nat := x.head.toNat % 256

/-- The packet at a queue's head, once it is committed and nothing of the queue waits ahead of it. -/
def headPacket (s : State) (q : Nat) : Option Packet :=
  let x := s.queue q
  if queueTakes s q && x.waiting.isNone && x.tails.isEmpty && x.resumes.isEmpty && Word.bit x.commit (headSlot x) then some (x.slots.getD (headSlot x) 0) else none

/-- The strip consumes the head slot: its commit bit clears, it is free again, and its packet stands open (R314). -/
def takePacket (s : State) (q : Nat) (p : Packet) : Open × State :=
  let x := s.queue q
  let i := headSlot x
  let o : Open := { ticket := x.ticks.getD i (BitVec.allOnes 64), stamp := x.stamps.getD i 0, packet := p, started := s.dev.dtime, arrived := x.arrived.getD i 0 }
  (o, s.setQueue q { x with commit := x.commit &&& ~~~((1 : BitVec 256) <<< i), head := x.head + 1, taken := x.taken - 1, ticks := x.ticks.del i, stamps := x.stamps.del i,
                            opens := x.opens ++ [o] })

/-- A packet completes without effect, with a status. -/
def refuse (s : State) (q : Nat) (o : Open) (status : Nat) : State := completePacket s q o.ticket { status := status, start := o.started }

/-- A packet that is no launch is done. -/
def packetDone (s : State) (q : Nat) (o : Open) (result : Nat) : State := completePacket s q o.ticket { status := Status.ok, result := result, start := o.started }

/-- Consume the packet at the head of the queue in focus and act on it. -/
def atPacket (p : Packet) (s : State) (go : Nat → Open → State → Out) : Out :=
  match s.focus with
  | .queue q => match headPacket s q with
    | none => .next s
    | some _ => let y := takePacket s q p; go q y.1 y.2
  | _ => .fault .noAgent

/-- The packet of an instruction. -/
def packetOf (i : Instr) : Packet := (encodePacket i).getD 0

/-- A packet that only context 0 may send (R312). -/
def atManagement (i : Instr) (s : State) (go : Nat → Open → State → Out) : Out :=
  atPacket (packetOf i) s fun q o s1 => if (s1.queue q).ctx == 0 then go q o s1 else .next (refuse s1 q o Status.denied)

end Sys2Proof.Machine
end

