-- ==== Sys2Proof/Machine/Visits.lean ====
section
/-! DEFINITION. Updates on pass (06 R172, R173; 11 R278-R283; 12 R298-R301; 18 R369), the segment visit (11 R279), the address generator (06 R181). -/

namespace Sys2Proof.Machine

/-! ### What an update does (R172) -/

/-- The new value of a word (R172). -/
def updWord (op : UpdOp) (ety : BitVec 4) (f v : Lane) : Lane :=
  let fp := fun (r : Fp.Res) => BitVec.ofNat 32 r.bits
  match op with
  | .write => v
  | .add => if ety == 2 then fp (Fp.add Fp.f32 .rn f.toNat v.toNat) else f + v
  | .max =>
      if ety == 2 then BitVec.ofNat 32 (Fp.minMax Fp.f32 true f.toNat v.toNat)
      else if ety == 0 then (if f.slt v then v else f) else (if f.ult v then v else f)
  | .scadd a b =>
      match Fp.mulV (Fp.f32.read a.toNat) (Fp.f32.read f.toNat), Fp.mulV (Fp.f32.read b.toNat) (Fp.f32.read v.toNat) with
      | some x, some y => fp (Fp.addV Fp.f32 .rn x y)
      | _, _ => 0x7FC00000

/-- An update of a command has been applied, or discarded (R172, R369). -/
def countUpd (s : State) (id : Nat) (done : Bool) : State :=
  if id == 0 then s
  else
    let c := s.cmd id
    if done then s.setCmd id { c with applied := c.applied + 1 } else s.setCmd id { c with posted := c.posted - 1, lost := c.lost + 1 }

/-- Apply one update to its granule: all its words together. An update to a poisoned granule is discarded, unless it writes the granule whole, which clears the poison (R172, R282, R284, R369). -/
def applyWeir (s0 : State) (m : Member) (w : Weir) : State :=
  let s := accDone s0 w.acc
  let gran := segByte m w.seg (w.word / 16 * 64)
  let whole := w.op == .write && w.vals.length == 16
  if s.poison.contains gran && !whole then countUpd s w.cmd false
  else
    let mem := (List.range w.vals.length).foldl (fun d i =>
      let a := segByte m w.seg (4 * (w.word + i))
      Mem.store d a 4 (updWord w.op w.ety (Mem.load d a 4 32) (w.vals.getD i 0))) s.dram
    let s1 := { s with dram := mem, poison := if whole then s.poison.filter (· != gran) else s.poison
                       tags := if w.ftag == 0 then s.tags else s.tags.put (tagKey m.pc m.slot w.seg) w.ftag }
    countUpd s1 w.cmd true

/-- Whether an update comes before another in a tempo round: by launch, round and key (R300, R301). -/
def weirBefore (s : State) (a b : Weir) : Bool :=
  let x := weirLaunch s a :: a.round.getD 0 :: a.key
  let y := weirLaunch s b :: b.round.getD 0 :: b.key
  decide (x < y)

/-- Insert an update among sorted ones, after equals. -/
def insWeir (s : State) (w : Weir) : List Weir → List Weir
  | [] => [w]
  | x :: xs => if weirBefore s w x then w :: x :: xs else x :: insWeir s w xs

/-- The order of application at a visit: stamps, and the updates of closed tempo rounds sorted (R279, R300). -/
def weirOrder (s : State) (ws : List Weir) : List Weir :=
  ws.filter (fun w => w.round.isNone) ++ (ws.filter (fun w => w.round.isSome)).foldl (fun acc w => insWeir s w acc) []

/-! ### SEGMENT_VISIT (R265, R272, R279, R369) -/

/-- Granules of a segment that no longer correct become poisoned (R369). -/
def poisonSegment (s : State) (m : Member) (loc : Nat) : State :=
  let mine := fun a => segByte m loc 0 ≤ a && a < segByte m loc 0 + Reach.g m.entry
  if s.decayed.any mine then { s with decayed := s.decayed.filter (fun a => !mine a), poison := s.decayed.filter mine ++ s.poison } else s

/-- Every eligible update of a segment is applied (R279). -/
def applyUpdates (s : State) (m : Member) (loc : Nat) : State :=
  let ld := s.landing m.pc
  let now := fun (w : Weir) => w.slot == m.slot && w.seg == loc && eligible s ld w
  let ws := ld.weir.filter now
  if ws.isEmpty then s else (weirOrder s ws).foldl (fun x w => applyWeir x m w) (s.setLanding m.pc { ld with weir := ld.weir.filter (fun w => !now w) })

/-- What a visit makes of the ride that restores a table: first the record is read, then its leaves. At a poisoned segment it stops, and SEG_UE is raised for each request that waits for the table (R346, R369, log 128). -/
def visitTable (s : State) (m : Member) (loc : Nat) (r : Rider) : State × Option Rider :=
  let n := m.pc / 64
  let here := (m.slot, loc, 0)
  if r.dead || !r.want.contains here then (s, some r)
  else if segPoisoned s m loc then
    (((s.base n).reqs.filter (fun q => reqSeq s q == some r.start)).foldl (fun z q => match q with
      | .cmd id => raiseSeg z id m loc loc
      | .node k slot l .. =>
          raiseTrap z { agent := .launch l, launch := l, die := k / 2048, unitNo := slot, tile := k % 2048, word := segWord m loc } causeSegUe (paOf 0 (loc * Reach.g m.entry))) s,
     some { r with dead := true })
  else
    let ps := (((s.base n).evicted.get? r.start).map (fun t => t.places)).getD []
    (s, some { r with want := if ps.head? == some loc then ps.tail.map (fun p => (15, p, 0)) else r.want.filter (· != here) })

/-- What a visit makes of a ride that restores a saved launch: it rides one lap of the save reach. At a poisoned segment of the launch's pages it stops with SEG_UE (R351, R369, log 128). -/
def visitRestore (s : State) (m : Member) (loc : Nat) (r : Rider) : State × Option Rider :=
  let x := s.launch r.start
  let seg := Stripe.segAt (stripe s x.ctx (Reach.crn m.entry)) (Reach.rank m.entry) loc
  if r.dead || r.slot != m.slot then (s, some r)
  else if ((s.saved.get? r.start).map (fun y => y.pages)).any (fun ps => ps.contains (seg * Reach.g m.entry / 2 ^ 21)) && segPoisoned s m loc then
    (raiseTrap s { agent := .launch r.start, launch := r.start, die := 0, unitNo := 0, tile := 0, unit := true, word := segWord m loc } causeSegUe (paOf (Reach.crn m.entry) (seg * Reach.g m.entry)),
     some { r with dead := true })
  else (s, if r.left ≤ 1 then none else some { r with left := r.left - 1 })

/-- One rider at a visit. -/
def visitRider (s : State) (m : Member) (loc : Nat) (r : Rider) : State × Option Rider :=
  if !r.on then (s, some r)
  else match r.kind with
  | .flow | .snap => if r.slot == m.slot then visitRide s m loc r else (s, some r)
  | .gather => visitGather s m loc r
  | .kv => visitKv s m loc r
  | .table => visitTable s m loc r
  | .restore => visitRestore s m loc r

/-- Every rider of a landing at a visit, in their order; those that stay. -/
def visitRiders (s : State) (m : Member) (loc : Nat) : List Rider → State × List Rider
  | [] => (s, [])
  | r :: rs =>
      let a := visitRider s m loc r
      let b := visitRiders a.1 m loc rs
      (b.1, match a.2 with
        | some x => x :: b.2
        | none => b.2)

/-- Scale pairs whose command has taken its last token and has no update left at the landing are free (R283). -/
def freePairs (s : State) (pc : PcKey) : State :=
  let ld := s.landing pc
  let busy := fun (id : Nat) => ((s.cmd id).phase != .done && (s.cmd id).taken < updTokens (s.cmd id)) || (s.cmd id).flight.any (fun f => f.2.1 == pc) || ld.weir.any (fun w => w.cmd == id)
  if ld.pairs.all busy then s else s.setLanding pc { ld with pairs := ld.pairs.filter busy }

/-- The cursor of a reach moves on (R265). -/
def cursorNext (s : State) (m : Member) (loc lap : Nat) : State :=
  let ld := s.landing m.pc
  let last := Reach.lseg m.entry ≤ loc + 1
  s.setLanding m.pc { ld with cursors := ld.cursors.put m.slot (if last then 0 else loc + 1, if last then lap + 1 else lap) }

/-- SEGMENT_VISIT: the cursor of a reach visits its next segment, when the visit order of its stripe has come to it: updates, then riders, then write-back; the riders see the poison that the reading found, which an update of this visit may have cleared (R269, R272, R274, R279, R281, R369). -/
def execSegmentVisit (s : State) : Out :=
  match s.focus with
  | .landing pc slot =>
      let ld := s.landing pc
      (match ld.reaches.get? slot with
       | none => .fault .noAgent
       | some e =>
           if !Reach.valid e || s.dev.wiping || !visitTurn s ⟨pc, slot, e⟩ then .next s
           else
             let m : Member := ⟨pc, slot, e⟩
             let cur := ld.cursors.getD slot (0, 0)
             let s0 := poisonSegment s m cur.1
             let s1 := freePairs (applyUpdates s0 m cur.1) pc
             let old := (s1.landing pc).riders
             let v := visitRiders { s1 with poison := s0.poison } m cur.1 old
             let s2 := { v.1 with poison := s1.poison }.setLanding pc { v.1.landing pc with riders := v.2 ++ (v.1.landing pc).riders.drop old.length }
             let s3 := old.foldl (fun x r => if r.cmd == 0 then x else foldClose x r.cmd) s2
             .next (cursorNext s3 m cur.1 cur.2))
  | _ => .fault .noAgent

/-! ### Posting (R157, R172, R278, R283, R301) -/

/-- The member and local segment of a granule of a `pagein`. -/
def pagePlace (s : State) (c : Cmd) (g : Nat) : Option (Member × Nat × Nat) :=
  match mapFind s c.ctx (Word.field c.word 61 35).toNat with
  | some (_, e) => paPlace s c.ctx (paOf (MapEntry.crn e) (MapEntry.page e * 2 ^ 21 + 64 * g))
  | none => none

/-- A posting that no landing accepts any more is discarded: its command retires LINK_FENCED (R286, R375). -/
def discardPost (s : State) (id : Nat) : State :=
  let c := s.cmd id
  s.setCmd id { c with posted := c.posted - 1, lost := c.lost + 1, status := CStat.fenced }

/-- POSTING_ACCEPT: a landing accepts and stamps the update that its sender sent it first; a `pagein` whose far page has come posts the next granule of its page (R157, R278, R286, R342). -/
def execPostingAccept (s : State) : Out :=
  match s.focus with
  | .cmdAt id pc =>
      let c := s.cmd id
      let room := (s.landing pc).weir.length < 4096
      if !s.cmds.has id then .fault .noAgent
      else match takeFirst (fun (f : Nat × PcKey × Weir) => f.2.1 == pc) c.flight with
      | some ((no, _, w), rest) =>
          if earlierSent s c.station pc no then .next s
          else if fencedPc s pc then .next (discardPost (accDone (s.setCmd id { c with flight := rest }) w.acc) id)
          else if room then .next (accStamped (weirPut (s.setCmd id { c with flight := rest }) pc w) w.acc)
          else .next s
      | none =>
          if cmdCode c.word != 0x19 || c.phase != .started || !c.underway || !c.extended || c.status == CStat.netErr || 32768 ≤ c.taken then .next s
          else
            match pagePlace s c c.taken with
            | none => .next s
            | some (m, loc, o) =>
                let x := { c with taken := c.taken + 1, posted := c.posted + 1 }
                if m.pc != pc then .next s
                else if fencedPc s pc then .next (discardPost (s.setCmd id x) id)
                else if room then
                  .next (weirPut (s.setCmd id x) pc (granuleWrite id m.slot loc (o / 64) (Mem.readN s.far (farByte s c (64 * c.taken)) 64) 0))
                else .next s
  | _ => .fault .noAgent

/-- The update command that takes the tokens at a PT's `pt.q` (R172). -/
def updTaking (s : State) (k : TileKey) : Option (Nat × Cmd) :=
  s.cmds.find? (fun c => c.2.away.isNone && c.2.station == .port k && c.2.phase == .started && isUpd c.2 && c.2.admitted && c.2.taken < updTokens c.2)

/-- What an update command does to a word (R172). -/
def updOpOf (w : Word128) : UpdOp :=
  let code := cmdCode w
  if code == 0x10 then .write else if code == 0x11 then .add else if code == 0x12 then .max
  else .scadd (Word.field w 32 32) (Word.field w 0 32)

/-- The update of one token (R171, R172). -/
def updOf (s : State) (id : Nat) (c : Cmd) (m : Member) (loc : Nat) (t : Tok) : Weir :=
  let n := (Word.field c.word 74 4).toNat + 1
  { cmd := id, slot := m.slot, seg := loc, word := (Word.field c.word 78 10).toNat, op := updOpOf c.word, ety := Word.field c.word 88 4
    vals := (List.range n).map (Word.lane t.pay), ftag := if cmdCode c.word == 0x10 then Word.field c.word 60 4 else 0, stamp := 0
    round := cmdRound s c, key := tempoKey c c.taken, acc := t.acc }

/-- UPD_TOKEN_TAKE: the update command whose turn it is takes the token at `pt.q` and posts it, when its landing's weir and a scale pair have room (R172, R283, R301). DEDUCED (log 118): a discarded update discards no other one of its command, so that a command that runs beyond a reach writes the segments within it; R230 can also be read otherwise. -/
def execUpdTokenTake (s : State) : Out :=
  atTile s .pt fun k t =>
    match t.ports.get? 0x30, updTaking s k with
    | some p, some (id, c) =>
        let x := p.tok
        if (s.port k).qStopped then .next s
        else if x.tt == .resume then .next (raiseTrap s (unitSite s k 0x30 0 (some x)) causeBadToken 0)
        else if x.tt.isMarker || x.tt == .fault then .next ((portDrop s k 0x30 x).setCmd id { c with missed := c.missed + 1 })
        else
          let ms := stripe s c.ctx (Word.field c.word 92 4)
          (match Stripe.place ms (tagSeq x) with
           | none => .next ((accDone (portTake s k 0x30) x.acc).setCmd id { c with taken := c.taken + 1, missed := c.missed + 1, status := if c.status == 0 then CStat.range else c.status })
           | some (m, loc) =>
               let ld := s.landing m.pc
               let scale := cmdCode c.word == 0x13
               if !weirRoom s m.pc 1 || (scale && !ld.pairs.contains id && 2 ≤ ld.pairs.length) then .next s
               else if (cmdRound s c).isSome && 2048 ≤ tempoHeldAt s m.pc then
                 .next (raiseTrap s (unitSite s k 0x30 0 (some x)) causeTempoWeir ((tempoKey c 0).getD 2 0 % 4096))
               else
                 let s1 := (portTake s k 0x30).setCmd id { c with taken := c.taken + 1, posted := c.posted + 1, flight := c.flight ++ [(s.sends, m.pc, updOf s id c m loc x)], hb := hbJoin c.hb (pastOf s [x]) }
                 let s2 := if scale && !ld.pairs.contains id then s1.setLanding m.pc { s1.landing m.pc with pairs := id :: ld.pairs } else s1
                 .next { s2 with sends := s.sends + 1 })
    | _, _ => .next s

/-- ROUND_MARK: the round mark of a `tempo` command reaches a landing after every update its PT posted earlier (R301). -/
def execRoundMark (s : State) : Out :=
  match s.focus with
  | .mark k pc =>
      (match s.cmds.find? (fun c => c.2.station == .port k && cmdCode c.2.word == 0x30 && c.2.pending.contains pc) with
       | none => .next s
       | some (id, c) =>
           if earlierSent s c.station pc c.sentAt then .next s
           else
             let ld := s.landing pc
             let r := (Word.field c.word 16 32).toNat
             let s1 := s.setCmd id { c with pending := c.pending.erase pc }
             .next (s1.setLanding pc { ld with marks := (c.launch, k, r) :: ld.marks.filter (fun m => !(m.1 == c.launch && m.2.1 == k)) }))
  | _ => .fault .noAgent

/-! ### The address generator (R181) -/

/-- STRi of a PT's unit section (R26). -/
def strOf (t : Tile) (i : Nat) : Int := ((Word.field (t.units.getD (2 + i) 0) 0 32 : BitVec 32)).toInt

/-- The address of one set of counters (R181). -/
def genAddr (t : Tile) (base : BitVec 56) (lc : List Nat) : BitVec 56 :=
  BitVec.ofInt 56 ((base.toNat : Int) + ((List.range (nlvl t)).foldl (fun a i => a + (lc.getD i 0 : Int) * strOf t i) 0))

/-- The counters after one address, level by level; a carry out of the last level is kept in it, and says that the loops have ended. -/
def lcNext (t : Tile) : Nat → Nat → List Nat → List Nat
  | 0, _, lc => lc
  | n + 1, i, lc =>
      let v := lc.getD i 0 + 1
      if v < cntOf t i || i + 1 == nlvl t then setAt lc i v else lcNext t n (i + 1) (setAt lc i 0)

/-- Up to `n` further addresses and the counters after them. -/
def genTake (t : Tile) (base : BitVec 56) : Nat → List Nat → List (BitVec 56) × List Nat
  | 0, lc => ([], lc)
  | n + 1, lc =>
      if genEnded t lc then ([], lc)
      else
        let r := genTake t base n (lcNext t 4 0 lc)
        (genAddr t base lc :: r.1, r.2)

/-- The generator stops: an `unbind` that waits for it is done (R180). -/
def genStop (s : State) (k : TileKey) : State :=
  let p := s.port k
  let s1 := s.setPort k { p with gen := none, stopAt := none }
  match p.stopAt with
  | some id => s1.setCmd id { s1.cmd id with extended := true, detail := p.lc.getD 0 0, detail2 := p.lc.getD 1 0 }
  | none => s1

/-- What happens before a generator's tokens: what happens before its `bind` (R289). -/
def genPast (s : State) (p : PortUnit) : List Nat := (p.gen.map (fun id => (s.cmd id).hb)).getD []

/-- ADDRESS_GENERATE: the generator sends its next token of eight addresses, or its end-of-stream token, or stops for an `unbind` with the counters of the first address not sent (R180, R181). -/
def execAddressGenerate (s : State) : Out :=
  atTile s .pt fun k t =>
    let p := s.port k
    let tgt := (Tgt.ofCode (Word.field (t.units.getD 1 0) 46 12)).getD .none
    if p.gen.isNone || (s.regionStops (s.regionOf k) && genLeft t p.lc < 8) then .next s
    else if p.stopAt.isSome && !genEnded t p.lc && genLeft t p.lc < 8 then .next (genStop s k)
    else if !targetFree t tgt then .next s
    else if genEnded t p.lc then
      let s1 := deliver s k tgt { tok := { tt := .eos, seq := BitVec.ofNat 8 p.sent, hb := genPast s p } }
      .next (genStop s1 k)
    else
      let r := genTake t p.base 8 p.lc
      let fill := r.1.getLastD 0
      let y : Tok := { seq := BitVec.ofNat 8 p.sent, pay := Word.ofA64 fun i => ((r.1.getD i fill).setWidth 64), hb := genPast s p }
      .next ((deliver s k tgt { tok := y }).setPort k { p with lc := r.2, sent := p.sent + 1 })

end Sys2Proof.Machine
end

