-- ==== Sys2Proof/Machine/Launches.lean ====
section
/-! DEFINITION. Launches (14 R317-R330; 15 R348-R351; 18 R358-R367): the check of a launch packet, placement, the start, retirement and tail launches, pre-emption and resumption, killing. -/

namespace Sys2Proof.Machine

/-! ### The launch packet (R317, R318) -/

namespace Launch

/-- HANDLE. -/
def handleOf (p : Packet) : Nat := (pk p 4 4).toNat
/-- DEADLINE. -/
def deadline (p : Packet) : Nat := (pk p 8 8).toNat
/-- QW. -/
def qw (p : Packet) : Nat := (pk p 0x10 1).toNat
/-- QH. -/
def qh (p : Packet) : Nat := (pk p 0x11 1).toNat
/-- Dies of the placement, NDM1 + 1. -/
def nd (p : Packet) : Nat := (pk p 0x12 1).toNat + 1
/-- CARVE in KiB. -/
def carve (p : Packet) : Nat := (pk p 0x14 2).toNat
/-- A bit of FLAGS: 0 BARRIER, 1 TEMPO, 2 RACE. -/
def flag (p : Packet) (i : Nat) : Bool := Word.bit (pk p 1 1) i
/-- SEEDPORTk. -/
def seedPort (p : Packet) (k : Nat) : BitVec 32 := pk p (0x20 + 4 * k) 4
/-- The value of seed k: SEEDVALk, or two argument words. -/
def seedVal (p : Packet) (k : Nat) : BitVec 64 := if k < 4 then pk p (0x40 + 8 * k) 8 else pk p (0x60 + 8 * (k - 4)) 8
/-- The work-id widths. -/
def widths (p : Packet) : List Nat := (List.range 6).map (fun f => (pk p (0x18 + f) 1).toNat)

end Launch

/-- The fields of a launch packet lie in the ranges of R317. DEDUCED (log 146): beyond NSEED the value SEEDVALk must be zero as well as its descriptor. -/
def launchFieldsOk (q : Nat) (p : Packet) : Bool :=
  let ws := Launch.widths p
  (pk p 2 2).toNat == q && Word.field (pk p 1 1) 3 5 == (0 : BitVec 5) && pk p 0x16 2 == 0 && pk p 0x1E 2 == 0
  && 1 ≤ Launch.qw p && Launch.qw p ≤ 16 && 1 ≤ Launch.qh p && Launch.qh p ≤ 8 && Launch.nd p ≤ 12 && nseed p ≤ 8 && Launch.carve p ≤ 256
  && ws.all (· ≤ 64) && ws.sum ≤ 64
  && (List.range 8).all (fun k =>
      Word.field (Launch.seedPort p k) 18 6 == (0 : BitVec 6)
      && (k < nseed p || (Launch.seedPort p k == 0 && (4 ≤ k || Launch.seedVal p k == 0))))

/-- Where the regions of a kernel lie in the rectangles: rectangle number and offset in quads, in region order; `none` where they do not fit (R319). -/
def layRegions (qw qh nd : Nat) : List KRegion → Nat → Nat → Option (List (Nat × Nat))
  | [], _, _ => some []
  | r :: rs, j, x =>
      let new := qw < x + r.w
      let j1 := if new then j + 1 else j
      let x1 := if new then 0 else x
      if qh < r.h || qw < r.w || nd ≤ j1 then none else (layRegions qw qh nd rs j1 (x1 + r.w)).map (fun l => (j1, x1) :: l)

/-- The layout of a kernel in a launch's rectangles (R319). -/
def layoutOf (p : Packet) (k : Kernel) : Option (List (Nat × Nat)) := layRegions (Launch.qw p) (Launch.qh p) (Launch.nd p) k.regions 0 0

/-- The lowest-numbered block of a region (R235). -/
def lowestBlockOf (k : Kernel) (region : Nat) : Option (Nat × Block) := k.blocks.find? (fun b => b.2.region == region)

/-- The tile of a block as a load would leave it, without its place. -/
def imageTile (b : Block) (rel : Nat) : Tile := loadedTile 0 b rel

/-- A seed's descriptor names a latch that it may fill (R318). -/
def seedOk (k : Kernel) (d : BitVec 32) : Bool :=
  match lowestBlockOf k (Word.field d 24 8).toNat, Pos.ofCode (Word.field d 16 2) with
  | some (_, b), some p =>
      let rel := (Word.field d 0 11).toNat
      let n : BitVec 5 := Word.field d 11 5
      let t := imageTile b rel
      t.slots.has n.toNat && wordEnables (t.slots.getD n.toNat {}).word p && !latchFed t p n
        && !(b.entries.any (fun e => e.tile == rel && e.slot == n.toNat && e.pos == p))
  | _, _ => false

/-- The owner range of an SP tile overlaps a launch's carve-out; an empty one overlaps nothing (R242, R318). -/
def ownerInCarve (p : Packet) (b : Block) : Bool :=
  let w := (imageTile b 65).units.headD 0
  let lim := if Launch.flag p 2 then 262144 else 524288
  let base := (Word.field w 44 19).toNat
  let len := (Word.field w 24 20).toNat
  Word.bit w 63 && 0 < Launch.carve p && 0 < len && base < lim && lim - 1024 * Launch.carve p < base + len

/-- A `merge.any` of which one latch has neither a producer nor an entry port: a marker at the other would never meet its like (R123, R240, R318). -/
def mergeOpen (b : Block) : Bool :=
  b.images.any (fun im =>
    let t := imageTile b im.1
    t.slots.any (fun x => match decodeNode x.2.word with
      | .ok (.merge _ false) => [Pos.left, .right].any (fun p =>
          !latchFed t p (BitVec.ofNat 5 x.1) && !b.entries.any (fun e => e.tile == im.1 && e.slot == x.1 && e.pos == p))
      | _ => false))

/-! ### Placement (R4, R319) -/

/-- The command strip and the reserve strip (R4). -/
def stripQuad (d qx : Nat) : Bool := qx == 0 && (d == 0 || d == 6)

/-- The quads of a rectangle. -/
def rectQuads (qx qy w h : Nat) : List (Nat × Nat) := (List.range h).flatMap (fun j => (List.range w).map (fun i => (qx + i, qy + j)))

/-- Whether a launch that has started, or is being restored, holds a quad (R319, R351). -/
def holdsQuad (l : Launch) (d qx qy : Nat) : Bool :=
  (l.phase == .running || l.resuming) && l.places.any (fun x =>
    x.1 == d && x.2.1 ≤ qx && qx < x.2.1 + Launch.qw l.packet && x.2.2 ≤ qy && qy < x.2.2 + Launch.qh l.packet)

/-- Whether no started launch holds a quad, leaving out those that pass a test. -/
def quadFree (s : State) (skip : Launch → Bool) (d qx qy : Nat) : Bool := s.launches.all (fun l => skip l.2 || !holdsQuad l.2 d qx qy)

/-- Whether a rectangle lies in a context's partition, off the strips, and in quads that pass a test. -/
def rectOk (s : State) (c : Nat) (free : Nat → Nat → Nat → Bool) (d qx qy w h : Nat) : Bool :=
  qx + w ≤ 16 && qy + h ≤ 8 && (rectQuads qx qy w h).all (fun q => ownsQuad s c d q.1 q.2 && !stripQuad d q.1 && free d q.1 q.2)

/-- Every origin of a die, the lowest qy first, then the lowest qx (R319). -/
def origins : List (Nat × Nat) := (List.range 8).flatMap (fun y => (List.range 16).map (fun x => (x, y)))

/-- One origin on each of the lowest dies on which rectangle number `j` passes a test, from a die upward. -/
def placeFrom (ok : Nat → Nat → Nat × Nat → Bool) : Nat → Nat → Nat → List (Nat × Nat × Nat) → Option (List (Nat × Nat × Nat))
  | 0, _, _, _ => none
  | n + 1, nd, d, acc =>
      let acc1 := match origins.find? (ok acc.length d) with
        | some o => acc ++ [(d, o.1, o.2)]
        | none => acc
      if acc1.length == nd then some acc1 else placeFrom ok n nd (d + 1) acc1

/-- The tiles of a quad still hold a region's lowest-numbered block of a handle, as its last launch left them (R319). -/
def warmRegion (s : State) (handle index block d qx qy w h : Nat) : Bool :=
  let rg : Region := { launch := 0, index := index, die := d, qx := qx, qy := qy, w := w, h := h }
  (regionRels rg).all (fun rel =>
    let t := s.tile (regionTile rg rel)
    match t.region with
    | some r0 =>
        let l := s.launch (r0 / 65536)
        t.rel == rel && r0 % 65536 == index && l.phase == .retired && l.handle == handle && s.launches.has (r0 / 65536) && l.finals.get? index == some block
    | none => false)

/-- The placement of a launch of a context, if there is one: a warm one first (R319). -/
def placement (s : State) (c : Nat) (p : Packet) (free : Nat → Nat → Nat → Bool) : Option (List (Nat × Nat × Nat)) :=
  let k := s.kernels.getD (Launch.handleOf p) { ctx := 0, regions := [], blocks := [] }
  let w := Launch.qw p
  let h := Launch.qh p
  let lay := (layoutOf p k).getD []
  let cold := fun (_ d : Nat) (o : Nat × Nat) => rectOk s c free d o.1 o.2 w h
  let warm := fun (j d : Nat) (o : Nat × Nat) => cold j d o && (List.range k.regions.length).all (fun i =>
    let x := lay.getD i (0, 0)
    let r := k.regions.getD i { w := 0, h := 0 }
    x.1 != j || warmRegion s (Launch.handleOf p) i ((lowestBlockOf k i).elim 0 Prod.fst) d (o.1 + x.2) o.2 r.w r.h)
  (placeFrom warm 12 (Launch.nd p) 0 []).orElse (fun _ => placeFrom cold 12 (Launch.nd p) 0 [])

/-- The check of a launch that has become its queue's head: the status it completes with, or nothing (R318, R331, R372). -/
def launchCheck (s : State) (q : Nat) (p : Packet) : Option Nat :=
  let c := (s.queue q).ctx
  if c == 0 then some Status.denied
  else if !launchFieldsOk q p || (Launch.flag p 1 && !feature s 0) || (Launch.flag p 2 && !feature s 1) then some Status.badReq
  else match s.kernels.get? (Launch.handleOf p) with
    | none => some Status.badHandle
    | some k =>
        if k.ctx != c then some Status.badHandle
        else if (layoutOf p k).isNone || !((List.range (nseed p)).all (fun i => seedOk k (Launch.seedPort p i)))
            || k.blocks.any (fun b => ownerInCarve p b.2) || (Launch.flag p 1 && k.blocks.any (fun b => mergeOpen b.2)) then some Status.badReq
        else if (placement s c p (fun _ _ _ => true)).isNone then some Status.tooBig
        else none

/-- A launch consumed from its queue's head is checked: it completes at once, never having started, or waits as a candidate (R315, R318, R320). -/
def queueLaunch (s : State) (q : Nat) (o : Open) : State :=
  match launchCheck s q o.packet with
  | some st => completePacket s q o.ticket { status := st }
  | none => s.setQueue q { s.queue q with waiting := some o }

/-! ### BIND (R328) -/

/-- The number of a region of a launch. -/
def regionId (l index : Nat) : Nat := 65536 * l + index

/-- The index of a PT on its die (R333). -/
def ptIndex (k : TileKey) : Nat :=
  let x := k % 64
  let y := k % 2048 / 64
  y / 4 * 32 + x / 4 * 2 + (if x % 4 == 3 then 1 else 0)

/-- The word of a BIND packet's `bind`: without GV and TK (R179, R328). -/
def bindWord (k : TileKey) (ops : BitVec 96) : Word128 :=
  (0x28 : BitVec 7) ++ (0 : BitVec 13) ++ BitVec.ofNat 4 (k / 2048) ++ BitVec.ofNat 8 (ptIndex k) ++ ops

/-- The firmware issues a BIND packet's `bind` to its PT, on behalf of a launch. It is checked at once, or once the region it names is loaded (R328). -/
def issueBind (s : State) (q : Nat) (o : Open) (l : Nat) : State :=
  let r := regionId l (pk o.packet 0x1C 1).toNat
  let rg := s.region r
  let rel := (pk o.packet 0x1E 2).toNat
  let k := regionTile rg rel
  let id := s.nextCmd + 1
  let x := s.launch l
  if x.ctx != (s.queue q).ctx then completePacket s q o.ticket { status := Status.denied, start := o.started }
  else if !s.regions.has r || !(regionRels rg).contains rel || Config.tileKind rel != .pt then
    completePacket s q o.ticket { status := Status.badReq, start := o.started }
  else
    bindVerdict { s.setCmd id { word := bindWord k (pk o.packet 0x10 12), station := .port k, origin := .packet q o.ticket, launch := l, ctx := x.ctx, region := r } with
      nextCmd := id } id

/-- BINDs to a tail chain whose child has waited are issued to it, or find no target once the chain is over (R328, R329). -/
def settleBinds (s : State) (ticket : BitVec 64) (l : Option Nat) : State :=
  s.queues.foldl (fun z q =>
    let mine := fun (o : Open) => pk o.packet 8 8 == ticket
    let z1 := z.setQueue q.1 { z.queue q.1 with binds := (z.queue q.1).binds.filter (fun o => !mine o) }
    if q.2.binds.any mine then
      (q.2.binds.filter mine).foldl (fun y o => match l with
        | some n => issueBind y q.1 o n
        | none => completePacket y q.1 o.ticket { status := Status.noTarget, start := o.started }) z1
    else z) s

/-! ### The start of a launch (R325, R326) -/

/-- The launch seeds of a region, in ascending number (R326). -/
def seedsOf (p : Packet) (region : Nat) : List Seed :=
  (List.range (nseed p)).filterMap (fun i =>
    let d := Launch.seedPort p i
    if (Word.field d 24 8).toNat == region then
      some { tile := (Word.field d 0 11).toNat, slot := (Word.field d 11 5).toNat, pos := (Pos.ofCode (Word.field d 16 2)).getD .left,
             tok := { tag := BitVec.ofNat 16 i, pay := (Launch.seedVal p i).setWidth 512 } }
    else none)

/-- Keep the bytes of a memory whose tile (key / size) does not pass a test. -/
def dropTiles (m : List Host.Cell) (size : Nat) (gone : Nat → Bool) : List Host.Cell := m.filter (fun c => !gone (c.1 / size))

/-- A region of a launch is placed: its records start anew, its sequencer RAM is loaded, and the load of its lowest-numbered block begins (R187, R219, R307, R325). -/
def startRegion (s : State) (l : Nat) (p : Packet) (k : Kernel) (index : Nat) (places : List (Nat × Nat × Nat)) : State :=
  let kr := k.regions.getD index { w := 0, h := 0 }
  let x := ((layoutOf p k).getD []).getD index (0, 0)
  let o := places.getD x.1 (0, 0, 0)
  let rg : Region := { launch := l, index := index, die := o.1, qx := o.2.1 + x.2, qy := o.2.2, w := kr.w, h := kr.h
                       loading := (lowestBlockOf k index).map Prod.fst, seeds := seedsOf p index, quiet := true }
  let keys := (regionRels rg).map (regionTile rg)
  let gone := fun (t : Nat) => keys.contains t
  let ram := dropTiles s.ram 65536 gone
  { s with regions := s.regions.put (regionId l index) rg
           seqs := s.seqs.keep (fun t _ => !gone t)
           ports := s.ports.keep (fun t _ => !gone t)
           shadow := s.shadow.keep (fun t _ => !gone (t / 524288))
           ramEcc := s.ramEcc.filter (fun t => !gone (t / 65536))
           ram := match kr.seq with
             | some rel => Mem.writeN ram (regionTile rg rel * 65536) kr.ram
             | none => ram }

/-- LAUNCH_START: a launch is placed and its regions begin to load (R325). `was` is the launch whose tail child it is. -/
def startLaunch (s : State) (q : Nat) (o : Open) (places : List (Nat × Nat × Nat)) (flags : Nat) (started : BitVec 64) : State :=
  let l := s.launches.length + 1
  let k := s.kernels.getD (Launch.handleOf o.packet) { ctx := 0, regions := [], blocks := [] }
  let x : Launch := { packet := o.packet, queue := q, ticket := o.ticket, stamp := o.stamp, ctx := (s.queue q).ctx, handle := Launch.handleOf o.packet
                      places := places, regions := (List.range k.regions.length).map (regionId l), flags := flags, started := started
                      arrived := o.arrived, startAt := s.dev.dtime, phaseAt := s.dev.dtime, chain := o.chain }
  settleBinds ((List.range k.regions.length).foldl (fun s1 i => startRegion s1 l o.packet k i places) (s.setLaunch l x)) o.ticket (some l)

/-! ### The end of a launch (R202, R315, R320, R329) -/

/-- Whether a launch of a handle has not completed: it waits, runs, or another kernel of its tail chain does (R312, R320). -/
def handleUsed (s : State) (handle : Nat) : Bool :=
  s.launches.any (fun l => l.2.phase != .retired && (l.2.handle == handle || l.2.chain.contains handle))
  || s.queues.any (fun q => q.2.tails.any (fun o => Launch.handleOf o.packet == handle || o.chain.contains handle)
      || q.2.waiting.any (fun o => Launch.handleOf o.packet == handle))

/-- An UNLOAD completes once every launch of its handle has completed, and frees the handle (R312). -/
def settleUnload (s : State) (handle : Nat) : State :=
  match s.kernels.get? handle with
  | none => s
  | some k =>
      if k.closing.isEmpty || handleUsed s handle then s
      else
        let s1 := { s with kernels := s.kernels.del handle }
        k.closing.foldl (fun x c =>
          completePacket x c.1 c.2 { status := Status.ok, start := ((x.queue c.1).opens.find? (fun o => o.ticket == c.2)).elim 0 (fun o => o.started) }) s1

/-- A packet of a launch completes without a kernel that runs; BINDs that waited for it find no target, and UNLOADs of its kernels go on (R312, R315, R328). -/
def launchOver (s : State) (q : Nat) (ticket : BitVec 64) (handles : List Nat) (c : Completion) : State :=
  handles.foldl settleUnload (settleBinds (completePacket s q ticket c) ticket none)

/-- The completion record of a launch (R315). -/
def completeLaunch (s : State) (l : Nat) (status : Nat) : State :=
  let x := s.launch l
  launchOver s x.queue x.ticket (x.handle :: x.chain) { status := status, flags := x.flags, start := x.started }

/-- The keys of the tiles in a launch's rectangles (R319). -/
def launchKeys (x : Launch) : List TileKey :=
  x.places.flatMap (fun o => regionRels { launch := 0, index := 0, die := o.1, qx := o.2.1, qy := o.2.2, w := Launch.qw x.packet, h := Launch.qh x.packet }
    |>.map (fun rel => o.1 * 2048 + (4 * o.2.2 + rel / 64) * 64 + 4 * o.2.1 + rel % 64))

/-- A region's part of the condition for retirement: its sequencer has halted, it meets R252, nothing is parked, no load is pending (R202, R236, R248). -/
def regionOver (s : State) (r : Nat) : Bool :=
  let rg := s.region r
  rg.block.isSome && rg.loading.isNone && rg.cfgNext.isNone && !rg.closed && regionQuiet s r && rg.queues.all (fun q => q.2.isEmpty)
  && (!s.launchFlag rg.launch 1 || (rg.quiet && !rg.due) || drainWave s r)
  && (match regionSeq s r with
      | some k => (s.seq k).halted && !(s.seq k).stopped && (s.seq k).fails.isEmpty
      | none => true)

/-- Whether a kernel retires now (R202, R248, R360). -/
def kernelOver (s : State) (l : Nat) : Bool :=
  let x := s.launch l
  x.phase == .running && x.records == 0 && x.regions.all (regionOver s) && !(s.cmds.any (fun c => c.2.launch == l && c.2.origin != .firmware && c.2.phase != .done))

/-- The regions of a launch are gone; its tiles stay as they are, for a warm placement. -/
def closeRegions (s : State) (l : Nat) : State :=
  let x := s.launch l
  let fin : Map Nat := x.regions.foldl (fun m r => match (s.region r).block with
    | some b => m.put (s.region r).index b
    | none => m) []
  let keys := launchKeys x
  { s.setLaunch l { x with phase := .retired, finals := fin } with
    regions := s.regions.keep (fun r _ => !x.regions.contains r)
    seqs := s.seqs.keep (fun t _ => !keys.contains t)
    ports := s.ports.keep (fun t _ => !keys.contains t)
    staging := s.staging.mapV (fun _ b => b.filter (fun y => !x.regions.contains y.1)) }

/-- The child of a tail launch, with its parent's queue, ticket and stamp (R329). -/
def tailChild (x : Launch) (p : Packet) : Open :=
  let body : Packet := Word.setField (Word.setField p 16 (0 : BitVec 16)) 16 (BitVec.ofNat 16 x.queue)
  { ticket := x.ticket, stamp := x.stamp, packet := body, started := x.started, flags := (x.flags ||| 2), chain := x.handle :: x.chain }

/-- TAIL_LAUNCH_START: the child is checked; one that fits its parent's placement starts there, any other waits at the head of the parent's queue (R329). -/
def tailStart (s : State) (l : Nat) (p : Packet) : State :=
  let x := s.launch l
  let o := { tailChild x p with arrived := s.dev.dtime }
  let s1 := s.setLaunch l { x with flags := x.flags ||| 2 }
  let plain := pk p 0 1 == 1
  match (if plain then launchCheck s1 x.queue o.packet else some Status.badReq) with
  | some st => completeLaunch s1 l st
  | none =>
      if Launch.qw o.packet ≤ Launch.qw x.packet && Launch.qh o.packet ≤ Launch.qh x.packet && Launch.nd o.packet ≤ Launch.nd x.packet then
        startLaunch s1 x.queue o (x.places.take (Launch.nd o.packet)) o.flags o.started
      else
        let q := s1.queue x.queue
        s1.setQueue x.queue { q with tails := q.tails ++ [o] }

/-- KERNEL_RETIRE: a kernel retires, and starts its tail child or completes its launch (R202, R320, R329). -/
def execKernelRetire (s : State) : Out :=
  match s.focus with
  | .launch l =>
      if !s.launches.has l then .fault .noAgent
      else if !kernelOver s l then .next s
      else
        let s1 := closeRegions s l
        .next (match (s.launch l).tail with
          | some p => tailStart s1 l p
          | none => completeLaunch s1 l Status.ok)
  | _ => .fault .noAgent

/-! ### Pre-emption (R101, R180, R348-R350) -/

/-- A quad that more than one context's partition holds (R312). -/
def sharedQuad (s : State) (d qx qy : Nat) : Bool := 2 ≤ (s.contexts.filter (fun c => c.2.rects.any (fun r => rectHolds r d qx qy))).length

/-- The quads a launch holds. -/
def launchQuads (x : Launch) : List (Nat × Nat × Nat) :=
  x.places.flatMap (fun o => (rectQuads o.2.1 o.2.2 (Launch.qw x.packet) (Launch.qh x.packet)).map (fun q => (o.1, q.1, q.2)))

/-- Whether a launch is started, or is being restored, and holds a shared quad. -/
def holdsShared (s : State) (x : Launch) : Bool := (x.phase == .running || x.resuming) && (launchQuads x).any (fun q => sharedQuad s q.1 q.2.1 q.2.2)

/-- Pages of a context's save reach (R332, R350). -/
def savePages (s : State) (c : Nat) : Nat :=
  match (s.ctx c).save with
  | none => 0
  | some n => let ms := stripe s c n; Stripe.len ms * Stripe.g ms / 2 ^ 21

/-- Free pages of a context's save reach for a launch, one for each of its quads; `none` if they are too few (R350). -/
def takePages (s : State) (x : Launch) : Option (List Nat) :=
  let used := s.saved.flatMap (fun y => if (s.launch y.1).ctx == x.ctx then y.2.pages else [])
  let free := (List.range (savePages s x.ctx)).filter (fun i => !used.contains i)
  let n := (launchQuads x).length
  if free.length < n then none else some (free.take n)

/-- The pages of the save reach that a saved launch fills: their bytes are the device's own, a free value each (log 4). -/
def fillPages (s : State) (c : Nat) (pages : List Nat) : State :=
  match (s.ctx c).save with
  | none => s
  | some n =>
      let ms := stripe s c n
      pages.foldl (fun s1 pg =>
        let m := (List.range (2 ^ 21)).foldl (fun (m : List Host.Cell) o =>
          let a := pg * 2 ^ 21 + o
          match Stripe.place ms (a / Stripe.g ms) with
          | some (x, loc) => Mem.write m (segByte x loc (a % Stripe.g ms)) (Config.saveByte s1.fresh o)
          | none => m) s1.dram
        let gone := fun (a : Nat) => (List.range (2 ^ 21 / Nat.max 1 (Stripe.g ms))).any (fun i =>
          (Stripe.place ms (pg * 2 ^ 21 / Stripe.g ms + i)).any (fun x => segByte x.1 x.2 0 ≤ a && a < segByte x.1 x.2 0 + Stripe.g ms))
        { s1 with dram := m, poison := s1.poison.filter (fun a => !gone a), fresh := s1.fresh + 1 }) s

/-- Every memory of a list of tiles is zero (R348 step 5, R367 step 7). -/
def clearKeys (s : State) (keys : List TileKey) : State :=
  let gone := fun (t : Nat) => keys.contains t
  { s with tiles := s.tiles.keep (fun t _ => !gone t), seqs := s.seqs.keep (fun t _ => !gone t), ports := s.ports.keep (fun t _ => !gone t)
           scratch := dropTiles s.scratch 524288 gone, ram := dropTiles s.ram 65536 gone
           shadow := s.shadow.keep (fun t _ => !gone (t / 524288))
           ecc := s.ecc.filter (fun a => !gone (a / 524288)), ramEcc := s.ramEcc.filter (fun a => !gone (a / 65536)) }

/-- The shadows of earlier saved launches on a list of tiles move to their own save reaches (R349). -/
def moveShadows (s : State) (keys : List TileKey) : State :=
  s.saved.foldl (fun z y =>
    let x := z.launch y.1
    if y.2.shadowed && (launchKeys x).any keys.contains then
      let z1 := fillPages z x.ctx y.2.pages
      { z1 with saved := z1.saved.put y.1 { y.2 with shadowed := false } }
    else z) s

/-- Whether parcels that wait to leave a tile have settled: the first of them finds its target taken (R348 step 2). -/
def emitsRest (t : Tile) : List Emit → Bool
  | [] => true
  | e :: _ => !targetFree t e.dst

/-- Whether a tile has settled: what its pipes, its matrix unit and its projection engine hold can go no further (R101, R348 step 2). -/
def tileSettled (s : State) (k : TileKey) : Bool :=
  let t := s.tile k
  t.slots.all (fun x => emitsRest t x.2.out)
  && (t.mx.stopped || (emitsRest t (t.mx.run.elim [] (fun r => r.out)) && emitsRest t t.mx.spill && !spillDue s k t))
  && (t.pj.stopped || emitsRest t t.pj.out)

/-- Whether a command stands at a PT among some tiles. -/
def standsAt (keys : List TileKey) (c : Cmd) : Bool := match c.station with
  | .port k => keys.contains k
  | .engine _ _ => false

/-- Save a launch: its state, with the queues of its PTs, leaves the quads, and theirs is cleared. Its rides, its block requests and its commands at landings and engines go on (R297, R348-R350). -/
def saveLaunch (s : State) (l : Nat) (pages : List Nat) : State :=
  let x := s.launch l
  let keys := launchKeys x
  let mine := fun (t : Nat) => keys.contains t
  let y : Saved :=
    { tiles := (s.tiles.keep (fun t _ => mine t)).mapV (fun _ t => { t with mx := { t.mx with spilled := false } })
      seqs := s.seqs.keep (fun t _ => mine t), ports := (s.ports.keep (fun t _ => mine t)).mapV (fun _ p => { p with cache := [] })
      scratch := s.scratch.filter (fun c => mine (c.1 / 524288)), ram := s.ram.filter (fun c => mine (c.1 / 65536))
      shadow := s.shadow.keep (fun t _ => mine (t / 524288)), pages := pages
      ecc := s.ecc.filter (fun a => mine (a / 524288)), ramEcc := s.ramEcc.filter (fun a => mine (a / 65536)) }
  let s1 := moveShadows (fillPages s x.ctx pages) keys
  let s2 := clearKeys { closeLaunch s1 l with saved := s1.saved.put l y } keys
  let q := s2.queue x.queue
  let s3 : State := { s2 with cmds := s2.cmds.mapV (fun _ (c : Cmd) => if c.phase != .done && c.away.isNone && standsAt keys c then { c with away := some l } else c) }
  (s3.setLaunch l { x with phase := .saved, stopping := false, flags := x.flags ||| 8, bypass := 0 }).setQueue x.queue { q with resumes := q.resumes ++ [l] }

/-! ### Killing (R367) -/

/-- A page move that is abandoned: TRANSIT falls, TIER stays, and what it was writing holds any mixture of old and new granules (R367 step 3). -/
def abandonMove (s : State) (c : Cmd) : State :=
  let v := (Word.field c.word 61 35).toNat
  let moving := (mapFind s c.ctx v).any (fun e => MapEntry.transit e.2) && c.admitted && c.status != CStat.wrongTier
  if !moving then s
  else if cmdCode c.word == 0x19 then
    let s1 := mapSet s c.ctx v (fun e => MapEntry.moved e true false)
    let m := (List.range 32768).foldl (fun (m : List Host.Cell) g =>
      match pagePlace s c g with
      | some (x, loc, o) =>
          if Config.abandonedMix s.fresh g then Mem.writeN m (segByte x loc o) (Mem.readN s.far (farByte s c (64 * g)) 64) else m
      | none => m) s.dram
    { s1 with dram := m, fresh := s.fresh + 1 }
  else if cmdCode c.word == 0x1A then
    let s1 := mapSet s c.ctx v (fun e => MapEntry.moved e false false)
    let m := (List.range 32768).foldl (fun (m : List Host.Cell) g =>
      match pagePlace s c g with
      | some (x, loc, o) =>
          if Config.abandonedMix s.fresh g then Mem.writeN m (farByte s c (64 * g)) (Mem.readN s.dram (segByte x loc o) 64) else m
      | none => m) s.far
    { s1 with far := m, fresh := s.fresh + 1 }
  else s

/-- What a killed command has at the units of its PT is gone: the open gather with its requests, the generator, eddy entries (R367). -/
def killUnits (s : State) (id : Nat) (c : Cmd) : State :=
  match c.station with
  | .engine _ _ => s
  | .port k =>
      let p := portAt s c k
      if p.gather != some id && p.gen != some id && p.stopAt != some id && !p.eddy.any (fun e => e.2.cmd == id) then s
      else
        let q := if p.gather == some id then { p with gather := none, closing := none, window := [], ready := [] } else p
        setPortAt s c k { q with gen := if p.gen == some id then none else p.gen, stopAt := if p.stopAt == some id || p.gen == some id then none else p.stopAt
                                 eddy := p.eddy.keep (fun _ e => e.cmd != id) }

/-- A command of a killed launch ends: what has not started is discarded, rides alight, copies stop, postings that no landing has accepted are discarded. Those that one has accepted keep their scale pair until they are applied (R283, R367 steps 2 to 4). The BIND packet of a `bind` completes KILLED. -/
def killCmd (s : State) (id : Nat) (c : Cmd) : State :=
  let s1 := dropRiders (killUnits (abandonMove s c) id c) id
  let s2 := s1.setCmd id { c with phase := .done, flight := [], out := [], pending := [], reserved := [], blocks := [] }
  let s3 := c.flight.foldl (fun z f => accDone z f.2.2.acc) s2
  let gone := { s3 with bases := s3.bases.mapV (fun _ b => { b with reqs := b.reqs.filter (fun (r : BlockReq) => r != BlockReq.cmd id) }) }
  let drop := if cmdCode c.word == 0x21 && c.phase == .started then
      let n := (Word.field c.word 71 5).toNat
      gone.setBase n { gone.base n with dropping := (gone.base n).dropping.filter (· != (Word.field c.word 76 20).toNat) }
    else gone
  match c.origin with
  | .packet q t => completePacket drop q t { status := Status.killed, start := ((drop.queue q).opens.find? (fun o => o.ticket == t)).elim 0 (fun o => o.started) }
  | _ => drop

/-- Whether a block request comes from a slot of a launch. -/
def reqFrom (l : Nat) : BlockReq → Bool
  | .node _ _ n .. => n == l
  | .cmd _ => false

/-- Records, eddy entries and tempo holds of a killed launch are removed, and its overflow entries marked free (R244, R367 step 6). -/
def killRecords (s : State) (l : Nat) : State :=
  let x := s.launch l
  let c := s.ctx x.ctx
  let offs := x.regions.flatMap (fun r => (s.region r).queues.flatMap (fun q => q.2.filterMap (fun p => p.overflow)))
  let s1 := s.setCtx x.ctx { c with offered := c.offered.filter (fun t => t.launch != l)
                                    tq := c.tq.mapV (fun _ e => if e.trap.launch == l then { e with used := false } else e) }
  let s2 := offs.foldl (fun z o => overflowFree z x.ctx o) s1
  { s2 with landings := s2.landings.mapV (fun _ d => { d with marks := d.marks.filter (fun m => m.1 != l) })
            bases := s2.bases.mapV (fun _ b => { b with marks := b.marks.filter (fun m => m.1 != l), reqs := b.reqs.filter (fun r => !reqFrom l r) })
            held := s2.held.filter (fun h => h.2.1 != l) }

/-- The KILL packets of a context complete once none of its launches is still being killed, and the context is no longer frozen (R364, R367). -/
def settleKills (s : State) (c : Nat) : State :=
  let x := s.ctx c
  if x.kills.isEmpty || s.launches.any (fun l => l.2.ctx == c && l.2.killing && l.2.phase == .running) then s
  else
    x.kills.foldl (fun z k => completePacket z k.1 k.2 { status := Status.ok, start := ((z.queue k.1).opens.find? (fun o => o.ticket == k.2)).elim 0 (fun o => o.started) })
      (s.setCtx c { x with kills := [], frozen := false, over_ := false })

/-- Whether a ride that restores a launch has not alighted (R351). -/
def restoring (s : State) (l : Nat) : Bool := s.landings.any (fun d => d.2.riders.any (fun r => r.kind == .restore && r.start == l))

/-- The rides that restore a launch alight. -/
def dropRestore (s : State) (l : Nat) : State :=
  { s with landings := s.landings.mapV (fun _ d => { d with riders := d.riders.filter (fun r => !(r.kind == .restore && r.start == l)) }) }

/-- The kill of a launch that has stopped and settled, or is saved: it completes KILLED (R367 steps 2 to 8). -/
def endKill (s : State) (l : Nat) : State :=
  let x := s.launch l
  if x.phase == .retired then s
  else
    let s1 := closeLaunch s l
    let s2 := s1.cmds.foldl (fun z c => if c.2.launch == l && c.2.phase != .done then killCmd z c.1 (z.cmd c.1) else z) s1
    let s3 := killRecords s2 l
    let s4 := if x.phase == .running then clearKeys s3 (launchKeys x) else dropRestore { s3 with saved := s3.saved.del l } l
    let q := s4.queue x.queue
    let s5 := s4.setQueue x.queue { q with resumes := q.resumes.filter (· != l) }
    let s6 := { s5.setLaunch l { x with phase := .retired, killing := false, resuming := false, finals := [], records := 0 } with
      cmds := s5.cmds.mapV (fun _ (c : Cmd) => if c.away == some l then { c with away := none } else c)
      regions := s5.regions.keep (fun r _ => !x.regions.contains r)
      staging := s5.staging.mapV (fun _ b => b.filter (fun y => !x.regions.contains y.1)) }
    settleKills (completeLaunch s6 l Status.killed) x.ctx

/-- A launch is killed: its regions stop as at a pre-emption, and PREEMPT ends it once they have settled; a saved one ends at once (R367). -/
def killLaunch (s : State) (l : Nat) : State :=
  let x := s.launch l
  match x.phase with
  | .retired => s
  | .saved => endKill s l
  | .running => (closeLaunch s l).setLaunch l { x with killing := true, stopping := false }

/-! ### What of a stopped launch can still move (R348, R367) -/

/-- Whether a slot can do nothing: a trap has stopped it, a target is full, or an operand is missing. A node that times itself can do nothing while it holds no token and no part of a result; so may a controller that waits for its children. -/
def slotStuck (s : State) (k : TileKey) (n : Nat) : Bool :=
  let sl := s.slot k n
  let empty := sl.left.isNone && sl.right.isNone && sl.pred.isNone
  match decodeNode sl.word with
  | .error _ => true
  | .ok i =>
      let f := formOf i
      sl.stopped || !bothFree s k n f ||
        (match i, sl.run with
         | .merge .., _ | .spawn .., _ => empty
         | .seqgen .., .seqgen .. => false
         | .sluiceLocSnd .., .sluice (_ :: _) | .sluiceXrRcv .., .sluice (_ :: _) => false
         | .join .., .join a => a.any Option.isNone
         | _, .ctl _ => empty
         | _, _ => if f.left then gateOf f sl == .wait else empty)

/-- Whether no token of a tile's routes and channels can move on. -/
def routesStuck (s : State) (k : TileKey) : Bool :=
  let t := s.tile k
  t.routes.all (fun r => (List.range r.2.hops.length).all (fun h =>
    (r.2.hops.getD h none).isNone
    || (if h + 1 < r.2.hops.length then (r.2.hops.getD (h + 1) none).isSome
        else ((s.tile (regionTile (s.region (s.regionOf k)) (routeTile r.2.entry))).chans.getD (routeDvc r.2.entry).toNat {}).arrived.isSome)))
  && t.chans.all (fun c => (c.2.parts.isEmpty || !targetFree t c.2.dst) && (c.2.arrived.isNone || !c.2.parts.isEmpty))

/-- Whether the address generator of a tile has come to its stop, or cannot send its next token (R180, R348 step 1). -/
def genStuck (s : State) (k : TileKey) (t : Tile) : Bool :=
  let p := s.port k
  p.gen.isNone || genEnded t p.lc || genLeft t p.lc < 8 || !targetFree t ((Tgt.ofCode (Word.field (t.units.getD 1 0) 46 12)).getD .none)

/-- Whether the matrix unit of a tile has come to its stop, or waits for a token that is not there or a route that is full (R101, R348 step 1). -/
def mxStuck (s : State) (k : TileKey) (t : Tile) : Bool :=
  t.kind != .mx || t.mx.stopped || Word.bit (t.units.headD 0) 43 ||
    (match t.mx.run with
     | none => !t.ports.has 2
     | some r =>
         let port := mxPort t r.ctl
         (mxResume s k t).isNone && (mxArrival s k t r).isNone
           && (if r.drains then emitsRest t r.out else !t.ports.has port && (readLine t (MxCtl.k r.ctl) r.blocks (t.ports.get? port)).isNone))

/-- Whether a command of a launch can still bring tokens to its tiles: one that stands at a PT among them can leave, or its ride goes on with nothing waiting to leave (R348 step 2). -/
def rideFeeds (s : State) (l : Nat) (keys : List TileKey) : Bool :=
  s.cmds.any (fun c => c.2.launch == l && c.2.phase == .started && !c.2.stopped && standsAt keys c.2
    && (if c.2.out.isEmpty then riding s c.1 else (firstOut s c.1 (s.tile (cmdPort c.2)) [] c.2.out).isSome))

/-- Whether the stop of a launch that is being killed has come to its end: its units have reached their stops, or, where a trap, a missing token or a full target holds one back for good, nothing of the launch can move any more; and its tiles have settled (R348 steps 1 and 2, R367 step 1, log 124). -/
def killSettled (s : State) (l : Nat) (x : Launch) : Bool :=
  let keys := (launchKeys x).filter s.tileThere
  keys.all (tileSettled s)
  && (keys.all (fun k => unitStops s k (s.tile k))
      || (!rideFeeds s l keys
          && keys.all (fun k => genStuck s k (s.tile k) && mxStuck s k (s.tile k) && routesStuck s k && (s.tile k).slots.keys.all (slotStuck s k))))

/-- The kill of every launch of a context that has started begins, and every launch that stands as a candidate completes KILLED (R367). -/
def killContext (s : State) (c : Nat) : State :=
  let s1 := s.launches.foldl (fun z l => if l.2.ctx == c then killLaunch z l.1 else z) s
  s1.queues.foldl (fun z q =>
    if q.2.ctx != c then z
    else
      let y := z.queue q.1
      let z1 := z.setQueue q.1 { y with waiting := none, tails := [] }
      let z2 := y.tails.foldl (fun w o => launchOver w q.1 o.ticket (Launch.handleOf o.packet :: o.chain) { status := Status.killed, flags := o.flags, start := o.started }) z1
      match y.waiting with
      | some o => launchOver z2 q.1 o.ticket [Launch.handleOf o.packet] { status := Status.killed }
      | none => z2) s1

/-! ### Answering a record (R365) -/

/-- What RESUME (1) and NEXT (2) do at the agent that a record stopped (R365). NEXT at the end of RAM leaves the PC there (R35); a word that NEXT skips offers nothing more to a FIFO (R195). -/
def answerAgent (s : State) (action : Nat) (t : Trap) : State :=
  let cause : BitVec 8 := pk t.bits 0x12 1
  match t.agent with
  | .slot k n =>
      let s1 := setStopped s t.agent false
      let sl := s1.slot k n
      if cause == causeRace then s1.setSlot k n { sl with once := true }
      else if cause == causeUser then
        (match decodeNode sl.word with
         | .ok i => (i.nodeForm).elim s1 (fun f => consumeAt s1 k n f)
         | .error _ => s1)
      else s1
  | .port k _ =>
      let s1 := setStopped s t.agent false
      if cause == causeRace then s1.setTile k { s1.tile k with own := { (s1.tile k).own with qOnce := true } } else s1
  | .eddy k e => s.setPort k { s.port k with resumes := (s.port k).resumes ++ [e] }
  | .seq k =>
      let s1 := setStopped s t.agent false
      let q := s1.seq k
      let s2 :=
        if action == 2 then
          let q1 := { q with pc := if 0x10000 ≤ q.pc then q.pc else q.pc + 4, wait := .none, offers := q.offers.mapV (fun _ o => o.filter (fun x => !x.isGive)) }
          match q.wait with
          | .none => s1.setSeq k { q1 with halted := false }
          | .verdict id | .tkq id _ => (s1.setCmd id { s1.cmd id with phase := .done }).setSeq k q1
        else s1
      seqFail s2 t.launch k
  | a => setStopped s a false

/-- An answer takes effect: KILL ends the launch, RESUME and NEXT let its agent go on (R365, R367). -/
def takeAnswer (s : State) (action : Nat) (t : Trap) : State :=
  if action == 3 then killLaunch s t.launch else if (s.launch t.launch).phase == .running then answerAgent s action t else s

/-- An answered record no longer stands against its launch. A saved launch keeps the answer for its return (R360), but KILL ends one that is being restored. -/
def answerTrap (s : State) (action : Nat) (t : Trap) : State :=
  let x := s.launch t.launch
  let s1 := s.setLaunch t.launch { x with records := x.records - 1 }
  match s.saved.get? t.launch with
  | some y => if x.resuming && action == 3 then takeAnswer s1 action t else { s1 with saved := s1.saved.put t.launch { y with answers := y.answers ++ [(action, t)] } }
  | none => takeAnswer s1 action t

/-! ### Resumption (R351) -/

/-- Put the bytes of a saved memory back. -/
def putCells (m : List Host.Cell) (cs : List Host.Cell) : List Host.Cell := cs.foldl (fun m c => Mem.write m c.1 c.2) m

/-- Whether a fatal record of a launch still stands. -/
def fatalStands (s : State) (l : Nat) : Bool :=
  let c := s.ctx (s.launch l).ctx
  c.offered.any (fun t => t.launch == l && t.fatal) || c.tq.any (fun e => e.2.used && e.2.trap.launch == l && e.2.trap.fatal)
    || frozenCtx s (s.launch l).ctx

/-- What a saved launch left stands on its quads again (R351 steps 1 and 2). -/
def restoreLaunch (s : State) (l : Nat) (y : Saved) : State :=
  let x := s.launch l
  let open_ := !fatalStands s l
  let s1 := clearKeys s (launchKeys x)
  { s1.setLaunch l { x with phase := .running, resuming := false } with
    saved := s1.saved.del l
    regions := s1.regions.mapV (fun _ r => if r.launch == l then { r with closed := !open_ } else r)
    scratch := putCells s1.scratch y.scratch, ram := putCells s1.ram y.ram, ecc := y.ecc ++ s1.ecc, ramEcc := y.ramEcc ++ s1.ramEcc
    cmds := s1.cmds.mapV (fun _ (c : Cmd) => if c.away == some l then { c with away := none } else c)
    tiles := Map.putAll s1.tiles y.tiles, seqs := Map.putAll s1.seqs y.seqs, ports := Map.putAll s1.ports y.ports, shadow := Map.putAll s1.shadow y.shadow }

/-- A saved launch has been read back: it stands at its placement; eddy releases and answers that arose meanwhile take effect, its stopped agents go on, and its sequencers hear of failures (R160, R342, R351, R360). -/
def resumeLaunch (s : State) (l : Nat) : State :=
  match s.saved.get? l with
  | none => s
  | some y =>
      let s1 := y.releases.foldl (fun z r => z.setPort r.1 { z.port r.1 with resumes := (z.port r.1).resumes ++ [r.2] }) (restoreLaunch s l y)
      let s2 := y.answers.foldl (fun z a => takeAnswer z a.1 a.2) s1
      if (s2.launch l).phase == .running then y.seqs.foldl (fun z q => seqFail z l q.1) s2 else s2

/-- A saved launch is admitted again: at each landing of its save reach a ride of the device's, which holds a rider entry, reads one lap; behind a fenced link there is none (R270, R286, R351). -/
def beginResume (s : State) (l : Nat) : State :=
  let x := s.launch l
  let ms : List Member := match (s.ctx x.ctx).save with
    | some n => (stripe s x.ctx n).filter (fun m => !fencedPc s m.pc)
    | none => []
  ms.foldl (fun (z : State) (m : Member) =>
    let ld := z.landing m.pc
    z.setLanding m.pc { ld with riders := ld.riders ++ [{ cmd := 0, slot := m.slot, kind := .restore, on := true, start := l, left := Reach.lseg m.entry }] })
    (s.setLaunch l { x with resuming := true })

/-- PREEMPT: a launch whose pre-emption has begun is saved, once its units have come to their stops and its tiles have settled; without pages in the save reach it is not performed, and the slice starts again (R348-R350). A launch that is being killed ends there, with nothing saved (R367); one that is being restored goes on once its rides have alighted (R351, log 128). -/
def execPreempt (s : State) : Out :=
  match s.focus with
  | .launch l =>
      let x := s.launch l
      if !s.launches.has l then .fault .noAgent
      else if x.resuming then .next (if restoring s l then s else resumeLaunch s l)
      else if x.phase != .running then .next s
      else if x.killing then .next (if killSettled s l x then endKill s l else s)
      else if !x.stopping then .next s
      else match takePages s x with
        | none =>
            let s1 := { s with tiles := s.tiles.mapV (fun k t => if (launchKeys x).contains k then { t with mx := { t.mx with spilled := false } } else t) }
            .next ((s1.setLaunch l { x with stopping := false }).setCtx x.ctx { s.ctx x.ctx with left := (s.ctx x.ctx).slice })
        | some pages =>
            if (launchKeys x).all (fun k => unitStops s k (s.tile k) && tileSettled s k) then .next (saveLaunch s l pages) else .next s
  | _ => .fault .noAgent

/-! ### Trap queues (R359, R363-R366) -/

/-- The lowest entry of a trap queue that is not in use. -/
def tqFree (x : Context) : Nat → Nat → Option Nat
  | 0, _ => none
  | n + 1, i => if (x.tq.get? i).any (fun e => e.used) then tqFree x n (i + 1) else some i

/-- A context is frozen: every launch of it stops, none is admitted (R364). -/
def freeze (s : State) (c : Nat) : State :=
  { s.setCtx c { s.ctx c with frozen := true } with
    regions := s.regions.mapV (fun _ r => if (s.launch r.launch).ctx == c then { r with closed := true } else r) }

/-- TRAP_RECORD_ENTER: the oldest record offered to a context's trap queue that may enter takes the lowest free entry; without a handler it is at once answered KILL; a fatal record that finds no entry free freezes the context (R363, R364, R366). -/
def execTrapRecordEnter (s : State) : Out :=
  match s.focus with
  | .ctx c =>
      let x := s.ctx c
      let used := tqUsed x
      (match takeFirst (fun (t : Trap) => t.fatal || used ≤ 253) x.offered with
       | none => .next s
       | some (t, rest) =>
           match tqFree x 256 0 with
           | none => .next (freeze (s.setCtx c { x with offered := rest, lost := x.lost + 1, over_ := true }) c)
           | some k =>
               let put := fun (b : Bool) => s.setCtx c { x with offered := rest, tq := x.tq.put k { trap := t, used := b } }
               if x.handler then .next (put true) else .next (answerTrap (put false) 3 t))
  | _ => .fault .noAgent

/-- A TQACT write: the checks of R365, then the action on the entry, which is freed. -/
def tqAct (s : State) (action : Nat) (go : Trap → State → State) : Out :=
  match s.focus with
  | .tqact q c v =>
      if !tqAccess s q c then .next (s.answer .uetError)
      else
        let x := s.ctx c
        let a := (Word.field v 8 8).toNat
        let k := (Word.field v 0 8).toNat
        let res := fun (s1 : State) (n : BitVec 32) => Host.Outcome.next ((s1.setCtx c { s1.ctx c with tqres := n }).answer .done)
        if Word.field v 16 16 != (0 : BitVec 16) || a == 0 || 3 < a then res s 3
        else if a != action then .next s
        else match x.tq.get? k with
          | none => res s 1
          | some e =>
              let no : BitVec 32 := pk e.trap.bits 0x18 4
              if !e.used || no != Word.field v 32 32 then res s 1
              else if (a == 1 && e.trap.fatal) || (a == 2 && !(Word.bit (pk e.trap.bits 0x13 1) 1)) || (a == 2 && e.trap.fatal) then res s 2
              else res (go e.trap (s.setCtx c { x with tq := x.tq.put k { e with used := false } })) 0
  | _ => .fault .noAgent

/-- TQACT RESUME (R365). -/
def execTqactResume (s : State) : Out := tqAct s 1 (fun t s1 => answerTrap s1 1 t)
/-- TQACT NEXT (R365). -/
def execTqactNext (s : State) : Out := tqAct s 2 (fun t s1 => answerTrap s1 2 t)
/-- TQACT KILL (R365, R367). -/
def execTqactKill (s : State) : Out := tqAct s 3 (fun t s1 => answerTrap s1 3 t)

end Sys2Proof.Machine
end

