-- ==== Sys2Proof/Machine/Admission.lean ====
section
/-! DEFINITION. Admission across launches (14 R320-R324, R330): candidates, ranking, late drops, reservations, the decision, and the end of a time slice. -/

namespace Sys2Proof.Machine

/-- A candidate of a decision: the launch at the head of its queue, or a pre-empted one with its number (R321, R330). -/
structure Cand where
  queue : Nat
  entry : Open
  again : Option Nat := none
  deriving DecidableEq, Repr

/-- Whether a BARRIER launch is held: an earlier packet of its queue has not completed (R320). -/
def barrierHeld (x : Queue) (o : Open) : Bool :=
  Launch.flag o.packet 0 && (x.opens.takeWhile (fun y => y.ticket != o.ticket)).length != 0

/-- Whether launches of a context may be admitted: it is not frozen, and no KILL of it is under way (R364, R367, R385, log 134). -/
def mayAdmit (s : State) (c : Nat) : Bool := !frozenCtx s c && (s.ctx c).kills.isEmpty

/-- The context of a queue's candidate: a pre-empted launch keeps its own. -/
def candCtx (s : State) (x : Queue) : Nat := match x.resumes with
  | l :: _ => (s.launch l).ctx
  | [] => x.ctx

/-- The candidate of a queue, if it has one (R320, R321, R329, R330). -/
def candOf (s : State) (q : Nat) (x : Queue) : Option Cand :=
  if !x.enabled || !mayAdmit s (candCtx s x) then none
  else match x.resumes, x.tails, x.waiting with
    | l :: _, _, _ =>
        let y := s.launch l
        some { queue := q, entry := { ticket := y.ticket, stamp := y.stamp, packet := y.packet, bypass := y.bypass }, again := some l }
    | [], o :: _, _ => if barrierHeld x o then none else some { queue := q, entry := o }
    | [], [], some o => if barrierHeld x o then none else some { queue := q, entry := o }
    | [], [], none => none

/-- Whether a waiting launch is its queue's candidate. -/
def isCand (c : Option Cand) (ticket : BitVec 64) : Bool := c.any (fun x => x.entry.ticket == ticket)

/-- A launch that is no candidate has no bypasses: its count starts at 0 when it becomes one (R323). -/
def settleCands (s : State) : State :=
  let clear := fun (c : Option Cand) (o : Open) => if o.bypass == 0 || isCand c o.ticket then o else { o with bypass := 0 }
  { s with
    queues := s.queues.mapV (fun q x => let c := candOf s q x; { x with waiting := x.waiting.map (clear c), tails := x.tails.map (clear c) })
    launches := s.launches.mapV (fun _ l => if l.bypass == 0 || isCand (candOf s l.queue (s.queue l.queue)) l.ticket then l else { l with bypass := 0 }) }

/-- DEADLINE as the EDF policy reads it: 0 counts as 2^64 - 1 (R321). -/
def edfKey (p : Packet) : Nat := if Launch.deadline p == 0 then 2 ^ 64 - 1 else Launch.deadline p

/-- Whether a candidate ranks before another (R321, R324). -/
def ranksBefore (bid : Bool) (a b : Cand) : Bool :=
  let x := if bid then 2 ^ 64 - 1 - Launch.deadline a.entry.packet else edfKey a.entry.packet
  let y := if bid then 2 ^ 64 - 1 - Launch.deadline b.entry.packet else edfKey b.entry.packet
  x < y || (x == y && (a.entry.stamp.toNat < b.entry.stamp.toNat || (a.entry.stamp == b.entry.stamp && a.queue < b.queue)))

/-- Insert a candidate in rank order. -/
def insCand (bid : Bool) (c : Cand) : List Cand → List Cand
  | [] => [c]
  | x :: xs => if ranksBefore bid c x then c :: x :: xs else x :: insCand bid c xs

/-- The candidates of a decision, in rank order (R321). -/
def ranked (s : State) : List Cand :=
  s.queues.foldr (fun q l => match candOf s q.1 q.2 with
    | some c => insCand s.dev.bid c l
    | none => l) []

/-- Whether a launch's deadline has passed (R322). -/
def pastDeadline (s : State) (p : Packet) : Bool := Launch.deadline p != 0 && Launch.deadline p < s.dev.dtime.toNat

/-- A launch is no longer waiting at its queue. -/
def dropWaiting (x : Queue) (o : Open) : Queue :=
  { x with waiting := x.waiting.filter (fun y => y.ticket != o.ticket), tails := x.tails.filter (fun y => y.ticket != o.ticket) }

/-- The LAUNCH at a queue's head is consumed and checked, so that it may stand in the present decision; any other packet is left to be taken by itself (R318, R321, R322). -/
def pullHead (s : State) (q : Nat) : Option State :=
  (headPacket s q).bind (fun p =>
    if pk p 0 1 != 1 then none
    else
      let y := takePacket s q p
      match decodePacket p with
      | .ok _ => some (queueLaunch y.2 q y.1)
      | .error _ => some (completePacket y.2 q y.1.ticket { status := Status.badReq }))

/-- The candidates of a DROP_LATE queue whose deadline has passed complete LATE_DROPPED, one after another as each comes to the head of the queue (R322). -/
def dropQueue : Nat → Nat → State → State
  | 0, _, s => s
  | n + 1, q, s =>
      match candOf s q (s.queue q) with
      | none => s
      | some c =>
          if (s.queue q).dropLate && c.again.isNone && pastDeadline s c.entry.packet then
            let o := c.entry
            let s1 := launchOver (s.setQueue q (dropWaiting (s.queue q) o)) q o.ticket (Launch.handleOf o.packet :: o.chain)
              { status := Status.lateDropped, flags := o.flags, start := if o.flags / 2 % 2 == 1 then o.started else 0 }
            dropQueue n q (pullNext 257 q s1)
          else s
where
  /-- Consume LAUNCHes that fail their check, up to one that waits. -/
  pullNext : Nat → Nat → State → State
    | 0, _, s => s
    | n + 1, q, s => match pullHead s q with
      | some s1 => if (s1.queue q).waiting.isSome then s1 else pullNext n q s1
      | none => s

/-- LATE_DROP: under EDF the late candidates of every DROP_LATE queue are dropped before the decision ranks (R322). -/
def dropLate (s : State) : State :=
  if s.dev.bid then s else s.queues.foldl (fun z q => if q.2.dropLate then dropQueue 600 q.1 z else z) s

/-- Whether the rides that restore a saved launch find a rider entry at every landing of its save reach (R270, R351). -/
def restoreRides (s : State) (c : Nat) : Bool :=
  match (s.ctx c).save with
  | some n => (stripe s c n).all (fun m => fencedPc s m.pc || (s.landing m.pc).riders.length < 64)
  | none => true

/-- The placement a candidate has among the quads that pass a test; a pre-empted launch fits only at its saved one (R319). -/
def candPlace (s : State) (free : Nat → Nat → Nat → Bool) (c : Cand) : Option (List (Nat × Nat × Nat)) :=
  let x := (s.queue c.queue).ctx
  match c.again with
  | some l =>
      let y := s.launch l
      if restoreRides s y.ctx && y.places.all (fun o => rectOk s y.ctx free o.1 o.2.1 o.2.2 (Launch.qw y.packet) (Launch.qh y.packet)) then some y.places else none
  | none => placement s x c.entry.packet free

/-- The quads that no started launch holds. -/
def freeNow (s : State) : Nat → Nat → Nat → Bool := quadFree s (fun _ => false)

/-- A candidate is admitted: it starts, LATE if its deadline has passed, or its restoring begins. DEDUCED (log 140): only the first admission of a launch sets LATE (R322, R325, R351). -/
def admitCand (s : State) (c : Cand) (places : List (Nat × Nat × Nat)) : State :=
  let x := s.queue c.queue
  match c.again with
  | some l => beginResume (s.setQueue c.queue { x with resumes := x.resumes.filter (· != l) }) l
  | none =>
      let o := c.entry
      let late := if !s.dev.bid && pastDeadline s o.packet then 1 else 0
      startLaunch (s.setQueue c.queue (dropWaiting x o)) c.queue o places (o.flags ||| late) (if o.flags / 2 % 2 == 1 then o.started else 0)

/-- The highest-ranked candidate with a placement, and the ones ranked above it. -/
def firstFit (s : State) : List Cand → Option (List Cand × Cand × List (Nat × Nat × Nat))
  | [] => none
  | c :: cs => match candPlace s (freeNow s) c with
    | some p => some ([], c, p)
    | none => (firstFit s cs).map (fun r => (c :: r.1, r.2))

/-- One more bypass of a candidate (R323). -/
def bypassOne (s : State) (c : Cand) : State :=
  let up := fun (o : Open) => if o.ticket == c.entry.ticket then { o with bypass := o.bypass + 1 } else o
  match c.again with
  | some l => s.setLaunch l { s.launch l with bypass := (s.launch l).bypass + 1 }
  | none => let x := s.queue c.queue; s.setQueue c.queue { x with waiting := x.waiting.map up, tails := x.tails.map up }

/-- Count a bypass of each candidate passed over (R323). -/
def bypassed (s : State) (cs : List Cand) : State := cs.foldl bypassOne s

/-- The highest-ranked candidate of a list with 8 bypasses (R323). -/
def nextReserved (cs : List Cand) : Option Cand := cs.find? (fun c => 8 ≤ c.entry.bypass)

/-- The reserved candidate, with those ranked above it: the one that stands, or the highest-ranked with 8 bypasses (R323). -/
def reservedOf (s : State) (cs : List Cand) : Option (List Cand × Cand) :=
  let standing := s.dev.reserved.bind (fun t => cs.find? (fun c => c.entry.ticket == t))
  (standing.orElse (fun _ => nextReserved cs)).map (fun r => (cs.takeWhile (fun c => c.entry.ticket != r.entry.ticket), r))

/-- A candidate is admitted at a placement, and those ranked above it that have none are bypassed (R323). -/
def admitOver (s : State) (over_ : List Cand) (c : Cand) (p : List (Nat × Nat × Nat)) : State :=
  let passed := over_.filter (fun x => (candPlace s (freeNow s) x).isNone)
  let s1 := bypassed s passed
  admitCand (s1.setDev { s1.dev with reserved := (over_.find? (fun x => 8 ≤ x.entry.bypass + (if passed.contains x then 1 else 0))).map (fun x => x.entry.ticket) }) c p

/-- ADMISSION_DECISION: late candidates are dropped; then the reserved candidate is admitted if it fits, or, where none is reserved, the best-ranked one that fits (R319-R324). -/
def execAdmissionDecision (s : State) : Out :=
  match s.focus with
  | .device =>
      let s1 := dropLate s
      let cs := ranked s1
      (match reservedOf s1 cs with
       | some (over_, c) =>
           let s2 := s1.setDev { s1.dev with reserved := some c.entry.ticket }
           (match candPlace s2 (freeNow s2) c with
            | some p => .next (admitOver s2 over_ c p)
            | none => .next s2)
       | none =>
           let s2 := s1.setDev { s1.dev with reserved := none }
           match firstFit s2 cs with
           | none => .next s2
           | some (over_, c, p) => .next (admitOver s2 over_ c p))
  | _ => .fault .noAgent

/-- Whether a candidate has no placement only because of shared quads held by a context's launches (R330). -/
def blockedBy (s : State) (c : Nat) (x : Cand) : Bool :=
  (candPlace s (freeNow s) x).isNone
  && (candPlace s (fun d qx qy => quadFree s (fun l => l.ctx == c && sharedQuad s d qx qy) d qx qy) x).isSome

/-- SLICE_EXPIRY: at the end of a context's slice the pre-emption of each of its launches that holds a shared quad begins, if a candidate of another context has no placement only for that; the slice starts again (R330, R350). -/
def execSliceExpiry (s : State) : Out :=
  match s.focus with
  | .ctx c =>
      let x := s.ctx c
      if x.left != 0 then .next s
      else
        let wanted := (ranked s).any (fun k => candCtx s (s.queue k.queue) != c && blockedBy s c k)
        let s1 := s.setCtx c { x with left := x.slice }
        .next (if wanted then
          { s1 with launches := s1.launches.mapV (fun _ l => if l.ctx == c && holdsShared s l && (takePages s l).isSome then { l with stopping := true } else l) }
        else s1)
  | _ => .fault .noAgent

/-- Device time moves: the slice of every context with a launch on a shared quad counts down (R330). -/
def passTime (s : State) (ns : Nat) : State :=
  let s1 := s.setDev { s.dev with dtime := s.dev.dtime + BitVec.ofNat 64 ns }
  { s1 with contexts := s1.contexts.mapV (fun c x => if s.launches.any (fun l => l.2.ctx == c && holdsShared s l.2) then { x with left := x.left - ns } else x) }

end Sys2Proof.Machine
end

