-- ==== Sys2Proof/Machine/CvtLaneNodes.lean ====
section
/-! DEFINITION. Conversion and lane node instructions (03 R79-R87): each is the firing of R58 over its computation of Machine/Arith.lean. -/

namespace Sys2Proof.Machine

/-- `cvt` (R79-R81). -/
def execCvt (w : NodeOp) (src dst : BitVec 4) (s : State) : Out :=
  fireCalc (formOf (.cvt w src dst)) (fun l _ _ => cvtCalc w src dst l) s

/-- `pack` (R82). -/
def execPack (w : NodeOp) (sz : Bool) (s : State) : Out :=
  fireCalc (formOf (.pack w sz)) (fun l r _ => packCalc sz l r) s

/-- `unpack` (R82). -/
def execUnpack (w : NodeOp) (ext sz : Bool) (s : State) : Out :=
  fireCalc (formOf (.unpack w ext sz)) (fun l _ _ => unpackCalc ext sz l) s

/-- `perm` (R84). -/
def execPerm (w : NodeOp) (s : State) : Out :=
  fireCalc (formOf (.perm w)) (fun l r p => permCalc w l r p) s

/-- `bcast` (R84). -/
def execBcast (w : NodeOp) (lane : BitVec 4) (s : State) : Out :=
  fireCalc (formOf (.bcast w lane)) (fun l _ p => bcastCalc w lane l p) s

/-- `rsum` (R85). -/
def execRsum (w : NodeOp) (s : State) : Out :=
  fireCalc (formOf (.rsum w)) (fun l _ _ => reduceCalc .sum w l) s

/-- `rmin` (R85). -/
def execRmin (w : NodeOp) (s : State) : Out :=
  fireCalc (formOf (.rmin w)) (fun l _ _ => reduceCalc .min w l) s

/-- `rmax` (R85). -/
def execRmax (w : NodeOp) (s : State) : Out :=
  fireCalc (formOf (.rmax w)) (fun l _ _ => reduceCalc .max w l) s

/-- `psum` (R86). -/
def execPsum (w : NodeOp) (s : State) : Out :=
  fireCalc (formOf (.psum w)) (fun l r _ => prefixCalc .sum w l r) s

/-- `pmin` (R86). -/
def execPmin (w : NodeOp) (s : State) : Out :=
  fireCalc (formOf (.pmin w)) (fun l r _ => prefixCalc .min w l r) s

/-- `pmax` (R86). -/
def execPmax (w : NodeOp) (s : State) : Out :=
  fireCalc (formOf (.pmax w)) (fun l r _ => prefixCalc .max w l r) s

/-- `lidx` (R87). -/
def execLidx (w : NodeOp) (imm : BitVec 16) (s : State) : Out :=
  fireCalc (formOf (.lidx w imm)) (fun l _ p => lidxCalc w imm l p) s

/-- `mcount` (R87). -/
def execMcount (w : NodeOp) (pfx : Bool) (s : State) : Out :=
  fireCalc (formOf (.mcount w pfx)) (fun l _ _ => mcountCalc pfx l) s

end Sys2Proof.Machine
end

