-- ==== Sys2Proof/Machine/FloatNodes.lean ====
section
/-! DEFINITION. F32 and BF16 node instructions (03 R70-R78): each is the firing of R58 over its computation of Machine/Arith.lean. -/

namespace Sys2Proof.Machine

/-- `fadd` (R71). -/
def execFadd (w : NodeOp) (s : State) : Out :=
  fireCalc (formOf (.fadd w)) (fun l r p => fpCalc w (fun a b _ => Fp.add (fmtOf w.ty) w.rm a b) l r p) s

/-- `fsub` (R71). -/
def execFsub (w : NodeOp) (s : State) : Out :=
  fireCalc (formOf (.fsub w)) (fun l r p => fpCalc w (fun a b _ => Fp.sub (fmtOf w.ty) w.rm a b) l r p) s

/-- `fmul` (R71). -/
def execFmul (w : NodeOp) (s : State) : Out :=
  fireCalc (formOf (.fmul w)) (fun l r p => fpCalc w (fun a b _ => Fp.mul (fmtOf w.ty) w.rm a b) l r p) s

/-- `fma` (R71). -/
def execFma (w : NodeOp) (s : State) : Out :=
  fireCalc (formOf (.fma w)) (fun l r p => fpCalc w (fun a b c => Fp.fused (fmtOf w.ty) w.rm false false a b c) l r p) s

/-- `fms` (R71). -/
def execFms (w : NodeOp) (s : State) : Out :=
  fireCalc (formOf (.fms w)) (fun l r p => fpCalc w (fun a b c => Fp.fused (fmtOf w.ty) w.rm false true a b c) l r p) s

/-- `fnma` (R71). -/
def execFnma (w : NodeOp) (s : State) : Out :=
  fireCalc (formOf (.fnma w)) (fun l r p => fpCalc w (fun a b c => Fp.fused (fmtOf w.ty) w.rm true false a b c) l r p) s

/-- `fmin` (R72). -/
def execFmin (w : NodeOp) (s : State) : Out :=
  fireCalc (formOf (.fmin w)) (fun l r p => selCalc w (Fp.minMax (fmtOf w.ty) false) l r p) s

/-- `fmax` (R72). -/
def execFmax (w : NodeOp) (s : State) : Out :=
  fireCalc (formOf (.fmax w)) (fun l r p => selCalc w (Fp.minMax (fmtOf w.ty) true) l r p) s

/-- `fabs` (R72). -/
def execFabs (w : NodeOp) (s : State) : Out :=
  fireCalc (formOf (.fabs w)) (fun l r p => selCalc w (fun a _ => absBits (fmtOf w.ty) a) l r p) s

/-- `fneg` (R72). -/
def execFneg (w : NodeOp) (s : State) : Out :=
  fireCalc (formOf (.fneg w)) (fun l r p => selCalc w (fun a _ => negBits (fmtOf w.ty) a) l r p) s

/-- `fcpsgn` (R72). -/
def execFcpsgn (w : NodeOp) (s : State) : Out :=
  fireCalc (formOf (.fcpsgn w)) (fun l r p => selCalc w (cpsgnBits (fmtOf w.ty)) l r p) s

/-- `fcmp` (R73). -/
def execFcmp (w : NodeOp) (cond : BitVec 3) (s : State) : Out :=
  fireCalc (formOf (.fcmp w cond)) (fun l r _ => fcmpCalc cond l r) s

/-- `fclass` (R74). -/
def execFclass (w : NodeOp) (mask : BitVec 10) (s : State) : Out :=
  fireCalc (formOf (.fclass w mask)) (fun l _ _ => fclassCalc mask l) s

/-- `fdiv` (R75). -/
def execFdiv (w : NodeOp) (s : State) : Out :=
  fireCalc (formOf (.fdiv w)) (fun l r p => fpCalc w (fun a b _ => Fp.div Fp.f32 w.rm a b) l r p) s

/-- `fsqrt` (R75). -/
def execFsqrt (w : NodeOp) (s : State) : Out :=
  fireCalc (formOf (.fsqrt w)) (fun l r p => fpCalc w (fun a _ _ => Fp.sqrt Fp.f32 w.rm a) l r p) s

/-- `frcp` (R75). -/
def execFrcp (w : NodeOp) (s : State) : Out :=
  fireCalc (formOf (.frcp w)) (fun l r p => fpCalc w (fun a _ _ => Fp.rcp Fp.f32 w.rm a) l r p) s

/-- `frsqrt` (R75). -/
def execFrsqrt (w : NodeOp) (s : State) : Out :=
  fireCalc (formOf (.frsqrt w)) (fun l r p => fpCalc w (fun a _ _ => Fp.rsqrt Fp.f32 w.rm a) l r p) s

/-- `exp2f` (R76). -/
def execExp2f (w : NodeOp) (s : State) : Out :=
  fireCalc (formOf (.exp2f w)) (fun l r p => fpCalc w (fun a _ _ => Fp.exp2 Fp.f32 w.rm a) l r p) s

/-- `log2f` (R76). -/
def execLog2f (w : NodeOp) (s : State) : Out :=
  fireCalc (formOf (.log2f w)) (fun l r p => fpCalc w (fun a _ _ => Fp.log2 Fp.f32 w.rm a) l r p) s

/-- `ldx` (R77). -/
def execLdx (w : NodeOp) (s : State) : Out :=
  fireCalc (formOf (.ldx w)) (fun l r p => fpCalc w (fun a b _ => Fp.ldx Fp.f32 w.rm a (readInt 32 false b)) l r p) s

/-- `rndi` (R78). -/
def execRndi (w : NodeOp) (s : State) : Out :=
  fireCalc (formOf (.rndi w)) (fun l _ _ => rndiCalc w l) s

end Sys2Proof.Machine
end

