-- ==== Sys2Proof/Machine/Graph.lean ====
section
/-! DEFINITION. The arc graph of a block and the cycle check (10 R257-R259). -/

namespace Sys2Proof.Machine

/-- An arc of the arc graph: its ends, whether it holds an initial token, the word that produces it, the latch it ends at, whether it leaves its source's TGA. A vertex is tile * 4096 + slot * 32 for a slot, with 1 to 15 added for the inner places of a `sluice.loc`, and from tile * 4096 + 3000 on for the units of a tile (`portUnit`). -/
structure Arc where
  src   : Nat
  dst   : Nat
  tok   : Bool := false
  tile  : Nat
  off   : Nat
  latch : Option (Nat × Nat × Pos) := none
  tga   : Bool := false
  deriving DecidableEq, Repr

/-- The vertex of a slot. -/
def slotVertex (t n : Nat) : Nat := t * 4096 + n * 32
/-- Which of a tile's units a port belongs to: 0 its one unit, or the address generator of a PT; 1 the gather unit, with `pt.g` and `pt.rel`; 2 `pt.q`, at which only updates arrive, so that nothing leaves it (R257, log 121). -/
def portUnit (p : BitVec 8) : Nat := if p == 0x30 then 2 else if p == 0x31 || p == 0x32 then 1 else 0
/-- The vertex of a unit of a tile. -/
def unitVertex (t u : Nat) : Nat := t * 4096 + 3000 + u

/-- The node word of a slot of a block. -/
def blockWord (b : Block) (t n : Nat) : Option Word64 :=
  match b.images.get? t with
  | some im => if Img.nodev im.bits n then some (Img.node im.bits n) else none
  | none => none

/-- The latches that non-sticky preloads fill (R27, R257). -/
def preloadLatches (b : Block) : List (Nat × Nat × Pos) :=
  b.images.flatMap (fun im => (List.range (Img.npre im.2.bits)).filterMap (fun i =>
    let r := preload im.2.bits (Config.tileKind im.1) i
    if Word.bit r 56 then none else (Pos.ofCode (Word.field r 57 2)).map (fun p => (im.1, (Word.field r 59 5).toNat, p))))

/-- The arcs of a producer into a latch: none into a sticky one, D in series into a `sluice.loc` (R257). -/
def latchArcs (b : Block) (pre : List (Nat × Nat × Pos)) (src t n : Nat) (p : Pos) (tile off : Nat) (tga : Bool) : List Arc :=
  match blockWord b t n with
  | none => []
  | some w =>
      if stickyAt w p then []
      else
        let d := if Word.field w 56 8 == (0x92 : BitVec 8) && !Word.bit w 12 then (Word.field w 0 4).toNat + 1 else 1
        let at_ := fun (i : Nat) => if i == 0 then src else if i == d then slotVertex t n else slotVertex t n + i
        (List.range d).map (fun i =>
          { src := at_ i, dst := at_ (i + 1), tok := i + 1 == d && pre.contains (t, n, p), tile := tile, off := off
            latch := if i + 1 == d then some (t, n, p) else none, tga := tga && i == 0 })

/-- The arcs of a producer to a target of its tile; an arc over a route is produced at the route's entry (R14, R257). -/
def tgtArcs (b : Block) (pre : List (Nat × Nat × Pos)) (src t : Nat) (x : BitVec 8192) (d : Tgt) (off : Nat) (tga : Bool) : List Arc :=
  let toPort := fun (k : Nat) (p : BitVec 8) (o : Nat) => if p < 0x40 then [{ src := src, dst := unitVertex k (portUnit p), tile := t, off := o, tga := tga : Arc }] else []
  match d with
  | .none => []
  | .latch p n => latchArcs b pre src t n.toNat p t off tga
  | .port p => toPort t p off
  | .route r =>
      if !Img.routev x r.toNat then []
      else
        let e := Img.route x r.toNat
        let o := 0x120 + 8 * r.toNat
        match routeDst e with
        | .latch p n => latchArcs b pre src (routeTile e) n.toNat p t o tga
        | .port p => toPort (routeTile e) p o
        | _ => []

/-- The targets of a node word. -/
def wordTgt (w : Word64) (lo : Nat) : Tgt := (Tgt.ofCode (Word.field w lo 12)).getD .none

/-- The routes that a `join` releases on (R136). -/
def joinRoutes (w : Word64) : List Nat :=
  (List.range (if Word.bit w 16 then 1 else (Word.field w 0 4).toNat + 1)).map (fun i => (Word.field w 7 4).toNat + i)

/-- Valid slots of an image. -/
def validSlots (x : BitVec 8192) : List Nat := (List.range 32).filter (Img.nodev x)

/-- The routes of an image that some slot targets. -/
def targetedRoutes (x : BitVec 8192) : List Nat :=
  (validSlots x).flatMap (fun n => [40, 28].filterMap (fun lo => match wordTgt (Img.node x n) lo with
    | .route r => some r.toNat
    | _ => none))

/-- The arcs that the slots of a tile produce. -/
def slotArcs (b : Block) (pre : List (Nat × Nat × Pos)) (t : Nat) (x : BitVec 8192) : List Arc :=
  (validSlots x).flatMap (fun n =>
    let w := Img.node x n
    let v := slotVertex t n
    if Word.field w 56 8 == (0x90 : BitVec 8) then (joinRoutes w).flatMap (fun r => tgtArcs b pre v t x (.route (BitVec.ofNat 4 r)) 0 false)
    else
      tgtArcs b pre v t x (wordTgt w 40) (0x20 + 8 * n) true
        ++ (if Word.field w 56 8 == (0xD3 : BitVec 8) then [] else tgtArcs b pre v t x (wordTgt w 28) (0x20 + 8 * n) false))

/-- The arcs that the units of a tile produce: of a PT, ATGT is the address generator's, the routes that no slot targets are the gather unit's (R257). -/
def unitArcs (b : Block) (pre : List (Nat × Nat × Pos)) (t : Nat) (x : BitVec 8192) : List Arc :=
  let v := unitVertex t 0
  let out := unitVertex t (if Config.tileKind t == .pt then 1 else 0)
  let free := (List.range 16).filter (fun r => Img.routev x r && !(targetedRoutes x).contains r)
  let onRoutes := free.flatMap (fun r => tgtArcs b pre out t x (.route (BitVec.ofNat 4 r)) 0 false)
  let unit := fun (lo : Nat) => tgtArcs b pre v t x ((Tgt.ofCode (Word.field (Img.area x 1) lo 12)).getD .none) 0x228 false
  match Config.tileKind t with
  | .mx | .sp => onRoutes
  | .pt => unit 46 ++ onRoutes
  | .vx => unit 40 ++ unit 28 ++ (validSlots x).flatMap (fun n =>
      if Word.field (Img.node x n) 56 8 == (0xD3 : BitVec 8) then tgtArcs b pre v t x (wordTgt (Img.node x n) 28) (0x20 + 8 * n) false else [])
  | .ct => []

/-- The arc graph of a block (R257). -/
def blockArcs (b : Block) : List Arc :=
  let pre := preloadLatches b
  b.images.flatMap (fun im => slotArcs b pre im.1 im.2.bits ++ unitArcs b pre im.1 im.2.bits)

/-! ### Walks -/

/-- One round of relaxation: the distances of vertices reached over edges from listed ones. -/
def relax (edges : List (Nat × Nat)) (m : Map Nat) : Map Nat :=
  edges.foldl (fun (a : Map Nat) e => match m.get? e.1 with
    | some d => if (a.get? e.2).all (fun x => d + 1 < x) then a.put e.2 (d + 1) else a
    | none => a) m

/-- The least numbers of edges from a vertex, after up to `fuel` rounds. -/
def distances (edges : List (Nat × Nat)) : Nat → Map Nat → Map Nat
  | 0, m => m
  | n + 1, m => let m1 := relax edges m; if m1 == m then m else distances edges n m1

/-- The distances from a vertex over a list of edges. -/
def distFrom (edges : List (Nat × Nat)) (v : Nat) : Map Nat := distances edges (edges.length + 1) [(v, 0)]

/-- The least number of tokens on a walk from a vertex to each, over arcs; one round. -/
def relaxTok (arcs : List Arc) (m : Map Nat) : Map Nat :=
  arcs.foldl (fun (a : Map Nat) e => match m.get? e.src with
    | some d => let c := d + (if e.tok then 1 else 0); if (a.get? e.dst).all (fun x => c < x) then a.put e.dst c else a
    | none => a) m

/-- The least numbers of tokens, after up to `fuel` rounds. -/
def tokens (arcs : List Arc) : Nat → Map Nat → Map Nat
  | 0, m => m
  | n + 1, m => let m1 := relaxTok arcs m; if m1 == m then m else tokens arcs n m1

/-- The edges of arcs. -/
def edgesOf (arcs : List Arc) : List (Nat × Nat) := arcs.map (fun a => (a.src, a.dst))

/-- Whether an arc lies on a directed cycle. -/
def onCycle (arcs : List Arc) (a : Arc) : Bool := (distFrom (edgesOf arcs) a.dst).has a.src

/-! ### R258 -/

/-- A `merge.any` word. -/
def isMergeAny (w : Word64) : Bool := Word.field w 56 8 == (0x73 : BitVec 8) && !Word.bit w 16

/-- (a): every initial token on a non-sticky latch with a producer lies on a cycle. -/
def failsA (arcs : List Arc) (pre : List (Nat × Nat × Pos)) : List Arc :=
  pre.flatMap (fun l =>
    let into := arcs.filter (fun a => a.latch == some l)
    if into.any (onCycle arcs) then [] else into)

/-- (b): the arcs on a zero circuit. -/
def failsB (b : Block) (arcs : List Arc) : List Arc :=
  let steps := arcs.filterMap (fun a =>
    if a.src == a.dst then none
    else if a.tok then some (a, (a.src, a.dst))
    else
      let any := match a.latch with
        | some (t, n, _) => (blockWord b t n).any isMergeAny
        | none => false
      if any then none else some (a, (a.dst, a.src)))
  let es := steps.map Prod.snd
  (steps.filter (fun x => (distFrom es x.2.2).has x.2.1)).map Prod.fst

/-- (c): a self-arc carries exactly one initial token. -/
def failsC (arcs : List Arc) : List Arc := arcs.filter (fun a => a.src == a.dst && !a.tok)

/-- (d): an admission loop through a `merge.any` needs a gate on the merge's other latch, with a credit cycle of fewer tokens than the loop has arcs. -/
def failsD (b : Block) (arcs : List Arc) (t n : Nat) : List Arc :=
  let me := slotVertex t n
  let empty := arcs.filter (fun a => !a.tok)
  let d := distFrom (edgesOf empty) me
  let loops : Pos → List (Nat × Arc) := fun p => (empty.filter (fun a => a.latch == some (t, n, p))).filterMap (fun a => (d.get? a.src).map (fun x => (x + 1, a)))
  let all := loops .left ++ loops .right
  let lmin := all.foldl (fun m x => Nat.min m x.1) (arcs.length + 1)
  let bad : Pos → Pos → List Arc := fun p other =>
    let mine := loops p
    if mine.isEmpty then []
    else
      let gates := arcs.filter (fun a => a.latch == some (t, n, other) && a.src % 4096 < 3000
        && (blockWord b (a.src / 4096) (a.src % 4096 / 32)).any (fun w => Word.field w 56 8 == (0x74 : BitVec 8)))
      let ok := gates.any (fun g =>
        let to_ := tokens arcs (arcs.length + 1) [(me, if g.tok then 1 else 0)]
        let back := arcs.filter (fun a => a.latch == some (g.src / 4096, g.src % 4096 / 32, .right))
        let costs := back.filterMap (fun a => (to_.get? a.src).map (fun x => x + (if a.tok then 1 else 0)))
        costs.any (fun c => 1 ≤ c && c < lmin))
      if ok then [] else mine.map Prod.snd
  bad .left .right ++ bad .right .left

/-- (e): a permit loop has more arcs than the controller's permit bound (R250). -/
def failsE (arcs : List Arc) (t n : Nat) (w : Word64) : List Arc :=
  let bound := if Word.field w 56 8 == (0x82 : BitVec 8) then (Word.field w 9 4).toNat + 1 else 1
  let backs := arcs.filter (fun a => a.latch == some (t, n, .left))
  (arcs.filter (fun a => a.src == slotVertex t n && a.tga)).filter (fun a =>
    let d := distFrom (edgesOf arcs) a.dst
    backs.any (fun x => if x == a then 1 ≤ bound else (d.get? x.src).any (fun y => y + 2 ≤ bound)))

/-- (f): no cycle passes through the TGA of a `seqgen`. -/
def failsF (arcs : List Arc) (t n : Nat) : List Arc := (arcs.filter (fun a => a.src == slotVertex t n && a.tga)).filter (onCycle arcs)

/-- The arcs that break R258. -/
def cycleFails (b : Block) : List Arc :=
  let arcs := blockArcs b
  let perSlot := b.images.flatMap (fun im => (validSlots im.2.bits).flatMap (fun n =>
    let w := Img.node im.2.bits n
    let o : BitVec 8 := Word.field w 56 8
    if isMergeAny w then failsD b arcs im.1 n
    else if o == 0x81 || o == 0x82 || o == 0x83 then failsE arcs im.1 n w
    else if o == 0x78 then failsF arcs im.1 n else []))
  failsA arcs (preloadLatches b) ++ failsB b arcs ++ failsC arcs ++ perSlot

/-! ### Reports (R14) -/

/-- A failed check: relative tile, offset, code. -/
structure Fail where
  tile : Nat
  off  : Nat
  code : Nat
  deriving DecidableEq, Repr

/-- Whether a check comes before another in the order of R14. -/
def Fail.before (a b : Fail) : Bool := a.tile < b.tile || (a.tile == b.tile && (a.off < b.off || (a.off == b.off && a.code < b.code)))

/-- The failure that is reported: the first in order. -/
def firstFail (l : List Fail) : Option Fail := l.foldl (fun (b : Option Fail) x => if b.all (fun y => x.before y) then some x else b) none

/-- The cycle check of a block, as reports. -/
def cycleReports (b : Block) : List Fail := (cycleFails b).map (fun a => ⟨a.tile, a.off, 7⟩)

end Sys2Proof.Machine
end

