-- ==== Sys2Proof/Machine/ImageCheck.lean ====
section
/-! DEFINITION. The checks of a block when its kernel is made resident (01 R12-R27; 02 R52; 04 R89, R114; 05 R129, R136, R138, R140, R154; 06 R181; 10 R236, R239, R258, R259): each yields reports of R14. -/

namespace Sys2Proof.Machine

/-- What the checks of a block need: its images in ascending TILE, each with the TILE of the record before it in the file, its region's size, its sequencer tile, and the tile and slot of each entry whose position is not defined (R14, R218, R239). -/
structure BlockDecl where
  block   : Block
  w       : Nat
  h       : Nat
  seqTile : Option Nat
  order   : List (Nat × BitVec 8192)
  prevs   : List (Option Nat)
  badPos  : List (Nat × Nat)
  deriving Repr

/-- A CT tile without a sequencer (R236). -/
def idleCt (d : BlockDecl) (t : Nat) : Bool := Config.tileKind t == .ct && d.seqTile != some t

/-! ### The header (R13, R14) -/

/-- The kind a header names. -/
def Img.kindOf (x : BitVec 8192) : Option Kind :=
  match (Word.field x 24 8).toNat with
  | 0 => some .mx | 1 => some .vx | 2 => some .sp | 3 => some .pt | 4 => some .ct
  | _ => none

/-- A condition that fails gives a report. -/
def failIf (c : Bool) (t o code : Nat) : List Fail := if c then [⟨t, o, code⟩] else []

/-- The checks of an image's header; `prev` is the TILE of the record before it (R13, R14, R218). -/
def headerFails (d : BlockDecl) (prev : Option Nat) (t : Nat) (x : BitVec 8192) : List Fail :=
  let k := Config.tileKind t
  failIf (Word.field x 0 16 != (0x5A41 : BitVec 16)) t 0 1
  ++ failIf (Word.field x 16 8 != (1 : BitVec 8)) t 2 1
  ++ failIf (Img.kindOf x).isNone t 3 1
  ++ failIf (Img.kindOf x != some k) t 3 4
  ++ failIf (4 * d.w ≤ t % 64 || 4 * d.h ≤ t / 64 || prev.any (fun p => t ≤ p)) t 4 1
  ++ failIf (Word.field x 43 5 != (0 : BitVec 5)) t 5 1
  ++ failIf (58 < Img.npre x) t 7 1
  ++ failIf ((List.range 32).any (fun s => Img.nodev x s && k.slots ≤ s)) t 8 1
  ++ failIf (Img.usize x != 8 * unitWords k + 8 * Img.npre x || 480 < Img.usize x) t 0x14 1
  ++ failIf (Word.field x 176 48 != (0 : BitVec 48)) t 0x16 1
  ++ failIf (imageCrc x != Img.chk x) t 0x1C 3

/-- Bytes that the header marks as unused are zero (R12). -/
def unusedFails (t : Nat) (x : BitVec 8192) : List Fail :=
  (List.range 32).flatMap (fun s => failIf (!Img.nodev x s && Img.node x s != 0) t (0x20 + 8 * s) 2)
  ++ (List.range 16).flatMap (fun n => failIf (!Img.routev x n && Img.route x n != 0) t (0x120 + 8 * n) 2)
  ++ (List.range 32).flatMap (fun v => failIf (!Img.chanv x v && Img.chan x v != 0) t (0x1A0 + 2 * v) 2)
  ++ (List.range 16).flatMap (fun i => failIf (!Img.sregv x i && Img.sreg x i != 0) t (0x1E0 + 4 * i) 2)
  ++ (List.range 60).flatMap (fun i => failIf (Img.usize x ≤ 8 * i && Img.area x i != 0) t (0x220 + 8 * i) 2)

/-! ### Targets and producers (R18, R19) -/

/-- A producer of the block in the order of the checks: the tile and offset of its word, and the latch or port it feeds. -/
structure Producer where
  tile : Nat
  off  : Nat
  dst  : Nat × Tgt
  deriving DecidableEq, Repr

/-- The targets of a tile's unit section with the offset of their word (R26). -/
def unitTgts (k : Kind) (x : BitVec 8192) : List (Nat × BitVec 12) :=
  match k with
  | .vx => [(0x228, Word.field (Img.area x 1) 40 12), (0x228, Word.field (Img.area x 1) 28 12)]
  | .pt => [(0x228, Word.field (Img.area x 1) 46 12)]
  | _ => []

/-- The producers of an image, in ascending offset. -/
def imageProducers (t : Nat) (x : BitVec 8192) : List Producer :=
  let local_ := fun (o : Nat) (c : BitVec 12) => match Tgt.ofCode c with
    | some (.latch p n) => [⟨t, o, (t, .latch p n)⟩]
    | some (.port p) => [⟨t, o, (t, .port p)⟩]
    | _ => ([] : List Producer)
  (validSlots x).flatMap (fun n => local_ (0x20 + 8 * n) (Word.field (Img.node x n) 40 12) ++ local_ (0x20 + 8 * n) (Word.field (Img.node x n) 28 12))
  ++ ((List.range 16).filter (Img.routev x)).flatMap (fun n =>
      let e := Img.route x n
      if routeDst e == .none then [] else [⟨t, 0x120 + 8 * n, (routeTile e, routeDst e)⟩])
  ++ (unitTgts (Config.tileKind t) x).flatMap (fun u => local_ u.1 u.2)

/-- The producers of a block, in the order of the checks. -/
def producersOf (d : BlockDecl) : List Producer := d.order.flatMap (fun im => imageProducers im.1 im.2)

/-- Whether a latch is the left latch of a `join`, which has a producer for each arc (R136). -/
def joinLeft (d : BlockDecl) : Nat × Tgt → Bool
  | (t, .latch .left n) => (blockWord d.block t n.toNat).any (fun w => Word.field w 56 8 == (0x90 : BitVec 8))
  | _ => false

/-- Whether a word is not the first of the block, in the order of the checks, to feed a latch or port (R19, R22). DEDUCED (log 148): of two producers of which one is a node or unit word, the one that the order of the checks reaches second is reported, as R22 says of two routes. -/
def fedBefore (ps : List Producer) (p : Producer) : Bool :=
  (ps.filter (fun q => q.dst == p.dst)).any (fun q => q.tile < p.tile || (q.tile == p.tile && q.off < p.off))

/-- A latch or port that a target or a route may name: it exists, its position is enabled, its port is of the tile's kind (R19, R20, R236). -/
def placeOk (d : BlockDecl) (t : Nat) : Tgt → Bool
  | .latch p n => (blockWord d.block t n.toNat).any (fun w => wordEnables w p)
  | .port p => portDefined p && portKind p == Config.tileKind t && !(idleCt d t)
  | _ => false

/-- A target field is legal in its image (R18, R19). -/
def tgtOk (d : BlockDecl) (t : Nat) (x : BitVec 8192) (c : BitVec 12) : Bool :=
  match Tgt.ofCode c with
  | none => false
  | some .none => true
  | some (.route r) => Img.routev x r.toNat
  | some y => placeOk d t y

/-! ### Node words (R16, R19, R37, R136, R140, R154) -/

/-- The rules of a `join` that other words of the block answer: what its arcs are, and that no slot or unit of its tile names it (R136). -/
def joinOk (d : BlockDecl) (t n : Nat) (x : BitVec 8192) (w : Word64) : Bool :=
  let me : Nat × Tgt := (t, .latch .left (BitVec.ofNat 5 n))
  let vb := (Word.field w 11 5).toNat
  let arcs := (List.range ((Word.field w 0 4).toNat + 1)).map (fun i => vb + i)
  let into := d.order.flatMap (fun im => ((List.range 16).filter (Img.routev im.2)).filterMap (fun r =>
    let e := Img.route im.2 r
    if (routeTile e, routeDst e) == me then some (routeDvc e).toNat else none))
  arcs.all into.contains && into.all arcs.contains
  && !((validSlots x).any (fun s => wordTgt (Img.node x s) 40 == me.2 || wordTgt (Img.node x s) 28 == me.2))
  && !((unitTgts (Config.tileKind t) x).any (fun u => Tgt.ofCode u.2 == some me.2))
  && (joinRoutes w).all (fun r => Img.routev x r && !(targetedRoutes x).contains r)

/-- Slots of an image that hold an opcode. -/
def slotsWith (x : BitVec 8192) (o : BitVec 8) : List Nat := (validSlots x).filter (fun n => Word.field (Img.node x n) 56 8 == o)

/-- The rules of one valid node word. A second `pja` of a tile feeds `pj.adj` twice, which R19 refuses, though R116 speaks of tiles with several (log 110). -/
def nodeBad (d : BlockDecl) (ps : List Producer) (t n : Nat) (x : BitVec 8192) : Bool :=
  let w := Img.node x n
  let o : BitVec 8 := Word.field w 56 8
  let k := Config.tileKind t
  if w == nopWord then false
  else
    let mine := ps.filter (fun p => p.tile == t && p.off == 0x20 + 8 * n)
    (match decodeNode w with
     | .ok _ => false
     | .error _ => true)
    || !opcLegal k o || !tgtOk d t x (Word.field w 40 12) || !tgtOk d t x (Word.field w 28 12)
    || mine.any (fun p => fedBefore ps p && !joinLeft d p.dst)
    || (o == 0x90 && !joinOk d t n x w)
    || ((o == 0xA2 || o == 0xA3) && !Word.bit (Img.area x 0) 63)
    || (o == 0xA3 && (slotsWith x 0xA3).any (· < n))
    || (o == 0xE3 && (slotsWith x 0xE3).any (· < n))

/-! ### Routes (R21-R23, R236) -/

/-- The hops of a route: the tile each leaves and the direction (0 west, 1 east, 2 south, 3 north). -/
def routeHops (src : Nat) (e : Word64) : List (Nat × Nat) :=
  let dst := routeTile e
  let sx := src % 64; let sy := src / 64; let dx := dst % 64; let dy := dst / 64
  let alongX := fun (y : Nat) => if sx ≤ dx then (List.range (dx - sx)).map (fun i => (y * 64 + sx + i, 1)) else (List.range (sx - dx)).map (fun i => (y * 64 + sx - i, 0))
  let alongY := fun (x : Nat) => if sy ≤ dy then (List.range (dy - sy)).map (fun i => ((sy + i) * 64 + x, 3)) else (List.range (sy - dy)).map (fun i => ((sy - i) * 64 + x, 2))
  if Word.field e 62 2 == (0 : BitVec 2) then alongX sy ++ alongY dx else if Word.field e 62 2 == (1 : BitVec 2) then alongY sx ++ alongX dy else []

/-- The valid routes of a block in the order of the checks: tile, number, entry. -/
def routesOf (d : BlockDecl) : List (Nat × Nat × Word64) :=
  d.order.flatMap (fun im => ((List.range 16).filter (Img.routev im.2)).map (fun n => (im.1, n, Img.route im.2 n)))

/-- LANE of a route entry. -/
def routeLane (e : Word64) : BitVec 4 := Word.field e 58 4

/-- The rules of one valid route entry (R21, R22). -/
def routeBad (d : BlockDecl) (ps : List Producer) (rs : List (Nat × Nat × Word64)) (t n : Nat) (e : Word64) : Bool :=
  let dst := routeTile e
  let dvc := (routeDvc e).toNat
  let before := rs.takeWhile (fun r => r.1 != t || r.2.1 != n)
  let dp := Word.field e 40 2
  Word.field e 62 2 == (3 : BitVec 2) || (Word.field e 62 2 == (2 : BitVec 2) && dst != t) || Word.field e 0 27 != (0 : BitVec 27)
  || (if dp == (3 : BitVec 2) then Word.field e 35 5 != (0 : BitVec 5) else Word.field e 27 8 != (0 : BitVec 8))
  || 4 * d.w ≤ dst % 64 || 4 * d.h ≤ dst / 64
  || !((d.block.images.get? dst).any (fun im => Img.chanv im.bits dvc))
  || before.any (fun r => routeTile r.2.2 == dst && routeDvc r.2.2 == routeDvc e)
  || before.any (fun r => routeLane r.2.2 == routeLane e && (routeHops r.1 r.2.2).any (routeHops t e).contains)
  || !placeOk d dst (routeDst e) || routeDst e == .port 0x11 || routeDst e == .port 0x12
  || (!joinLeft d (dst, routeDst e) && (ps.filter (fun p => p.tile == t && p.off == 0x120 + 8 * n)).any (fedBefore ps))

/-- A route that crosses scopes is targeted, and by `sluice` nodes alone (R23). -/
def scopeBad (d : BlockDecl) (n : Nat) (x : BitVec 8192) (e : Word64) : Bool :=
  let srcs := (validSlots x).filter (fun s => wordTgt (Img.node x s) 40 == .route (BitVec.ofNat 4 n) || wordTgt (Img.node x s) 28 == .route (BitVec.ofNat 4 n))
  let there := (d.block.images.get? (routeTile e)).elim (Img.scope x) (fun im => Img.scope im.bits)
  there != Img.scope x && (srcs.isEmpty || srcs.any (fun s => Word.field (Img.node x s) 56 8 != (0x92 : BitVec 8)))

/-! ### Channels (R24, R52, R89) -/

/-- FMT of a channel entry. -/
def entryFmt (c : BitVec 16) : Nat := (Word.field c 12 4).toNat
/-- SREG of a channel entry. -/
def entrySreg (c : BitVec 16) : Nat := (Word.field c 8 4).toNat
/-- An SX format. -/
def entrySx (c : BitVec 16) : Bool := 5 ≤ entryFmt c && entryFmt c ≤ 7

/-- The rules of one valid channel entry. -/
def chanBad (d : BlockDecl) (t v : Nat) (x : BitVec 8192) : Bool :=
  let c := Img.chan x v
  let f := entryFmt c
  let toMx := chanDst d.block t v == .port 0 || chanDst d.block t v == .port 1
  let pack := Word.bit c 7
  let afmt := (Word.field (Img.area x 0) 60 4).toNat
  let others := (List.range v).filter (fun u => Img.chanv x u)
  9 ≤ f || Word.field c 0 7 != (0 : BitVec 7)
  || (entrySreg c != 0 && !(f == 0 || f == 4 || entrySx c))
  || (pack && !(entrySx c && toMx))
  || (toMx && (f != afmt || pack != entrySx c))
  || others.any (fun u =>
      let y := Img.chan x u
      (entrySx c && (entrySx y || entrySreg y != 0) || (entrySx y && entrySreg c != 0)) && entrySreg y == entrySreg c)

/-! ### Unit sections and preloads (R26, R27, R181) -/

/-- The words of a unit section that are not defined, by their index. Two targets may share a route but no latch or port (R19, R26). SPV = 1 with a SPILL that names no valid route is one, by the model's choice (log 112). -/
def unitBad (d : BlockDecl) (ps : List Producer) (t : Nat) (x : BitVec 8192) : List Nat :=
  let a := Img.area x
  let w0 := a 0
  let w1 := a 1
  let fed := (ps.filter (fun p => p.tile == t && p.off == 0x228)).any (fun p => fedBefore ps p)
  let twice := match (unitTgts (Config.tileKind t) x).map Prod.snd with
    | [u, v] => u == v && (match Tgt.ofCode u with
      | some (.latch ..) | some (.port _) => true
      | _ => false)
    | _ => false
  let noPj := (unitTgts (Config.tileKind t) x).all (fun u => Tgt.ofCode u.2 != some (.port 0x11) && Tgt.ofCode u.2 != some (.port 0x12))
  let tgts := (unitTgts (Config.tileKind t) x).all (fun u => tgtOk d t x u.2) && !fed && !twice && noPj
  let word := fun (i : Nat) (bad : Bool) => if bad then [i] else []
  match Config.tileKind t with
  | .mx =>
      let f := Word.field w0 60 4
      let df := Word.field w0 51 4
      word 0 (!([3, 5, 6, 7] : List (BitVec 4)).contains f || Word.field w0 56 4 != f || !(df == (2 : BitVec 4) || df == (3 : BitVec 4))
        || 4 < (Word.field w0 48 3 : BitVec 3) || (df == (2 : BitVec 4) && Word.field w0 48 3 != (0 : BitVec 3)) || Word.field w0 0 43 != (0 : BitVec 43)
        || (Word.bit w0 43 && !Img.routev x (Word.field w0 44 4).toNat))
      ++ word 1 (w1 != 0)
  | .vx => word 1 (!tgts || Word.field w1 0 28 != (0 : BitVec 28))
  | .sp =>
      let base := (Word.field w0 44 19).toNat
      let len := (Word.field w0 24 20).toNat
      word 0 (Word.field w0 0 24 != (0 : BitVec 24)
        || (if Word.bit w0 63 then base % 8 != 0 || len % 8 != 0 || len == 0 || 524288 < base + len else base != 0 || len != 0))
      ++ word 1 (w1 != 0)
  | .pt =>
      let esz := (Word.field w1 61 3).toNat
      let nl := (Word.field w1 58 3).toNat
      word 0 (Word.field w0 56 8 != (0 : BitVec 8) || (Word.field w0 0 56).toNat % 2 ^ esz != 0)
      ++ word 1 (esz == 7 || 4 < nl || !tgts || (0 < nl && Word.field w1 46 12 == (0xFFF : BitVec 12)) || Word.field w1 0 46 != (0 : BitVec 46))
      ++ (List.range 4).flatMap (fun i =>
          let c := (Word.field (a (2 + i)) 32 32).toNat
          let st := (Word.field (a (2 + i)) 0 32).toNat
          word (2 + i) (if i < nl then c == 0 || st % 2 ^ esz != 0 else c != 0))
  | .ct => word 0 (Word.field w0 0 50 != (0 : BitVec 50) || (idleCt d t && Word.field w0 50 14 != (0 : BitVec 14)))

/-- The rules of one preload record (R27). -/
def preloadBad (t i : Nat) (x : BitVec 8192) : Bool :=
  let k := Config.tileKind t
  let r := preload x k i
  let n := (Word.field r 59 5).toNat
  let tt := Word.field r 53 3
  let w := Img.node x n
  (match Pos.ofCode (Word.field r 57 2) with
   | none => true
   | some p => !Img.nodev x n || !wordEnables w p || Word.bit r 56 != stickyAt w p)
  || !(tt == (0 : BitVec 3) || tt == (2 : BitVec 3)) || Word.field r 48 5 != (0 : BitVec 5)
  || (List.range i).any (fun j => Word.field (preload x k j) 57 7 == (Word.field r 57 7 : BitVec 7))

/-! ### A block, and the checks between blocks -/

/-- Stage 1 of one image (R14). -/
def imageFails (d : BlockDecl) (ps : List Producer) (rs : List (Nat × Nat × Word64)) (prev : Option Nat) (t : Nat) (x : BitVec 8192) : List Fail :=
  headerFails d prev t x ++ unusedFails t x
  ++ (validSlots x).flatMap (fun n => failIf (nodeBad d ps t n x) t (0x20 + 8 * n) 2)
  ++ ((List.range 16).filter (Img.routev x)).flatMap (fun n =>
      failIf (routeBad d ps rs t n (Img.route x n)) t (0x120 + 8 * n) 5 ++ failIf (scopeBad d n x (Img.route x n)) t (0x120 + 8 * n) 6)
  ++ ((List.range 32).filter (Img.chanv x)).flatMap (fun v => failIf (chanBad d t v x) t (0x1A0 + 2 * v) 2)
  ++ (unitBad d ps t x).map (fun i => ⟨t, 0x220 + 8 * i, 2⟩)
  ++ (List.range (Nat.min 58 (Img.npre x))).flatMap (fun i => failIf (preloadBad t i x) t (0x220 + 8 * (unitWords (Config.tileKind t) + i)) 2)

/-- The first failure of the images of a block, taken in ascending TILE (R14). -/
def imagesFail (d : BlockDecl) (ps : List Producer) (rs : List (Nat × Nat × Word64)) : List (Option Nat × Nat × BitVec 8192) → Option Fail
  | [] => none
  | (prev, t, x) :: l =>
      match firstFail (imageFails d ps rs prev t x) with
      | some f => some f
      | none => imagesFail d ps rs l

/-- A block checked whole: its images, then its cycles (R14). -/
def blockFail (d : BlockDecl) : Option Fail :=
  (imagesFail d (producersOf d) (routesOf d) (d.prevs.zip d.order)).orElse (fun _ => firstFail (cycleReports d.block))

/-- The sluice ends of a kernel: block, tile, slot, PAIR, whether it sends (R138). -/
def sluiceEnds (bs : Map BlockDecl) : List (Nat × Nat × Nat × Nat × Bool) :=
  bs.flatMap (fun b => b.2.order.flatMap (fun im => (slotsWith im.2 0x92).filterMap (fun n =>
    let w := Img.node im.2 n
    if Word.bit w 12 then some (b.1, im.1, n, (Word.field w 4 7).toNat, !Word.bit w 11) else none)))

/-- The edges of the pair graph (R259). -/
def pairEdges (bs : Map BlockDecl) : List (Nat × Nat) :=
  let es := sluiceEnds bs
  es.flatMap (fun a => if a.2.2.2.2 then es.filterMap (fun b => if !b.2.2.2.2 && b.2.2.2.1 == a.2.2.2.1 then some (a.1, b.1) else none) else [])

/-- The checks between blocks that fail in one block: jumps, entries, COMMUTE bits, sluice pairs, the pair graph (R129, R138, R218, R239, R259). -/
def spanFails (bs : Map BlockDecl) (b : Nat) (d : BlockDecl) : List Fail :=
  let ps := producersOf d
  let ends := sluiceEnds bs
  let edges := pairEdges bs
  d.order.flatMap (fun im =>
    let t := im.1
    let x := im.2
    (slotsWith x 0x7C).flatMap (fun n =>
      let w := Img.node x n
      failIf (!((bs.get? (Word.field w 4 12).toNat).any (fun y => (y.block.entries.getD (Word.field w 0 4).toNat { tile := 4096, slot := 0, pos := .left }).tile < 2048)))
        t (0x20 + 8 * n) 2)
    ++ (slotsWith x 0x92).flatMap (fun n =>
      let w := Img.node x n
      if !Word.bit w 12 then []
      else
        let mine := ends.filter (fun e => e.2.2.2.1 == (Word.field w 4 7).toNat)
        let snd := mine.filter (fun e => e.2.2.2.2)
        let rcv := mine.filter (fun e => !e.2.2.2.2)
        let paired := match snd, rcv with
          | [a], [c] => a.1 != c.1
          | _, _ => false
        failIf (!paired) t (0x20 + 8 * n) 6
          ++ failIf (!Word.bit w 11 && rcv.any (fun c => (distFrom edges c.1).has b)) t (0x20 + 8 * n) 7)
    ++ (List.range 32).flatMap (fun n => failIf (((d.block.images.get? t).any (fun i => Word.bit i.commute n)) && !Img.nodev x n) t (0x20 + 8 * n) 2))
  ++ (d.block.entries.filter (fun e => e.tile < 2048)).flatMap (fun e =>
      let l : Tgt := .latch e.pos (BitVec.ofNat 5 e.slot)
      failIf (!placeOk d e.tile l || (blockWord d.block e.tile e.slot).any (fun w => stickyAt w e.pos) || ps.any (fun p => p.dst == (e.tile, l)))
        e.tile (0x20 + 8 * e.slot) 2)
  ++ d.badPos.map (fun e => ⟨e.1, 0x20 + 8 * e.2, 2⟩)

/-- The first failure of an object's blocks: each block whole in ascending number, then the checks between them (R14). -/
def objectFail (bs : Map BlockDecl) : Option Fail :=
  (bs.foldl (fun (r : Option Fail) b => r.orElse (fun _ => blockFail b.2)) none).orElse (fun _ =>
    bs.foldl (fun (r : Option Fail) b => r.orElse (fun _ => firstFail (spanFails bs b.1 b.2))) none)

/-- Bits [63:32] of a report (R14, R312). -/
def reportHigh (f : Fail) : BitVec 32 := BitVec.ofNat 8 f.code ++ BitVec.ofNat 11 f.tile ++ BitVec.ofNat 10 f.off ++ (0 : BitVec 3)

end Sys2Proof.Machine
end

