-- ==== Sys2Proof/Machine/Loader.lean ====
section
/-! DEFINITION. The Kueno object (07 R215-R228) and LOAD (14 R312; 19 R372, R381): reading the file, its checks, and what becomes resident. -/

namespace Sys2Proof.Machine

namespace Kueno

/-- A little-endian field of a file. -/
def num (f : List Byte) (o n : Nat) : Nat := (Word.ofBytes (8 * n) ((f.drop o).take n)).toNat
/-- Bytes of a file. -/
def bytes (f : List Byte) (o n : Nat) : List Byte := (f.drop o).take n
/-- Whether bytes of a file are zero. -/
def zero (f : List Byte) (o n : Nat) : Bool := (bytes f o n).all (· == 0)

end Kueno

open Kueno

/-- A section of a Kueno file (R216). -/
structure Sect where
  ty    : Nat
  index : Nat
  flags : Nat
  align : Nat
  addr  : Nat
  off   : Nat
  size  : Nat
  plain : Bool
  deriving DecidableEq, Repr

/-- FLAGS bit 0 of the header: LINKED. -/
def fileLinked (f : List Byte) : Bool := num f 6 2 % 2 == 1
/-- FLAGS bit 1 of the header: SIGNED. -/
def fileSigned (f : List Byte) : Bool := num f 6 2 / 2 % 2 == 1

/-- Entry i of the section table (R216). -/
def sectAt (f : List Byte) (i : Nat) : Sect :=
  let o := num f 0x0C 4 + 24 * i
  { ty := num f o 2, index := num f (o + 2) 2, flags := num f (o + 4) 2, align := num f (o + 6) 1, addr := num f (o + 8) 4
    off := num f (o + 0x10) 4, size := num f (o + 0x14) 4, plain := zero f (o + 7) 1 && zero f (o + 0x0C) 4 }

/-- The sections of a file. -/
def sections (f : List Byte) : List Sect := (List.range (num f 0x0A 2)).map (sectAt f)

/-- The header of a file, made for version 1 of the architecture (R210, R215). -/
def headerOk (f : List Byte) : Bool :=
  let n := num f 0x0A 2
  let so := num f 0x0C 4
  64 ≤ f.length && bytes f 0 4 == [0x4B, 0x55, 0x45, 0x4E] && num f 4 2 == 1 && num f 6 2 < 4 && num f 8 2 == 1 && 1 ≤ n && n ≤ 1024
  && so % 8 == 0 && 64 ≤ so && so + 24 * n ≤ f.length && (bytes f 0x20 32).contains 0 && ((bytes f 0x20 32).dropWhile (· != 0)).all (· == 0)

/-- A section table's own rules: its entries stand in file order, and no two sections overlap (R216, R217). -/
def tableOk (f : List Byte) (ss : List Sect) : Bool :=
  let single := fun (t : Nat) => (ss.filter (fun x => x.ty == t)).length ≤ 1
  let rising := (ss.zip (ss.drop 1)).all (fun x => x.1.off + x.1.size ≤ x.2.off)
  ss.all (fun x => x.plain && 1 ≤ x.ty && x.ty ≤ 9 && x.align ≤ 12 && x.off % 2 ^ x.align == 0 && x.off + x.size ≤ f.length
    && (x.flags == 0 || (x.flags == 1 && x.ty == 4))
    && (2 ≤ x.ty && x.ty ≤ 4 || x.addr == 0) && (x.ty ≤ 4 || x.index == 0))
  && rising && [5, 6, 7, 8, 9].all single && (ss.dropLast.all (fun x => x.ty != 9)) && fileSigned f == ss.any (fun x => x.ty == 9)
  && ((ss.filter (fun x => x.ty == 1)).map (fun x => x.index)).Nodup

/-- An IMG section's block header; an entry that is not VALID may hold anything but in its reserved bits (R218). -/
def imgHeadOk (f : List Byte) (x : Sect) : Bool :=
  let n := num f (x.off + 4) 2
  let w := num f (x.off + 2) 1
  let h := num f (x.off + 3) 1
  80 ≤ x.size && x.size == 80 + 1040 * n && 1 ≤ w && w ≤ 16 && 1 ≤ h && h ≤ 8 && zero f (x.off + 6) 2 && zero f (x.off + 0x48) 8 && x.index < 4096
  && (List.range 16).all (fun k =>
      let e : BitVec 32 := BitVec.ofNat 32 (num f (x.off + 8 + 4 * k) 4)
      Word.field e 18 13 == (0 : BitVec 13))
  && (List.range n).all (fun i => zero f (x.off + 80 + 1040 * i + 4) 12)

/-- The image records of an IMG section: TILE, image, COMMUTE (R218). -/
def imgRecords (f : List Byte) (x : Sect) : List (Nat × BitVec 8192 × BitVec 32) :=
  (List.range (num f (x.off + 4) 2)).map (fun i =>
    let o := x.off + 80 + 1040 * i
    let b : BitVec 8192 := Word.ofBytes 8192 (bytes f (o + 0x10) 1024)
    (Img.tile b, b, BitVec.ofNat 32 (num f o 4)))

/-- The entry ports of an IMG section; one that is not VALID has no tile (R218, R239). -/
def imgEntries (f : List Byte) (x : Sect) : List Port :=
  (List.range 16).map (fun k =>
    let e : BitVec 32 := BitVec.ofNat 32 (num f (x.off + 8 + 4 * k) 4)
    if Word.bit e 31 then { tile := (Word.field e 0 11).toNat, slot := (Word.field e 11 5).toNat, pos := (Pos.ofCode (Word.field e 16 2)).getD .left }
    else { tile := 4096, slot := 0, pos := .left })

/-- The tile and slot of the entry ports whose position is not defined (R239). -/
def imgBadPos (f : List Byte) (x : Sect) : List (Nat × Nat) :=
  (List.range 16).filterMap (fun k =>
    let e : BitVec 32 := BitVec.ofNat 32 (num f (x.off + 8 + 4 * k) 4)
    if Word.bit e 31 && (Pos.ofCode (Word.field e 16 2)).isNone then some ((Word.field e 0 11).toNat, (Word.field e 11 5).toNat) else none)

/-- The image records of an IMG section in ascending TILE, each after the TILE of the record before it in the file (R14, R218). -/
def imgOrder (f : List Byte) (x : Sect) : List (Option Nat × Nat × BitVec 8192) :=
  let rs := imgRecords f x
  let ins := fun (r : Option Nat × Nat × BitVec 8192) (l : List (Option Nat × Nat × BitVec 8192)) =>
    l.takeWhile (fun y => y.2.1 < r.2.1) ++ r :: l.dropWhile (fun y => y.2.1 < r.2.1)
  ((none :: rs.map (fun r => some r.1)).zip (rs.map (fun r => (r.1, r.2.1)))).foldr ins []

/-- The block of an IMG section. -/
def imgBlock (f : List Byte) (x : Sect) : Block :=
  { region := num f x.off 2, entries := imgEntries f x
    images := (imgRecords f x).foldl (fun (m : Map Image) r => m.put r.1 { bits := r.2.1, commute := r.2.2 }) [] }

/-- The IMG sections of a file. -/
def imgSects (f : List Byte) : List Sect := (sections f).filter (fun x => x.ty == 1)

/-- Regions of an object: the numbers its IMG sections name (R216, R235). -/
def regionCount (f : List Byte) : Nat := ((imgSects f).map (fun x => num f x.off 2)).foldl (fun m r => Nat.max m (r + 1)) 0

/-- Every region number below the count has a block, and the blocks of a region agree in its size (R226, R235). -/
def regionsOk (f : List Byte) : Bool :=
  let is := imgSects f
  !is.isEmpty && regionCount f ≤ 1024
  && (List.range (regionCount f)).all (fun r => is.any (fun x => num f x.off 2 == r))
  && is.all (fun a => is.all (fun b => num f a.off 2 != num f b.off 2 || num f (a.off + 2) 2 == num f (b.off + 2) 2))

/-- A section placed in sequencer RAM (R219). -/
def inRam (x : Sect) : Bool := x.ty == 2 || x.ty == 3 || (x.ty == 4 && x.flags == 0)

/-- Sections in sequencer RAM lie below 65,536 and do not overlap within a region (R219). -/
def ramOk (f : List Byte) (ss : List Sect) : Bool :=
  let rs := ss.filter inRam
  rs.all (fun x => x.index < regionCount f && x.addr + x.size ≤ 65536 && (x.ty != 3 || x.size % 16 == 0) && (x.ty != 2 || x.size % 4 == 0))
  && (List.range rs.length).all (fun i => (List.range i).all (fun j =>
      match rs[i]?, rs[j]? with
      | some a, some b => a.index != b.index || a.addr + a.size ≤ b.addr || b.addr + b.size ≤ a.addr
      | _, _ => true))

/-- The sequencer RAM image of a region (R219). -/
def ramImage (f : List Byte) (r : Nat) : List Byte :=
  let m := ((sections f).filter (fun x => inRam x && x.index == r)).foldl (fun (m : List Host.Cell) x => Mem.writeN m x.addr (bytes f x.off x.size)) []
  Mem.readN m 0 65536

/-- The reach requirements of an object are met by a context's reach set (R220, R227). -/
def reachesOk (s : State) (c : Nat) (f : List Byte) (ss : List Sect) : Bool :=
  (ss.filter (fun x => x.ty == 5)).all (fun x =>
    x.size % 16 == 0 && (List.range (x.size / 16)).all (fun i =>
      let o := x.off + 16 * i
      let ms := stripe s c (BitVec.ofNat 4 (num f o 1))
      num f o 1 < 16 && 6 ≤ num f (o + 1) 1 && num f (o + 1) 1 ≤ 12 && zero f (o + 2) 2 && zero f (o + 8) 8
      && (i == 0 || num f (o - 16) 1 < num f o 1)
      && !ms.isEmpty && Stripe.g ms == 2 ^ num f (o + 1) 1 && num f (o + 4) 4 ≤ Stripe.len ms))
  && (ss.filter (fun x => x.ty == 4 && x.flags == 1)).all (fun x =>
      let ms := stripe s c (BitVec.ofNat 4 x.index)
      x.index < 16 && !ms.isEmpty && x.addr + x.size ≤ Stripe.len ms * Stripe.g ms)

/-- No relocation other than KHANDLE remains (R223, R227). -/
def relsOk (f : List Byte) (ss : List Sect) : Bool :=
  (ss.filter (fun x => x.ty == 7)).all (fun x => x.size % 16 == 0 && (List.range (x.size / 16)).all (fun i => num f (x.off + 16 * i + 6) 1 == 9))

/-- A SIG section is well formed (R228). -/
def sigOk (f : List Byte) (ss : List Sect) : Bool :=
  (ss.filter (fun x => x.ty == 9)).all (fun x => num f x.off 2 == 1 && zero f (x.off + 2) 2 && num f (x.off + 0x24) 4 == 3309 && x.size == 0x28 + 3309)

/-- A context's key policy accepts an object: it has a signature where the policy requires one, and a signature that it has is by a key among the trusted ones and verifies, whatever else the policy holds (R228, R381, log 120). -/
def policyOk (s : State) (c : Nat) (f : List Byte) (ss : List Sect) : Bool :=
  let p := (s.ctx c).policy
  match ss.find? (fun x => x.ty == 9) with
  | none => !p.reqSig
  | some x =>
      let key := bytes f (x.off + 4) 32
      (p.keyIds.contains (Word.ofBytes 256 key) && Config.sigVerifies key (f.take x.off) (bytes f (x.off + 0x28) 3309))

/-- A 128-bit template names SX3 (R372). -/
def templateSx3 (w : Word128) : Bool :=
  let c := cmdCode w
  ((c == 0 || c == 1) && Word.field w 74 4 == (5 : BitVec 4)) || (c == 5 && Word.field w 49 4 == (5 : BitVec 4))
  || (c == 0x20 && Word.field w 41 2 == (1 : BitVec 2)) || (c == 0x10 && Word.field w 60 4 == (5 : BitVec 4))

/-- Whether an object uses the projection engine, and whether it names SX3 (R372). -/
def objectNeeds (f : List Byte) : Bool × Bool :=
  let ims := (imgSects f).flatMap (imgRecords f)
  let pj := ims.any (fun r => (validSlots r.2.1).any (fun n => Word.field (Img.node r.2.1 n) 60 4 == (0xD : BitVec 4)))
  let chan := ims.any (fun r => (List.range 32).any (fun v => Img.chanv r.2.1 v && entryFmt (Img.chan r.2.1 v) == 5)
    || (Img.kindOf r.2.1 == some .mx && Word.field (Img.area r.2.1 0) 60 4 == (5 : BitVec 4)))
  let tpl := ((sections f).filter (fun x => x.ty == 3)).any (fun x =>
    (List.range (x.size / 16)).any (fun i => templateSx3 (Word.ofBytes 128 (bytes f (x.off + 16 * i) 16))))
  (pj, chan || tpl)

/-- An object needs a feature that the driver has not accepted (R227, R372). -/
def featureMissing (s : State) (f : List Byte) : Bool :=
  let have_ := s.dev.feats.getD 0
  let need : BitVec 128 := Word.ofBytes 128 (bytes f 0x10 16)
  let n := objectNeeds f
  (need &&& ~~~have_) != 0 || (n.1 && !feature s 4) || (n.2 && !feature s 5)

/-- The CT tiles of a region of w by h quads, as relative ids. -/
def ctTiles (w h : Nat) : List Nat := (List.range h).flatMap (fun j => (List.range w).map (fun i => (4 * j + 2) * 64 + 4 * i + 2))

/-- Whether a block could have a CT tile without a sequencer (R236). -/
def couldBeIdle (b : Block) (t : Nat) : Bool :=
  (b.images.get? t).all (fun (im : Image) => Word.field (Img.area im.bits 0) 50 14 == (0 : BitVec 14))
  && !(b.images.any (fun (im : Nat × Image) => (List.range 16).any (fun n => Img.routev im.2.bits n && routeTile (Img.route im.2.bits n) == t
      && (match routeDst (Img.route im.2.bits n) with
          | .port p => 0x40 ≤ p
          | _ => false))))
  && !((b.images.get? t).any (fun (im : Image) => (validSlots im.bits).any (fun n => [40, 28].any (fun lo => match wordTgt (Img.node im.bits n) lo with
      | .port p => 0x40 ≤ p
      | _ => false))))

/-- The sequencer tile of a region: none where it has no SEQ section; else the one CT tile that R236 leaves, or one of several (log 50). -/
def seqTileOf (f : List Byte) (handle r : Nat) : Option Nat :=
  match (imgSects f).find? (fun x => num f x.off 2 == r) with
  | none => none
  | some x =>
      if !((sections f).any (fun y => y.ty == 2 && y.index == r)) then none
      else
        let ts := ctTiles (num f (x.off + 2) 1) (num f (x.off + 3) 1)
        let bs := ((imgSects f).filter (fun y => num f y.off 2 == r)).map (imgBlock f)
        let ok := ts.filter (fun t => (ts.filter (· != t)).all (fun u => bs.all (fun b => couldBeIdle b u)))
        let pick := if ok.isEmpty then ts else ok
        pick[Config.seqPick handle r % pick.length]?

/-- The blocks of an object as the checks see them. -/
def declsOf (f : List Byte) (handle : Nat) : Map BlockDecl :=
  (imgSects f).foldl (fun (m : Map BlockDecl) x =>
    m.put x.index { block := imgBlock f x, w := num f (x.off + 2) 1, h := num f (x.off + 3) 1, seqTile := seqTileOf f handle (num f x.off 2)
                    order := (imgOrder f x).map Prod.snd, prevs := (imgOrder f x).map Prod.fst, badPos := imgBadPos f x }) []

/-- The kernel an object makes resident (R227, R235, R236). -/
def kernelOfFile (f : List Byte) (c handle : Nat) : Kernel :=
  { ctx := c
    regions := (List.range (regionCount f)).map (fun r =>
      match (imgSects f).find? (fun x => num f x.off 2 == r) with
      | some x => { w := num f (x.off + 2) 1, h := num f (x.off + 3) 1, seq := seqTileOf f handle r, ram := ramImage f r }
      | none => { w := 0, h := 0 })
    blocks := (imgSects f).foldl (fun (m : Map Block) x => m.put x.index (imgBlock f x)) [] }

/-- The byte of a file for an address of a stripe: the section's own, else that of the last other reach DAT section of the stripe that covers it (R219). -/
def datByte (f : List Byte) (x : Sect) (a : Nat) : Option Byte :=
  let covers := fun (y : Sect) => y.ty == 4 && y.flags == 1 && y.index == x.index && y.addr ≤ a && a < y.addr + y.size
  (if covers x then some x else (sections f).reverse.find? covers).map (fun y => (f[y.off + a - y.addr]?).getD 0)

/-- The updates that write a reach DAT section: of each granule the words it touches, in one update. The bytes of such a word that the section does not cover are those of the other sections, or those in memory (R219, R278). -/
def reachWrites (s : State) (c : Nat) (f : List Byte) (x : Sect) (id : Nat) : List (PcKey × Weir) :=
  let ms := stripe s c (BitVec.ofNat 4 x.index)
  let g := Stripe.g ms
  let first := x.addr / 64
  if x.size == 0 then []
  else (List.range ((x.addr + x.size - 1) / 64 + 1 - first)).filterMap (fun i =>
    let lo := Nat.max x.addr (64 * (first + i)) / 4
    let hi := (Nat.min (x.addr + x.size) (64 * (first + i) + 64) + 3) / 4
    (Stripe.place ms (4 * lo / g)).map (fun p =>
      let byte := fun (a : Nat) => (datByte f x a).getD (Mem.read s.dram (segByte p.1 p.2 (a % g)))
      let word := fun (w : Nat) => (Word.ofBytes 32 ((List.range 4).map (fun j => byte (4 * w + j))) : Lane)
      (p.1.pc, { cmd := id, slot := p.1.slot, seg := p.2, word := lo % (g / 4), op := .write, ety := 1, vals := (List.range (hi - lo)).map (fun j => word (lo + j)), stamp := 0 })))

/-- The firmware posts a reach DAT section with `upd.w`, as a command of its own (R219). -/
def postReachData (s : State) (c : Nat) (f : List Byte) (x : Sect) : State :=
  let id := s.nextCmd + 1
  let ws := reachWrites s c f x id
  let y : Cmd := { word := (0x10 : Word128) <<< 121, station := .engine 14 0, origin := .firmware, launch := 0, ctx := c, region := 0, phase := .started
                   admitted := true, taken := 1, posted := ws.length, flight := (ws.zipIdx s.sends).map (fun w => (w.2, w.1.1, w.1.2)) }
  { s.setCmd id y with nextCmd := id, sends := s.sends + ws.length }

/-- A context has been set up: a packet of context 0 has given it something (R331). -/
def ctxKnown (s : State) (c : Nat) : Bool := s.contexts.has c || s.queues.any (fun q => q.2.enabled && q.2.ctx == c)

/-- The object of a LOAD has been read: it is refused with a status, BADREQ before FEATURE before CFG where several checks fail (log 135), or becomes resident once its reach data has been applied (R14, R219, R227, R312, R372, R381). -/
def loadObject (s : State) (q : Nat) (ticket start : BitVec 64) (c : Nat) (f : List Byte) : State :=
  let done := fun (s1 : State) (st res : Nat) => completePacket s1 q ticket { status := st, result := res, start := start }
  let h := s.dev.handles + 1
  let ss := sections f
  if !headerOk f || !fileLinked f || !tableOk f ss || !(imgSects f).all (imgHeadOk f) || !regionsOk f || !ramOk f ss || !relsOk f ss || !sigOk f ss
      || !reachesOk s c f ss || !policyOk s c f ss then done s Status.badReq 0
  else if featureMissing s f then done s Status.feature 0
  else match objectFail (declsOf f h) with
    | some x => done s Status.cfg (reportHigh x).toNat
    | none =>
        let s1 := (ss.filter (fun x => x.ty == 4 && x.flags == 1)).foldl (fun z x => postReachData z c f x) (s.setDev { s.dev with handles := h })
        let ids := (List.range (s1.nextCmd - s.nextCmd)).map (fun i => s.nextCmd + 1 + i)
        settleLoads (s1.setQueue q { s1.queue q with writing := (s1.queue q).writing ++ [⟨ticket, start, h, kernelOfFile f c h, ids⟩] })

/-- LOAD (R312): the object's bytes are asked for over the network; NETWORK_ACKNOWLEDGEMENT brings the answer. -/
def execLoad (addr : BitVec 64) (len : BitVec 32) (ctx : BitVec 16) (s : State) : Out :=
  atPacket (packetOf (.load addr len ctx)) s fun q o s1 =>
    let x := s1.queue q
    if x.ctx != 0 && x.ctx != ctx.toNat then .next (refuse s1 q o Status.denied)
    else .next (s1.setQueue q { x with loading := x.loading ++ [(o.ticket, addr, len, ctx)] })

/-- The oldest LOAD of a queue has its object, or could not be read (R312, R316). -/
def loadAnswered (s : State) (q : Nat) (failed : Bool) : State :=
  let x := s.queue q
  match x.loading with
  | [] => s
  | (t, a, n, c) :: rest =>
      let s1 := s.setQueue q { x with loading := rest }
      let start := (x.opens.find? (fun o => o.ticket == t)).elim 0 (fun o => o.started)
      if failed then completePacket s1 q t { status := Status.netErr, start := start }
      else loadObject s1 q t start c.toNat (Mem.readN s1.host a.toNat n.toNat)

/-- UNLOAD: the handle is freed once every launch of it has completed (R312). The launches decide when (`settleUnload`). -/
def askUnload (s : State) (q : Nat) (o : Open) (handle : Nat) : State :=
  match s.kernels.get? handle with
  | none => refuse s q o Status.badHandle
  | some k =>
      if k.ctx != (s.queue q).ctx then refuse s q o Status.denied
      else { s with kernels := s.kernels.put handle { k with closing := k.closing ++ [(q, o.ticket)] } }

end Sys2Proof.Machine
end

