-- ==== Sys2Proof/Machine/Hours.lean ====
section
/-! DEFINITION. Across hours (19 R371-R385; 11 R286, R287): health events, links and fencing, bank test and repair, scrubbing and upsets, time, features, measurements, firmware, life cycle, reset and wipe, the thermal trip, and the answers of the network. -/

namespace Sys2Proof.Machine

/-! ### Health events (R373) -/

/-- Write a health event into the event ring, once the management endpoint has named one. -/
def healthEvent (s : State) (kind : Nat) (unit sub : BitVec 8) (detail : BitVec 128) : State :=
  let d := s.dev
  if d.ringLen == 0 then s
  else
    let bs := Word.toBytes 8 d.dtime ++ Word.toBytes 2 (BitVec.ofNat 16 kind) ++ Word.toBytes 1 unit ++ Word.toBytes 1 sub ++ Word.toBytes 4 (0 : BitVec 32)
      ++ Word.toBytes 16 detail
    { s.setDev { d with ringNext := d.ringNext + 1 } with host := Mem.writeN s.host (d.ringAddr.toNat + 32 * (d.ringNext % d.ringLen.toNat)) bs }

/-- A health event of a kind without UNIT and SUB. -/
def deviceEvent (s : State) (kind : Nat) (detail : BitVec 128) : State :=
  healthEvent s.bump kind (Config.eventBlank kind s.fresh) (Config.eventBlank kind (s.fresh + 1)) detail

/-! ### Links (R374, R375, R286) -/

/-- A link direction. -/
def linkOf (s : State) (stack dir : Nat) : Link := s.links.getD (2 * stack + dir) {}

/-- Replace a link direction. -/
def setLink (s : State) (stack dir : Nat) (x : Link) : State := { s with links := s.links.put (2 * stack + dir) x }

/-- A flit of a link fails its CRC on a lane, after the flits that the link has carried since its last event: the lane's errors of the last 2^24 flits with this one, and whether the lane is now due (R374, R375). -/
def flitFails (x : Link) (lane flits : Nat) : Link :=
  let at_ := x.flits + flits + 1
  let errs := at_ :: (x.crc.getD lane []).filter (fun e => at_ < e + 2 ^ 24)
  { x with flits := at_, crc := x.crc.put lane errs, due := if 8 ≤ errs.length && !x.spare && x.due.isNone then some lane else x.due }

/-- A replay that is outstanding retires: the count of consecutive failures returns to 0 (R375). -/
def replayRetires (x : Link) : Link := if x.replay then { x with replay := false, fails := 0 } else x

/-- The rider of a `kvride` at a fenced member has alighted early: units behind the link are zero (R165, R286). -/
def fenceKv (s : State) (id : Nat) (pc : PcKey) : State :=
  let c := kvCut (s.cmd id) [pc]
  let cut := fun (b : KvBlock) => if !b.wanted then [] else (List.range (kvUnits c)).filter (fun u =>
    !b.data.has u && (kvPlace s c b u).any (fun x => fencedPc s x.1.pc))
  let bs := c.blocks.map (fun (b : KvBlock) => { b with data := (cut b).foldl (fun d u => d.put u (kvZero c.word b.index u)) b.data })
  s.setCmd id (kvEmit s { c with blocks := bs })

/-- A command with a rider at a fenced member: the rider has alighted (R286). -/
def fenceRider (pc : PcKey) (s : State) (r : Rider) : State :=
  let c := s.cmd r.cmd
  if r.cmd == 0 then s
  else match r.kind with
  | .gather => fenceGather s r.cmd
  | .kv => fenceKv s r.cmd pc
  | _ => foldClose (s.setCmd r.cmd { c with early := c.early + 1, status := if c.status == CStat.busy then c.status else CStat.fenced }) r.cmd

/-- Every rider at one landing alights at once, but for a ride of the stack's own block engine, which no link carries (R286, R346, log 128). -/
def fenceLanding (s : State) (pc : PcKey) : State :=
  let ld := s.landing pc
  fenceOverflow (ld.riders.foldl (fenceRider pc) (s.setLanding pc { ld with riders := ld.riders.filter (fun r => r.kind == .table) })) pc

/-- A link is fenced, both its directions: a waiting repair is abandoned, the riders behind it alight, and event 2 is raised for the direction that failed. Postings on their way are discarded as they would arrive (R286, R375). -/
def fenceLink (s : State) (stack dir : Nat) (x : Link) : State :=
  let s1 := setLink (setLink s.bump stack dir { x with fenced := true, due := none }) stack (1 - dir) { linkOf s stack (1 - dir) with fenced := true, due := none }
  let s2 := (s1.landings.keys.filter (fun pc => pc / 64 == stack)).foldl fenceLanding s1
  healthEvent s2 2 (BitVec.ofNat 8 stack) (BitVec.ofNat 8 dir) (Config.eventDetail 2 (Config.replayNumber s.fresh) 0)

/-- A retransmitted flit fails again: a replay failure, and the fourth in a row fences the link (R374, R375). -/
def replayFails (s : State) (stack dir lane flits : Nat) : State :=
  let x := flitFails (linkOf s stack dir) lane flits
  let y := { x with fails := x.fails + 1 }
  if 4 ≤ y.fails then fenceLink s stack dir y else setLink s stack dir y

/-- LINK_REPLAY: a flit fails its CRC. A first failure starts a replay, so an earlier one has succeeded; a retransmitted flit that fails again is a replay failure. The lane's eighth error within 2^24 flits makes it due (R374, R375). -/
def execLinkReplay (s : State) : Out :=
  match s.focus with
  | .link stack dir lane again flits =>
      let x := linkOf s stack dir
      if Config.stackCount ≤ stack || 2 ≤ dir then .fault .noAgent
      else if x.fenced || (again && !x.replay) then .next s
      else if again then .next (replayFails s stack dir lane flits)
      else .next (setLink s stack dir { flitFails x lane flits with replay := true, fails := 0 })
  | _ => .fault .noAgent

/-- LINK_FENCED: the fourth consecutive replay failure (R286, R375). -/
def execLinkFenced (s : State) : Out :=
  match s.focus with
  | .link stack dir lane _ flits =>
      let x := linkOf s stack dir
      if x.fenced || !x.replay || x.fails < 3 then .next s else .next (replayFails s stack dir lane flits)
  | _ => .fault .noAgent

/-- REPAIR_BOUNDARY: once no replay is outstanding, the due lane is swapped for the spare, and the transmitter resends as a replay (R375). -/
def execRepairBoundary (s : State) : Out :=
  match s.focus with
  | .link stack dir _ _ _ =>
      let x := linkOf s stack dir
      (match x.due with
       | none => .next s
       | some lane =>
           if x.fenced || x.spare || x.replay then .next s
           else .next (healthEvent (setLink s stack dir { x with due := none, spare := true, replay := true }) 1 (BitVec.ofNat 8 stack) (BitVec.ofNat 8 dir)
             (BitVec.ofNat 128 lane)))
  | _ => .fault .noAgent

/-! ### Bank test and repair (R287, R376, R377) -/

/-- A bank from `b` on, skipping the spare (R376). -/
def bankFrom (pc b : Nat) : Nat := if b % 64 == (Config.spareBank pc).toNat then (b + 1) % 64 else b % 64

/-- BANK_PARK: over one lap the next bank moves to the spare; one bank of a pseudo-channel at a time (R287, R376). -/
def execBankPark (s : State) : Out :=
  match s.focus with
  | .bank pc _ =>
      let ld := s.landing pc
      if ld.parked.isSome || !ld.retired.isEmpty || s.dev.wiping then .next s
      else .next (s.setLanding pc { ld with parked := some (bankFrom pc ld.next), testing := true })
  | _ => .fault .noAgent

/-- A repair-table entry (R377). -/
def repairEntry (bank row spare : Nat) : BitVec 32 :=
  (1 : BitVec 1) ++ (0 : BitVec 1) ++ BitVec.ofNat 6 bank ++ BitVec.ofNat 16 row ++ (0 : BitVec 3) ++ BitVec.ofNat 5 spare

/-- The lowest spare row of a bank that no entry uses. -/
def spareRow (t : List (BitVec 32)) (bank : Nat) : Option Nat :=
  (List.range 32).find? (fun i => !t.any (fun e => (Word.field e 24 6).toNat == bank && (Word.field e 0 5).toNat == i))

/-- ROW_REPAIR: one failing row is mapped to the lowest free spare row; a bank with none left is retired, and stays parked or is parked (R373, R377). DEDUCED (log 141): of several retired banks the first stays parked, since only one can be. -/
def repairRow (s : State) (pc bank row : Nat) : State :=
  let ld := s.landing pc
  if ld.retired.contains bank then s
  else
    let unit : BitVec 8 := BitVec.ofNat 8 (pc / 64)
    let sub : BitVec 8 := BitVec.ofNat 8 (pc % 64)
    match spareRow ld.repairs bank with
    | some i =>
        let e := repairEntry bank row i
        let s1 := s.setLanding pc { ld with repairs := ld.repairs ++ [e], fixes := ld.fixes ++ [e] }
        healthEvent (s1.setDev { s1.dev with measured := false }) 3 unit sub (e.setWidth 128)
    | none => healthEvent (s.setLanding pc { ld with retired := ld.retired ++ [bank], parked := ld.parked.orElse (fun _ => some bank) }) 4 unit sub (BitVec.ofNat 128 bank)

/-- The self-test of a pseudo-channel at reset ends, once: each failing row, bank * 65536 + row, is repaired at once (R376, R377). -/
def selfTest (s : State) (pc : PcKey) (failing : List Nat) (ended : List PcKey) : State :=
  if ended.contains pc then s
  else (failing.filter (· < 64 * 65536)).dedup.foldl (fun x r => repairRow x pc (r / 65536) (r % 65536)) (s.setDev { s.dev with selfTest := some (pc :: ended) })

/-- BANK_TEST: the self-test of a pseudo-channel at reset ends, before the wipe lap, or the March test of its parked bank (R376, R377). -/
def execBankTest (s : State) : Out :=
  match s.focus, s.dev.selfTest with
  | .bank pc failing, some ended => .next (selfTest s pc failing ended)
  | .bank pc failing, none =>
      let ld := s.landing pc
      (match ld.parked with
       | none => .next s
       | some b =>
           if !ld.testing then .next s
           else .next ((failing.filter (· < 65536)).dedup.foldl (fun x r => repairRow x pc b r) (s.setLanding pc { ld with testing := false })))
  | _, _ => .fault .noAgent

/-- BANK_UNPARK: over one lap a tested bank takes its rows back, its repairs in effect; a retired bank stays parked (R287, R376, R377). -/
def execBankUnpark (s : State) : Out :=
  match s.focus with
  | .bank pc _ =>
      let ld := s.landing pc
      (match ld.parked with
       | none => .next s
       | some b =>
           if ld.testing || !ld.retired.isEmpty then .next s
           else .next (s.setLanding pc { ld with parked := none, next := (b + 1) % 64, fixes := [] }))
  | _ => .fault .noAgent

/-! ### Scrubbing and upsets (R369, R378) -/

/-- CFG_SCRUB: the scrub finds a parity error in a word of a tile. In a loaded tile it is CFG_PARITY for the launch; in an idle one the word is rewritten, and event 5 is raised (R362, R378). -/
def execCfgScrub (s : State) : Out :=
  match s.focus with
  | .scrub k offset =>
      (match (s.tile k).region.filter (fun r => s.regions.has r) with
       | some r =>
           .next (raiseTrap s.bump { agent := .idle, launch := (s.region r).launch, die := k / 2048, unitNo := 0, tile := k % 2048, unit := true, word := Config.parityWord s.fresh }
             causeCfgParity (BitVec.ofNat 64 offset))
       | none => .next (healthEvent s.bump 5 (BitVec.ofNat 8 (k / 2048)) (Config.eventBlank 5 s.fresh) (Config.eventDetail 5 (k % 2048) offset)))
  | _ => .fault .noAgent

/-- The contexts that own an entry of a base-die SRAM: of a home map its CTX; of the table SRAM the context of a resident table, taken in order of their SEQIDs, or from 4096 on of the leaf frame; of a weir, pseudo-channel * 4096 + place, the context of its update; of a landing, pseudo-channel * 80 + place, the CTX of one of 16 reaches or the context of one of 64 riders (R378, log 122). -/
def sramOwners (s : State) (stack memory entry : Nat) : List Nat :=
  let b := s.base stack
  let ld := fun (n : Nat) => s.landing (stack * 64 + entry / n)
  if memory == 0 then ((b.home.get? entry).filter MapEntry.valid).toList.map MapEntry.ctx
  else if memory == 1 then
    (if entry < 4096 then (b.seqs.vals[entry]?).toList.map (·.ctx)
     else (b.seqs.vals.filter (fun t => t.groups.any (fun g => !g.2.leaf.isEmpty && g.2.frame == entry - 4096))).map (·.ctx))
  else if memory == 2 then ((ld 4096).weir[entry % 4096]?).toList.map (fun w => if w.cmd == 0 then (s.launch w.launch).ctx else (s.cmd w.cmd).ctx)
  else if entry % 80 < 16 then
    (((ld 80).reaches.get? (entry % 80)).filter (fun e => Reach.valid e && !Reach.device e && !Reach.backwater e)).toList.map Reach.ctx
  else (((ld 80).riders[entry % 80 - 16]?).filter (fun r => r.cmd != 0)).toList.map (fun r => (s.cmd r.cmd).ctx)

/-- An error strikes a memory: a word or a granule is marked, and its readers meet the mark; an entry of a base-die SRAM raises event 6, with the pseudo-channel of a weir's or landing's entry in SUB, and freezes every context that owns it; one that is corrected is only counted (R143, R369, R378). -/
def strike (s : State) : Upset → State
  | .scratch w => { s with ecc := if s.ecc.contains w then s.ecc else w :: s.ecc }
  | .ram w => { s with ramEcc := if s.ramEcc.contains w then s.ramEcc else w :: s.ramEcc }
  | .granule a => { s with decayed := if s.decayed.contains a then s.decayed else a :: s.decayed }
  | .sram stack memory entry =>
      (sramOwners s stack memory entry).dedup.foldl freeze
        (healthEvent s.bump 6 (BitVec.ofNat 8 stack)
          (if memory == 2 then BitVec.ofNat 8 (entry / 4096) else if memory == 3 then BitVec.ofNat 8 (entry / 80) else Config.eventBlank 6 s.fresh)
          (Config.eventDetail 6 memory entry))
  | .corrected memory => s.setDev { s.dev with corrected := s.dev.corrected.upd memory 0 (· + 1) }

/-! ### Time and features (R371, R372) -/

/-- PTP_LOCK: at first lock DTIME steps forward to the grandmaster's time; a later lock only slews (R371). -/
def execPtpLock (s : State) : Out :=
  match s.focus with
  | .time t =>
      let d := s.dev
      .next (s.setDev { d with locked := true, stepped := true, dtime := if !d.stepped && d.dtime.toNat < t.toNat then t else d.dtime })
  | _ => .fault .noAgent

/-- PTP_LOCK_LOSS: DTIME runs on freely (R371). -/
def execPtpLockLoss (s : State) : Out :=
  match s.focus with
  | .device => .next (s.setDev { s.dev with locked := false })
  | _ => .fault .noAgent

/-- FEATURE_ACCEPT: a subset of the offered bits, once after each reset (R372). -/
def execFeatureAccept (s : State) : Out :=
  match s.focus with
  | .bits b =>
      if s.dev.feats.isSome || b &&& ~~~Config.offered != 0 then .next (s.answer .refused)
      else .next ((s.setDev { s.dev with feats := some b }).answer .done)
  | _ => .fault .noAgent

/-! ### Measurements and keys (R380, R381) -/

/-- Bytes of every reach table (R264, R380). -/
def reachBytes (s : State) : List Byte :=
  (List.range (Config.stackCount * Config.pcs)).flatMap (fun pc => (List.range 16).flatMap (fun i => Word.toBytes 16 ((s.landing pc).reaches.getD i 0)))

/-- Bytes of every home map (R334, R380). -/
def mapBytes (s : State) : List Byte :=
  (List.range Config.stackCount).flatMap (fun n => (List.range Config.homeEntries).flatMap (fun i => Word.toBytes 16 ((s.base n).home.getD i 0)))

/-- Bytes of every repair table (R377, R380). -/
def repairBytes (s : State) : List Byte :=
  (List.range (Config.stackCount * Config.pcs)).flatMap (fun pc => (s.landing pc).repairs.flatMap (fun e => Word.toBytes 4 e))

/-- Bytes of every key policy (R380, R381). -/
def policyAll (s : State) : List Byte :=
  (List.range 65536).flatMap (fun c => let p := (s.ctx c).policy; Config.policyBytes p.reqSig p.keyIds p.privKey)

/-- The five measurements, in order (R380). -/
def measurements (s : State) : List (BitVec 512) := [s.dev.image, reachBytes s, mapBytes s, repairBytes s, policyAll s].map Config.shake256

/-- The ML-DSA-65 signature over a measurement response (R228, R380). -/
def deviceSign (s : State) : List Byte := (List.range 3309).map (Config.signByte Config.identityKey (measurements s) s.fresh)

/-- GET_MEASUREMENTS: a signed response; a session that has received it may release keys until measured state changes (R380, R381). -/
def execGetMeasurements (s : State) : Out :=
  match s.focus with
  | .device => .next ((s.bump.setDev { s.dev with measured := s.dev.session }).answer (.measured (measurements s) (deviceSign s)))
  | _ => .fault .noAgent

/-- KEY_EXCHANGE: a secure session is established; it has received no measurement yet (R380, R381). -/
def execKeyExchange (s : State) : Out :=
  match s.focus with
  | .device => .next ((s.setDev { s.dev with session := true, measured := false }).answer .done)
  | _ => .fault .noAgent

/-! ### Firmware (R382) -/

/-- An image is accepted: its signature verifies under the vendor key, its SVN is not below the stored minimum, and the parameters of its update lie in their ranges (R382). -/
def imageOk (s : State) (i : FwImage) : Bool :=
  Config.sigVerifies Config.vendorKey (Config.requestBytes i.version.toNat i.svn.toNat i.body) i.sig && s.dev.minSvn.toNat ≤ i.svn.toNat
  && i.queues.length ≤ 64 && i.queues.all (· < 4096) && 1 ≤ i.windowS && i.windowS ≤ 600

/-- The queues of a list are served by the reserve strip, or by the command strip again. A queue is handed over between two consumptions (R382). -/
def handOver (s : State) (qs : List Nat) (canary : Bool) : State :=
  qs.foldl (fun z q => z.setQueue q { z.queue q with canary := canary }) s

/-- FIRMWARE_IMAGE: an accepted image begins its canary on the reserve strip, which takes over the named queues (R382). -/
def execFirmwareImage (s : State) : Out :=
  match s.focus with
  | .image i =>
      if !imageOk s i || s.dev.canary.isSome then .next (s.answer .refused)
      else .next (handOver ((s.setDev { s.dev with canary := some { image := i, since := s.dev.dtime } }).answer .done) i.queues true)
  | _ => .fault .noAgent

/-- Launches that canary queues serve. -/
def canaryLaunches (s : State) : List Launch := (s.launches.vals).filter (fun l => (s.queue l.queue).canary)

/-- The first of the three measures that has stood above its limit within the window: 0 the trap records of a second, 1 the time from commit arrival to start of a launch that started in the window (no tail child, which no commit brings), 2 the time a launch runs without a phase end (R382). -/
def canaryOver (s : State) (c : Canary) : Option Nat :=
  let stop := c.since.toNat + 1000000000 * c.image.windowS
  let ls := canaryLaunches s
  let traps := (ls.flatMap (fun l => l.trapTimes.map BitVec.toNat)).filter (fun t => c.since.toNat ≤ t && t ≤ stop)
  if traps.any (fun t => c.image.maxTraps < (traps.filter (fun x => x ≤ t && t < x + 1000000000)).length) then some 0
  else if ls.any (fun l => c.since.toNat ≤ l.startAt.toNat && l.startAt.toNat ≤ stop && l.flags / 2 % 2 == 0 && c.image.maxStart < l.startAt.toNat - l.arrived.toNat) then some 1
  else if ls.any (fun l => l.phase == .running && c.image.maxRun < Nat.min s.dev.dtime.toNat stop - Nat.max c.since.toNat l.phaseAt.toNat) then some 2
  else none

/-- The limit that a canary has passed: the first one kept, or one passed now (R382). -/
def canaryPassed (s : State) (c : Canary) : Option Nat := c.passed.orElse (fun _ => canaryOver s c)

/-- The health monitor watches a canary as time moves, and keeps the first limit passed in its window (R382). -/
def canaryWatch (s : State) : State :=
  match s.dev.canary with
  | none => s
  | some c => if c.passed.isSome then s else s.setDev { s.dev with canary := some { c with passed := canaryOver s c } }

/-- A canary ends: its queues return to the command strip (R382). -/
def endCanary (s : State) (c : Canary) : State := handOver (s.setDev { s.dev with canary := none }) c.image.queues false

/-- CANARY_COMMIT: the window has ended and no limit was passed; the command strip runs the image, the minimum SVN becomes the image's, and event 7 is raised (R382). -/
def execCanaryCommit (s : State) : Out :=
  match s.focus with
  | .device =>
      (match s.dev.canary with
       | none => .next s
       | some c =>
           let i := c.image
           if (canaryPassed s c).isSome || s.dev.dtime.toNat < c.since.toNat + 1000000000 * i.windowS then .next s
           else
             let s1 := endCanary s c
             .next (deviceEvent (s1.setDev { s1.dev with image := i.body, version := i.version, svn := i.svn, minSvn := i.svn, measured := false }) 7 (i.version.setWidth 128)))
  | _ => .fault .noAgent

/-- CANARY_REVERT: a limit was passed; the image is discarded, and event 8 is raised (R382). -/
def execCanaryRevert (s : State) : Out :=
  match s.focus with
  | .device =>
      (match s.dev.canary with
       | none => .next s
       | some c => match canaryPassed s c with
         | none => .next s
         | some criterion => .next (deviceEvent (endCanary s c) 8 (Config.eventDetail 8 c.image.version.toNat criterion)))
  | _ => .fault .noAgent

/-! ### Reset, wipe, life cycle (R383, R384) -/

/-- A landing after a wipe: its repair table and a retired bank remain (R377, R384). -/
def wipedLanding (pc : PcKey) (x : Landing) : Landing :=
  { resetLanding pc with repairs := x.repairs, retired := x.retired, parked := x.retired.head? }

/-- A stack's base die after a wipe, its slot 0 drawn anew (R379, R384). -/
def wipedBases (next : Nat) : Map Stack := (List.range Config.stackCount).map (fun n => (n, { keys := [(0, Config.drawnKey (next + n))] }))

/-- An emptied queue: every slot free, no packet open (R312, R384). -/
def emptiedQueue (x : Queue) : Queue :=
  { x with commit := 0, next := headSlot x, taken := 0, ticks := [], stamps := [], opens := [], waiting := none, tails := [], resumes := [], loading := [], writing := [], binds := [], arrived := [] }

/-- A context after a wipe: its windows and reaches are gone, its launches with their records, and the KILL packets that waited for them (R384). -/
def wipedContext (x : Context) : Context :=
  { x with overflow := none, save := none, wptr := 0, rptr := 0, unread := [], windows := [], offered := [], tq := x.tq.mapV (fun _ e => { e with used := false }), kills := [] }

/-- A wipe begins: launches stop, queues are emptied, keys are erased, every memory reads zero; until it ends, queues accept nothing (R384). -/
def wipe (s : State) : State :=
  { State.reset with
    agenda := s.agenda, focus := s.focus, fresh := s.fresh, uet := s.uet, host := s.host, far := s.far, links := s.links
    queues := s.queues.mapV (fun _ x => emptiedQueue x), contexts := s.contexts.mapV (fun _ x => wipedContext x)
    landings := s.landings.mapV wipedLanding, bases := wipedBases s.dev.nextKey
    dev := { s.dev with wiping := true, nextKey := s.dev.nextKey + Config.stackCount, measured := false, reserved := none, staged := [], commits := [], unmaps := [] } }

/-- RESET: the banks' self-test and a wipe run, and everything but what outlives a reset stands as after reset: firmware, life-cycle state, repair tables (R371, R372, R376, R382, R384, R385). -/
def execReset (s : State) : Out :=
  match s.focus with
  | .device =>
      let w := wipe s
      let d : Device := { image := s.dev.image, version := s.dev.version, svn := s.dev.svn, minSvn := s.dev.minSvn, lc := s.dev.lc, wiping := true, nextKey := w.dev.nextKey, selfTest := some [] }
      .next { w with links := [], queues := [], contexts := [], dev := d }
  | _ => .fault .noAgent

/-- WIPE_COMPLETE: the wipe lap has ended; queues may accept again (R384). -/
def execWipeComplete (s : State) : Out :=
  match s.focus with
  | .device => .next (s.setDev { s.dev with wiping := false, selfTest := none })
  | _ => .fault .noAgent

/-- The next states of a life-cycle state (R383). -/
def lcSuccessors : LcState → List LcState
  | .manufacture => [.provisioned]
  | .provisioned => [.deployed, .returned]
  | .deployed => [.returned]
  | .returned => [.provisioned, .manufacture]

/-- The place of a life-cycle state in the table of R383. -/
def lcNum : LcState → Nat
  | .manufacture => 0 | .provisioned => 1 | .deployed => 2 | .returned => 3

/-- LC_CHANGE: a transition signed by the authority of the current state runs a wipe, and raises event 10; any other is refused (R373, R383). -/
def execLcChange (s : State) : Out :=
  match s.focus with
  | .lifeCycle target sig =>
      let old := s.dev.lc
      if !(lcSuccessors old).contains target || !Config.sigVerifies (Config.authorityKey old) (Config.requestBytes (lcNum old) (lcNum target) []) sig then
        .next (s.answer .refused)
      else
        let w := wipe s
        .next ((deviceEvent (w.setDev { w.dev with lc := target }) 10 (Config.eventDetail 10 (lcNum old) (lcNum target))).answer .done)
  | _ => .fault .noAgent

/-- THERMAL_TRIP: every launch stops, every context is frozen (`frozenCtx`), and event 9 is raised; only a reset ends it (R385). The number in focus is die * 65536 + sensor. -/
def execThermalTrip (s : State) : Out :=
  match s.focus with
  | .number n =>
      let s1 := { s with regions := s.regions.mapV (fun _ r => { r with closed := true }) }
      .next (healthEvent (s1.setDev { s1.dev with tripped := true }).bump 9 (BitVec.ofNat 8 (n / 65536)) (Config.eventBlank 9 s.fresh) (BitVec.ofNat 128 (n % 65536)))
  | _ => .fault .noAgent

/-! ### The network (R137, R316, R342) -/

/-- A page move that has started and whose transfer is still to end. -/
def movesPage (c : Cmd) : Bool := (cmdCode c.word == 0x19 || cmdCode c.word == 0x1A) && c.phase == .started && c.underway && !c.extended && c.status == 0

/-- NETWORK_ACKNOWLEDGEMENT: the data of a far page has come, or its writes are acknowledged, or the transfer has failed; the bytes of a LOAD's object have come, or could not be read (R137, R312, R316, R342). -/
def execNetworkAcknowledgement (s : State) : Out :=
  match s.focus with
  | .net (.page id) =>
      if !s.cmds.has id then .fault .noAgent
      else
        let c := s.cmd id
        if movesPage c && (cmdCode c.word == 0x19 || (c.pending.isEmpty && !riding s id && c.out.isEmpty)) then .next (s.setCmd id { c with extended := true }) else .next s
  | .net (.pageFailed id) =>
      if !s.cmds.has id then .fault .noAgent
      else if movesPage (s.cmd id) then .next ((dropRiders s id).setCmd id { s.cmd id with status := CStat.netErr, out := [] })
      else .next s
  | .net (.load q) => .next (loadAnswered s q false)
  | .net (.loadFailed q) => .next (loadAnswered s q true)
  | _ => .fault .noAgent

end Sys2Proof.Machine
end

