-- ==== Sys2Proof/Machine/IntNodes.lean ====
section
/-! DEFINITION. Integer node instructions (03 R63-R69): each is the firing of R58 over its computation of Machine/Arith.lean. -/

namespace Sys2Proof.Machine

/-- `add` (R64). -/
def execAdd (w : NodeOp) (s : State) : Out :=
  fireCalc (formOf (.add w)) (fun l r p => intCalc w (fun a b _ => a + b) l r p) s

/-- `sub` (R64). -/
def execSub (w : NodeOp) (s : State) : Out :=
  fireCalc (formOf (.sub w)) (fun l r p => intCalc w (fun a b _ => a - b) l r p) s

/-- `mul` (R64). -/
def execMul (w : NodeOp) (s : State) : Out :=
  fireCalc (formOf (.mul w)) (fun l r p => intCalc w (fun a b _ => a * b) l r p) s

/-- `mulh` (R64). -/
def execMulh (w : NodeOp) (s : State) : Out :=
  fireCalc (formOf (.mulh w)) (fun l r p => intCalc w (fun a b _ => (a * b) / 2^32) l r p) s

/-- `madd` (R64). -/
def execMadd (w : NodeOp) (s : State) : Out :=
  fireCalc (formOf (.madd w)) (fun l r p => intCalc w (fun a b c => a * b + c) l r p) s

/-- `div` (R65). -/
def execDiv (w : NodeOp) (s : State) : Out :=
  fireCalc (formOf (.div w)) (fun l r p => intCalc w (fun a b _ => divInt w.ty w.sat a b) l r p) s

/-- `rem` (R65). -/
def execRem (w : NodeOp) (s : State) : Out :=
  fireCalc (formOf (.rem w)) (fun l r p => intCalc w (fun a b _ => remInt a b) l r p) s

/-- `neg` (R64). -/
def execNeg (w : NodeOp) (s : State) : Out :=
  fireCalc (formOf (.neg w)) (fun l r p => intCalc w (fun a _ _ => -a) l r p) s

/-- `abs` (R64). -/
def execAbs (w : NodeOp) (s : State) : Out :=
  fireCalc (formOf (.abs w)) (fun l r p => intCalc w (fun a _ _ => a.natAbs) l r p) s

/-- `min` (R64). -/
def execMin (w : NodeOp) (s : State) : Out :=
  fireCalc (formOf (.min w)) (fun l r p => intCalc w (fun a b _ => min a b) l r p) s

/-- `max` (R64). -/
def execMax (w : NodeOp) (s : State) : Out :=
  fireCalc (formOf (.max w)) (fun l r p => intCalc w (fun a b _ => max a b) l r p) s

/-- `icmp` (R66). -/
def execIcmp (w : NodeOp) (cond : BitVec 3) (s : State) : Out :=
  fireCalc (formOf (.icmp w cond)) (fun l r _ => icmpCalc w cond l r) s

/-- `and` (R66). -/
def execAnd (w : NodeOp) (s : State) : Out :=
  fireCalc (formOf (.and w)) (fun l r p => logicCalc w (· &&& ·) l r p) s

/-- `or` (R66). -/
def execOr (w : NodeOp) (s : State) : Out :=
  fireCalc (formOf (.or w)) (fun l r p => logicCalc w (· ||| ·) l r p) s

/-- `xor` (R66). -/
def execXor (w : NodeOp) (s : State) : Out :=
  fireCalc (formOf (.xor w)) (fun l r p => logicCalc w (· ^^^ ·) l r p) s

/-- `not` (R66). -/
def execNot (w : NodeOp) (s : State) : Out :=
  fireCalc (formOf (.not w)) (fun l r p => logicCalc w (fun a _ => ~~~a) l r p) s

/-- `andn` (R66). -/
def execAndn (w : NodeOp) (s : State) : Out :=
  fireCalc (formOf (.andn w)) (fun l r p => logicCalc w (fun a b => a &&& ~~~b) l r p) s

/-- `shl` (R67). -/
def execShl (w : NodeOp) (s : State) : Out :=
  fireCalc (formOf (.shl w)) (fun l r p => bitCalc w shlLane l r p) s

/-- `shr` (R67). -/
def execShr (w : NodeOp) (s : State) : Out :=
  fireCalc (formOf (.shr w)) (fun l r p => bitCalc w shrLane l r p) s

/-- `sra` (R67). -/
def execSra (w : NodeOp) (s : State) : Out :=
  fireCalc (formOf (.sra w)) (fun l r p => bitCalc w sraLane l r p) s

/-- `rotl` (R67). -/
def execRotl (w : NodeOp) (s : State) : Out :=
  fireCalc (formOf (.rotl w)) (fun l r p => bitCalc w rotlLane l r p) s

/-- `clz` (R67). -/
def execClz (w : NodeOp) (s : State) : Out :=
  fireCalc (formOf (.clz w)) (fun l r p => bitCalc w (fun a _ => clzLane a) l r p) s

/-- `popc` (R67). -/
def execPopc (w : NodeOp) (s : State) : Out :=
  fireCalc (formOf (.popc w)) (fun l r p => bitCalc w (fun a _ => popcLane a) l r p) s

/-- `bfx` (R68). -/
def execBfx (w : NodeOp) (sgn : Bool) (wm1 pos : BitVec 5) (s : State) : Out :=
  fireCalc (formOf (.bfx w sgn wm1 pos)) (fun l r p => bitCalc w (fun a _ => bfxLane sgn wm1 pos a) l r p) s

/-- `bfi` (R68). -/
def execBfi (w : NodeOp) (wm1 pos : BitVec 5) (s : State) : Out :=
  fireCalc (formOf (.bfi w wm1 pos)) (fun l r p => bitCalc w (bfiLane wm1 pos) l r p) s

/-- `addi` (R64). -/
def execAddi (w : NodeOp) (imm : BitVec 16) (s : State) : Out :=
  fireCalc (formOf (.addi w imm)) (fun l r p => intCalc w (fun a _ _ => a + immInt w.ty imm) l r p) s

end Sys2Proof.Machine
end

