-- ==== Sys2Proof/Machine/Packets.lean ====
section
/-! DEFINITION. The packets (14 R312, R318, R328; 11 R266, R268; 15 R332, R334, R344; 19 R379, R381, R383, R384): one definition each, at the head of the queue in focus. -/

namespace Sys2Proof.Machine

/-! ### LAUNCH, BIND, UNLOAD -/

/-- LAUNCH: checked as it becomes its queue's head; one that passes waits there as a candidate (R312, R318, R320). -/
def execLaunch (p : Packet) (s : State) : Out :=
  atPacket p s fun q o s1 => .next (queueLaunch s1 q o)

/-- The launch a ticket names that has started and not completed: the last of a tail chain (R328). -/
def launchByTicket (s : State) (t : BitVec 64) : Option (Nat × Launch) :=
  (s.launches.filter (fun l => l.2.ticket == t && l.2.phase != .retired)).getLast?

/-- The context of a tail chain whose child waits at the head of its queue (R329). -/
def chainCtx (s : State) (t : BitVec 64) : Option Nat :=
  (s.queues.find? (fun q => q.2.tails.any (fun o => o.ticket == t))).map (fun q => q.2.ctx)

/-- BIND: the firmware issues the `bind` to the PT on behalf of the launch; the packet completes when it retires. One for a chain whose child has not started waits for it (R328, R329). -/
def execBindPacket (tq : BitVec 16) (ticket : BitVec 64) (ops : BitVec 96) (region : BitVec 8) (tile : BitVec 16) (s : State) : Out :=
  atPacket (packetOf (.bindPacket tq ticket ops region tile)) s fun q o s1 =>
    if tq.toNat != q then .next (refuse s1 q o Status.badReq)
    else match launchByTicket s1 ticket, chainCtx s1 ticket with
    | some (l, _), _ => .next (issueBind s1 q o l)
    | none, some c =>
        if c != (s1.queue q).ctx then .next (refuse s1 q o Status.denied)
        else .next (s1.setQueue q { s1.queue q with binds := (s1.queue q).binds ++ [o] })
    | none, none => .next (refuse s1 q o Status.noTarget)

/-- UNLOAD: the handle is freed once every launch of it has completed (R312). -/
def execUnload (handle : BitVec 32) (s : State) : Out :=
  atPacket (packetOf (.unload handle)) s fun q o s1 => .next (settleUnload (askUnload s1 q o handle.toNat) handle.toNat)

/-! ### QSET, CTXSET, SCHED, KILL -/

/-- The operands of QSET lie in their ranges (R312). -/
def qsetOk (tq : BitVec 16) (entries : BitVec 32) (flags : BitVec 8) : Bool :=
  let n := entries.toNat
  tq.toNat < queueCount && (List.range 13).any (fun i => n == 16 * 2 ^ i) && Word.field flags 3 5 == (0 : BitVec 5)

/-- A queue as QSET leaves it. -/
def qsetFields (x : Queue) (ctx : BitVec 16) (ring : BitVec 64) (entries : BitVec 32) (flags : BitVec 8) : Queue :=
  { x with enabled := Word.bit flags 0, dropLate := Word.bit flags 1, ctx := ctx.toNat, ring := ring, entries := entries }

/-- A queue has been given to another context: a launch or a tail child that waits at it is checked again (R318, R329, R331). -/
def recheckQueue (s : State) (q : Nat) : State :=
  let x := s.queue q
  let s1 := x.tails.foldl (fun z o => match launchCheck z q o.packet with
    | some st => launchOver (z.setQueue q { z.queue q with tails := (z.queue q).tails.filter (fun y => y.ticket != o.ticket) }) q o.ticket
        (Launch.handleOf o.packet :: o.chain) { status := st, flags := o.flags, start := o.started }
    | none => z) s
  match x.waiting.bind (fun o => (launchCheck s1 q o.packet).map (fun st => (o, st))) with
  | some (o, st) => launchOver (s1.setQueue q { s1.queue q with waiting := none }) q o.ticket [Launch.handleOf o.packet] { status := st }
  | none => s1

/-- A queue as QSET leaves it, its waiting launches checked again where its context changes (R312, R331). -/
def setQueueTo (s : State) (q : Nat) (ctx : BitVec 16) (ring : BitVec 64) (entries : BitVec 32) (flags : BitVec 8) : State :=
  let s1 := s.setQueue q (qsetFields (s.queue q) ctx ring entries flags)
  if (s.queue q).ctx == ctx.toNat then s1 else recheckQueue s1 q

/-- QSET: a queue's context, completion ring and flags (R312, R313). -/
def execQset (tq ctx : BitVec 16) (ring : BitVec 64) (entries : BitVec 32) (flags : BitVec 8) (s : State) : Out :=
  atManagement (.qset tq ctx ring entries flags) s fun q o s1 =>
    if !qsetOk tq entries flags then .next (refuse s1 q o Status.badReq)
    else .next (packetDone (setQueueTo s1 tq.toNat ctx ring entries flags) q o 0)

/-- The slots of a queue whose packets are published and not consumed, in ring order. -/
def committedSlots (x : Queue) : List Nat := ((List.range 256).map (fun i => (headSlot x + i) % 256)).filter (fun i => Word.bit x.commit i)

/-- Every unstarted packet of a queue completes KILLED, and its packet ring is empty (R312). -/
def resetQueue (s : State) (q : Nat) : State :=
  let x := s.queue q
  let s1 := s.setQueue q { x with waiting := none }
  let s2 := match x.waiting with
    | some o => launchOver s1 q o.ticket [Launch.handleOf o.packet] { status := Status.killed }
    | none => s1
  let s3 := (committedSlots x).foldl (fun z i => completePacket z q (x.ticks.getD i (BitVec.allOnes 64)) { status := Status.killed }) s2
  s3.setQueue q { s3.queue q with commit := 0, ticks := [], stamps := [], taken := 0, next := headSlot x }

/-- QSET with RESET: the packet ring of the target queue is emptied first (R312). -/
def execQsetReset (tq ctx : BitVec 16) (ring : BitVec 64) (entries : BitVec 32) (flags : BitVec 8) (s : State) : Out :=
  atManagement (.qsetReset tq ctx ring entries flags) s fun q o s1 =>
    if !qsetOk tq entries flags then .next (refuse s1 q o Status.badReq)
    else
      .next (packetDone (setQueueTo (resetQueue s1 tq.toNat) tq.toNat ctx ring entries flags) q o 0)

/-- A rectangle lies on a die of the package, its reserved bits zero (R3, R312). -/
def rectFieldsOk (r : BitVec 32) : Bool :=
  (Word.field r 28 4).toNat < 12 && Word.field r 0 14 == (0 : BitVec 14) && (Word.field r 24 4).toNat + (Word.field r 17 4).toNat < 16
  && (Word.field r 21 3).toNat + (Word.field r 14 3).toNat < 8

/-- CTXSET: a context's partition and its time slice, raised to 2000 ns (R312, R330). -/
def execCtxset (ctx : BitVec 16) (slice : BitVec 32) (rects : List (BitVec 32)) (s : State) : Out :=
  atManagement (.ctxset ctx slice rects) s fun q o s1 =>
    if rects.isEmpty || 8 < rects.length || !rects.all rectFieldsOk then .next (refuse s1 q o Status.badReq)
    else
      let n := Nat.max 2000 slice.toNat
      .next (completePacket (s1.setCtx ctx.toNat { s1.ctx ctx.toNat with rects := rects, slice := n, left := n }) q o.ticket
        { status := Status.ok, flags := if slice.toNat < 2000 then 4 else 0, start := o.started })

/-- SCHED: the policy of admission (R312, R321, R324, R372). -/
def execSched (policy : BitVec 8) (s : State) : Out :=
  atManagement (.sched policy) s fun q o s1 =>
    if 1 < policy.toNat || (policy == 1 && !feature s1 2) then .next (refuse s1 q o Status.badReq)
    else .next (packetDone (s1.setDev { s1.dev with bid := policy == 1 }) q o 0)

/-- KILL: every launch of a context is killed; the packet completes, and the context is no longer frozen, once each of them has ended (R312, R364, R367). -/
def execKill (ctx : BitVec 16) (s : State) : Out :=
  atPacket (packetOf (.kill ctx)) s fun q o s1 =>
    let x := s1.queue q
    if x.ctx != 0 && x.ctx != ctx.toNat then .next (refuse s1 q o Status.denied)
    else
      let s2 := killContext s1 ctx.toNat
      let y := s2.ctx ctx.toNat
      .next (settleKills (s2.setCtx ctx.toNat { y with kills := y.kills ++ [(q, o.ticket)] }) ctx.toNat)

/-! ### REACHSET (R264, R266, R268, R312, R379, R381, R384) -/

/-- The reach table of a pseudo-channel with the staged entries in place. -/
def tableWith (s : State) (st : List (PcKey × Nat × BitVec 128)) (pc : PcKey) : Map (BitVec 128) :=
  st.foldl (fun m x => if x.1 == pc then m.put x.2.1 x.2.2 else m) (s.landing pc).reaches

/-- The valid entries of a table. -/
def validOf (m : Map (BitVec 128)) : List (Nat × BitVec 128) := m.filter (fun e => Reach.valid e.2)

/-- An extent is one of the three kinds (R266). -/
def extentOk (e : BitVec 128) : Bool :=
  let n := Reach.extent e
  n < 65536 || (n % 65536 == 0 && n < 2 ^ 21) || n % 2 ^ 21 == 0

/-- The rules of one valid entry: its period, its extent, its fields, its stripe's size (R264, R266, R284). -/
def entryOk (e : BitVec 128) : Bool :=
  Reach.extent e ≤ 48000000 * Reach.share e && extentOk e && 1 ≤ Reach.lseg e && 6 ≤ Reach.log2g e && Reach.log2g e ≤ 12
  && [1, 3, 5, 6, 7].contains (Reach.dtag e).toNat && Reach.count e ≤ 1536 && Reach.count e * Reach.lseg e ≤ 2 ^ 24
  && Reach.base e + Reach.units e ≤ Config.pcUnits

/-- Two entries occupy a unit in common. -/
def overlaps (a b : BitVec 128) : Bool := Reach.base a < Reach.base b + Reach.units b && Reach.base b < Reach.base a + Reach.units a

/-- A table keeps the rules of R266 that concern it alone. -/
def tableRulesOk (m : Map (BitVec 128)) : Bool :=
  let v := validOf m
  v.all (fun e => entryOk e.2) && (v.map (fun e => Reach.share e.2)).sum ≤ 64 && (v.map (fun e => Reach.units e.2)).sum == Config.pcUnits
  && v.all (fun a => v.all (fun b => a.1 == b.1 || !overlaps a.2 b.2))

/-- The members of a stripe, with the staged entries in place. -/
def stripeWith (s : State) (st : List (PcKey × Nat × BitVec 128)) (c : Nat) (n : BitVec 4) : List (BitVec 128) :=
  (s.landings.keys ++ st.map (fun x => x.1)).dedup.flatMap (fun pc => ((tableWith s st pc).filter (fun e => Reach.named e.2 c n)).map Prod.snd)

/-- The members of one stripe agree, and their ranks are 0 to NM1 (R266). -/
def stripeOk (es : List (BitVec 128)) : Bool :=
  match es with
  | [] => true
  | e :: _ =>
      es.all (fun x => Reach.lseg x == Reach.lseg e && Reach.log2g x == Reach.log2g e && Reach.share x == Reach.share e && Reach.count x == Reach.count e)
      && es.length == Reach.count e && (List.range (Reach.count e)).all (fun r => es.any (fun x => Reach.rank x == r))

/-- The entry a table holds now. -/
def entryNow (s : State) (pc slot : Nat) : BitVec 128 := (s.landing pc).reaches.getD slot 0

/-- A change frees a reach or gives it to another context: its extent is zeroed (R384). -/
def reachFreed (old new : BitVec 128) : Bool := Reach.valid old && (!Reach.valid new || Reach.ctx new != Reach.ctx old)

/-- A staged entry that the firmware refuses for itself: a place that is not there, a device-owned slot or extent, an empty key slot, a key policy (R268, R312, R379, R381). -/
def stageBad (s : State) (x : PcKey × Nat × BitVec 128) : Bool :=
  let e := x.2.2
  let dev := (s.landing x.1).reaches.filter (fun y => Reach.valid y.2 && Reach.device y.2)
  Reach.device e || Reach.device (entryNow s x.1 x.2.1) || (Reach.valid e && dev.any (fun y => overlaps y.2 e))
  || !((s.base (x.1 / 64)).keys.has (Reach.key e))
  || (Reach.valid e && !Reach.shared e && !Reach.backwater e && Reach.key e == 0 && (s.ctx (Reach.ctx e)).policy.privKey)

/-- All staged entries with the tables they change keep R266, and no launch of a reach's old owner is started (R266, R384). -/
def commitOk (s : State) (st : List (PcKey × Nat × BitVec 128)) : Bool :=
  let named := st.flatMap (fun x => [x.2.2, entryNow s x.1 x.2.1]) |>.filter (fun e => Reach.valid e && !Reach.backwater e && !Reach.device e)
  st.all (fun x => !stageBad s x) && (st.map (fun x => x.1)).dedup.all (fun pc => tableRulesOk (tableWith s st pc))
  && named.all (fun e => stripeOk (stripeWith s st (Reach.ctx e) (Reach.crn e)))
  && st.all (fun x =>
      let old := entryNow s x.1 x.2.1
      !reachFreed old x.2.2 || Reach.backwater old || !s.launches.any (fun l => l.2.ctx == Reach.ctx old && l.2.phase != .retired))

/-- An entry as the table keeps it: its reserved bits read zero (R8, R264). -/
def entryKept (e : BitVec 128) : BitVec 128 := Word.setField e 0 (0 : BitVec 20)

/-- The staged entries with one more; a later entry for a slot replaces an earlier one. -/
def stageWith (s : State) (x : PcKey × Nat × BitVec 128) : List (PcKey × Nat × BitVec 128) :=
  s.dev.staged.filter (fun y => y.1 != x.1 || y.2.1 != x.2.1) ++ [(x.1, x.2.1, entryKept x.2.2)]

/-- The tables as earlier commits that still wait for the lap clock will leave them (R312). -/
def tablesAhead (s : State) : State :=
  s.dev.commits.foldl (fun z c => c.2.2.foldl (fun y e => y.setLanding e.1 { y.landing e.1 with reaches := (y.landing e.1).reaches.put e.2.1 e.2.2 }) z) s

/-- STACK, PC and SLOT lie in their ranges. -/
def reachPlaceOk (stack pc slot : BitVec 8) : Bool := stack.toNat < Config.stackCount && pc.toNat < Config.pcs && slot.toNat < 16

/-- REACHSET without COMMIT stages one entry (R312). -/
def execReachsetStage (stack pc slot : BitVec 8) (entry : BitVec 128) (s : State) : Out :=
  atManagement (.reachsetStage stack pc slot entry) s fun q o s1 =>
    let x := (stack.toNat * 64 + pc.toNat, slot.toNat, entry)
    if !reachPlaceOk stack pc slot || stageBad s1 x then .next (refuse s1 q o Status.badReq)
    else .next (packetDone (s1.setDev { s1.dev with staged := stageWith s1 x }) q o 0)

/-- REACHSET with COMMIT stages its entry, checks all that are staged, and hands them to the lap clock; a failed check discards them (R266, R312). -/
def execReachsetCommit (stack pc slot : BitVec 8) (entry : BitVec 128) (s : State) : Out :=
  atManagement (.reachsetCommit stack pc slot entry) s fun q o s1 =>
    let x := (stack.toNat * 64 + pc.toNat, slot.toNat, entry)
    let st := stageWith s1 x
    if !reachPlaceOk stack pc slot || !commitOk (tablesAhead s1) st then .next (refuse (s1.setDev { s1.dev with staged := [] }) q o Status.badReq)
    else .next (s1.setDev { s1.dev with staged := [], commits := s1.dev.commits ++ [(q, o.ticket, st)] })

/-- Zeros over an extent; its granules are no longer poisoned (R384). -/
def zeroExtent (s : State) (pc : PcKey) (e : BitVec 128) : State :=
  let lo := extentByte pc e 0
  let n := Reach.extent e
  let out := fun (a : Nat) => a < lo || lo + n ≤ a
  { s with dram := Mem.clear s.dram lo n, decayed := s.decayed.filter out, poison := s.poison.filter out }

/-- The format tags of a slot fall back to DTAG (R284). -/
def clearTags (s : State) (pc slot : Nat) : State :=
  let lo := tagKey pc slot 0
  { s with tags := s.tags.keep (fun k _ => k < lo || lo + 2 ^ 24 ≤ k) }

/-- What decides how a granule is encrypted: key slot, context, reach number, and the granule's index within the stripe (R269, R379). -/
def cipherOf (e : BitVec 128) (o : Nat) : Nat × Nat × BitVec 4 × Nat :=
  let j := Nat.min (2 ^ 21) (Reach.extent e) / Reach.g e
  let c := o / Reach.g e
  let seg := ((c / j) * Reach.count e + Reach.rank e) * j + c % j
  (Reach.key e, Reach.ctx e, Reach.crn e, (seg * Reach.g e + o % Reach.g e) / 64)

/-- How the granule at byte `a` of a pseudo-channel is encrypted: by the valid reach in whose extent it lies (R266, R379). -/
def cipherAt (s : State) (pc : PcKey) (a : Nat) : Option (Nat × Nat × BitVec 4 × Nat) :=
  ((s.landing pc).reaches.find? (fun x => Reach.valid x.2 && extentByte pc x.2 0 ≤ a && a < extentByte pc x.2 (Reach.extent x.2))).map
    (fun x => cipherOf x.2 (a - extentByte pc x.2 0))

/-- The granules of an extent for which `changed` holds read as what their old bytes give under their new key and tweak: a free value (R379; log 119). -/
def rekeyExtent (s : State) (pc : PcKey) (e : BitVec 128) (changed : Nat → Bool) : State :=
  let at_ := fun (g : Nat) => extentByte pc e (64 * g)
  { s with
    dram := ((List.range (Word.ceilDiv (Reach.extent e) 64)).filter changed).foldl (fun m g =>
      Mem.store m (at_ g) 64 (Config.rekeyed s.fresh (at_ g) (Mem.load m (at_ g) 64 512))) s.dram
    fresh := s.fresh + 1 }

/-- What a new entry's extent holds under the tables before it reads otherwise where it was encrypted under another key or another tweak (R379; log 119). -/
def rekeyEntered (before s : State) (x : PcKey × Nat × BitVec 128) : State :=
  let e := x.2.2
  if !Reach.valid e || Reach.backwater e then s
  else rekeyExtent s x.1 e (fun g => cipherAt before x.1 (extentByte x.1 e (64 * g)) != some (cipherOf e (64 * g)))

/-- A freed reach is zeroed (R384). -/
def zeroFreed (before s : State) (x : PcKey × Nat × BitVec 128) : State :=
  let old := entryNow before x.1 x.2.1
  if reachFreed old x.2.2 then zeroExtent s x.1 old else s

/-- One entry takes its place: its cursor starts at lap 0 (R265, R284). DESIGN CHOICE (logs 80, 136): the riders and updates that stand at the slot stay, and the other members of its stripe keep their cursors. -/
def applyEntry (s : State) (x : PcKey × Nat × BitVec 128) : State :=
  let s1 := clearTags s x.1 x.2.1
  let ld := s1.landing x.1
  s1.setLanding x.1 { ld with reaches := ld.reaches.put x.2.1 x.2.2, cursors := ld.cursors.put x.2.1 (0, 0), since := ld.since.put x.2.1 (s.dev.applied + 1) }

/-- The entries of a commit take effect together (R265, R312, R379, R384). -/
def applyCommit (s : State) (es : List (PcKey × Nat × BitVec 128)) : State :=
  let s1 := es.foldl applyEntry (es.foldl (rekeyEntered s) (es.foldl (zeroFreed s) s))
  s1.setDev { s1.dev with applied := s.dev.applied + 1 }

/-- REACH_TABLE_APPLY: at the next lap-clock boundary the entries of the oldest commit take effect, and its REACHSET completes (R265, R312, R380, R384). -/
def execReachTableApply (s : State) : Out :=
  match s.focus with
  | .device =>
      (match s.dev.commits with
       | [] => .next s
       | (q, t, es) :: rest =>
           let s1 := applyCommit s es
           let start := ((s.queue q).opens.find? (fun o => o.ticket == t)).elim 0 (fun o => o.started)
           .next (completePacket (s1.setDev { s1.dev with commits := rest, measured := false }) q t { status := Status.ok, start := start }))
  | _ => .fault .noAgent

/-! ### POOLSET (R344) -/

/-- Every byte of a mapped page lies on a stack: the interleave units that the page touches, one by one (R269, R344). -/
def pageOnStack (s : State) (c stack : Nat) (e : BitVec 128) : Bool :=
  let ms := stripe s c (MapEntry.crn e)
  let size := Stripe.unit ms * Stripe.g ms
  let lo := MapEntry.page e * 2 ^ 21
  size != 0 && lo + 2 ^ 21 ≤ Stripe.len ms * Stripe.g ms
  && (List.range ((lo + 2 ^ 21 - 1) / size + 1 - lo / size)).all (fun i => (ms[(lo / size + i) % ms.length]?).any (fun m => m.pc / 64 == stack))

/-- POOLSET CREATE (R344). -/
def execPoolsetCreate (ctx : BitVec 16) (stack : BitVec 8) (pool : BitVec 16) (npages : BitVec 32) (vpn : BitVec 64) (s : State) : Out :=
  atManagement (.poolsetCreate ctx stack pool npages vpn) s fun q o s1 =>
    let n := npages.toNat
    let b := s1.base stack.toNat
    if Config.stackCount ≤ stack.toNat || 4096 ≤ pool.toNat || n == 0 || Config.poolPages < n || b.pools.has pool.toNat
        || Config.poolPages < (b.pools.map (fun p => p.2.npages)).sum + n
        || !((List.range n).all (fun k => match mapFind s1 ctx.toNat (vpn.toNat + k) with
            | some (_, e) => MapEntry.r e && MapEntry.w e && pageOnStack s1 ctx.toNat stack.toNat e
            | none => false)) then .next (refuse s1 q o Status.badReq)
    else .next (packetDone (s1.setBase stack.toNat { b with pools := b.pools.put pool.toNat { ctx := ctx.toNat, vpn := vpn.toNat, npages := n, used := [] } }) q o 0)

/-- POOLSET DESTROY (R344). -/
def execPoolsetDestroy (ctx : BitVec 16) (stack : BitVec 8) (pool : BitVec 16) (npages : BitVec 32) (vpn : BitVec 64) (s : State) : Out :=
  atManagement (.poolsetDestroy ctx stack pool npages vpn) s fun q o s1 =>
    let b := s1.base stack.toNat
    match b.pools.get? pool.toNat with
    | some p =>
        if Config.stackCount ≤ stack.toNat || p.ctx != ctx.toNat || !p.used.isEmpty then .next (refuse s1 q o Status.badReq)
        else .next (packetDone (s1.setBase stack.toNat { b with pools := b.pools.del pool.toNat }) q o 0)
    | none => .next (refuse s1 q o Status.badReq)

/-! ### KEYSET (R379, R381, R383) -/

/-- The stacks a KEYSET names. -/
def keyStacks (stack : BitVec 8) : List Nat := if stack == 0xFF then List.range Config.stackCount else [stack.toNat]

/-- STACK and SLOT of KEYSET lie in their ranges. -/
def keyPlaceOk (stack slot : BitVec 8) : Bool := (stack == 0xFF || stack.toNat < Config.stackCount) && slot != 0

/-- What the reaches under a key slot hold was encrypted under the key that is now replaced (R379). -/
def rekeySlot (s : State) (stack slot : Nat) : State :=
  if !(s.base stack).keys.has slot then s
  else (s.landings.filter (fun l => l.1 / 64 == stack)).foldl (fun z l =>
    (l.2.reaches.filter (fun e => Reach.valid e.2 && !Reach.backwater e.2 && !Reach.device e.2 && Reach.key e.2 == slot)).foldl (fun y e => rekeyExtent y l.1 e.2 (fun _ => true)) z) s

/-- KEYSET LOAD: the key delivered in the session goes into a slot (R379, R381). -/
def execKeysetLoad (ctx : BitVec 16) (stack slot : BitVec 8) (kref : BitVec 32) (s : State) : Out :=
  atManagement (.keysetLoad ctx stack slot kref) s fun q o s1 =>
    if !keyPlaceOk stack slot then .next (refuse s1 q o Status.badReq)
    else if !s1.dev.measured then .next (refuse s1 q o Status.denied)
    else
      let key := Config.sessionKey s1.fresh kref
      let s2 := (keyStacks stack).foldl (fun z n =>
        let y := rekeySlot z n slot.toNat
        y.setBase n { y.base n with keys := (y.base n).keys.put slot.toNat key }) s1.bump
      .next (packetDone s2 q o 0)

/-- A valid reach of a stack, or one about to be, names a key slot. -/
def keyNamed (s : State) (stack slot : Nat) : Bool :=
  s.landings.any (fun l => l.1 / 64 == stack && l.2.reaches.any (fun e => Reach.valid e.2 && Reach.key e.2 == slot))
  || (s.dev.commits.flatMap (fun c => c.2.2)).any (fun x => x.1 / 64 == stack && Reach.valid x.2.2 && Reach.key x.2.2 == slot)

/-- KEYSET ERASE (R379). -/
def execKeysetErase (ctx : BitVec 16) (stack slot : BitVec 8) (kref : BitVec 32) (s : State) : Out :=
  atManagement (.keysetErase ctx stack slot kref) s fun q o s1 =>
    if !keyPlaceOk stack slot || (keyStacks stack).any (fun n => keyNamed s1 n slot.toNat) then .next (refuse s1 q o Status.badReq)
    else
      let s2 := (keyStacks stack).foldl (fun z n => z.setBase n { z.base n with keys := (z.base n).keys.del slot.toNat }) s1
      .next (packetDone s2 q o 0)

/-- KEYSET POLICY: a context's key policy, fixed once the device is DEPLOYED (R381, R383). -/
def execKeysetPolicy (ctx : BitVec 16) (stack slot : BitVec 8) (kref : BitVec 32) (s : State) : Out :=
  atManagement (.keysetPolicy ctx stack slot kref) s fun q o s1 =>
    if !keyPlaceOk stack slot then .next (refuse s1 q o Status.badReq)
    else if !s1.dev.measured || s1.dev.lc == .deployed then .next (refuse s1 q o Status.denied)
    else
      let p := Config.sessionPolicy s1.fresh kref
      let s2 := s1.setCtx ctx.toNat { s1.ctx ctx.toNat with policy := { reqSig := p.1, keyIds := p.2.1.take 8, privKey := p.2.2 } }
      .next (packetDone (s2.bump.setDev { s2.dev with measured := false }) q o 0)

/-! ### CTXREACH (R332, R334, R372) -/

/-- The map entries of a context. -/
def mapsOf (s : State) (c : Nat) : List (BitVec 128) :=
  s.bases.flatMap (fun b => (b.2.home.vals).filter (fun e => MapEntry.valid e && MapEntry.ctx e == c))

/-- Whether a home map has room for its pages of a window (R334). -/
def homeRoom (s : State) (v n h : Nat) : Bool :=
  ((List.range n).filter (fun i => homeOf (v + i) == h)).length + ((s.base h).home.filter (fun e => MapEntry.valid e.2)).length ≤ Config.homeEntries

/-- A MAP is refused (R332, R334, R372). -/
def mapBad (s : State) (c : Nat) (v n first : Nat) (fpool : Nat) (crn flags : BitVec 8) : Bool :=
  let ms := stripe s c (Word.field crn 0 4)
  let mine := mapsOf s c
  Word.field flags 3 5 != (0 : BitVec 5) || 16 ≤ crn.toNat || ms.isEmpty || 2 ^ 35 < v + n || (v == 2 ^ 35 && n == 0)
  || Stripe.len ms * Stripe.g ms < (first + n) * 2 ^ 21
  || mine.any (fun e => (v ≤ MapEntry.vpn e && MapEntry.vpn e < v + n)
      || (MapEntry.crn e == Word.field crn 0 4 && first ≤ MapEntry.page e && MapEntry.page e < first + n))
  || (Word.bit flags 2 && (!feature s 3 || !((s.ctx c).farpools.has fpool)))
  || (List.range 24).any (fun h => !homeRoom s v n h)

/-- One page of a window enters the lowest free entry of its home map, near: FAR gives a page its far copy, and does not put it there (R332, R334, R355; log 102). -/
def mapPage (s : State) (c v first : Nat) (crn flags : BitVec 8) (i : Nat) : State :=
  let h := homeOf (v + i)
  let b := s.base h
  match b.home.lowestFree Config.homeEntries 0 with
  | none => s
  | some k =>
      s.setBase h { b with home := b.home.put k (MapEntry.mk c (v + i) false (Word.bit flags 0) (Word.bit flags 1) false (Word.field crn 0 4) (first + i)) }

/-- CTXREACH MAP (R332, R334). -/
def execCtxreachMap (ctx : BitVec 16) (vpn : BitVec 64) (npages first ffirst : BitVec 32) (fpool : BitVec 16) (crn flags : BitVec 8) (s : State) : Out :=
  atManagement (.ctxreachMap ctx vpn npages first ffirst fpool crn flags) s fun q o s1 =>
    let c := ctx.toNat
    let v := vpn.toNat
    if mapBad s1 c v npages.toNat first.toNat fpool.toNat crn flags then .next (refuse s1 q o Status.badReq)
    else
      let s2 := (List.range npages.toNat).foldl (fun z i => mapPage z c v first.toNat crn flags i) s1
      let w : Window := { vpn := v, npages := npages.toNat, first := first.toNat, ffirst := ffirst.toNat, fpool := fpool, crn := Word.field crn 0 4
                          r := Word.bit flags 0, w := Word.bit flags 1, far := Word.bit flags 2 }
      .next (packetDone ((s2.setCtx c { s2.ctx c with windows := (s2.ctx c).windows ++ [w] }).setDev { s2.dev with measured := false }) q o 0)

/-- CTXREACH UNMAP: it takes effect once no cache of the package holds a page of it (R332, R336). -/
def execCtxreachUnmap (ctx : BitVec 16) (vpn : BitVec 64) (npages : BitVec 32) (s : State) : Out :=
  atManagement (.ctxreachUnmap ctx vpn npages) s fun q o s1 =>
    let c := ctx.toNat
    let v := vpn.toNat
    let n := npages.toNat
    if (List.range n).any (fun i => (mapFind s1 c (v + i)).isNone || unmapping s1 c (v + i)) then .next (refuse s1 q o Status.badReq)
    else if anyCached s1 c v n then .next (s1.setDev { s1.dev with unmaps := s1.dev.unmaps ++ [(q, o.ticket, c, v, n)] })
    else .next (packetDone (unmapPages s1 c v n) q o 0)

/-- CTXREACH ROLE: the overflow reach or the save reach of a context (R244, R332, R350). -/
def execCtxreachRole (ctx : BitVec 16) (crn role : BitVec 8) (s : State) : Out :=
  atManagement (.ctxreachRole ctx crn role) s fun q o s1 =>
    let c := ctx.toNat
    let n : BitVec 4 := Word.field crn 0 4
    let ms := stripe s1 c n
    if 16 ≤ crn.toNat || ms.isEmpty || Stripe.g ms < 128 || role == 0 || 2 < role.toNat then .next (refuse s1 q o Status.badReq)
    else if role == 1 then .next (packetDone (s1.setCtx c { s1.ctx c with overflow := some n, wptr := 0, rptr := 0, unread := [] }) q o 0)
    else .next (packetDone (s1.setCtx c { s1.ctx c with save := some n }) q o 0)

/-- CTXREACH FARPOOL (R332, R372). -/
def execCtxreachFarpool (ctx : BitVec 16) (fpool : BitVec 16) (fpages : BitVec 32) (fep fbase : BitVec 64) (s : State) : Out :=
  atManagement (.ctxreachFarpool ctx fpool fpages fep fbase) s fun q o s1 =>
    let c := ctx.toNat
    if !feature s1 3 || (s1.ctx c).farpools.has fpool.toNat then .next (refuse s1 q o Status.badReq)
    else .next (packetDone (s1.setCtx c { s1.ctx c with farpools := (s1.ctx c).farpools.put fpool.toNat { pages := fpages, fep := fep, fbase := fbase } }) q o 0)

end Sys2Proof.Machine
end

