-- ==== Sys2Proof/Machine/SysNodes.lean ====
section
/-! DEFINITION. System nodes (05 R154, R155). -/

namespace Sys2Proof.Machine

/-- `trap` raises USER if it has no predicate or some lane is enabled; else it consumes its token (R155). -/
def execTrap (w : NodeOp) (code : BitVec 16) (s : State) : Out :=
  fireSlot (formOf (.trap w code)) s fun k n o =>
    if (List.range 16).any (laneOn w o.p.pay) then .next (raiseTrap s (slotSite s k n) causeUser (code.setWidth 64))
    else .next (consumeAt s k n (formOf (.trap w code)))

/-- A node triggered by its left token that sends one payload to both targets. -/
def fireRead (f : NodeForm) (pay : State → TileKey → Payload) (s : State) : Out :=
  fireSlot f s fun k n o =>
    if bothFree s k n f then let t := resultTok o (pay s k); .next (fireTo s k n f (some t) (some t)) else .next s

/-- `dtime` (R155). -/
def execDtime (w : NodeOp) (s : State) : Out :=
  fireRead (formOf (.dtime w)) (fun s _ => Word.ofA64 fun _ => s.dev.dtime) s

/-- The code of a tile kind (R13). -/
def Kind.code : Kind → Nat
  | .mx => 0 | .vx => 1 | .sp => 2 | .pt => 3 | .ct => 4

/-- The lanes of `tileid` (R155). -/
def tileidPay (s : State) (k : TileKey) : Payload :=
  let rg := s.region (s.regionOf k)
  Word.ofLanes fun i => match i with
    | 0 => BitVec.ofNat 32 (k % 2048)
    | 1 => BitVec.ofNat 32 (k / 2048)
    | 2 => BitVec.ofNat 32 (s.tile k).rel
    | 3 => BitVec.ofNat 32 (rg.qy * 65536 + rg.qx)
    | 4 => BitVec.ofNat 32 (s.ctxOf k)
    | 5 => BitVec.ofNat 32 (Kind.code (s.tile k).kind)
    | _ => 0

/-- `tileid` (R155). -/
def execTileid (w : NodeOp) (s : State) : Out := fireRead (formOf (.tileid w)) tileidPay s

/-- `stat`: a data or control token reads out and resets the counters; a drain or end-of-stream marker also passes to TGB (R56, R155). -/
def execStat (w : NodeOp) (s : State) : Out :=
  let f := formOf (.stat w)
  atSlot s fun k n sl =>
    match sl.left with
    | none => .next s
    | some l =>
        if l.tt == .resume then .next (raiseTrap s (slotSite s k n) causeBadToken 0)
        else if !bothFree s k n f then .next s
        else if l.tt == .tempo || l.tt == .fault then .next (forwardBoth s k n f l)
        else
          let c : Tok := { tt := .data, seq := l.seq, tag := l.tag, pay := countPayload (s.tile k).counts }
          let s1 := fireTo (noteMarker s k n l) k n f (some c) (if l.tt.isMarker then some l else none)
          .next (s1.setTile k { s1.tile k with counts := [] })

end Sys2Proof.Machine
end

