-- ==== Sys2Proof/Machine/Dispatch.lean ====
section
/-! DEFINITION. The one dispatch: what each instruction does, by its constructor. -/

namespace Sys2Proof.Machine

/-- The meaning of every instruction, at the agent in focus. -/
def exec (i : Instr) (s : State) : Host.Outcome State Fault Refusal :=
  match i with
  | .add w => Sys2Proof.Machine.execAdd w s
  | .sub w => Sys2Proof.Machine.execSub w s
  | .mul w => Sys2Proof.Machine.execMul w s
  | .mulh w => Sys2Proof.Machine.execMulh w s
  | .madd w => Sys2Proof.Machine.execMadd w s
  | .div w => Sys2Proof.Machine.execDiv w s
  | .rem w => Sys2Proof.Machine.execRem w s
  | .neg w => Sys2Proof.Machine.execNeg w s
  | .abs w => Sys2Proof.Machine.execAbs w s
  | .min w => Sys2Proof.Machine.execMin w s
  | .max w => Sys2Proof.Machine.execMax w s
  | .icmp w cond => Sys2Proof.Machine.execIcmp w cond s
  | .and w => Sys2Proof.Machine.execAnd w s
  | .or w => Sys2Proof.Machine.execOr w s
  | .xor w => Sys2Proof.Machine.execXor w s
  | .not w => Sys2Proof.Machine.execNot w s
  | .andn w => Sys2Proof.Machine.execAndn w s
  | .shl w => Sys2Proof.Machine.execShl w s
  | .shr w => Sys2Proof.Machine.execShr w s
  | .sra w => Sys2Proof.Machine.execSra w s
  | .rotl w => Sys2Proof.Machine.execRotl w s
  | .clz w => Sys2Proof.Machine.execClz w s
  | .popc w => Sys2Proof.Machine.execPopc w s
  | .bfx w sgn wm1 pos => Sys2Proof.Machine.execBfx w sgn wm1 pos s
  | .bfi w wm1 pos => Sys2Proof.Machine.execBfi w wm1 pos s
  | .addi w imm => Sys2Proof.Machine.execAddi w imm s
  | .fadd w => Sys2Proof.Machine.execFadd w s
  | .fsub w => Sys2Proof.Machine.execFsub w s
  | .fmul w => Sys2Proof.Machine.execFmul w s
  | .fma w => Sys2Proof.Machine.execFma w s
  | .fms w => Sys2Proof.Machine.execFms w s
  | .fnma w => Sys2Proof.Machine.execFnma w s
  | .fmin w => Sys2Proof.Machine.execFmin w s
  | .fmax w => Sys2Proof.Machine.execFmax w s
  | .fabs w => Sys2Proof.Machine.execFabs w s
  | .fneg w => Sys2Proof.Machine.execFneg w s
  | .fcpsgn w => Sys2Proof.Machine.execFcpsgn w s
  | .fcmp w cond => Sys2Proof.Machine.execFcmp w cond s
  | .fclass w mask => Sys2Proof.Machine.execFclass w mask s
  | .fdiv w => Sys2Proof.Machine.execFdiv w s
  | .fsqrt w => Sys2Proof.Machine.execFsqrt w s
  | .frcp w => Sys2Proof.Machine.execFrcp w s
  | .frsqrt w => Sys2Proof.Machine.execFrsqrt w s
  | .exp2f w => Sys2Proof.Machine.execExp2f w s
  | .log2f w => Sys2Proof.Machine.execLog2f w s
  | .ldx w => Sys2Proof.Machine.execLdx w s
  | .rndi w => Sys2Proof.Machine.execRndi w s
  | .cvt w src dst => Sys2Proof.Machine.execCvt w src dst s
  | .pack w sz => Sys2Proof.Machine.execPack w sz s
  | .unpack w ext sz => Sys2Proof.Machine.execUnpack w ext sz s
  | .perm w => Sys2Proof.Machine.execPerm w s
  | .bcast w lane => Sys2Proof.Machine.execBcast w lane s
  | .rsum w => Sys2Proof.Machine.execRsum w s
  | .rmin w => Sys2Proof.Machine.execRmin w s
  | .rmax w => Sys2Proof.Machine.execRmax w s
  | .psum w => Sys2Proof.Machine.execPsum w s
  | .pmin w => Sys2Proof.Machine.execPmin w s
  | .pmax w => Sys2Proof.Machine.execPmax w s
  | .lidx w imm => Sys2Proof.Machine.execLidx w imm s
  | .mcount w pfx => Sys2Proof.Machine.execMcount w pfx s
  | .mov w => Sys2Proof.Machine.execMov w s
  | .sel w => Sys2Proof.Machine.execSel w s
  | .steer w inv => Sys2Proof.Machine.execSteer w inv s
  | .merge w alt => Sys2Proof.Machine.execMerge w alt s
  | .gate w => Sys2Proof.Machine.execGate w s
  | .dup w => Sys2Proof.Machine.execDup w s
  | .sink w => Sys2Proof.Machine.execSink w s
  | .const w imm => Sys2Proof.Machine.execConst w imm s
  | .seqgen w eos => Sys2Proof.Machine.execSeqgen w eos s
  | .tagGet w => Sys2Proof.Machine.execTagGet w s
  | .tagSet w => Sys2Proof.Machine.execTagSet w s
  | .spawn w => Sys2Proof.Machine.execSpawn w s
  | .jump w block entry => Sys2Proof.Machine.execJump w block entry s
  | .loop w inv => Sys2Proof.Machine.execLoop w inv s
  | .retire w free => Sys2Proof.Machine.execRetire w free s
  | .widFld w fld => Sys2Proof.Machine.execWidFld w fld s
  | .widLvl w lvl => Sys2Proof.Machine.execWidLvl w lvl s
  | .ctlS w ncm1 own => Sys2Proof.Machine.execCtlS w ncm1 own s
  | .ctlP w ncm1 pm1 own => Sys2Proof.Machine.execCtlP w ncm1 pm1 own s
  | .ctlQ w ncm1 own => Sys2Proof.Machine.execCtlQ w ncm1 own s
  | .join w one vbase rbase nm1 => Sys2Proof.Machine.execJoin w one vbase rbase nm1 s
  | .fenceSc w scope => Sys2Proof.Machine.execFenceSc w scope s
  | .sluiceLocSnd w scope pair dm1 => Sys2Proof.Machine.execSluiceLocSnd w scope pair dm1 s
  | .sluiceXrSnd w scope pair dm1 => Sys2Proof.Machine.execSluiceXrSnd w scope pair dm1 s
  | .sluiceXrRcv w scope pair dm1 => Sys2Proof.Machine.execSluiceXrRcv w scope pair dm1 s
  | .censusUp w imm => Sys2Proof.Machine.execCensusUp w imm s
  | .censusDn w imm => Sys2Proof.Machine.execCensusDn w imm s
  | .spld w ord blk scope => Sys2Proof.Machine.execSpld w ord blk scope s
  | .spst w ord blk scope => Sys2Proof.Machine.execSpst w ord blk scope s
  | .spatom w ord scope atop => Sys2Proof.Machine.execSpatom w ord scope atop s
  | .spown w => Sys2Proof.Machine.execSpown w s
  | .xlat w acc => Sys2Proof.Machine.execXlat w acc s
  | .gaddr w => Sys2Proof.Machine.execGaddr w s
  | .resume w => Sys2Proof.Machine.execResume w s
  | .balloc w => Sys2Proof.Machine.execBalloc w s
  | .bfree w => Sys2Proof.Machine.execBfree w s
  | .bappend w => Sys2Proof.Machine.execBappend w s
  | .blook w => Sys2Proof.Machine.execBlook w s
  | .btrim w => Sys2Proof.Machine.execBtrim w s
  | .mma w => Sys2Proof.Machine.execMma w s
  | .mmaAcc w => Sys2Proof.Machine.execMmaAcc w s
  | .loadw w => Sys2Proof.Machine.execLoadw w s
  | .swapw w => Sys2Proof.Machine.execSwapw w s
  | .drain w => Sys2Proof.Machine.execDrain w s
  | .zero w => Sys2Proof.Machine.execZero w s
  | .rowtag w imm => Sys2Proof.Machine.execRowtag w imm s
  | .rprog w => Sys2Proof.Machine.execRprog w s
  | .pj w psel => Sys2Proof.Machine.execPj w psel s
  | .pjp w => Sys2Proof.Machine.execPjp w s
  | .pjs w aux => Sys2Proof.Machine.execPjs w aux s
  | .pja w => Sys2Proof.Machine.execPja w s
  | .trap w code => Sys2Proof.Machine.execTrap w code s
  | .dtime w => Sys2Proof.Machine.execDtime w s
  | .tileid w => Sys2Proof.Machine.execTileid w s
  | .stat w => Sys2Proof.Machine.execStat w s
  | .seqAdd d a b => Sys2Proof.Machine.execSeqAdd d a b s
  | .seqSub d a b => Sys2Proof.Machine.execSeqSub d a b s
  | .seqAnd d a b => Sys2Proof.Machine.execSeqAnd d a b s
  | .seqOr d a b => Sys2Proof.Machine.execSeqOr d a b s
  | .seqXor d a b => Sys2Proof.Machine.execSeqXor d a b s
  | .seqShl d a b => Sys2Proof.Machine.execSeqShl d a b s
  | .seqShr d a b => Sys2Proof.Machine.execSeqShr d a b s
  | .seqSra d a b => Sys2Proof.Machine.execSeqSra d a b s
  | .seqMul d a b => Sys2Proof.Machine.execSeqMul d a b s
  | .seqMulh d a b => Sys2Proof.Machine.execSeqMulh d a b s
  | .seqSlt d a b => Sys2Proof.Machine.execSeqSlt d a b s
  | .seqSltu d a b => Sys2Proof.Machine.execSeqSltu d a b s
  | .seqMin d a b => Sys2Proof.Machine.execSeqMin d a b s
  | .seqMax d a b => Sys2Proof.Machine.execSeqMax d a b s
  | .seqDiv d a b => Sys2Proof.Machine.execSeqDiv d a b s
  | .seqRem d a b => Sys2Proof.Machine.execSeqRem d a b s
  | .seqAddi d a imm => Sys2Proof.Machine.execSeqAddi d a imm s
  | .seqAndi d a imm => Sys2Proof.Machine.execSeqAndi d a imm s
  | .seqOri d a imm => Sys2Proof.Machine.execSeqOri d a imm s
  | .seqXori d a imm => Sys2Proof.Machine.execSeqXori d a imm s
  | .seqShli d a sh => Sys2Proof.Machine.execSeqShli d a sh s
  | .seqShri d a sh => Sys2Proof.Machine.execSeqShri d a sh s
  | .seqSrai d a sh => Sys2Proof.Machine.execSeqSrai d a sh s
  | .seqSlti d a imm => Sys2Proof.Machine.execSeqSlti d a imm s
  | .seqInsh d imm => Sys2Proof.Machine.execSeqInsh d imm s
  | .seqLd d a imm => Sys2Proof.Machine.execSeqLd d a imm s
  | .seqSt d a imm => Sys2Proof.Machine.execSeqSt d a imm s
  | .seqLdw d a imm => Sys2Proof.Machine.execSeqLdw d a imm s
  | .seqStw d a imm => Sys2Proof.Machine.execSeqStw d a imm s
  | .seqBeq d a imm => Sys2Proof.Machine.execSeqBeq d a imm s
  | .seqBne d a imm => Sys2Proof.Machine.execSeqBne d a imm s
  | .seqBlt d a imm => Sys2Proof.Machine.execSeqBlt d a imm s
  | .seqBge d a imm => Sys2Proof.Machine.execSeqBge d a imm s
  | .seqBltu d a imm => Sys2Proof.Machine.execSeqBltu d a imm s
  | .seqBgeu d a imm => Sys2Proof.Machine.execSeqBgeu d a imm s
  | .seqJ off => Sys2Proof.Machine.execSeqJ off s
  | .seqJal off => Sys2Proof.Machine.execSeqJal off s
  | .seqJr a => Sys2Proof.Machine.execSeqJr a s
  | .seqSget d n => Sys2Proof.Machine.execSeqSget d n s
  | .seqSset a n => Sys2Proof.Machine.execSeqSset a n s
  | .seqCset c pos wm1 a chk => Sys2Proof.Machine.execSeqCset c pos wm1 a chk s
  | .seqCget c pos wm1 a sx => Sys2Proof.Machine.execSeqCget c pos wm1 a sx s
  | .seqCclr c pos wm1 => Sys2Proof.Machine.execSeqCclr c pos wm1 s
  | .seqCclrAll c => Sys2Proof.Machine.execSeqCclrAll c s
  | .seqCissue c => Sys2Proof.Machine.execSeqCissue c s
  | .seqTokGive a q => Sys2Proof.Machine.execSeqTokGive a q s
  | .seqTokTake d h q => Sys2Proof.Machine.execSeqTokTake d h q s
  | .seqTokPoll d q => Sys2Proof.Machine.execSeqTokPoll d q s
  | .seqCfgLoad a => Sys2Proof.Machine.execSeqCfgLoad a s
  | .seqCfgWait d => Sys2Proof.Machine.execSeqCfgWait d s
  | .seqSeed d a => Sys2Proof.Machine.execSeqSeed d a s
  | .seqCensusWait d => Sys2Proof.Machine.execSeqCensusWait d s
  | .seqLaunchTail a => Sys2Proof.Machine.execSeqLaunchTail a s
  | .seqWfe d poll => Sys2Proof.Machine.execSeqWfe d poll s
  | .seqFence scope => Sys2Proof.Machine.execSeqFence scope s
  | .seqTrap code => Sys2Proof.Machine.execSeqTrap code s
  | .seqHalt => Sys2Proof.Machine.execSeqHalt s
  | .boardFlow h o => Sys2Proof.Machine.execBoardFlow h o s
  | .boardSnap h o => Sys2Proof.Machine.execBoardSnap h o s
  | .gather h rid ort => Sys2Proof.Machine.execGather h rid ort s
  | .sieve h o => Sys2Proof.Machine.execSieve h o s
  | .fold h o => Sys2Proof.Machine.execFold h o s
  | .kvride h o => Sys2Proof.Machine.execKvride h o s
  | .alight h rid => Sys2Proof.Machine.execAlight h rid s
  | .updW h o => Sys2Proof.Machine.execUpdW h o s
  | .updAdd h o => Sys2Proof.Machine.execUpdAdd h o s
  | .updMax h o => Sys2Proof.Machine.execUpdMax h o s
  | .updScadd h o => Sys2Proof.Machine.execUpdScadd h o s
  | .copy h o => Sys2Proof.Machine.execCopy h o s
  | .pagein h o => Sys2Proof.Machine.execPagein h o s
  | .pageout h o => Sys2Proof.Machine.execPageout h o s
  | .bseqNew h o => Sys2Proof.Machine.execBseqNew h o s
  | .bseqRestore h o => Sys2Proof.Machine.execBseqRestore h o s
  | .bseqAddg h o => Sys2Proof.Machine.execBseqAddg h o s
  | .bdrop h seqid stack => Sys2Proof.Machine.execBdrop h seqid stack s
  | .bindStart h o => Sys2Proof.Machine.execBindStart h o s
  | .bindResume h o => Sys2Proof.Machine.execBindResume h o s
  | .unbind h => Sys2Proof.Machine.execUnbind h s
  | .eos h ort tag => Sys2Proof.Machine.execEos h ort tag s
  | .tempo h round rmask => Sys2Proof.Machine.execTempo h round rmask s
  | .drainCmd h rmask => Sys2Proof.Machine.execDrainCmd h rmask s
  | .fenceE h eng => Sys2Proof.Machine.execFenceE h eng s
  | .cfgld h block => Sys2Proof.Machine.execCfgld h block s
  | .statc h reach seg => Sys2Proof.Machine.execStatc h reach seg s
  | .launch p => Sys2Proof.Machine.execLaunch p s
  | .bindPacket tq ticket ops region tile => Sys2Proof.Machine.execBindPacket tq ticket ops region tile s
  | .load addr len ctx => Sys2Proof.Machine.execLoad addr len ctx s
  | .unload handle => Sys2Proof.Machine.execUnload handle s
  | .qset tq ctx ring entries flags => Sys2Proof.Machine.execQset tq ctx ring entries flags s
  | .qsetReset tq ctx ring entries flags => Sys2Proof.Machine.execQsetReset tq ctx ring entries flags s
  | .ctxset ctx slice rects => Sys2Proof.Machine.execCtxset ctx slice rects s
  | .reachsetStage stack pc slot entry => Sys2Proof.Machine.execReachsetStage stack pc slot entry s
  | .reachsetCommit stack pc slot entry => Sys2Proof.Machine.execReachsetCommit stack pc slot entry s
  | .sched policy => Sys2Proof.Machine.execSched policy s
  | .kill ctx => Sys2Proof.Machine.execKill ctx s
  | .poolsetCreate ctx stack pool npages vpn => Sys2Proof.Machine.execPoolsetCreate ctx stack pool npages vpn s
  | .poolsetDestroy ctx stack pool npages vpn => Sys2Proof.Machine.execPoolsetDestroy ctx stack pool npages vpn s
  | .keysetLoad ctx stack slot kref => Sys2Proof.Machine.execKeysetLoad ctx stack slot kref s
  | .keysetErase ctx stack slot kref => Sys2Proof.Machine.execKeysetErase ctx stack slot kref s
  | .keysetPolicy ctx stack slot kref => Sys2Proof.Machine.execKeysetPolicy ctx stack slot kref s
  | .ctxreachMap ctx vpn npages first ffirst fpool crn flags => Sys2Proof.Machine.execCtxreachMap ctx vpn npages first ffirst fpool crn flags s
  | .ctxreachUnmap ctx vpn npages => Sys2Proof.Machine.execCtxreachUnmap ctx vpn npages s
  | .ctxreachRole ctx crn role => Sys2Proof.Machine.execCtxreachRole ctx crn role s
  | .ctxreachFarpool ctx fpool fpages fep fbase => Sys2Proof.Machine.execCtxreachFarpool ctx fpool fpages fep fbase s
  | .seqgenToken => Sys2Proof.Machine.execSeqgenToken s
  | .ctlPermit => Sys2Proof.Machine.execCtlPermit s
  | .ctlDone => Sys2Proof.Machine.execCtlDone s
  | .ownerApply => Sys2Proof.Machine.execOwnerApply s
  | .spOwnUpdate => Sys2Proof.Machine.execSpOwnUpdate s
  | .spQRequest => Sys2Proof.Machine.execSpQRequest s
  | .translationFill => Sys2Proof.Machine.execTranslationFill s
  | .invalidationComplete => Sys2Proof.Machine.execInvalidationComplete s
  | .blockEngineServe => Sys2Proof.Machine.execBlockEngineServe s
  | .tableRestore => Sys2Proof.Machine.execTableRestore s
  | .mxMma => Sys2Proof.Machine.execMxMma s
  | .mxMmaAcc => Sys2Proof.Machine.execMxMmaAcc s
  | .mxLoadw => Sys2Proof.Machine.execMxLoadw s
  | .mxSwapw => Sys2Proof.Machine.execMxSwapw s
  | .mxDrain => Sys2Proof.Machine.execMxDrain s
  | .mxZero => Sys2Proof.Machine.execMxZero s
  | .mxMarker => Sys2Proof.Machine.execMxMarker s
  | .pjInToken => Sys2Proof.Machine.execPjInToken s
  | .pjAdjToken => Sys2Proof.Machine.execPjAdjToken s
  | .pjProject => Sys2Proof.Machine.execPjProject s
  | .pjAdjoint => Sys2Proof.Machine.execPjAdjoint s
  | .pjMarker => Sys2Proof.Machine.execPjMarker s
  | .tokenDeliver => Sys2Proof.Machine.execTokenDeliver s
  | .channelDecode => Sys2Proof.Machine.execChannelDecode s
  | .scaleToken => Sys2Proof.Machine.execScaleToken s
  | .cissueVerdict => Sys2Proof.Machine.execCissueVerdict s
  | .tkqTake => Sys2Proof.Machine.execTkqTake s
  | .fifoTake => Sys2Proof.Machine.execFifoTake s
  | .eventEnqueue => Sys2Proof.Machine.execEventEnqueue s
  | .commandStart => Sys2Proof.Machine.execCommandStart s
  | .commandRetire => Sys2Proof.Machine.execCommandRetire s
  | .kvrideAdmit => Sys2Proof.Machine.execKvrideAdmit s
  | .updTokenTake => Sys2Proof.Machine.execUpdTokenTake s
  | .addressGenerate => Sys2Proof.Machine.execAddressGenerate s
  | .rideReserve => Sys2Proof.Machine.execRideReserve s
  | .rideCommit => Sys2Proof.Machine.execRideCommit s
  | .riderBoard => Sys2Proof.Machine.execRiderBoard s
  | .segmentVisit => Sys2Proof.Machine.execSegmentVisit s
  | .gatherRequest => Sys2Proof.Machine.execGatherRequest s
  | .postingAccept => Sys2Proof.Machine.execPostingAccept s
  | .eddyDivert => Sys2Proof.Machine.execEddyDivert s
  | .resumeToken => Sys2Proof.Machine.execResumeToken s
  | .firmwareTierEvent => Sys2Proof.Machine.execFirmwareTierEvent s
  | .roundMark => Sys2Proof.Machine.execRoundMark s
  | .tempoCommit => Sys2Proof.Machine.execTempoCommit s
  | .phaseEnd => Sys2Proof.Machine.execPhaseEnd s
  | .configurationComplete => Sys2Proof.Machine.execConfigurationComplete s
  | .entryDelivery => Sys2Proof.Machine.execEntryDelivery s
  | .jumpDelivery => Sys2Proof.Machine.execJumpDelivery s
  | .kernelRetire => Sys2Proof.Machine.execKernelRetire s
  | .admissionDecision => Sys2Proof.Machine.execAdmissionDecision s
  | .sliceExpiry => Sys2Proof.Machine.execSliceExpiry s
  | .preempt => Sys2Proof.Machine.execPreempt s
  | .trapRecordEnter => Sys2Proof.Machine.execTrapRecordEnter s
  | .reachTableApply => Sys2Proof.Machine.execReachTableApply s
  | .qres => Sys2Proof.Machine.execQres s
  | .qcommit => Sys2Proof.Machine.execQcommit s
  | .registerWrite => Sys2Proof.Machine.execRegisterWrite s
  | .tqactResume => Sys2Proof.Machine.execTqactResume s
  | .tqactNext => Sys2Proof.Machine.execTqactNext s
  | .tqactKill => Sys2Proof.Machine.execTqactKill s
  | .linkReplay => Sys2Proof.Machine.execLinkReplay s
  | .repairBoundary => Sys2Proof.Machine.execRepairBoundary s
  | .linkFenced => Sys2Proof.Machine.execLinkFenced s
  | .bankPark => Sys2Proof.Machine.execBankPark s
  | .bankTest => Sys2Proof.Machine.execBankTest s
  | .bankUnpark => Sys2Proof.Machine.execBankUnpark s
  | .cfgScrub => Sys2Proof.Machine.execCfgScrub s
  | .ptpLock => Sys2Proof.Machine.execPtpLock s
  | .ptpLockLoss => Sys2Proof.Machine.execPtpLockLoss s
  | .featureAccept => Sys2Proof.Machine.execFeatureAccept s
  | .getMeasurements => Sys2Proof.Machine.execGetMeasurements s
  | .keyExchange => Sys2Proof.Machine.execKeyExchange s
  | .firmwareImage => Sys2Proof.Machine.execFirmwareImage s
  | .canaryCommit => Sys2Proof.Machine.execCanaryCommit s
  | .canaryRevert => Sys2Proof.Machine.execCanaryRevert s
  | .lcChange => Sys2Proof.Machine.execLcChange s
  | .reset => Sys2Proof.Machine.execReset s
  | .wipeComplete => Sys2Proof.Machine.execWipeComplete s
  | .thermalTrip => Sys2Proof.Machine.execThermalTrip s
  | .seqIllegalFetch => Sys2Proof.Machine.execSeqIllegalFetch s
  | .networkAcknowledgement => Sys2Proof.Machine.execNetworkAcknowledgement s

end Sys2Proof.Machine
end

