-- ==== Sys2Proof/Machine/Fetch.lean ====
section
/-! DEFINITION. What an agent runs next: the word it stands at and its decoding (01 R11-R35; 14 R312, R314); what passes beside the agents: time, upsets, a phase that is no longer at its end (10 R252, R253); and where a word is placed for a first step from reset. -/

namespace Sys2Proof.Machine

/-- What an agent that is let go on does: an instruction, a packet that is turned away, or nothing. -/
inductive Fetched where
  | run (i : Instr)
  | turnedAway (e : PacketError)
  | nothing
  deriving DecidableEq, Repr

/-- The next instruction of an agent: a sequencer's word, a slot's node word, a started command, the packet at the head of a queue. An illegal word of a sequencer is the SEQ_ILLEGAL_FETCH of R35; a `nop` slot does nothing. -/
def fetchOf (s : State) : Agent → Fetched
  | .seq k =>
      if 65536 ≤ (s.seq k).pc.toNat then .run .seqIllegalFetch
      else match decodeSeq (seqWord s k) with
        | .ok i => .run i
        | .error _ => .run .seqIllegalFetch
  | .slot k n | .pipe k n =>
      (match decodeNode (s.slot k n).word with
       | .ok i => .run i
       | .error _ => .nothing)
  | .cmd id =>
      (match decodeCmd (s.cmd id).word with
       | .ok i => .run i
       | .error _ => .nothing)
  | .queue q =>
      (match headPacket s q with
       | none => .nothing
       | some p => match decodePacket p with
         | .ok i => .run i
         | .error e => .turnedAway e)
  | _ => .nothing

/-- A packet that the decoder turns away completes without effect; a LAUNCH has never started (R312, R315). DESIGN CHOICE (log 147): it is turned away whether or not its queue accepts its TYPE. -/
def turnAway (s : State) (q : Nat) (e : PacketError) : State :=
  match headPacket s q with
  | none => s
  | some p =>
      let y := takePacket s q p
      let st := match e with
        | .badType => Status.badType
        | .badReq => Status.badReq
      if pk p 0 1 == 1 then completePacket y.2 q y.1.ticket { status := st } else refuse y.2 q y.1 st

/-- A packet that is turned away at the queue in focus. -/
def turnAwayFocus (s : State) (e : PacketError) : State :=
  match s.focus with
  | .queue q => turnAway s q e
  | _ => s

/-- Device time moves on: slices run down, a canary is watched, and replays that are outstanding retire (R330, R371, R375, R382). -/
def clockPass (s : State) (ns : Nat) : State :=
  let s1 := canaryWatch (passTime s ns)
  if ns == 0 then s1 else { s1 with links := s1.links.mapV (fun _ x => replayRetires x) }

/-- A region at which the condition of R252 no longer holds may have a further phase end (R253). -/
def settleQuiet (s : State) : State :=
  { s with regions := s.regions.mapV (fun r x => if (x.quiet || x.due) && !regionQuiet s r then { x with quiet := false, due := false } else x) }

/-! ### Placing a word for a first step -/

/-- The tile of the first region on which a word is placed, by kind: the tiles of quad (1, 0) of F0. -/
def firstTile : Kind → TileKey
  | .pt => 4 | .mx => 5 | .vx => 7 | .sp => 69 | .ct => 134

/-- The kind of tile on which an opcode is legal (R37). -/
def firstKind (opc : BitVec 8) : Kind :=
  if opcLegal .vx opc then .vx else if opcLegal .sp opc then .sp else if opcLegal .pt opc then .pt else if opcLegal .mx opc then .mx else .ct

/-- A running launch of one quad, its kernel, its region with a block, loaded from outside: launch 1 of context 1 on quad (1, 0) of F0. -/
def placeLaunch (s : State) : State :=
  let r := regionId 1 0
  let l : Launch := { packet := 0, queue := 0, ticket := 0, stamp := 0, ctx := 1, handle := 1, places := [(0, 1, 0)], regions := [r] }
  let k : Kernel := { ctx := 1, regions := [{ w := 1, h := 1, seq := some 130 }], blocks := [(0, { region := 0, images := [] })] }
  { s with launches := s.launches.put 1 l, kernels := s.kernels.put 1 k
           regions := s.regions.put r { launch := 1, index := 0, die := 0, qx := 1, qy := 0, w := 1, h := 1, block := some 0 } }

/-- A sequencer word at address 0 of the sequencer RAM of the placed launch, whose sequencer stands there. -/
def placeSeqWord (s : State) (w : BitVec 32) : State :=
  let k := firstTile .ct
  let s1 := placeLaunch s
  { s1 with seqs := s1.seqs.put k { region := regionId 1 0, running := true }
            tiles := s1.tiles.put k { kind := .ct, region := some (regionId 1 0), rel := 130 }
            ram := Mem.store s1.ram (k * 65536) 4 w, ramEcc := s1.ramEcc.filter (fun a => a != k * 65536)
            agenda := .issue (.seq k) :: s1.agenda }

/-- A node word in slot 0 of a tile of the placed launch, with a token of zeros in each latch it uses. -/
def placeNodeWord (s : State) (w : Word64) : State :=
  let kind := firstKind (Word.field w 56 8)
  let k := firstTile kind
  let s1 := placeLaunch s
  let tok := fun (p : Pos) => if wordEnables w p then some ({} : Tok) else none
  { s1 with tiles := s1.tiles.put k { kind := kind, region := some (regionId 1 0), rel := k % 2048 - 4
                                      slots := [(0, { word := w, left := tok .left, right := tok .right, pred := tok .pred })] }
            agenda := .issue (.slot k 0) :: s1.agenda }

/-- A command word that has started at its port or engine, for the placed launch. -/
def placeCmdWord (s : State) (w : Word128) : State :=
  let id := s.nextCmd + 1
  let s1 := placeLaunch s
  { s1 with cmds := s1.cmds.put id { word := w, station := stationOf w, origin := .seq (firstTile .ct) 0, launch := 1, ctx := 1, region := regionId 1 0, phase := .started }
            nextCmd := id, agenda := .issue (.cmd id) :: s1.agenda }

end Sys2Proof.Machine
end

