-- ==== Sys2Proof/Machine/Step.lean ====
section
/-! DEFINITION. The step: the next action of the agenda, and what withFetchWord places for a first step. -/

namespace Sys2Proof.Machine

/-- Let an agent go on: it runs the instruction at which it stands. -/
def issueAt (a : Agent) (s : State) : Host.Outcome State Fault Refusal :=
  match fetchOf s a with
  | .run i => exec i { s with focus := a }
  | .turnedAway e => .next (turnAwayFocus { s with focus := a } e)
  | .nothing => .next { s with focus := a }

/-- One action of the agenda. An `act` is an event of the machine: an instruction with an encoding runs only where an agent has fetched it. -/
def runMove (m : Move) (s : State) : Host.Outcome State Fault Refusal :=
  match m with
  | .issue a => issueAt a s
  | .act a i => if i.layer == .event then exec i { s with focus := a } else .next { s with focus := a }
  | .clock ns => .next (clockPass s ns)
  | .upset u => .next (strike s u)

/-- Every step ends by noting which launches are no candidates, which regions are no longer at the end of their phase, and who is ready for the memory and owner nodes. -/
def settled : Host.Outcome State Fault Refusal → Host.Outcome State Fault Refusal
  | .next s => .next (settleLines (settleQuiet (settleCands s)))
  | .fault f => .fault f
  | .refused r => .refused r

/-- One step of the machine: the first action of the agenda; with none, nothing happens. -/
def step (s : State) : Host.Outcome State Fault Refusal :=
  match s.agenda with
  | [] => .next s
  | m :: rest => settled (runMove m { s with agenda := rest })

/-- The state with an instruction where the next step fetches it: a sequencer word, a node word, or a command word, by its length. -/
def State.withFetchWord (s : State) (nbits w : Nat) : State :=
  if nbits ≤ 32 then placeSeqWord s (BitVec.ofNat 32 w)
  else if nbits ≤ 64 then placeNodeWord s (BitVec.ofNat 64 w)
  else placeCmdWord s (BitVec.ofNat 128 w)

end Sys2Proof.Machine
end

