-- ==== Sys2Proof/Safety.lean ====
section
/-! DEFINITION. The terms in which claims are made: when an agent may act, what a safe state is, and the invariants of the machine. -/

namespace Sys2Proof.Machine

/-! ### Invariants -/

/-- Every byte memory is in its canonical form. -/
def State.memOk (s : State) : Bool := Mem.wf s.dram && Mem.wf s.scratch && Mem.wf s.ram && Mem.wf s.host && Mem.wf s.far

/-- A canary's image has at least the stored minimum SVN (R382). -/
def State.svnOk (s : State) : Prop := ∀ c, s.dev.canary = some c → s.dev.minSvn.toNat ≤ c.image.svn.toNat

/-- A property that every step which answers a next state keeps. -/
def KeptByStep (P : State → Prop) : Prop := ∀ s t, P s → step s = .next t → P t

/-! ### Tokens -/

/-- Two tokens hold the same header and payload (R41). What the model's own fields of a token say, such as the accesses that happen before it, may differ. -/
def Tok.Like (t u : Tok) : Prop := t.tt = u.tt ∧ t.vc = u.vc ∧ t.seq = u.seq ∧ t.tag = u.tag ∧ t.pay = u.pay

/-- Two waiting requests are the same one, whatever the model's own fields of their tokens say. -/
def Pend.Like (p q : Pend) : Prop :=
  p.tok.Like q.tok ∧ p.no = q.no ∧ p.acc = q.acc ∧ p.count = q.count ∧ p.done.isSome = q.done.isSome ∧ ∀ (x y : Tok), p.done = some x → q.done = some y → x.Like y

/-- Two lists hold the same waiting requests in the same order. -/
def Pend.AllLike (ps qs : List Pend) : Prop := ps.length = qs.length ∧ ∀ (i : Nat) (p q : Pend), ps[i]? = some p → qs[i]? = some q → p.Like q

/-! ### A sequencer that may issue (R187, R188) -/

/-- The sequencer in focus runs, and stands at a word of its RAM that reads without error. -/
def SeqAt (s : State) (k : TileKey) : Prop :=
  s.focus = .seq k ∧ s.seqs.has k = true ∧ seqRuns s k = true ∧ (s.seq k).pc.toNat < 65536 ∧ ramBad s k (s.seq k).pc.toNat 4 = none

/-- The sequencer in focus has the registers of `q` and has moved on to the next word. -/
def seqNext (s : State) (k : TileKey) (q : Seq) : Host.Outcome State Fault Refusal := .next (s.setSeq k { q with pc := q.pc + 4 })

/-- The word traps: the sequencer stops at it with its registers, FIFOs and RAM as they were, CAUSE holds the cause, a record of R361 is offered to the trap queue of its context, and no tile and no region changes. (Causes of class replayable, R359.) -/
def SeqTraps (i : Instr) (s : State) (k : TileKey) (cause : BitVec 8) (detail : BitVec 64) : Prop :=
  ∃ t, exec i s = .next t ∧ t.seq k = { s.seq k with stopped := true, cause := cause.setWidth 64 } ∧ t.tiles = s.tiles ∧ t.regions = s.regions ∧ t.ram = s.ram
    ∧ t.cmds = s.cmds ∧ (t.ctx (s.ctxOf k)).offered = (s.ctx (s.ctxOf k)).offered ++
        [{ bits := trapRecord s (seqSite s k (seqWord s k)) cause detail, agent := .seq k, fatal := false, launch := s.launchOf k }]

/-! ### A command that may act (R157) -/

/-- The command in focus has started and its own step is still to come; nothing has stopped it. -/
def CmdAt (s : State) (id : Nat) : Prop :=
  s.focus = .cmd id ∧ s.cmds.has id = true ∧ (s.cmd id).phase = .started ∧ (s.cmd id).admitted = false ∧ (s.cmd id).stopped = false ∧ cmdLive s (s.cmd id) = true

/-- The unit of a tile of a kind in focus may act. -/
def UnitAt (s : State) (k : TileKey) (kind : Kind) : Prop :=
  s.focus = .tile k ∧ s.tiles.has k = true ∧ (s.tile k).kind = kind ∧ s.tileRuns k = true

/-! ### A node that may fire (R17, R58, R60, R255) -/

/-- The slot in focus may act: it exists, its region runs, no trap has stopped it, and no earlier result waits in it. -/
def SlotAt (s : State) (k : TileKey) (n : Nat) : Prop :=
  s.focus = .slot k n ∧ (s.tile k).slots.has n = true ∧ s.tileRuns k = true ∧ (s.slot k n).stopped = false ∧ (s.slot k n).out = []

/-- The slot in focus may act, its latches make the operands `o` of a firing on data, and both its targets take a token. -/
def NodeAt (s : State) (k : TileKey) (n : Nat) (f : NodeForm) (o : Opnds) : Prop :=
  SlotAt s k n ∧ gateOf f (s.slot k n) = .go o ∧ bothFree s k n f = true

/-- The node fires: it consumes its operands and sends `a` to TGA and `b` to TGB, both with the header of R58. -/
def Fires (i : Instr) (s : State) (k : TileKey) (n : Nat) (o : Opnds) (a b : Payload) : Prop :=
  exec i s = .next (fireTo s k n (formOf i) (some (resultTok o a)) (some (resultTok o b)))

/-- The node fires, and in a VX tile adds 1 to each counter lane listed (R56, R62). -/
def FiresCounting (i : Instr) (s : State) (k : TileKey) (n : Nat) (o : Opnds) (lanes : List Nat) (a b : Payload) : Prop :=
  exec i s = .next (fireTo (if (s.tile k).kind = .vx then countTile s k lanes else s) k n (formOf i) (some (resultTok o a)) (some (resultTok o b)))

/-- Each element of width `w` of a result is `f` of its index; in a disabled lane it is the left operand's (R59). -/
def Elementwise (op : NodeOp) (o : Opnds) (w : Nat) (f : Nat → Nat) (a : Payload) : Prop :=
  ∀ j, j < 512 / w → elemAt w a j = if laneOn op o.p.pay (j * w / 32) then f j else elemAt w o.l.pay j

/-- Each lane of a result is `f` of its index; a disabled lane is the left operand's (R59). -/
def Lanewise (op : NodeOp) (o : Opnds) (f : Nat → Lane) (a : Payload) : Prop :=
  ∀ i, i < 16 → Word.lane a i = if laneOn op o.p.pay i then f i else Word.lane o.l.pay i

/-- A payload is a mask: bit `i` of [15:0] is `f i`, the rest are zero (R43). -/
def IsMask (f : Nat → Bool) (a : Payload) : Prop := ∀ b, b < 512 → a.getLsbD b = (decide (b < 16) && f b)

end Sys2Proof.Machine
end

