-- ==== Sys2Proof/Certificates/Slice0/Obligations.lean ====
section
/-! DEFINITION. The statements for the provers. -/

open Sys2Proof Sys2Proof.Machine

/-! ### The sequencer -/

/-- R189: FN selects the operation of an R-form word with OP 0x01, and 16 or more is refused; each ALU word puts its result into D, as a function of a = s[A] and b = s[B], and the sequencer goes on to the next word. -/
def Obligations.SeqAluResult : Prop :=
  (∀ (d a b : BitVec 5) (fn : BitVec 11),
    let ops := [Instr.seqAdd d a b, .seqSub d a b, .seqAnd d a b, .seqOr d a b, .seqXor d a b, .seqShl d a b, .seqShr d a b, .seqSra d a b, .seqMul d a b,
      .seqMulh d a b, .seqSlt d a b, .seqSltu d a b, .seqMin d a b, .seqMax d a b, .seqDiv d a b, .seqRem d a b]
    (∀ i, ops[fn.toNat]? = some i → decodeSeq ((0x01 : BitVec 6) ++ d ++ a ++ b ++ fn) = .ok i)
    ∧ (16 ≤ fn.toNat → ∃ e, decodeSeq ((0x01 : BitVec 6) ++ d ++ a ++ b ++ fn) = .error e))
  ∧ ∀ (s : State) (k : TileKey) (d a b : BitVec 5), SeqAt s k →
    let q := s.seq k
    let x := q.reg a
    let y := q.reg b
    let put := fun (v : BitVec 64) => seqNext s k (q.put d v)
    exec (.seqAdd d a b) s = put (x + y)
    ∧ exec (.seqSub d a b) s = put (x - y)
    ∧ exec (.seqAnd d a b) s = put (x &&& y)
    ∧ exec (.seqOr d a b) s = put (x ||| y)
    ∧ exec (.seqXor d a b) s = put (x ^^^ y)
    ∧ exec (.seqShl d a b) s = put (if y.toNat < 64 then x <<< y.toNat else 0)
    ∧ exec (.seqShr d a b) s = put (if y.toNat < 64 then x >>> y.toNat else 0)
    ∧ exec (.seqSra d a b) s = put (if y.toNat < 64 then x.sshiftRight y.toNat else if x.msb then BitVec.allOnes 64 else 0)
    ∧ exec (.seqMul d a b) s = put (BitVec.ofInt 64 (x.toInt * y.toInt))
    ∧ exec (.seqMulh d a b) s = put (BitVec.ofInt 64 (x.toInt * y.toInt / 2 ^ 64))
    ∧ exec (.seqSlt d a b) s = put (if x.toInt < y.toInt then 1 else 0)
    ∧ exec (.seqSltu d a b) s = put (if x.toNat < y.toNat then 1 else 0)
    ∧ exec (.seqMin d a b) s = put (if y.toInt < x.toInt then y else x)
    ∧ exec (.seqMax d a b) s = put (if x.toInt < y.toInt then y else x)
    ∧ exec (.seqDiv d a b) s = put (if y = 0 then 0 else BitVec.ofInt 64 (x.toInt.tdiv y.toInt))
    ∧ exec (.seqRem d a b) s = put (if y = 0 then x else BitVec.ofInt 64 (x.toInt - x.toInt.tdiv y.toInt * y.toInt))

/-- R190: the OP of each immediate word, with the bits that must be zero; each puts its result into D. `insh` works on s[D]. -/
def Obligations.SeqImmediateResult : Prop :=
  (∀ (d a : BitVec 5) (imm : BitVec 16) (sh : BitVec 6),
    let word := fun (op : BitVec 6) => decodeSeq (op ++ d ++ a ++ imm)
    let shift := fun (op : BitVec 6) => decodeSeq (op ++ d ++ a ++ (0 : BitVec 10) ++ sh)
    word 0x02 = .ok (.seqAddi d a imm) ∧ word 0x03 = .ok (.seqAndi d a imm) ∧ word 0x04 = .ok (.seqOri d a imm) ∧ word 0x05 = .ok (.seqXori d a imm)
    ∧ word 0x09 = .ok (.seqSlti d a imm)
    ∧ shift 0x06 = .ok (.seqShli d a sh) ∧ shift 0x07 = .ok (.seqShri d a sh) ∧ shift 0x08 = .ok (.seqSrai d a sh)
    ∧ (64 ≤ imm.toNat → (∃ e, word 0x06 = .error e) ∧ (∃ e, word 0x07 = .error e) ∧ ∃ e, word 0x08 = .error e)
    ∧ (a = 0 → word 0x0A = .ok (.seqInsh d imm)) ∧ (a ≠ 0 → ∃ e, word 0x0A = .error e))
  ∧ ∀ (s : State) (k : TileKey) (d a : BitVec 5) (imm : BitVec 16) (sh : BitVec 6), SeqAt s k →
    let q := s.seq k
    let x := q.reg a
    let put := fun (v : BitVec 64) => seqNext s k (q.put d v)
    exec (.seqAddi d a imm) s = put (x + imm.signExtend 64)
    ∧ exec (.seqAndi d a imm) s = put (x &&& imm.setWidth 64)
    ∧ exec (.seqOri d a imm) s = put (x ||| imm.setWidth 64)
    ∧ exec (.seqXori d a imm) s = put (x ^^^ imm.setWidth 64)
    ∧ exec (.seqShli d a sh) s = put (x <<< sh.toNat)
    ∧ exec (.seqShri d a sh) s = put (x >>> sh.toNat)
    ∧ exec (.seqSrai d a sh) s = put (x.sshiftRight sh.toNat)
    ∧ exec (.seqSlti d a imm) s = put (if x.toInt < imm.toInt then 1 else 0)
    ∧ exec (.seqInsh d imm) s = put ((q.reg d <<< 16) ||| imm.setWidth 64)

/-- R191: the OPs of `ld`, `st`, `ldw` and `stw`. `ld`, `ldw`, `st` and `stw` move 8 or 4 bytes, little-endian, at s[A] + sext(IMM16); an address that is misaligned or at or beyond 65,536 traps SEQ_ADDR, and no byte of RAM and no register changes. (A word of RAM with an uncorrectable error is another rule's: R378.) -/
def Obligations.SeqMemory : Prop :=
  (∀ (d a : BitVec 5) (imm : BitVec 16), decodeSeq ((0x0B : BitVec 6) ++ d ++ a ++ imm) = .ok (.seqLd d a imm) ∧ decodeSeq ((0x0C : BitVec 6) ++ d ++ a ++ imm) = .ok (.seqSt d a imm)
    ∧ decodeSeq ((0x0D : BitVec 6) ++ d ++ a ++ imm) = .ok (.seqLdw d a imm) ∧ decodeSeq ((0x0E : BitVec 6) ++ d ++ a ++ imm) = .ok (.seqStw d a imm))
  ∧ ∀ (s : State) (k : TileKey) (d a : BitVec 5) (imm : BitVec 16), SeqAt s k →
    let q := s.seq k
    let x := (q.reg a + imm.signExtend 64).toNat
    (x % 8 = 0 → x < 65536 → ramBad s k x 8 = none → exec (.seqLd d a imm) s = seqNext s k (q.put d (Word.ofBytes 64 (Mem.readN s.ram (k * 65536 + x) 8))))
    ∧ (x % 4 = 0 → x < 65536 → ramBad s k x 4 = none →
        exec (.seqLdw d a imm) s = seqNext s k (q.put d ((Word.ofBytes 32 (Mem.readN s.ram (k * 65536 + x) 4) : BitVec 32).setWidth 64)))
    ∧ (x % 8 = 0 → x < 65536 → ∃ t, exec (.seqSt d a imm) s = .next t ∧ t.seq k = { q with pc := q.pc + 4 }
        ∧ t.ram = Mem.writeN s.ram (k * 65536 + x) (Word.toBytes 8 (q.reg d)))
    ∧ (x % 4 = 0 → x < 65536 → ∃ t, exec (.seqStw d a imm) s = .next t ∧ t.seq k = { q with pc := q.pc + 4 }
        ∧ t.ram = Mem.writeN s.ram (k * 65536 + x) (Word.toBytes 4 ((q.reg d).setWidth 32)))
    ∧ (∀ i n, ((i, n) = (Instr.seqLd d a imm, 8) ∨ (i, n) = (Instr.seqSt d a imm, 8) ∨ (i, n) = (Instr.seqLdw d a imm, 4) ∨ (i, n) = (Instr.seqStw d a imm, 4)) →
        x % n ≠ 0 ∨ 65536 ≤ x →
        ∃ t, exec i s = .next t ∧ t.ram = s.ram ∧ (t.seq k).s = q.s ∧ (t.seq k).pc = q.pc ∧ (t.seq k).stopped = true ∧ (t.seq k).cause = 0x21)

/-- R192: the OPs of the branches and jumps. A branch whose condition holds, `j`, `jal` and `jr` set PC to their target, which `jal` does after s31 has taken the address of the next word; a branch that does not hold goes on to the next word. A target that is not a multiple of 4 or lies at or beyond 65,536 traps SEQ_ILLEGAL at the branching word. -/
def Obligations.SeqControlFlow : Prop :=
  (∀ (d a b : BitVec 5) (imm : BitVec 16) (off : BitVec 26) (fn : BitVec 11),
    let word := fun (op : BitVec 6) => decodeSeq (op ++ d ++ a ++ imm)
    word 0x10 = .ok (.seqBeq d a imm) ∧ word 0x11 = .ok (.seqBne d a imm) ∧ word 0x12 = .ok (.seqBlt d a imm) ∧ word 0x13 = .ok (.seqBge d a imm)
    ∧ word 0x14 = .ok (.seqBltu d a imm) ∧ word 0x15 = .ok (.seqBgeu d a imm)
    ∧ decodeSeq ((0x16 : BitVec 6) ++ off) = .ok (.seqJ off) ∧ decodeSeq ((0x17 : BitVec 6) ++ off) = .ok (.seqJal off)
    ∧ (d = 0 ∧ b = 0 ∧ fn = 0 → decodeSeq ((0x18 : BitVec 6) ++ d ++ a ++ b ++ fn) = .ok (.seqJr a))
    ∧ (¬(d = 0 ∧ b = 0 ∧ fn = 0) → ∃ e, decodeSeq ((0x18 : BitVec 6) ++ d ++ a ++ b ++ fn) = .error e))
  ∧ ∀ (s : State) (k : TileKey) (d a : BitVec 5) (imm : BitVec 16) (off : BitVec 26), SeqAt s k →
    let q := s.seq k
    let x := q.reg d
    let y := q.reg a
    let goes := fun (o : Host.Outcome State Fault Refusal) (r : Seq) (target : Int) =>
      (0 ≤ target ∧ target < 65536 ∧ target % 4 = 0 → o = .next (s.setSeq k { r with pc := BitVec.ofInt 32 target }))
      ∧ (¬(0 ≤ target ∧ target < 65536 ∧ target % 4 = 0) →
          ∃ t, o = .next t ∧ (t.seq k).stopped = true ∧ (t.seq k).cause = 0x20 ∧ (t.seq k).pc = q.pc ∧ (t.seq k).s = q.s)
    let branch := fun (o : Host.Outcome State Fault Refusal) (c : Prop) =>
      (c → goes o q (q.pc.toNat + 4 * imm.toInt)) ∧ (¬c → o = seqNext s k q)
    branch (exec (.seqBeq d a imm) s) (x = y)
    ∧ branch (exec (.seqBne d a imm) s) (x ≠ y)
    ∧ branch (exec (.seqBlt d a imm) s) (x.toInt < y.toInt)
    ∧ branch (exec (.seqBge d a imm) s) (y.toInt ≤ x.toInt)
    ∧ branch (exec (.seqBltu d a imm) s) (x.toNat < y.toNat)
    ∧ branch (exec (.seqBgeu d a imm) s) (y.toNat ≤ x.toNat)
    ∧ (q.pc.toNat % 4 = 0 → goes (exec (.seqJ off) s) q (q.pc.toNat + 4 * off.toInt))
    ∧ (q.pc.toNat % 4 = 0 → goes (exec (.seqJal off) s) (q.put 31 ((q.pc + 4).setWidth 64)) (q.pc.toNat + 4 * off.toInt))
    ∧ goes (exec (.seqJr a) s) q y.toNat

/-- R193: `sget` of a register of the table puts its contents into D; of any other number it traps SEQ_ILLEGAL. `sset` clears CAUSE by 0 and sets EVMASK to 0 or 1; any other write traps SEQ_ILLEGAL. R300, R305: TEMPO is the least of the rounds that the elements of the region have closed, and 0 where it has none: of a PT one less than its current round, of a matrix unit the markers that have reached `mx.c`, of an owner node the rounds it has committed. (That a matrix unit or owner node without a producer does not count among these elements is the model's choice, log 52.) -/
def Obligations.SeqSpecialRegisters : Prop :=
  ∀ (s : State) (k : TileKey) (d a : BitVec 5) (n : BitVec 16), SeqAt s k →
    let q := s.seq k
    let l := s.launch (s.region q.region).launch
    let feats := s.dev.feats.getD 0
    let put := fun (v : BitVec 64) => seqNext s k (q.put d v)
    let closes := fun (x : Nat) => ∃ i t, (i, t) ∈ s.tiles ∧ t.region = some q.region
      ∧ ((t.kind = .pt ∧ x = (s.port i).cr - 1) ∨ (t.kind = .mx ∧ 0x02 ∈ portsFed t ∧ x = t.mx.rounds)
        ∨ (t.kind = .sp ∧ ((∃ n y, (n, y) ∈ t.slots ∧ y.word.extractLsb' 56 8 = 0xA2) ∨ 0x21 ∈ portsFed t) ∧ x = t.own.closed))
    (∀ x, closes x → (∀ y, closes y → x ≤ y) → exec (.seqSget d 7) s = put (BitVec.ofNat 64 x))
    ∧ ((∀ x, ¬closes x) → exec (.seqSget d 7) s = put 0)
    ∧ exec (.seqSget d 0) s = put (if (pk l.packet 0x13 1 : BitVec 8) = 0 then 0 else pk l.packet 0x40 8)
    ∧ exec (.seqSget d 1) s = put s.dev.dtime
    ∧ exec (.seqSget d 2) s = put (BitVec.ofNat 64 l.ctx)
    ∧ exec (.seqSget d 3) s = put (feats.extractLsb' 0 64)
    ∧ exec (.seqSget d 4) s = put (feats.extractLsb' 64 64)
    ∧ exec (.seqSget d 5) s = put q.cause
    ∧ exec (.seqSget d 6) s = put (BitVec.ofNat 64 (s.ctx l.ctx).left)
    ∧ exec (.seqSget d 7) s = put (BitVec.ofNat 64 (tempoReg s q.region))
    ∧ exec (.seqSget d 8) s = put ((s.region q.region).phase.setWidth 64)
    ∧ exec (.seqSget d 9) s = put q.evmask
    ∧ (∀ i : Nat, i < 8 → exec (.seqSget d (BitVec.ofNat 16 (16 + i))) s = put ((pk l.packet (0x60 + 4 * i) 4).setWidth 64))
    ∧ (q.reg a = 0 → exec (.seqSset a 5) s = seqNext s k { q with cause := 0 })
    ∧ (q.reg a = 0 ∨ q.reg a = 1 → exec (.seqSset a 9) s = seqNext s k { q with evmask := q.reg a })
    ∧ ((9 < n.toNat ∧ n.toNat < 16) ∨ 23 < n.toNat → ∃ t, exec (.seqSget d n) s = .next t ∧ (t.seq k).stopped = true ∧ (t.seq k).cause = 0x20 ∧ (t.seq k).s = q.s)
    ∧ (¬(n = 5 ∧ q.reg a = 0) → ¬(n = 9 ∧ (q.reg a = 0 ∨ q.reg a = 1)) →
        ∃ t, exec (.seqSset a n) s = .next t ∧ (t.seq k).stopped = true ∧ (t.seq k).cause = 0x20 ∧ (t.seq k).evmask = q.evmask)

/-- R194: `cset`, `cget` and `cclr` act on the field [POS + WM1 : POS] of a command register, bit by bit; `cset.chk` of a value that the field cannot hold traps SEQ_RANGE and writes nothing. -/
def Obligations.SeqCommandFields : Prop :=
  ∀ (s : State) (k : TileKey) (c : BitVec 3) (pos : BitVec 7) (wm1 : BitVec 6) (a : BitVec 5) (flag : Bool), SeqAt s k →
    let q := s.seq k
    let x := q.reg a
    let inside := fun (i : Nat) => pos.toNat ≤ i ∧ i ≤ pos.toNat + wm1.toNat
    ((flag = false ∨ x.toNat < 2 ^ (wm1.toNat + 1)) →
      ∃ t, exec (.seqCset c pos wm1 a flag) s = .next t ∧ (t.seq k).pc = q.pc + 4 ∧ (t.seq k).s = q.s
        ∧ ∀ i : Nat, i < 128 → ((t.seq k).creg c).getLsbD i = if inside i then x.getLsbD (i - pos.toNat) else (q.creg c).getLsbD i)
    ∧ (flag = true → 2 ^ (wm1.toNat + 1) ≤ x.toNat →
      ∃ t, exec (.seqCset c pos wm1 a flag) s = .next t ∧ (t.seq k).c = q.c ∧ (t.seq k).pc = q.pc ∧ (t.seq k).stopped = true ∧ (t.seq k).cause = 0x22)
    ∧ (∃ t, exec (.seqCget c pos wm1 a flag) s = .next t ∧ (t.seq k).pc = q.pc + 4 ∧ (t.seq k).c = q.c
        ∧ (a ≠ 0 → ∀ i : Nat, i < 64 → ((t.seq k).reg a).getLsbD i =
            if i ≤ wm1.toNat then (q.creg c).getLsbD (pos.toNat + i) else flag && (q.creg c).getLsbD (pos.toNat + wm1.toNat)))
    ∧ (∃ t, exec (.seqCclr c pos wm1) s = .next t ∧ (t.seq k).pc = q.pc + 4 ∧ (t.seq k).s = q.s
        ∧ ∀ i : Nat, i < 128 → ((t.seq k).creg c).getLsbD i = if inside i then false else (q.creg c).getLsbD i)
    ∧ (∃ t, exec (.seqCclrAll c) s = .next t ∧ (t.seq k).pc = q.pc + 4 ∧ (t.seq k).s = q.s ∧ (t.seq k).creg c = 0)

/-! ### Arithmetic nodes -/

/-- R64, R65: each arithmetic instruction computes every element exactly from the elements read in its type, and reduces the result to the element width: clamped with SAT, else mod 2^w. -/
def Obligations.NodeIntegerElements : Prop :=
  ∀ (s : State) (k : TileKey) (n : Nat) (w : NodeOp) (o : Opnds) (imm : BitVec 16),
    let width := Ty.width w.ty
    let int := fun (p : Payload) (j : Nat) => readInt width (Ty.unsigned w.ty) (elemAt width p j)
    let computes := fun (i : Instr) (f : Int → Int → Int → Int) =>
      NodeAt s k n (formOf i) o → ∃ a, Fires i s k n o a a
        ∧ Elementwise w o width (fun j => reduceInt width (Ty.unsigned w.ty) w.sat (f (int o.l.pay j) (int o.r.pay j) (int o.p.pay j))) a
    computes (.add w) (fun l r _ => l + r)
    ∧ computes (.sub w) (fun l r _ => l - r)
    ∧ computes (.mul w) (fun l r _ => l * r)
    ∧ computes (.mulh w) (fun l r _ => l * r / 2 ^ 32)
    ∧ computes (.madd w) (fun l r p => l * r + p)
    ∧ computes (.div w) (fun l r _ =>
        if r = 0 then (if w.sat then (if 0 < l then (if w.ty = .u32 then 2 ^ 32 - 1 else 2 ^ 31 - 1) else if l < 0 then (if w.ty = .u32 then 0 else -2 ^ 31) else 0) else 0)
        else l.tdiv r)
    ∧ computes (.rem w) (fun l r _ => if r = 0 then l else l - l.tdiv r * r)
    ∧ computes (.neg w) (fun l _ _ => -l)
    ∧ computes (.abs w) (fun l _ _ => if l < 0 then -l else l)
    ∧ computes (.min w) (fun l r _ => if l ≤ r then l else r)
    ∧ computes (.max w) (fun l r _ => if l ≤ r then r else l)
    ∧ computes (.addi w imm) (fun l _ _ => l + (if w.ty = .u32 then (imm.toNat : Int) else imm.toInt))

/-- R66: `icmp` writes a mask of the lanes that satisfy COND; the logical instructions work on lanes, and typed PRED on mask bits [15:0]. R67, R68: the shift, count and bit-field instructions, lane by lane. -/
def Obligations.NodeLogicAndShifts : Prop :=
  (
  ∀ (s : State) (k : TileKey) (n : Nat) (w : NodeOp) (o : Opnds) (cond : BitVec 3),
    let int := fun (p : Payload) (j : Nat) => readInt 32 (Ty.unsigned w.ty) (Word.lane p j).toNat
    let logic := fun (i : Instr) (f : Lane → Lane → Lane) (g : Bool → Bool → Bool) =>
      NodeAt s k n (formOf i) o → ∃ a, Fires i s k n o a a
        ∧ (w.ty ≠ .pred → Lanewise w o (fun j => f (Word.lane o.l.pay j) (Word.lane o.r.pay j)) a)
        ∧ (w.ty = .pred → IsMask (fun j => if laneOn w o.p.pay j then g (o.l.pay.getLsbD j) (o.r.pay.getLsbD j) else o.l.pay.getLsbD j) a)
    (cond < 6 → NodeAt s k n (formOf (.icmp w cond)) o → ∃ a, Fires (.icmp w cond) s k n o a a
      ∧ IsMask (fun j =>
          (cond = 0 ∧ int o.l.pay j = int o.r.pay j) ∨ (cond = 1 ∧ int o.l.pay j ≠ int o.r.pay j) ∨ (cond = 2 ∧ int o.l.pay j < int o.r.pay j)
          ∨ (cond = 3 ∧ int o.l.pay j ≤ int o.r.pay j) ∨ (cond = 4 ∧ int o.r.pay j < int o.l.pay j) ∨ (cond = 5 ∧ int o.r.pay j ≤ int o.l.pay j)) a)
    ∧ logic (.and w) (fun l r => l &&& r) (fun l r => l && r)
    ∧ logic (.or w) (fun l r => l ||| r) (fun l r => l || r)
    ∧ logic (.xor w) (fun l r => l ^^^ r) (fun l r => l ^^ r)
    ∧ logic (.not w) (fun l _ => ~~~l) (fun l _ => !l)
    ∧ logic (.andn w) (fun l r => l &&& ~~~r) (fun l r => l && !r))
  ∧ (
  ∀ (s : State) (k : TileKey) (n : Nat) (w : NodeOp) (o : Opnds) (sgn : Bool) (wm1 pos : BitVec 5), pos.toNat + wm1.toNat ≤ 31 →
    let lanes := fun (i : Instr) (f : Lane → Lane → Lane → Prop) =>
      NodeAt s k n (formOf i) o → ∃ a, Fires i s k n o a a
        ∧ ∀ j, j < 16 → if laneOn w o.p.pay j then f (Word.lane o.l.pay j) (Word.lane o.r.pay j) (Word.lane a j) else Word.lane a j = Word.lane o.l.pay j
    lanes (.shl w) (fun l r x => x = if r.toNat < 32 then l <<< r.toNat else 0)
    ∧ lanes (.shr w) (fun l r x => x = if r.toNat < 32 then l >>> r.toNat else 0)
    ∧ lanes (.sra w) (fun l r x => x = if r.toNat < 32 then l.sshiftRight r.toNat else if l.toInt < 0 then 0xFFFFFFFF else 0)
    ∧ lanes (.rotl w) (fun l r x => x = l.rotateLeft (r.toNat % 32))
    ∧ lanes (.clz w) (fun l _ x => (l = 0 ∧ x = 32) ∨ (x.toNat < 32 ∧ l.getLsbD (31 - x.toNat) = true ∧ ∀ b, 31 - x.toNat < b → l.getLsbD b = false))
    ∧ lanes (.popc w) (fun l _ x => x.toNat = ((List.range 32).filter (fun b => l.getLsbD b)).length)
    ∧ lanes (.bfx w sgn wm1 pos) (fun l _ x => ∀ b, b < 32 → x.getLsbD b =
        if b ≤ wm1.toNat then l.getLsbD (pos.toNat + b) else sgn && l.getLsbD (pos.toNat + wm1.toNat))
    ∧ lanes (.bfi w wm1 pos) (fun l r x => ∀ b, b < 32 → x.getLsbD b =
        if pos.toNat ≤ b ∧ b ≤ pos.toNat + wm1.toNat then r.getLsbD (b - pos.toNat) else l.getLsbD b))

/-- R71, R72, R75 to R77: each F32 or BF16x2 instruction applies its operation to every element, and in a VX tile adds what it counts for the enabled ones to lanes 7 to 10. R44, R71: the operations that round (sum, product, fused product and sum of finite operands) form the exact result and round it once: with c the largest pattern whose magnitude is at most the exact one, they deliver c where it is exact and else c or the pattern after it as the mode says; beyond the format, what R44 gives for the mode. (Magnitudes are natural numbers in units of 2^-K. That a magnitude above the largest finite one by less than half an ulp rounds to it in RN and RNA is the model's choice: log 103.) R75 to R77: the special operands of `fdiv`, `fsqrt`, `frcp`, `frsqrt`, `exp2f`, `log2f` and `ldx`, the signs of their zeros and infinities, what each counts, and the exact cases. -/
def Obligations.NodeFloatElements : Prop :=
  (∀ (fmt : Fp.Fmt) (mode : RMode) (neg : Bool) (m : Nat) (e : Int) (K c : Nat), fmt = Fp.f32 ∨ fmt = Fp.bf16 → m ≠ 0 → 0 ≤ e + K → 0 ≤ fmt.emin + K →
    let v := m * 2 ^ (e + K).toNat
    let mag := fun (p : Nat) => (p % 2 ^ fmt.frac + (if p < 2 ^ fmt.frac then 0 else 2 ^ fmt.frac)) * 2 ^ ((fmt.emin + K).toNat + (max (p / 2 ^ fmt.frac) 1 - 1))
    let up := match mode with
      | .rn => mag c + mag (c + 1) < 2 * v ∨ (mag c + mag (c + 1) = 2 * v ∧ c % 2 = 1)
      | .rna => mag c + mag (c + 1) ≤ 2 * v
      | .rz => False
      | .ru => neg = false
      | .rd => neg = true
    (c < fmt.infBits → mag c ≤ v → v < mag (c + 1) →
      (v = mag c → (Fp.round fmt mode neg m e).bits = fmt.signed neg c)
      ∧ (v ≠ mag c → up → (Fp.round fmt mode neg m e).bits = fmt.signed neg (c + 1))
      ∧ (v ≠ mag c → ¬up → (Fp.round fmt mode neg m e).bits = fmt.signed neg c))
    ∧ (mag fmt.infBits ≤ v →
        (mode = .rn ∨ mode = .rna ∨ (mode = .ru ∧ neg = false) ∨ (mode = .rd ∧ neg = true) → (Fp.round fmt mode neg m e).bits = fmt.signed neg fmt.infBits)
        ∧ (mode = .rz ∨ (mode = .ru ∧ neg = true) ∨ (mode = .rd ∧ neg = false) → (Fp.round fmt mode neg m e).bits = fmt.signed neg fmt.maxBits)))
  ∧ (∀ (fmt : Fp.Fmt) (mode : RMode) (l r p m1 m2 m3 K : Nat) (n1 n2 n3 np na : Bool) (e1 e2 e3 : Int),
    fmt.read l = .fin n1 m1 e1 → fmt.read r = .fin n2 m2 e2 → fmt.read p = .fin n3 m3 e3 → 0 ≤ e1 + K → 0 ≤ e2 + K → 0 ≤ e3 + K →
    let val := fun (n : Bool) (m : Nat) (e : Int) => (if n then -1 else 1) * (m : Int) * 2 ^ (e + K).toNat
    let flip := fun (b : Bool) (x : Int) => if b then -x else x
    (∃ n m e, 0 ≤ e + K ∧ Fp.add fmt mode l r = Fp.round fmt mode n m e ∧ val n m e = val n1 m1 e1 + val n2 m2 e2)
    ∧ (∃ n m e, 0 ≤ e + K ∧ Fp.sub fmt mode l r = Fp.round fmt mode n m e ∧ val n m e = val n1 m1 e1 - val n2 m2 e2)
    ∧ (∃ n m e, 0 ≤ e + K + K ∧ Fp.mul fmt mode l r = Fp.round fmt mode n m e ∧ val n m (e + K) = val n1 m1 e1 * val n2 m2 e2)
    ∧ (∃ n m e, 0 ≤ e + K + K ∧ Fp.fused fmt mode np na l r p = Fp.round fmt mode n m e
        ∧ val n m (e + K) = flip np (val n1 m1 e1 * val n2 m2 e2) + flip na (val n3 m3 e3 * 2 ^ K)))
  ∧ (∀ (mode : RMode) (l r : Nat) (n : Int),
    let a := Fp.f32.read l
    let b := Fp.f32.read r
    let nan := a = .nan ∨ b = .nan
    let isNan := fun (x : Fp.Res) (counted : Bool) => x = ⟨0x7FC00000, { invalid := counted }⟩
    let isInf := fun (x : Fp.Res) (neg zero : Bool) => x = ⟨if neg then 0xFF800000 else 0x7F800000, { divZero := zero }⟩
    let isZero := fun (x : Fp.Res) (neg : Bool) => x = ⟨if neg then 0x80000000 else 0, {}⟩
    (nan → isNan (Fp.div Fp.f32 mode l r) false)
    ∧ (∀ m1 m2, a = .inf m1 → b = .inf m2 → isNan (Fp.div Fp.f32 mode l r) true)
    ∧ (∀ n1 n2 m e, a = .inf n1 → b = .fin n2 m e → isInf (Fp.div Fp.f32 mode l r) (n1 ^^ n2) false)
    ∧ (∀ n1 n2 m e, a = .fin n1 m e → b = .inf n2 → isZero (Fp.div Fp.f32 mode l r) (n1 ^^ n2))
    ∧ (∀ n1 n2 m1 m2 e1 e2, a = .fin n1 m1 e1 → b = .fin n2 m2 e2 →
        (m1 = 0 → m2 = 0 → isNan (Fp.div Fp.f32 mode l r) true)
        ∧ (m1 ≠ 0 → m2 = 0 → isInf (Fp.div Fp.f32 mode l r) (n1 ^^ n2) true)
        ∧ (m1 = 0 → m2 ≠ 0 → isZero (Fp.div Fp.f32 mode l r) (n1 ^^ n2)))
    ∧ (a = .nan → isNan (Fp.sqrt Fp.f32 mode l) false ∧ isNan (Fp.rcp Fp.f32 mode l) false ∧ isNan (Fp.rsqrt Fp.f32 mode l) false
        ∧ isNan (Fp.exp2 Fp.f32 mode l) false ∧ isNan (Fp.log2 Fp.f32 mode l) false ∧ isNan (Fp.ldx Fp.f32 mode l n) false)
    ∧ (∀ neg, a = .inf neg → isZero (Fp.rcp Fp.f32 mode l) neg ∧ isNan (Fp.exp2 Fp.f32 mode l) true ∧ Fp.ldx Fp.f32 mode l n = ⟨l, {}⟩
        ∧ (neg = false → isInf (Fp.sqrt Fp.f32 mode l) false false ∧ isZero (Fp.rsqrt Fp.f32 mode l) false ∧ isInf (Fp.log2 Fp.f32 mode l) false false)
        ∧ (neg = true → isNan (Fp.sqrt Fp.f32 mode l) true ∧ isNan (Fp.rsqrt Fp.f32 mode l) true ∧ isNan (Fp.log2 Fp.f32 mode l) true))
    ∧ (∀ neg e, a = .fin neg 0 e → isZero (Fp.sqrt Fp.f32 mode l) neg ∧ isInf (Fp.rcp Fp.f32 mode l) neg true ∧ isInf (Fp.rsqrt Fp.f32 mode l) neg true
        ∧ Fp.exp2 Fp.f32 mode l = ⟨0x3F800000, {}⟩ ∧ isInf (Fp.log2 Fp.f32 mode l) true true ∧ Fp.ldx Fp.f32 mode l n = ⟨l, {}⟩)
    ∧ (∀ m e, m ≠ 0 → a = .fin true m e → isNan (Fp.sqrt Fp.f32 mode l) true ∧ isNan (Fp.rsqrt Fp.f32 mode l) true ∧ isNan (Fp.log2 Fp.f32 mode l) true)
    ∧ (∀ neg m e, a = .fin neg m e → m ≠ 0 → Fp.ldx Fp.f32 mode l n = Fp.round Fp.f32 mode neg m (e + n))
    ∧ (l < 2 ^ 32 → 0x3F800000 < l % 2 ^ 31 → l % 2 ^ 31 < 0x7F800000 → isNan (Fp.exp2 Fp.f32 mode l) true)
    ∧ Fp.exp2 Fp.f32 mode 0x3F800000 = ⟨0x40000000, {}⟩ ∧ Fp.exp2 Fp.f32 mode 0xBF800000 = ⟨0x3F000000, {}⟩
    ∧ (∀ (j : Nat) (e : Int), j ≤ 23 → a = .fin false (2 ^ j) e → Fp.log2 Fp.f32 mode l = Fp.round Fp.f32 mode (decide (e + j < 0)) (e + j).natAbs 0)
    ∧ isZero (Fp.log2 Fp.f32 mode 0x3F800000) false)
  ∧ ∀ (s : State) (k : TileKey) (n : Nat) (w : NodeOp) (o : Opnds), w.ty = .f32 ∨ w.ty = .bf16x2 →
    let width := Ty.width w.ty
    let fmt := fmtOf w.ty
    let rounds := fun (i : Instr) (f : Nat → Nat → Nat → Fp.Res) =>
      let res := fun j => f (elemAt width o.l.pay j) (elemAt width o.r.pay j) (elemAt width o.p.pay j)
      NodeAt s k n (formOf i) o → ∃ a, Elementwise w o width (fun j => (res j).bits % 2 ^ width) a
        ∧ FiresCounting i s k n o ((List.range (512 / width)).flatMap fun j => if laneOn w o.p.pay (j * width / 32) then noteLanes (res j).note else []) a a
    rounds (.fadd w) (fun l r _ => Fp.add fmt w.rm l r)
    ∧ rounds (.fsub w) (fun l r _ => Fp.sub fmt w.rm l r)
    ∧ rounds (.fmul w) (fun l r _ => Fp.mul fmt w.rm l r)
    ∧ rounds (.fma w) (fun l r p => Fp.fused fmt w.rm false false l r p)
    ∧ rounds (.fms w) (fun l r p => Fp.fused fmt w.rm false true l r p)
    ∧ rounds (.fnma w) (fun l r p => Fp.fused fmt w.rm true false l r p)
    ∧ rounds (.fmin w) (fun l r _ => ⟨Fp.minMax fmt false l r, {}⟩)
    ∧ rounds (.fmax w) (fun l r _ => ⟨Fp.minMax fmt true l r, {}⟩)
    ∧ rounds (.fabs w) (fun l _ _ => ⟨l % 2 ^ (width - 1), {}⟩)
    ∧ rounds (.fneg w) (fun l _ _ => ⟨(l + 2 ^ (width - 1)) % 2 ^ width, {}⟩)
    ∧ rounds (.fcpsgn w) (fun l r _ => ⟨l % 2 ^ (width - 1) + r / 2 ^ (width - 1) * 2 ^ (width - 1), {}⟩)
    ∧ (w.ty = .f32 →
        rounds (.fdiv w) (fun l r _ => Fp.div Fp.f32 w.rm l r)
        ∧ rounds (.fsqrt w) (fun l _ _ => Fp.sqrt Fp.f32 w.rm l)
        ∧ rounds (.frcp w) (fun l _ _ => Fp.rcp Fp.f32 w.rm l)
        ∧ rounds (.frsqrt w) (fun l _ _ => Fp.rsqrt Fp.f32 w.rm l)
        ∧ rounds (.exp2f w) (fun l _ _ => Fp.exp2 Fp.f32 w.rm l)
        ∧ rounds (.log2f w) (fun l _ _ => Fp.log2 Fp.f32 w.rm l)
        ∧ rounds (.ldx w) (fun l r _ => Fp.ldx Fp.f32 w.rm l (readInt 32 false r)))

/-- R73, R74, R78: `fcmp` and `fclass` write masks, `rndi` sends the integral value as F32 to TGA and as I32 to TGB; none of them counts. R79 to R81: `cvt` of each legal pair: 16 lanes of the two formats, or one SX block encoded or decoded with its counts. R48 to R50, R56: the exponent, the group shifts, the codes and the counts of an encoded block, and the exact values of a decoded one. (That a `cvt` without an SX operand counts nothing is the model's choice, log 22. Magnitudes are in units of 2^-149.) -/
def Obligations.NodeFloatTestsAndConversions : Prop :=
  (
  ∀ (s : State) (k : TileKey) (n : Nat) (w : NodeOp) (o : Opnds) (cond : BitVec 3) (mask : BitVec 10),
    let l := fun j => (Word.lane o.l.pay j).toNat
    let r := fun j => (Word.lane o.r.pay j).toNat
    let un := fun j => Fp.isNan Fp.f32 (l j) || Fp.isNan Fp.f32 (r j)
    let c := fun j => Fp.cmp Fp.f32 (l j) (r j)
    (cond < 7 → NodeAt s k n (formOf (.fcmp w cond)) o → ∃ a, Fires (.fcmp w cond) s k n o a a
      ∧ IsMask (fun j => (cond = 0 ∧ un j = false ∧ c j = 0) ∨ (cond = 1 ∧ (un j = true ∨ c j ≠ 0)) ∨ (cond = 2 ∧ un j = false ∧ c j < 0)
          ∨ (cond = 3 ∧ un j = false ∧ c j ≤ 0) ∨ (cond = 4 ∧ un j = false ∧ 0 < c j) ∨ (cond = 5 ∧ un j = false ∧ 0 ≤ c j) ∨ (cond = 6 ∧ un j = true)) a)
    ∧ (NodeAt s k n (formOf (.fclass w mask)) o → ∃ a, Fires (.fclass w mask) s k n o a a
      ∧ IsMask (fun j => mask.getLsbD (Fp.classOf (l j))) a)
    ∧ (NodeAt s k n (formOf (.rndi w)) o → ∃ a b, Fires (.rndi w) s k n o a b
      ∧ (∀ j, j < 16 → Word.lane a j = BitVec.ofNat 32 (Fp.rndiF w.rm (l j)))
      ∧ (∀ j, j < 16 → Word.lane b j = BitVec.ofInt 32 (Fp.toInt w.rm (-2 ^ 31) (2 ^ 31 - 1) (l j)))))
  ∧ (
  ∀ (s : State) (k : TileKey) (n : Nat) (w : NodeOp) (o : Opnds) (src dst : BitVec 4), NodeAt s k n (formOf (.cvt w src dst)) o →
    let x := fun j => (Word.lane o.l.pay j).toNat
    let int := fun (c : BitVec 4) => if c = 0 then some (32, false) else if c = 1 then some (32, true) else if c = 4 then some (8, false) else if c = 9 then some (16, false) else none
    let m := fun (c : BitVec 4) => if c = 5 then 2 else if c = 6 then 4 else 7
    let lanes := fun (f : Nat → Lane) => ∃ a, Fires (.cvt w src dst) s k n o a a ∧ ∀ j, j < 16 → Word.lane a j = f (x j)
    (src = 2 → dst = 3 → lanes fun v => BitVec.ofNat 32 (Fp.narrow w.rm v).bits)
    ∧ (src = 3 → dst = 2 → lanes fun v => BitVec.ofNat 32 (v * 2 ^ 16))
    ∧ (∀ wd ud, src = 2 → int dst = some (wd, ud) → lanes fun v => BitVec.ofInt 32 (Fp.toInt w.rm (loOf wd ud) (hiOf wd ud) v))
    ∧ (∀ ws us, int src = some (ws, us) → dst = 2 → lanes fun v => BitVec.ofNat 32 (Fp.ofInt w.rm (readInt ws us (v % 2 ^ ws))).bits)
    ∧ (∀ ws us wd ud, int src = some (ws, us) → int dst = some (wd, ud) →
        lanes fun v => BitVec.ofInt 32 (readInt wd ud (reduceInt wd ud w.sat (readInt ws us (v % 2 ^ ws)))))
    ∧ (src = 2 → 5 ≤ dst → dst ≤ 7 →
        let e := sxEncode (m dst) ((List.range 16).map x)
        FiresCounting (.cvt w src dst) s k n o e.2 (sxBlockBits (m dst) e.1) (sxBlockBits (m dst) e.1))
    ∧ (dst = 2 → 5 ≤ src → src ≤ 7 →
        let scale : BitVec 16 := o.l.pay.extractLsb' 0 16
        ∃ a, FiresCounting (.cvt w src dst) s k n o (if scale.toNat / 256 = 255 then [2, 5] else [5]) a a
          ∧ ∀ j, j < 16 → Word.lane a j = (sxDecode (m src) scale (sxCodes (m src) (o.l.pay.toNat / 2 ^ 16))).getD j 0))
  ∧ (∀ (m : Nat) (xs : List Nat), m = 2 ∨ m = 4 ∨ m = 7 → xs.length = 16 → (∀ x ∈ xs, x < 2 ^ 32) →
    let r := sxEncode m xs
    let expo := r.1.scale.toNat / 256
    let shift := fun (g : Nat) => r.1.scale.toNat / 2 ^ (2 * g) % 4
    let code := fun (i : Nat) => r.1.codes.getD i 0
    let x := fun (i : Nat) => xs.getD i 0
    let mag := fun (i : Nat) => magOf (if x i % 2 ^ 31 = 0x7F800000 then 0x7F7FFFFF else x i % 2 ^ 31)
    let counts := fun (lane n : Nat) => (r.2.filter (fun z => z == lane)).length = n
    let many := fun (p : Nat → Bool) => ((List.range 16).filter p).length
    ((∃ y ∈ xs, 0x7F800000 < y % 2 ^ 31) → r = (⟨0xFF00, List.replicate 16 0⟩, [2, 4]))
    ∧ ((∀ y ∈ xs, y % 2 ^ 31 ≤ 0x7F800000) →
        r.1.codes.length = 16 ∧ (∀ i, i < 16 → code i / 2 ^ m = x i / 2 ^ 31)
        ∧ counts 2 0 ∧ counts 3 (many fun i => x i % 2 ^ 31 == 0x7F800000) ∧ counts 4 1
        ∧ ((∀ i, i < 16 → mag i = 0) → r.1.scale = 0 ∧ (∀ i, i < 16 → code i % 2 ^ m = 0) ∧ counts 0 0 ∧ counts 1 0)
        ∧ (∀ a, (∃ i, i < 16 ∧ mag i = a) → (∀ i, i < 16 → mag i ≤ a) → a ≠ 0 →
            (a < 2 ^ 23 → expo = 0) ∧ (2 ^ 23 ≤ a → 2 ^ (expo + 22) ≤ a ∧ a < 2 ^ (expo + 23))
            ∧ (∀ g, g < 4 →
                let fits := fun (h : Nat) => ∀ i, i / 4 = g → mag i * 2 ^ m < 2 ^ (expo + 23 - h) * (2 ^ m - 1)
                (shift g ≠ 0 → fits (shift g)) ∧ ∀ h, shift g < h → h ≤ 3 → ¬fits h)
            ∧ ∃ q : Nat → Nat, (∀ i, i < 16 →
                let num := mag i * 2 ^ (m - 1 + shift (i / 4))
                let den := 2 ^ (expo + 22)
                code i % 2 ^ m = min (q i) (2 ^ m - 1) ∧ 2 * num ≤ (2 * q i + 1) * den ∧ 2 * q i * den ≤ 2 * num + den
                ∧ (2 * num = (2 * q i + 1) * den ∨ 2 * q i * den = 2 * num + den → q i % 2 = 0))
              ∧ counts 0 (many fun i => decide (2 ^ m - 1 < q i)) ∧ counts 1 (many fun i => q i == 0 && mag i != 0))))
  ∧ ∀ (m : Nat) (scale : BitVec 16) (codes : List Nat) (i : Nat), m = 2 ∨ m = 4 ∨ m = 7 → i < 16 →
    let v := ((sxDecode m scale codes).getD i 0).toNat
    let c := codes.getD i 0
    (scale.toNat / 256 = 255 → v = 0x7FC00000)
    ∧ (scale.toNat / 256 ≠ 255 → ∃ m1 e1, Fp.f32.read v = .fin (decide (c / 2 ^ m % 2 = 1)) m1 e1 ∧ 0 ≤ e1 + 149
        ∧ m1 * 2 ^ (e1 + 149).toNat * 2 ^ (scale.toNat / 2 ^ (2 * (i / 4)) % 4 + m) = c % 2 ^ m * 2 ^ (scale.toNat / 256 + 23))

/-- R82, R84, R87: `pack`, `unpack`, `perm`, `bcast`, `lidx` and `mcount` move or count elements. -/
def Obligations.NodeElementMoves : Prop :=
  ∀ (s : State) (k : TileKey) (n : Nat) (w : NodeOp) (o : Opnds) (ext b : Bool) (lane : BitVec 4) (imm : BitVec 16),
    (NodeAt s k n (formOf (.pack w false)) o → ∃ a, Fires (.pack w false) s k n o a a
      ∧ ∀ j, j < 32 → elemAt 16 a j = elemAt 32 (if j < 16 then o.l.pay else o.r.pay) (j % 16) % 2 ^ 16)
    ∧ (NodeAt s k n (formOf (.pack w true)) o → ∃ a, Fires (.pack w true) s k n o a a
      ∧ ∀ j, j < 64 → elemAt 8 a j = elemAt 16 (if j < 32 then o.l.pay else o.r.pay) (j % 32) % 2 ^ 8)
    ∧ (NodeAt s k n (formOf (.unpack w ext false)) o → ∃ a c, Fires (.unpack w ext false) s k n o a c
      ∧ ∀ j, j < 16 → elemAt 32 a j = extElem 16 32 ext (elemAt 16 o.l.pay j) ∧ elemAt 32 c j = extElem 16 32 ext (elemAt 16 o.l.pay (16 + j)))
    ∧ (NodeAt s k n (formOf (.unpack w ext true)) o → ∃ a c, Fires (.unpack w ext true) s k n o a c
      ∧ ∀ j, j < 32 → elemAt 16 a j = extElem 8 16 ext (elemAt 8 o.l.pay j) ∧ elemAt 16 c j = extElem 8 16 ext (elemAt 8 o.l.pay (32 + j)))
    ∧ (NodeAt s k n (formOf (.perm w)) o → ∃ a, Fires (.perm w) s k n o a a
      ∧ Lanewise w o (fun j =>
          let idx := (Word.lane o.r.pay j).toInt
          if 0 ≤ idx ∧ idx ≤ 15 then Word.lane o.l.pay idx.toNat
          else if w.pd = true ∧ 16 ≤ idx ∧ idx ≤ 31 then Word.lane o.p.pay (idx - 16).toNat else 0) a)
    ∧ (NodeAt s k n (formOf (.bcast w lane)) o → ∃ a, Fires (.bcast w lane) s k n o a a
      ∧ Lanewise w o (fun _ => Word.lane o.l.pay lane.toNat) a)
    ∧ (NodeAt s k n (formOf (.lidx w imm)) o → ∃ a, Fires (.lidx w imm) s k n o a a
      ∧ Lanewise w o (fun j => BitVec.ofInt 32 ((j : Int) + imm.toInt)) a)
    ∧ (NodeAt s k n (formOf (.mcount w b)) o → ∃ a, Fires (.mcount w b) s k n o a a
      ∧ ∀ j, j < 16 → (Word.lane a j).toNat = ((List.range 16).filter (fun i => o.l.pay.getLsbD i && (!b || decide (i ≤ j)))).length)

/-- R85, R86: the reductions write one value to all lanes, the prefixes an inclusive prefix seeded by lane 15 of r. Integer sums are exact before they are reduced. F32 values follow the tree of R85, pairs at distance 1, 2, 4 and 8 in turn, and the four scan steps of R86, each with the rounding of R71 or the choice of R72. That every addition of the tree and of the scan is counted, whatever lane its value ends in, is the model's choice (log 105). -/
def Obligations.NodeReductions : Prop :=
  ∀ (s : State) (k : TileKey) (n : Nat) (w : NodeOp) (o : Opnds),
    let int := fun (p : Payload) (j : Nat) => readInt 32 (Ty.unsigned w.ty) (Word.lane p j).toNat
    let ints := (List.range 16).map (int o.l.pay)
    let pat := fun (j : Nat) => (Word.lane o.l.pay j).toNat
    let cut := fun (v : Int) => BitVec.ofNat 32 (reduceInt 32 (Ty.unsigned w.ty) w.sat v)
    let notes := fun (r : Nat → Fp.Res) (js : List Nat) => js.flatMap fun j => noteLanes (r j).note
    let reduces := fun (i : Instr) (op : Nat → Nat → Fp.Res) (f : Int → Int → Int) =>
      NodeAt s k n (formOf i) o →
        (w.ty ≠ .f32 → ∃ a, Fires i s k n o a a ∧ ∀ j, j < 16 → Word.lane a j = cut (ints.tail.foldl f (ints.headD 0)))
        ∧ (w.ty = .f32 →
            let t1 := fun j => op (pat (2 * j)) (pat (2 * j + 1))
            let t2 := fun j => op (t1 (2 * j)).bits (t1 (2 * j + 1)).bits
            let t4 := fun j => op (t2 (2 * j)).bits (t2 (2 * j + 1)).bits
            let t8 := fun j => op (t4 (2 * j)).bits (t4 (2 * j + 1)).bits
            ∃ a, FiresCounting i s k n o (notes t1 (List.range 8) ++ notes t2 (List.range 4) ++ notes t4 (List.range 2) ++ notes t8 (List.range 1)) a a
              ∧ ∀ j, j < 16 → Word.lane a j = BitVec.ofNat 32 (t8 0).bits)
    let prefixes := fun (i : Instr) (op : Nat → Nat → Fp.Res) (f : Int → Int → Int) =>
      NodeAt s k n (formOf i) o →
        (w.ty ≠ .f32 → ∃ a, Fires i s k n o a a ∧ ∀ j, j < 16 → Word.lane a j = cut ((ints.take (j + 1)).foldl f (int o.r.pay 15)))
        ∧ (w.ty = .f32 →
            let scan := fun (d : Nat) (y : Nat → Nat) (j : Nat) => if j < d then (⟨y j, {}⟩ : Fp.Res) else op (y (j - d)) (y j)
            let y1 := scan 1 pat
            let y2 := scan 2 fun j => (y1 j).bits
            let y4 := scan 4 fun j => (y2 j).bits
            let y8 := scan 8 fun j => (y4 j).bits
            let out := fun j => op (Word.lane o.r.pay 15).toNat (y8 j).bits
            let all := List.range 16
            ∃ a, FiresCounting i s k n o (notes y1 all ++ notes y2 all ++ notes y4 all ++ notes y8 all ++ notes out all) a a
              ∧ ∀ j, j < 16 → Word.lane a j = BitVec.ofNat 32 (out j).bits)
    let add := fun (x y : Nat) => Fp.add Fp.f32 w.rm x y
    let least := fun (x y : Nat) => (⟨Fp.minMax Fp.f32 false x y, {}⟩ : Fp.Res)
    let most := fun (x y : Nat) => (⟨Fp.minMax Fp.f32 true x y, {}⟩ : Fp.Res)
    reduces (.rsum w) add (fun x y => x + y)
    ∧ reduces (.rmin w) least (fun x y => if x ≤ y then x else y)
    ∧ reduces (.rmax w) most (fun x y => if x ≤ y then y else x)
    ∧ prefixes (.psum w) add (fun x y => x + y)
    ∧ prefixes (.pmin w) least (fun x y => if x ≤ y then x else y)
    ∧ prefixes (.pmax w) most (fun x y => if x ≤ y then y else x)

/-! ### Firing, markers and traps of nodes -/

/-- R17, R58: a firing empties the enabled latches that are not sticky, keeps the others, and fills the latches, routes and ports that its targets name; it touches nothing but this tile, the FIFO offers of its sequencer where a target is `ct.qN` (R195), and the accesses it initiates (R290). A slot whose results leave later (R61) keeps what it sends, for its targets in turn. What leaves on TGA is put there before what leaves on TGB, but that of a pair for the right and the left latch of one slot the left comes first (R123): a local latch holds the token, a route has it in its first hop with the DVC of its entry (R21), a port holds it, and a `ct.qN` port also offers it to its FIFO. (Of a token only what the model's own fields say of accesses may differ: R290.) -/
def Obligations.FiringConsumesAndDelivers : Prop :=
  ∀ (s : State) (k : TileKey) (n : Nat) (f : NodeForm) (a b : Option Tok),
    let t := fireTo s k n f a b
    let piped := ∃ j m, s.focus = .pipe j m
    let like := fun (x y : Option Tok) => x.isSome = y.isSome ∧ ∀ u v, x = some u → y = some v → u.Like v
    (∀ p, (f.op.tga ≠ .latch p (BitVec.ofNat 5 n) ∧ f.op.tgb ≠ .latch p (BitVec.ofNat 5 n)) ∨ piped → n < 32 →
      (t.slot k n).at_ p = if p ∈ firmPos f then none else (s.slot k n).at_ p)
    ∧ (¬piped → ∃ x y s1, like x a ∧ like y b ∧ s1 = { consumeAt s k n f with accs := t.accs, nextAcc := t.nextAcc }
        ∧ (let swapped := ∃ m, f.op.tga = .latch .right m ∧ f.op.tgb = .latch .left m
          (swapped → t = deliverTok (deliverTok s1 k f.op.tgb y) k f.op.tga x)
          ∧ (¬swapped → t = deliverTok (deliverTok s1 k f.op.tga x) k f.op.tgb y)))
    ∧ (∀ s1 d x,
        let u := deliverTok s1 k d (some x)
        let y := { x with vc := 0 }
        let rt := fun (r : BitVec 4) => (s1.tile k).routes.getD r.toNat {}
        (d = .none → u = s1)
        ∧ (∀ p m, d = .latch p m → (stickyAt (s1.slot k m.toNat).word p = true → x.tt.isMarker = false) → ∃ z, (u.slot k m.toNat).at_ p = some z ∧ z.Like y)
        ∧ (∀ r h hs, d = .route r → (rt r).hops = h :: hs →
            ∃ z, ((u.tile k).routes.getD r.toNat {}).hops = some z :: hs ∧ z.Like { y with vc := routeDvc (rt r).entry })
        ∧ (∀ p, d = .port p → ∃ q, (u.tile k).ports.get? p.toNat = some q ∧ q.tok.Like y)
        ∧ (∀ p, d = .port p → 0x40 ≤ p.toNat → p.toNat ≤ 0x47 → (u.seq k).offers = (s1.seq k).offers.upd (p.toNat - 0x40) [] (fun l => l ++ [.fabric])))
    ∧ (piped → (∀ m, m ≠ n → t.slot k m = s.slot k m) ∧ ∃ x y, like x a ∧ like y b ∧ (t.slot k n).out = pairEmits f.op.tga f.op.tgb x y)
    ∧ (∀ j, j ≠ k → t.tile j = s.tile j)
    ∧ t = { s with tiles := t.tiles, seqs := t.seqs, accs := t.accs, nextAcc := t.nextAcc }
    ∧ (∀ j, (t.seq j).s = (s.seq j).s ∧ (t.seq j).pc = (s.seq j).pc ∧ (t.seq j).c = (s.seq j).c ∧ (t.seq j).q = (s.seq j).q ∧ (t.seq j).cause = (s.seq j).cause)

/-- R60: what the token types in the latches of an arithmetic slot make of a firing. (That a resume token traps before a fault token beside it is forwarded, and that the trap waits until every enabled latch holds a token, is the model's choice: log 104.) -/
def Obligations.NodeTokenTypes : Prop :=
  ∀ (f : NodeForm) (sl : Slot),
    let full := (enabledPos f).filterMap sl.at_
    let firm := (firmPos f).filterMap sl.at_
    (full.length < (enabledPos f).length → gateOf f sl = .wait)
    ∧ (full.length = (enabledPos f).length →
        ((∃ t ∈ full, t.tt = .resume) → gateOf f sl = .trap 0x02)
        ∧ ((∀ t ∈ full, t.tt ≠ .resume) → (∃ t ∈ full, t.tt = .fault) → ∃ t, gateOf f sl = .forward t ∧ full.find? (fun x => x.tt == .fault) = some t)
        ∧ ((∀ t ∈ full, t.tt ≠ .resume ∧ t.tt ≠ .fault) →
            ((∀ t ∈ firm, t.tt.isMarker = false) → gateOf f sl = .go (opndsOf f sl))
            ∧ (∀ m rest, firm = m :: rest → m.tt.isMarker = true → (∀ t ∈ rest, t.tt = m.tt) → gateOf f sl = .forward m)
            ∧ ((∃ t ∈ firm, t.tt.isMarker = true) → (∃ t ∈ firm, ∃ u ∈ firm, t.tt ≠ u.tt) → gateOf f sl = .trap 0x01)))

/-- R60: an arithmetic or moving slot that may act forwards the token its latches select to both targets once both are free, raises the trap they select, and otherwise waits. (That a trap is raised without asking whether the targets are free is the model's choice: log 104.) -/
def Obligations.NodeMarkersAndTraps : Prop :=
  ∀ (s : State) (k : TileKey) (n : Nat) (w : NodeOp) (imm : BitVec 16) (c : BitVec 3) (p q : BitVec 5) (x y : BitVec 4) (m : BitVec 10) (b d : Bool) (i : Instr),
    i ∈ [.add w, .sub w, .mul w, .mulh w, .madd w, .div w, .rem w, .neg w, .abs w, .min w, .max w, .icmp w c, .and w, .or w, .xor w, .not w, .andn w,
         .shl w, .shr w, .sra w, .rotl w, .clz w, .popc w, .addi w imm, .fadd w, .fsub w, .fmul w, .fma w, .fms w, .fnma w, .fmin w, .fmax w, .fabs w,
         .fneg w, .fcpsgn w, .fcmp w c, .fdiv w, .fsqrt w, .frcp w, .frsqrt w, .exp2f w, .log2f w, .ldx w, .rndi w, .perm w, .rsum w, .rmin w, .rmax w,
         .psum w, .pmin w, .pmax w, .lidx w imm, .mov w, .sel w, .const w imm, .tagGet w, .tagSet w, .dtime w, .tileid w, .bfx w b p q, .bfi w p q,
         .fclass w m, .cvt w x y, .pack w b, .unpack w b d, .bcast w x, .mcount w b, .widFld w c, .widLvl w c] →
    SlotAt s k n →
      (∀ t, gateOf (formOf i) (s.slot k n) = .forward t → bothFree s k n (formOf i) = true →
        exec i s = .next (forwardBoth s k n (formOf i) t))
      ∧ (∀ cause, gateOf (formOf i) (s.slot k n) = .trap cause → exec i s = .next (raiseTrap s (slotSite s k n) cause 0))
      ∧ (gateOf (formOf i) (s.slot k n) = .wait ∨ bothFree s k n (formOf i) = false ∧ (∀ cause, gateOf (formOf i) (s.slot k n) ≠ .trap cause) → exec i s = .next s)

/-! ### Flow nodes -/

/-- R122, R125, R129, R131, R155: the tokens that the moving, constant, tag, work-id and reading nodes send. Those of R122 keep the whole header of l; that `tag.set` keeps its TT is the model's reading (log 13). R122, R129: `steer` and `loop` send l to TGA when r bit 0 differs from INV, else to TGB, and ask only the chosen target; `loop` adds 1 to SEQ on its way to TGA. -/
def Obligations.NodeMovesAndSteering : Prop :=
  (
  ∀ (s : State) (k : TileKey) (n : Nat) (w : NodeOp) (o : Opnds) (imm : BitVec 16) (fld : BitVec 3),
    let all := fun (i : Instr) (x : Lane) => NodeAt s k n (formOf i) o → ∃ a, Fires i s k n o a a ∧ ∀ j, j < 16 → Word.lane a j = x
    let wid := Word.a64 o.l.pay 0
    (NodeAt s k n (formOf (.mov w)) o → exec (.mov w) s = .next (fireTo s k n (formOf (.mov w)) (some o.l) (some o.l)))
    ∧ (NodeAt s k n (formOf (.sel w)) o → ∃ p, exec (.sel w) s = .next (fireTo s k n (formOf (.sel w)) (some { o.l with pay := p }) (some { o.l with pay := p }))
        ∧ ∀ j, j < 16 → Word.lane p j = if o.p.pay.getLsbD j then Word.lane o.l.pay j else Word.lane o.r.pay j)
    ∧ (NodeAt s k n (formOf (.tagSet w)) o →
        exec (.tagSet w) s = .next (fireTo s k n (formOf (.tagSet w)) (some { o.l with tag := o.r.pay.extractLsb' 0 16 }) (some { o.l with tag := o.r.pay.extractLsb' 0 16 })))
    ∧ (w.ty = .i32 → all (.const w imm) (imm.signExtend 32))
    ∧ (w.ty = .u32 → all (.const w imm) (imm.setWidth 32))
    ∧ (w.ty = .f32 → all (.const w imm) (imm ++ (0 : BitVec 16)))
    ∧ (NodeAt s k n (formOf (.tagGet w)) o → ∃ a, Fires (.tagGet w) s k n o a a ∧ Lanewise w o (fun _ => o.l.tag.setWidth 32) a)
    ∧ all (.widFld w fld) (BitVec.ofNat 32 (wid.toNat / 2 ^ widStart s (s.launchOf k) fld.toNat % 2 ^ widWidth s (s.launchOf k) fld.toNat))
    ∧ (NodeAt s k n (formOf (.widLvl w fld)) o → ∃ a, Fires (.widLvl w fld) s k n o a a
        ∧ ∀ e, e < 8 → ∀ b, b < 64 → (Word.a64 a e).getLsbD b = (decide (widStart s (s.launchOf k) fld.toNat ≤ b) && wid.getLsbD b))
    ∧ (NodeAt s k n (formOf (.dtime w)) o → ∃ a, Fires (.dtime w) s k n o a a ∧ ∀ e, e < 8 → Word.a64 a e = s.dev.dtime)
    ∧ (NodeAt s k n (formOf (.tileid w)) o → ∃ a, Fires (.tileid w) s k n o a a
        ∧ Word.lane a 0 = BitVec.ofNat 32 (k % 2048) ∧ Word.lane a 1 = BitVec.ofNat 32 (k / 2048) ∧ Word.lane a 2 = BitVec.ofNat 32 (s.tile k).rel
        ∧ Word.lane a 3 = BitVec.ofNat 32 ((s.region (s.regionOf k)).qy * 65536 + (s.region (s.regionOf k)).qx)
        ∧ Word.lane a 4 = BitVec.ofNat 32 (s.ctxOf k) ∧ Word.lane a 5 = BitVec.ofNat 32 (Kind.code (s.tile k).kind) ∧ ∀ j, 6 ≤ j → j < 16 → Word.lane a j = 0))
  ∧ (
  ∀ (s : State) (k : TileKey) (n : Nat) (w : NodeOp) (o : Opnds) (inv : Bool),
    let goes := fun (i : Instr) (contTok : Tok) => SlotAt s k n → gateOf (formOf i) (s.slot k n) = .go o →
      (o.r.pay.getLsbD 0 ≠ inv → freeAfter s k n (formOf i) w.tga = true → exec i s = .next (fireTo s k n (formOf i) (some contTok) none))
      ∧ (o.r.pay.getLsbD 0 = inv → freeAfter s k n (formOf i) w.tgb = true → exec i s = .next (fireTo s k n (formOf i) none (some o.l)))
    goes (.steer w inv) o.l ∧ goes (.loop w inv) { o.l with seq := o.l.seq + 1 })

/-- R122: `gate` sends l, whatever its kind, once its right latch holds any token but a resume token. R155, R56: `stat` sends the counters, which then read zero; a drain or end-of-stream marker also leaves on TGB, a tempo marker or fault token leaves on both targets and reads nothing. R155: `trap` raises USER with its code, unless a predicate turns every lane off: then it consumes its token. R120, R122, R139: `dup`, `sink`, `census.up` and `census.dn` change the census of their region and send or consume l. A change that would take the census below zero traps CENSUS_NEG, one above 2^31 - 1 CENSUS_OVF (R251), and the firing does not take place. Markers pass uncounted, and a fault token at `sink` traps FAULT_SUNK. (That `dup`, `census.up` and `census.dn` count a fault token as data is the model's reading: log 14.) -/
def Obligations.NodeGateStatAndCensus : Prop :=
  (
  ∀ (s : State) (k : TileKey) (n : Nat) (w : NodeOp) (l r : Tok), SlotAt s k n → (s.slot k n).left = some l →
    ((s.slot k n).right = some r → l.tt ≠ .resume → r.tt ≠ .resume → bothFree s k n (formOf (.gate w)) = true →
      exec (.gate w) s = .next (forwardBoth s k n (formOf (.gate w)) l))
    ∧ (l.tt = .data ∨ l.tt = .control ∨ l.tt = .drain ∨ l.tt = .eos → bothFree s k n (formOf (.stat w)) = true →
      ∃ p t, exec (.stat w) s = .next (t.setTile k { t.tile k with counts := [] })
        ∧ t = fireTo (noteMarker s k n l) k n (formOf (.stat w)) (some { tt := .data, seq := l.seq, tag := l.tag, pay := p }) (if l.tt.isMarker then some l else none)
        ∧ ∀ j, j < 16 → Word.lane p j = if j < 11 then (s.tile k).counts.getD j 0 else 0)
    ∧ (l.tt = .tempo ∨ l.tt = .fault → bothFree s k n (formOf (.stat w)) = true → exec (.stat w) s = .next (forwardBoth s k n (formOf (.stat w)) l))
    ∧ (∀ (o : Opnds) (code : BitVec 16), gateOf (formOf (.trap w code)) (s.slot k n) = .go o →
      (w.pe = false ∨ (∃ j, j < 16 ∧ laneOn w o.p.pay j = true) → exec (.trap w code) s = .next (raiseTrap s (slotSite s k n) 0x11 (code.setWidth 64)))
      ∧ (w.pe = true → (∀ j, j < 16 → laneOn w o.p.pay j = false) → exec (.trap w code) s = .next (consumeAt s k n (formOf (.trap w code))))))
  ∧ (
  ∀ (s : State) (k : TileKey) (n : Nat) (w : NodeOp) (imm : BitVec 16) (l : Tok), SlotAt s k n → (s.slot k n).left = some l → l.tt ≠ .resume →
    let r := s.regionOf k
    let c := (s.region r).census
    let counted := fun (d : Int) => s.setRegion r { s.region r with census := c + d }
    let counts := fun (i : Instr) (d : Int) => bothFree s k n (formOf i) = true →
      (l.tt.isMarker = true → exec i s = .next (forwardBoth s k n (formOf i) l))
      ∧ (l.tt.isMarker = false → 0 ≤ c + d → c + d ≤ 2147483647 → exec i s = .next (fireTo (counted d) k n (formOf i) (some l) (some l)))
      ∧ (l.tt.isMarker = false → c + d < 0 → exec i s = .next (raiseTrap s (slotSite s k n) 0x07 (BitVec.ofInt 64 c)))
      ∧ (l.tt.isMarker = false → 2147483647 < c + d → exec i s = .next (raiseTrap s (slotSite s k n) 0x08 (BitVec.ofInt 64 c)))
    counts (.dup w) 1
    ∧ (imm ≠ 0 → counts (.censusUp w imm) imm.toNat)
    ∧ (imm ≠ 0 → counts (.censusDn w imm) (-(imm.toNat : Int)))
    ∧ (l.tt = .data ∨ l.tt = .control → 1 ≤ c → c ≤ 2147483648 → exec (.sink w) s = .next (consumeAt (counted (-1)) k n (formOf (.sink w))))
    ∧ (l.tt = .data ∨ l.tt = .control → c < 1 → exec (.sink w) s = .next (raiseTrap s (slotSite s k n) 0x07 (BitVec.ofInt 64 c)))
    ∧ (l.tt.isMarker = true → w.lk = false → ∃ t, exec (.sink w) s = .next t ∧ (t.slot k n).left = none ∧ t.regions = s.regions)
    ∧ (l.tt = .fault → exec (.sink w) s = .next (raiseTrap s (slotSite s k n) 0x0A 0)))

/-- R128, R130: `spawn` gives l the lowest free tag of the pool, which it takes, and says so on TGB; with no tag free, or while a waiting `spawn` of a lower tile id, or of a lower slot of its tile, is to have the next one, it waits, and its request stands. (The model's choices: the token on TGA keeps TT and SEQ of l, log 13; which requests stand together, log 160; TAG_FREE comes before CENSUS_NEG, log 152.) `retire.free` returns l's tag; one that is not in use traps TAG_FREE, and a fault token FAULT_SUNK. R126, R120: a trigger starts a `seqgen` run; each SEQGEN_TOKEN sends its next token, and with the last one the run ends and the census rises by n - 1, by 1 for END, and by 1 for a TGB. -/
def Obligations.NodeThreadsAndSeqgen : Prop :=
  (
  ∀ (s : State) (k : TileKey) (n : Nat) (w : NodeOp) (l : Tok) (free : Bool), SlotAt s k n → (s.slot k n).left = some l → l.tt = .data ∨ l.tt = .control →
    let r := s.regionOf k
    let g := s.region r
    let rank := (s.tile k).rel * 32 + n
    let others := g.asked.filter (· != rank)
    (∀ t : Nat, 0x0100 ≤ t → t ≤ 0xFFFE → t ∉ g.used → (∀ u, 0x0100 ≤ u → u < t → u ∈ g.used) → (∀ m ∈ g.asked, rank ≤ m) →
        bothFree s k n (formOf (.spawn w)) = true → 0 ≤ g.census → g.census < 2147483647 →
        exec (.spawn w) s = .next (fireTo (s.setRegion r { g with census := g.census + 1, used := t :: g.used, asked := others }) k n (formOf (.spawn w))
          (some { l with tag := BitVec.ofNat 16 t }) (some { tt := .control, seq := l.seq, tag := l.tag, pay := BitVec.ofNat 512 t })))
    ∧ ((∀ u, 0x0100 ≤ u → u ≤ 0xFFFE → u ∈ g.used) ∨ (∃ m ∈ g.asked, m < rank) → bothFree s k n (formOf (.spawn w)) = true →
        exec (.spawn w) s = .next (s.setRegion r { g with asked := rank :: others }))
    ∧ (free = false → 1 ≤ g.census → g.census ≤ 2147483648 →
        exec (.retire w free) s = .next (consumeAt (s.setRegion r { g with census := g.census - 1 }) k n (formOf (.retire w free))))
    ∧ (free = true → l.tag.toNat ∈ g.used → 1 ≤ g.census → g.census ≤ 2147483648 →
        exec (.retire w free) s = .next (consumeAt (s.setRegion r { g with census := g.census - 1, used := g.used.filter (· != l.tag.toNat) }) k n (formOf (.retire w free))))
    ∧ (free = true → l.tag.toNat ∉ g.used → exec (.retire w free) s = .next (raiseTrap s (slotSite s k n) 0x09 (l.tag.setWidth 64))))
  ∧ (∀ (s : State) (k : TileKey) (n : Nat) (w : NodeOp) (l : Tok) (free : Bool), SlotAt s k n → (s.slot k n).left = some l → l.tt = .fault →
    exec (.retire w free) s = .next (raiseTrap s (slotSite s k n) 0x0A 0))
  ∧ (
  ∀ (s : State) (k : TileKey) (n : Nat) (w : NodeOp) (fin : Bool), SlotAt s k n →
    let sl := s.slot k n
    let f := formOf (.seqgen w fin)
    let hasB := decide (w.tgb ≠ .none)
    (∀ o, sl.run = .idle → gateOf f sl = .go o → Word.lane o.l.pay 1 ≠ 0 ∨ fin = true ∨ hasB = true → w.lk = false →
      ∃ t, exec (.seqgen w fin) s = .next t ∧ (t.slot k n).left = none
        ∧ (t.slot k n).run = .seqgen o.l 0)
    ∧ (∀ tr pos, sl.run = .seqgen tr pos → decodeNode sl.word = .ok (.seqgen w fin) →
        let count := (Word.lane tr.pay 1).toNat
        let steps := count + (if fin then 1 else 0) + (if hasB then 1 else 0)
        let r := s.regionOf k
        let c := (s.region r).census
        let d : Int := count - 1 + (if fin then 1 else 0) + (if hasB then 1 else 0)
        let sends := fun (tgt : Tgt) (x : Tok) => targetFree (s.tile k) tgt = true →
          (pos + 1 < steps → exec .seqgenToken s = .next (deliverTok (s.setSlot k n { sl with run := .seqgen tr (pos + 1) }) k tgt (some x)))
          ∧ (pos + 1 = steps → 0 ≤ c + d → c + d ≤ 2147483647 → ∃ t, exec .seqgenToken s = .next (deliverTok t k tgt (some x))
              ∧ (t.slot k n).run = .idle ∧ (t.region r).census = c + d)
        (pos < count → ∃ p, sends w.tga { tr with tt := .data, seq := BitVec.ofNat 8 pos, pay := p }
          ∧ ∀ j, j < 16 → Word.lane p j = Word.lane tr.pay 0 + BitVec.ofNat 32 (16 * pos + j) * Word.lane tr.pay 2)
        ∧ (pos = count → fin = true → sends w.tga { tr with tt := .eos, seq := BitVec.ofNat 8 count, pay := 0 })
        ∧ (pos = count + (if fin then 1 else 0) → hasB = true → sends w.tgb { tr with tt := .control, pay := BitVec.ofNat 512 count })))

/-- R120, R126, R128, R130: where the four thread and stream nodes complete. `spawn` fires on a data or control token once a pool tag and both its targets are free and no waiting `spawn` comes before it, and adds 1 to the census; `retire` takes its token and 1 from the census, with F its tag back into the pool; `seqgen` takes its trigger, and each SEQGEN_TOKEN sends one token of the run to a free target, the last of them with the change of the census that R120 gives. -/
def Obligations.ThreadNodesComplete : Prop :=
  ∀ (s : State) (k : TileKey) (n : Nat) (w : NodeOp) (l : Tok), SlotAt s k n →
    let r := s.regionOf k
    let g := s.region r
    let data := (s.slot k n).left = some l ∧ (l.tt = .data ∨ l.tt = .control)
    (∀ x, data → bothFree s k n (formOf (.spawn w)) = true → 0 ≤ g.census → g.census < 2147483647 → 0x0100 ≤ x → x ≤ 0xFFFE → x ∉ g.used →
      (∀ m ∈ g.asked, (s.tile k).rel * 32 + n ≤ m) →
      ∃ t tag, exec (.spawn w) s = .next t ∧ (t.region r).census = g.census + 1 ∧ 0x0100 ≤ tag ∧ tag ≤ x ∧ tag ∉ g.used ∧ (t.region r).used = tag :: g.used)
    ∧ (∀ free, data → 1 ≤ g.census → g.census ≤ 2147483648 → (free = true → l.tag.toNat ∈ g.used) →
        ∃ t, exec (.retire w free) s = .next t ∧ (t.region r).census = g.census - 1 ∧ (t.slot k n).left = (if w.lk then some l else none)
          ∧ (t.region r).used = if free then g.used.filter (· != l.tag.toNat) else g.used)
    ∧ (∀ fin o, (∀ x p, (s.slot k n).run ≠ .seqgen x p) → gateOf (formOf (.seqgen w fin)) (s.slot k n) = .go o →
        let steps := seqgenSteps (seqgenN o.l) fin (w.tgb != .none)
        (steps ≠ 0 → ∃ t, exec (.seqgen w fin) s = .next t ∧ (t.slot k n).run = .seqgen o.l 0 ∧ t.regions = s.regions)
        ∧ (steps = 0 → 1 ≤ g.census → g.census ≤ 2147483648 →
            ∃ t, exec (.seqgen w fin) s = .next t ∧ (t.slot k n).run = (s.slot k n).run ∧ (t.region r).census = g.census - 1))
    ∧ ∀ fin x p, (s.slot k n).run = .seqgen x p → decodeNode (s.slot k n).word = .ok (.seqgen w fin) → targetFree (s.tile k) (seqgenTok w fin x p).1 = true →
        let steps := seqgenSteps (seqgenN x) fin (w.tgb != .none)
        let d := seqgenCount (seqgenN x) fin (w.tgb != .none)
        (p + 1 ≠ steps → ∃ t, exec .seqgenToken s = .next t ∧ (t.slot k n).run = .seqgen x (p + 1) ∧ t.regions = s.regions)
        ∧ (p + 1 = steps → 0 ≤ g.census + d → g.census + d ≤ 2147483647 →
            ∃ t, exec .seqgenToken s = .next t ∧ (t.slot k n).run = .idle ∧ (t.region r).census = g.census + d)

/-- R123: `merge` forwards one token unchanged, a fault token as data, and a pair of markers leaves the side that is due as it is (both log 16). Under `any` it takes the one that arrived first, and data flows past a marker; under `alt` it takes left and right in turn and waits for the side that is due. Two markers of one TT leave as one; markers of different TT, and under `alt` a marker on the due side against data, trap MARK_SKEW. -/
def Obligations.NodeMerge : Prop :=
  ∀ (s : State) (k : TileKey) (n : Nat) (w : NodeOp) (alt : Bool), SlotAt s k n →
    let sl := s.slot k n
    let i := Instr.merge w alt
    let free := fun (s1 : State) => targetFree (s1.tile k) w.tga && targetFree (s1.tile k) w.tgb
    let takes := fun (p : Pos) (t : Tok) (run : SlotRun) =>
      let s1 := s.setSlot k n { sl.put p none with run := run }
      free s1 = true → exec i s = .next (sendBoth s1 k n w.tga w.tgb (some t) (some t))
    let due := rightDueOf sl.run
    let plain := fun (x : Option Tok) => ∀ t, x = some t → t.tt ≠ .resume
    plain sl.left → plain sl.right →
    (∀ t, alt = false → sl.left = some t → t.tt.isMarker = false → (sl.right = none ∨ holdsMarker sl.right = true ∨ sl.leftFirst = true) → takes .left t sl.run)
    ∧ (∀ t, alt = false → sl.right = some t → t.tt.isMarker = false → (sl.left = none ∨ holdsMarker sl.left = true ∨ sl.leftFirst = false) → takes .right t sl.run)
    ∧ (∀ t, alt = true → due = false → sl.left = some t → t.tt.isMarker = false → takes .left t (.alt true))
    ∧ (∀ t, alt = true → due = true → sl.right = some t → t.tt.isMarker = false → takes .right t (.alt false))
    ∧ (alt = true → (if due then sl.right else sl.left) = none → exec i s = .next s)
    ∧ (∀ t u, sl.left = some t → sl.right = some u → t.tt.isMarker = true → u.tt.isMarker = true →
        (t.tt = u.tt → bothFree s k n (formOf i) = true → exec i s = .next (forwardBoth s k n (formOf i) t))
        ∧ (t.tt ≠ u.tt → exec i s = .next (raiseTrap s (slotSite s k n) 0x01 0)))
    ∧ (∀ t u, alt = true → (if due then sl.right else sl.left) = some t → (if due then sl.left else sl.right) = some u →
        t.tt.isMarker = true → u.tt.isMarker = false → exec i s = .next (raiseTrap s (slotSite s k n) 0x01 0))

/-- R133, R134: an idle controller takes a go token; CTL_PERMIT sends the permit that its kind's schedule names; CTL_DONE takes the done of a child that owes one, or, when all have come, consumes the go token and sends the done on TGB. A done of a child that owes none traps CTL_PROTO, and so does a done that comes to an idle controller, or to one that waits for markers. The marker phase: an idle controller that finds a marker at its right latch sends it on TGA, takes the same marker back from each child, and with the last one sends it on TGB and is idle again; another marker, or a marker outside this phase, traps MARK_SKEW. (The model's choices: permits and done tokens carry SEQ 0, log 108; the marker on TGB is the last one that came back, log 151.) -/
def Obligations.NodeControllers : Prop :=
  ∀ (s : State) (k : TileKey) (n : Nat) (w : NodeOp) (m own : BitVec 3) (pm1 : BitVec 4), SlotAt s k n →
    let sl := s.slot k n
    let nch := m.toNat + 1
    (∀ i g, i ∈ [Instr.ctlS w m own, .ctlP w m pm1 own, .ctlQ w m own] → sl.run = .idle → sl.right = some g → g.tt = .data ∨ g.tt = .control →
      exec i s = .next (s.setSlot k n { sl with run := .ctl { go := g, issued := List.replicate nch 0, fin := List.replicate nch 0 } }))
    ∧ (∀ i g, i ∈ [Instr.ctlS w m own, .ctlP w m pm1 own, .ctlQ w m own] → sl.run = .idle → sl.right = some g → g.tt.isMarker = true →
      let s1 := s.setSlot k n (sl.put .right none)
      targetFree (s1.tile k) w.tga = true →
      exec i s = .next (deliverTok (s1.setSlot k n { sl.put .right none with run := .ctl { go := g, marker := true } }) k w.tga (some g)))
    ∧ (∀ r l, (decodeNode sl.word = .ok (.ctlS w m own) ∨ decodeNode sl.word = .ok (.ctlP w m pm1 own) ∨ decodeNode sl.word = .ok (.ctlQ w m own)) →
        sl.run = .ctl r → sl.left = some l → l.tt.isMarker = true →
        let s1 := fun (run : SlotRun) => s.setSlot k n { sl.put .left none with run := run }
        (r.marker = true → l.tt = r.go.tt → r.back + 1 < nch → exec .ctlDone s = .next (s1 (.ctl { r with back := r.back + 1 })))
        ∧ (r.marker = true → l.tt = r.go.tt → nch ≤ r.back + 1 → targetFree ((s1 (.ctl r)).tile k) w.tgb = true →
            exec .ctlDone s = .next (deliverTok (noteMarker (s1 .idle) k n l) k w.tgb (some l)))
        ∧ (r.marker = false ∨ l.tt ≠ r.go.tt → exec .ctlDone s = .next (raiseTrap s (slotSite s k n) 0x01 0)))
    ∧ (∀ l, (decodeNode sl.word = .ok (.ctlS w m own) ∨ decodeNode sl.word = .ok (.ctlP w m pm1 own) ∨ decodeNode sl.word = .ok (.ctlQ w m own)) →
        sl.run = .idle ∨ (∃ r, sl.run = .ctl r ∧ r.marker = true) → sl.left = some l → l.tt = .data ∨ l.tt = .control →
        exec .ctlDone s = .next (raiseTrap s (slotSite s k n) 0x0B ((Word.lane l.pay 0).setWidth 64)))
    ∧ (∀ r c it ch, sl.run = .ctl r → r.marker = false →
        let count := goCount r.go
        ((decodeNode sl.word = .ok (.ctlS w m own) ∧ r.issued.sum = r.fin.sum ∧ r.issued.sum < count * nch ∧ c = r.issued.sum % nch ∧ it = r.issued.sum / nch)
          ∨ (decodeNode sl.word = .ok (.ctlP w m pm1 own) ∧ c < nch ∧ it = r.issued.getD c 0
              ∧ (∀ x, x ≤ c → (x = c ↔ (r.issued.getD x 0 < count ∧ r.issued.getD x 0 - r.fin.getD x 0 < pm1.toNat + 1 ∧ (x = 0 ∨ r.issued.getD x 0 < r.fin.getD (x - 1) 0)))))
          ∨ (decodeNode sl.word = .ok (.ctlQ w m own) ∧ count ≠ 0 ∧ c < nch ∧ it = count ∧ (∀ x, x ≤ c → (x = c ↔ r.issued.getD x 0 = 0)))) →
        ch = { r with issued := r.issued.set c (r.issued.getD c 0 + 1) } → targetFree (s.tile k) w.tga = true →
        exec .ctlPermit s = .next (deliverTok (s.setSlot k n { sl with run := .ctl ch }) k w.tga
          (some { tt := .control, tag := r.go.tag, pay := BitVec.ofNat 512 (c + 2 ^ 32 * (it % 2 ^ 32)), hb := pastOf s [r.go] })))
    ∧ (∀ r l, (decodeNode sl.word = .ok (.ctlS w m own) ∨ decodeNode sl.word = .ok (.ctlP w m pm1 own) ∨ decodeNode sl.word = .ok (.ctlQ w m own)) →
        sl.run = .ctl r → r.marker = false →
        let c := (Word.lane l.pay 0).toNat
        (sl.left = some l → l.tt = .data ∨ l.tt = .control →
          (c < nch → r.fin.getD c 0 < r.issued.getD c 0 → ∃ t, exec .ctlDone s = .next t ∧ (t.slot k n).left = none ∧ (t.slot k n).right = sl.right
            ∧ (t.slot k n).run = .ctl { r with fin := r.fin.set c (r.fin.getD c 0 + 1), go := r.go.after (pastOf s [l]) })
          ∧ (nch ≤ c ∨ r.issued.getD c 0 ≤ r.fin.getD c 0 → exec .ctlDone s = .next (raiseTrap s (slotSite s k n) 0x0B ((Word.lane l.pay 0).setWidth 64))))
        ∧ (sl.left = none →
            (goCount r.go = 0
              ∨ (decodeNode sl.word = .ok (.ctlS w m own) ∧ r.fin.sum = goCount r.go * nch)
              ∨ (decodeNode sl.word = .ok (.ctlP w m pm1 own) ∧ goCount r.go ≤ r.fin.getD (nch - 1) 0)
              ∨ (decodeNode sl.word = .ok (.ctlQ w m own) ∧ ∀ x, x < nch → r.fin.getD x 0 = 1)) →
            let s1 := s.setSlot k n { sl.put .right none with run := .idle }
            targetFree (s1.tile k) w.tgb = true →
            exec .ctlDone s = .next (deliverTok s1 k w.tgb
              (some { tt := .control, tag := r.go.tag, pay := BitVec.ofNat 512 own.toNat, hb := pastOf s [r.go] }))))

/-- R136, R120: a join whose arcs all hold a token consumes them all; its releases wait in the slot to leave in order, each on the route of its own arc with TT 010, or for `one` the token of arc 0 on o(RBASE), which lowers the census by N - 1. A fault token leaves as it is, and for `one` in place of arc 0's. R137, R138, R292: `fence.sc` sends l unchanged once the accesses that happen before it are performed at its scope, and holds it until then; the sluices buffer up to D tokens and pass them on in order, a sending one only once its release is done: `sluice.loc` lets its oldest token leave to both targets under TOKEN_DELIVER, `sluice.xr.snd` lets it into the pair's window, `sluice.xr.rcv` sends on the oldest of its buffer. A join whose arcs hold one kind of marker releases the marker and no census changes; other mixes of markers trap MARK_SKEW (with a fault token: log 143). (When a release completes, `released`, is the model's reading: log 31.) -/
def Obligations.NodeJoinFenceAndSluice : Prop :=
  (
  ∀ (s : State) (k : TileKey) (n : Nat) (w : NodeOp) (one : Bool) (vbase : BitVec 5) (rbase nm1 : BitVec 4) (toks : List Tok),
    SlotAt s k n → (s.slot k n).run = .join (toks.map some) → toks.length = nm1.toNat + 1 → vbase.toNat + nm1.toNat + 1 ≤ 32 → w.tga = .none →
    let mk := ∃ t ∈ toks, t.tt.isMarker = true
    let r := s.regionOf k
    let c := (s.region r).census
    let out := fun (t : Tok) => if t.tt = .fault ∨ t.tt.isMarker = true then t else { t with tt := .control }
    ((∀ t ∈ toks, t.tt ≠ .resume) → mk → (∃ t ∈ toks, ∃ u ∈ toks, t.tt ≠ u.tt) →
      exec (.join w one vbase rbase nm1) s = .next (raiseTrap s (slotSite s k n) 0x01 0))
    ∧ ((∀ t ∈ toks, t.tt = .data ∨ t.tt = .control ∨ t.tt = .fault) ∨ (mk ∧ ∀ t ∈ toks, ∀ u ∈ toks, t.tt = u.tt) →
    (one = true → ¬mk → nm1.toNat ≤ c) → 0 ≤ c → c ≤ 2147483647 →
      ∃ t, exec (.join w one vbase rbase nm1) s = .next t
        ∧ (t.slot k n).run = .join (List.replicate (nm1.toNat + 1) none)
        ∧ (one = true → ¬mk → (t.region r).census = c - nm1.toNat) ∧ (one = false ∨ mk → (t.region r).census = c)
        ∧ (one = false → (t.slot k n).out.length = nm1.toNat + 1
            ∧ ∀ i x, toks[i]? = some x → ∃ y, (t.slot k n).out[i]? = some (Emit.mk (.route (BitVec.ofNat 4 (rbase.toNat + i))) { tok := y }) ∧ y.Like (out x))
        ∧ (one = true → ∃ y, (t.slot k n).out = [{ dst := .route rbase, parcel := { tok := y } }] ∧ y.Like (out ((toks.find? (fun x => x.tt == .fault)).getD (toks.headD {}))))))
  ∧ (
  ∀ (s : State) (k : TileKey) (n : Nat) (w : NodeOp) (o : Opnds) (scope : BitVec 3) (pair : BitVec 7) (dm1 : BitVec 4) (l : Tok) (ts : List Tok),
    let r := s.regionOf k
    (NodeAt s k n (formOf (.fenceSc w scope)) o →
      (released s (slotPast s k n (formOf (.fenceSc w scope))) scope = true → exec (.fenceSc w scope) s = .next (syncEvent (fireTo s k n (formOf (.fenceSc w scope)) (some o.l) (some o.l)) r))
      ∧ (released s (slotPast s k n (formOf (.fenceSc w scope))) scope = false → exec (.fenceSc w scope) s = .next s))
    ∧ (SlotAt s k n → l.tt ≠ .resume →
        let sl := s.slot k n
        let i := Instr.sluiceLocSnd w scope pair dm1
        sl.left = some l → sl.run = .sluice ts ∨ (sl.run = .idle ∧ ts = []) →
        (ts.length ≤ dm1.toNat → ∃ t, exec i s = .next t ∧ (t.slot k n).left = (if w.lk then some l else none) ∧ (t.slot k n).run = .sluice (ts ++ [l]))
        ∧ (dm1.toNat < ts.length → exec i s = .next s))
    ∧ (SlotAt s k n → l.tt ≠ .resume →
        let i := Instr.sluiceXrSnd w scope pair dm1
        (s.slot k n).left = some l → (s.region r).windows.getD pair.toNat [] = ts →
        (ts.length ≤ dm1.toNat → released s (pastOf s [l]) scope = true →
          ∃ t, exec i s = .next t ∧ (t.slot k n).left = (if w.lk then some l else none) ∧ (t.region r).windows.getD pair.toNat [] = ts ++ [l])
        ∧ (dm1.toNat < ts.length ∨ released s (pastOf s [l]) scope = false → exec i s = .next s))
    ∧ (SlotAt s k n → (s.slot k n).run = .sluice (l :: ts) →
        let s1 := s.setSlot k n { s.slot k n with run := .sluice ts }
        targetFree (s.tile k) w.tga = true → targetFree (s.tile k) w.tgb = true →
        exec (.sluiceXrRcv w scope pair dm1) s = .next (sendBoth (noteMarker s1 k n l) k n w.tga w.tgb (some l) (some l)))
    ∧ (s.focus = .place (.slot k n) → s.tileRuns k = true →
        let sl := s.slot k n
        let s1 := s.setSlot k n { sl with run := .sluice ts }
        decodeNode sl.word = .ok (.sluiceLocSnd w scope pair dm1) → sl.stopped = false → sl.out = [] → sl.pend = [] → sl.run = .sluice (l :: ts) →
        targetFree (s.tile k) w.tga = true → targetFree (s.tile k) w.tgb = true →
        (released s (pastOf s [l]) scope = true → exec .tokenDeliver s = .next (sendBoth s1 k n w.tga w.tgb (some l) (some l)))
        ∧ (released s (pastOf s [l]) scope = false → exec .tokenDeliver s = .next s)))

/-! ### Scratchpad nodes -/

/-- R141 to R143: with no acquiring `spatom` under way, `spld` gathers a word for each enabled lane, or 64 bytes from lane 0 for `blk`; an address that is misaligned or does not lie in the usable scratchpad traps SP_ADDR with its lane, and nothing moves. R141 to R143: `spst` scatters the enabled lanes of r, the highest lane remaining at equal addresses, or 64 bytes for `blk`; every other byte of the scratchpads keeps its value, and a control token with l's TAG and SEQ leaves; its addresses trap SP_ADDR as those of `spld` do, and a store into the owner range traps SP_OWNED. Of the requesters that the memory node may serve, the oldest-ready is served first. R307, R308: with the race check on, an access one of whose words outside the owner range was last written by another TAG in the same sync phase traps RACE with that word, and nothing is performed; an acquiring load adds 1 to SPH before its check; a store gives the words it writes its TAG and SPH as their shadow. (That an access which traps RACE makes no sync event, and that a resumed one is performed once unchecked, is the model's choice: log 27.) -/
def Obligations.ScratchLoadAndStore : Prop :=
  (
  ∀ (s : State) (k : TileKey) (n : Nat) (w : NodeOp) (o : Opnds) (ord : BitVec 2) (blk : Bool) (scope : BitVec 3),
    let i := Instr.spld w ord blk scope
    let addr := fun (j : Nat) => (Word.lane o.l.pay j).toNat
    let ws := if blk then blkWords o.l.pay else laneWords w o.l.pay o.p.pay
    let word := fun (a : Nat) => (Word.ofBytes 32 (Mem.readN s.scratch (k * 524288 + a) 4) : Lane)
    let past := if ordAcq ord && wideScope scope then syncPast s (wordKeys k ws) else []
    let shadow := fun (a : Nat) => s.shadow.getD (k * 524288 + a) 0xFFFF00
    let sph := (s.region (s.regionOf k)).sph + (if ordAcq ord then 1 else 0)
    let races := fun (x : Nat × Lane) => inOwner (s.tile k) x.2.toNat = false ∧ (shadow x.2.toNat).extractLsb' 8 16 ≠ 0xFFFF ∧ (shadow x.2.toNat).extractLsb' 8 16 ≠ o.l.tag
      ∧ (shadow x.2.toNat).extractLsb' 0 8 = sph
    NodeAt s k n (formOf i) o → acqHeld (s.tile k) = false → ownerOpen s k (s.slot k n).rounds ws = true → memTurn s k n = true →
    ((∀ j, j < 16 → (blk = true ∧ j = 0 ∧ addr 0 % 64 = 0 ∧ addr 0 + 64 ≤ spLimit s k) ∨ (blk = true ∧ j ≠ 0)
          ∨ (blk = false ∧ (laneOn w o.p.pay j = true → addr j % 4 = 0 ∧ addr j + 4 ≤ spLimit s k))) →
        ((s.slot k n).once = false → s.race k = true → ∀ pre x post, ws = pre ++ x :: post → races x → (∀ y ∈ pre, ¬races y) →
          exec i s = .next (raiseTrap s (slotSite s k n) 0x10
            (o.l.tag ++ (shadow x.2.toNat).extractLsb' 8 16 ++ sph ++ (0 : BitVec 5) ++ BitVec.ofNat 19 x.2.toNat)))
        ∧ (eccHit s k ws = none → ((s.slot k n).once = true ∨ s.race k = false ∨ ∀ x ∈ ws, ¬races x) →
        ∃ a, exec i s = .next (fireTo (leaveLines ((syncIf (ordAcq ord) s k).setSlot k n { s.slot k n with once := false }) k n) k n (formOf i)
            (some ((resultTok o a).after past)) (some ((resultTok o a).after past)))
          ∧ (blk = true → ∀ j, j < 16 → Word.lane a j = word (addr 0 + 4 * j))
          ∧ (blk = false → Lanewise w o (fun j => word (addr j)) a)))
    ∧ (∀ j, blk = false → j < 16 → laneOn w o.p.pay j = true → (addr j % 4 ≠ 0 ∨ spLimit s k < addr j + 4) →
        (∀ x, x < j → laneOn w o.p.pay x = true → addr x % 4 = 0 ∧ addr x + 4 ≤ spLimit s k) →
        exec i s = .next (raiseTrap s (slotSite s k n) 0x0C (BitVec.ofNat 64 (j * 2 ^ 32 + addr j))))
    ∧ (blk = true → addr 0 % 64 ≠ 0 ∨ spLimit s k < addr 0 + 64 → exec i s = .next (raiseTrap s (slotSite s k n) 0x0C (BitVec.ofNat 64 (addr 0)))))
  ∧ (
  ∀ (s : State) (k : TileKey) (n : Nat) (w : NodeOp) (o : Opnds) (ord : BitVec 2) (blk : Bool) (scope : BitVec 3),
    let i := Instr.spst w ord blk scope
    let at_ := fun (j : Nat) => if blk then (Word.lane o.l.pay 0).toNat + 4 * j else (Word.lane o.l.pay j).toNat
    let on := fun (j : Nat) => j < 16 ∧ (blk = true ∨ laneOn w o.p.pay j = true)
    let good := fun (j : Nat) => at_ j % 4 = 0 ∧ at_ j + 4 ≤ spLimit s k
    let shadow := fun (x : State) (a : Nat) => x.shadow.getD (k * 524288 + a) 0xFFFF00
    let sph := (s.region (s.regionOf k)).sph
    let races := fun (j : Nat) => inOwner (s.tile k) (at_ j) = false ∧ (shadow s (at_ j)).extractLsb' 8 16 ≠ 0xFFFF ∧ (shadow s (at_ j)).extractLsb' 8 16 ≠ o.l.tag
      ∧ (shadow s (at_ j)).extractLsb' 0 8 = sph
    let quiet := (s.slot k n).once = true ∨ s.race k = false ∨ ∀ j, on j → ¬races j
    let inside := (blk = true → at_ 0 % 64 = 0) ∧ ∀ j, on j → good j
    NodeAt s k n (formOf i) o → memTurn s k n = true → acqHeld (s.tile k) = false →
    (ordRel ord = true → relHeld s k = false ∧ released s (slotPast s k n (formOf i)) scope = true) →
    (inside → (∀ j, on j → inOwner (s.tile k) (at_ j) = false) → Mem.wf s.scratch = true → quiet →
        ∃ s1 t, exec i s = .next t ∧ t = fireTo s1 k n (formOf i) (some { tt := .control, seq := o.l.seq, tag := o.l.tag }) (some { tt := .control, seq := o.l.seq, tag := o.l.tag })
          ∧ (∀ j, on j → (∀ x, on x → j < x → at_ x ≠ at_ j) → Word.ofBytes 32 (Mem.readN t.scratch (k * 524288 + at_ j) 4) = Word.lane o.r.pay j)
          ∧ (∀ a, (∀ j, on j → a < k * 524288 + at_ j ∨ k * 524288 + at_ j + 4 ≤ a) → Mem.read t.scratch a = Mem.read s.scratch a)
          ∧ (s.race k = true → (∀ j, on j → shadow t (at_ j) = o.l.tag ++ sph) ∧ ∀ a, (∀ j, on j → a ≠ at_ j) → shadow t a = shadow s a)
          ∧ t.dram = s.dram ∧ t.ram = s.ram ∧ t.host = s.host ∧ t.far = s.far)
    ∧ (inside → (∀ j, on j → inOwner (s.tile k) (at_ j) = false) → s.race k = true → (s.slot k n).once = false → ∀ j, on j → races j → (∀ x, on x → x < j → ¬races x) →
        exec i s = .next (raiseTrap s (slotSite s k n) 0x10
          (o.l.tag ++ (shadow s (at_ j)).extractLsb' 8 16 ++ sph ++ (0 : BitVec 5) ++ BitVec.ofNat 19 (at_ j))))
    ∧ (inside → ∀ j, on j → inOwner (s.tile k) (at_ j) = true → (∀ x, on x → x < j → inOwner (s.tile k) (at_ x) = false) →
        exec i s = .next (raiseTrap s (slotSite s k n) 0x0D (BitVec.ofNat 64 (j * 2 ^ 32 + at_ j))))
    ∧ (∀ j, blk = false → on j → ¬good j → (∀ x, on x → x < j → good x ∧ inOwner (s.tile k) (at_ x) = false) →
        exec i s = .next (raiseTrap s (slotSite s k n) 0x0C (BitVec.ofNat 64 (j * 2 ^ 32 + at_ j))))
    ∧ (blk = true → at_ 0 % 64 ≠ 0 ∨ spLimit s k < at_ 0 + 64 → exec i s = .next (raiseTrap s (slotSite s k n) 0x0C (BitVec.ofNat 64 (at_ 0)))))

/-- R143, R144: `spatom` hands its 16 lanes to the owner node in lane order and holds its result back; an address outside the usable scratchpad or the owner range traps SP_ADDR. OWNER_APPLY applies the oldest update to its word, the owner's only access, and gives the old value to its source; where the word has an uncorrectable error SP_ECC stops the source (R143, R296). (That the update is then not applied and no access is performed is the model's choice: log 115.) -/
def Obligations.OwnerNode : Prop :=
  ∀ (s : State) (k : TileKey) (n : Nat) (w : NodeOp) (o : Opnds) (ord : BitVec 2) (scope atop : BitVec 3),
    let past := slotPast s k n (formOf (.spatom w ord scope atop))
    let bad := fun (j : Nat) => (Word.lane o.l.pay j).toNat % 4 ≠ 0 ∨ spLimit s k < (Word.lane o.l.pay j).toNat + 4 ∨ inOwner (s.tile k) (Word.lane o.l.pay j).toNat = false
    (SlotAt s k n → gateOf (formOf (.spatom w ord scope atop)) (s.slot k n) = .go o → acqHeld (s.tile k) = false → ownTurn s k n = true →
      (ordRel ord = true → released s past scope = true) →
      ((∀ j, j < 16 → ¬bad j) →
        ∃ t, exec (.spatom w ord scope atop) s = .next t
          ∧ (t.tile k).own.queue = (s.tile k).own.queue ++ (List.range 16).map (fun j =>
              { src := n, lane := j, tag := o.l.tag, seq := o.l.seq, atop := atop, ty := ownTy w.ty, addr := Word.lane o.l.pay j, v := Word.lane o.r.pay j
                cmp := Word.lane o.p.pay j, reply := true, round := (s.slot k n).rounds + 1, no := s.sends })
          ∧ (t.slot k n).pend = (s.slot k n).pend ++ [{ tok := (resultTok o 0).after past, no := s.sends }] ∧ t.scratch = s.scratch)
      ∧ (∀ j, j < 16 → bad j → (∀ x, x < j → ¬bad x) →
          exec (.spatom w ord scope atop) s = .next (raiseTrap s (slotSite s k n) 0x0C (BitVec.ofNat 64 (j * 2 ^ 32 + (Word.lane o.l.pay j).toNat)))))
    ∧ (∀ u us, s.focus = .tile k → s.tiles.has k = true → (s.tile k).kind = .sp → s.tileRuns k = true → s.tempo k = false → (s.tile k).own.queue = u :: us →
        eccHit s k [(u.lane, u.addr)] = none → Mem.wf s.scratch = true →
        let word := fun (x : State) => (Word.ofBytes 32 (Mem.readN x.scratch (k * 524288 + u.addr.toNat) 4) : Lane)
        let old := word s
        ∃ t, exec .ownerApply s = .next t ∧ (t.tile k).own.queue = us
          ∧ (∀ a, a < k * 524288 + u.addr.toNat ∨ k * 524288 + u.addr.toNat + 4 ≤ a → Mem.read t.scratch a = Mem.read s.scratch a)
          ∧ (u.atop = 0 → word t = old + u.v)
          ∧ (u.atop = 1 → word t = if (if u.ty = 0 then u.v.slt old else u.v.ult old) then u.v else old)
          ∧ (u.atop = 2 → word t = if (if u.ty = 0 then old.slt u.v else old.ult u.v) then u.v else old)
          ∧ (u.atop = 3 → word t = u.v)
          ∧ (u.atop = 4 → word t = if old = u.cmp then u.v else old)
          ∧ (u.atop = 5 → word t = BitVec.ofNat 32 (Fp.add Fp.f32 .rn old.toNat u.v.toNat).bits)
          ∧ (u.src < 16 → ∃ ps, Pend.AllLike ps (s.slot k u.src).pend ∧ (t.slot k u.src).pend = pendLane ps u.no u.lane old)
          ∧ (u.src = 16 → (t.tile k).own.replies = pendKnown (s.tile k).own.replies u.no (fun x => { x with pay := old.setWidth 512 })))
    ∧ (∀ u us a, s.focus = .tile k → s.tiles.has k = true → (s.tile k).kind = .sp → s.tileRuns k = true → s.tempo k = false → (s.tile k).own.queue = u :: us →
        eccHit s k [(u.lane, u.addr)] = some a →
        ∃ t, exec .ownerApply s = .next t ∧ (t.tile k).own.queue = us ∧ t.scratch = s.scratch ∧ t.accs = s.accs
          ∧ (u.src < 16 → (t.slot k u.src).stopped = true) ∧ (16 ≤ u.src → (t.tile k).own.stopped = true))

/-- R300: in tempo mode a closing round applies every update of rounds up to it in ascending order of address and then of {TAG, SEQ, lane, source}, equals in their order of arrival, and leaves those of later rounds. R143, R145, R146: the owner node takes a well-made token of `sp.own`, `spown` sends its oldest reply once it is known, and the memory node answers a load request at `sp.q` with 15 words on the route it names. A malformed request traps SP_REQ. (The model's choices: it does so before SP_ADDR, log 154; bits of lane 15 above the route that are not zero are malformed, log 155; what a route that no slot targets is, log 157.) -/
def Obligations.OwnerRoundsAndPorts : Prop :=
  (
  ∀ (s : State) (k : TileKey) (us : List OwnUpd), s.focus = .tile k → s.tiles.has k = true → (s.tile k).kind = .sp → s.tileRuns k = true →
    s.tempo k = true → ownRoundCloses (s.tile k) = true →
    let r := (s.tile k).own.closed + 1
    let due := (s.tile k).own.queue.filter (fun u => u.round ≤ r)
    let key := fun (u : OwnUpd) => (u.addr.toNat, u.tag.toNat, u.seq.toNat, u.lane, u.src)
    (∀ u ∈ due, u.lane < 16 ∧ u.src < 32) →
    us.Pairwise (fun x y => ¬Prod.Lex (· < ·) (Prod.Lex (· < ·) (Prod.Lex (· < ·) (Prod.Lex (· < ·) (· < ·)))) (key y) (key x)) →
    (∀ v, us.filter (fun u => key u = v) = due.filter (fun u => key u = v)) →
    exec .tempoCommit s = .next (us.foldl (fun x u => ownApply x k u)
      (s.setTile k { s.tile k with own := { (s.tile k).own with queue := (s.tile k).own.queue.filter (fun u => r < u.round), closed := r } })))
  ∧ (
  ∀ (s : State) (k : TileKey),
    let t := s.tile k
    let atSp := s.focus = .tile k ∧ s.tiles.has k = true ∧ t.kind = .sp ∧ s.tileRuns k = true
    (∀ p, atSp → t.ports.get? 0x21 = some p → t.own.stopped = false → ownTurn s k 33 = true → p.tok.tt = .data ∨ p.tok.tt = .control →
        let l := Word.lane p.tok.pay
        (ownReqOk t p.tok.pay = true → (l 1).toNat % 4 = 0 → (l 1).toNat + 4 ≤ spLimit s k → inOwner t (l 1).toNat = true →
          ∃ t', exec .spOwnUpdate s = .next t' ∧ (t'.tile k).ports.get? 0x21 = none
            ∧ (t'.tile k).own.queue = t.own.queue ++ [OwnUpd.mk 16 0 p.tok.tag p.tok.seq ((l 0).extractLsb' 0 3) ((l 0).extractLsb' 3 2) (l 1) (l 2) (l 3) ((l 0).getLsbD 5) (t.own.ownRounds + 1) s.sends p.tok.acc]
            ∧ (t'.tile k).own.replies = t.own.replies ++ (if (l 0).getLsbD 5 then [{ tok := { seq := p.tok.seq, tag := p.tok.tag, hb := pastOf s [p.tok] }, no := s.sends }] else []))
        ∧ (ownReqOk t p.tok.pay = false → exec .spOwnUpdate s = .next (raiseTrap s (unitSite s k 0x21 0 (some p.tok)) 0x0E 0)))
    ∧ (∀ n w y x xs, SlotAt s k n → t.own.replies = y :: xs → y.done = some x → targetFree t w.tga = true → targetFree t w.tgb = true →
        exec (.spown w) s = .next (sendBoth (s.setTile k { t with own := { t.own with replies := xs } }) k n w.tga w.tgb (some x) (some x)))
    ∧ (∀ p, atSp → t.ports.get? 0x20 = some p → t.own.qStopped = false → memTurn s k 32 = true → p.tok.tt = .data ∨ p.tok.tt = .control →
        let rt := (Word.lane p.tok.pay 15).toNat % 16
        let ws := (List.range 15).map (fun j => (j, Word.lane p.tok.pay j))
        ((Word.lane p.tok.pay 15).toNat < 16 → unitRoute t rt = true → routeFree t rt = true →
          (∀ j, j < 15 → (Word.lane p.tok.pay j).toNat % 4 = 0 ∧ (Word.lane p.tok.pay j).toNat + 4 ≤ spLimit s k) →
          s.race k = false → acqHeld t = false → ownerOpen s k t.own.qRounds ws = true → eccHit s k ws = none →
          ∃ s1 a, exec .spQRequest s = .next (deliver s1 k (.route (BitVec.ofNat 4 rt)) { tok := { tt := .data, seq := p.tok.seq, tag := p.tok.tag, pay := a, hb := pastOf s [p.tok] } })
            ∧ (s1.tile k).ports.get? 0x20 = none
            ∧ (∀ j, j < 15 → Word.lane a j = Word.ofBytes 32 (Mem.readN s.scratch (k * 524288 + (Word.lane p.tok.pay j).toNat) 4)) ∧ Word.lane a 15 = 0)
        ∧ (16 ≤ (Word.lane p.tok.pay 15).toNat ∨ unitRoute t rt = false → exec .spQRequest s = .next (raiseTrap s (unitSite s k 0x20 0 (some p.tok)) 0x0E 0))))

/-! ### Translation, port and block nodes -/

/-- R148, R149, R336: `xlat` queues its operand, whose result is known at once where the PT and die caches hold every page, and otherwise when TRANSLATION_FILL has the map's entries; the result is a data token of physical addresses, or a fault token in which a failed element carries its class. `gaddr` sends l with the count of the slot's firings as SEQ, `resume` a resume token with lane 0. INVALIDATION_COMPLETE leaves no cache with the page's entry and keeps the others. -/
def Obligations.PortNodes : Prop :=
  ∀ (s : State) (k : TileKey) (n : Nat) (w : NodeOp) (o : Opnds) (acc : Bool),
    let c := s.ctxOf k
    let sl := s.slot k n
    let va := fun (p : Payload) (j : Nat) => Word.a64 p j
    let elem := fun (v : BitVec 64) (e : Option (BitVec 128)) =>
      if v.toNat / 2 ^ 56 ≠ 0 then some (1 : BitVec 4) else match e with
      | none => some 1
      | some e => if (acc = false ∧ MapEntry.r e = false) ∨ (acc = true ∧ MapEntry.w e = false) then some 2
          else if MapEntry.far e = true ∨ MapEntry.transit e = true then some 3 else none
    let answers := fun (p : Payload) (find : Nat → Option (BitVec 128)) (t : Tok) =>
      (t.tt = .data ↔ ∀ j, j < 8 → elem (va p j) (find (vaVpn (va p j))) = none) ∧ (t.tt = .data ∨ t.tt = .fault)
      ∧ ∀ j, j < 8 → (∀ x, elem (va p j) (find (vaVpn (va p j))) = some x → va t.pay j = x ++ (0 : BitVec 4) ++ ((va p j).setWidth 56))
          ∧ (∀ e, elem (va p j) (find (vaVpn (va p j))) = none → find (vaVpn (va p j)) = some e →
              va t.pay j = paOf (MapEntry.crn e) (MapEntry.page e * 2 ^ 21 + (va p j).toNat % 2 ^ 21))
    (SlotAt s k n → gateOf (formOf (.xlat w acc)) sl = .go o →
      ∃ t d, exec (.xlat w acc) s = .next t ∧ (t.slot k n).pend = sl.pend ++ [{ tok := (resultTok o o.l.pay).after (slotPast s k n (formOf (.xlat w acc))), done := d }]
        ∧ (d.isSome = true ↔ ∀ j, j < 8 → (va o.l.pay j).toNat / 2 ^ 56 ≠ 0 ∨ (cacheFind s k c (vaVpn (va o.l.pay j))).isSome = true)
        ∧ ∀ x, d = some x → answers o.l.pay (cacheFind s k c) x ∧ x.tag = o.head.tag ∧ x.seq = o.head.seq)
    ∧ (∀ done_ p rest, s.focus = .slot k n → (s.tile k).slots.has n = true → decodeNode sl.word = .ok (.xlat w acc) →
        sl.pend = done_ ++ p :: rest → (∀ x ∈ done_, x.done.isSome = true) → p.done = none →
        ∃ t x, exec .translationFill s = .next t ∧ (t.slot k n).pend = done_ ++ { p with done := some x } :: rest
          ∧ answers p.tok.pay (fun v => (mapFind s c v).map Prod.snd) x ∧ x.tag = p.tok.tag ∧ x.seq = p.tok.seq)
    ∧ (NodeAt s k n (formOf (.gaddr w)) o →
        exec (.gaddr w) s = .next (fireTo (s.setSlot k n { sl with run := .gaddr (gaddrCount sl.run + 1) }) k n (formOf (.gaddr w))
          (some { o.l with seq := BitVec.ofNat 8 (gaddrCount sl.run) }) none))
    ∧ (NodeAt s k n (formOf (.resume w)) o →
        ∃ p, exec (.resume w) s = .next (fireTo s k n (formOf (.resume w)) (some { tt := .resume, seq := o.l.seq, tag := o.l.tag, pay := p }) none)
          ∧ Word.lane p 0 = Word.lane o.l.pay 0 ∧ ∀ j, 1 ≤ j → j < 16 → Word.lane p j = 0)
    ∧ (∀ x v, s.focus = .page x v → ∃ t, exec .invalidationComplete s = .next t
        ∧ (∀ i e, e ∈ (t.port i).cache ↔ e ∈ (s.port i).cache ∧ entryFor x v e = false)
        ∧ (∀ i e, e ∈ t.dieCache.getD i [] ↔ e ∈ s.dieCache.getD i [] ∧ entryFor x v e = false))

/-- R150, R153: a block node sends its request to the engine of the stack that lane 15 names and awaits the result, with at most 16 outstanding; a malformed request, or one that names no stack, has the status ARG at once. R153, R270, R346: the engine in focus serves the request whose turn it is and the slot has its result; a request for an evicted table of its context begins its restore first, on a rider entry at the table reach's landing, and TABLE_RESTORE makes that table resident again once its ride has read it. (A ride takes its units at the laps of the landing: log 128.) -/
def Obligations.BlockNodesAndEngine : Prop :=
  (
  ∀ (s : State) (k : TileKey) (n : Nat) (w : NodeOp) (o : Opnds) (i : Instr), i ∈ [.balloc w, .bfree w, .bappend w, .blook w, .btrim w] →
    SlotAt s k n → gateOf (formOf i) (s.slot k n) = .go o →
    let e := (Word.lane o.l.pay 15).toNat
    let t0 := (resultTok o o.l.pay).after (slotPast s k n (formOf i))
    ((s.slot k n).pend.length < 16 → blockArgsOk (formOf i).opc o.l.pay = true →
        ∃ t, exec i s = .next t ∧ e < 24 ∧ (t.slot k n).pend = (s.slot k n).pend ++ [{ tok := t0 }]
          ∧ (t.base e).reqs = (s.base e).reqs ++ [.node k n (s.launchOf k) (s.ctxOf k) ((s.slot k n).rounds + 1) (formOf i).opc t0])
    ∧ ((s.slot k n).pend.length < 16 → blockArgsOk (formOf i).opc o.l.pay = false →
        ∃ t p, exec i s = .next t ∧ (t.slot k n).pend = (s.slot k n).pend ++ [{ tok := t0, done := some { t0 with pay := p } }] ∧ t.bases = s.bases
          ∧ Word.lane p 0 = 7 ∧ ∀ j, 1 ≤ j → j < 16 → Word.lane p j = 0)
    ∧ (24 ≤ e → blockArgsOk (formOf i).opc o.l.pay = false)
    ∧ (16 ≤ (s.slot k n).pend.length → exec i s = .next s))
  ∧ (
  ∀ (s : State) (n i : Nat), n < 24 →
    let b := s.base n
    let rest := { b with reqs := b.reqs.eraseIdx i }
    (∀ k slot l c round opc t, s.focus = .engine n i → b.reqs[i]? = some (.node k slot l c round opc t) → reqTurn s b i = true →
      (needsRestore s b (.node k slot l c round opc t) = none →
        let r := serveReq rest c opc t.pay
        exec .blockEngineServe s = .next (slotResult (setEngine s n r.1) l k slot t r.2))
      ∧ (∀ sq, needsRestore s b (.node k slot l c round opc t) = some sq → (restoreTable b sq).isSome = true → (s.landing (n * 64 + 63)).riders.length < 64 →
          ∃ t1, exec .blockEngineServe s = .next t1 ∧ t1.base n = { b with restoring := sq :: b.restoring }
            ∧ (t1.landing (n * 64 + 63)).riders.length = (s.landing (n * 64 + 63)).riders.length + 1 ∧ t1.tiles = s.tiles))
    ∧ (∀ t b1, s.focus = .engine n i → i ∈ b.restoring → tableRead s n i = true → b.evicted.get? i = some t → restoreTable b i = some b1 →
        exec .tableRestore s = .next (endRestore (setEngine s n b1) n i)
          ∧ ∃ x, b1.seqs.get? i = some x ∧ x.ctx = t.ctx ∧ x.pool = t.pool ∧ i ∉ b1.restoring
            ∧ ∀ g y, t.groups.get? g = some y → (t.groups.map Prod.fst).Nodup → ∃ z, x.groups.get? g = some z ∧ z.leaf = y.leaf ∧ z.policy = y.policy)
    ∧ (s.focus = .engine n i → (∃ r ∈ (s.landing (n * 64 + 63)).riders, r.kind = .table ∧ r.start = i ∧ (r.want ≠ [] ∨ r.dead = true)) → exec .tableRestore s = .next s))

/-- R151, R152, R344: what the engine does for each request, as one indivisible step; a request that fails changes nothing. A sequence whose pool is not there, or is another context's, answers NOPOOL to `bappend`. `btrim` makes every block that it takes from the leaf free in the sequence's pool, and changes no other block, leaf or table. -/
def Obligations.BlockRequests : Prop :=
  ∀ (b : Stack) (c : Nat) (p : Payload),
    let a := fun (j : Nat) => (Word.lane p j).toNat
    let lowest := fun (x : Pool) (id : Nat) => id < 32 * x.npages ∧ id ∉ x.used ∧ ∀ y, y < id → y ∈ x.used
    let res := fun (opc : BitVec 8) => (serveReq b c opc p).2
    let st := fun (opc : BitVec 8) => (serveReq b c opc p).1
    (∀ opc, (res opc).status ≠ 0 → st opc = b)
    ∧ (∀ x id, b.pools.get? (a 0) = some x → x.ctx = c → lowest x id → res 0xB8 = ⟨0, id, 0, 0⟩ ∧ st 0xB8 = { b with pools := b.pools.put (a 0) { x with used := id :: x.used } })
    ∧ (∀ x, b.pools.get? (a 0) = some x → x.ctx = c → (∀ y, y < 32 * x.npages → y ∈ x.used) → (res 0xB8).status = 2)
    ∧ ((∀ x, b.pools.get? (a 0) = some x → x.ctx ≠ c) → (res 0xB8).status = 5 ∧ (res 0xB9).status = 5)
    ∧ (∀ x, b.pools.get? (a 0) = some x → x.ctx = c → a 1 < 32 * x.npages →
        (a 1 ∈ x.used → res 0xB9 = ⟨0, a 1, 0, 0⟩ ∧ st 0xB9 = { b with pools := b.pools.put (a 0) { x with used := x.used.filter (· != a 1) } })
        ∧ (a 1 ∉ x.used → (res 0xB9).status = 6))
    ∧ (groupOf b c (a 0) (a 1) = none → (res 0xBA).status = 3 ∧ (res 0xBB).status = 3 ∧ (res 0xBC).status = 3)
    ∧ (∀ t g, groupOf b c (a 0) (a 1) = some (t, g) →
        ((∀ x, b.pools.get? t.pool = some x → x.ctx ≠ c) → (res 0xBA).status = 5)
        ∧ (∀ x, b.pools.get? t.pool = some x → x.ctx = c → 4096 ≤ g.leaf.length → (res 0xBA).status = 1)
        ∧ (∀ x id, g.leaf ≠ [] → g.leaf.length < 4096 → b.pools.get? t.pool = some x → x.ctx = c → lowest x id →
            res 0xBA = ⟨0, id, g.leaf.length, g.leaf.length + 1⟩
            ∧ (st 0xBA).pools = b.pools.put t.pool { x with used := id :: x.used }
            ∧ ((st 0xBA).seqs.getD (a 0) t).groups.get? (a 1) = some { g with leaf := g.leaf ++ [BitVec.ofNat 32 id] })
        ∧ (∀ id, g.leaf[a 2]? = some id → res 0xBB = ⟨0, id.toNat, a 2, g.leaf.length⟩ ∧ (st 0xBB).pools = b.pools)
        ∧ (g.leaf.length ≤ a 2 → (res 0xBB).status = 4)
        ∧ (g.leaf.length < a 2 → (res 0xBC).status = 4)
        ∧ (a 2 ≤ g.leaf.length → res 0xBC = ⟨0, g.leaf.length - a 2, a 2, a 2⟩
            ∧ (∃ y, ((st 0xBC).seqs.getD (a 0) t).groups.get? (a 1) = some y ∧ y.leaf = g.leaf.take (a 2) ∧ y.policy = g.policy)
            ∧ (∀ x, b.pools.get? t.pool = some x → ∃ z, (st 0xBC).pools.get? t.pool = some z ∧ z.ctx = x.ctx ∧ z.vpn = x.vpn ∧ z.npages = x.npages
                ∧ ∀ id, id ∈ z.used ↔ id ∈ x.used ∧ ∀ l ∈ g.leaf.drop (a 2), l.toNat ≠ id)
            ∧ (∀ n, n ≠ t.pool → (st 0xBC).pools.get? n = b.pools.get? n)
            ∧ (∀ q, q ≠ a 0 → (st 0xBC).seqs.get? q = b.seqs.get? q)
            ∧ (∀ n, n ≠ a 1 → ((st 0xBC).seqs.getD (a 0) t).groups.get? n = t.groups.get? n)
            ∧ (st 0xBC).evicted = b.evicted))

/-! ### The matrix unit -/

/-- R100: the six operation nodes stamp their MOP into bits [63:58] of l and send it as a control token; `rowtag` puts r lane 0 plus IMM16 into bits [15:0]; `rprog` gives RPROG in every lane. R92, R96, R97, R99: with no word running, the unit takes the control word at `mx.c`. One that fails its check traps MX_BADCTL and has no effect; MMA, MMA.ACC and LOADW begin to read lines; SWAPW exchanges two buffers, ZERO clears an accumulator; DRAIN makes its tokens ready. Every item not named keeps its value. A resume token at `mx.a` or `mx.w` traps BADTOKEN, whether or not a word reads that port. -/
def Obligations.MatrixNodesAndControlWords : Prop :=
  (
  ∀ (s : State) (k : TileKey) (n : Nat) (w : NodeOp) (o : Opnds) (imm : BitVec 16),
    let stamps := fun (i : Instr) (lo len : Nat) (v : Nat) => NodeAt s k n (formOf i) o →
      ∃ p, exec i s = .next (fireTo s k n (formOf i) (some { tt := .control, seq := o.head.seq, tag := o.head.tag, pay := p })
          (some { tt := .control, seq := o.head.seq, tag := o.head.tag, pay := p }))
        ∧ ∀ b, b < 512 → p.getLsbD b = if lo ≤ b ∧ b < lo + len then v.testBit (b - lo) else o.l.pay.getLsbD b
    stamps (.mma w) 58 6 0 ∧ stamps (.mmaAcc w) 58 6 1 ∧ stamps (.loadw w) 58 6 2 ∧ stamps (.swapw w) 58 6 3 ∧ stamps (.drain w) 58 6 4 ∧ stamps (.zero w) 58 6 5
    ∧ stamps (.rowtag w imm) 0 16 (((Word.lane o.r.pay 0).toNat % 2 ^ 16 + imm.toNat) % 2 ^ 16)
    ∧ (NodeAt s k n (formOf (.rprog w)) o → ∃ a, Fires (.rprog w) s k n o a a ∧ ∀ j, j < 16 → Word.lane a j = (s.tile k).mx.rprog.setWidth 32))
  ∧ (
  ∀ (s : State) (k : TileKey) (p : Parcel),
    let t := s.tile k
    let u := t.mx
    let c : Word64 := p.tok.pay.extractLsb' 0 64
    let after := fun (h : List Nat) (es : List Emit) => es.map fun e => { e with parcel := { e.parcel with tok := e.parcel.tok.after h } }
    let mops : List (Nat × Instr) := [(0, .mxMma), (1, .mxMmaAcc), (2, .mxLoadw), (3, .mxSwapw), (4, .mxDrain), (5, .mxZero)]
    let lines := fun (q : Nat) => ∀ y, t.ports.get? q = some y → y.tok.tt ≠ .resume
    s.focus = .tile k → s.tiles.has k = true → t.kind = .mx → s.tileRuns k = true → u.stopped = false →
    (∀ q x m i, q < 2 → t.ports.get? q = some x → x.tok.tt = .resume → (∀ y, y < q → lines y) → (m, i) ∈ mops →
      exec i s = .next (raiseTrap s (unitSite s k q ((u.run.map (·.ctl)).getD 0) (some x.tok)) 0x02 0)) ∧
    (lines 0 → lines 1 → u.run = none → t.ports.get? 2 = some p → p.tok.tt = .data ∨ p.tok.tt = .control →
    (MxCtl.ok t c = false → ∀ m i, (m, i) ∈ mops → exec i s = .next (raiseTrap s (unitSite s k 2 c (some p.tok)) 0x03 0))
    ∧ (MxCtl.ok t c = true → ∀ m i, (m, i) ∈ mops → m = c.toNat / 2 ^ 58 →
        ∃ s', exec i s = .next s' ∧ (s'.tile k).ports.get? 2 = none ∧ (s'.tile k).mx.rprog = u.rprog
          ∧ (m < 3 → (s'.tile k).mx = { u with run := some { ctl := c, hb := pastOf s [p.tok] } })
          ∧ (m = 3 → (s'.tile k).mx.acc = u.acc ∧ (s'.tile k).mx.run = none ∧ ∀ b e, e < 1024 →
              (s'.tile k).mx.w.getD (b * 1024 + e) 0 = u.w.getD ((if b = MxCtl.wsel c then MxCtl.wsel c ^^^ 1 else if b = MxCtl.wsel c ^^^ 1 then MxCtl.wsel c else b) * 1024 + e) 0)
          ∧ (m = 4 → (s'.tile k).mx.acc = u.acc ∧ (s'.tile k).mx.w = u.w ∧ (s'.tile k).mx.run = some { ctl := c, hb := pastOf s [p.tok], out := after (pastOf s [p.tok]) (drainEmits t c), drains := true }
              ∧ (s'.tile k).mx.lastRoute = some (MxCtl.drt c))
          ∧ (m = 5 → (s'.tile k).mx.w = u.w ∧ (s'.tile k).mx.run = none ∧ ∀ x,
              (s'.tile k).mx.acc.getD x 0 = if x / 1024 = MxCtl.asel c then 0 else u.acc.getD x 0))))

/-- R93 to R95, R99: one line of a running word. MMA starts each output of the line from +0 or from the accumulator and adds its blocks of 16 products with one rounding each, sets RPROG to the line's row tag, and after its last line MMA.ACC drains; LOADW writes K elements of a line. Other entries keep their values. A fault token that arrives at `mx.c` meanwhile traps MX_FAULTIN with the line reached, before the line is done. R97: the tokens of a drain, in order: row by row, with TAG ROWTAG + i and SEQ 2 * CBI + h; a selector token before each row when PSEL is not 0; F32 as ceil(N / 16) tokens, BF16 as one, and zero from column N on. R99: a marker at `mx.c` leaves on the route of the most recent drain, or is discarded when there was none. R55: a line of up to 16 products makes one exact sum, with its signed zero, its NaNs and infinities, which is added with one rounding in RN; a longer line takes its first 16 products and then the rest. -/
def Obligations.MatrixLinesAndDrains : Prop :=
  (
  ∀ (s : State) (k : TileKey) (r : MxRun) (x : LineRead),
    let t := s.tile k
    let u := t.mx
    let c := r.ctl
    let m := MxCtl.mop c
    let p := t.ports.get? (mxPort t c)
    let lines := if m = 2 ∨ mxSmode t = false then MxCtl.m c else MxCtl.n c
    let past := if x.take then hbJoin r.hb (pastOf s ((p.map (·.tok)).toList)) else r.hb
    let after := fun (es : List Emit) => es.map fun e => { e with parcel := { e.parcel with tok := e.parcel.tok.after past } }
    let quiet := ∀ y, t.ports.get? 2 = some y → y.tok.tt ≠ .fault ∧ y.tok.tt ≠ .resume
    (∀ q y, q < 2 → t.ports.get? q = some y → y.tok.tt ≠ .resume) →
    s.focus = .tile k → s.tiles.has k = true → t.kind = .mx → s.tileRuns k = true → u.stopped = false → u.run = some r → r.drains = false →
    (∀ y, p = some y → y.tok.tt = .data ∨ y.tok.tt = .control) → readLine t (MxCtl.k c) r.blocks p = some x → r.line < 32 →
    ∀ i, (m = 0 ∧ i = Instr.mxMma) ∨ (m = 1 ∧ i = .mxMmaAcc) ∨ (m = 2 ∧ i = .mxLoadw) →
    (∀ y, t.ports.get? 2 = some y → y.tok.tt = .fault →
      exec i s = .next (raiseTrap s (unitSite s k 2 (y.tok.pay.extractLsb' 0 64) (some y.tok)) 0x04 (BitVec.ofNat 64 r.line)))
    ∧ (quiet → ∃ s', exec i s = .next s'
      ∧ (x.take = true → (s'.tile k).ports.get? (mxPort t c) = none)
      ∧ (r.line + 1 < lines → (s'.tile k).mx.run = some { r with line := r.line + 1, blocks := x.blocks, hb := past })
      ∧ (lines ≤ r.line + 1 → m ≠ 1 → (s'.tile k).mx.run = none)
      ∧ (lines ≤ r.line + 1 → m = 1 → (s'.tile k).mx.run = some { ctl := c, hb := past, out := after (drainEmits (s'.tile k) c), drains := true } ∧ (s'.tile k).mx.lastRoute = some (MxCtl.drt c))
      ∧ (m < 2 → (s'.tile k).mx.w = u.w ∧ (s'.tile k).mx.rprog = MxCtl.rowtag c + BitVec.ofNat 16 r.line
          ∧ ∀ a ii jj, a < 2 → ii < 32 → jj < 32 → (s'.tile k).mx.acc.getD ((a * 32 + ii) * 32 + jj) 0 =
              let old := u.acc.getD ((a * 32 + ii) * 32 + jj) 0
              let other := if mxSmode t then ii else jj
              if a = MxCtl.asel c ∧ (if mxSmode t then jj = r.line ∧ ii < MxCtl.m c else ii = r.line ∧ jj < MxCtl.n c) then
                accumulate (if MxCtl.acc c then old else 0) ((List.range (MxCtl.k c)).map fun e => (x.xs.getD e 0, u.w.getD ((MxCtl.wsel c * 32 + other) * 32 + e) 0))
              else old)
      ∧ (m = 2 → (s'.tile k).mx.acc = u.acc ∧ (s'.tile k).mx.rprog = u.rprog
          ∧ ∀ b q e, q < 32 → e < 32 → (s'.tile k).mx.w.getD ((b * 32 + q) * 32 + e) 0 =
              if b = MxCtl.wsel c ∧ q = r.line ∧ e < MxCtl.k c then x.xs.getD e 0 else u.w.getD ((b * 32 + q) * 32 + e) 0)))
  ∧ (
  ∀ (t : Tile) (c : Word64) (i : Nat),
    let u := t.mx
    let tag := MxCtl.rowtag c + BitVec.ofNat 16 i
    let seq := fun (h : Nat) => BitVec.ofNat 8 (2 * (MxCtl.cbi c).toNat + h)
    let data := drainRow t c i
    let body := if MxCtl.psel c = 0 then data else data.tail
    drainEmits t c = (List.range (MxCtl.m c)).flatMap (fun j => (drainRow t c j).map (fun x => Emit.mk (.route (MxCtl.drt c)) { tok := x }))
    ∧ (MxCtl.psel c ≠ 0 → data.head? = some { tt := .control, tag := tag, seq := (MxCtl.cbi c).setWidth 8, pay := (MxCtl.psel c).setWidth 512 })
    ∧ ((unit0 t).extractLsb' 51 4 = 2 → body.length = (MxCtl.n c + 15) / 16 ∧ ∀ h x, body[h]? = some x → x.tt = .data ∧ x.tag = tag ∧ x.seq = seq h
        ∧ ∀ l, l < 16 → Word.lane x.pay l = if 16 * h + l < MxCtl.n c then u.acc.getD ((MxCtl.asel c * 32 + i) * 32 + 16 * h + l) 0 else 0)
    ∧ ((unit0 t).extractLsb' 51 4 ≠ 2 → body.length = 1 ∧ ∀ x, body[0]? = some x → x.tt = .data ∧ x.tag = tag ∧ x.seq = seq 0
        ∧ ∀ j, j < 32 → elemAt 16 x.pay j = if j < MxCtl.n c then
            (Fp.narrow ((RMode.ofCode ((unit0 t).extractLsb' 48 3)).getD .rn) (u.acc.getD ((MxCtl.asel c * 32 + i) * 32 + j) 0).toNat).bits % 2 ^ 16 else 0)
    ∧ ∀ (s : State) (k : TileKey) (p : Parcel), s.focus = .tile k → s.tiles.has k = true → s.tile k = t → t.kind = .mx → s.tileRuns k = true → u.stopped = false → u.run = none → u.spill = [] →
        t.ports.get? 2 = some p → p.tok.tt.isMarker = true → (∀ q y, q < 2 → t.ports.get? q = some y → y.tok.tt ≠ .resume) →
        (∀ r, u.lastRoute = some r → routeFree t r.toNat = true → ∃ s1, exec .mxMarker s = .next (deliver s1 k (.route r) { tok := p.tok }) ∧ (s1.tile k).ports.get? 2 = none
            ∧ (s1.tile k).mx.acc = u.acc ∧ (s1.tile k).mx.w = u.w)
        ∧ (u.lastRoute = none → ∃ s1, exec .mxMarker s = .next s1 ∧ (s1.tile k).ports.get? 2 = none ∧ (s1.tile k).routes = t.routes))
  ∧ ∀ (a0 : Lane) (ps : List (Lane × Lane)), ps ≠ [] → ps.length ≤ 32 →
    let prod := fun (p : Lane × Lane) => Fp.mulV (Fp.f32.read p.1.toNat) (Fp.f32.read p.2.toNat)
    let val := fun (n : Bool) (m : Nat) (e : Int) => (if n then -1 else 1) * (m : Int) * 2 ^ (e + 298).toNat
    let adds := fun (d : Fp.Val) => accumulate a0 ps = BitVec.ofNat 32 (Fp.addV Fp.f32 .rn (Fp.f32.read a0.toNat) d).bits
    (16 < ps.length → accumulate a0 ps = accumulate (accumulate a0 (ps.take 16)) (ps.drop 16))
    ∧ (ps.length ≤ 16 →
        ((∃ p ∈ ps, prod p = none ∨ prod p = some .nan) → accumulate a0 ps = 0x7FC00000)
        ∧ ((∃ p ∈ ps, prod p = some (.inf false)) → (∃ p ∈ ps, prod p = some (.inf true)) → accumulate a0 ps = 0x7FC00000)
        ∧ (∀ neg, (∃ p ∈ ps, prod p = some (.inf neg)) → (∀ p ∈ ps, prod p = some (.inf neg) ∨ ∃ n m e, prod p = some (.fin n m e)) → adds (.inf neg))
        ∧ ((∀ p ∈ ps, ∃ n m e, prod p = some (.fin n m e)) → ∃ n m e, adds (.fin n m e) ∧ 0 ≤ e + 298
            ∧ val n m e = (ps.map fun p => match prod p with
                | some (.fin n m e) => val n m e
                | _ => 0).sum
            ∧ (m = 0 → (n = true ↔ ∀ p ∈ ps, ∃ e, prod p = some (.fin true 0 e)))))

/-! ### The projection engine -/

/-- R114: `pj` sends a row token with its selector, `pjp` the parameters {l lane 0, r lane 0} as A64 element 0, `pja` the pair of an adjoint row with the target of its output, each to TGA alone; `pjs` sends the eight parts of a mask of the support record of l's tag to TGA and the record's scalars to TGB, all zero where there is no such record. R116: a marker or fault token that arrives at a port of the engine is held for the places that are COMPLETE then; once they are done, no further row goes before it, and it goes to both targets of the engine, or from `pj.adj` to its own. -/
def Obligations.ProjectionNodesAndMarkers : Prop :=
  (
  ∀ (s : State) (k : TileKey) (n : Nat) (w : NodeOp) (o : Opnds) (psel : BitVec 3) (aux : Bool),
    let sends := fun (i : Instr) (x : Parcel) => SlotAt s k n → gateOf (formOf i) (s.slot k n) = .go o → freeAfter s k n (formOf i) w.tga = true →
      exec i s = .next (deliver (consumeAt s k n (formOf i)) k w.tga { x with tok := x.tok.after (slotPast s k n (formOf i)) })
    sends (.pj w psel) { tok := resultTok o o.l.pay, psel := some psel }
    ∧ (∃ p, sends (.pjp w) { tok := resultTok o p } ∧ Word.lane p 0 = Word.lane o.r.pay 0 ∧ Word.lane p 1 = Word.lane o.l.pay 0 ∧ ∀ j, 2 ≤ j → j < 16 → Word.lane p j = 0)
    ∧ sends (.pja w) { tok := resultTok o o.l.pay, aux := some o.r.pay, via := w.tgb }
    ∧ (NodeAt s k n (formOf (.pjs w aux)) o →
        let r := (s.tile k).pj.sup.getD (o.l.tag.toNat % 8) {}
        let hit := r.valid = true ∧ r.tag = o.l.tag
        ∃ (part : Nat → Payload) (info : Payload) (t : State), exec (.pjs w aux) s = .next t
          ∧ t = (let h := slotPast s k n (formOf (.pjs w aux))
              let u := fireTo s k n (formOf (.pjs w aux)) (some { resultTok o (part 0) with seq := 0, hb := h }) (some (resultTok o info))
              u.setSlot k n { u.slot k n with out := (List.range 7).map fun i => Emit.mk w.tga { tok := { resultTok o (part (i + 1)) with seq := BitVec.ofNat 8 (i + 1), hb := h } } })
          ∧ (∀ i b, i < 8 → b < 512 → (part i).getLsbD b = decide (hit ∧ (if aux then r.aux else r.mask).getLsbD (512 * i + b) = true))
          ∧ (¬hit → info = 0)
          ∧ (hit → Word.lane info 0 = r.scalar ∧ (Word.lane info 1).toNat = r.size.toNat ∧ (Word.lane info 2).toNat = r.len.toNat
              ∧ (Word.lane info 3).toNat = r.psel.toNat ∧ (Word.lane info 4).toNat = r.tag.toNat
              ∧ Word.lane info 5 = (if r.inside then 3 else 1) ∧ ∀ j, 6 ≤ j → j < 16 → Word.lane info j = 0)))
  ∧ (
  ∀ (s : State) (k : TileKey) (port : Nat) (x : Parcel),
    let t := s.tile k
    let others := [0x10, 0x11, 0x12].filter (· != port)
    let d := if port = 0x12 then (x.via, Tgt.none) else (pjPtgt t, pjStgt t)
    port ∈ [0x10, 0x11, 0x12] → s.focus = .tile k → s.tiles.has k = true → t.kind = .vx → s.tileRuns k = true → t.pj.stopped = false →
    t.ports.get? port = some x → x.tok.tt.isMarker = true ∨ x.tok.tt = .fault → (∀ y ∈ others, t.ports.get? y = none) →
    (∀ u y, y.tok.tt.isMarker = true ∨ y.tok.tt = .fault → ((deliver u k (.port (BitVec.ofNat 8 port)) y).tile k).pj.held.get? port = some (u.tile k).pj.ready.length)
    ∧ (∀ j, t.pj.held.get? port = some (j + 1) → exec .pjMarker s = .next s)
    ∧ (t.pj.held.get? port = some 0 → exec .pjProject s = .next s ∧ exec .pjAdjoint s = .next s)
    ∧ (t.pj.held.get? port = some 0 → targetFree t d.1 = true → targetFree t d.2 = true →
        ∃ s1, exec .pjMarker s = .next (deliver2 s1 k d.1 d.2 x.tok)
          ∧ (s1.tile k).ports.get? port = none ∧ (s1.tile k).pj.held.get? port = none ∧ (s1.tile k).slots = t.slots))

/-- R102, R103, R112: a token at `pj.in` or `pj.adj` fills positions of the place that its TAG names, which becomes COMPLETE and takes its turn once it has all of them. A token for a place of another row, or for a position already there, traps PJ_ROW; an adjoint row without a record of its tag traps PJ_NOREC. A selector token opens its place, or finds it open for the same selector, and writes no element; an adjoint row of an L2 record outside the ball takes the place after its own as well. R104 to R113, R116: an idle engine at which no marker's turn has come processes the first COMPLETE place. A projection row writes the support record of its tag and sends its outputs to PTGT and its support size to STGT; an adjoint row sends its outputs to the target of its `pja` word. R105 to R110, R113: the outputs, the size and the record of each set, and the outputs of the adjoints. (The model's choices: an adjoint row keeps the record found at its first token, log 33, and the target of the slot that sent it, log 34; a token for a COMPLETE place waits, log 36; AUX of an L1 row of radius 0 holds its signs, log 38; a zero quotient is +0, log 40; SCALAR is +0 where the rules name none, log 106.) -/
def Obligations.ProjectionRowsAndResults : Prop :=
  (
  ∀ (s : State) (k : TileKey) (x : Parcel) (sel : BitVec 3),
    let t := s.tile k
    let u := t.pj
    let q := x.tok.tag.toNat % pjPlaces t
    let mine := fun (l : Nat) => 16 * x.tok.seq.toNat + l
    let fills := fun (p : PjPlace) (p' : PjPlace) => p'.tag = x.tok.tag ∧ p'.kind = p.kind ∧ p'.psel = p.psel ∧ p'.found = p.found
      ∧ ∀ i, p'.elems.get? i = if 16 * x.tok.seq.toNat ≤ i ∧ i < 16 * x.tok.seq.toNat + 16 ∧ i < pjLen t then some (Word.lane x.tok.pay (i - 16 * x.tok.seq.toNat)) else p.elems.get? i
    let fresh := fun (p : PjPlace) => ∀ l, l < 16 → mine l < pjLen t → p.elems.has (mine l) = false
    s.focus = .tile k → s.tiles.has k = true → t.kind = .vx → s.tileRuns k = true → u.stopped = false → x.tok.tt = .data → mine 0 < pjLen t →
    (t.ports.get? 0x10 = some x →
      (∀ p, (u.places.get? q = none ∧ x.psel = some sel ∧ p = { tag := x.tok.tag, kind := .row, psel := sel })
          ∨ (u.places.get? q = some p ∧ p.complete = false ∧ p.tag = x.tok.tag ∧ p.kind = .row ∧ (x.psel = none ∨ x.psel = some p.psel) ∧ fresh p) →
          ∃ s' p', exec .pjInToken s = .next s' ∧ (s'.tile k).ports.get? 0x10 = none ∧ (s'.tile k).pj.places.get? q = some p' ∧ fills p p'
            ∧ (p'.complete = true ↔ p'.elems.length = pjLen t) ∧ (s'.tile k).pj.ready = (if p'.complete then u.ready ++ [q] else u.ready)
            ∧ (s'.tile k).pj.sup = u.sup ∧ (s'.tile k).pj.out = u.out)
      ∧ (∀ p, u.places.get? q = some p → p.complete = false → p.tag ≠ x.tok.tag ∨ p.kind ≠ .row ∨ (∃ e, x.psel = some e ∧ e ≠ p.psel) ∨ p.elems.has (mine 0) = true →
          exec .pjInToken s = .next (raiseTrap s (unitSite s k 0x10 0 (some x.tok)) 0x05 (BitVec.ofNat 64 q)))
      ∧ (∀ p, u.places.get? q = some p → p.complete = true → exec .pjInToken s = .next s)
      ∧ (u.places.get? q = none → x.psel = none → exec .pjInToken s = .next (raiseTrap s (unitSite s k 0x10 0 (some x.tok)) 0x05 (BitVec.ofNat 64 q))))
    ∧ (t.ports.get? 0x12 = some x → u.places.get? q = none →
        let r := u.sup.getD (x.tok.tag.toNat % 8) {}
        (r.valid = false ∨ r.tag ≠ x.tok.tag → exec .pjAdjToken s = .next (raiseTrap s (unitSite s k 0x12 0 (some x.tok)) 0x06 (x.tok.tag.setWidth 64)))
        ∧ (r.valid = true → r.tag = x.tok.tag → r.twoPlaces = false →
            ∃ s' p', exec .pjAdjToken s = .next s' ∧ (s'.tile k).ports.get? 0x12 = none ∧ (s'.tile k).pj.places.get? q = some p' ∧ p'.via = x.via
              ∧ fills { tag := x.tok.tag, kind := .adjoint, psel := r.psel, found := r, via := x.via } p')
        ∧ (r.valid = true → r.tag = x.tok.tag → r.twoPlaces = true →
            let np := pjPlaces t
            let q2 := (x.tok.tag.toNat + 1) % np
            (np = 1 → exec .pjAdjToken s = .next (raiseTrap s (unitSite s k 0x12 0 (some x.tok)) 0x05 (BitVec.ofNat 64 q)))
            ∧ (np ≠ 1 → u.places.get? q2 = none →
                ∃ s' p' p2, exec .pjAdjToken s = .next s' ∧ (s'.tile k).ports.get? 0x12 = none ∧ (s'.tile k).pj.places.get? q = some p' ∧ (s'.tile k).pj.places.get? q2 = some p2
                  ∧ fills { tag := x.tok.tag, kind := .adjoint, psel := r.psel, found := r, via := x.via } p' ∧ p2.tag = x.tok.tag ∧ p2.kind = .second
                  ∧ ∀ i, p2.elems.get? i = if 16 * x.tok.seq.toNat ≤ i ∧ i < 16 * x.tok.seq.toNat + 16 ∧ i < pjLen t then some (Word.lane (x.aux.getD 0) (i - 16 * x.tok.seq.toNat)) else none)
            ∧ (∀ y, np ≠ 1 → u.places.get? q2 = some y →
                (y.complete = true → exec .pjAdjToken s = .next s)
                ∧ (y.complete = false → exec .pjAdjToken s = .next (raiseTrap s (unitSite s k 0x12 0 (some x.tok)) 0x05 (BitVec.ofNat 64 q2)))))))
  ∧ (∀ (s : State) (k : TileKey) (x : Parcel),
    let t := s.tile k
    let u := t.pj
    let q := x.tok.tag.toNat % pjPlaces t
    let sel : BitVec 3 := x.tok.pay.extractLsb' 0 3
    s.focus = .tile k → s.tiles.has k = true → t.kind = .vx → s.tileRuns k = true → u.stopped = false → t.ports.get? 0x10 = some x → x.tok.tt = .control → x.psel = none →
    (∀ p, (u.places.get? q = none ∧ p = { tag := x.tok.tag, kind := .row, psel := sel }) ∨ (u.places.get? q = some p ∧ p.complete = false ∧ p.elems.length ≠ pjLen t ∧ p.tag = x.tok.tag ∧ p.kind = .row ∧ p.psel = sel) →
      ∃ s' p', exec .pjInToken s = .next s' ∧ (s'.tile k).ports.get? 0x10 = none ∧ (s'.tile k).pj.places.get? q = some p' ∧ p'.tag = p.tag ∧ p'.kind = .row ∧ p'.psel = sel ∧ p'.elems = p.elems
        ∧ p'.complete = false ∧ (s'.tile k).pj.ready = u.ready)
    ∧ (∀ p, u.places.get? q = some p → p.complete = false → p.tag ≠ x.tok.tag ∨ p.kind ≠ .row ∨ p.psel ≠ sel →
        exec .pjInToken s = .next (raiseTrap s (unitSite s k 0x10 0 (some x.tok)) 0x05 (BitVec.ofNat 64 q)))
    ∧ (∀ p, u.places.get? q = some p → p.complete = true → exec .pjInToken s = .next s))
  ∧ (
  ∀ (s : State) (k : TileKey) (q : Nat) (rest : List Nat) (p : PjPlace),
    let t := s.tile k
    let u := t.pj
    let row := (List.range (pjLen t)).map fun i => p.elems.getD i 0
    let isRow := fun (xs : List Lane) (d : Tgt) (es : List Emit) => es.length = (xs.length + 15) / 16 ∧ ∀ j e, es[j]? = some e →
      e.dst = d ∧ e.parcel.tok.tt = .data ∧ e.parcel.tok.tag = p.tag ∧ e.parcel.tok.seq = BitVec.ofNat 8 j ∧ ∀ l, l < 16 → Word.lane e.parcel.tok.pay l = xs.getD (16 * j + l) 0
    s.focus = .tile k → s.tiles.has k = true → t.kind = .vx → s.tileRuns k = true → u.stopped = false → u.out = [] → u.ready = q :: rest → u.places.get? q = some p →
    t.ports.get? 0x11 = none → (∀ h ∈ u.held, h.2 ≠ 0) →
    (p.kind = .row →
      let r := Pj.project p.tag p.psel u.a u.b row
      ∃ s' es z, exec .pjProject s = .next s' ∧ (s'.tile k).pj = { u with sup := u.sup.put (p.tag.toNat % 8) r.sup, out := es ++ [z] } ∧ isRow r.p (pjPtgt t) es
        ∧ z.dst = pjStgt t ∧ z.parcel.tok.tag = p.tag ∧ ∀ l, l < 16 → Word.lane z.parcel.tok.pay l = BitVec.ofNat 32 r.size)
    ∧ (p.kind ≠ .row →
        let ps := match u.places.get? ((p.tag.toNat + 1) % pjPlaces t) with
          | some y => (List.range (pjLen t)).map fun i => y.elems.getD i 0
          | none => []
        ∃ s' es, exec .pjAdjoint s = .next s' ∧ (s'.tile k).pj = { u with out := es } ∧ isRow (Pj.adjoint p.found row ps).1 p.via es)
    ∧ (∀ (tag : Tag) (a b : Lane) (xs : List Lane) (i : Nat) (x : Lane), xs[i]? = some x →
        (Pj.project tag 0 a b xs).p[i]? = some x
        ∧ (Pj.isNan x = false → (Pj.project tag 7 a b xs).p[i]? = some (if Pj.less 0 x then x else 0))
        ∧ (Pj.isNan x = false → Pj.valid 4 a b = true → (Pj.project tag 4 a b xs).p[i]? = some (if Pj.less x a then a else if Pj.less b x then b else x)))
    ∧ (∀ (r : Support) (vs ps : List Lane) (i : Nat) (v : Lane), vs[i]? = some v → r.scalar ≠ 0x7FC00000 →
        (r.psel = 0 → (Pj.adjoint r vs ps).1[i]? = some v)
        ∧ (r.psel = 4 ∨ r.psel = 7 → (Pj.adjoint r vs ps).1[i]? = some (if r.mask.getLsbD i then v else 0))))
  ∧ (∀ (tag : Tag) (psel : BitVec 3) (a b : Lane) (xs : List Lane), xs.length ≤ 4096 →
    let n := xs.length
    let r := Pj.project tag psel a b xs
    let bulk := psel ∈ [(1 : BitVec 3), 2, 3, 5, 6]
    let good := Pj.valid psel a b = true ∧ ∀ x ∈ xs, Pj.finite x = true
    let abs := fun (x : Lane) => x &&& 0x7FFFFFFF
    let signed := fun (x y : Lane) => x ||| (y &&& 0x80000000)
    let simplex := fun (ys : List Lane) (S : List Nat) (tau : Lane) (out : Nat → Lane) =>
      (tau, S) = Pj.search ys a (n + 1) (List.range n)
      ∧ (∀ i x, ys[i]? = some x → i ∈ S → let d : Lane := BitVec.ofNat 32 (Fp.sub Fp.f32 .rn x.toNat tau.toNat).bits; out i = if d.msb then 0 else d)
      ∧ (∀ i, i < n → i ∉ S → out i = 0)
    r.sup.valid = true ∧ r.sup.tag = tag ∧ r.sup.psel = psel ∧ r.sup.param = a ∧ r.sup.len.toNat = n ∧ r.sup.size.toNat = r.size ∧ r.p.length = n
    ∧ (bulk ∧ ¬good ∨ psel = 4 ∧ Pj.valid psel a b = false → (∀ x ∈ r.p, x = 0x7FC00000) ∧ r.size = 0 ∧ r.sup.mask = 0 ∧ r.sup.aux = 0 ∧ r.sup.scalar = 0x7FC00000)
    ∧ (psel = 1 → good → ∃ S, simplex xs S r.sup.scalar (fun i => r.p.getD i 0) ∧ r.size = S.length ∧ r.sup.inside = false ∧ ∀ i, i < n → r.sup.mask.getLsbD i = decide (i ∈ S))
    ∧ (psel = 2 → good →
        let total := (xs.map fun x => (Pj.units (abs x))).sum
        (total ≤ Pj.units a → r.p = xs ∧ r.size = n ∧ r.sup.inside = true ∧ r.sup.mask.toNat = 2 ^ n - 1 ∧ r.sup.aux = 0 ∧ r.sup.scalar = 0)
        ∧ (Pj.units a < total → r.sup.inside = false ∧ ∀ i x, xs[i]? = some x → r.sup.aux.getLsbD i = x.msb)
        ∧ (Pj.units a < total → Pj.units a = 0 → r.p = xs.map (fun x => signed 0 x) ∧ r.size = 0 ∧ r.sup.mask = 0 ∧ r.sup.scalar = 0x7F800000)
        ∧ (Pj.units a < total → Pj.units a ≠ 0 → ∃ (S : List Nat) (out : Nat → Lane), simplex (xs.map abs) S r.sup.scalar out ∧ r.size = S.length ∧ (∀ i, i < n → r.sup.mask.getLsbD i = decide (i ∈ S))
            ∧ ∀ i x, xs[i]? = some x → r.p[i]? = some (signed (out i) x)))
    ∧ (psel = 3 → good →
        let sq := (xs.map fun x => Pj.units x * Pj.units x).sum
        r.sup.mask.toNat = 2 ^ n - 1
        ∧ (sq ≤ Pj.units a * Pj.units a → r.p = xs ∧ r.size = 0 ∧ r.sup.inside = true ∧ r.sup.scalar = 0x3F800000)
        ∧ (Pj.units a * Pj.units a < sq → r.size = 1 ∧ r.sup.inside = false ∧ r.sup.scalar = BitVec.ofNat 32 (Fp.roundSqrt Fp.f32 .rn (Pj.units a * Pj.units a).toNat sq.toNat).bits
            ∧ ∀ (i : Nat) (x : Lane), xs[i]? = some x → r.p[i]? = some (BitVec.ofNat 32 (Fp.mul Fp.f32 .rn x.toNat r.sup.scalar.toNat).bits)))
    ∧ (psel = 5 ∨ psel = 6 → good →
        let pools := Pj.pools (psel == 5) xs
        r.size = pools.length ∧ r.sup.mask.toNat = 2 ^ n - 1 ∧ (∀ i, i < n → r.sup.aux.getLsbD i = pools.any (fun u => u.start == i))
        ∧ (pools.map (·.count)).sum = n ∧ (∀ u ∈ pools, 0 < u.count ∧ u.sum = (((xs.drop u.start).take u.count).map Pj.units).sum)
        ∧ (∀ j u v, pools[j]? = some u → pools[j + 1]? = some v → v.start = u.start + u.count
            ∧ (psel = 5 → u.sum * (v.count : Int) ≤ v.sum * (u.count : Int)) ∧ (psel = 6 → v.sum * (u.count : Int) ≤ u.sum * (v.count : Int)))
        ∧ ∀ u ∈ pools, ∀ i, u.start ≤ i → i < u.start + u.count → r.p[i]? = some (Pj.quot u.sum (u.count * 2 ^ 149))))
  ∧ (∀ (xs : List Lane) (a : Lane) (m : Nat) (S : List Nat),
    let tau := Pj.quot ((S.map fun i => Pj.units (xs.getD i 0)).sum - Pj.units a) (S.length * 2 ^ 149)
    let S2 := S.filter (fun i => Pj.less tau (xs.getD i 0))
    (S2 = S ∨ S2 = [] → Pj.search xs a (m + 1) S = (tau, S)) ∧ (S2 ≠ S → S2 ≠ [] → Pj.search xs a (m + 1) S = Pj.search xs a m S2)
    ∧ (S.length < m → Pj.search xs a (m + 1) S = Pj.search xs a m S))
  ∧ (∀ (r : Support) (vs ps : List Lane), r.scalar ≠ 0x7FC00000 → ps.length = vs.length →
    let n := vs.length
    let out := (Pj.adjoint r vs ps).1
    let val := fun (x : Lane) => Fp.f32.read x.toNat
    let S := (List.range n).filter (fun i => r.mask.getLsbD i)
    let minus := fun (i : Nat) => r.psel = 2 ∧ r.aux.getLsbD i = true
    (r.psel = 2 ∨ r.psel = 3 → r.inside = true → out = vs)
    ∧ (r.psel = 1 ∨ (r.psel = 2 ∧ r.inside = false) →
        (S = [] → ∀ i, i < n → out[i]? = some 0)
        ∧ (S ≠ [] → ∀ sg : Nat → Bool, (∀ i, sg i = true ↔ minus i) →
            let c := Pj.divV (Pj.sumV (S.map fun i => if sg i then (val (vs.getD i 0)).neg else val (vs.getD i 0))) S.length 1
            ∀ (i : Nat) (v : Lane), vs[i]? = some v → out[i]? = some (if r.mask.getLsbD i then BitVec.ofNat 32 (if sg i then Fp.add Fp.f32 .rn v.toNat c.toNat else Fp.sub Fp.f32 .rn v.toNat c.toNat).bits else 0)))
    ∧ (r.psel = 3 → r.inside = false →
        (Pj.units r.param = 0 → ∀ i, i < n → out[i]? = some 0)
        ∧ (Pj.units r.param ≠ 0 →
            let dots := List.zipWith (fun p v => (Fp.mulV (val p) (val v)).getD .nan) ps vs
            let g := Pj.divV (Pj.sumV dots) (Pj.units r.param * Pj.units r.param).toNat (2 ^ 298)
            ∀ (i : Nat) (p v : Lane), ps[i]? = some p → vs[i]? = some v → out[i]? = some (BitVec.ofNat 32 (Pj.scaled r.scalar v p g).bits)))
    ∧ (r.psel = 5 ∨ r.psel = 6 → ∀ lo hi, lo < hi → hi ≤ n → (lo = 0 ∨ r.aux.getLsbD lo = true) → (hi = n ∨ r.aux.getLsbD hi = true) → (∀ j, lo < j → j < hi → r.aux.getLsbD j = false) →
        ∃ seg : List Lane, seg.Perm ((vs.drop lo).take (hi - lo)) ∧ ∀ i, lo ≤ i → i < hi → out[i]? = some (Pj.divV (Pj.sumV (seg.map val)) (hi - lo) 1)))

/-! ### The sequencer's FIFOs, configurations, events and traps -/

/-- R195: `tok.give`, `tok.take` and `tok.poll` at a FIFO of 16 tokens, and the FIFO's taking of the token that has been offered longest; a `tok.give` that was held completes with it. With a token the sequencer takes over what happens before it (R289). -/
def Obligations.SeqFifos : Prop :=
  (∀ (s : State) (k : TileKey) (d a : BitVec 5) (h : Bool) (n : BitVec 3), SeqAt s k →
    let q := s.seq k
    let f := q.fifo n.toNat
    let given : Tok := { tt := .control, pay := (q.reg a).setWidth 512, hb := q.hb }
    (f.length < 16 → q.offers.getD n.toNat [] = [] → ∃ t, exec (.seqTokGive a n) s = .next t ∧ (t.seq k).fifo n.toNat = f ++ [given] ∧ (t.seq k).pc = q.pc + 4 ∧ (t.seq k).s = q.s)
    ∧ (16 ≤ f.length → ∃ t, exec (.seqTokGive a n) s = .next t ∧ (t.seq k).q = q.q ∧ (t.seq k).pc = q.pc)
    ∧ (∀ x xs, f = x :: xs → exec (.seqTokTake d h n) s =
        seqNext s k (({ q.learn s x with q := q.q.put n.toNat xs }).put d ((if h then x.header else Word.lane x.pay 1) ++ Word.lane x.pay 0)))
    ∧ (f = [] → exec (.seqTokTake d h n) s = .next s)
    ∧ exec (.seqTokPoll d n) s = seqNext s k (q.put d (BitVec.ofNat 64 f.length)))
  ∧ ∀ (s : State) (k : TileKey) (n : Nat) (rest : List Offer), s.focus = .fifo k n → s.seqs.has k = true → s.regions.has (s.seq k).region = true →
    let q := s.seq k
    let f := q.fifo n
    f.length < 16 →
      (∀ p, q.offers.getD n [] = .fabric :: rest → (s.tile k).ports.get? (0x40 + n) = some p →
        ∃ t, exec .fifoTake s = .next t ∧ (t.seq k).fifo n = f ++ [p.tok] ∧ (t.tile k).ports.has (0x40 + n) = false ∧ (t.seq k).offers.getD n [] = rest)
      ∧ (∀ st x, q.offers.getD n [] = .completion st x :: rest → ∃ t, exec .fifoTake s = .next t ∧ (t.seq k).fifo n = f ++ [x])
      ∧ (∀ x, q.stopped = false → s.regionStops q.region = false → q.offers.getD n [] = .give x :: rest →
        ∃ t, exec .fifoTake s = .next t ∧ (t.seq k).fifo n = f ++ [x] ∧ (t.seq k).pc = q.pc + 4 ∧ (t.seq k).offers.getD n [] = rest)

/-- R196, R197, R198: `cfg.load` names the block that the region's next phase end loads, and traps SEQ_RANGE for a block that is not the region's; `cfg.wait` gives the report once no load is pending (a load that the block scheduler began counts as one: log 144); `seed` puts one counted token into a latch once every seed of the launch is in (R326), and traps SEQ_SEED for a target that R197 or R239 does not allow; `census.wait` gives PHASE once it exceeds the value it had at the last one. (The model's choices: a `cfg.load` need not wait for a load that the block scheduler began, and a phase end that is due stands until a load has finished, log 53; that one in a quiet region makes a further phase end due at once is log 18.) -/
def Obligations.SeqConfiguration : Prop :=
  ∀ (s : State) (k : TileKey) (d a : BitVec 5), SeqAt s k →
    let q := s.seq k
    let r := q.region
    let rg := s.region r
    let b := (Word.field (q.reg a) 0 12).toNat
    let v := q.reg d
    let rel := (Word.field v 0 11).toNat
    let n := Word.field v 11 5
    let tag : Tag := Word.field v 18 16
    let tk := regionTile rg rel
    let admits := fun (p : Pos) => rel ∈ regionRels rg ∧ (s.tile tk).slots.has n.toNat = true ∧ wordEnables (s.slot tk n.toNat).word p = true
      ∧ latchFed (s.tile tk) p n = false ∧ entryAt s r rel n.toNat p = false ∧ tag.toNat ≤ 0xFF ∧ Word.field v 34 30 = (0 : BitVec 30)
    (∀ blk, blockOf s r b = some blk → blk.region = rg.index → rg.cfgNext = none → ¬(rg.loading.isSome = true ∧ rg.cfgLoad = true) →
      ∃ t, exec (.seqCfgLoad a) s = .next t ∧ t.seq k = { q with pc := q.pc + 4 } ∧ (t.region r).cfgNext = some b ∧ (t.region r).due = (rg.due || rg.quiet)
        ∧ (t.region r).block = rg.block)
    ∧ (∀ blk, blockOf s r b = some blk → blk.region = rg.index → rg.cfgNext.isSome = true ∨ (rg.loading.isSome = true ∧ rg.cfgLoad = true) → exec (.seqCfgLoad a) s = .next s)
    ∧ (blockOf s r b = none ∨ (∃ blk, blockOf s r b = some blk ∧ blk.region ≠ rg.index) → SeqTraps (.seqCfgLoad a) s k 0x22 (q.reg a))
    ∧ (rg.cfgNext = none → rg.loading = none → exec (.seqCfgWait d) s = seqNext s k (q.put d rg.report))
    ∧ (rg.cfgNext.isSome = true ∨ rg.loading.isSome = true → exec (.seqCfgWait d) s = .next s)
    ∧ (rg.loading.isSome = true ∨ seedsWait s rg.launch = true → exec (.seqSeed d a) s = .next s)
    ∧ (rg.loading = none → seedsWait s rg.launch = false → ∀ p, Pos.ofCode (Word.field v 16 2) = some p →
        (admits p → (s.slot tk n.toNat).at_ p = none → 0 ≤ rg.census → rg.census < 2147483647 →
          ∃ t, exec (.seqSeed d a) s = .next t ∧ t.seq k = { q with pc := q.pc + 4 } ∧ (t.region r).census = rg.census + 1
            ∧ (t.slot tk n.toNat).at_ p = some { tag := tag, pay := (q.reg a).setWidth 512, hb := q.hb })
        ∧ (admits p → (s.slot tk n.toNat).at_ p ≠ none → exec (.seqSeed d a) s = .next s)
        ∧ (¬admits p → SeqTraps (.seqSeed d a) s k 0x23 v))
    ∧ (seedsWait s rg.launch = true ↔ ∃ i x, (i, x) ∈ s.regions ∧ x.launch = rg.launch ∧ x.seeds ≠ [])
    ∧ (rg.loading = none → seedsWait s rg.launch = false → Pos.ofCode (Word.field v 16 2) = none → SeqTraps (.seqSeed d a) s k 0x23 v)
    ∧ (q.seen < rg.phase → exec (.seqCensusWait d) s = seqNext s k (({ q with seen := rg.phase }).put d (rg.phase.setWidth 64)))
    ∧ (rg.phase ≤ q.seen → exec (.seqCensusWait d) s = .next s)

/-- R199 to R202: `launch.tail` copies the packet at s[A] once, and traps SEQ_TAIL where it may not; `wfe` pops an event, `wfe.poll` gives 0 where there is none; `fence` completes once its commands have retired and the accesses that happen before it are performed at its scope (log 31); `trap` raises USER with its code; `halt` ends the sequencer; a word that is reserved, and the fetch beyond the end of RAM, trap SEQ_ILLEGAL (R35). -/
def Obligations.SeqEventsAndEnds : Prop :=
  (∀ (s : State) (k : TileKey) (d a : BitVec 5) (sc : BitVec 3) (code : BitVec 16), SeqAt s k →
    let q := s.seq k
    let x := (q.reg a).toNat
    let l := (s.region q.region).launch
    let mayTail := (s.launch l).tailed = false ∧ x % 8 = 0 ∧ x + 128 ≤ 65536
    (mayTail → ramBad s k x 128 = none → ∃ t, exec (.seqLaunchTail a) s = .next t ∧ t.seq k = { q with pc := q.pc + 4 } ∧ (t.launch l).tailed = true
        ∧ (t.launch l).tail = some (Word.ofBytes 1024 (Mem.readN s.ram (k * 65536 + x) 128)))
    ∧ (¬mayTail → SeqTraps (.seqLaunchTail a) s k 0x24 (q.reg a))
    ∧ (∀ e es poll, q.events = e :: es → exec (.seqWfe d poll) s = seqNext s k (({ q with events := es }).put d e))
    ∧ (q.events = [] → exec (.seqWfe d true) s = seqNext s k (q.put d 0) ∧ exec (.seqWfe d false) s = .next s)
    ∧ (sc.toNat < 5 → seqCmdsOpen s k = false → released s q.hb sc = true → exec (.seqFence sc) s = seqNext s k q)
    ∧ (sc.toNat < 5 → seqCmdsOpen s k = true ∨ released s q.hb sc = false → exec (.seqFence sc) s = .next s)
    ∧ (5 ≤ sc.toNat → SeqTraps (.seqFence sc) s k 0x20 0)
    ∧ SeqTraps (.seqTrap code) s k 0x11 (code.setWidth 64)
    ∧ exec .seqHalt s = .next (s.setSeq k { q with halted := true })
    ∧ (∀ e, decodeSeq (seqWord s k) = .error e → SeqTraps .seqIllegalFetch s k 0x20 0))
  ∧ (∀ (s : State) (k : TileKey), s.focus = .seq k → s.seqs.has k = true → seqRuns s k = true → 65536 ≤ (s.seq k).pc.toNat → SeqTraps .seqIllegalFetch s k 0x20 0x10000)
  ∧ ∀ (s : State) (k : TileKey) (p : Nat) (e : BitVec 64) (es : List (BitVec 64)), s.focus = .fifo k p → s.seqs.has k = true → (s.seq k).running = true →
    (s.region (s.seq k).region).closed = false → (s.seq k).evmask ≠ 0 → (s.seq k).events.length < 16 → (s.tile p).region = some (s.seq k).region → (s.port p).tier = e :: es →
      ∃ t, exec .eventEnqueue s = .next t ∧ t.seq k = { s.seq k with events := (s.seq k).events ++ [e] } ∧ t.port p = { s.port p with tier := es }

/-- R358, R359, R361: a trap stops its agent, makes a record that holds the time, the launch, the cause, the agent's word and latches, and offers it to the trap queue of the context; a fatal one stops every region of its launch, and no other. -/
def Obligations.TrapTaking : Prop :=
  ∀ (s : State) (x : Site) (cause : BitVec 8) (detail : BitVec 64),
    let l := s.launch x.launch
    let c := s.ctx l.ctx
    let t := raiseTrap s x cause detail
    (∃ r, (t.ctx l.ctx).offered = c.offered ++ [r] ∧ r.agent = x.agent ∧ r.launch = x.launch ∧ r.fatal = causeFatal cause
      ∧ pk r.bits 0x00 8 = s.dev.dtime ∧ pk r.bits 0x08 8 = l.ticket ∧ pk r.bits 0x10 2 = BitVec.ofNat 16 l.ctx ∧ pk r.bits 0x12 1 = cause
      ∧ (pk r.bits 0x13 1 : BitVec 8).getLsbD 0 = causeFatal cause ∧ pk r.bits 0x18 4 = c.trapNo ∧ pk r.bits 0x20 8 = x.word ∧ pk r.bits 0x28 8 = detail
      ∧ pk r.bits 0x30 8 = latchWord x.latl ∧ pk r.bits 0x38 8 = latchWord x.latr ∧ pk r.bits 0x40 8 = latchWord x.latp)
    ∧ (t.ctx l.ctx).trapNo = c.trapNo + 1
    ∧ (t.launch x.launch).records = l.records + 1
    ∧ (∀ k n, x.agent = .slot k n → (t.slot k n) = { s.slot k n with stopped := true })
    ∧ (∀ k, x.agent = .seq k → (t.seq k) = { s.seq k with stopped := true, cause := cause.setWidth 64 })
    ∧ (∀ r, (s.region r).launch ≠ x.launch → t.region r = s.region r)
    ∧ (causeFatal cause = true → ∀ r, s.regions.has r = true → (s.region r).launch = x.launch → (t.region r).closed = true)
    ∧ (causeFatal cause = false → t.regions = s.regions)
    ∧ t.dram = s.dram ∧ t.scratch = s.scratch ∧ t.ram = s.ram ∧ t.host = s.host

/-! ### Stream commands -/

/-- R29, R30, R157, R158, R161: `cissue` delivers a command that passes the sequencer's own checks and waits for its verdict; one that fails them is BAD. An accepted command may start once it has its TK token, and the sequencer goes on; a refused one gives its status to GVQ or traps. A station starts the command that has arrived at it first, if that may start: one that still waits for its TK token holds back those after it, unless its issuer stops (log 131). (The model's choices: a refused command with GV = 0 traps at the `cissue` word, log 12; the completion of one that fails the sequencer's checks waits at its own tile, log 149; DETAIL of a `bind` is LC0, log 159.) R29, R159, R160, R161: a finished command, but for those whose end acts at a unit, performs its release, is done, and gives status, DETAIL and DETAIL2 with its RID and issue number to GVQ; with GV = 0 one that failed traps its sequencer, CMD_FAIL, and one that did not says nothing. -/
def Obligations.CommandIssueAndRetirement : Prop :=
  (
  (∀ (s : State) (k : TileKey) (c : BitVec 3), SeqAt s k →
    let q := s.seq k
    let w := q.creg c
    let h := decodeHead w
    (cmdSequencerChecks w = true → (waitingAt s (stationOf w)).length < 16 → ∃ t, exec (.seqCissue c) s = .next t
        ∧ t.seq k = { q with issue := q.issue + 1, wait := .verdict (s.nextCmd + 1) }
        ∧ t.cmd (s.nextCmd + 1) = { word := w, station := stationOf w, origin := .seq k q.issue, launch := (s.region q.region).launch
                                    ctx := (s.launch (s.region q.region).launch).ctx, region := q.region, hb := q.hb })
    ∧ (cmdSequencerChecks w = true → 16 ≤ (waitingAt s (stationOf w)).length → exec (.seqCissue c) s = .next s)
    ∧ (cmdSequencerChecks w = false → h.gv = true → exec (.seqCissue c) s =
        .next (offerCompletion (s.setSeq k { q with issue := q.issue + 1, pc := q.pc + 4 }) (s.region q.region).launch (.port k) k h.gvq.toNat (completionTok w q.issue 4 0 0)))
    ∧ (cmdSequencerChecks w = false → h.gv = false → ∃ t, exec (.seqCissue c) s = .next t
        ∧ t.seq k = { q with issue := q.issue + 1, stopped := true, cause := 0x25 } ∧ t.cmds = s.cmds))
  ∧ (∀ (s : State) (k : TileKey) (id : Nat), s.focus = .seq k → s.seqs.has k = true → s.regionStops (s.seq k).region = false → (s.seq k).stopped = false →
    let q := s.seq k
    let c := s.cmd id
    let h := decodeHead c.word
    (q.wait = .verdict id → c.away = none → verdict s id c = none → ∃ t, exec .cissueVerdict s = .next t ∧ t.sends = s.sends + 1
        ∧ (h.tk = false → t.seq k = { q with pc := q.pc + 4, wait := .none } ∧ t.cmd id = { c with phase := .accepted, order := s.sends })
        ∧ (h.tk = true → t.seq k = { q with wait := .tkq id h.tkq } ∧ t.cmd id = { c with phase := .held, order := s.sends }))
    ∧ (∀ st, q.wait = .verdict id → c.away = none → verdict s id c = some st → h.gv = false → ∃ t, exec .cissueVerdict s = .next t
        ∧ t.seq k = { q with wait := .none, stopped := true, cause := if st = 4 then 0x25 else 0x26 } ∧ t.cmd id = { c with phase := .done, status := st })
    ∧ (∀ st, q.wait = .verdict id → c.away = none → verdict s id c = some st → h.gv = true → exec .cissueVerdict s =
        .next (offerCompletion ((s.setCmd id { c with phase := .done, status := st }).setSeq k { q with pc := q.pc + 4, wait := .none }) c.launch c.station k h.gvq.toNat
          (completionTok c.word (q.issue - 1) st 0 0)))
    ∧ (∀ n x xs, q.wait = .tkq id n → q.fifo n.toNat = x :: xs → ∃ t, exec .tkqTake s = .next t
        ∧ t.seq k = { q.learn s x with pc := q.pc + 4, wait := .none, q := q.q.put n.toNat xs } ∧ t.cmd id = { c with phase := .accepted, hb := hbJoin c.hb x.hb }))
  ∧ ∀ (s : State) (st : Station) (id : Nat), s.focus = .station st → bindDue s st = none →
    let arrived := fun (i : Nat) => i ∈ waitingAt s st ∧ (s.cmd i).phase ≠ .queued ∧ passedOver s (s.cmd i) = false
    arrived id → (∀ j, arrived j → j ≠ id → (s.cmd id).order < (s.cmd j).order) →
    (startOk s (s.cmd id) = true → ∃ t, exec .commandStart s = .next t ∧ t.cmd id = { s.cmd id with phase := .started, order := s.sends } ∧ t.sends = s.sends + 1)
    ∧ (startOk s (s.cmd id) = false → exec .commandStart s = .next s)
    ∧ ((s.cmd id).phase ≠ .accepted ∨ s.cmds.any (fun x => sameStation (s.cmd id) x.2 && x.2.phase == .started && fresh x.2) = true → startOk s (s.cmd id) = false))
  ∧ (
  ∀ (s : State) (id : Nat) (k : TileKey) (issue : BitVec 32), s.focus = .cmd id → s.cmds.has id = true →
    let c := s.cmd id
    let h := decodeHead c.word
    let st := cmdStatus c
    let d := cmdDetails s c
    let e := s.setCmd id { c with phase := .done, out := [] }
    c.phase = .started → (cmdCode c.word = 0x28 → cmdLive s c = true) → cmdFinished s id c = true → c.origin = .seq k issue → cmdCode c.word ∉ [0x02, 0x13, 0x19, 0x1A] →
      (h.rel = true → released e c.hb h.scope = false → exec .commandRetire s = .next s)
      ∧ ((h.rel = true → released e c.hb h.scope = true) →
      (h.gv = true → ∃ x, exec .commandRetire s = .next (offerCompletion e c.launch c.station k h.gvq.toNat x) ∧ x.tt = .control ∧ x.seq = issue.setWidth 8
        ∧ (cmdCode c.word ≤ 5 → x.tag = (cmdRid c.word).setWidth 16) ∧ Word.lane x.pay 0 = BitVec.ofNat 32 st ∧ Word.lane x.pay 1 = BitVec.ofNat 32 d.1
        ∧ Word.lane x.pay 2 = BitVec.ofNat 32 d.2 ∧ ∀ j, 3 ≤ j → j < 16 → Word.lane x.pay j = 0)
      ∧ (h.gv = false → st = 0 ∨ st = 2 → exec .commandRetire s = .next e)
      ∧ (h.gv = false → st ≠ 0 → st ≠ 2 → (s.seq k).fails = [] → (s.seq k).stopped = false → s.saved.get? c.launch = none → ∃ t, exec .commandRetire s = .next t
        ∧ t.seq k = { s.seq k with stopped := true, cause := 0x26 } ∧ (t.cmd id).phase = .done)))

/-- R163 to R167, R170, R174, R271, R272, R342: a ride command sends a registration to every member of its stripe; each landing with a free entry reserves one and a full one refuses; the riders board when every member has accepted, and leave when one has refused (BUSY); `alight` takes them off, whichever launch's ride holds the RID at the PT. (Commit and cancel take one step: log 32; so does an alighting at every member: log 48.) R164, R166 to R169, R272 to R277: what a visit gives to the one rider of its landing: a segment of the ride's window leaves as its tokens, or is missed where the buffer has no room; a poisoned one stops the ride; a `sieve` lets the segment through whose elements match, a `fold` takes its elements, a `copy` posts its granules; a gather serves the addresses that lie in it and replies when all eight are served; a `kvride` collects its units. R51, R164, R285: an SX delivery is a scale token and a data token for each block, or for each packed group, each block in the ride's width by the segment's tag. R167: the result of a `fold` over the elements it took, and the one token that carries it. (A buffer with nothing in it takes a segment of any size: log 44; SEQ of a `kvride` token is the unit mod 256: log 156.) -/
def Obligations.RideCommands : Prop :=
  (∀ (s : State) (id : Nat) (h : CmdHead) (o : RideOps) (so : SieveOps) (co : CopyOps) (po : PageOps) (rid : BitVec 8), CmdAt s id →
    let c := s.cmd id
    let rides := fun (i : Instr) (c : Cmd) (ms : List Member) => ∃ t, exec i s = .next t ∧ t.sends = s.sends + 1
      ∧ t.cmd id = { c with admitted := true, members := ms.map (fun m => m.pc), pending := ms.map (fun m => m.pc), sentAt := s.sends }
    rides (.boardFlow h o) c (stripe s c.ctx o.reach)
    ∧ rides (.boardSnap h o) c (stripe s c.ctx o.reach)
    ∧ rides (.sieve h so) c (stripe s c.ctx so.reach)
    ∧ rides (.fold h o) { c with fold := List.replicate (o.cm1.toNat + 1) {} } (stripe s c.ctx o.reach)
    ∧ rides (.copy h co) c (stripe s c.ctx co.sreach)
    ∧ (∀ x e, mapFind s c.ctx po.vpn.toNat = some (x, e) → MapEntry.far e = false → MapEntry.transit e = false → cached s c.ctx po.vpn.toNat = false →
        rides (.pageout h po) c (stripe s c.ctx (MapEntry.crn e)))
    ∧ (∀ x e, mapFind s c.ctx po.vpn.toNat = some (x, e) → MapEntry.far e = true ∨ MapEntry.transit e = true →
        exec (.pageout h po) s = .next (s.setCmd id { c with admitted := true, status := 12 }))
    ∧ (rideOf s c rid = none → exec (.alight h rid) s = .next (s.setCmd id { c with admitted := true, status := 7 }))
    ∧ (∀ r x, rideOf s c rid = some (r, x) → riding s r = true →
        ∃ t, exec (.alight h rid) s = .next t ∧ (t.cmd r).status = 6 ∧ ∀ pc, hasRider (t.landing pc) r = false))
  ∧ (∀ (s : State) (id : Nat) (pc : PcKey), s.focus = .cmdAt id pc → s.cmds.has id = true →
    let c := s.cmd id
    c.phase = .started → isRide c = true → c.admitted = true → pc ∈ c.pending → earlierSent s c.station pc c.sentAt = false →
      (fencedPc s pc = false → (s.landing pc).riders.length < 64 → ∃ t r, exec .rideReserve s = .next t ∧ (t.landing pc).riders = (s.landing pc).riders ++ [r]
          ∧ r.cmd = id ∧ r.commit = false ∧ r.on = false ∧ t.cmd id = { c with pending := c.pending.erase pc, reserved := pc :: c.reserved })
      ∧ (fencedPc s pc = false → 64 ≤ (s.landing pc).riders.length → exec .rideReserve s = .next (s.setCmd id { c with pending := c.pending.erase pc, status := 1 })))
  ∧ (∀ (s : State) (id : Nat), s.focus = .cmd id → s.cmds.has id = true →
    let c := s.cmd id
    c.phase = .started → isRide c = true → c.admitted = true → c.underway = false → c.pending = [] →
      (c.status ≠ 12 → c.status ≠ 1 → ∃ t, exec .rideCommit s = .next t ∧ (t.cmd id).underway = true
          ∧ ∀ pc r, r ∈ (t.landing pc).riders → r.cmd = id → r.commit = true)
      ∧ (c.status = 1 → cmdCode c.word ≠ 0x1A → ∃ t, exec .rideCommit s = .next t ∧ (t.cmd id) = { c with underway := true } ∧ ∀ pc, hasRider (t.landing pc) id = false))
  ∧ (∀ (s : State) (pc : PcKey) (i : Nat) (r : Rider), s.focus = .landing pc i →
    let ld := s.landing pc
    let c := s.cmd r.cmd
    let cur := (ld.cursors.getD r.slot (0, 0)).1
    let lm := slotLen ld r.slot
    let ride := r.kind = .flow ∨ r.kind = .snap
    ld.riders[i]? = some r → r.commit = true → r.on = false → (r.kind = .snap → heldAt s ld r.slot = false) →
      (ride → (course s c).early = true → (course s c).ahead (Reach.rank (ld.reaches.getD r.slot 0)) lm cur lm = true) →
      ∃ t x, exec .riderBoard s = .next t ∧ (t.landing pc).riders[i]? = some x ∧ x.on = true ∧ x.start = cur ∧ x.at_ = ld.order ∧ x.cmd = r.cmd
        ∧ (ride → x.left = lm) ∧ (t.landing pc).order = ld.order + 1)
  ∧ (∀ (s : State) (pc : PcKey) (slot : Nat) (e : BitVec 128) (r : Rider), s.focus = .landing pc slot → (s.landing pc).reaches.get? slot = some e → Reach.valid e = true →
    s.dev.wiping = false → visitTurn s ⟨pc, slot, e⟩ = true → (s.landing pc).riders = [r] → r.on = true → r.cmd ≠ 0 →
    let m : Member := ⟨pc, slot, e⟩
    let loc := ((s.landing pc).cursors.getD slot (0, 0)).1
    let found := poisonSegment s m loc
    let u : State := { freePairs (applyUpdates found m loc) pc with poison := found.poison }
    let c := u.cmd r.cmd
    let x := course u c
    let seg := Stripe.segAt x.ms (Reach.rank e) loc
    let code := cmdCode c.word
    let ort := (Word.field c.word 80 4).toNat
    let word := fun (off i : Nat) => (Word.ofBytes 32 (Mem.readN u.dram (segByte m loc (4 * (off + i))) 4) : Lane)
    let due := if r.left ≠ 0 then x.has seg = true else (slot, loc, 0) ∈ r.want
    let wants := (slot, loc, 0) ∈ r.want
    ∃ t, exec .segmentVisit s = .next t ∧
      (r.kind = .flow ∨ r.kind = .snap → r.slot = slot → code ≠ 4 →
        (¬due ∨ r.dead = true → t.cmd r.cmd = c)
        ∧ (due → r.dead = false → segPoisoned u m loc = true → (t.cmd r.cmd).stopped = true ∧ (t.cmd r.cmd).out = c.out)
        ∧ (due → r.dead = false → segPoisoned u m loc = false →
            let takes := fun (ts : List Tok) (count : Nat) =>
              (bufferTakes (buffered c pc) ts.length = true → t.cmd r.cmd = { c with out := c.out ++ ts.map (fun y => { rider := pc, route := ort, tok := y }), taken := c.taken + count })
              ∧ (bufferTakes (buffered c pc) ts.length = false → t.cmd r.cmd = { c with missed := c.missed + 1 } ∧ ∃ y, (t.landing pc).riders = [y] ∧ y.cmd = r.cmd ∧ (slot, loc, 0) ∈ y.want)
            (code < 2 → takes (boardTokens u c.word m loc seg) 1)
            ∧ (code = 3 → ∃ ts, takes ts ts.length
                ∧ let n := (Word.field c.word 60 4).toNat + 1
                  let off := (Word.field c.word 64 10).toNat
                  let holds := fun (i : Nat) => sieveHolds (Word.field c.word 74 4) (Word.field c.word 57 3) (word off i) (Word.field c.word 0 32) = true
                  ((∀ i, i < n → ¬holds i) → ts = [])
                  ∧ ((∃ i, i < n ∧ holds i) → ∃ y, ts = [y] ∧ y.tt = .data ∧ y.tag = BitVec.ofNat 16 (seg / 256) ∧ y.seq = BitVec.ofNat 8 seg
                      ∧ (∀ i, i < 15 → i < n → Word.lane y.pay i = word off i) ∧ ∀ i, i < n → ((Word.lane y.pay 15).getLsbD i = true ↔ holds i)))
            ∧ (code = 0x18 → ∀ d l, Stripe.place (stripe u c.ctx (Word.field c.word 88 4)) ((Word.field c.word 40 24).toNat + seg - (Word.field c.word 64 24).toNat) = some (d, l) →
                bufferTakes (c.flight.filter (fun f => f.2.2.key.head? == some pc)).length (Reach.g e / 64) = true →
                (t.cmd r.cmd).posted = c.posted + Reach.g e / 64 ∧ ∃ ps, (t.cmd r.cmd).flight = c.flight ++ ps ∧ ps.length = Reach.g e / 64
                  ∧ ∀ g p, ps[g]? = some p → p.2.1 = d.pc ∧ p.2.2.slot = d.slot ∧ p.2.2.seg = l ∧ p.2.2.word = 16 * g ∧ p.2.2.op = .write ∧ p.2.2.ftag = segTag u m loc
                      ∧ p.2.2.vals = lanesOf (Mem.readN u.dram (segByte m loc (64 * g)) 64))))
      ∧ (r.kind = .flow → r.slot = slot → code = 4 → due → r.dead = false → segPoisoned u m loc = false → (t.cmd r.cmd).taken = c.taken + 1
          ∧ ∀ i, i < c.fold.length → (t.cmd r.cmd).fold[i]? = some (foldAdd (Word.field c.word 74 4) (Word.field c.word 50 2) (c.fold.getD i {}) (word (Word.field c.word 64 10).toNat i)))
      ∧ (r.kind = .flow → r.slot = slot → code = 4 → due → r.dead = false → segPoisoned u m loc = false → r.left = 1 → r.want = [] →
          c.phase = .started → c.underway = true → c.extended = false → c.status ≠ 1 → c.pending = [] → s.landings.keys.Pairwise (· < ·) → (∀ q l, (q, l) ∈ s.landings → q ≠ pc → hasRider l r.cmd = false) →
          ∃ y, (t.cmd r.cmd).extended = true ∧ (t.cmd r.cmd).out = c.out ++ [{ rider := 1536, route := ort, tok := y }] ∧ y.tt = .data ∧ y.tag = (cmdRid c.word).setWidth 16 ∧ y.seq = 0
            ∧ ∀ i, i < 16 → Word.lane y.pay i = if i < c.fold.length then foldResult (Word.field c.word 74 4) (Word.field c.word 50 2) (c.taken + 1) ((t.cmd r.cmd).fold.getD i {}) else 0)
      ∧ (r.kind = .gather → wants → segPoisoned u m loc = false → ∀ q, (portAt u c (cmdPort c)).window = [q] → (portAt u c (cmdPort c)).ready = [] → (portAt u c (cmdPort c)).eddy = [] → q.dead = false → q.diverted = false →
          let got := serveGot u c.ctx m loc q
          (∀ i y o, i < 8 → q.got.get? i = none → paPlace u c.ctx (q.addrs.getD i 0) = some (y, loc, o) → y.pc = pc → y.slot = slot →
              got.get? i = some (Word.ofBytes 64 (Mem.readN u.dram (segByte m loc o) 8)))
          ∧ (got.length = 8 → (t.cmd r.cmd).taken = c.taken + 1 ∧ ∃ y, (t.cmd r.cmd).out = c.out ++ [{ rider := 1536, route := ort, tok := y }] ∧ y.tag = q.tag ∧ y.seq = q.seq
              ∧ ∀ i, i < 8 → Word.a64 y.pay i = got.getD i 0)
          ∧ (got.length ≠ 8 → (t.cmd r.cmd).out = c.out))
      ∧ (r.kind = .kv → wants → segPoisoned u m loc = false →
          let y := kvCollect u c m loc
          (∀ b i, b ∈ c.blocks → i ∈ kvTakes u c m loc b → ∀ z o, kvPlace u c b i = some (z, loc, o) →
              ∃ b2 ∈ y.blocks, b2.index = b.index ∧ b2.data.get? i = some (kvTokens c.word b.index i (segTag u m loc) (Mem.readN u.dram (segByte m loc o) 64)))
          ∧ (bufferTakes (kvBuffered u c pc) (kvBuffered u y pc - kvBuffered u c pc) = false → t.cmd r.cmd = { c with missed := c.missed + 1 })
          ∧ (bufferTakes (kvBuffered u c pc) (kvBuffered u y pc - kvBuffered u c pc) = true → y.blocks.any (kvNeeds u y m loc) = false → t.cmd r.cmd = kvEmit u y)))
  ∧ (∀ (ety : BitVec 4) (fop : BitVec 2) (vs : List Lane),
    let r := foldResult ety fop vs.length (vs.foldl (foldAdd ety fop) {})
    let nan := fun (v : Lane) => Fp.f32.read v.toNat = .nan
    let order := fun (v : Lane) => if ety = 0 then v.toInt else if ety = 1 then (v.toNat : Int) else if v.msb then -1 - ((v.toNat % 2 ^ 31 : Nat) : Int) else v.toNat
    let none_ := fun (largest smallest : Lane) => vs = [] → (fop = 1 → r = largest) ∧ (fop = 2 → r = smallest)
    ety < 3 →
    (fop = 3 → r = BitVec.ofNat 32 (vs.countP (fun v => v ≠ 0 ∧ ¬(ety = 2 ∧ v = 0x80000000))))
    ∧ (fop = 0 → ety ≠ 2 → r = BitVec.ofNat 32 (vs.map (·.toNat)).sum)
    ∧ (fop = 0 → ety = 2 →
        ((∃ v ∈ vs, nan v) ∨ (0x7F800000 ∈ vs ∧ 0xFF800000 ∈ vs) → r = 0x7FC00000)
        ∧ ((∀ v ∈ vs, ¬nan v) → 0x7F800000 ∈ vs → 0xFF800000 ∉ vs → r = 0x7F800000)
        ∧ ((∀ v ∈ vs, ¬nan v) → 0xFF800000 ∈ vs → 0x7F800000 ∉ vs → r = 0xFF800000)
        ∧ ((∀ v ∈ vs, Pj.finite v = true) →
            let total := (vs.map Pj.units).sum
            (total ≠ 0 → r = BitVec.ofNat 32 (Fp.round Fp.f32 .rn (decide (total < 0)) total.natAbs (-149)).bits)
            ∧ (total = 0 → r = if vs ≠ [] ∧ ∀ v ∈ vs, v = 0x80000000 then 0x80000000 else 0)))
    ∧ (ety = 0 → none_ 0x7FFFFFFF 0x80000000) ∧ (ety = 1 → none_ 0xFFFFFFFF 0) ∧ (ety = 2 → none_ 0x7F800000 0xFF800000)
    ∧ (fop = 1 ∨ fop = 2 → ety = 2 → vs ≠ [] → (∀ v ∈ vs, nan v) → r = 0x7FC00000)
    ∧ (fop = 1 ∨ fop = 2 → (∃ v ∈ vs, ety = 2 → ¬nan v) → r ∈ vs ∧ (ety = 2 → ¬nan r)
        ∧ ∀ v ∈ vs, (ety = 2 → ¬nan v) → (fop = 1 → order r ≤ order v) ∧ (fop = 2 → order v ≤ order r)))
  ∧ (∀ (s : State) (w : Word128) (m : Member) (loc seg : Nat),
    let ety : BitVec 4 := Word.field w 74 4
    let bs := Mem.readN s.dram (segByte m loc 0) (Reach.g m.entry)
    let off := 4 * (Word.field w 64 10).toNat
    let n := (Word.field w 52 12).toNat + 1
    let size := fun (e : BitVec 4) => if e = 5 then 8 else if e = 6 then 12 else 18
    let bits := fun (e : BitVec 4) => if e = 5 then 2 else if e = 6 then 4 else 7
    let per := if w.getLsbD 49 = false then 1 else if ety = 5 then 10 else if ety = 6 then 6 else 4
    let tag := segTag s m loc
    let sx := 5 ≤ tag ∧ tag ≤ 7
    let within := fun (k : Nat) => off + (k + 1) * size tag ≤ Reach.g m.entry
    let scaleOf := fun (k : Nat) => if n ≤ k then 0 else if ¬sx then 0xFF00 else if within k then (Word.ofBytes 16 ((bs.drop (off + k * size tag)).take 2)).toNat else 0
    let codeOf := fun (k i : Nat) =>
      let c := (Word.ofBytes 512 ((bs.drop (off + k * size tag + 2)).take (size tag - 2))).toNat / 2 ^ ((bits tag + 1) * i) % 2 ^ (bits tag + 1)
      let mag := c % 2 ^ bits tag
      let d := 2 ^ (bits tag - bits ety)
      let near := if 2 * (mag % d) < d ∨ (2 * (mag % d) = d ∧ mag / d % 2 = 0) then mag / d else mag / d + 1
      if k < n ∧ sx ∧ within k then
        c / 2 ^ bits tag * 2 ^ bits ety + (if bits tag ≤ bits ety then mag * 2 ^ (bits ety - bits tag) else if 2 ^ bits ety ≤ near then 2 ^ bits ety - 1 else near)
      else 0
    let ts := boardTokens s w m loc seg
    5 ≤ ety → ety ≤ 7 → ts.length = 2 * ((n + per - 1) / per) ∧ ∀ j, j < (n + per - 1) / per → ∃ a b, ts[2 * j]? = some a ∧ ts[2 * j + 1]? = some b
      ∧ a.tt = .scale ∧ a.tag = BitVec.ofNat 16 (seg / 256) ∧ a.seq = BitVec.ofNat 8 per ∧ b.tt = .data ∧ b.tag = BitVec.ofNat 16 (seg / 256) ∧ b.seq = BitVec.ofNat 8 seg
      ∧ ∀ k, k < per → a.pay.toNat / 2 ^ (16 * k) % 2 ^ 16 = scaleOf (per * j + k)
        ∧ ∀ i, i < 16 → b.pay.toNat / 2 ^ ((bits ety + 1) * (16 * k + i)) % 2 ^ (bits ety + 1) = codeOf (per * j + k) i)
  ∧ ∀ (s : State) (w : Word128) (m : Member) (loc seg : Nat),
    let ety : BitVec 4 := Word.field w 74 4
    let bs := Mem.readN s.dram (segByte m loc 0) (Reach.g m.entry)
    let field := if ety = 8 then bs else (bs.drop (4 * (Word.field w 64 10).toNat)).take (((Word.field w 52 12).toNat + 1) * etypeBytes ety)
    let ts := boardTokens s w m loc seg
    ety = 8 ∨ ety < 5 → ts.length = (field.length + 63) / 64 ∧ ∀ (j : Nat) (y : Tok), ts[j]? = some y →
      y.tt = .data ∧ y.tag = BitVec.ofNat 16 (seg / 256) ∧ y.seq = BitVec.ofNat 8 seg ∧ ∀ b, b < 64 → y.pay.extractLsb' (8 * b) 8 = field.getD (64 * j + b) 0

/-- R168, R169, R337, R340, R343, R347: `gather` opens its port's unit, which takes a request or an end-of-stream token at `pt.g`; `kvride` asks its block engine, which admits it with its snapshot; a fault token takes the lowest free eddy entry; a resume token releases an entry whose addresses translate and leaves one that is not in use alone; the firmware answers a tier event with one `pagein`, on an engine of its choice, with GV = 0 and no launch that waits for it (log 47), where the far tier is accepted and the page lies in its far pool. R333: an admission of a table that is another context's is DENIED. -/
def Obligations.GatherAndEddy : Prop :=
  (∀ (s : State) (id : Nat) (h : CmdHead) (rid : BitVec 8) (ort : BitVec 4) (o : KvOps), CmdAt s id →
    let c := s.cmd id
    (∃ t, exec (.gather h rid ort) s = .next t ∧ t.cmd id = { c with admitted := true }
        ∧ t.port (cmdPort c) = { s.port (cmdPort c) with gather := some id, closing := none, window := [], ready := [] })
    ∧ (c.underway = false → ∃ t, exec (.kvride h o) s = .next t ∧ t.cmd id = { c with underway := true }
        ∧ (t.base o.stack.toNat).reqs = (s.base o.stack.toNat).reqs ++ [.cmd id]))
  ∧ (∀ (s : State) (id i : Nat), s.focus = .cmd id → s.cmds.has id = true →
    let c := s.cmd id
    let n := (Word.field c.word 65 5).toNat
    let q := (Word.field c.word 76 20).toNat
    let g := (Word.field c.word 70 6).toNat
    let b := s.base n
    let rest := { b with reqs := b.reqs.eraseIdx i }
    c.phase = .started → cmdCode c.word = 5 → c.stopped = false → c.admitted = false → cmdReqIdx b id = some i → reqTurn s b i = true → b.evicted.get? q = none →
      (cmdForeign s c.ctx c.word = true → exec .kvrideAdmit s = .next ((s.setBase n rest).setCmd id { c with admitted := true, status := 5 }))
      ∧ (cmdForeign s c.ctx c.word = false → groupOf b c.ctx q g = none → exec .kvrideAdmit s = .next ((s.setBase n rest).setCmd id { c with admitted := true, status := 9 }))
      ∧ (∀ t x, cmdForeign s c.ctx c.word = false → groupOf b c.ctx q g = some (t, x) →
          exec .kvrideAdmit s = .next (kvWants ((s.setBase n (groupPut rest q t g x)).setCmd id { c with admitted := true, blocks := kvSnapshot s c t x }) id)))
  ∧ (∀ (s : State) (k : TileKey) (id : Nat) (x : Parcel), UnitAt s k .pt →
    let p := s.port k
    p.gather = some id → p.closing = none → p.gStopped = false → (s.tile k).ports.get? 0x31 = some x →
      (x.tok.tt = .data ∨ x.tok.tt = .control → p.window.length < 64 →
        ∃ t, exec .gatherRequest s = .next t ∧ (t.tile k).ports.has 0x31 = false ∧ (t.port k).accepts = p.accepts + 1)
      ∧ (x.tok.tt = .eos → ∃ t, exec .gatherRequest s = .next t ∧ (t.tile k).ports.has 0x31 = false ∧ (t.port k).closing = some x.tok)
      ∧ (∀ e, x.tok.tt = .fault → p.eddy.lowestFree 64 0 = some e → ∃ t d, exec .eddyDivert s = .next t ∧ (t.tile k).ports.has 0x31 = false
          ∧ (t.port k).eddy.get? e = some d ∧ d.kv = false ∧ d.tag = x.tok.tag ∧ d.seq = x.tok.seq ∧ d.body = x.tok.pay ∧ d.cmd = id ∧ d.vc = x.tok.vc ∧ d.round = x.round))
  ∧ (∀ (s : State) (k : TileKey) (x : Parcel), UnitAt s k .pt →
    let p := s.port k
    let e := (Word.lane x.tok.pay 0).toNat
    p.rStopped = false → (s.tile k).ports.get? 0x32 = some x → x.tok.tt = .resume →
      (e < 64 → p.eddy.get? e = none → exec .resumeToken s = .next (portTake s k 0x32))
      ∧ (∀ d, e < 64 → p.eddy.get? e = some d → d.kv = false → p.window.length < 64 →
          (∀ i, i < 8 → elemClass (Word.a64 (retranslate s (s.cmd d.cmd).ctx d) i) = 0) →
          ∃ t, exec .resumeToken s = .next t ∧ (t.tile k).ports.has 0x32 = false ∧ (t.port k).eddy.get? e = none)
      ∧ (64 ≤ e → exec .resumeToken s = .next (raiseTrap s (unitSite s k 0x32 0 (some x.tok)) 0x02 0)))
  ∧ ∀ (s : State) (k : TileKey) (w : BitVec 64) (ws : List (BitVec 64)) (fpool : BitVec 16) (fpage : Nat), s.focus = .tile k →
    let v := (Word.field w 0 35).toNat
    let die := 12 + Config.tierEngine s.fresh / 32 % 2
    let idx := Config.tierEngine s.fresh % 32
    (s.port k).tier = w :: ws → tierToSeq s k = false →
      s.cmds.any (fun x => x.2.origin == .firmware && cmdCode x.2.word == 0x19 && x.2.ctx == s.ctxOf k && x.2.phase != .done && (Word.field x.2.word 61 35).toNat == v) = false →
      farPlace s (s.ctxOf k) v = some (fpool, fpage) →
      let known := feature s 3 = true ∧ ∃ p, (s.ctx (s.ctxOf k)).farpools.get? fpool.toNat = some p ∧ fpage < p.pages.toNat
      (¬known → exec .firmwareTierEvent s = .next (s.setPort k { s.port k with tier := ws }))
      ∧ (known → (waitingAt s (.engine die idx)).length < 16 →
      ∃ t, exec .firmwareTierEvent s = .next t ∧ t.port k = { s.port k with tier := ws }
        ∧ t.cmd (s.nextCmd + 1) = { word := firmwarePagein die idx v fpool fpage, station := .engine die idx, origin := .firmware, launch := s.launchOf k
                                    ctx := s.ctxOf k, region := 0, phase := .accepted, order := s.sends })

/-- R171, R172, R186, R269, R278, R279: an update command takes the tokens at its `pt.q` in turn and posts each; a landing stamps what it accepts; a visit, in the visit order of its stripe, applies the eligible updates of its segment, every word by the command's rule and nothing else, and the cursor moves on. R282, R369: an update to a poisoned granule is discarded, unless it writes the granule whole. -/
def Obligations.UpdateCommands : Prop :=
  (∀ (s : State) (id : Nat) (h : CmdHead) (o : UpdOps) (reach : BitVec 4) (seg : BitVec 24) (i : Instr), CmdAt s id →
    let c := s.cmd id
    (i ∈ [.updW h o, .updAdd h o, .updMax h o, .updScadd h o] → (∀ j x, (j, x) ∈ s.cmds → sameStation c x = true → x.phase = .started → x.order < c.order → isUpd x = true → updTokens x ≤ x.taken) →
      exec i s = .next (s.setCmd id { c with admitted := true }))
    ∧ (i ∈ [.updW h o, .updAdd h o, .updMax h o, .updScadd h o] → (∃ j x, (j, x) ∈ s.cmds ∧ sameStation c x = true ∧ x.phase = .started ∧ x.order < c.order ∧ isUpd x = true ∧ x.taken < updTokens x) →
      exec i s = .next (s.setCmd id { c with underway := true }))
    ∧ (∀ m loc, Stripe.place (stripe s c.ctx reach) seg.toNat = some (m, loc) → weirRoom s m.pc 1 = true → (s.port (cmdPort c)).qStopped = false → cmdRound s c ≠ none → 2048 ≤ tempoHeldAt s m.pc →
      ∃ d, exec (.statc h reach seg) s = .next (raiseTrap s (unitSite s (cmdPort c) 0x30 0 none) 0x13 d))
    ∧ (∀ m loc, Stripe.place (stripe s c.ctx reach) seg.toNat = some (m, loc) → weirRoom s m.pc 1 = true → (s.port (cmdPort c)).qStopped = false →
      (cmdRound s c ≠ none → tempoHeldAt s m.pc < 2048) →
      ∃ t u, exec (.statc h reach seg) s = .next t ∧ t.cmd id = { c with admitted := true, posted := 1, flight := [(s.sends, m.pc, u)] } ∧ u.cmd = id ∧ u.op = .add ∧ u.ety = 1 ∧ u.ftag = 0
        ∧ u.round = (if s.launchFlag c.launch 1 then some (s.port (cmdPort c)).cr else none) ∧ u.slot = m.slot ∧ u.seg = loc ∧ u.word = 0 ∧ u.vals = (List.range 16).map (fun i => if i < 11 then statSum (statTiles s c.region) i else 0))
    ∧ (Stripe.place (stripe s c.ctx reach) seg.toNat = none → exec (.statc h reach seg) s = .next (s.setCmd id { c with admitted := true, status := 8 })))
  ∧ (∀ (s : State) (k : TileKey) (id : Nat) (c : Cmd) (x : Parcel), UnitAt s k .pt →
    (s.tile k).ports.get? 0x30 = some x → updTaking s k = some (id, c) → (s.port k).qStopped = false → x.tok.tt = .data →
    let at_ := Stripe.place (stripe s c.ctx (Word.field c.word 92 4)) (x.tok.tag.toNat * 256 + x.tok.seq.toNat)
    (∀ m loc, at_ = some (m, loc) → weirRoom s m.pc 1 = true → (cmdCode c.word = 0x13 → id ∈ (s.landing m.pc).pairs ∨ (s.landing m.pc).pairs.length < 2) →
      (cmdRound s c ≠ none → tempoHeldAt s m.pc < 2048) →
      ∃ t u, exec .updTokenTake s = .next t ∧ (t.tile k).ports.has 0x30 = false
        ∧ t.cmd id = { c with taken := c.taken + 1, posted := c.posted + 1, flight := c.flight ++ [(s.sends, m.pc, u)], hb := hbJoin c.hb (pastOf s [x.tok]) }
        ∧ u.cmd = id ∧ u.ety = Word.field c.word 88 4 ∧ u.round = (if s.launchFlag c.launch 1 then some (s.port (cmdPort c)).cr else none)
        ∧ (cmdCode c.word = 0x10 → u.op = .write ∧ u.ftag = Word.field c.word 60 4) ∧ (cmdCode c.word = 0x11 → u.op = .add ∧ u.ftag = 0)
        ∧ (cmdCode c.word = 0x12 → u.op = .max ∧ u.ftag = 0) ∧ (cmdCode c.word = 0x13 → u.op = .scadd (Word.field c.word 32 32) (Word.field c.word 0 32) ∧ u.ftag = 0)
        ∧ u.slot = m.slot ∧ u.seg = loc ∧ u.word = (Word.field c.word 78 10).toNat ∧ u.vals.length = (Word.field c.word 74 4).toNat + 1
        ∧ ∀ j, j < u.vals.length → u.vals[j]? = some (Word.lane x.tok.pay j))
    ∧ (at_ = none → ∃ t, exec .updTokenTake s = .next t ∧ (t.tile k).ports.has 0x30 = false ∧ (t.cmd id).missed = c.missed + 1
        ∧ (c.status = 0 → (t.cmd id).status = 8)))
  ∧ (∀ (s : State) (id : Nat) (pc : PcKey) (no : Nat) (w : Weir) (rest : List (Nat × PcKey × Weir)), s.focus = .cmdAt id pc → s.cmds.has id = true →
    (s.cmd id).flight = (no, pc, w) :: rest → earlierSent s (s.cmd id).station pc no = false → fencedPc s pc = false → (s.landing pc).weir.length < 4096 →
      ∃ t, exec .postingAccept s = .next t ∧ t.cmd id = { s.cmd id with flight := rest } ∧ (t.landing pc).order = (s.landing pc).order + 1
        ∧ (t.landing pc).weir = (s.landing pc).weir ++ [{ w with stamp := (s.landing pc).order }])
  ∧ (∀ (s : State) (m : Member) (w : Weir), Mem.wf s.dram = true →
    let t := applyWeir s m w
    let gran := segByte m w.seg (w.word / 16 * 64)
    let base := segByte m w.seg (4 * w.word)
    let bad := s.poison.contains gran = true
    let whole := w.op = .write ∧ w.vals.length = 16
    let at_ := fun (d : List Host.Cell) (i : Nat) => (Word.ofBytes 32 (Mem.readN d (base + 4 * i) 4) : Lane)
    let becomes := fun (f v : Lane) => match w.op with
      | .write => v
      | .add => if w.ety = 2 then BitVec.ofNat 32 (Fp.add Fp.f32 .rn f.toNat v.toNat).bits else f + v
      | .max => if w.ety = 2 then BitVec.ofNat 32 (Fp.minMax Fp.f32 true f.toNat v.toNat)
          else if w.ety = 0 then (if f.toInt < v.toInt then v else f) else (if f.toNat < v.toNat then v else f)
      | .scadd x y => match Fp.mulV (Fp.f32.read x.toNat) (Fp.f32.read f.toNat), Fp.mulV (Fp.f32.read y.toNat) (Fp.f32.read v.toNat) with
        | some p, some q => BitVec.ofNat 32 (Fp.addV Fp.f32 .rn p q).bits
        | _, _ => 0x7FC00000
    (bad → ¬whole → t.dram = s.dram ∧ t.poison = s.poison ∧ (w.cmd ≠ 0 → (t.cmd w.cmd).applied = (s.cmd w.cmd).applied))
    ∧ (¬bad ∨ whole → t.poison.contains gran = false ∧ (w.cmd ≠ 0 → (t.cmd w.cmd).applied = (s.cmd w.cmd).applied + 1)
      ∧ (∀ i v, w.vals[i]? = some v → at_ t.dram i = becomes (at_ s.dram i) v)
      ∧ ∀ a, a < base ∨ base + 4 * w.vals.length ≤ a → Mem.readN t.dram a 1 = Mem.readN s.dram a 1))
  ∧ ∀ (s : State) (pc : PcKey) (slot : Nat) (e : BitVec 128), s.focus = .landing pc slot → (s.landing pc).reaches.get? slot = some e → Reach.valid e = true →
    s.dev.wiping = false → (s.landing pc).riders = [] →
      let cur := (s.landing pc).cursors.getD slot (0, 0)
      let m : Member := ⟨pc, slot, e⟩
      (visitTurn s m = false → exec .segmentVisit s = .next s)
      ∧ (visitTurn s m = true → ∃ t, exec .segmentVisit s = .next t ∧ t.dram = (applyUpdates (poisonSegment s m cur.1) m cur.1).dram
        ∧ (t.landing pc).cursors.getD slot (0, 0) = (if Reach.lseg e ≤ cur.1 + 1 then (0, cur.2 + 1) else (cur.1 + 1, cur.2)))

/-- R177, R178, R333, R345: `bseq` creates, restores or extends a sequence's table; `bdrop` frees its blocks one by one and then the table. Each acts when its request has its turn at the engine of its stack; where what it names is another context's by then, it is DENIED. -/
def Obligations.BlockCommands : Prop :=
  ∀ (s : State) (id i : Nat) (h : CmdHead) (o : BseqOps), CmdAt s id →
    let c := s.cmd id
    let n := o.stack.toNat
    let q := o.seqid.toNat
    let b := s.base n
    let done := fun (x : Host.Outcome State Fault Refusal) (st : Nat) => ∃ t, x = .next t ∧ t.cmd id = { c with admitted := true, status := st }
      ∧ (t.base n).reqs = b.reqs.eraseIdx i ∧ (t.base n).seqs = b.seqs
    cmdReqIdx b id = some i → reqTurn s b i = true → (Word.field c.word 76 20).toNat = q →
    (cmdForeign s c.ctx c.word = true → ∀ x ∈ [Instr.bseqNew h o, .bseqRestore h o, .bseqAddg h o, .bdrop h o.seqid o.stack], done (exec x s) 5)
    ∧ (cmdForeign s c.ctx c.word = false →
      (anyTable b q = none → b.seqs.length < Config.seqRecords → ∃ t, exec (.bseqNew h o) s = .next t ∧ t.cmd id = { c with admitted := true, status := 0 }
          ∧ ∃ x, (t.base n).seqs.get? q = some x ∧ x.ctx = c.ctx ∧ x.pool = o.pool.toNat
            ∧ ∀ g, x.groups.get? g = if o.g0.toNat ≤ g ∧ g ≤ o.g0.toNat + o.gnm1.toNat then some { policy := o.policy } else none)
      ∧ (anyTable b q ≠ none → done (exec (.bseqNew h o) s) 10)
      ∧ ((∀ x, b.evicted.get? q = some x → x.ctx ≠ c.ctx) → b.seqs.get? q = none → done (exec (.bseqRestore h o) s) 9 ∧ done (exec (.bseqAddg h o) s) 9 ∧ done (exec (.bdrop h o.seqid o.stack) s) 9)
      ∧ (∀ x, b.seqs.get? q = some x →
          (∃ t, exec (.bseqRestore h o) s = .next t ∧ t.cmd id = { c with admitted := true, status := 0 } ∧ (t.base n).seqs.get? q = some { x with used := b.uses })
          ∧ ((∀ g, o.g0.toNat ≤ g → g ≤ o.g0.toNat + o.gnm1.toNat → x.groups.get? g = none) → ∃ t, exec (.bseqAddg h o) s = .next t
              ∧ t.cmd id = { c with admitted := true, status := 0 } ∧ ∃ y, (t.base n).seqs.get? q = some y
              ∧ ∀ g, y.groups.get? g = if o.g0.toNat ≤ g ∧ g ≤ o.g0.toNat + o.gnm1.toNat then some { policy := o.policy } else x.groups.get? g)
          ∧ (∀ g, o.g0.toNat ≤ g → g ≤ o.g0.toNat + o.gnm1.toNat → x.groups.has g = true → done (exec (.bseqAddg h o) s) 10)
          ∧ ((∀ g y, (g, y) ∈ x.groups → y.leaf = []) → ∃ t, exec (.bdrop h o.seqid o.stack) s = .next t ∧ t.cmd id = { c with admitted := true, status := 0 }
              ∧ (t.base n).seqs.get? q = none)
          ∧ (∀ g y a as, fullGroup x = some (g, y) → y.leaf = a :: as → ∃ t z, exec (.bdrop h o.seqid o.stack) s = .next t ∧ (t.cmd id).detail = c.detail + 1
              ∧ (t.base n).seqs.get? q = some z ∧ (z.groups.get? g).map (fun u => u.leaf) = some as
              ∧ ∀ p, b.pools.get? x.pool = some p → ((t.base n).pools.get? x.pool).map (fun p => p.used) = some (p.used.filter (· != a.toNat)))))

/-- R175, R179 to R185, R301: `bind` starts the port's generator, which sends the addresses of its loops in odometer order, eight to a token and the last one repeated to fill a token, and at last an end-of-stream token; `unbind` of an idle one answers at once; `eos`, `tempo` and `drain` send markers, and in tempo mode `tempo` its round marks, once no element of the round is diverted (R303), which landings note; `fence.e` completes; `cfgld` stages a block; `pagein` sets TRANSIT of a far page. -/
def Obligations.PortCommands : Prop :=
  (∀ (s : State) (id : Nat) (h : CmdHead) (o : BindOps) (po : PageOps) (ort : BitVec 4) (tag : Tag) (round : BitVec 32) (m : BitVec 16) (eng : Bool) (blk : BitVec 12), CmdAt s id →
    let c := s.cmd id
    let k := cmdPort c
    let p := s.port k
    let base := if o.base = 0 then unitBase (s.tile k) else o.base
    let to_ := fun (x : Tok) => (maskRoutes (s.tile k) m).map (fun r => ({ rider := 1536, route := r, tok := x } : Leaving))
    (∃ t, exec (.bindStart h o) s = .next t ∧ t.port k = { p with gen := some id, base := base, stopAt := none, lc := [0, 0, 0, 0], sent := 0 } ∧ (t.cmd id).admitted = true)
    ∧ (∃ t, exec (.bindResume h o) s = .next t ∧ t.port k = { p with gen := some id, base := base, stopAt := none } ∧ (t.cmd id).admitted = true)
    ∧ (p.gen = none → exec (.unbind h) s = .next (s.setCmd id { c with admitted := true, extended := true, detail := p.lc.getD 0 0, detail2 := p.lc.getD 1 0 }))
    ∧ (p.gen.isSome = true → p.stopAt = none → ∃ t, exec (.unbind h) s = .next t ∧ t.port k = { p with stopAt := some id })
    ∧ exec (.eos h ort tag) s = .next (s.setCmd id { c with admitted := true, out := [{ rider := 1536, route := ort.toNat, tok := { tt := .eos, tag := tag } }] })
    ∧ exec (.drainCmd h m) s = .next (s.setCmd id { c with admitted := true, out := to_ { tt := .drain } })
    ∧ (s.launchFlag c.launch 1 = false → ∃ t, exec (.tempo h round m) s = .next t ∧ t.port k = p
        ∧ t.cmd id = { c with admitted := true, out := to_ { tt := .tempo, pay := round.setWidth 512 }, pending := [], sentAt := s.sends })
    ∧ (s.launchFlag c.launch 1 = true → roundDiverted s k round.toNat = true → exec (.tempo h round m) s = .next (s.setCmd id { c with underway := true }))
    ∧ (s.launchFlag c.launch 1 = true → roundDiverted s k round.toNat = false → ∃ t, exec (.tempo h round m) s = .next t ∧ t.port k = { p with cr := round.toNat + 1 }
        ∧ t.cmd id = { c with admitted := true, out := to_ { tt := .tempo, pay := round.setWidth 512 }, pending := ctxLandings s c.ctx, sentAt := s.sends })
    ∧ exec (.fenceE h eng) s = .next (s.setCmd id { c with admitted := true })
    ∧ (∀ x, (s.kernelOf c.launch).blocks.get? blk.toNat = some x → ∃ t, exec (.cfgld h blk) s = .next t ∧ t.cmd id = { c with admitted := true }
        ∧ ((s.launch c.launch).regions.getD x.region 0, blk.toNat) ∈ t.staging.getD h.die.toNat [])
    ∧ ((s.kernelOf c.launch).blocks.get? blk.toNat = none → exec (.cfgld h blk) s = .next (s.setCmd id { c with admitted := true, status := 14 }))
    ∧ (∀ x e, mapFind s c.ctx po.vpn.toNat = some (x, e) →
        (MapEntry.far e = true → MapEntry.transit e = false → ∃ t y, exec (.pagein h po) s = .next t ∧ t.cmd id = { c with admitted := true, underway := true }
          ∧ mapFind t c.ctx po.vpn.toNat = some y ∧ MapEntry.transit y.2 = true ∧ MapEntry.far y.2 = true)
        ∧ (MapEntry.far e = false → exec (.pagein h po) s = .next (s.setCmd id { c with admitted := true, status := 12 }))))
  ∧ (∀ (s : State) (k : TileKey), UnitAt s k .pt →
    let t := s.tile k
    let p := s.port k
    let tgt := (Tgt.ofCode (Word.field (t.units.getD 1 0) 46 12)).getD .none
    p.gen.isSome = true → s.regionStops (s.regionOf k) = false → p.stopAt = none → targetFree t tgt = true →
      (genEnded t p.lc = false → ∃ y, exec .addressGenerate s =
          .next ((deliver s k tgt { tok := y }).setPort k { p with lc := (genTake t p.base 8 p.lc).2, sent := p.sent + 1 })
        ∧ y.tt = .data ∧ y.seq = BitVec.ofNat 8 p.sent ∧ Word.a64 y.pay 0 = (genAddr t p.base p.lc).setWidth 64
        ∧ (let lcs := fun (j : Nat) => (List.range j).foldl (fun lc _ => lcNext t 4 0 lc) p.lc
          let addr := fun (j : Nat) => (BitVec.ofInt 56 (p.base.toNat + ((List.range (nlvl t)).map fun i => ((lcs j).getD i 0 : Int) * ((t.units.getD (2 + i) 0).extractLsb' 0 32).toInt).sum)).setWidth 64
          (∀ j, j < 8 → (∀ i, i ≤ j → genEnded t (lcs i) = false) → Word.a64 y.pay j = addr j)
          ∧ (∀ j c, 1 ≤ c → c ≤ j → j < 8 → (∀ i, i < c → genEnded t (lcs i) = false) → genEnded t (lcs c) = true → Word.a64 y.pay j = addr (c - 1))
          ∧ ∀ lc i, lc.length = 4 → nlvl t ≤ 4 → i < nlvl t → (lc.getD i 0 + 1 < cntOf t i ∨ i + 1 = nlvl t) → (∀ j, j < i → cntOf t j ≤ lc.getD j 0 + 1) →
              ∀ j, j < 4 → (lcNext t 4 0 lc).getD j 0 = if j < i then 0 else if j = i then lc.getD i 0 + 1 else lc.getD j 0))
      ∧ (genEnded t p.lc = true → ∃ u, exec .addressGenerate s = .next u ∧ u.port k = { p with gen := none } ∧
          u.tiles = (deliver s k tgt { tok := { tt := .eos, seq := BitVec.ofNat 8 p.sent, hb := genPast s p } }).tiles))
  ∧ ∀ (s : State) (k : TileKey) (pc : PcKey) (id : Nat) (c : Cmd), s.focus = .mark k pc →
    s.cmds.find? (fun c => c.2.station == .port k && cmdCode c.2.word == 0x30 && c.2.pending.contains pc) = some (id, c) → earlierSent s c.station pc c.sentAt = false →
      ∃ t, exec .roundMark s = .next t ∧ t.cmd id = { c with pending := c.pending.erase pc }
        ∧ (t.landing pc).marks = (c.launch, k, (Word.field c.word 16 32).toNat) :: (s.landing pc).marks.filter (fun x => !(x.1 == c.launch && x.2.1 == k))

/-! ### Threads, phases, routes -/

/-- R240, R241, R243 to R247, R253: `jump` passes its token to the entry machinery of the block's region: in transit where the block is loaded and nothing is parked for the port, else into the carve-out where that has room and no overflow entry of the queue is unread, else into the overflow ring, else the trap SPILL_FULL; its census falls by 1. The machinery fills an empty entry latch, which counts again; a phase end raises PHASE and begins the pending or the chosen load; a load that ends leaves its block loaded, or its report where a CHK fails. The link of the entry before one that leaves its queue names the one after it. R304: in tempo mode a phase ends only with the drain wave. R247: the scheduler takes the oldest of the blocks aged 16 or more, else the one with the most waiting threads; a load resets its block's age and adds 1 to the other candidates'. The region's PT posts what it has for the overflow ring like any update (R278, R286, R301): the order, the round, the discard behind a fenced link and the limit of such a posting are the model's choice, log 97. (The model's choices too: which entries count as used and as unread, log 99; CENSUS_NEG before SPILL_FULL, log 153; where an entry stands in the carve-out, log 23; no phase ends while a load is under way, log 53.) -/
def Obligations.RegionLife : Prop :=
  (∀ (s : State) (k : TileKey) (n : Nat) (w : NodeOp) (block : BitVec 12) (entry : BitVec 4) (l : Tok) (o : Nat), SlotAt s k n → (s.slot k n).left = some l →
    l.tt = .data ∨ l.tt = .control → ownerRegion s (s.launchOf k) block.toNat = some o →
    let r := s.regionOf k
    let c := (s.region r).census
    let i := Instr.jump w block entry
    let p : Parked := { block := block.toNat, entry := entry.toNat, tok := { l with vc := 0 }, stile := (s.tile k).rel, sslot := n }
    let b := block.toNat
    let x := s.ctx (s.launch (s.region o).launch).ctx
    let passes := fun (effect : State → Prop) => ∃ t, exec i s = .next t ∧ (t.slot k n).left = (if w.lk then some l else none) ∧ (t.region r).census = c - 1 ∧ effect t
    let joins := fun (y : Parked) (t : State) => blockQueue (t.region o) b = blockQueue (s.region o) b ++ [y]
    let carved := { p with carve := carveFree s o }
    let loaded := (s.region o).block = some b ∧ (s.region o).loading = none ∧ ∀ y ∈ blockQueue (s.region o) b, y.entry ≠ entry.toNat
    let inCarve := (∀ y ∈ blockQueue (s.region o) b, y.overflow = none ∨ y.fetched = true) ∧ carveUsed (s.region o) < 8 * carveKiB s (s.region o).launch
    let room := 128 ≤ overflowSize s (s.launch (s.region o).launch).ctx ∧ (x.unread = [] ∨ overflowNext s (s.launch (s.region o).launch).ctx x.wptr ≠ x.rptr)
    (1 ≤ c → c ≤ 2147483648 → loaded → passes fun t => (t.region o).transit = (s.region o).transit ++ [p])
    ∧ (1 ≤ c → c ≤ 2147483648 → (¬loaded ∧ inCarve) → passes fun t => joins carved t
        ∧ (blockQueue (s.region o) b = [] → Mem.wf s.scratch = true →
            Mem.readN t.scratch (regionTile (s.region o) 65 * 524288 + carved.carve) 128 = parkedBytes carved))
    ∧ (1 ≤ c → c ≤ 2147483648 → (¬loaded ∧ ¬inCarve ∧ room) → passes fun t => joins { p with overflow := some x.wptr } t
        ∧ (t.ctx (s.launch (s.region o).launch).ctx).wptr = overflowNext s (s.launch (s.region o).launch).ctx x.wptr
        ∧ ∃ more, let bs := parkedBytes { p with overflow := some x.wptr }
            (t.region o).spills = (s.region o).spills ++ [(x.wptr, lanesOf (bs.take 64)), (x.wptr + 64, lanesOf (bs.drop 64))] ++ more)
    ∧ (1 ≤ c → c ≤ 2147483648 → (¬loaded ∧ ¬inCarve ∧ ¬room) →
        exec i s = .next (raiseTrap s (slotSite s k n) 0x12 (BitVec.ofNat 64 (s.ctx (s.ctxOf k)).wptr)))
    ∧ (c < 1 → exec i s = .next (raiseTrap s (slotSite s k n) 0x07 (BitVec.ofInt 64 c))))
  ∧ (∀ (s : State) (r i : Nat) (pt : Port) (p : Parked), s.focus = .regionItem r i → s.regions.has r = true → s.regionRuns r = true → entryPort s r i = some pt → pt.slot < 32 →
    let rg := s.region r
    let k := regionTile rg pt.tile
    (s.slot k pt.slot).at_ pt.pos = none → p.tok.tt = .data → 0 ≤ rg.census → rg.census < 2147483647 →
      let enters := fun (t : State) => (t.region r).census = rg.census + 1 ∧ (t.slot k pt.slot).at_ pt.pos = some { p.tok with vc := 0 }
      (∀ rest, rg.transit = p :: rest → p.entry = i → ∃ t, exec .jumpDelivery s = .next t ∧ enters t ∧ (t.region r).transit = rest)
      ∧ (∀ b, rg.block = some b → (∀ x ∈ rg.transit, x.entry ≠ i) → nextParked (s.launchFlag rg.launch 1) (blockQueue rg b) i = some p → p.overflow = none → rg.spills = [] →
          ∃ t, exec .entryDelivery s = .next t ∧ enters t ∧ (t.region r).queues.getD b [] = (blockQueue rg b).erase p
            ∧ ∀ pre x post, blockQueue rg b = pre ++ x :: p :: post → p ∉ pre → x ≠ p → x.overflow = none → Mem.wf s.scratch = true →
                Mem.readN t.scratch (regionTile rg 65 * 524288 + x.carve + 8) 8 = match post with
                  | y :: _ => Word.toBytes 8 (parkedNext y)
                  | [] => List.replicate 8 0xFF))
  ∧ (∀ (s : State) (r i off : Nat) (vals : List Lane) (rest : List (Nat × List Lane)) (m : Member) (loc o : Nat), s.focus = .regionItem r i → s.regions.has r = true →
    let rg := s.region r
    let k := regionTile rg 0
    rg.spills = (off, vals) :: rest → overflowPlace s (s.launch rg.launch).ctx off = some (m, loc, o) → (s.port k).qStopped = false → earlierSent s (.port k) m.pc s.sends = false → s.saved.has rg.launch = false →
      let u := s.setRegion r { rg with spills := rest }
      (fencedPc s m.pc = true → exec .entryDelivery s = .next u)
      ∧ (fencedPc s m.pc = false → weirRoom s m.pc 1 = true → (spillRound s r).isSome = false ∨ tempoHeldAt s m.pc < 2048 →
          ∃ w, exec .entryDelivery s = .next (weirPut u m.pc w) ∧ w.slot = m.slot ∧ w.seg = loc ∧ w.word = o / 4 ∧ w.op = .write ∧ w.vals = vals ∧ w.round = spillRound s r))
  ∧ (∀ (rg : Region), rg.queues.keys.Pairwise (· < ·) →
    let waits := fun (b : Nat) => blockQueue rg b ≠ [] ∧ rg.block ≠ some b
    let age := fun (b : Nat) => rg.ages.getD b 0
    (schedPick rg = none ↔ ∀ b, ¬waits b)
    ∧ ∀ b, schedPick rg = some b → waits b
      ∧ ((∃ c, waits c ∧ 16 ≤ age c) → 16 ≤ age b ∧ ∀ c, waits c → age c < age b ∨ (age c = age b ∧ b ≤ c))
      ∧ ((∀ c, waits c → age c < 16) → ∀ c, waits c → waitingThreads rg c < waitingThreads rg b ∨ (waitingThreads rg c = waitingThreads rg b ∧ b ≤ c)))
  ∧ ∀ (s : State) (r : Nat), s.focus = .region r → s.regions.has r = true → (s.region r).closed = false →
    let rg := s.region r
    let wave := ∀ k x, (k, x) ∈ s.tiles → x.region = some r → (∀ n y, (n, y) ∈ x.slots → y.drained = true ∨ y.word = nopWord) ∧ ∀ p ∈ portsFed x, p ∈ x.drained
    (s.launchFlag rg.launch 1 = true → ¬wave → exec .phaseEnd s = .next s)
    ∧ (regionQuiet s r = true → rg.quiet = false ∨ rg.due = true → (s.launchFlag rg.launch 1 = true → wave) → s.regionStops r = false → rg.loading = none →
      ∃ t, exec .phaseEnd s = .next t ∧ (t.region r).phase = rg.phase + 1 ∧ (t.region r).quiet = true ∧ (t.region r).due = false
        ∧ (∀ b, (t.region r).loading = some b → rg.queues.keys.Pairwise (· < ·) → (t.region r).ages.getD b 0 = 0
            ∧ ∀ c, c ≠ b → (t.region r).ages.getD c 0 = if blockQueue rg c ≠ [] ∧ rg.block ≠ some c then rg.ages.getD c 0 + 1 else rg.ages.getD c 0)
        ∧ ((t.region r).loading = none → (t.region r).ages = rg.ages)
        ∧ (∀ b, rg.cfgNext = some b → (t.region r).loading = some b ∧ (t.region r).cfgNext = none)
        ∧ (rg.cfgNext = none → (t.region r).loading = schedPick rg))
    ∧ (regionQuiet s r = false ∨ rg.loading.isSome = true → exec .phaseEnd s = .next s)
    ∧ (∀ b blk, rg.loading = some b → blockOf s r b = some blk → rg.block = none ∨ fifoDue s r = false →
        (crcReport blk ≠ 0 → exec .configurationComplete s = .next (s.setRegion r { rg with loading := none, cfgLoad := false, report := crcReport blk }))
        ∧ (crcReport blk = 0 → ∃ t, exec .configurationComplete s = .next t ∧ (t.region r).block = some b ∧ (t.region r).loading = none ∧ (t.region r).report = 0
            ∧ (rg.block.isSome = true → t.tiles = (loadTiles s r blk).tiles ∧ (t.region r).moves = rg.moves + 1)))

/-- R21, R52, R53, R58: a token moves one hop of its route when the next place is empty, a decoded token or a pending result reaches its target when that takes it; a channel decodes a data token by its format; a token at the last hop reaches the inbound channel where its route ends, when that has none; a channel's 8-bit integers become four tokens, a packed block keeps its codes and gets the scale words of its queue; a scale token fills its channel's queue, and one that names no number of scale words is discarded and counted. (That control tokens, markers and fault tokens pass a decoder unchanged: log 42.) -/
def Obligations.RoutesAndChannels : Prop :=
  (∀ (s : State) (k : TileKey) (r h : Nat) (x : Tok), s.focus = .place (.hop k r h) → s.tileThere k = true →
    let rt := (s.tile k).routes.getD r {}
    rt.hops[h]? = some (some x) → rt.hops[h + 1]? = some none →
      ∃ t, exec .tokenDeliver s = .next t ∧ ((t.tile k).routes.getD r {}).hops[h]? = some none ∧ ((t.tile k).routes.getD r {}).hops[h + 1]? = some (some x))
  ∧ (∀ (s : State) (k : TileKey) (r h : Nat) (x : Tok), s.focus = .place (.hop k r h) → s.tileThere k = true →
    let rt := (s.tile k).routes.getD r {}
    let d := regionTile (s.region (s.regionOf k)) (routeTile rt.entry)
    let v := (routeDvc rt.entry).toNat
    rt.hops[h]? = some (some x) → h + 1 = rt.hops.length →
      (((s.tile d).chans.getD v {}).arrived = none → ∃ t, exec .tokenDeliver s = .next t ∧ ((t.tile k).routes.getD r {}).hops[h]? = some none
          ∧ (t.tile d).chans.getD v {} = { (s.tile d).chans.getD v {} with arrived := some x })
      ∧ (((s.tile d).chans.getD v {}).arrived ≠ none → exec .tokenDeliver s = .next s))
  ∧ (∀ (s : State) (k : TileKey) (v : Nat) (p : Parcel) (ps : List Parcel), s.focus = .place (.chan k v) → s.tileThere k = true →
    let c := (s.tile k).chans.getD v {}
    let u := setChan s k v { c with parts := ps }
    c.parts = p :: ps →
      (chanArc (s.tile k) v c.dst = none → targetFree (s.tile k) c.dst = true → exec .tokenDeliver s = .next (land u k c.dst p))
      ∧ ∀ n a m, chanArc (s.tile k) v c.dst = some (n, a, m) → (arcsOf m (s.slot k n).run).getD a none = none →
          exec .tokenDeliver s = .next (u.setSlot k n { u.slot k n with run := .join ((arcsOf m (s.slot k n).run).set a (some p.tok)) }))
  ∧ (∀ (s : State) (k : TileKey) (n : Nat) (e : Emit) (es : List Emit), s.focus = .place (.slot k n) → s.tileThere k = true →
    (s.slot k n).out = e :: es → targetFree (s.tile k) e.dst = true → exec .tokenDeliver s = .next (deliver (s.setSlot k n { s.slot k n with out := es }) k e.dst e.parcel))
  ∧ ∀ (s : State) (k : TileKey) (v : Nat) (x : Tok), s.focus = .chan k v → (s.tile k).chans.has v = true → s.tileThere k = true →
    let t := s.tile k
    let c := t.chans.getD v {}
    let f := t.sregs.getD (chanSreg c) 0
    let w := c.queue.headD (Word.field f 0 16)
    c.arrived = some x → c.parts = [] →
      (x.tt ≠ .data → x.tt ≠ .scale → exec .channelDecode s = .next (setChan s k v { c with arrived := none, parts := [{ tok := x }] }))
      ∧ (x.tt = .data → chanSreg c = 0 → chanSx c = false → exec .channelDecode s = .next (setChan s k v { c with arrived := none, parts := [{ tok := x }] }))
      ∧ (x.tt = .data → chanFmt c = 0 → chanSreg c ≠ 0 → ∃ y, exec .channelDecode s =
            .next (setChan (countTile s k (scaledTally 16 (fun i => (Word.lane x.pay i).toInt) f)) k v { c with arrived := none, parts := [{ tok := { x with pay := y } }] })
          ∧ ∀ i, i < 16 → Word.lane y i = BitVec.ofNat 32 (scaleInt (Word.lane x.pay i).toInt f).bits)
      ∧ (x.tt = .data → chanFmt c = 4 → chanSreg c ≠ 0 → ∃ ps, exec .channelDecode s =
            .next (setChan (countTile s k (scaledTally 64 (fun i => readInt 8 false (elemAt 8 x.pay i)) f)) k v { c with arrived := none, parts := ps })
          ∧ ps.length = 4 ∧ ∀ (j : Nat) (p : Parcel), ps[j]? = some p → ∃ y, p = { tok := { x with pay := y } }
          ∧ ∀ i, i < 16 → Word.lane y i = BitVec.ofNat 32 (scaleInt (readInt 8 false (elemAt 8 x.pay (16 * j + i))) f).bits)
      ∧ (x.tt = .data → chanSx c = true → chanPack c = true → ∃ u ws, exec .channelDecode s = .next u ∧ ws.length = mxPack (chanFmt c)
          ∧ (u.tile k).chans.getD v {} = { c with arrived := none, queue := c.queue.drop (mxPack (chanFmt c)), parts := [{ tok := x, scales := ws }] }
          ∧ (∀ i, i < mxPack (chanFmt c) → ws[i]? = some (c.queue.getD i (c.queue.getLastD (Word.field f 0 16))))
          ∧ ((u.tile k).sregs.getD (chanSreg c) 0).extractLsb' 0 16 = c.queue.getD (mxPack (chanFmt c) - 1) (c.queue.getLastD (Word.field f 0 16)))
      ∧ (x.tt = .data → chanSx c = true → chanPack c = false → ∃ u y, exec .channelDecode s = .next u
          ∧ (u.tile k).chans.getD v {} = { c with arrived := none, queue := c.queue.tail, parts := [{ tok := { x with pay := y } }] }
          ∧ ((u.tile k).sregs.getD (chanSreg c) 0).extractLsb' 0 16 = w
          ∧ ∀ i, i < 16 → Word.lane y i = (sxDecode (sxBits (chanFmt c)) w (sxCodes (sxBits (chanFmt c)) x.pay.toNat)).getD i 0)
      ∧ (x.tt = .scale → chanSx c = true → 1 ≤ x.seq.toNat → x.seq.toNat ≤ 32 → c.queue.length + x.seq.toNat ≤ 32 → exec .scaleToken s =
          .next (setChan s k v { c with arrived := none, queue := c.queue ++ (List.range x.seq.toNat).map (fun j => Word.field x.pay (16 * j) 16) }))
      ∧ (x.tt = .scale → chanSx c = false ∨ x.seq = 0 ∨ 32 < x.seq.toNat → exec .scaleToken s = .next (countTile (setChan s k v { c with arrived := none }) k [6]))

/-! ### Launches and packets -/

/-- R202, R320 to R322, R330, R348, R350, R363, R364, R366: a kernel whose condition holds retires; a decision starts the best-ranked candidate that fits; a slice that has run out starts again; a pre-emption saves its launch and queues it; a launch that is being killed ends once it has settled (log 124), and one that is being restored goes on once its rides have alighted (log 128); a record enters the lowest free entry, or freezes its context where none is free. Without a handler the record is answered KILL at once: a launch that runs begins to stop (log 124), a saved one keeps the answer (log 72). -/
def Obligations.LaunchLife : Prop :=
  (∀ (s : State) (l : Nat), s.focus = .launch l → s.launches.has l = true →
    (kernelOver s l = true → (s.launch l).tail = none → ∃ t, exec .kernelRetire s = .next t ∧ (t.launch l).phase = .retired
        ∧ ∀ r, r ∈ (s.launch l).regions → t.regions.has r = false)
    ∧ (kernelOver s l = false → exec .kernelRetire s = .next s)
    ∧ (∀ pages, (s.launch l).stopping = true → (s.launch l).killing = false → (s.launch l).resuming = false → (s.launch l).phase = .running → takePages s (s.launch l) = some pages →
        (∀ k ∈ launchKeys (s.launch l), unitStops s k (s.tile k) = true ∧ tileSettled s k = true) →
        ∃ t, exec .preempt s = .next t ∧ (t.launch l).phase = .saved ∧ (t.launch l).flags = (s.launch l).flags ||| 8 ∧ t.saved.has l = true
          ∧ (t.queue (s.launch l).queue).resumes = (s.queue (s.launch l).queue).resumes ++ [l])
    ∧ ((s.launch l).stopping = true → (s.launch l).killing = false → (s.launch l).resuming = false → (s.launch l).phase = .running → takePages s (s.launch l) = none → ∃ t, exec .preempt s = .next t
        ∧ t.launch l = { s.launch l with stopping := false } ∧ (t.ctx (s.launch l).ctx).left = (s.ctx (s.launch l).ctx).slice)
    ∧ ((s.launch l).killing = true → (s.launch l).resuming = false → (s.launch l).phase = .running →
        (killSettled s l (s.launch l) = true → ∃ t, exec .preempt s = .next t ∧ (t.launch l).phase = .retired ∧ (∀ r, r ∈ (s.launch l).regions → t.regions.has r = false)
            ∧ ∀ k, k ∈ launchKeys (s.launch l) → t.tiles.has k = false)
        ∧ (killSettled s l (s.launch l) = false → exec .preempt s = .next s))
    ∧ ((s.launch l).resuming = true →
        (restoring s l = true → exec .preempt s = .next s)
        ∧ (∀ y, restoring s l = false → s.saved.get? l = some y → y.answers = [] → ∃ t, exec .preempt s = .next t ∧ (t.launch l).phase = .running ∧ (t.launch l).resuming = false
            ∧ t.saved.has l = false)))
  ∧ (∀ (s : State) (c : Cand) (p : List (Nat × Nat × Nat)), s.focus = .device → dropLate s = s → reservedOf s (ranked s) = none → c.again = none →
    firstFit (s.setDev { s.dev with reserved := none }) (ranked s) = some ([], c, p) →
      ∃ t, exec .admissionDecision s = .next t ∧
        let x := t.launch (s.launches.length + 1)
        x.phase = .running ∧ x.ticket = c.entry.ticket ∧ x.stamp = c.entry.stamp ∧ x.packet = c.entry.packet ∧ x.queue = c.queue ∧ x.ctx = (s.queue c.queue).ctx ∧ x.places = p
          ∧ x.handle = Launch.handleOf c.entry.packet)
  ∧ ∀ (s : State) (c : Nat), s.focus = .ctx c →
    let x := s.ctx c
    (x.left = 0 → ∃ t, exec .sliceExpiry s = .next t ∧ t.ctx c = { x with left := x.slice } ∧ ∀ l, (s.launch l).ctx ≠ c → t.launch l = s.launch l)
    ∧ (x.left ≠ 0 → exec .sliceExpiry s = .next s)
    ∧ (∀ r rest, x.offered = r :: rest → r.fatal = true ∨ tqUsed x ≤ 253 →
        (∀ k, tqFree x 256 0 = some k → x.handler = true → exec .trapRecordEnter s =
            .next (s.setCtx c { x with offered := rest, tq := x.tq.put k { trap := r, used := true } }))
        ∧ (∀ k, tqFree x 256 0 = some k → x.handler = false → ∃ t, exec .trapRecordEnter s = .next t
            ∧ (s.saved.get? r.launch = none → (s.launch r.launch).phase = .running → (t.launch r.launch).killing = true
                ∧ ∀ i, s.regions.has i = true → (s.region i).launch = r.launch → (t.region i).closed = true)
            ∧ ∀ y, s.saved.get? r.launch = some y → ((s.launch r.launch).resuming = false → t.saved.get? r.launch = some { y with answers := y.answers ++ [(3, r)] })
                ∧ ((s.launch r.launch).resuming = true → (s.launch r.launch).phase = .saved → (t.launch r.launch).phase = .retired))
        ∧ (tqFree x 256 0 = none → ∃ t, exec .trapRecordEnter s = .next t ∧ t.ctx c = { x with offered := rest, lost := x.lost + 1, over_ := true, frozen := true }
            ∧ ∀ i, s.regions.has i = true → (s.launch (s.region i).launch).ctx = c → (t.region i).closed = true))

/-- R312, R313, R315, R318, R328: a packet at the head of its queue is consumed; LAUNCH waits as a candidate or completes with the status of its check; BIND issues its `bind`; LOAD asks for its object; UNLOAD frees a handle whose launches have completed; KILL begins to end every launch of the context that runs, ends a saved one and every candidate at once, and completes when none is left (log 124). The `bind` of BIND is issued even where 16 commands of the launch stand (log 126). The ticket that a completion names is the packet's. -/
def Obligations.QueuePackets : Prop :=
  ∀ (s : State) (q : Nat), s.focus = .queue q → (headPacket s q).isSome = true →
    let x := s.queue q
    let own := fun (c : BitVec 16) => x.ctx = 0 ∨ x.ctx = c.toNat
    (∀ p, let y := takePacket s q p
      (launchCheck y.2 q p = none → ∃ t, exec (.launch p) s = .next t ∧ (t.queue q).waiting = some y.1 ∧ (t.queue q).head = x.head + 1)
      ∧ (∀ st, launchCheck y.2 q p = some st → exec (.launch p) s = .next (completePacket y.2 q y.1.ticket { status := st })))
    ∧ (∀ (tq : BitVec 16) (ticket : BitVec 64) (ops : BitVec 96) (region : BitVec 8) (tile : BitVec 16) (l : Nat) (la : Launch),
        let y := takePacket s q (packetOf (.bindPacket tq ticket ops region tile))
        let r := regionId l region.toNat
        let k := regionTile (s.region r) tile.toNat
        let id := s.nextCmd + 1
        let c : Cmd := { word := bindWord k ops, station := .port k, origin := .packet q y.1.ticket, launch := l, ctx := x.ctx, region := r }
        let issues := fun (d : Cmd) => ∃ t, exec (.bindPacket tq ticket ops region tile) s = .next t ∧ t.cmd id = d ∧ (t.queue q).head = x.head + 1
        tq.toNat = q → launchByTicket y.2 ticket = some (l, la) → (s.launch l).ctx = x.ctx → s.regions.has r = true → tile.toNat ∈ regionRels (s.region r) →
        Config.tileKind tile.toNat = .pt →
          (s.regionThere r = true → s.saved.has l = false → verdict { y.2.setCmd id c with nextCmd := id } id c = none → issues { c with phase := .accepted })
          ∧ (s.regionThere r = false ∨ s.saved.has l = true → issues c))
    ∧ (∀ (addr : BitVec 64) (len : BitVec 32) (c : BitVec 16),
        let y := takePacket s q (packetOf (.load addr len c))
        (own c → ∃ t, exec (.load addr len c) s = .next t ∧ (t.queue q).loading = x.loading ++ [(y.1.ticket, addr, len, c)])
        ∧ (¬own c → exec (.load addr len c) s = .next (refuse y.2 q y.1 6)))
    ∧ (∀ (h : BitVec 32) (kn : Kernel), s.kernels.get? h.toNat = some kn → kn.ctx = x.ctx → handleUsed s h.toNat = false → ∃ t, exec (.unload h) s = .next t ∧ t.kernels.has h.toNat = false)
    ∧ (∀ c : BitVec 16,
        let y := takePacket s q (packetOf (.kill c))
        (own c → ∃ t, exec (.kill c) s = .next t
          ∧ (∀ l, s.launches.has l = true → (s.launch l).ctx = c.toNat → ((s.launch l).phase ≠ .running → (t.launch l).phase = .retired)
            ∧ ((s.launch l).phase = .running → (t.launch l).phase = .running ∧ (t.launch l).killing = true
                ∧ (q, y.1.ticket) ∈ (t.ctx c.toNat).kills ∧ ∀ i, s.regions.has i = true → (s.region i).launch = l → (t.region i).closed = true))
          ∧ (s.launches.any (fun l => l.2.ctx == c.toNat && l.2.phase == .running) = false → (t.ctx c.toNat).frozen = false ∧ (t.ctx c.toNat).kills = [])
          ∧ ∀ z, s.queues.has z = true → (s.queue z).ctx = c.toNat → (t.queue z).waiting = none ∧ (t.queue z).tails = [])
        ∧ (¬own c → exec (.kill c) s = .next (refuse y.2 q y.1 6)))

/-- R264, R266, R312, R330, R332, R334, R344, R379, R381: the packets that only context 0 may send, each with its effect; from any other context each completes DENIED. (MAP enters its page near whatever FAR says: log 102; a staged entry keeps its reserved bits as 0: log 81.) -/
def Obligations.ManagementPackets : Prop :=
  ∀ (s : State) (q : Nat) (c tq pool fpool : BitVec 16) (ring vpn fep fbase : BitVec 64) (entries slice npages kref first ffirst fpages : BitVec 32)
    (flags stack slot pc policy crn role : BitVec 8) (rects : List (BitVec 32)) (entry : BitVec 128), s.focus = .queue q → (headPacket s q).isSome = true →
    let denied := fun (i : Instr) => (s.queue q).ctx ≠ 0 → let y := takePacket s q (packetOf i); exec i s = .next (refuse y.2 q y.1 6)
    let does := fun (i : Instr) (effect : State → Prop) => (s.queue q).ctx = 0 → ∃ t, exec i s = .next t ∧ effect t
    let b := s.base stack.toNat
    let v := vpn.toNat
    let n : BitVec 4 := Word.field crn 0 4
    let set := fun (t : State) => (t.queue tq.toNat).enabled = flags.getLsbD 0 ∧ (t.queue tq.toNat).dropLate = flags.getLsbD 1 ∧ (t.queue tq.toNat).ctx = c.toNat
      ∧ (t.queue tq.toNat).ring = ring ∧ (t.queue tq.toNat).entries = entries
    (denied (.qset tq c ring entries flags) ∧ denied (.qsetReset tq c ring entries flags) ∧ denied (.ctxset c slice rects) ∧ denied (.sched policy)
      ∧ denied (.reachsetStage stack pc slot entry) ∧ denied (.reachsetCommit stack pc slot entry) ∧ denied (.poolsetCreate c stack pool npages vpn)
      ∧ denied (.poolsetDestroy c stack pool npages vpn) ∧ denied (.keysetLoad c stack slot kref) ∧ denied (.keysetErase c stack slot kref)
      ∧ denied (.keysetPolicy c stack slot kref) ∧ denied (.ctxreachMap c vpn npages first ffirst fpool crn flags) ∧ denied (.ctxreachUnmap c vpn npages)
      ∧ denied (.ctxreachRole c crn role) ∧ denied (.ctxreachFarpool c fpool fpages fep fbase))
    ∧ (qsetOk tq entries flags = true → does (.qset tq c ring entries flags) set)
    ∧ (qsetOk tq entries flags = true → does (.qsetReset tq c ring entries flags) (fun t => set t ∧ (t.queue tq.toNat).commit = 0 ∧ (t.queue tq.toNat).waiting = none))
    ∧ (rects ≠ [] → rects.length ≤ 8 → rects.all rectFieldsOk = true → does (.ctxset c slice rects) (fun t =>
        t.ctx c.toNat = { s.ctx c.toNat with rects := rects, slice := Nat.max 2000 slice.toNat, left := Nat.max 2000 slice.toNat }))
    ∧ (policy = 0 ∨ policy = 1 ∧ feature s 2 = true → does (.sched policy) (fun t => t.dev = { s.dev with bid := policy == 1 }))
    ∧ (reachPlaceOk stack pc slot = true → stageBad s (stack.toNat * 64 + pc.toNat, slot.toNat, entry) = false → does (.reachsetStage stack pc slot entry) (fun t =>
        t.dev = { s.dev with staged := stageWith s (stack.toNat * 64 + pc.toNat, slot.toNat, entry) } ∧ t.landings = s.landings))
    ∧ (let staged := stageWith s (stack.toNat * 64 + pc.toNat, slot.toNat, entry)
      reachPlaceOk stack pc slot = true → commitOk (tablesAhead s) staged = true → does (.reachsetCommit stack pc slot entry) (fun t =>
        t.dev = { s.dev with staged := [], commits := s.dev.commits ++ [(q, (takePacket s q (packetOf (.reachsetCommit stack pc slot entry))).1.ticket, staged)] }
          ∧ t.landings = s.landings))
    ∧ (stack.toNat < Config.stackCount → pool.toNat < 4096 → npages ≠ 0 → b.pools.has pool.toNat = false →
        (b.pools.map (fun p => p.2.npages)).sum + npages.toNat ≤ Config.poolPages →
        (∀ i, i < npages.toNat → ∃ x e, mapFind s c.toNat (v + i) = some (x, e) ∧ MapEntry.r e = true ∧ MapEntry.w e = true ∧ pageOnStack s c.toNat stack.toNat e = true) →
        does (.poolsetCreate c stack pool npages vpn) (fun t => (t.base stack.toNat).pools.get? pool.toNat = some { ctx := c.toNat, vpn := v, npages := npages.toNat, used := [] }))
    ∧ (∀ p, b.pools.get? pool.toNat = some p → stack.toNat < Config.stackCount → p.ctx = c.toNat → p.used = [] →
        does (.poolsetDestroy c stack pool npages vpn) (fun t => (t.base stack.toNat).pools.has pool.toNat = false))
    ∧ (keyPlaceOk stack slot = true → s.dev.measured = true → does (.keysetLoad c stack slot kref) (fun t =>
        ∀ i ∈ keyStacks stack, (t.base i).keys.get? slot.toNat = some (Config.sessionKey s.fresh kref)))
    ∧ (keyPlaceOk stack slot = true → (∀ i ∈ keyStacks stack, keyNamed s i slot.toNat = false) → does (.keysetErase c stack slot kref) (fun t =>
        ∀ i ∈ keyStacks stack, (t.base i).keys.has slot.toNat = false))
    ∧ (keyPlaceOk stack slot = true → s.dev.measured = true → s.dev.lc ≠ .deployed → does (.keysetPolicy c stack slot kref) (fun t =>
        (t.ctx c.toNat).policy.reqSig = (Config.sessionPolicy s.fresh kref).1 ∧ (t.ctx c.toNat).policy.privKey = (Config.sessionPolicy s.fresh kref).2.2 ∧ t.dev.measured = false))
    ∧ (∀ x, npages = 1 → mapBad s c.toNat v 1 first.toNat fpool.toNat crn flags = false → (s.base (homeOf v)).home.lowestFree Config.homeEntries 0 = some x →
        does (.ctxreachMap c vpn npages first ffirst fpool crn flags) (fun t =>
          mapFind t c.toNat v = some (x, MapEntry.mk c.toNat v false (flags.getLsbD 0) (flags.getLsbD 1) false n first.toNat)))
    ∧ ((∀ i, i < npages.toNat → (mapFind s c.toNat (v + i)).isSome = true ∧ unmapping s c.toNat (v + i) = false) →
        (anyCached s c.toNat v npages.toNat = false → does (.ctxreachUnmap c vpn npages) (fun t => ∀ i, i < npages.toNat → mapFind t c.toNat (v + i) = none))
        ∧ (anyCached s c.toNat v npages.toNat = true → does (.ctxreachUnmap c vpn npages) (fun t => t.bases = s.bases
            ∧ t.dev.unmaps = s.dev.unmaps ++ [(q, (takePacket s q (packetOf (.ctxreachUnmap c vpn npages))).1.ticket, c.toNat, v, npages.toNat)])))
    ∧ (crn.toNat < 16 → stripe s c.toNat n ≠ [] → 128 ≤ Stripe.g (stripe s c.toNat n) →
        (role = 1 → does (.ctxreachRole c crn role) (fun t => (t.ctx c.toNat).overflow = some n ∧ (t.ctx c.toNat).wptr = 0 ∧ (t.ctx c.toNat).rptr = 0))
        ∧ (role = 2 → does (.ctxreachRole c crn role) (fun t => t.ctx c.toNat = { s.ctx c.toNat with save := some n })))
    ∧ (feature s 3 = true → (s.ctx c.toNat).farpools.has fpool.toNat = false → does (.ctxreachFarpool c fpool fpages fep fbase) (fun t =>
        (t.ctx c.toNat).farpools.get? fpool.toNat = some { pages := fpages, fep := fep, fbase := fbase }))

/-- R313, R315, R363, R365: a reservation takes the next slot with its ticket and time, and at 256 reserved ones none; a commit ORs its bits in; a completion writes 32 bytes into the ring of its queue; TQACT frees the entry it names and acts on the agent or launch, and writes 0 into TQRES. (KILL begins to stop a launch that runs: log 124; a saved launch keeps the answer, but KILL ends one that is being restored: log 72.) -/
def Obligations.QueueRegisters : Prop :=
  (∀ (s : State) (q : Nat), s.focus = .queue q → queueTakes s q = true →
    let x := s.queue q
    (x.taken < 256 → exec .qres s = .next ((s.setQueue q { x with next := (x.next + 1) % 256, taken := x.taken + 1, count := x.count + 1
                                                                  ticks := x.ticks.put x.next (BitVec.ofNat 12 q ++ x.count), stamps := x.stamps.put x.next s.dev.dtime }).answer
        (.value (BitVec.ofNat 1024 x.next))))
    ∧ (256 ≤ x.taken → exec .qres s = .next (s.answer (.value 0xFFFFFFFF))))
  ∧ (∀ (s : State) (q word : Nat) (bits : BitVec 64), s.focus = .commit q word bits → queueTakes s q = true → word < 4 →
    ∃ t, exec .qcommit s = .next t ∧ ∀ i, i < 256 → (t.queue q).commit.getLsbD i =
      ((s.queue q).commit.getLsbD i || (decide (64 * word ≤ i) && bits.getLsbD (i - 64 * word))))
  ∧ (∀ (s : State) (q i : Nat) (p : Packet), s.focus = .reg (.slot q i p) → queueTakes s q = true → i < 256 →
    exec .registerWrite s = .next ((s.setQueue q { s.queue q with slots := (s.queue q).slots.put i p }).answer .done))
  ∧ (∀ (s : State) (q i : Nat) (p : Packet), s.focus = .reg (.slot q i p) → queueTakes s q = false ∨ 256 ≤ i → exec .registerWrite s = .next (s.answer .uetError))
  ∧ (∀ (s : State) (q : Nat), s.focus = .reg (.writeOther q) ∨ s.focus = .reg (.readOther q) ∨ s.focus = .reg (.otherAtomic q) → exec .registerWrite s = .next (s.answer .uetError))
  ∧ (∀ (s : State) (q : Nat) (ticket : BitVec 64) (r : Completion), Mem.wf s.host = true →
    let x := s.queue q
    let t := completePacket s q ticket r
    let a := x.ring.toNat + 32 * (x.done % x.entries.toNat)
    (t.queue q).done = x.done + 1
    ∧ Mem.readN t.host a 8 = Word.toBytes 8 ticket ∧ Mem.readN t.host (a + 8) 2 = Word.toBytes 2 (BitVec.ofNat 16 r.status)
    ∧ Mem.readN t.host (a + 10) 2 = Word.toBytes 2 (BitVec.ofNat 16 r.flags) ∧ Mem.readN t.host (a + 12) 4 = Word.toBytes 4 (BitVec.ofNat 32 r.result)
    ∧ Mem.readN t.host (a + 16) 8 = Word.toBytes 8 r.start ∧ Mem.readN t.host (a + 24) 8 = Word.toBytes 8 s.dev.dtime
    ∧ ∀ b, b < a ∨ a + 32 ≤ b → Mem.read t.host b = Mem.read s.host b)
  ∧ ∀ (s : State) (q c : Nat) (v : BitVec 64) (e : TqEntry), s.focus = .tqact q c v → tqAccess s q c = true → Word.field v 16 16 = (0 : BitVec 16) →
    let k := (Word.field v 0 8).toNat
    let a := (Word.field v 8 8).toNat
    (s.ctx c).tq.get? k = some e → e.used = true → (pk e.trap.bits 0x18 4 : BitVec 32) = Word.field v 32 32 →
      let freed := fun (t : State) => (t.ctx c).tqres = 0 ∧ (t.ctx c).tq.get? k = some { e with used := false }
      let here := s.saved.get? e.trap.launch = none
      let runs := here ∧ (s.launch e.trap.launch).phase = .running
      (∀ j n, a = 1 → runs → e.trap.fatal = false → e.trap.agent = .slot j n → (pk e.trap.bits 0x12 1 : BitVec 8) = 0x12 →
        ∃ t, exec .tqactResume s = .next t ∧ freed t ∧ t.slot j n = { s.slot j n with stopped := false })
      ∧ (∀ j, a = 2 → runs → e.trap.fatal = false → (pk e.trap.bits 0x13 1 : BitVec 8).getLsbD 1 = true → e.trap.agent = .seq j → (s.seq j).wait = .none → (s.seq j).fails = [] →
        ∃ t, exec .tqactNext s = .next t ∧ freed t ∧ t.seq j = { s.seq j with
            pc := if 0x10000 ≤ (s.seq j).pc then (s.seq j).pc else (s.seq j).pc + 4, stopped := false, halted := false
            offers := (s.seq j).offers.mapV (fun _ o => o.filter (fun x => !x.isGive)) })
      ∧ (a = 3 → runs → ∃ t, exec .tqactKill s = .next t ∧ freed t ∧ (t.launch e.trap.launch).killing = true
          ∧ ∀ i, s.regions.has i = true → (s.region i).launch = e.trap.launch → (t.region i).closed = true)
      ∧ (∀ y, a = 3 → s.saved.get? e.trap.launch = some y → (s.launch e.trap.launch).resuming = false → ∃ t, exec .tqactKill s = .next t ∧ freed t
          ∧ t.saved.get? e.trap.launch = some { y with answers := y.answers ++ [(3, e.trap)] })
      ∧ (∀ y, a = 3 → s.saved.get? e.trap.launch = some y → (s.launch e.trap.launch).resuming = true → (s.launch e.trap.launch).phase = .saved → ∃ t, exec .tqactKill s = .next t
          ∧ freed t ∧ (t.launch e.trap.launch).phase = .retired)

/-! ### Across hours -/

/-- R286, R287, R362, R374 to R378, R385: link errors, lane repair and fencing; bank test and repair; a parity error in a loaded tile, and in an idle one; the thermal trip. (The built-in test names the failing rows: log 91; a repair is listed when it is found: log 92; a trip freezes every context: log 94; rides of a stack's own engine stay behind a fenced link: log 128; of several retired banks the first stays parked: log 141.) -/
def Obligations.LinksAndBanks : Prop :=
  (∀ (s : State) (stack dir lane : Nat) (again : Bool) (flits : Nat), s.focus = .link stack dir lane again flits → stack < 24 → dir < 2 →
    let x := linkOf s stack dir
    let at_ := x.flits + flits + 1
    let errs := at_ :: (x.crc.getD lane []).filter (fun e => at_ < e + 2 ^ 24)
    let failed := { x with flits := at_, crc := x.crc.put lane errs, due := if 8 ≤ errs.length ∧ x.spare = false ∧ x.due = none then some lane else x.due }
    let fences := fun (i : Instr) => ∃ t, exec i s = .next t ∧ linkOf t stack dir = { failed with fails := x.fails + 1, fenced := true, due := none }
        ∧ (linkOf t stack (1 - dir)).fenced = true ∧ (linkOf t stack (1 - dir)).due = none
        ∧ ∀ pc r, pc / 64 = stack → r ∈ (t.landing pc).riders → r.kind = .table
    (x.fenced = false → again = false → ∃ t, exec .linkReplay s = .next t ∧ linkOf t stack dir = { failed with replay := true, fails := 0 })
    ∧ (x.fenced = false → again = true → x.replay = true → x.fails < 3 → ∃ t, exec .linkReplay s = .next t ∧ linkOf t stack dir = { failed with fails := x.fails + 1 })
    ∧ (x.fenced = false → again = true → x.replay = true → 3 ≤ x.fails → fences .linkReplay)
    ∧ (∀ y, x.due = some y → x.fenced = false → x.spare = false → x.replay = false → ∃ t, exec .repairBoundary s = .next t
        ∧ linkOf t stack dir = { x with due := none, spare := true, replay := true })
    ∧ (x.fenced = false → x.replay = true → 3 ≤ x.fails → fences .linkFenced))
  ∧ (∀ (s : State) (pc : PcKey) (failing : List Nat), s.focus = .bank pc failing →
    let ld := s.landing pc
    (ld.parked = none → ld.retired = [] → s.dev.wiping = false → exec .bankPark s = .next (s.setLanding pc { ld with parked := some (bankFrom pc ld.next), testing := true }))
    ∧ (∀ ended r i, s.dev.selfTest = some ended → pc ∉ ended → failing = [r] → r < 64 * 65536 → r / 65536 ∉ ld.retired → spareRow ld.repairs (r / 65536) = some i →
        ∃ t, exec .bankTest s = .next t ∧ (t.landing pc).repairs = ld.repairs ++ [repairEntry (r / 65536) (r % 65536) i] ∧ t.dev.selfTest = some (pc :: ended))
    ∧ (∀ ended r, s.dev.selfTest = some ended → pc ∉ ended → failing = [r] → r < 64 * 65536 → r / 65536 ∉ ld.retired → spareRow ld.repairs (r / 65536) = none →
        ∃ t, exec .bankTest s = .next t ∧ t.landing pc = { ld with retired := ld.retired ++ [r / 65536], parked := ld.parked.orElse (fun _ => some (r / 65536)) })
    ∧ (∀ b, s.dev.selfTest = none → ld.parked = some b → ld.testing = true → failing = [] → exec .bankTest s = .next (s.setLanding pc { ld with testing := false }))
    ∧ (∀ b r i, s.dev.selfTest = none → ld.parked = some b → ld.testing = true → failing = [r] → r < 65536 → b ∉ ld.retired → spareRow ld.repairs b = some i → ∃ t, exec .bankTest s = .next t
        ∧ t.landing pc = { ld with testing := false, repairs := ld.repairs ++ [repairEntry b r i], fixes := ld.fixes ++ [repairEntry b r i] } ∧ t.dev.measured = false)
    ∧ (∀ b r, s.dev.selfTest = none → ld.parked = some b → ld.testing = true → failing = [r] → r < 65536 → b ∉ ld.retired → spareRow ld.repairs b = none → ∃ t, exec .bankTest s = .next t
        ∧ t.landing pc = { ld with testing := false, retired := ld.retired ++ [b] })
    ∧ (∀ b, ld.parked = some b → ld.testing = false → ld.retired = [] → exec .bankUnpark s = .next (s.setLanding pc { ld with parked := none, next := (b + 1) % 64, fixes := [] })))
  ∧ (∀ (s : State) (k : TileKey) (offset : Nat), s.focus = .scrub k offset →
    (∀ r, (s.tile k).region = some r → s.regions.has r = true → ∃ t x, exec .cfgScrub s = .next t ∧ (t.region r).closed = true
        ∧ (t.ctx (s.launch (s.region r).launch).ctx).offered = (s.ctx (s.launch (s.region r).launch).ctx).offered ++ [x] ∧ x.fatal = true
        ∧ pk x.bits 0x12 1 = (0x17 : BitVec 8) ∧ pk x.bits 0x28 8 = BitVec.ofNat 64 offset)
    ∧ ((s.tile k).region = none → ∃ t, exec .cfgScrub s = .next t ∧ t.tiles = s.tiles ∧ t.regions = s.regions ∧ t.contexts = s.contexts))
  ∧ ∀ (s : State) (n : Nat), s.focus = .number n → ∃ t, exec .thermalTrip s = .next t ∧ t.dev.tripped = true ∧ (∀ r, s.regions.has r = true → (t.region r).closed = true)
    ∧ ∀ c, frozenCtx t c = true

/-- R316, R342, R371, R372, R380 to R384: time lock, features, measurements and keys; a firmware update from its image to its commit or revert; life cycle, reset and wipe; the network's answers. (An image is refused while a canary runs: log 93; a wipe is one step: log 90; the self-test at reset: log 91; a commit's entries apply at the next lap-clock boundary, its riders and updates stay: log 80; the model's choices also are that the data of a far page arrives by one acknowledgement, log 96, what a canary is measured by, log 125, and the slots of a reset landing, log 137.) -/
def Obligations.DeviceEvents : Prop :=
  (∀ (s : State) (x : BitVec 64), s.focus = .time x → exec .ptpLock s = .next (s.setDev { s.dev with
      locked := true, stepped := true, dtime := if s.dev.stepped = false ∧ s.dev.dtime.toNat < x.toNat then x else s.dev.dtime }))
  ∧ (∀ (s : State) (b : BitVec 128), s.focus = .bits b →
    (s.dev.feats = none → b &&& ~~~Config.offered = 0 → exec .featureAccept s = .next ((s.setDev { s.dev with feats := some b }).answer .done))
    ∧ (s.dev.feats.isSome = true ∨ b &&& ~~~Config.offered ≠ 0 → exec .featureAccept s = .next (s.answer .refused)))
  ∧ (∀ (s : State) (i : FwImage), s.focus = .image i →
    exec .firmwareImage s = .next (if imageOk s i = true ∧ s.dev.canary = none then
        handOver ((s.setDev { s.dev with canary := some { image := i, since := s.dev.dtime } }).answer .done) i.queues true
      else s.answer .refused)
    ∧ (i.svn.toNat < s.dev.minSvn.toNat → exec .firmwareImage s = .next (s.answer .refused)))
  ∧ (∀ (s : State) (c : Canary), s.focus = .device → s.dev.canary = some c →
    ((canaryPassed s c).isSome = true → ∃ t, exec .canaryRevert s = .next t ∧ t.dev.canary = none ∧ t.dev.image = s.dev.image ∧ t.dev.version = s.dev.version ∧ t.dev.minSvn = s.dev.minSvn)
    ∧ (canaryPassed s c = none → exec .canaryRevert s = .next s ∧
        (s.dev.dtime.toNat < c.since.toNat + 1000000000 * c.image.windowS → exec .canaryCommit s = .next s)
        ∧ (c.since.toNat + 1000000000 * c.image.windowS ≤ s.dev.dtime.toNat → ∃ t, exec .canaryCommit s = .next t ∧ t.dev.canary = none ∧ t.dev.image = c.image.body
            ∧ t.dev.version = c.image.version ∧ t.dev.svn = c.image.svn ∧ t.dev.minSvn = c.image.svn ∧ t.dev.measured = false)))
  ∧ (∀ (s : State) (l : LcState) (sig : List Byte), s.focus = .lifeCycle l sig →
    (l ∈ lcSuccessors s.dev.lc → ∃ t, exec .lcChange s = .next t
      ∧ (if Config.sigVerifies (Config.authorityKey s.dev.lc) (Config.requestBytes (lcNum s.dev.lc) (lcNum l) []) sig = true then
          t.dev.lc = l ∧ t.dev.wiping = true ∧ t.dram = [] ∧ t.scratch = [] ∧ t.ram = [] ∧ t.tiles = [] ∧ t.launches = []
        else t = s.answer .refused))
    ∧ (l ∉ lcSuccessors s.dev.lc → exec .lcChange s = .next (s.answer .refused)))
  ∧ (∀ (s : State) (id : Nat), s.focus = .net (.page id) → s.cmds.has id = true → movesPage (s.cmd id) = true → cmdCode (s.cmd id).word = 0x19 →
    exec .networkAcknowledgement s = .next (s.setCmd id { s.cmd id with extended := true }))
  ∧ (∀ (s : State) (id : Nat), s.focus = .net (.pageFailed id) → s.cmds.has id = true → movesPage (s.cmd id) = true → ∃ t, exec .networkAcknowledgement s = .next t ∧ (t.cmd id).status = 13)
  ∧ ∀ (s : State), s.focus = .device →
    exec .ptpLockLoss s = .next (s.setDev { s.dev with locked := false })
    ∧ (∃ t ds sig, exec .getMeasurements s = .next t ∧ t.uet = .measured ds sig :: s.uet ∧ ds.length = 5 ∧ sig.length = 3309 ∧ t.dev.measured = s.dev.session)
    ∧ exec .keyExchange s = .next ((s.setDev { s.dev with session := true, measured := false }).answer .done)
    ∧ (∃ t, exec .reset s = .next t ∧ t.dev.wiping = true ∧ t.dev.lc = s.dev.lc ∧ t.dev.image = s.dev.image ∧ t.dev.minSvn = s.dev.minSvn ∧ t.dev.feats = none ∧ t.dev.tripped = false ∧ t.dev.selfTest = some []
        ∧ t.queues = [] ∧ t.contexts = [] ∧ t.launches = [] ∧ t.tiles = [] ∧ t.seqs = [] ∧ t.dram = [] ∧ t.scratch = [] ∧ t.ram = []
        ∧ ∀ pc, (t.landing pc).repairs = (s.landing pc).repairs ∧ (t.landing pc).reaches = (resetLanding pc).reaches)
    ∧ exec .wipeComplete s = .next (s.setDev { s.dev with wiping := false, selfTest := none })
    ∧ (∀ q tk pc slot e, s.dev.commits = [(q, tk, [(pc, slot, e)])] → ∃ t, exec .reachTableApply s = .next t
        ∧ (t.landing pc).reaches.get? slot = some e ∧ (t.landing pc).cursors.get? slot = some (0, 0) ∧ (t.landing pc).since.get? slot = some (s.dev.applied + 1)
        ∧ (t.landing pc).riders = (s.landing pc).riders ∧ (t.landing pc).weir = (s.landing pc).weir ∧ t.dev.commits = [])

/-! ### The whole machine -/

/-- R187, R188: a word of a sequencer changes no memory but its own 64 KiB of RAM, and of that only `st` and `stw` the bytes they store; no other sequencer; and no tile but those of its own region, where `seed` puts its token; register s0 reads 0 and is never written. -/
def Obligations.SequencerFrame : Prop :=
  (∀ (i : Instr) (s t : State) (k : TileKey), i.layer = .seq → s.focus = .seq k → exec i s = .next t →
    t.dram = s.dram ∧ t.scratch = s.scratch ∧ t.host = s.host ∧ t.far = s.far
    ∧ (∀ a, a / 65536 ≠ k → Mem.read t.ram a = Mem.read s.ram a)
    ∧ ((∀ d a imm, i ≠ .seqSt d a imm ∧ i ≠ .seqStw d a imm) → t.ram = s.ram)
    ∧ (∀ d a imm, let x := k * 65536 + ((s.seq k).reg a + imm.signExtend 64).toNat
        (i = .seqSt d a imm → ∀ b, b < x ∨ x + 8 ≤ b → Mem.read t.ram b = Mem.read s.ram b)
        ∧ (i = .seqStw d a imm → ∀ b, b < x ∨ x + 4 ≤ b → Mem.read t.ram b = Mem.read s.ram b))
    ∧ (∀ j, j ≠ k → t.seq j = s.seq j)
    ∧ ((∀ d a, i ≠ .seqSeed d a) → t.tiles = s.tiles)
    ∧ (let rg := s.region (s.seq k).region
        ∀ j, (∀ rel, rel ∈ regionRels rg → j ≠ regionTile rg rel) → t.tile j = s.tile j)
    ∧ t.landings = s.landings ∧ t.bases = s.bases ∧ t.queues = s.queues ∧ t.kernels = s.kernels ∧ t.dev = s.dev)
  ∧ ∀ (q : Seq) (v : BitVec 64) (d : BitVec 5), q.reg 0 = 0 ∧ q.put 0 v = q ∧ (d ≠ 0 → (q.put d v).reg d = v) ∧ ∀ a, a ≠ d → (q.put d v).reg a = q.reg a

/-- R58, R142, R243: a node changes nothing in another tile, no byte of DRAM, of sequencer RAM, of host or far memory, and of the scratchpads only bytes of its own tile's, but for `jump`, which writes the carve-out entry of its token, where the model places it (log 23), and the link of the entry before it (R243); what it sends to a sequencer is offered to a FIFO, and no register of a sequencer changes. -/
def Obligations.NodeFrame : Prop :=
  ∀ (i : Instr) (s t : State) (k : TileKey) (n : Nat), i.layer = .node → s.focus = .slot k n ∨ s.focus = .pipe k n → exec i s = .next t →
    t.dram = s.dram ∧ t.ram = s.ram ∧ t.host = s.host ∧ t.far = s.far
    ∧ ((∀ w b e, i ≠ .jump w b e) → (∀ a, a / 524288 ≠ k → Mem.read t.scratch a = Mem.read s.scratch a)
        ∧ ((∀ w ord blk scope, i ≠ .spst w ord blk scope) → t.scratch = s.scratch))
    ∧ (∀ w b e o, i = .jump w b e → ownerRegion s (s.launchOf k) b.toNat = some o →
        let base := regionTile (s.region o) 65 * 524288
        let entry := base + carveFree s o
        ∀ a, a < entry ∨ entry + 128 ≤ a →
          (∀ p, (blockQueue (s.region o) b.toNat).getLast? = some p → a < base + p.carve + 8 ∨ base + p.carve + 16 ≤ a) → Mem.read t.scratch a = Mem.read s.scratch a)
    ∧ (∀ j, j ≠ k → t.tile j = s.tile j)
    ∧ (∀ j, (t.seq j).s = (s.seq j).s ∧ (t.seq j).c = (s.seq j).c ∧ (t.seq j).pc = (s.seq j).pc ∧ (t.seq j).cause = (s.seq j).cause ∧ (t.seq j).q = (s.seq j).q)
    ∧ t.cmds = s.cmds ∧ t.queues = s.queues ∧ t.kernels = s.kernels

/-- R157, R346: a stream command's own step changes no byte of any memory, no sequencer, no region, no launch and no context; but a `statc` in tempo mode whose landing holds 2048 tempo-held updates traps TEMPO_WEIR (R301), whose record is offered to the trap queue of the launch's context and counted at the launch (R358), and changes no other; a `bseq.new` that evicts a table writes into the table reach of its stack, and of the tiles `statc` takes the counters. What a command does to memory it does through riders and postings, at their own steps. -/
def Obligations.CommandFrame : Prop :=
  ∀ (i : Instr) (s t : State) (id : Nat), i.layer = .cmd → s.focus = .cmd id → exec i s = .next t →
    ((∀ h o, i ≠ .bseqNew h o) → t.dram = s.dram) ∧ t.scratch = s.scratch ∧ t.ram = s.ram ∧ t.host = s.host ∧ t.far = s.far
    ∧ (∀ h o, i = .bseqNew h o → ∀ a, (∀ x, x < 67108864 → a ≠ extentByte (tableLanding o.stack.toNat) tableReach x) → Mem.read t.dram a = Mem.read s.dram a)
    ∧ t.seqs = s.seqs ∧ t.regions = s.regions ∧ t.queues = s.queues ∧ t.kernels = s.kernels
    ∧ ((∀ h reach seg, i ≠ .statc h reach seg) → t.launches = s.launches ∧ t.contexts = s.contexts ∧ t.tiles = s.tiles)
    ∧ (∀ h reach seg, i = .statc h reach seg →
        let c := s.cmd id
        let l := s.launchOf (cmdPort c)
        ((s.launchFlag c.launch 1 = false ∨ ∀ m loc, Stripe.place (stripe s c.ctx reach) seg.toNat = some (m, loc) → tempoHeldAt s m.pc < 2048) →
          t.launches = s.launches ∧ t.contexts = s.contexts)
        ∧ (∀ x, x ≠ l → t.launch x = s.launch x) ∧ ∀ x, x ≠ (s.launch l).ctx → t.ctx x = s.ctx x)
    ∧ ∀ k, (t.tile k).slots = (s.tile k).slots ∧ (t.tile k).routes = (s.tile k).routes ∧ (t.tile k).ports = (s.tile k).ports

/-- Every step keeps every byte memory in its canonical form, so that equal memories are equal data. (A property of the model's own form of memory, log 3.) -/
def Obligations.MemoryCanonical : Prop :=
  KeptByStep (fun s => s.memOk = true)

/-- R382, R383: in every step the stored minimum SVN does not fall, a canary's image keeps at least that SVN, and the life-cycle state stays as it is or moves to a successor of the table of R383. -/
def Obligations.DeviceNeverGoesBack : Prop :=
  ∀ s t, s.svnOk → step s = .next t → t.svnOk ∧ s.dev.minSvn.toNat ≤ t.dev.minSvn.toNat ∧ (t.dev.lc = s.dev.lc ∨ t.dev.lc ∈ lcSuccessors s.dev.lc)

/-- R187, R371, R372, R384: what reset leaves: no launch, queue, kernel, region or tile configuration; every store reads zero and no granule is poisoned; the reach tables hold only backwater reaches and PC63's table reach; keys only in slot 0; device time 0 and no feature accepted. (The model's choices: that a memory reads 0 in the canonical form, log 3; that the table reach stands in slot 15, log 137.) -/
def Obligations.ResetState : Prop :=
  State.reset.memOk = true ∧ State.reset.svnOk
  ∧ (∀ a, Mem.read State.reset.dram a = 0 ∧ Mem.read State.reset.scratch a = 0 ∧ Mem.read State.reset.ram a = 0)
  ∧ State.reset.poison = [] ∧ State.reset.shadow = []
  ∧ State.reset.launches = [] ∧ State.reset.queues = [] ∧ State.reset.kernels = [] ∧ State.reset.regions = [] ∧ State.reset.tiles = [] ∧ State.reset.cmds = []
  ∧ (∀ k n c q, (State.reset.seq k).reg n = 0 ∧ (State.reset.seq k).creg c = 0 ∧ (State.reset.seq k).fifo q = [])
  ∧ (∀ pc i e, (State.reset.landing pc).reaches.get? i = some e → Reach.backwater e = true ∨ (pc % 64 = 63 ∧ i = 15 ∧ e = tableReach))
  ∧ (∀ pc, (State.reset.landing pc).riders = [] ∧ (State.reset.landing pc).weir = [])
  ∧ (∀ n i, i ≠ 0 → (State.reset.base n).keys.has i = false)
  ∧ State.reset.dev.dtime = 0 ∧ State.reset.dev.locked = false ∧ State.reset.dev.feats = none ∧ State.reset.dev.tripped = false ∧ State.reset.dev.selfTest = none
  ∧ State.reset.accs = [] ∧ State.reset.syncs = []

/-! ### Encoding and stepping -/

/-- R15, R16, R18, R36, R38: every well-formed node instruction, with every operand at every value its table admits, is read back from its word. -/
def Obligations.NodeRoundTrip : Prop :=
  ∀ (i : Instr) (w : Word64), i.layer = .node → i.wellFormed = true → encodeNode i = some w → decodeNode w = .ok i

/-- R28, R30 to R35: every well-formed sequencer word and stream command is read back from its word. -/
def Obligations.WordRoundTrip : Prop :=
  (∀ (i : Instr) (w : BitVec 32), i.layer = .seq → i.wellFormed = true → encodeSeq i = some w → decodeSeq w = .ok i)
  ∧ ∀ (i : Instr) (w : Word128), i.layer = .cmd → i.wellFormed = true → encodeCmd i = some w → decodeCmd w = .ok i

/-- R11, R17, R29, R187, R312: an agent that is let go on runs the instruction that its word decodes to; an event runs as it is; then launches that are no candidates have their bypasses at 0 (R323), the regions that are no longer at the end of their phase are noted (R253), and at SP tiles who is ready for the memory and the owner node (R141, R144). That an agenda names the agent of each step is the model's (log 1). -/
def Obligations.StepRunsDecoded : Prop :=
  ∀ (s : State) (rest : List Move) (i : Instr),
    let s1 := { s with agenda := rest }
    let runs := fun (a : Agent) => step s = settled (exec i { s1 with focus := a })
    (∀ k, s.agenda = .issue (.seq k) :: rest → (s.seq k).pc.toNat < 65536 →
        decodeSeq (Word.ofBytes 32 (Mem.readN s.ram (k * 65536 + (s.seq k).pc.toNat) 4)) = .ok i → runs (.seq k))
    ∧ (∀ k n, s.agenda = .issue (.slot k n) :: rest → decodeNode (s.slot k n).word = .ok i → runs (.slot k n))
    ∧ (∀ k n, s.agenda = .issue (.pipe k n) :: rest → decodeNode (s.slot k n).word = .ok i → runs (.pipe k n))
    ∧ (∀ id, s.agenda = .issue (.cmd id) :: rest → decodeCmd (s.cmd id).word = .ok i → runs (.cmd id))
    ∧ (∀ q p, s.agenda = .issue (.queue q) :: rest → headPacket s q = some p → decodePacket p = .ok i → runs (.queue q))
    ∧ (∀ a, s.agenda = .act a i :: rest → i.layer = .event → runs a)
    ∧ (s.agenda = [] → step s = .next s)
    ∧ (∀ t : State, ∃ u, settled (.next t) = .next u ∧ u = { t with regions := u.regions, tiles := u.tiles, queues := u.queues, launches := u.launches }
        ∧ (∀ l, u.launch l = { t.launch l with bypass := if isCand (candOf t (t.launch l).queue (t.queue (t.launch l).queue)) (t.launch l).ticket = true then (t.launch l).bypass else 0 })
        ∧ (∀ q, let keep := fun (o : Open) => { o with bypass := if isCand (candOf t q (t.queue q)) o.ticket = true then o.bypass else 0 }
            u.queue q = { t.queue q with waiting := (t.queue q).waiting.map keep, tails := (t.queue q).tails.map keep })
        ∧ (∀ k, ∃ a b, u.tile k = { t.tile k with own := { (t.tile k).own with line := a, ownLine := b } })
        ∧ (∀ k, (t.tile k).kind ≠ .sp → u.tile k = t.tile k)
        ∧ ∀ r, u.region r = t.region r ∨ (regionQuiet t r = false ∧ u.region r = { t.region r with quiet := false, due := false }))

/-- R15, R32, R28, R203: words written out from the encodings of the spec decode to the instructions they stand for. -/
def Obligations.DecodingRight : Prop :=
  decodeSeq 0x08200004 = .ok (.seqAddi 1 0 4)
  ∧ decodeSeq 0x80F91820 = .ok (.seqCset 1 121 6 1 false)
  ∧ decodeSeq 0xA4C00000 = .ok (.seqTokTake 6 false 0)
  ∧ decodeSeq 0x40E2FFFD = .ok (.seqBeq 7 2 0xFFFD)
  ∧ decodeSeq 0xD0000000 = .ok .seqHalt
  ∧ decodeNode 0x0200000010000000 =
      .ok (.sub { ty := .i32, tga := .latch .left 0, tgb := .latch .left 1, lk := false, rk := false, pn := false, pe := false, rm := .rn, sat := false, pd := false })
  ∧ decodeNode nopWord = .error .nop
  ∧ decodeCmd 0x08400005300200000000000000000000 =
      .ok (.fold { acq := false, rel := false, gv := true, tk := false, scope := 0, gvq := 0, tkq := 0, die := 0, index := 5 }
        { reach := 3, rid := 0, ort := 2, win := false, early := false, etype := 0, offw := 0, cm1 := 0, fop := 0, pk := false, lo := 0, hi := 0 })
end

