-- ==== Sys2Proof/Laws/Map.lean ====
section
/-! SUPPORT. Reading after writing, for the finite maps of the state. -/

namespace Sys2Proof.Machine.Map

theorem get?_put_self {α : Type} (m : Map α) (i : Nat) (x : α) : get? (put m i x) i = some x := by
  induction m with
  | nil => simp [put, get?]
  | cons kv m ih =>
    obtain ⟨k, v⟩ := kv
    simp only [put]
    split
    · simp [get?]
    · split
      · simp [get?]
      · rename_i h
        simp only [get?, ih]
        simp_all

theorem get?_put_ne {α : Type} (m : Map α) (i j : Nat) (x : α) (h : j ≠ i) : get? (put m i x) j = get? m j := by
  induction m with
  | nil => simp [put, get?, Ne.symm h]
  | cons kv m ih =>
    obtain ⟨k, v⟩ := kv
    simp only [put]
    split
    · simp [get?, Ne.symm h]
    · split
      · rename_i hk
        have : k = i := by simpa using hk
        subst this
        simp [get?, Ne.symm h]
      · simp only [get?, ih]

@[simp] theorem getD_put_self {α : Type} (m : Map α) (i : Nat) (x d : α) : getD (put m i x) i d = x := by simp [getD, get?_put_self]

theorem getD_put_ne {α : Type} (m : Map α) (i j : Nat) (x d : α) (h : j ≠ i) : getD (put m i x) j d = getD m j d := by
  simp [getD, get?_put_ne m i j x h]

@[simp] theorem has_put_self {α : Type} (m : Map α) (i : Nat) (x : α) : has (put m i x) i = true := by simp [has, get?_put_self]

theorem has_put_ne {α : Type} (m : Map α) (i j : Nat) (x : α) (h : j ≠ i) : has (put m i x) j = has m j := by simp [has, get?_put_ne m i j x h]

theorem get?_del_self {α : Type} (m : Map α) (i : Nat) : get? (del m i) i = none := by
  induction m with
  | nil => rfl
  | cons kv m ih =>
    obtain ⟨k, v⟩ := kv
    simp only [del]
    split
    · exact ih
    · simp_all [get?]

theorem get?_del_ne {α : Type} (m : Map α) (i j : Nat) (h : j ≠ i) : get? (del m i) j = get? m j := by
  induction m with
  | nil => rfl
  | cons kv m ih =>
    obtain ⟨k, v⟩ := kv
    simp only [del]
    split
    · rename_i hk
      have : k = i := by simpa using hk
      subst this
      simp [get?, Ne.symm h, ih]
    · simp [get?, ih]

end Sys2Proof.Machine.Map
end

