-- ==== Sys2Proof/Laws/State.lean ====
section
/-! SUPPORT. What each update of the state leaves in each of its fields, and in each reader of its parts: one lemma each, true by unfolding. -/

namespace Sys2Proof.Machine.State

/-! ### `setTile` -/

@[simp] theorem setTile_agenda (s : State) (k : TileKey) (t : Tile) : (s.setTile k t).agenda = s.agenda := rfl
@[simp] theorem setTile_focus (s : State) (k : TileKey) (t : Tile) : (s.setTile k t).focus = s.focus := rfl
@[simp] theorem setTile_fresh (s : State) (k : TileKey) (t : Tile) : (s.setTile k t).fresh = s.fresh := rfl
@[simp] theorem setTile_uet (s : State) (k : TileKey) (t : Tile) : (s.setTile k t).uet = s.uet := rfl
@[simp] theorem setTile_seqs (s : State) (k : TileKey) (t : Tile) : (s.setTile k t).seqs = s.seqs := rfl
@[simp] theorem setTile_ports (s : State) (k : TileKey) (t : Tile) : (s.setTile k t).ports = s.ports := rfl
@[simp] theorem setTile_cmds (s : State) (k : TileKey) (t : Tile) : (s.setTile k t).cmds = s.cmds := rfl
@[simp] theorem setTile_nextCmd (s : State) (k : TileKey) (t : Tile) : (s.setTile k t).nextCmd = s.nextCmd := rfl
@[simp] theorem setTile_held (s : State) (k : TileKey) (t : Tile) : (s.setTile k t).held = s.held := rfl
@[simp] theorem setTile_sends (s : State) (k : TileKey) (t : Tile) : (s.setTile k t).sends = s.sends := rfl
@[simp] theorem setTile_regions (s : State) (k : TileKey) (t : Tile) : (s.setTile k t).regions = s.regions := rfl
@[simp] theorem setTile_launches (s : State) (k : TileKey) (t : Tile) : (s.setTile k t).launches = s.launches := rfl
@[simp] theorem setTile_kernels (s : State) (k : TileKey) (t : Tile) : (s.setTile k t).kernels = s.kernels := rfl
@[simp] theorem setTile_staging (s : State) (k : TileKey) (t : Tile) : (s.setTile k t).staging = s.staging := rfl
@[simp] theorem setTile_saved (s : State) (k : TileKey) (t : Tile) : (s.setTile k t).saved = s.saved := rfl
@[simp] theorem setTile_queues (s : State) (k : TileKey) (t : Tile) : (s.setTile k t).queues = s.queues := rfl
@[simp] theorem setTile_contexts (s : State) (k : TileKey) (t : Tile) : (s.setTile k t).contexts = s.contexts := rfl
@[simp] theorem setTile_landings (s : State) (k : TileKey) (t : Tile) : (s.setTile k t).landings = s.landings := rfl
@[simp] theorem setTile_bases (s : State) (k : TileKey) (t : Tile) : (s.setTile k t).bases = s.bases := rfl
@[simp] theorem setTile_dieCache (s : State) (k : TileKey) (t : Tile) : (s.setTile k t).dieCache = s.dieCache := rfl
@[simp] theorem setTile_links (s : State) (k : TileKey) (t : Tile) : (s.setTile k t).links = s.links := rfl
@[simp] theorem setTile_dram (s : State) (k : TileKey) (t : Tile) : (s.setTile k t).dram = s.dram := rfl
@[simp] theorem setTile_tags (s : State) (k : TileKey) (t : Tile) : (s.setTile k t).tags = s.tags := rfl
@[simp] theorem setTile_decayed (s : State) (k : TileKey) (t : Tile) : (s.setTile k t).decayed = s.decayed := rfl
@[simp] theorem setTile_poison (s : State) (k : TileKey) (t : Tile) : (s.setTile k t).poison = s.poison := rfl
@[simp] theorem setTile_scratch (s : State) (k : TileKey) (t : Tile) : (s.setTile k t).scratch = s.scratch := rfl
@[simp] theorem setTile_ecc (s : State) (k : TileKey) (t : Tile) : (s.setTile k t).ecc = s.ecc := rfl
@[simp] theorem setTile_shadow (s : State) (k : TileKey) (t : Tile) : (s.setTile k t).shadow = s.shadow := rfl
@[simp] theorem setTile_ram (s : State) (k : TileKey) (t : Tile) : (s.setTile k t).ram = s.ram := rfl
@[simp] theorem setTile_ramEcc (s : State) (k : TileKey) (t : Tile) : (s.setTile k t).ramEcc = s.ramEcc := rfl
@[simp] theorem setTile_accs (s : State) (k : TileKey) (t : Tile) : (s.setTile k t).accs = s.accs := rfl
@[simp] theorem setTile_nextAcc (s : State) (k : TileKey) (t : Tile) : (s.setTile k t).nextAcc = s.nextAcc := rfl
@[simp] theorem setTile_syncs (s : State) (k : TileKey) (t : Tile) : (s.setTile k t).syncs = s.syncs := rfl
@[simp] theorem setTile_host (s : State) (k : TileKey) (t : Tile) : (s.setTile k t).host = s.host := rfl
@[simp] theorem setTile_far (s : State) (k : TileKey) (t : Tile) : (s.setTile k t).far = s.far := rfl
@[simp] theorem setTile_dev (s : State) (k : TileKey) (t : Tile) : (s.setTile k t).dev = s.dev := rfl
@[simp] theorem setTile_seq (s : State) (k : TileKey) (t : Tile) (i : TileKey) : (s.setTile k t).seq i = s.seq i := rfl
@[simp] theorem setTile_port (s : State) (k : TileKey) (t : Tile) (i : TileKey) : (s.setTile k t).port i = s.port i := rfl
@[simp] theorem setTile_region (s : State) (k : TileKey) (t : Tile) (i : Nat) : (s.setTile k t).region i = s.region i := rfl
@[simp] theorem setTile_ctx (s : State) (k : TileKey) (t : Tile) (i : Nat) : (s.setTile k t).ctx i = s.ctx i := rfl
@[simp] theorem setTile_queue (s : State) (k : TileKey) (t : Tile) (i : Nat) : (s.setTile k t).queue i = s.queue i := rfl
@[simp] theorem setTile_launch (s : State) (k : TileKey) (t : Tile) (i : Nat) : (s.setTile k t).launch i = s.launch i := rfl
@[simp] theorem setTile_cmd (s : State) (k : TileKey) (t : Tile) (i : Nat) : (s.setTile k t).cmd i = s.cmd i := rfl
@[simp] theorem setTile_landing (s : State) (k : TileKey) (t : Tile) (i : PcKey) : (s.setTile k t).landing i = s.landing i := rfl
@[simp] theorem setTile_base (s : State) (k : TileKey) (t : Tile) (i : Nat) : (s.setTile k t).base i = s.base i := rfl

/-! ### `setSlot` -/

@[simp] theorem setSlot_agenda (s : State) (k : TileKey) (n : Nat) (x : Slot) : (s.setSlot k n x).agenda = s.agenda := rfl
@[simp] theorem setSlot_focus (s : State) (k : TileKey) (n : Nat) (x : Slot) : (s.setSlot k n x).focus = s.focus := rfl
@[simp] theorem setSlot_fresh (s : State) (k : TileKey) (n : Nat) (x : Slot) : (s.setSlot k n x).fresh = s.fresh := rfl
@[simp] theorem setSlot_uet (s : State) (k : TileKey) (n : Nat) (x : Slot) : (s.setSlot k n x).uet = s.uet := rfl
@[simp] theorem setSlot_seqs (s : State) (k : TileKey) (n : Nat) (x : Slot) : (s.setSlot k n x).seqs = s.seqs := rfl
@[simp] theorem setSlot_ports (s : State) (k : TileKey) (n : Nat) (x : Slot) : (s.setSlot k n x).ports = s.ports := rfl
@[simp] theorem setSlot_cmds (s : State) (k : TileKey) (n : Nat) (x : Slot) : (s.setSlot k n x).cmds = s.cmds := rfl
@[simp] theorem setSlot_nextCmd (s : State) (k : TileKey) (n : Nat) (x : Slot) : (s.setSlot k n x).nextCmd = s.nextCmd := rfl
@[simp] theorem setSlot_held (s : State) (k : TileKey) (n : Nat) (x : Slot) : (s.setSlot k n x).held = s.held := rfl
@[simp] theorem setSlot_sends (s : State) (k : TileKey) (n : Nat) (x : Slot) : (s.setSlot k n x).sends = s.sends := rfl
@[simp] theorem setSlot_regions (s : State) (k : TileKey) (n : Nat) (x : Slot) : (s.setSlot k n x).regions = s.regions := rfl
@[simp] theorem setSlot_launches (s : State) (k : TileKey) (n : Nat) (x : Slot) : (s.setSlot k n x).launches = s.launches := rfl
@[simp] theorem setSlot_kernels (s : State) (k : TileKey) (n : Nat) (x : Slot) : (s.setSlot k n x).kernels = s.kernels := rfl
@[simp] theorem setSlot_staging (s : State) (k : TileKey) (n : Nat) (x : Slot) : (s.setSlot k n x).staging = s.staging := rfl
@[simp] theorem setSlot_saved (s : State) (k : TileKey) (n : Nat) (x : Slot) : (s.setSlot k n x).saved = s.saved := rfl
@[simp] theorem setSlot_queues (s : State) (k : TileKey) (n : Nat) (x : Slot) : (s.setSlot k n x).queues = s.queues := rfl
@[simp] theorem setSlot_contexts (s : State) (k : TileKey) (n : Nat) (x : Slot) : (s.setSlot k n x).contexts = s.contexts := rfl
@[simp] theorem setSlot_landings (s : State) (k : TileKey) (n : Nat) (x : Slot) : (s.setSlot k n x).landings = s.landings := rfl
@[simp] theorem setSlot_bases (s : State) (k : TileKey) (n : Nat) (x : Slot) : (s.setSlot k n x).bases = s.bases := rfl
@[simp] theorem setSlot_dieCache (s : State) (k : TileKey) (n : Nat) (x : Slot) : (s.setSlot k n x).dieCache = s.dieCache := rfl
@[simp] theorem setSlot_links (s : State) (k : TileKey) (n : Nat) (x : Slot) : (s.setSlot k n x).links = s.links := rfl
@[simp] theorem setSlot_dram (s : State) (k : TileKey) (n : Nat) (x : Slot) : (s.setSlot k n x).dram = s.dram := rfl
@[simp] theorem setSlot_tags (s : State) (k : TileKey) (n : Nat) (x : Slot) : (s.setSlot k n x).tags = s.tags := rfl
@[simp] theorem setSlot_decayed (s : State) (k : TileKey) (n : Nat) (x : Slot) : (s.setSlot k n x).decayed = s.decayed := rfl
@[simp] theorem setSlot_poison (s : State) (k : TileKey) (n : Nat) (x : Slot) : (s.setSlot k n x).poison = s.poison := rfl
@[simp] theorem setSlot_scratch (s : State) (k : TileKey) (n : Nat) (x : Slot) : (s.setSlot k n x).scratch = s.scratch := rfl
@[simp] theorem setSlot_ecc (s : State) (k : TileKey) (n : Nat) (x : Slot) : (s.setSlot k n x).ecc = s.ecc := rfl
@[simp] theorem setSlot_shadow (s : State) (k : TileKey) (n : Nat) (x : Slot) : (s.setSlot k n x).shadow = s.shadow := rfl
@[simp] theorem setSlot_ram (s : State) (k : TileKey) (n : Nat) (x : Slot) : (s.setSlot k n x).ram = s.ram := rfl
@[simp] theorem setSlot_ramEcc (s : State) (k : TileKey) (n : Nat) (x : Slot) : (s.setSlot k n x).ramEcc = s.ramEcc := rfl
@[simp] theorem setSlot_accs (s : State) (k : TileKey) (n : Nat) (x : Slot) : (s.setSlot k n x).accs = s.accs := rfl
@[simp] theorem setSlot_nextAcc (s : State) (k : TileKey) (n : Nat) (x : Slot) : (s.setSlot k n x).nextAcc = s.nextAcc := rfl
@[simp] theorem setSlot_syncs (s : State) (k : TileKey) (n : Nat) (x : Slot) : (s.setSlot k n x).syncs = s.syncs := rfl
@[simp] theorem setSlot_host (s : State) (k : TileKey) (n : Nat) (x : Slot) : (s.setSlot k n x).host = s.host := rfl
@[simp] theorem setSlot_far (s : State) (k : TileKey) (n : Nat) (x : Slot) : (s.setSlot k n x).far = s.far := rfl
@[simp] theorem setSlot_dev (s : State) (k : TileKey) (n : Nat) (x : Slot) : (s.setSlot k n x).dev = s.dev := rfl
@[simp] theorem setSlot_seq (s : State) (k : TileKey) (n : Nat) (x : Slot) (i : TileKey) : (s.setSlot k n x).seq i = s.seq i := rfl
@[simp] theorem setSlot_port (s : State) (k : TileKey) (n : Nat) (x : Slot) (i : TileKey) : (s.setSlot k n x).port i = s.port i := rfl
@[simp] theorem setSlot_region (s : State) (k : TileKey) (n : Nat) (x : Slot) (i : Nat) : (s.setSlot k n x).region i = s.region i := rfl
@[simp] theorem setSlot_ctx (s : State) (k : TileKey) (n : Nat) (x : Slot) (i : Nat) : (s.setSlot k n x).ctx i = s.ctx i := rfl
@[simp] theorem setSlot_queue (s : State) (k : TileKey) (n : Nat) (x : Slot) (i : Nat) : (s.setSlot k n x).queue i = s.queue i := rfl
@[simp] theorem setSlot_launch (s : State) (k : TileKey) (n : Nat) (x : Slot) (i : Nat) : (s.setSlot k n x).launch i = s.launch i := rfl
@[simp] theorem setSlot_cmd (s : State) (k : TileKey) (n : Nat) (x : Slot) (i : Nat) : (s.setSlot k n x).cmd i = s.cmd i := rfl
@[simp] theorem setSlot_landing (s : State) (k : TileKey) (n : Nat) (x : Slot) (i : PcKey) : (s.setSlot k n x).landing i = s.landing i := rfl
@[simp] theorem setSlot_base (s : State) (k : TileKey) (n : Nat) (x : Slot) (i : Nat) : (s.setSlot k n x).base i = s.base i := rfl

/-! ### `setSeq` -/

@[simp] theorem setSeq_agenda (s : State) (k : TileKey) (q : Seq) : (s.setSeq k q).agenda = s.agenda := rfl
@[simp] theorem setSeq_focus (s : State) (k : TileKey) (q : Seq) : (s.setSeq k q).focus = s.focus := rfl
@[simp] theorem setSeq_fresh (s : State) (k : TileKey) (q : Seq) : (s.setSeq k q).fresh = s.fresh := rfl
@[simp] theorem setSeq_uet (s : State) (k : TileKey) (q : Seq) : (s.setSeq k q).uet = s.uet := rfl
@[simp] theorem setSeq_tiles (s : State) (k : TileKey) (q : Seq) : (s.setSeq k q).tiles = s.tiles := rfl
@[simp] theorem setSeq_ports (s : State) (k : TileKey) (q : Seq) : (s.setSeq k q).ports = s.ports := rfl
@[simp] theorem setSeq_cmds (s : State) (k : TileKey) (q : Seq) : (s.setSeq k q).cmds = s.cmds := rfl
@[simp] theorem setSeq_nextCmd (s : State) (k : TileKey) (q : Seq) : (s.setSeq k q).nextCmd = s.nextCmd := rfl
@[simp] theorem setSeq_held (s : State) (k : TileKey) (q : Seq) : (s.setSeq k q).held = s.held := rfl
@[simp] theorem setSeq_sends (s : State) (k : TileKey) (q : Seq) : (s.setSeq k q).sends = s.sends := rfl
@[simp] theorem setSeq_regions (s : State) (k : TileKey) (q : Seq) : (s.setSeq k q).regions = s.regions := rfl
@[simp] theorem setSeq_launches (s : State) (k : TileKey) (q : Seq) : (s.setSeq k q).launches = s.launches := rfl
@[simp] theorem setSeq_kernels (s : State) (k : TileKey) (q : Seq) : (s.setSeq k q).kernels = s.kernels := rfl
@[simp] theorem setSeq_staging (s : State) (k : TileKey) (q : Seq) : (s.setSeq k q).staging = s.staging := rfl
@[simp] theorem setSeq_saved (s : State) (k : TileKey) (q : Seq) : (s.setSeq k q).saved = s.saved := rfl
@[simp] theorem setSeq_queues (s : State) (k : TileKey) (q : Seq) : (s.setSeq k q).queues = s.queues := rfl
@[simp] theorem setSeq_contexts (s : State) (k : TileKey) (q : Seq) : (s.setSeq k q).contexts = s.contexts := rfl
@[simp] theorem setSeq_landings (s : State) (k : TileKey) (q : Seq) : (s.setSeq k q).landings = s.landings := rfl
@[simp] theorem setSeq_bases (s : State) (k : TileKey) (q : Seq) : (s.setSeq k q).bases = s.bases := rfl
@[simp] theorem setSeq_dieCache (s : State) (k : TileKey) (q : Seq) : (s.setSeq k q).dieCache = s.dieCache := rfl
@[simp] theorem setSeq_links (s : State) (k : TileKey) (q : Seq) : (s.setSeq k q).links = s.links := rfl
@[simp] theorem setSeq_dram (s : State) (k : TileKey) (q : Seq) : (s.setSeq k q).dram = s.dram := rfl
@[simp] theorem setSeq_tags (s : State) (k : TileKey) (q : Seq) : (s.setSeq k q).tags = s.tags := rfl
@[simp] theorem setSeq_decayed (s : State) (k : TileKey) (q : Seq) : (s.setSeq k q).decayed = s.decayed := rfl
@[simp] theorem setSeq_poison (s : State) (k : TileKey) (q : Seq) : (s.setSeq k q).poison = s.poison := rfl
@[simp] theorem setSeq_scratch (s : State) (k : TileKey) (q : Seq) : (s.setSeq k q).scratch = s.scratch := rfl
@[simp] theorem setSeq_ecc (s : State) (k : TileKey) (q : Seq) : (s.setSeq k q).ecc = s.ecc := rfl
@[simp] theorem setSeq_shadow (s : State) (k : TileKey) (q : Seq) : (s.setSeq k q).shadow = s.shadow := rfl
@[simp] theorem setSeq_ram (s : State) (k : TileKey) (q : Seq) : (s.setSeq k q).ram = s.ram := rfl
@[simp] theorem setSeq_ramEcc (s : State) (k : TileKey) (q : Seq) : (s.setSeq k q).ramEcc = s.ramEcc := rfl
@[simp] theorem setSeq_accs (s : State) (k : TileKey) (q : Seq) : (s.setSeq k q).accs = s.accs := rfl
@[simp] theorem setSeq_nextAcc (s : State) (k : TileKey) (q : Seq) : (s.setSeq k q).nextAcc = s.nextAcc := rfl
@[simp] theorem setSeq_syncs (s : State) (k : TileKey) (q : Seq) : (s.setSeq k q).syncs = s.syncs := rfl
@[simp] theorem setSeq_host (s : State) (k : TileKey) (q : Seq) : (s.setSeq k q).host = s.host := rfl
@[simp] theorem setSeq_far (s : State) (k : TileKey) (q : Seq) : (s.setSeq k q).far = s.far := rfl
@[simp] theorem setSeq_dev (s : State) (k : TileKey) (q : Seq) : (s.setSeq k q).dev = s.dev := rfl
@[simp] theorem setSeq_tile (s : State) (k : TileKey) (q : Seq) (i : TileKey) : (s.setSeq k q).tile i = s.tile i := rfl
@[simp] theorem setSeq_port (s : State) (k : TileKey) (q : Seq) (i : TileKey) : (s.setSeq k q).port i = s.port i := rfl
@[simp] theorem setSeq_region (s : State) (k : TileKey) (q : Seq) (i : Nat) : (s.setSeq k q).region i = s.region i := rfl
@[simp] theorem setSeq_ctx (s : State) (k : TileKey) (q : Seq) (i : Nat) : (s.setSeq k q).ctx i = s.ctx i := rfl
@[simp] theorem setSeq_queue (s : State) (k : TileKey) (q : Seq) (i : Nat) : (s.setSeq k q).queue i = s.queue i := rfl
@[simp] theorem setSeq_launch (s : State) (k : TileKey) (q : Seq) (i : Nat) : (s.setSeq k q).launch i = s.launch i := rfl
@[simp] theorem setSeq_cmd (s : State) (k : TileKey) (q : Seq) (i : Nat) : (s.setSeq k q).cmd i = s.cmd i := rfl
@[simp] theorem setSeq_landing (s : State) (k : TileKey) (q : Seq) (i : PcKey) : (s.setSeq k q).landing i = s.landing i := rfl
@[simp] theorem setSeq_base (s : State) (k : TileKey) (q : Seq) (i : Nat) : (s.setSeq k q).base i = s.base i := rfl
@[simp] theorem setSeq_slot (s : State) (k : TileKey) (q : Seq) (i : TileKey) (j : Nat) : (s.setSeq k q).slot i j = s.slot i j := rfl

/-! ### `setPort` -/

@[simp] theorem setPort_agenda (s : State) (k : TileKey) (p : PortUnit) : (s.setPort k p).agenda = s.agenda := rfl
@[simp] theorem setPort_focus (s : State) (k : TileKey) (p : PortUnit) : (s.setPort k p).focus = s.focus := rfl
@[simp] theorem setPort_fresh (s : State) (k : TileKey) (p : PortUnit) : (s.setPort k p).fresh = s.fresh := rfl
@[simp] theorem setPort_uet (s : State) (k : TileKey) (p : PortUnit) : (s.setPort k p).uet = s.uet := rfl
@[simp] theorem setPort_tiles (s : State) (k : TileKey) (p : PortUnit) : (s.setPort k p).tiles = s.tiles := rfl
@[simp] theorem setPort_seqs (s : State) (k : TileKey) (p : PortUnit) : (s.setPort k p).seqs = s.seqs := rfl
@[simp] theorem setPort_cmds (s : State) (k : TileKey) (p : PortUnit) : (s.setPort k p).cmds = s.cmds := rfl
@[simp] theorem setPort_nextCmd (s : State) (k : TileKey) (p : PortUnit) : (s.setPort k p).nextCmd = s.nextCmd := rfl
@[simp] theorem setPort_held (s : State) (k : TileKey) (p : PortUnit) : (s.setPort k p).held = s.held := rfl
@[simp] theorem setPort_sends (s : State) (k : TileKey) (p : PortUnit) : (s.setPort k p).sends = s.sends := rfl
@[simp] theorem setPort_regions (s : State) (k : TileKey) (p : PortUnit) : (s.setPort k p).regions = s.regions := rfl
@[simp] theorem setPort_launches (s : State) (k : TileKey) (p : PortUnit) : (s.setPort k p).launches = s.launches := rfl
@[simp] theorem setPort_kernels (s : State) (k : TileKey) (p : PortUnit) : (s.setPort k p).kernels = s.kernels := rfl
@[simp] theorem setPort_staging (s : State) (k : TileKey) (p : PortUnit) : (s.setPort k p).staging = s.staging := rfl
@[simp] theorem setPort_saved (s : State) (k : TileKey) (p : PortUnit) : (s.setPort k p).saved = s.saved := rfl
@[simp] theorem setPort_queues (s : State) (k : TileKey) (p : PortUnit) : (s.setPort k p).queues = s.queues := rfl
@[simp] theorem setPort_contexts (s : State) (k : TileKey) (p : PortUnit) : (s.setPort k p).contexts = s.contexts := rfl
@[simp] theorem setPort_landings (s : State) (k : TileKey) (p : PortUnit) : (s.setPort k p).landings = s.landings := rfl
@[simp] theorem setPort_bases (s : State) (k : TileKey) (p : PortUnit) : (s.setPort k p).bases = s.bases := rfl
@[simp] theorem setPort_dieCache (s : State) (k : TileKey) (p : PortUnit) : (s.setPort k p).dieCache = s.dieCache := rfl
@[simp] theorem setPort_links (s : State) (k : TileKey) (p : PortUnit) : (s.setPort k p).links = s.links := rfl
@[simp] theorem setPort_dram (s : State) (k : TileKey) (p : PortUnit) : (s.setPort k p).dram = s.dram := rfl
@[simp] theorem setPort_tags (s : State) (k : TileKey) (p : PortUnit) : (s.setPort k p).tags = s.tags := rfl
@[simp] theorem setPort_decayed (s : State) (k : TileKey) (p : PortUnit) : (s.setPort k p).decayed = s.decayed := rfl
@[simp] theorem setPort_poison (s : State) (k : TileKey) (p : PortUnit) : (s.setPort k p).poison = s.poison := rfl
@[simp] theorem setPort_scratch (s : State) (k : TileKey) (p : PortUnit) : (s.setPort k p).scratch = s.scratch := rfl
@[simp] theorem setPort_ecc (s : State) (k : TileKey) (p : PortUnit) : (s.setPort k p).ecc = s.ecc := rfl
@[simp] theorem setPort_shadow (s : State) (k : TileKey) (p : PortUnit) : (s.setPort k p).shadow = s.shadow := rfl
@[simp] theorem setPort_ram (s : State) (k : TileKey) (p : PortUnit) : (s.setPort k p).ram = s.ram := rfl
@[simp] theorem setPort_ramEcc (s : State) (k : TileKey) (p : PortUnit) : (s.setPort k p).ramEcc = s.ramEcc := rfl
@[simp] theorem setPort_accs (s : State) (k : TileKey) (p : PortUnit) : (s.setPort k p).accs = s.accs := rfl
@[simp] theorem setPort_nextAcc (s : State) (k : TileKey) (p : PortUnit) : (s.setPort k p).nextAcc = s.nextAcc := rfl
@[simp] theorem setPort_syncs (s : State) (k : TileKey) (p : PortUnit) : (s.setPort k p).syncs = s.syncs := rfl
@[simp] theorem setPort_host (s : State) (k : TileKey) (p : PortUnit) : (s.setPort k p).host = s.host := rfl
@[simp] theorem setPort_far (s : State) (k : TileKey) (p : PortUnit) : (s.setPort k p).far = s.far := rfl
@[simp] theorem setPort_dev (s : State) (k : TileKey) (p : PortUnit) : (s.setPort k p).dev = s.dev := rfl
@[simp] theorem setPort_tile (s : State) (k : TileKey) (p : PortUnit) (i : TileKey) : (s.setPort k p).tile i = s.tile i := rfl
@[simp] theorem setPort_seq (s : State) (k : TileKey) (p : PortUnit) (i : TileKey) : (s.setPort k p).seq i = s.seq i := rfl
@[simp] theorem setPort_region (s : State) (k : TileKey) (p : PortUnit) (i : Nat) : (s.setPort k p).region i = s.region i := rfl
@[simp] theorem setPort_ctx (s : State) (k : TileKey) (p : PortUnit) (i : Nat) : (s.setPort k p).ctx i = s.ctx i := rfl
@[simp] theorem setPort_queue (s : State) (k : TileKey) (p : PortUnit) (i : Nat) : (s.setPort k p).queue i = s.queue i := rfl
@[simp] theorem setPort_launch (s : State) (k : TileKey) (p : PortUnit) (i : Nat) : (s.setPort k p).launch i = s.launch i := rfl
@[simp] theorem setPort_cmd (s : State) (k : TileKey) (p : PortUnit) (i : Nat) : (s.setPort k p).cmd i = s.cmd i := rfl
@[simp] theorem setPort_landing (s : State) (k : TileKey) (p : PortUnit) (i : PcKey) : (s.setPort k p).landing i = s.landing i := rfl
@[simp] theorem setPort_base (s : State) (k : TileKey) (p : PortUnit) (i : Nat) : (s.setPort k p).base i = s.base i := rfl
@[simp] theorem setPort_slot (s : State) (k : TileKey) (p : PortUnit) (i : TileKey) (j : Nat) : (s.setPort k p).slot i j = s.slot i j := rfl

/-! ### `setRegion` -/

@[simp] theorem setRegion_agenda (s : State) (r : Nat) (x : Region) : (s.setRegion r x).agenda = s.agenda := rfl
@[simp] theorem setRegion_focus (s : State) (r : Nat) (x : Region) : (s.setRegion r x).focus = s.focus := rfl
@[simp] theorem setRegion_fresh (s : State) (r : Nat) (x : Region) : (s.setRegion r x).fresh = s.fresh := rfl
@[simp] theorem setRegion_uet (s : State) (r : Nat) (x : Region) : (s.setRegion r x).uet = s.uet := rfl
@[simp] theorem setRegion_tiles (s : State) (r : Nat) (x : Region) : (s.setRegion r x).tiles = s.tiles := rfl
@[simp] theorem setRegion_seqs (s : State) (r : Nat) (x : Region) : (s.setRegion r x).seqs = s.seqs := rfl
@[simp] theorem setRegion_ports (s : State) (r : Nat) (x : Region) : (s.setRegion r x).ports = s.ports := rfl
@[simp] theorem setRegion_cmds (s : State) (r : Nat) (x : Region) : (s.setRegion r x).cmds = s.cmds := rfl
@[simp] theorem setRegion_nextCmd (s : State) (r : Nat) (x : Region) : (s.setRegion r x).nextCmd = s.nextCmd := rfl
@[simp] theorem setRegion_held (s : State) (r : Nat) (x : Region) : (s.setRegion r x).held = s.held := rfl
@[simp] theorem setRegion_sends (s : State) (r : Nat) (x : Region) : (s.setRegion r x).sends = s.sends := rfl
@[simp] theorem setRegion_launches (s : State) (r : Nat) (x : Region) : (s.setRegion r x).launches = s.launches := rfl
@[simp] theorem setRegion_kernels (s : State) (r : Nat) (x : Region) : (s.setRegion r x).kernels = s.kernels := rfl
@[simp] theorem setRegion_staging (s : State) (r : Nat) (x : Region) : (s.setRegion r x).staging = s.staging := rfl
@[simp] theorem setRegion_saved (s : State) (r : Nat) (x : Region) : (s.setRegion r x).saved = s.saved := rfl
@[simp] theorem setRegion_queues (s : State) (r : Nat) (x : Region) : (s.setRegion r x).queues = s.queues := rfl
@[simp] theorem setRegion_contexts (s : State) (r : Nat) (x : Region) : (s.setRegion r x).contexts = s.contexts := rfl
@[simp] theorem setRegion_landings (s : State) (r : Nat) (x : Region) : (s.setRegion r x).landings = s.landings := rfl
@[simp] theorem setRegion_bases (s : State) (r : Nat) (x : Region) : (s.setRegion r x).bases = s.bases := rfl
@[simp] theorem setRegion_dieCache (s : State) (r : Nat) (x : Region) : (s.setRegion r x).dieCache = s.dieCache := rfl
@[simp] theorem setRegion_links (s : State) (r : Nat) (x : Region) : (s.setRegion r x).links = s.links := rfl
@[simp] theorem setRegion_dram (s : State) (r : Nat) (x : Region) : (s.setRegion r x).dram = s.dram := rfl
@[simp] theorem setRegion_tags (s : State) (r : Nat) (x : Region) : (s.setRegion r x).tags = s.tags := rfl
@[simp] theorem setRegion_decayed (s : State) (r : Nat) (x : Region) : (s.setRegion r x).decayed = s.decayed := rfl
@[simp] theorem setRegion_poison (s : State) (r : Nat) (x : Region) : (s.setRegion r x).poison = s.poison := rfl
@[simp] theorem setRegion_scratch (s : State) (r : Nat) (x : Region) : (s.setRegion r x).scratch = s.scratch := rfl
@[simp] theorem setRegion_ecc (s : State) (r : Nat) (x : Region) : (s.setRegion r x).ecc = s.ecc := rfl
@[simp] theorem setRegion_shadow (s : State) (r : Nat) (x : Region) : (s.setRegion r x).shadow = s.shadow := rfl
@[simp] theorem setRegion_ram (s : State) (r : Nat) (x : Region) : (s.setRegion r x).ram = s.ram := rfl
@[simp] theorem setRegion_ramEcc (s : State) (r : Nat) (x : Region) : (s.setRegion r x).ramEcc = s.ramEcc := rfl
@[simp] theorem setRegion_accs (s : State) (r : Nat) (x : Region) : (s.setRegion r x).accs = s.accs := rfl
@[simp] theorem setRegion_nextAcc (s : State) (r : Nat) (x : Region) : (s.setRegion r x).nextAcc = s.nextAcc := rfl
@[simp] theorem setRegion_syncs (s : State) (r : Nat) (x : Region) : (s.setRegion r x).syncs = s.syncs := rfl
@[simp] theorem setRegion_host (s : State) (r : Nat) (x : Region) : (s.setRegion r x).host = s.host := rfl
@[simp] theorem setRegion_far (s : State) (r : Nat) (x : Region) : (s.setRegion r x).far = s.far := rfl
@[simp] theorem setRegion_dev (s : State) (r : Nat) (x : Region) : (s.setRegion r x).dev = s.dev := rfl
@[simp] theorem setRegion_tile (s : State) (r : Nat) (x : Region) (i : TileKey) : (s.setRegion r x).tile i = s.tile i := rfl
@[simp] theorem setRegion_seq (s : State) (r : Nat) (x : Region) (i : TileKey) : (s.setRegion r x).seq i = s.seq i := rfl
@[simp] theorem setRegion_port (s : State) (r : Nat) (x : Region) (i : TileKey) : (s.setRegion r x).port i = s.port i := rfl
@[simp] theorem setRegion_ctx (s : State) (r : Nat) (x : Region) (i : Nat) : (s.setRegion r x).ctx i = s.ctx i := rfl
@[simp] theorem setRegion_queue (s : State) (r : Nat) (x : Region) (i : Nat) : (s.setRegion r x).queue i = s.queue i := rfl
@[simp] theorem setRegion_launch (s : State) (r : Nat) (x : Region) (i : Nat) : (s.setRegion r x).launch i = s.launch i := rfl
@[simp] theorem setRegion_cmd (s : State) (r : Nat) (x : Region) (i : Nat) : (s.setRegion r x).cmd i = s.cmd i := rfl
@[simp] theorem setRegion_landing (s : State) (r : Nat) (x : Region) (i : PcKey) : (s.setRegion r x).landing i = s.landing i := rfl
@[simp] theorem setRegion_base (s : State) (r : Nat) (x : Region) (i : Nat) : (s.setRegion r x).base i = s.base i := rfl
@[simp] theorem setRegion_slot (s : State) (r : Nat) (x : Region) (i : TileKey) (j : Nat) : (s.setRegion r x).slot i j = s.slot i j := rfl

/-! ### `setCtx` -/

@[simp] theorem setCtx_agenda (s : State) (c : Nat) (x : Context) : (s.setCtx c x).agenda = s.agenda := rfl
@[simp] theorem setCtx_focus (s : State) (c : Nat) (x : Context) : (s.setCtx c x).focus = s.focus := rfl
@[simp] theorem setCtx_fresh (s : State) (c : Nat) (x : Context) : (s.setCtx c x).fresh = s.fresh := rfl
@[simp] theorem setCtx_uet (s : State) (c : Nat) (x : Context) : (s.setCtx c x).uet = s.uet := rfl
@[simp] theorem setCtx_tiles (s : State) (c : Nat) (x : Context) : (s.setCtx c x).tiles = s.tiles := rfl
@[simp] theorem setCtx_seqs (s : State) (c : Nat) (x : Context) : (s.setCtx c x).seqs = s.seqs := rfl
@[simp] theorem setCtx_ports (s : State) (c : Nat) (x : Context) : (s.setCtx c x).ports = s.ports := rfl
@[simp] theorem setCtx_cmds (s : State) (c : Nat) (x : Context) : (s.setCtx c x).cmds = s.cmds := rfl
@[simp] theorem setCtx_nextCmd (s : State) (c : Nat) (x : Context) : (s.setCtx c x).nextCmd = s.nextCmd := rfl
@[simp] theorem setCtx_held (s : State) (c : Nat) (x : Context) : (s.setCtx c x).held = s.held := rfl
@[simp] theorem setCtx_sends (s : State) (c : Nat) (x : Context) : (s.setCtx c x).sends = s.sends := rfl
@[simp] theorem setCtx_regions (s : State) (c : Nat) (x : Context) : (s.setCtx c x).regions = s.regions := rfl
@[simp] theorem setCtx_launches (s : State) (c : Nat) (x : Context) : (s.setCtx c x).launches = s.launches := rfl
@[simp] theorem setCtx_kernels (s : State) (c : Nat) (x : Context) : (s.setCtx c x).kernels = s.kernels := rfl
@[simp] theorem setCtx_staging (s : State) (c : Nat) (x : Context) : (s.setCtx c x).staging = s.staging := rfl
@[simp] theorem setCtx_saved (s : State) (c : Nat) (x : Context) : (s.setCtx c x).saved = s.saved := rfl
@[simp] theorem setCtx_queues (s : State) (c : Nat) (x : Context) : (s.setCtx c x).queues = s.queues := rfl
@[simp] theorem setCtx_landings (s : State) (c : Nat) (x : Context) : (s.setCtx c x).landings = s.landings := rfl
@[simp] theorem setCtx_bases (s : State) (c : Nat) (x : Context) : (s.setCtx c x).bases = s.bases := rfl
@[simp] theorem setCtx_dieCache (s : State) (c : Nat) (x : Context) : (s.setCtx c x).dieCache = s.dieCache := rfl
@[simp] theorem setCtx_links (s : State) (c : Nat) (x : Context) : (s.setCtx c x).links = s.links := rfl
@[simp] theorem setCtx_dram (s : State) (c : Nat) (x : Context) : (s.setCtx c x).dram = s.dram := rfl
@[simp] theorem setCtx_tags (s : State) (c : Nat) (x : Context) : (s.setCtx c x).tags = s.tags := rfl
@[simp] theorem setCtx_decayed (s : State) (c : Nat) (x : Context) : (s.setCtx c x).decayed = s.decayed := rfl
@[simp] theorem setCtx_poison (s : State) (c : Nat) (x : Context) : (s.setCtx c x).poison = s.poison := rfl
@[simp] theorem setCtx_scratch (s : State) (c : Nat) (x : Context) : (s.setCtx c x).scratch = s.scratch := rfl
@[simp] theorem setCtx_ecc (s : State) (c : Nat) (x : Context) : (s.setCtx c x).ecc = s.ecc := rfl
@[simp] theorem setCtx_shadow (s : State) (c : Nat) (x : Context) : (s.setCtx c x).shadow = s.shadow := rfl
@[simp] theorem setCtx_ram (s : State) (c : Nat) (x : Context) : (s.setCtx c x).ram = s.ram := rfl
@[simp] theorem setCtx_ramEcc (s : State) (c : Nat) (x : Context) : (s.setCtx c x).ramEcc = s.ramEcc := rfl
@[simp] theorem setCtx_accs (s : State) (c : Nat) (x : Context) : (s.setCtx c x).accs = s.accs := rfl
@[simp] theorem setCtx_nextAcc (s : State) (c : Nat) (x : Context) : (s.setCtx c x).nextAcc = s.nextAcc := rfl
@[simp] theorem setCtx_syncs (s : State) (c : Nat) (x : Context) : (s.setCtx c x).syncs = s.syncs := rfl
@[simp] theorem setCtx_host (s : State) (c : Nat) (x : Context) : (s.setCtx c x).host = s.host := rfl
@[simp] theorem setCtx_far (s : State) (c : Nat) (x : Context) : (s.setCtx c x).far = s.far := rfl
@[simp] theorem setCtx_dev (s : State) (c : Nat) (x : Context) : (s.setCtx c x).dev = s.dev := rfl
@[simp] theorem setCtx_tile (s : State) (c : Nat) (x : Context) (i : TileKey) : (s.setCtx c x).tile i = s.tile i := rfl
@[simp] theorem setCtx_seq (s : State) (c : Nat) (x : Context) (i : TileKey) : (s.setCtx c x).seq i = s.seq i := rfl
@[simp] theorem setCtx_port (s : State) (c : Nat) (x : Context) (i : TileKey) : (s.setCtx c x).port i = s.port i := rfl
@[simp] theorem setCtx_region (s : State) (c : Nat) (x : Context) (i : Nat) : (s.setCtx c x).region i = s.region i := rfl
@[simp] theorem setCtx_queue (s : State) (c : Nat) (x : Context) (i : Nat) : (s.setCtx c x).queue i = s.queue i := rfl
@[simp] theorem setCtx_launch (s : State) (c : Nat) (x : Context) (i : Nat) : (s.setCtx c x).launch i = s.launch i := rfl
@[simp] theorem setCtx_cmd (s : State) (c : Nat) (x : Context) (i : Nat) : (s.setCtx c x).cmd i = s.cmd i := rfl
@[simp] theorem setCtx_landing (s : State) (c : Nat) (x : Context) (i : PcKey) : (s.setCtx c x).landing i = s.landing i := rfl
@[simp] theorem setCtx_base (s : State) (c : Nat) (x : Context) (i : Nat) : (s.setCtx c x).base i = s.base i := rfl
@[simp] theorem setCtx_slot (s : State) (c : Nat) (x : Context) (i : TileKey) (j : Nat) : (s.setCtx c x).slot i j = s.slot i j := rfl

/-! ### `setQueue` -/

@[simp] theorem setQueue_agenda (s : State) (q : Nat) (x : Queue) : (s.setQueue q x).agenda = s.agenda := rfl
@[simp] theorem setQueue_focus (s : State) (q : Nat) (x : Queue) : (s.setQueue q x).focus = s.focus := rfl
@[simp] theorem setQueue_fresh (s : State) (q : Nat) (x : Queue) : (s.setQueue q x).fresh = s.fresh := rfl
@[simp] theorem setQueue_uet (s : State) (q : Nat) (x : Queue) : (s.setQueue q x).uet = s.uet := rfl
@[simp] theorem setQueue_tiles (s : State) (q : Nat) (x : Queue) : (s.setQueue q x).tiles = s.tiles := rfl
@[simp] theorem setQueue_seqs (s : State) (q : Nat) (x : Queue) : (s.setQueue q x).seqs = s.seqs := rfl
@[simp] theorem setQueue_ports (s : State) (q : Nat) (x : Queue) : (s.setQueue q x).ports = s.ports := rfl
@[simp] theorem setQueue_cmds (s : State) (q : Nat) (x : Queue) : (s.setQueue q x).cmds = s.cmds := rfl
@[simp] theorem setQueue_nextCmd (s : State) (q : Nat) (x : Queue) : (s.setQueue q x).nextCmd = s.nextCmd := rfl
@[simp] theorem setQueue_held (s : State) (q : Nat) (x : Queue) : (s.setQueue q x).held = s.held := rfl
@[simp] theorem setQueue_sends (s : State) (q : Nat) (x : Queue) : (s.setQueue q x).sends = s.sends := rfl
@[simp] theorem setQueue_regions (s : State) (q : Nat) (x : Queue) : (s.setQueue q x).regions = s.regions := rfl
@[simp] theorem setQueue_launches (s : State) (q : Nat) (x : Queue) : (s.setQueue q x).launches = s.launches := rfl
@[simp] theorem setQueue_kernels (s : State) (q : Nat) (x : Queue) : (s.setQueue q x).kernels = s.kernels := rfl
@[simp] theorem setQueue_staging (s : State) (q : Nat) (x : Queue) : (s.setQueue q x).staging = s.staging := rfl
@[simp] theorem setQueue_saved (s : State) (q : Nat) (x : Queue) : (s.setQueue q x).saved = s.saved := rfl
@[simp] theorem setQueue_contexts (s : State) (q : Nat) (x : Queue) : (s.setQueue q x).contexts = s.contexts := rfl
@[simp] theorem setQueue_landings (s : State) (q : Nat) (x : Queue) : (s.setQueue q x).landings = s.landings := rfl
@[simp] theorem setQueue_bases (s : State) (q : Nat) (x : Queue) : (s.setQueue q x).bases = s.bases := rfl
@[simp] theorem setQueue_dieCache (s : State) (q : Nat) (x : Queue) : (s.setQueue q x).dieCache = s.dieCache := rfl
@[simp] theorem setQueue_links (s : State) (q : Nat) (x : Queue) : (s.setQueue q x).links = s.links := rfl
@[simp] theorem setQueue_dram (s : State) (q : Nat) (x : Queue) : (s.setQueue q x).dram = s.dram := rfl
@[simp] theorem setQueue_tags (s : State) (q : Nat) (x : Queue) : (s.setQueue q x).tags = s.tags := rfl
@[simp] theorem setQueue_decayed (s : State) (q : Nat) (x : Queue) : (s.setQueue q x).decayed = s.decayed := rfl
@[simp] theorem setQueue_poison (s : State) (q : Nat) (x : Queue) : (s.setQueue q x).poison = s.poison := rfl
@[simp] theorem setQueue_scratch (s : State) (q : Nat) (x : Queue) : (s.setQueue q x).scratch = s.scratch := rfl
@[simp] theorem setQueue_ecc (s : State) (q : Nat) (x : Queue) : (s.setQueue q x).ecc = s.ecc := rfl
@[simp] theorem setQueue_shadow (s : State) (q : Nat) (x : Queue) : (s.setQueue q x).shadow = s.shadow := rfl
@[simp] theorem setQueue_ram (s : State) (q : Nat) (x : Queue) : (s.setQueue q x).ram = s.ram := rfl
@[simp] theorem setQueue_ramEcc (s : State) (q : Nat) (x : Queue) : (s.setQueue q x).ramEcc = s.ramEcc := rfl
@[simp] theorem setQueue_accs (s : State) (q : Nat) (x : Queue) : (s.setQueue q x).accs = s.accs := rfl
@[simp] theorem setQueue_nextAcc (s : State) (q : Nat) (x : Queue) : (s.setQueue q x).nextAcc = s.nextAcc := rfl
@[simp] theorem setQueue_syncs (s : State) (q : Nat) (x : Queue) : (s.setQueue q x).syncs = s.syncs := rfl
@[simp] theorem setQueue_host (s : State) (q : Nat) (x : Queue) : (s.setQueue q x).host = s.host := rfl
@[simp] theorem setQueue_far (s : State) (q : Nat) (x : Queue) : (s.setQueue q x).far = s.far := rfl
@[simp] theorem setQueue_dev (s : State) (q : Nat) (x : Queue) : (s.setQueue q x).dev = s.dev := rfl
@[simp] theorem setQueue_tile (s : State) (q : Nat) (x : Queue) (i : TileKey) : (s.setQueue q x).tile i = s.tile i := rfl
@[simp] theorem setQueue_seq (s : State) (q : Nat) (x : Queue) (i : TileKey) : (s.setQueue q x).seq i = s.seq i := rfl
@[simp] theorem setQueue_port (s : State) (q : Nat) (x : Queue) (i : TileKey) : (s.setQueue q x).port i = s.port i := rfl
@[simp] theorem setQueue_region (s : State) (q : Nat) (x : Queue) (i : Nat) : (s.setQueue q x).region i = s.region i := rfl
@[simp] theorem setQueue_ctx (s : State) (q : Nat) (x : Queue) (i : Nat) : (s.setQueue q x).ctx i = s.ctx i := rfl
@[simp] theorem setQueue_launch (s : State) (q : Nat) (x : Queue) (i : Nat) : (s.setQueue q x).launch i = s.launch i := rfl
@[simp] theorem setQueue_cmd (s : State) (q : Nat) (x : Queue) (i : Nat) : (s.setQueue q x).cmd i = s.cmd i := rfl
@[simp] theorem setQueue_landing (s : State) (q : Nat) (x : Queue) (i : PcKey) : (s.setQueue q x).landing i = s.landing i := rfl
@[simp] theorem setQueue_base (s : State) (q : Nat) (x : Queue) (i : Nat) : (s.setQueue q x).base i = s.base i := rfl
@[simp] theorem setQueue_slot (s : State) (q : Nat) (x : Queue) (i : TileKey) (j : Nat) : (s.setQueue q x).slot i j = s.slot i j := rfl

/-! ### `setLaunch` -/

@[simp] theorem setLaunch_agenda (s : State) (l : Nat) (x : Launch) : (s.setLaunch l x).agenda = s.agenda := rfl
@[simp] theorem setLaunch_focus (s : State) (l : Nat) (x : Launch) : (s.setLaunch l x).focus = s.focus := rfl
@[simp] theorem setLaunch_fresh (s : State) (l : Nat) (x : Launch) : (s.setLaunch l x).fresh = s.fresh := rfl
@[simp] theorem setLaunch_uet (s : State) (l : Nat) (x : Launch) : (s.setLaunch l x).uet = s.uet := rfl
@[simp] theorem setLaunch_tiles (s : State) (l : Nat) (x : Launch) : (s.setLaunch l x).tiles = s.tiles := rfl
@[simp] theorem setLaunch_seqs (s : State) (l : Nat) (x : Launch) : (s.setLaunch l x).seqs = s.seqs := rfl
@[simp] theorem setLaunch_ports (s : State) (l : Nat) (x : Launch) : (s.setLaunch l x).ports = s.ports := rfl
@[simp] theorem setLaunch_cmds (s : State) (l : Nat) (x : Launch) : (s.setLaunch l x).cmds = s.cmds := rfl
@[simp] theorem setLaunch_nextCmd (s : State) (l : Nat) (x : Launch) : (s.setLaunch l x).nextCmd = s.nextCmd := rfl
@[simp] theorem setLaunch_held (s : State) (l : Nat) (x : Launch) : (s.setLaunch l x).held = s.held := rfl
@[simp] theorem setLaunch_sends (s : State) (l : Nat) (x : Launch) : (s.setLaunch l x).sends = s.sends := rfl
@[simp] theorem setLaunch_regions (s : State) (l : Nat) (x : Launch) : (s.setLaunch l x).regions = s.regions := rfl
@[simp] theorem setLaunch_kernels (s : State) (l : Nat) (x : Launch) : (s.setLaunch l x).kernels = s.kernels := rfl
@[simp] theorem setLaunch_staging (s : State) (l : Nat) (x : Launch) : (s.setLaunch l x).staging = s.staging := rfl
@[simp] theorem setLaunch_saved (s : State) (l : Nat) (x : Launch) : (s.setLaunch l x).saved = s.saved := rfl
@[simp] theorem setLaunch_queues (s : State) (l : Nat) (x : Launch) : (s.setLaunch l x).queues = s.queues := rfl
@[simp] theorem setLaunch_contexts (s : State) (l : Nat) (x : Launch) : (s.setLaunch l x).contexts = s.contexts := rfl
@[simp] theorem setLaunch_landings (s : State) (l : Nat) (x : Launch) : (s.setLaunch l x).landings = s.landings := rfl
@[simp] theorem setLaunch_bases (s : State) (l : Nat) (x : Launch) : (s.setLaunch l x).bases = s.bases := rfl
@[simp] theorem setLaunch_dieCache (s : State) (l : Nat) (x : Launch) : (s.setLaunch l x).dieCache = s.dieCache := rfl
@[simp] theorem setLaunch_links (s : State) (l : Nat) (x : Launch) : (s.setLaunch l x).links = s.links := rfl
@[simp] theorem setLaunch_dram (s : State) (l : Nat) (x : Launch) : (s.setLaunch l x).dram = s.dram := rfl
@[simp] theorem setLaunch_tags (s : State) (l : Nat) (x : Launch) : (s.setLaunch l x).tags = s.tags := rfl
@[simp] theorem setLaunch_decayed (s : State) (l : Nat) (x : Launch) : (s.setLaunch l x).decayed = s.decayed := rfl
@[simp] theorem setLaunch_poison (s : State) (l : Nat) (x : Launch) : (s.setLaunch l x).poison = s.poison := rfl
@[simp] theorem setLaunch_scratch (s : State) (l : Nat) (x : Launch) : (s.setLaunch l x).scratch = s.scratch := rfl
@[simp] theorem setLaunch_ecc (s : State) (l : Nat) (x : Launch) : (s.setLaunch l x).ecc = s.ecc := rfl
@[simp] theorem setLaunch_shadow (s : State) (l : Nat) (x : Launch) : (s.setLaunch l x).shadow = s.shadow := rfl
@[simp] theorem setLaunch_ram (s : State) (l : Nat) (x : Launch) : (s.setLaunch l x).ram = s.ram := rfl
@[simp] theorem setLaunch_ramEcc (s : State) (l : Nat) (x : Launch) : (s.setLaunch l x).ramEcc = s.ramEcc := rfl
@[simp] theorem setLaunch_accs (s : State) (l : Nat) (x : Launch) : (s.setLaunch l x).accs = s.accs := rfl
@[simp] theorem setLaunch_nextAcc (s : State) (l : Nat) (x : Launch) : (s.setLaunch l x).nextAcc = s.nextAcc := rfl
@[simp] theorem setLaunch_syncs (s : State) (l : Nat) (x : Launch) : (s.setLaunch l x).syncs = s.syncs := rfl
@[simp] theorem setLaunch_host (s : State) (l : Nat) (x : Launch) : (s.setLaunch l x).host = s.host := rfl
@[simp] theorem setLaunch_far (s : State) (l : Nat) (x : Launch) : (s.setLaunch l x).far = s.far := rfl
@[simp] theorem setLaunch_dev (s : State) (l : Nat) (x : Launch) : (s.setLaunch l x).dev = s.dev := rfl
@[simp] theorem setLaunch_tile (s : State) (l : Nat) (x : Launch) (i : TileKey) : (s.setLaunch l x).tile i = s.tile i := rfl
@[simp] theorem setLaunch_seq (s : State) (l : Nat) (x : Launch) (i : TileKey) : (s.setLaunch l x).seq i = s.seq i := rfl
@[simp] theorem setLaunch_port (s : State) (l : Nat) (x : Launch) (i : TileKey) : (s.setLaunch l x).port i = s.port i := rfl
@[simp] theorem setLaunch_region (s : State) (l : Nat) (x : Launch) (i : Nat) : (s.setLaunch l x).region i = s.region i := rfl
@[simp] theorem setLaunch_ctx (s : State) (l : Nat) (x : Launch) (i : Nat) : (s.setLaunch l x).ctx i = s.ctx i := rfl
@[simp] theorem setLaunch_queue (s : State) (l : Nat) (x : Launch) (i : Nat) : (s.setLaunch l x).queue i = s.queue i := rfl
@[simp] theorem setLaunch_cmd (s : State) (l : Nat) (x : Launch) (i : Nat) : (s.setLaunch l x).cmd i = s.cmd i := rfl
@[simp] theorem setLaunch_landing (s : State) (l : Nat) (x : Launch) (i : PcKey) : (s.setLaunch l x).landing i = s.landing i := rfl
@[simp] theorem setLaunch_base (s : State) (l : Nat) (x : Launch) (i : Nat) : (s.setLaunch l x).base i = s.base i := rfl
@[simp] theorem setLaunch_slot (s : State) (l : Nat) (x : Launch) (i : TileKey) (j : Nat) : (s.setLaunch l x).slot i j = s.slot i j := rfl

/-! ### `setCmd` -/

@[simp] theorem setCmd_agenda (s : State) (c : Nat) (x : Cmd) : (s.setCmd c x).agenda = s.agenda := rfl
@[simp] theorem setCmd_focus (s : State) (c : Nat) (x : Cmd) : (s.setCmd c x).focus = s.focus := rfl
@[simp] theorem setCmd_fresh (s : State) (c : Nat) (x : Cmd) : (s.setCmd c x).fresh = s.fresh := rfl
@[simp] theorem setCmd_uet (s : State) (c : Nat) (x : Cmd) : (s.setCmd c x).uet = s.uet := rfl
@[simp] theorem setCmd_tiles (s : State) (c : Nat) (x : Cmd) : (s.setCmd c x).tiles = s.tiles := rfl
@[simp] theorem setCmd_seqs (s : State) (c : Nat) (x : Cmd) : (s.setCmd c x).seqs = s.seqs := rfl
@[simp] theorem setCmd_ports (s : State) (c : Nat) (x : Cmd) : (s.setCmd c x).ports = s.ports := rfl
@[simp] theorem setCmd_nextCmd (s : State) (c : Nat) (x : Cmd) : (s.setCmd c x).nextCmd = s.nextCmd := rfl
@[simp] theorem setCmd_held (s : State) (c : Nat) (x : Cmd) : (s.setCmd c x).held = s.held := rfl
@[simp] theorem setCmd_sends (s : State) (c : Nat) (x : Cmd) : (s.setCmd c x).sends = s.sends := rfl
@[simp] theorem setCmd_regions (s : State) (c : Nat) (x : Cmd) : (s.setCmd c x).regions = s.regions := rfl
@[simp] theorem setCmd_launches (s : State) (c : Nat) (x : Cmd) : (s.setCmd c x).launches = s.launches := rfl
@[simp] theorem setCmd_kernels (s : State) (c : Nat) (x : Cmd) : (s.setCmd c x).kernels = s.kernels := rfl
@[simp] theorem setCmd_staging (s : State) (c : Nat) (x : Cmd) : (s.setCmd c x).staging = s.staging := rfl
@[simp] theorem setCmd_saved (s : State) (c : Nat) (x : Cmd) : (s.setCmd c x).saved = s.saved := rfl
@[simp] theorem setCmd_queues (s : State) (c : Nat) (x : Cmd) : (s.setCmd c x).queues = s.queues := rfl
@[simp] theorem setCmd_contexts (s : State) (c : Nat) (x : Cmd) : (s.setCmd c x).contexts = s.contexts := rfl
@[simp] theorem setCmd_landings (s : State) (c : Nat) (x : Cmd) : (s.setCmd c x).landings = s.landings := rfl
@[simp] theorem setCmd_bases (s : State) (c : Nat) (x : Cmd) : (s.setCmd c x).bases = s.bases := rfl
@[simp] theorem setCmd_dieCache (s : State) (c : Nat) (x : Cmd) : (s.setCmd c x).dieCache = s.dieCache := rfl
@[simp] theorem setCmd_links (s : State) (c : Nat) (x : Cmd) : (s.setCmd c x).links = s.links := rfl
@[simp] theorem setCmd_dram (s : State) (c : Nat) (x : Cmd) : (s.setCmd c x).dram = s.dram := rfl
@[simp] theorem setCmd_tags (s : State) (c : Nat) (x : Cmd) : (s.setCmd c x).tags = s.tags := rfl
@[simp] theorem setCmd_decayed (s : State) (c : Nat) (x : Cmd) : (s.setCmd c x).decayed = s.decayed := rfl
@[simp] theorem setCmd_poison (s : State) (c : Nat) (x : Cmd) : (s.setCmd c x).poison = s.poison := rfl
@[simp] theorem setCmd_scratch (s : State) (c : Nat) (x : Cmd) : (s.setCmd c x).scratch = s.scratch := rfl
@[simp] theorem setCmd_ecc (s : State) (c : Nat) (x : Cmd) : (s.setCmd c x).ecc = s.ecc := rfl
@[simp] theorem setCmd_shadow (s : State) (c : Nat) (x : Cmd) : (s.setCmd c x).shadow = s.shadow := rfl
@[simp] theorem setCmd_ram (s : State) (c : Nat) (x : Cmd) : (s.setCmd c x).ram = s.ram := rfl
@[simp] theorem setCmd_ramEcc (s : State) (c : Nat) (x : Cmd) : (s.setCmd c x).ramEcc = s.ramEcc := rfl
@[simp] theorem setCmd_accs (s : State) (c : Nat) (x : Cmd) : (s.setCmd c x).accs = s.accs := rfl
@[simp] theorem setCmd_nextAcc (s : State) (c : Nat) (x : Cmd) : (s.setCmd c x).nextAcc = s.nextAcc := rfl
@[simp] theorem setCmd_syncs (s : State) (c : Nat) (x : Cmd) : (s.setCmd c x).syncs = s.syncs := rfl
@[simp] theorem setCmd_host (s : State) (c : Nat) (x : Cmd) : (s.setCmd c x).host = s.host := rfl
@[simp] theorem setCmd_far (s : State) (c : Nat) (x : Cmd) : (s.setCmd c x).far = s.far := rfl
@[simp] theorem setCmd_dev (s : State) (c : Nat) (x : Cmd) : (s.setCmd c x).dev = s.dev := rfl
@[simp] theorem setCmd_tile (s : State) (c : Nat) (x : Cmd) (i : TileKey) : (s.setCmd c x).tile i = s.tile i := rfl
@[simp] theorem setCmd_seq (s : State) (c : Nat) (x : Cmd) (i : TileKey) : (s.setCmd c x).seq i = s.seq i := rfl
@[simp] theorem setCmd_port (s : State) (c : Nat) (x : Cmd) (i : TileKey) : (s.setCmd c x).port i = s.port i := rfl
@[simp] theorem setCmd_region (s : State) (c : Nat) (x : Cmd) (i : Nat) : (s.setCmd c x).region i = s.region i := rfl
@[simp] theorem setCmd_ctx (s : State) (c : Nat) (x : Cmd) (i : Nat) : (s.setCmd c x).ctx i = s.ctx i := rfl
@[simp] theorem setCmd_queue (s : State) (c : Nat) (x : Cmd) (i : Nat) : (s.setCmd c x).queue i = s.queue i := rfl
@[simp] theorem setCmd_launch (s : State) (c : Nat) (x : Cmd) (i : Nat) : (s.setCmd c x).launch i = s.launch i := rfl
@[simp] theorem setCmd_landing (s : State) (c : Nat) (x : Cmd) (i : PcKey) : (s.setCmd c x).landing i = s.landing i := rfl
@[simp] theorem setCmd_base (s : State) (c : Nat) (x : Cmd) (i : Nat) : (s.setCmd c x).base i = s.base i := rfl
@[simp] theorem setCmd_slot (s : State) (c : Nat) (x : Cmd) (i : TileKey) (j : Nat) : (s.setCmd c x).slot i j = s.slot i j := rfl

/-! ### `setLanding` -/

@[simp] theorem setLanding_agenda (s : State) (p : PcKey) (x : Landing) : (s.setLanding p x).agenda = s.agenda := rfl
@[simp] theorem setLanding_focus (s : State) (p : PcKey) (x : Landing) : (s.setLanding p x).focus = s.focus := rfl
@[simp] theorem setLanding_fresh (s : State) (p : PcKey) (x : Landing) : (s.setLanding p x).fresh = s.fresh := rfl
@[simp] theorem setLanding_uet (s : State) (p : PcKey) (x : Landing) : (s.setLanding p x).uet = s.uet := rfl
@[simp] theorem setLanding_tiles (s : State) (p : PcKey) (x : Landing) : (s.setLanding p x).tiles = s.tiles := rfl
@[simp] theorem setLanding_seqs (s : State) (p : PcKey) (x : Landing) : (s.setLanding p x).seqs = s.seqs := rfl
@[simp] theorem setLanding_ports (s : State) (p : PcKey) (x : Landing) : (s.setLanding p x).ports = s.ports := rfl
@[simp] theorem setLanding_cmds (s : State) (p : PcKey) (x : Landing) : (s.setLanding p x).cmds = s.cmds := rfl
@[simp] theorem setLanding_nextCmd (s : State) (p : PcKey) (x : Landing) : (s.setLanding p x).nextCmd = s.nextCmd := rfl
@[simp] theorem setLanding_held (s : State) (p : PcKey) (x : Landing) : (s.setLanding p x).held = s.held := rfl
@[simp] theorem setLanding_sends (s : State) (p : PcKey) (x : Landing) : (s.setLanding p x).sends = s.sends := rfl
@[simp] theorem setLanding_regions (s : State) (p : PcKey) (x : Landing) : (s.setLanding p x).regions = s.regions := rfl
@[simp] theorem setLanding_launches (s : State) (p : PcKey) (x : Landing) : (s.setLanding p x).launches = s.launches := rfl
@[simp] theorem setLanding_kernels (s : State) (p : PcKey) (x : Landing) : (s.setLanding p x).kernels = s.kernels := rfl
@[simp] theorem setLanding_staging (s : State) (p : PcKey) (x : Landing) : (s.setLanding p x).staging = s.staging := rfl
@[simp] theorem setLanding_saved (s : State) (p : PcKey) (x : Landing) : (s.setLanding p x).saved = s.saved := rfl
@[simp] theorem setLanding_queues (s : State) (p : PcKey) (x : Landing) : (s.setLanding p x).queues = s.queues := rfl
@[simp] theorem setLanding_contexts (s : State) (p : PcKey) (x : Landing) : (s.setLanding p x).contexts = s.contexts := rfl
@[simp] theorem setLanding_bases (s : State) (p : PcKey) (x : Landing) : (s.setLanding p x).bases = s.bases := rfl
@[simp] theorem setLanding_dieCache (s : State) (p : PcKey) (x : Landing) : (s.setLanding p x).dieCache = s.dieCache := rfl
@[simp] theorem setLanding_links (s : State) (p : PcKey) (x : Landing) : (s.setLanding p x).links = s.links := rfl
@[simp] theorem setLanding_dram (s : State) (p : PcKey) (x : Landing) : (s.setLanding p x).dram = s.dram := rfl
@[simp] theorem setLanding_tags (s : State) (p : PcKey) (x : Landing) : (s.setLanding p x).tags = s.tags := rfl
@[simp] theorem setLanding_decayed (s : State) (p : PcKey) (x : Landing) : (s.setLanding p x).decayed = s.decayed := rfl
@[simp] theorem setLanding_poison (s : State) (p : PcKey) (x : Landing) : (s.setLanding p x).poison = s.poison := rfl
@[simp] theorem setLanding_scratch (s : State) (p : PcKey) (x : Landing) : (s.setLanding p x).scratch = s.scratch := rfl
@[simp] theorem setLanding_ecc (s : State) (p : PcKey) (x : Landing) : (s.setLanding p x).ecc = s.ecc := rfl
@[simp] theorem setLanding_shadow (s : State) (p : PcKey) (x : Landing) : (s.setLanding p x).shadow = s.shadow := rfl
@[simp] theorem setLanding_ram (s : State) (p : PcKey) (x : Landing) : (s.setLanding p x).ram = s.ram := rfl
@[simp] theorem setLanding_ramEcc (s : State) (p : PcKey) (x : Landing) : (s.setLanding p x).ramEcc = s.ramEcc := rfl
@[simp] theorem setLanding_accs (s : State) (p : PcKey) (x : Landing) : (s.setLanding p x).accs = s.accs := rfl
@[simp] theorem setLanding_nextAcc (s : State) (p : PcKey) (x : Landing) : (s.setLanding p x).nextAcc = s.nextAcc := rfl
@[simp] theorem setLanding_syncs (s : State) (p : PcKey) (x : Landing) : (s.setLanding p x).syncs = s.syncs := rfl
@[simp] theorem setLanding_host (s : State) (p : PcKey) (x : Landing) : (s.setLanding p x).host = s.host := rfl
@[simp] theorem setLanding_far (s : State) (p : PcKey) (x : Landing) : (s.setLanding p x).far = s.far := rfl
@[simp] theorem setLanding_dev (s : State) (p : PcKey) (x : Landing) : (s.setLanding p x).dev = s.dev := rfl
@[simp] theorem setLanding_tile (s : State) (p : PcKey) (x : Landing) (i : TileKey) : (s.setLanding p x).tile i = s.tile i := rfl
@[simp] theorem setLanding_seq (s : State) (p : PcKey) (x : Landing) (i : TileKey) : (s.setLanding p x).seq i = s.seq i := rfl
@[simp] theorem setLanding_port (s : State) (p : PcKey) (x : Landing) (i : TileKey) : (s.setLanding p x).port i = s.port i := rfl
@[simp] theorem setLanding_region (s : State) (p : PcKey) (x : Landing) (i : Nat) : (s.setLanding p x).region i = s.region i := rfl
@[simp] theorem setLanding_ctx (s : State) (p : PcKey) (x : Landing) (i : Nat) : (s.setLanding p x).ctx i = s.ctx i := rfl
@[simp] theorem setLanding_queue (s : State) (p : PcKey) (x : Landing) (i : Nat) : (s.setLanding p x).queue i = s.queue i := rfl
@[simp] theorem setLanding_launch (s : State) (p : PcKey) (x : Landing) (i : Nat) : (s.setLanding p x).launch i = s.launch i := rfl
@[simp] theorem setLanding_cmd (s : State) (p : PcKey) (x : Landing) (i : Nat) : (s.setLanding p x).cmd i = s.cmd i := rfl
@[simp] theorem setLanding_base (s : State) (p : PcKey) (x : Landing) (i : Nat) : (s.setLanding p x).base i = s.base i := rfl
@[simp] theorem setLanding_slot (s : State) (p : PcKey) (x : Landing) (i : TileKey) (j : Nat) : (s.setLanding p x).slot i j = s.slot i j := rfl

/-! ### `setBase` -/

@[simp] theorem setBase_agenda (s : State) (n : Nat) (x : Stack) : (s.setBase n x).agenda = s.agenda := rfl
@[simp] theorem setBase_focus (s : State) (n : Nat) (x : Stack) : (s.setBase n x).focus = s.focus := rfl
@[simp] theorem setBase_fresh (s : State) (n : Nat) (x : Stack) : (s.setBase n x).fresh = s.fresh := rfl
@[simp] theorem setBase_uet (s : State) (n : Nat) (x : Stack) : (s.setBase n x).uet = s.uet := rfl
@[simp] theorem setBase_tiles (s : State) (n : Nat) (x : Stack) : (s.setBase n x).tiles = s.tiles := rfl
@[simp] theorem setBase_seqs (s : State) (n : Nat) (x : Stack) : (s.setBase n x).seqs = s.seqs := rfl
@[simp] theorem setBase_ports (s : State) (n : Nat) (x : Stack) : (s.setBase n x).ports = s.ports := rfl
@[simp] theorem setBase_cmds (s : State) (n : Nat) (x : Stack) : (s.setBase n x).cmds = s.cmds := rfl
@[simp] theorem setBase_nextCmd (s : State) (n : Nat) (x : Stack) : (s.setBase n x).nextCmd = s.nextCmd := rfl
@[simp] theorem setBase_held (s : State) (n : Nat) (x : Stack) : (s.setBase n x).held = s.held := rfl
@[simp] theorem setBase_sends (s : State) (n : Nat) (x : Stack) : (s.setBase n x).sends = s.sends := rfl
@[simp] theorem setBase_regions (s : State) (n : Nat) (x : Stack) : (s.setBase n x).regions = s.regions := rfl
@[simp] theorem setBase_launches (s : State) (n : Nat) (x : Stack) : (s.setBase n x).launches = s.launches := rfl
@[simp] theorem setBase_kernels (s : State) (n : Nat) (x : Stack) : (s.setBase n x).kernels = s.kernels := rfl
@[simp] theorem setBase_staging (s : State) (n : Nat) (x : Stack) : (s.setBase n x).staging = s.staging := rfl
@[simp] theorem setBase_saved (s : State) (n : Nat) (x : Stack) : (s.setBase n x).saved = s.saved := rfl
@[simp] theorem setBase_queues (s : State) (n : Nat) (x : Stack) : (s.setBase n x).queues = s.queues := rfl
@[simp] theorem setBase_contexts (s : State) (n : Nat) (x : Stack) : (s.setBase n x).contexts = s.contexts := rfl
@[simp] theorem setBase_landings (s : State) (n : Nat) (x : Stack) : (s.setBase n x).landings = s.landings := rfl
@[simp] theorem setBase_dieCache (s : State) (n : Nat) (x : Stack) : (s.setBase n x).dieCache = s.dieCache := rfl
@[simp] theorem setBase_links (s : State) (n : Nat) (x : Stack) : (s.setBase n x).links = s.links := rfl
@[simp] theorem setBase_dram (s : State) (n : Nat) (x : Stack) : (s.setBase n x).dram = s.dram := rfl
@[simp] theorem setBase_tags (s : State) (n : Nat) (x : Stack) : (s.setBase n x).tags = s.tags := rfl
@[simp] theorem setBase_decayed (s : State) (n : Nat) (x : Stack) : (s.setBase n x).decayed = s.decayed := rfl
@[simp] theorem setBase_poison (s : State) (n : Nat) (x : Stack) : (s.setBase n x).poison = s.poison := rfl
@[simp] theorem setBase_scratch (s : State) (n : Nat) (x : Stack) : (s.setBase n x).scratch = s.scratch := rfl
@[simp] theorem setBase_ecc (s : State) (n : Nat) (x : Stack) : (s.setBase n x).ecc = s.ecc := rfl
@[simp] theorem setBase_shadow (s : State) (n : Nat) (x : Stack) : (s.setBase n x).shadow = s.shadow := rfl
@[simp] theorem setBase_ram (s : State) (n : Nat) (x : Stack) : (s.setBase n x).ram = s.ram := rfl
@[simp] theorem setBase_ramEcc (s : State) (n : Nat) (x : Stack) : (s.setBase n x).ramEcc = s.ramEcc := rfl
@[simp] theorem setBase_accs (s : State) (n : Nat) (x : Stack) : (s.setBase n x).accs = s.accs := rfl
@[simp] theorem setBase_nextAcc (s : State) (n : Nat) (x : Stack) : (s.setBase n x).nextAcc = s.nextAcc := rfl
@[simp] theorem setBase_syncs (s : State) (n : Nat) (x : Stack) : (s.setBase n x).syncs = s.syncs := rfl
@[simp] theorem setBase_host (s : State) (n : Nat) (x : Stack) : (s.setBase n x).host = s.host := rfl
@[simp] theorem setBase_far (s : State) (n : Nat) (x : Stack) : (s.setBase n x).far = s.far := rfl
@[simp] theorem setBase_dev (s : State) (n : Nat) (x : Stack) : (s.setBase n x).dev = s.dev := rfl
@[simp] theorem setBase_tile (s : State) (n : Nat) (x : Stack) (i : TileKey) : (s.setBase n x).tile i = s.tile i := rfl
@[simp] theorem setBase_seq (s : State) (n : Nat) (x : Stack) (i : TileKey) : (s.setBase n x).seq i = s.seq i := rfl
@[simp] theorem setBase_port (s : State) (n : Nat) (x : Stack) (i : TileKey) : (s.setBase n x).port i = s.port i := rfl
@[simp] theorem setBase_region (s : State) (n : Nat) (x : Stack) (i : Nat) : (s.setBase n x).region i = s.region i := rfl
@[simp] theorem setBase_ctx (s : State) (n : Nat) (x : Stack) (i : Nat) : (s.setBase n x).ctx i = s.ctx i := rfl
@[simp] theorem setBase_queue (s : State) (n : Nat) (x : Stack) (i : Nat) : (s.setBase n x).queue i = s.queue i := rfl
@[simp] theorem setBase_launch (s : State) (n : Nat) (x : Stack) (i : Nat) : (s.setBase n x).launch i = s.launch i := rfl
@[simp] theorem setBase_cmd (s : State) (n : Nat) (x : Stack) (i : Nat) : (s.setBase n x).cmd i = s.cmd i := rfl
@[simp] theorem setBase_landing (s : State) (n : Nat) (x : Stack) (i : PcKey) : (s.setBase n x).landing i = s.landing i := rfl
@[simp] theorem setBase_slot (s : State) (n : Nat) (x : Stack) (i : TileKey) (j : Nat) : (s.setBase n x).slot i j = s.slot i j := rfl

/-! ### `setDev` -/

@[simp] theorem setDev_agenda (s : State) (d : Device) : (s.setDev d).agenda = s.agenda := rfl
@[simp] theorem setDev_focus (s : State) (d : Device) : (s.setDev d).focus = s.focus := rfl
@[simp] theorem setDev_fresh (s : State) (d : Device) : (s.setDev d).fresh = s.fresh := rfl
@[simp] theorem setDev_uet (s : State) (d : Device) : (s.setDev d).uet = s.uet := rfl
@[simp] theorem setDev_tiles (s : State) (d : Device) : (s.setDev d).tiles = s.tiles := rfl
@[simp] theorem setDev_seqs (s : State) (d : Device) : (s.setDev d).seqs = s.seqs := rfl
@[simp] theorem setDev_ports (s : State) (d : Device) : (s.setDev d).ports = s.ports := rfl
@[simp] theorem setDev_cmds (s : State) (d : Device) : (s.setDev d).cmds = s.cmds := rfl
@[simp] theorem setDev_nextCmd (s : State) (d : Device) : (s.setDev d).nextCmd = s.nextCmd := rfl
@[simp] theorem setDev_held (s : State) (d : Device) : (s.setDev d).held = s.held := rfl
@[simp] theorem setDev_sends (s : State) (d : Device) : (s.setDev d).sends = s.sends := rfl
@[simp] theorem setDev_regions (s : State) (d : Device) : (s.setDev d).regions = s.regions := rfl
@[simp] theorem setDev_launches (s : State) (d : Device) : (s.setDev d).launches = s.launches := rfl
@[simp] theorem setDev_kernels (s : State) (d : Device) : (s.setDev d).kernels = s.kernels := rfl
@[simp] theorem setDev_staging (s : State) (d : Device) : (s.setDev d).staging = s.staging := rfl
@[simp] theorem setDev_saved (s : State) (d : Device) : (s.setDev d).saved = s.saved := rfl
@[simp] theorem setDev_queues (s : State) (d : Device) : (s.setDev d).queues = s.queues := rfl
@[simp] theorem setDev_contexts (s : State) (d : Device) : (s.setDev d).contexts = s.contexts := rfl
@[simp] theorem setDev_landings (s : State) (d : Device) : (s.setDev d).landings = s.landings := rfl
@[simp] theorem setDev_bases (s : State) (d : Device) : (s.setDev d).bases = s.bases := rfl
@[simp] theorem setDev_dieCache (s : State) (d : Device) : (s.setDev d).dieCache = s.dieCache := rfl
@[simp] theorem setDev_links (s : State) (d : Device) : (s.setDev d).links = s.links := rfl
@[simp] theorem setDev_dram (s : State) (d : Device) : (s.setDev d).dram = s.dram := rfl
@[simp] theorem setDev_tags (s : State) (d : Device) : (s.setDev d).tags = s.tags := rfl
@[simp] theorem setDev_decayed (s : State) (d : Device) : (s.setDev d).decayed = s.decayed := rfl
@[simp] theorem setDev_poison (s : State) (d : Device) : (s.setDev d).poison = s.poison := rfl
@[simp] theorem setDev_scratch (s : State) (d : Device) : (s.setDev d).scratch = s.scratch := rfl
@[simp] theorem setDev_ecc (s : State) (d : Device) : (s.setDev d).ecc = s.ecc := rfl
@[simp] theorem setDev_shadow (s : State) (d : Device) : (s.setDev d).shadow = s.shadow := rfl
@[simp] theorem setDev_ram (s : State) (d : Device) : (s.setDev d).ram = s.ram := rfl
@[simp] theorem setDev_ramEcc (s : State) (d : Device) : (s.setDev d).ramEcc = s.ramEcc := rfl
@[simp] theorem setDev_accs (s : State) (d : Device) : (s.setDev d).accs = s.accs := rfl
@[simp] theorem setDev_nextAcc (s : State) (d : Device) : (s.setDev d).nextAcc = s.nextAcc := rfl
@[simp] theorem setDev_syncs (s : State) (d : Device) : (s.setDev d).syncs = s.syncs := rfl
@[simp] theorem setDev_host (s : State) (d : Device) : (s.setDev d).host = s.host := rfl
@[simp] theorem setDev_far (s : State) (d : Device) : (s.setDev d).far = s.far := rfl
@[simp] theorem setDev_tile (s : State) (d : Device) (i : TileKey) : (s.setDev d).tile i = s.tile i := rfl
@[simp] theorem setDev_seq (s : State) (d : Device) (i : TileKey) : (s.setDev d).seq i = s.seq i := rfl
@[simp] theorem setDev_port (s : State) (d : Device) (i : TileKey) : (s.setDev d).port i = s.port i := rfl
@[simp] theorem setDev_region (s : State) (d : Device) (i : Nat) : (s.setDev d).region i = s.region i := rfl
@[simp] theorem setDev_ctx (s : State) (d : Device) (i : Nat) : (s.setDev d).ctx i = s.ctx i := rfl
@[simp] theorem setDev_queue (s : State) (d : Device) (i : Nat) : (s.setDev d).queue i = s.queue i := rfl
@[simp] theorem setDev_launch (s : State) (d : Device) (i : Nat) : (s.setDev d).launch i = s.launch i := rfl
@[simp] theorem setDev_cmd (s : State) (d : Device) (i : Nat) : (s.setDev d).cmd i = s.cmd i := rfl
@[simp] theorem setDev_landing (s : State) (d : Device) (i : PcKey) : (s.setDev d).landing i = s.landing i := rfl
@[simp] theorem setDev_base (s : State) (d : Device) (i : Nat) : (s.setDev d).base i = s.base i := rfl
@[simp] theorem setDev_slot (s : State) (d : Device) (i : TileKey) (j : Nat) : (s.setDev d).slot i j = s.slot i j := rfl

/-! ### `answer` -/

@[simp] theorem answer_agenda (s : State) (a : Answer) : (s.answer a).agenda = s.agenda := rfl
@[simp] theorem answer_focus (s : State) (a : Answer) : (s.answer a).focus = s.focus := rfl
@[simp] theorem answer_fresh (s : State) (a : Answer) : (s.answer a).fresh = s.fresh := rfl
@[simp] theorem answer_tiles (s : State) (a : Answer) : (s.answer a).tiles = s.tiles := rfl
@[simp] theorem answer_seqs (s : State) (a : Answer) : (s.answer a).seqs = s.seqs := rfl
@[simp] theorem answer_ports (s : State) (a : Answer) : (s.answer a).ports = s.ports := rfl
@[simp] theorem answer_cmds (s : State) (a : Answer) : (s.answer a).cmds = s.cmds := rfl
@[simp] theorem answer_nextCmd (s : State) (a : Answer) : (s.answer a).nextCmd = s.nextCmd := rfl
@[simp] theorem answer_held (s : State) (a : Answer) : (s.answer a).held = s.held := rfl
@[simp] theorem answer_sends (s : State) (a : Answer) : (s.answer a).sends = s.sends := rfl
@[simp] theorem answer_regions (s : State) (a : Answer) : (s.answer a).regions = s.regions := rfl
@[simp] theorem answer_launches (s : State) (a : Answer) : (s.answer a).launches = s.launches := rfl
@[simp] theorem answer_kernels (s : State) (a : Answer) : (s.answer a).kernels = s.kernels := rfl
@[simp] theorem answer_staging (s : State) (a : Answer) : (s.answer a).staging = s.staging := rfl
@[simp] theorem answer_saved (s : State) (a : Answer) : (s.answer a).saved = s.saved := rfl
@[simp] theorem answer_queues (s : State) (a : Answer) : (s.answer a).queues = s.queues := rfl
@[simp] theorem answer_contexts (s : State) (a : Answer) : (s.answer a).contexts = s.contexts := rfl
@[simp] theorem answer_landings (s : State) (a : Answer) : (s.answer a).landings = s.landings := rfl
@[simp] theorem answer_bases (s : State) (a : Answer) : (s.answer a).bases = s.bases := rfl
@[simp] theorem answer_dieCache (s : State) (a : Answer) : (s.answer a).dieCache = s.dieCache := rfl
@[simp] theorem answer_links (s : State) (a : Answer) : (s.answer a).links = s.links := rfl
@[simp] theorem answer_dram (s : State) (a : Answer) : (s.answer a).dram = s.dram := rfl
@[simp] theorem answer_tags (s : State) (a : Answer) : (s.answer a).tags = s.tags := rfl
@[simp] theorem answer_decayed (s : State) (a : Answer) : (s.answer a).decayed = s.decayed := rfl
@[simp] theorem answer_poison (s : State) (a : Answer) : (s.answer a).poison = s.poison := rfl
@[simp] theorem answer_scratch (s : State) (a : Answer) : (s.answer a).scratch = s.scratch := rfl
@[simp] theorem answer_ecc (s : State) (a : Answer) : (s.answer a).ecc = s.ecc := rfl
@[simp] theorem answer_shadow (s : State) (a : Answer) : (s.answer a).shadow = s.shadow := rfl
@[simp] theorem answer_ram (s : State) (a : Answer) : (s.answer a).ram = s.ram := rfl
@[simp] theorem answer_ramEcc (s : State) (a : Answer) : (s.answer a).ramEcc = s.ramEcc := rfl
@[simp] theorem answer_accs (s : State) (a : Answer) : (s.answer a).accs = s.accs := rfl
@[simp] theorem answer_nextAcc (s : State) (a : Answer) : (s.answer a).nextAcc = s.nextAcc := rfl
@[simp] theorem answer_syncs (s : State) (a : Answer) : (s.answer a).syncs = s.syncs := rfl
@[simp] theorem answer_host (s : State) (a : Answer) : (s.answer a).host = s.host := rfl
@[simp] theorem answer_far (s : State) (a : Answer) : (s.answer a).far = s.far := rfl
@[simp] theorem answer_dev (s : State) (a : Answer) : (s.answer a).dev = s.dev := rfl
@[simp] theorem answer_tile (s : State) (a : Answer) (i : TileKey) : (s.answer a).tile i = s.tile i := rfl
@[simp] theorem answer_seq (s : State) (a : Answer) (i : TileKey) : (s.answer a).seq i = s.seq i := rfl
@[simp] theorem answer_port (s : State) (a : Answer) (i : TileKey) : (s.answer a).port i = s.port i := rfl
@[simp] theorem answer_region (s : State) (a : Answer) (i : Nat) : (s.answer a).region i = s.region i := rfl
@[simp] theorem answer_ctx (s : State) (a : Answer) (i : Nat) : (s.answer a).ctx i = s.ctx i := rfl
@[simp] theorem answer_queue (s : State) (a : Answer) (i : Nat) : (s.answer a).queue i = s.queue i := rfl
@[simp] theorem answer_launch (s : State) (a : Answer) (i : Nat) : (s.answer a).launch i = s.launch i := rfl
@[simp] theorem answer_cmd (s : State) (a : Answer) (i : Nat) : (s.answer a).cmd i = s.cmd i := rfl
@[simp] theorem answer_landing (s : State) (a : Answer) (i : PcKey) : (s.answer a).landing i = s.landing i := rfl
@[simp] theorem answer_base (s : State) (a : Answer) (i : Nat) : (s.answer a).base i = s.base i := rfl
@[simp] theorem answer_slot (s : State) (a : Answer) (i : TileKey) (j : Nat) : (s.answer a).slot i j = s.slot i j := rfl

/-! ### `bump` -/

@[simp] theorem bump_agenda (s : State) : (s.bump).agenda = s.agenda := rfl
@[simp] theorem bump_focus (s : State) : (s.bump).focus = s.focus := rfl
@[simp] theorem bump_uet (s : State) : (s.bump).uet = s.uet := rfl
@[simp] theorem bump_tiles (s : State) : (s.bump).tiles = s.tiles := rfl
@[simp] theorem bump_seqs (s : State) : (s.bump).seqs = s.seqs := rfl
@[simp] theorem bump_ports (s : State) : (s.bump).ports = s.ports := rfl
@[simp] theorem bump_cmds (s : State) : (s.bump).cmds = s.cmds := rfl
@[simp] theorem bump_nextCmd (s : State) : (s.bump).nextCmd = s.nextCmd := rfl
@[simp] theorem bump_held (s : State) : (s.bump).held = s.held := rfl
@[simp] theorem bump_sends (s : State) : (s.bump).sends = s.sends := rfl
@[simp] theorem bump_regions (s : State) : (s.bump).regions = s.regions := rfl
@[simp] theorem bump_launches (s : State) : (s.bump).launches = s.launches := rfl
@[simp] theorem bump_kernels (s : State) : (s.bump).kernels = s.kernels := rfl
@[simp] theorem bump_staging (s : State) : (s.bump).staging = s.staging := rfl
@[simp] theorem bump_saved (s : State) : (s.bump).saved = s.saved := rfl
@[simp] theorem bump_queues (s : State) : (s.bump).queues = s.queues := rfl
@[simp] theorem bump_contexts (s : State) : (s.bump).contexts = s.contexts := rfl
@[simp] theorem bump_landings (s : State) : (s.bump).landings = s.landings := rfl
@[simp] theorem bump_bases (s : State) : (s.bump).bases = s.bases := rfl
@[simp] theorem bump_dieCache (s : State) : (s.bump).dieCache = s.dieCache := rfl
@[simp] theorem bump_links (s : State) : (s.bump).links = s.links := rfl
@[simp] theorem bump_dram (s : State) : (s.bump).dram = s.dram := rfl
@[simp] theorem bump_tags (s : State) : (s.bump).tags = s.tags := rfl
@[simp] theorem bump_decayed (s : State) : (s.bump).decayed = s.decayed := rfl
@[simp] theorem bump_poison (s : State) : (s.bump).poison = s.poison := rfl
@[simp] theorem bump_scratch (s : State) : (s.bump).scratch = s.scratch := rfl
@[simp] theorem bump_ecc (s : State) : (s.bump).ecc = s.ecc := rfl
@[simp] theorem bump_shadow (s : State) : (s.bump).shadow = s.shadow := rfl
@[simp] theorem bump_ram (s : State) : (s.bump).ram = s.ram := rfl
@[simp] theorem bump_ramEcc (s : State) : (s.bump).ramEcc = s.ramEcc := rfl
@[simp] theorem bump_accs (s : State) : (s.bump).accs = s.accs := rfl
@[simp] theorem bump_nextAcc (s : State) : (s.bump).nextAcc = s.nextAcc := rfl
@[simp] theorem bump_syncs (s : State) : (s.bump).syncs = s.syncs := rfl
@[simp] theorem bump_host (s : State) : (s.bump).host = s.host := rfl
@[simp] theorem bump_far (s : State) : (s.bump).far = s.far := rfl
@[simp] theorem bump_dev (s : State) : (s.bump).dev = s.dev := rfl
@[simp] theorem bump_tile (s : State) (i : TileKey) : (s.bump).tile i = s.tile i := rfl
@[simp] theorem bump_seq (s : State) (i : TileKey) : (s.bump).seq i = s.seq i := rfl
@[simp] theorem bump_port (s : State) (i : TileKey) : (s.bump).port i = s.port i := rfl
@[simp] theorem bump_region (s : State) (i : Nat) : (s.bump).region i = s.region i := rfl
@[simp] theorem bump_ctx (s : State) (i : Nat) : (s.bump).ctx i = s.ctx i := rfl
@[simp] theorem bump_queue (s : State) (i : Nat) : (s.bump).queue i = s.queue i := rfl
@[simp] theorem bump_launch (s : State) (i : Nat) : (s.bump).launch i = s.launch i := rfl
@[simp] theorem bump_cmd (s : State) (i : Nat) : (s.bump).cmd i = s.cmd i := rfl
@[simp] theorem bump_landing (s : State) (i : PcKey) : (s.bump).landing i = s.landing i := rfl
@[simp] theorem bump_base (s : State) (i : Nat) : (s.bump).base i = s.base i := rfl
@[simp] theorem bump_slot (s : State) (i : TileKey) (j : Nat) : (s.bump).slot i j = s.slot i j := rfl

/-! ### What an update leaves under its own key -/

@[simp] theorem setTile_tile_self (s : State) (k : TileKey) (t : Tile) : (s.setTile k t).tile k = t := Map.getD_put_self _ _ _ _
theorem setTile_tile_ne (s : State) (k : TileKey) (t : Tile) (i : Nat) (h : i ≠ k) : (s.setTile k t).tile i = s.tile i := Map.getD_put_ne _ _ _ _ _ h
@[simp] theorem setTile_tiles_map (s : State) (k : TileKey) (t : Tile) : (s.setTile k t).tiles = s.tiles.put k t := rfl
@[simp] theorem setSeq_seq_self (s : State) (k : TileKey) (q : Seq) : (s.setSeq k q).seq k = q := Map.getD_put_self _ _ _ _
theorem setSeq_seq_ne (s : State) (k : TileKey) (q : Seq) (i : Nat) (h : i ≠ k) : (s.setSeq k q).seq i = s.seq i := Map.getD_put_ne _ _ _ _ _ h
@[simp] theorem setSeq_seqs_map (s : State) (k : TileKey) (q : Seq) : (s.setSeq k q).seqs = s.seqs.put k q := rfl
@[simp] theorem setPort_port_self (s : State) (k : TileKey) (p : PortUnit) : (s.setPort k p).port k = p := Map.getD_put_self _ _ _ _
theorem setPort_port_ne (s : State) (k : TileKey) (p : PortUnit) (i : Nat) (h : i ≠ k) : (s.setPort k p).port i = s.port i := Map.getD_put_ne _ _ _ _ _ h
@[simp] theorem setPort_ports_map (s : State) (k : TileKey) (p : PortUnit) : (s.setPort k p).ports = s.ports.put k p := rfl
@[simp] theorem setRegion_region_self (s : State) (r : Nat) (x : Region) : (s.setRegion r x).region r = x := Map.getD_put_self _ _ _ _
theorem setRegion_region_ne (s : State) (r : Nat) (x : Region) (i : Nat) (h : i ≠ r) : (s.setRegion r x).region i = s.region i := Map.getD_put_ne _ _ _ _ _ h
@[simp] theorem setRegion_regions_map (s : State) (r : Nat) (x : Region) : (s.setRegion r x).regions = s.regions.put r x := rfl
@[simp] theorem setCtx_ctx_self (s : State) (c : Nat) (x : Context) : (s.setCtx c x).ctx c = x := Map.getD_put_self _ _ _ _
theorem setCtx_ctx_ne (s : State) (c : Nat) (x : Context) (i : Nat) (h : i ≠ c) : (s.setCtx c x).ctx i = s.ctx i := Map.getD_put_ne _ _ _ _ _ h
@[simp] theorem setCtx_contexts_map (s : State) (c : Nat) (x : Context) : (s.setCtx c x).contexts = s.contexts.put c x := rfl
@[simp] theorem setQueue_queue_self (s : State) (q : Nat) (x : Queue) : (s.setQueue q x).queue q = x := Map.getD_put_self _ _ _ _
theorem setQueue_queue_ne (s : State) (q : Nat) (x : Queue) (i : Nat) (h : i ≠ q) : (s.setQueue q x).queue i = s.queue i := Map.getD_put_ne _ _ _ _ _ h
@[simp] theorem setQueue_queues_map (s : State) (q : Nat) (x : Queue) : (s.setQueue q x).queues = s.queues.put q x := rfl
@[simp] theorem setLaunch_launch_self (s : State) (l : Nat) (x : Launch) : (s.setLaunch l x).launch l = x := Map.getD_put_self _ _ _ _
theorem setLaunch_launch_ne (s : State) (l : Nat) (x : Launch) (i : Nat) (h : i ≠ l) : (s.setLaunch l x).launch i = s.launch i := Map.getD_put_ne _ _ _ _ _ h
@[simp] theorem setLaunch_launches_map (s : State) (l : Nat) (x : Launch) : (s.setLaunch l x).launches = s.launches.put l x := rfl
@[simp] theorem setCmd_cmd_self (s : State) (c : Nat) (x : Cmd) : (s.setCmd c x).cmd c = x := Map.getD_put_self _ _ _ _
theorem setCmd_cmd_ne (s : State) (c : Nat) (x : Cmd) (i : Nat) (h : i ≠ c) : (s.setCmd c x).cmd i = s.cmd i := Map.getD_put_ne _ _ _ _ _ h
@[simp] theorem setCmd_cmds_map (s : State) (c : Nat) (x : Cmd) : (s.setCmd c x).cmds = s.cmds.put c x := rfl
@[simp] theorem setLanding_landing_self (s : State) (p : PcKey) (x : Landing) : (s.setLanding p x).landing p = x := Map.getD_put_self _ _ _ _
theorem setLanding_landing_ne (s : State) (p : PcKey) (x : Landing) (i : Nat) (h : i ≠ p) : (s.setLanding p x).landing i = s.landing i := Map.getD_put_ne _ _ _ _ _ h
@[simp] theorem setLanding_landings_map (s : State) (p : PcKey) (x : Landing) : (s.setLanding p x).landings = s.landings.put p x := rfl
@[simp] theorem setBase_base_self (s : State) (n : Nat) (x : Stack) : (s.setBase n x).base n = x := Map.getD_put_self _ _ _ _
theorem setBase_base_ne (s : State) (n : Nat) (x : Stack) (i : Nat) (h : i ≠ n) : (s.setBase n x).base i = s.base i := Map.getD_put_ne _ _ _ _ _ h
@[simp] theorem setBase_bases_map (s : State) (n : Nat) (x : Stack) : (s.setBase n x).bases = s.bases.put n x := rfl
@[simp] theorem setDev_dev_self (s : State) (d : Device) : (s.setDev d).dev = d := rfl
@[simp] theorem answer_uet_self (s : State) (a : Answer) : (s.answer a).uet = a :: s.uet := rfl
@[simp] theorem bump_fresh_self (s : State) : s.bump.fresh = s.fresh + 1 := rfl
@[simp] theorem setSlot_slot_self (s : State) (k : TileKey) (n : Nat) (x : Slot) : (s.setSlot k n x).slot k n = x := by
  simp [setSlot, slot]
theorem setSlot_slot_ne (s : State) (k : TileKey) (n m : Nat) (x : Slot) (h : m ≠ n) : (s.setSlot k n x).slot k m = s.slot k m := by
  simp [setSlot, slot, Map.getD_put_ne _ _ _ _ _ h]
theorem setSlot_tile_self (s : State) (k : TileKey) (n : Nat) (x : Slot) :
    (s.setSlot k n x).tile k = { s.tile k with slots := (s.tile k).slots.put n x } := by simp [setSlot]
theorem setSlot_tile_ne (s : State) (k i : TileKey) (n : Nat) (x : Slot) (h : i ≠ k) : (s.setSlot k n x).tile i = s.tile i := by
  simp [setSlot, setTile_tile_ne _ _ _ _ h]
theorem setTile_slot_self (s : State) (k : TileKey) (t : Tile) (n : Nat) : (s.setTile k t).slot k n = t.slots.getD n {} := by simp [slot]
theorem setTile_slot_ne (s : State) (k i : TileKey) (t : Tile) (n : Nat) (h : i ≠ k) : (s.setTile k t).slot i n = s.slot i n := by
  simp [slot, setTile_tile_ne _ _ _ _ h]

end Sys2Proof.Machine.State
end

