-- ==== Sys2Proof/Laws/Delivery.lean ====
section
/-! SUPPORT. What sending a token can do, once: it changes its own tile, what the tile's sequencer is offered, and the accesses followed (R17 to R21, R58, R290); and when a release completes (R292). -/

namespace Sys2Proof.Machine

/-- `t` is `s` but for tile `k`, what is offered to that tile's sequencer, and the accesses followed. -/
structure SentFrom (k : TileKey) (s t : State) : Prop where
  rest  : t = { s with tiles := t.tiles, seqs := t.seqs, accs := t.accs, nextAcc := t.nextAcc }
  tiles : ∀ j, j ≠ k → t.tile j = s.tile j
  seqs  : ∀ j, j ≠ k → t.seq j = s.seq j
  seq   : t.seq k = { s.seq k with offers := (t.seq k).offers }

theorem SentFrom.refl (k : TileKey) (s : State) : SentFrom k s s := ⟨rfl, fun _ _ => rfl, fun _ _ => rfl, rfl⟩

theorem SentFrom.trans {k : TileKey} {s t u : State} (h : SentFrom k s t) (g : SentFrom k t u) : SentFrom k s u where
  rest := by rw [g.rest, h.rest]
  tiles j hj := (g.tiles j hj).trans (h.tiles j hj)
  seqs j hj := (g.seqs j hj).trans (h.seqs j hj)
  seq := by rw [g.seq, h.seq]

theorem sentFrom_setTile (s : State) (k : TileKey) (t : Tile) : SentFrom k s (s.setTile k t) :=
  ⟨rfl, fun _ hj => Map.getD_put_ne _ _ _ _ _ hj, fun _ _ => rfl, rfl⟩

theorem sentFrom_setSlot (s : State) (k : TileKey) (n : Nat) (x : Slot) : SentFrom k s (s.setSlot k n x) := sentFrom_setTile _ _ _

/-- A token that arrives changes its tile, or offers itself to the tile's sequencer. -/
theorem sentFrom_land (s : State) (k : TileKey) (d : Tgt) (x : Parcel) : SentFrom k s (land s k d x) := by
  cases d with
  | none => exact .refl k s
  | latch p n => exact sentFrom_setSlot _ _ _ _
  | route r => exact sentFrom_setTile _ _ _
  | port p =>
    simp only [land]
    split
    · refine (sentFrom_setTile s k _).trans ⟨rfl, fun _ _ => rfl, fun _ hj => Map.getD_put_ne _ _ _ _ _ hj, ?_⟩
      simp [State.seq, State.setSeq, Map.getD, Map.get?_put_self]
    · exact sentFrom_setTile _ _ _

/-- A token about to be sent may open one access: it names it, and counts it among what happens before. -/
theorem openAcc_spec (s : State) (k : TileKey) (d : Tgt) (x : Tok) :
    openAcc s k d x = (s, x) ∨ x.acc = none ∧ openAcc s k d x =
      ({ s with accs := s.accs.put s.nextAcc false, nextAcc := s.nextAcc + 1 }, { x with acc := some s.nextAcc, hb := s.nextAcc :: x.hb }) := by
  unfold openAcc
  split
  · split
    · rename_i h
      exact .inr ⟨by simpa using (Bool.and_eq_true_iff.mp h).1, rfl⟩
    · exact .inl rfl
  · exact .inl rfl

theorem sentFrom_openAcc (s : State) (k : TileKey) (d : Tgt) (x : Tok) : SentFrom k s (openAcc s k d x).1 := by
  obtain h | ⟨-, h⟩ := openAcc_spec s k d x <;> rw [h]
  · exact .refl k s
  · exact ⟨rfl, fun _ _ => rfl, fun _ _ => rfl, rfl⟩

theorem sentFrom_openTok (s : State) (k : TileKey) (d : Tgt) (x : Option Tok) : SentFrom k s (openTok s k d x).1 := by
  cases x with
  | none => exact .refl k s
  | some t => exact sentFrom_openAcc s k d t

theorem sentFrom_deliver (s : State) (k : TileKey) (d : Tgt) (x : Parcel) : SentFrom k s (deliver s k d x) :=
  (sentFrom_openAcc s k d x.tok).trans (sentFrom_land _ _ _ _)

theorem sentFrom_deliverTok (s : State) (k : TileKey) (d : Tgt) (x : Option Tok) : SentFrom k s (deliverTok s k d x) := by
  cases x with
  | none => exact .refl k s
  | some t => exact sentFrom_deliver s k d _

theorem sentFrom_deliverPair (s : State) (k : TileKey) (da db : Tgt) (a b : Option Tok) : SentFrom k s (deliverPair s k da db a b) := by
  unfold deliverPair
  split <;> exact (sentFrom_deliverTok _ _ _ _).trans (sentFrom_deliverTok _ _ _ _)

theorem sentFrom_sendBoth (s : State) (k : TileKey) (n : Nat) (da db : Tgt) (a b : Option Tok) : SentFrom k s (sendBoth s k n da db a b) := by
  have h := (sentFrom_openTok s k da a).trans (sentFrom_openTok _ k db b)
  unfold sendBoth
  split
  · exact h.trans (sentFrom_setSlot _ _ _ _)
  · exact h.trans (sentFrom_deliverPair _ _ _ _ _ _)

theorem sentFrom_sendOne (s : State) (k : TileKey) (n : Nat) (d : Tgt) (x : Parcel) : SentFrom k s (sendOne s k n d x) := by
  unfold sendOne
  split
  · exact sentFrom_setSlot _ _ _ _
  · exact sentFrom_deliver _ _ _ _

theorem sentFrom_noteMarker (s : State) (k : TileKey) (n : Nat) (t : Tok) : SentFrom k s (noteMarker s k n t) := by
  unfold noteMarker
  split <;> first | exact sentFrom_setSlot _ _ _ _ | exact .refl k s

theorem sentFrom_consumeAt (s : State) (k : TileKey) (n : Nat) (f : NodeForm) : SentFrom k s (consumeAt s k n f) := sentFrom_setSlot _ _ _ _

/-- A firing on data changes its own tile, what the tile's sequencer is offered, and the accesses followed. -/
theorem sentFrom_fireTo (s : State) (k : TileKey) (n : Nat) (f : NodeForm) (a b : Option Tok) : SentFrom k s (fireTo s k n f a b) :=
  (sentFrom_consumeAt s k n f).trans (sentFrom_sendBoth _ _ _ _ _ _ _)

/-- So does a firing that forwards a token. -/
theorem sentFrom_forwardBoth (s : State) (k : TileKey) (n : Nat) (f : NodeForm) (t : Tok) : SentFrom k s (forwardBoth s k n f t) :=
  ((sentFrom_consumeAt s k n f).trans (sentFrom_noteMarker _ _ _ _)).trans (sentFrom_sendBoth _ _ _ _ _ _ _)

/-! ### Releases -/

/-- A release completes exactly when each access before it has been performed at its scope (R291, R292). -/
theorem released_iff (s : State) (past : List Nat) (scope : BitVec 3) :
    released s past scope = true ↔ ∀ a ∈ past, ∀ b, s.accs.get? a = some b → b = true ∧ scope < 2 := by
  simp only [released, List.all_eq_true]
  refine forall₂_congr fun a _ => ?_
  cases s.accs.get? a <;> simp

/-- What completes at a scope completes at a narrower one. -/
theorem released_mono {s : State} {past : List Nat} {scope narrow : BitVec 3} (h : released s past scope = true) (le : narrow ≤ scope) : released s past narrow = true := by
  rw [released_iff] at *
  exact fun a ha b hb => ⟨(h a ha b hb).1, by have := (h a ha b hb).2; bv_omega⟩

/-- What an access sets in motion is followed under a name that no earlier access has, as long as every name is below `nextAcc`. -/
theorem openAcc_below (s : State) (k : TileKey) (d : Tgt) (x : Tok) (h : ∀ a, s.accs.has a = true → a < s.nextAcc) :
    ∀ a, (openAcc s k d x).1.accs.has a = true → a < (openAcc s k d x).1.nextAcc := by
  obtain e | ⟨-, e⟩ := openAcc_spec s k d x <;> rw [e]
  · exact h
  · intro a ha
    by_cases eq : a = s.nextAcc
    · subst eq; exact Nat.lt_succ_self _
    · rw [Map.has_put_ne _ _ _ _ eq] at ha
      exact Nat.lt_succ_of_lt (h a ha)

end Sys2Proof.Machine
end

