-- ==== Sys2Proof/Laws/Firing.lean ====
section
/-! SUPPORT. What the shared operations of sequencer words and node firings answer, once, for the terms of Safety.lean. -/

namespace Sys2Proof.Machine

/-- A sequencer word runs at the sequencer in focus. -/
theorem atSeq_of {s : State} {k : TileKey} (h : SeqAt s k) (go : TileKey → Seq → Out) : atSeq s go = go k (s.seq k) := by
  obtain ⟨h1, h2, h3, h4, h5⟩ := h
  simp [atSeq, h1, h2, h3, h4, ramRead, h5]

/-- A node instruction runs at the slot in focus. -/
theorem atSlot_of {s : State} {k : TileKey} {n : Nat} (h : SlotAt s k n) (go : TileKey → Nat → Slot → Out) : atSlot s go = go k n (s.slot k n) := by
  obtain ⟨h1, h2, h3, h4, h5⟩ := h
  simp [atSlot, h1, h2, h3, h4, h5]

/-- A node whose latches hold operands runs its step on data. -/
theorem fireSlot_of {s : State} {k : TileKey} {n : Nat} {f : NodeForm} {o : Opnds} (h : NodeAt s k n f o) (go : TileKey → Nat → Opnds → Out) :
    fireSlot f s go = go k n o := by
  obtain ⟨h1, h2, _⟩ := h
  simp [fireSlot, atSlot_of h1, h2]

/-- A node that moves tokens sends what its step computes. -/
theorem fireMove_of {s : State} {k : TileKey} {n : Nat} {f : NodeForm} {o : Opnds} (h : NodeAt s k n f o) (a b : Opnds → Option Tok) :
    fireMove f s a b = .next (fireTo s k n f (a o) (b o)) := by
  simp [fireMove, fireSlot_of h, h.2.2]

/-- An arithmetic node sends its result and counts in a VX tile. -/
theorem fireCalc_of {s : State} {k : TileKey} {n : Nat} {f : NodeForm} {o : Opnds} (h : NodeAt s k n f o) (c : Payload → Payload → Payload → Calc) :
    fireCalc f c s = .next (fireTo (if (s.tile k).kind = .vx then countTile s k (c o.l.pay o.r.pay o.p.pay).tally else s) k n f
      (some (resultTok o (c o.l.pay o.r.pay o.p.pay).a)) (some (resultTok o (c o.l.pay o.r.pay o.p.pay).b))) := by
  simp [fireCalc, fireSlot_of h, h.2.2, countsHere]

@[simp] theorem countTile_nil (s : State) (k : TileKey) : countTile s k [] = s := rfl

end Sys2Proof.Machine
end

