-- ==== Sys2Proof/Laws/Memory.lean ====
section
/-! SUPPORT. The laws of byte memories: reading after writing, and that every operation keeps the canonical form. -/

namespace Sys2Proof.Machine.Mem

/-! ### The canonical form -/

theorem wfFrom_mono (m : List Host.Cell) : ∀ lo hi, lo ≤ hi → wfFrom hi m = true → wfFrom lo m = true := by
  intro lo hi h
  cases m with
  | nil => simp [wfFrom]
  | cons c m =>
    obtain ⟨k, b⟩ := c
    simp only [wfFrom, Bool.and_eq_true, decide_eq_true_eq]
    rintro ⟨⟨h1, h2⟩, h3⟩
    exact ⟨⟨Nat.le_trans h h1, h2⟩, h3⟩

theorem write_wfFrom (m : List Host.Cell) (a : Nat) (b : Byte) : ∀ lo, lo ≤ a → wfFrom lo m = true → wfFrom lo (write m a b) = true := by
  induction m with
  | nil =>
    intro lo h _
    simp only [write]
    split <;> simp_all [wfFrom]
  | cons c m ih =>
    obtain ⟨k, v⟩ := c
    intro lo h hm
    have hm0 := hm
    simp only [wfFrom, Bool.and_eq_true, decide_eq_true_eq] at hm
    obtain ⟨⟨h1, h2⟩, h3⟩ := hm
    simp only [write]
    split
    · rename_i hak
      split
      · exact hm0
      · rename_i hb
        simp only [wfFrom, Bool.and_eq_true, decide_eq_true_eq]
        exact ⟨⟨h, by simpa using hb⟩, ⟨⟨hak, h2⟩, h3⟩⟩
    · split
      · rename_i hka
        have hka : k = a := by simpa using hka
        subst hka
        split
        · exact wfFrom_mono m lo (k + 1) (by omega) h3
        · rename_i hb
          simp only [wfFrom, Bool.and_eq_true, decide_eq_true_eq]
          exact ⟨⟨h, by simpa using hb⟩, h3⟩
      · rename_i hak hka
        have hka : k ≠ a := by simpa using hka
        simp only [wfFrom, Bool.and_eq_true, decide_eq_true_eq]
        exact ⟨⟨h1, h2⟩, ih (k + 1) (by omega) h3⟩

/-- A write keeps the canonical form. -/
theorem write_wf (m : List Host.Cell) (a : Nat) (b : Byte) (h : wf m = true) : wf (write m a b) = true :=
  write_wfFrom m a b 0 (Nat.zero_le _) h

/-- A write of several bytes keeps the canonical form. -/
theorem writeN_wf (bs : List Byte) : ∀ (m : List Host.Cell) (a : Nat), wf m = true → wf (writeN m a bs) = true := by
  induction bs with
  | nil => intro m a h; exact h
  | cons b bs ih => intro m a h; exact ih _ _ (write_wf m a b h)

/-- A store keeps the canonical form. -/
theorem store_wf {w : Nat} (m : List Host.Cell) (a n : Nat) (v : BitVec w) (h : wf m = true) : wf (store m a n v) = true := writeN_wf _ m a h

theorem filter_wfFrom (p : Host.Cell → Bool) (m : List Host.Cell) : ∀ lo, wfFrom lo m = true → wfFrom lo (m.filter p) = true := by
  induction m with
  | nil => intro lo h; exact h
  | cons c m ih =>
    obtain ⟨k, v⟩ := c
    intro lo h
    simp only [wfFrom, Bool.and_eq_true, decide_eq_true_eq] at h
    simp only [List.filter_cons]
    split
    · simp only [wfFrom, Bool.and_eq_true, decide_eq_true_eq]
      exact ⟨h.1, ih _ h.2⟩
    · exact ih lo (wfFrom_mono m lo (k + 1) (by omega) h.2)

/-- Taking bytes out keeps the canonical form. -/
theorem filter_wf (p : Host.Cell → Bool) (m : List Host.Cell) (h : wf m = true) : wf (m.filter p) = true := filter_wfFrom p m 0 h

/-- Clearing a range keeps the canonical form. -/
theorem clear_wf (m : List Host.Cell) (lo n : Nat) (h : wf m = true) : wf (clear m lo n) = true := filter_wf _ m h

/-- A chain of operations that each keep the canonical form keeps it. -/
theorem foldl_wf {α : Type} (f : List Host.Cell → α → List Host.Cell) (hf : ∀ m x, wf m = true → wf (f m x) = true) (xs : List α) :
    ∀ m, wf m = true → wf (xs.foldl f m) = true := by
  induction xs with
  | nil => intro m h; exact h
  | cons x xs ih => intro m h; exact ih _ (hf m x h)

/-! ### Reading after writing -/

theorem read_below (m : List Host.Cell) : ∀ lo a, wfFrom lo m = true → a < lo → read m a = 0 := by
  induction m with
  | nil => intro _ _ _ _; rfl
  | cons c m ih =>
    obtain ⟨k, v⟩ := c
    intro lo a h ha
    simp only [wfFrom, Bool.and_eq_true, decide_eq_true_eq] at h
    simp only [read]
    have : ¬(k == a) = true := by simp; omega
    rw [if_neg this]
    exact ih (k + 1) a h.2 (by omega)

theorem read_write_from (m : List Host.Cell) (a : Nat) (b : Byte) (x : Nat) :
    ∀ lo, wfFrom lo m = true → read (write m a b) x = if x = a then b else read m x := by
  induction m with
  | nil =>
    intro lo _
    simp only [write]
    split
    · rename_i hb
      have hb : b = 0 := by simpa using hb
      subst hb
      simp [read]
    · by_cases h : x = a
      · subst h; simp [read]
      · simp [read, h, Ne.symm h]
  | cons c m ih =>
    obtain ⟨k, v⟩ := c
    intro lo hm
    simp only [wfFrom, Bool.and_eq_true, decide_eq_true_eq] at hm
    obtain ⟨⟨h1, h2⟩, h3⟩ := hm
    simp only [write]
    split
    · rename_i hak
      split
      · rename_i hb
        have hb : b = 0 := by simpa using hb
        subst hb
        by_cases h : x = a
        · subst h
          have : ¬(k == x) = true := by simp; omega
          simp only [read, if_neg this]
          simp only [if_true]
          exact read_below m (k + 1) x h3 (by omega)
        · simp [h]
      · by_cases h : x = a
        · subst h; simp [read]
        · have : ¬(a == x) = true := by simpa using Ne.symm h
          simp only [read, if_neg this, if_neg h]
    · split
      · rename_i hka
        have hka : k = a := by simpa using hka
        subst hka
        split
        · rename_i hb
          have hb : b = 0 := by simpa using hb
          subst hb
          by_cases h : x = k
          · subst h; simp only [if_true]; exact read_below m (x + 1) x h3 (by omega)
          · have : ¬(k == x) = true := by simpa using Ne.symm h
            simp only [read, if_neg this, if_neg h]
        · by_cases h : x = k
          · subst h; simp [read]
          · have : ¬(k == x) = true := by simpa using Ne.symm h
            simp only [read, if_neg this, if_neg h]
      · rename_i hak hka
        have hka : k ≠ a := by simpa using hka
        by_cases hx : x = k
        · subst hx; simp [read, hka]
        · have : ¬(k == x) = true := by simpa using Ne.symm hx
          simp only [read, if_neg this]
          exact ih (k + 1) h3

/-- A read after a write: the byte written at its address, the old byte elsewhere. -/
theorem read_write (m : List Host.Cell) (a : Nat) (b : Byte) (x : Nat) (h : wf m = true) : read (write m a b) x = if x = a then b else read m x :=
  read_write_from m a b x 0 h

/-- A write leaves every other byte, whatever the form of the memory. -/
theorem read_write_ne (m : List Host.Cell) (a : Nat) (b : Byte) (x : Nat) (h : x ≠ a) : read (write m a b) x = read m x := by
  induction m with
  | nil => simp only [write]; split <;> simp [read, Ne.symm h]
  | cons c m ih =>
    obtain ⟨k, v⟩ := c
    simp only [write]
    split
    · split <;> simp [read, Ne.symm h]
    · split
      · rename_i hka
        have hka : k = a := by simpa using hka
        subst hka
        split <;> simp [read, Ne.symm h]
      · simp [read, ih]

/-- A byte outside a written range reads as before. -/
theorem read_writeN_out (bs : List Byte) : ∀ (m : List Host.Cell) (a x : Nat), (x < a ∨ a + bs.length ≤ x) → read (writeN m a bs) x = read m x := by
  induction bs with
  | nil => intro m a x _; rfl
  | cons b bs ih =>
    intro m a x hx
    simp only [writeN, List.length_cons] at hx ⊢
    rw [ih (write m a b) (a + 1) x (by omega), read_write_ne m a b x (by omega)]

/-- Byte `i` of a written range reads as written. -/
theorem read_writeN_in (bs : List Byte) : ∀ (m : List Host.Cell) (a i : Nat), wf m = true → (hi : i < bs.length) → read (writeN m a bs) (a + i) = bs[i] := by
  induction bs with
  | nil => intro m a i _ hi; simp at hi
  | cons b bs ih =>
    intro m a i h hi
    simp only [writeN]
    cases i with
    | zero =>
      show read _ a = b
      rw [read_writeN_out bs (write m a b) (a + 1) a (by omega), read_write m a b a h, if_pos rfl]
    | succ j =>
      have := ih (write m a b) (a + 1) j (write_wf m a b h) (by simpa using hi)
      rw [show a + (j + 1) = a + 1 + j by omega, this]
      simp

end Sys2Proof.Machine.Mem
end

