-- ==== Sys2Proof/Laws/Payload.lean ====
section
/-! SUPPORT. Reading lanes, elements and mask bits out of payloads built from them. -/

namespace Sys2Proof.Machine

/-! ### Lanes -/

theorem foldr_lanes_getLsbD (f : Nat → Lane) (l : List Nat) (b : Nat) (hb : b < 512) :
    (l.foldr (fun i acc => ((f i).setWidth 512 <<< (32 * i)) ||| acc) (0 : Payload)).getLsbD b
      = l.any (fun i => decide (32 * i ≤ b) && (f i).getLsbD (b - 32 * i)) := by
  induction l with
  | nil => simp
  | cons x xs ih =>
    simp only [List.foldr_cons, List.any_cons, BitVec.getLsbD_or, ih, BitVec.getLsbD_shiftLeft, BitVec.getLsbD_setWidth]
    have h2 : b - 32 * x < 512 := by omega
    by_cases h : b < 32 * x
    · have h3 : ¬ 32 * x ≤ b := by omega
      simp [h, h3]
    · have h3 : 32 * x ≤ b := by omega
      simp [h, h3, hb, h2]

theorem ofLanes_getLsbD (f : Nat → Lane) (b : Nat) (hb : b < 512) : (Word.ofLanes f).getLsbD b = (f (b / 32)).getLsbD (b % 32) := by
  unfold Word.ofLanes
  rw [foldr_lanes_getLsbD f _ b hb, Bool.eq_iff_iff, List.any_eq_true]
  constructor
  · rintro ⟨i, _, h⟩
    simp only [Bool.and_eq_true, decide_eq_true_eq] at h
    obtain ⟨h1, h2⟩ := h
    have h3 := BitVec.lt_of_getLsbD h2
    have hi : b / 32 = i := by omega
    have hm : b % 32 = b - 32 * i := by omega
    rw [hi, hm]; exact h2
  · intro h
    refine ⟨b / 32, List.mem_range.mpr (by omega), ?_⟩
    simp only [Bool.and_eq_true, decide_eq_true_eq]
    refine ⟨by omega, ?_⟩
    rw [show b - 32 * (b / 32) = b % 32 by omega]; exact h

/-- A lane of a payload built lane by lane. -/
@[simp] theorem lane_ofLanes (f : Nat → Lane) (i : Nat) (hi : i < 16) : Word.lane (Word.ofLanes f) i = f i := by
  apply BitVec.eq_of_getLsbD_eq
  intro b hb
  simp only [Word.lane, BitVec.getLsbD_extractLsb', hb, decide_true, Bool.true_and]
  rw [ofLanes_getLsbD f (32 * i + b) (by omega), show (32 * i + b) / 32 = i by omega, show (32 * i + b) % 32 = b by omega]

/-- Payloads with equal lanes are equal. -/
theorem payload_ext (p q : Payload) (h : ∀ i, i < 16 → Word.lane p i = Word.lane q i) : p = q := by
  apply BitVec.eq_of_getLsbD_eq
  intro b hb
  have h1 := congrArg (fun x => BitVec.getLsbD x (b % 32)) (h (b / 32) (by omega))
  simp only [Word.lane, BitVec.getLsbD_extractLsb', show b % 32 < 32 by omega, decide_true, Bool.true_and] at h1
  rw [show 32 * (b / 32) + b % 32 = b by omega] at h1
  exact h1

theorem lane_predLanes (w : NodeOp) (l p : Payload) (f : Nat → Lane) (i : Nat) (hi : i < 16) :
    Word.lane (predLanes w l p f) i = if laneOn w p i then f i else Word.lane l i := by
  simp [predLanes, hi]

/-! ### Elements -/

theorem mod_div_mod (x n a w : Nat) (h : a + w ≤ n) : x % 2 ^ n / 2 ^ a % 2 ^ w = x / 2 ^ a % 2 ^ w := by
  apply Nat.eq_of_testBit_eq
  intro i
  simp only [Nat.testBit_mod_two_pow, Nat.testBit_div_two_pow]
  by_cases hi : i < w
  · simp [hi, show i + a < n by omega]
  · simp [hi]

theorem toNat_lane (p : Payload) (i : Nat) : (Word.lane p i).toNat = p.toNat / 2 ^ (32 * i) % 2 ^ 32 := by
  simp [Word.lane, Nat.shiftRight_eq_div_pow]

/-- Element `r` of lane `i` is element `i * (32 / w) + r` of the payload. -/
theorem elemAt_lane (w : Nat) (hw : w = 8 ∨ w = 16 ∨ w = 32) (p : Payload) (j : Nat) :
    elemAt w p j = (elems w (Word.lane p (j * w / 32))).getD (j % (32 / w)) 0 := by
  have key : ∀ i r, w * r + w ≤ 32 → w * j = 32 * i + w * r → p.toNat / 2 ^ (w * j) % 2 ^ w = (Word.lane p i).toNat / 2 ^ (w * r) % 2 ^ w := by
    intro i r h1 h2
    rw [toNat_lane, mod_div_mod _ _ _ _ h1, h2, Nat.pow_add, Nat.div_div_eq_div_mul]
  rcases hw with h | h | h <;> subst h <;> unfold elemAt elems
  · rw [key (j * 8 / 32) (j % 4) (by omega) (by omega)]
    have : j % 4 < 4 := by omega
    simp [List.getD, this]
  · rw [key (j * 16 / 32) (j % 2) (by omega) (by omega)]
    have : j % 2 < 2 := by omega
    simp [List.getD, this]
  · rw [key (j * 32 / 32) 0 (by omega) (by omega)]
    simp [List.getD, Nat.mod_one]

theorem elems_packElems (w : Nat) (hw : w = 8 ∨ w = 16 ∨ w = 32) (f : Nat → Nat) (r : Nat) (hr : r < 32 / w) :
    (elems w (packElems w ((List.range (32 / w)).map f))).getD r 0 = f r % 2 ^ w := by
  rcases hw with h | h | h <;> subst h
  · have h4 : List.range (32 / 8) = [0, 1, 2, 3] := by decide
    rw [h4]
    unfold elems packElems
    rw [h4]
    have hr : r < 4 := hr
    interval_cases r <;> simp [List.getD] <;> omega
  · have h4 : List.range (32 / 16) = [0, 1] := by decide
    rw [h4]
    unfold elems packElems
    rw [h4]
    have hr : r < 2 := hr
    interval_cases r <;> simp [List.getD] <;> omega
  · have h4 : List.range (32 / 32) = [0] := by decide
    rw [h4]
    unfold elems packElems
    rw [h4]
    have hr : r < 1 := hr
    interval_cases r; simp [List.getD]

theorem width_cases (ty : Ty) : Ty.width ty = 8 ∨ Ty.width ty = 16 ∨ Ty.width ty = 32 := by cases ty <;> simp [Ty.width]

/-- An element of lanes that are packed from elements, under the predicate. -/
theorem elemAt_predLanes (w : Nat) (hw : w = 8 ∨ w = 16 ∨ w = 32) (op : NodeOp) (l p : Payload) (f : Nat → Nat → Nat) (j : Nat) (hj : j < 512 / w) :
    elemAt w (predLanes op l p fun i => packElems w ((List.range (32 / w)).map (f i))) j
      = if laneOn op p (j * w / 32) then f (j * w / 32) (j % (32 / w)) % 2 ^ w else elemAt w l j := by
  have h16 : j * w / 32 < 16 := by rcases hw with h | h | h <;> subst h <;> omega
  have hr : j % (32 / w) < 32 / w := Nat.mod_lt _ (by rcases hw with h | h | h <;> subst h <;> decide)
  rw [elemAt_lane w hw, lane_predLanes op l p _ _ h16]
  split
  · exact elems_packElems w hw _ _ hr
  · exact (elemAt_lane w hw l j).symm

theorem elems_getD_lt (w : Nat) (x : Lane) (r : Nat) : (elems w x).getD r 0 < 2 ^ w := by
  unfold elems
  rw [List.getD_eq_getElem?_getD, List.getElem?_map]
  cases (List.range (32 / w))[r]? with
  | none => simp
  | some y => simpa using Nat.mod_lt _ (by positivity)

theorem reduceInt_lt (w : Nat) (uns sat : Bool) (v : Int) : reduceInt w uns sat v < 2 ^ w := by
  unfold reduceInt
  have h : (0 : Int) < ((2 ^ w : Nat) : Int) := by exact_mod_cast Nat.pos_of_ne_zero (by positivity)
  have h1 := Int.emod_lt_of_pos (if sat = true then Word.clamp (loOf w uns) (hiOf w uns) v else v) h
  have h2 := Int.emod_nonneg (if sat = true then Word.clamp (loOf w uns) (hiOf w uns) v else v) (Int.ne_of_gt h)
  simp only
  omega

/-! ### Masks -/

theorem foldr_mask (f : Nat → Bool) (n : Nat) : ∀ k b, ((List.range' k n).foldr (fun i acc => 2 * acc + (if f i then 1 else 0)) 0).testBit b
    = (decide (b < n) && f (k + b)) := by
  induction n with
  | zero => intro k b; simp
  | succ n ih =>
    intro k b
    rw [List.range'_succ, List.foldr_cons]
    cases b with
    | zero =>
      cases f k <;> simp [Nat.testBit_zero, Nat.add_mod, Nat.mul_mod_right]
    | succ b =>
      have h1 : ∀ x : Nat, (2 * x + (if f k then 1 else 0)) / 2 = x := by intro x; split <;> omega
      rw [Nat.testBit_succ, h1, ih (k + 1) b, show k + 1 + b = k + (b + 1) by omega]
      simp

/-- The bits of a mask token. -/
theorem maskOf_getLsbD (f : Nat → Bool) (b : Nat) (hb : b < 512) : (maskOf f).getLsbD b = (decide (b < 16) && f b) := by
  unfold maskOf
  rw [BitVec.getLsbD_ofNat, List.range_eq_range', foldr_mask f 16 0 b]
  simp [hb]

end Sys2Proof.Machine
end

