-- ==== Sys2Proof/Laws/PerInstr.lean ====
section
/-! SUPPORT. Families of lemmas over all instructions as syntax: which instructions have a word. -/

namespace Sys2Proof.Laws

/-- An instruction has a word exactly when it is not an event of the machine (01; 14 R312). -/
def Coded.Statement (i : Instr) : Prop := (encode i).isSome = (i.layer != .event)

theorem Coded.add (w : NodeOp) : Coded.Statement (.add w) := rfl
theorem Coded.sub (w : NodeOp) : Coded.Statement (.sub w) := rfl
theorem Coded.mul (w : NodeOp) : Coded.Statement (.mul w) := rfl
theorem Coded.mulh (w : NodeOp) : Coded.Statement (.mulh w) := rfl
theorem Coded.madd (w : NodeOp) : Coded.Statement (.madd w) := rfl
theorem Coded.div (w : NodeOp) : Coded.Statement (.div w) := rfl
theorem Coded.rem (w : NodeOp) : Coded.Statement (.rem w) := rfl
theorem Coded.neg (w : NodeOp) : Coded.Statement (.neg w) := rfl
theorem Coded.abs (w : NodeOp) : Coded.Statement (.abs w) := rfl
theorem Coded.min (w : NodeOp) : Coded.Statement (.min w) := rfl
theorem Coded.max (w : NodeOp) : Coded.Statement (.max w) := rfl
theorem Coded.icmp (w : NodeOp) (cond : BitVec 3) : Coded.Statement (.icmp w cond) := rfl
theorem Coded.and (w : NodeOp) : Coded.Statement (.and w) := rfl
theorem Coded.or (w : NodeOp) : Coded.Statement (.or w) := rfl
theorem Coded.xor (w : NodeOp) : Coded.Statement (.xor w) := rfl
theorem Coded.not (w : NodeOp) : Coded.Statement (.not w) := rfl
theorem Coded.andn (w : NodeOp) : Coded.Statement (.andn w) := rfl
theorem Coded.shl (w : NodeOp) : Coded.Statement (.shl w) := rfl
theorem Coded.shr (w : NodeOp) : Coded.Statement (.shr w) := rfl
theorem Coded.sra (w : NodeOp) : Coded.Statement (.sra w) := rfl
theorem Coded.rotl (w : NodeOp) : Coded.Statement (.rotl w) := rfl
theorem Coded.clz (w : NodeOp) : Coded.Statement (.clz w) := rfl
theorem Coded.popc (w : NodeOp) : Coded.Statement (.popc w) := rfl
theorem Coded.bfx (w : NodeOp) (sgn : Bool) (wm1 pos : BitVec 5) : Coded.Statement (.bfx w sgn wm1 pos) := rfl
theorem Coded.bfi (w : NodeOp) (wm1 pos : BitVec 5) : Coded.Statement (.bfi w wm1 pos) := rfl
theorem Coded.addi (w : NodeOp) (imm : BitVec 16) : Coded.Statement (.addi w imm) := rfl
theorem Coded.fadd (w : NodeOp) : Coded.Statement (.fadd w) := rfl
theorem Coded.fsub (w : NodeOp) : Coded.Statement (.fsub w) := rfl
theorem Coded.fmul (w : NodeOp) : Coded.Statement (.fmul w) := rfl
theorem Coded.fma (w : NodeOp) : Coded.Statement (.fma w) := rfl
theorem Coded.fms (w : NodeOp) : Coded.Statement (.fms w) := rfl
theorem Coded.fnma (w : NodeOp) : Coded.Statement (.fnma w) := rfl
theorem Coded.fmin (w : NodeOp) : Coded.Statement (.fmin w) := rfl
theorem Coded.fmax (w : NodeOp) : Coded.Statement (.fmax w) := rfl
theorem Coded.fabs (w : NodeOp) : Coded.Statement (.fabs w) := rfl
theorem Coded.fneg (w : NodeOp) : Coded.Statement (.fneg w) := rfl
theorem Coded.fcpsgn (w : NodeOp) : Coded.Statement (.fcpsgn w) := rfl
theorem Coded.fcmp (w : NodeOp) (cond : BitVec 3) : Coded.Statement (.fcmp w cond) := rfl
theorem Coded.fclass (w : NodeOp) (mask : BitVec 10) : Coded.Statement (.fclass w mask) := rfl
theorem Coded.fdiv (w : NodeOp) : Coded.Statement (.fdiv w) := rfl
theorem Coded.fsqrt (w : NodeOp) : Coded.Statement (.fsqrt w) := rfl
theorem Coded.frcp (w : NodeOp) : Coded.Statement (.frcp w) := rfl
theorem Coded.frsqrt (w : NodeOp) : Coded.Statement (.frsqrt w) := rfl
theorem Coded.exp2f (w : NodeOp) : Coded.Statement (.exp2f w) := rfl
theorem Coded.log2f (w : NodeOp) : Coded.Statement (.log2f w) := rfl
theorem Coded.ldx (w : NodeOp) : Coded.Statement (.ldx w) := rfl
theorem Coded.rndi (w : NodeOp) : Coded.Statement (.rndi w) := rfl
theorem Coded.cvt (w : NodeOp) (src dst : BitVec 4) : Coded.Statement (.cvt w src dst) := rfl
theorem Coded.pack (w : NodeOp) (sz : Bool) : Coded.Statement (.pack w sz) := rfl
theorem Coded.unpack (w : NodeOp) (ext sz : Bool) : Coded.Statement (.unpack w ext sz) := rfl
theorem Coded.perm (w : NodeOp) : Coded.Statement (.perm w) := rfl
theorem Coded.bcast (w : NodeOp) (lane : BitVec 4) : Coded.Statement (.bcast w lane) := rfl
theorem Coded.rsum (w : NodeOp) : Coded.Statement (.rsum w) := rfl
theorem Coded.rmin (w : NodeOp) : Coded.Statement (.rmin w) := rfl
theorem Coded.rmax (w : NodeOp) : Coded.Statement (.rmax w) := rfl
theorem Coded.psum (w : NodeOp) : Coded.Statement (.psum w) := rfl
theorem Coded.pmin (w : NodeOp) : Coded.Statement (.pmin w) := rfl
theorem Coded.pmax (w : NodeOp) : Coded.Statement (.pmax w) := rfl
theorem Coded.lidx (w : NodeOp) (imm : BitVec 16) : Coded.Statement (.lidx w imm) := rfl
theorem Coded.mcount (w : NodeOp) (pfx : Bool) : Coded.Statement (.mcount w pfx) := rfl
theorem Coded.mov (w : NodeOp) : Coded.Statement (.mov w) := rfl
theorem Coded.sel (w : NodeOp) : Coded.Statement (.sel w) := rfl
theorem Coded.steer (w : NodeOp) (inv : Bool) : Coded.Statement (.steer w inv) := rfl
theorem Coded.merge (w : NodeOp) (alt : Bool) : Coded.Statement (.merge w alt) := rfl
theorem Coded.gate (w : NodeOp) : Coded.Statement (.gate w) := rfl
theorem Coded.dup (w : NodeOp) : Coded.Statement (.dup w) := rfl
theorem Coded.sink (w : NodeOp) : Coded.Statement (.sink w) := rfl
theorem Coded.const (w : NodeOp) (imm : BitVec 16) : Coded.Statement (.const w imm) := rfl
theorem Coded.seqgen (w : NodeOp) (eos : Bool) : Coded.Statement (.seqgen w eos) := rfl
theorem Coded.tagGet (w : NodeOp) : Coded.Statement (.tagGet w) := rfl
theorem Coded.tagSet (w : NodeOp) : Coded.Statement (.tagSet w) := rfl
theorem Coded.spawn (w : NodeOp) : Coded.Statement (.spawn w) := rfl
theorem Coded.jump (w : NodeOp) (block : BitVec 12) (entry : BitVec 4) : Coded.Statement (.jump w block entry) := rfl
theorem Coded.loop (w : NodeOp) (inv : Bool) : Coded.Statement (.loop w inv) := rfl
theorem Coded.retire (w : NodeOp) (free : Bool) : Coded.Statement (.retire w free) := rfl
theorem Coded.widFld (w : NodeOp) (fld : BitVec 3) : Coded.Statement (.widFld w fld) := rfl
theorem Coded.widLvl (w : NodeOp) (lvl : BitVec 3) : Coded.Statement (.widLvl w lvl) := rfl
theorem Coded.ctlS (w : NodeOp) (ncm1 own : BitVec 3) : Coded.Statement (.ctlS w ncm1 own) := rfl
theorem Coded.ctlP (w : NodeOp) (ncm1 : BitVec 3) (pm1 : BitVec 4) (own : BitVec 3) : Coded.Statement (.ctlP w ncm1 pm1 own) := rfl
theorem Coded.ctlQ (w : NodeOp) (ncm1 own : BitVec 3) : Coded.Statement (.ctlQ w ncm1 own) := rfl
theorem Coded.join (w : NodeOp) (one : Bool) (vbase : BitVec 5) (rbase nm1 : BitVec 4) : Coded.Statement (.join w one vbase rbase nm1) := rfl
theorem Coded.fenceSc (w : NodeOp) (scope : BitVec 3) : Coded.Statement (.fenceSc w scope) := rfl
theorem Coded.sluiceLocSnd (w : NodeOp) (scope : BitVec 3) (pair : BitVec 7) (dm1 : BitVec 4) : Coded.Statement (.sluiceLocSnd w scope pair dm1) := rfl
theorem Coded.sluiceXrSnd (w : NodeOp) (scope : BitVec 3) (pair : BitVec 7) (dm1 : BitVec 4) : Coded.Statement (.sluiceXrSnd w scope pair dm1) := rfl
theorem Coded.sluiceXrRcv (w : NodeOp) (scope : BitVec 3) (pair : BitVec 7) (dm1 : BitVec 4) : Coded.Statement (.sluiceXrRcv w scope pair dm1) := rfl
theorem Coded.censusUp (w : NodeOp) (imm : BitVec 16) : Coded.Statement (.censusUp w imm) := rfl
theorem Coded.censusDn (w : NodeOp) (imm : BitVec 16) : Coded.Statement (.censusDn w imm) := rfl
theorem Coded.spld (w : NodeOp) (ord : BitVec 2) (blk : Bool) (scope : BitVec 3) : Coded.Statement (.spld w ord blk scope) := rfl
theorem Coded.spst (w : NodeOp) (ord : BitVec 2) (blk : Bool) (scope : BitVec 3) : Coded.Statement (.spst w ord blk scope) := rfl
theorem Coded.spatom (w : NodeOp) (ord : BitVec 2) (scope : BitVec 3) (atop : BitVec 3) : Coded.Statement (.spatom w ord scope atop) := rfl
theorem Coded.spown (w : NodeOp) : Coded.Statement (.spown w) := rfl
theorem Coded.xlat (w : NodeOp) (acc : Bool) : Coded.Statement (.xlat w acc) := rfl
theorem Coded.gaddr (w : NodeOp) : Coded.Statement (.gaddr w) := rfl
theorem Coded.resume (w : NodeOp) : Coded.Statement (.resume w) := rfl
theorem Coded.balloc (w : NodeOp) : Coded.Statement (.balloc w) := rfl
theorem Coded.bfree (w : NodeOp) : Coded.Statement (.bfree w) := rfl
theorem Coded.bappend (w : NodeOp) : Coded.Statement (.bappend w) := rfl
theorem Coded.blook (w : NodeOp) : Coded.Statement (.blook w) := rfl
theorem Coded.btrim (w : NodeOp) : Coded.Statement (.btrim w) := rfl
theorem Coded.mma (w : NodeOp) : Coded.Statement (.mma w) := rfl
theorem Coded.mmaAcc (w : NodeOp) : Coded.Statement (.mmaAcc w) := rfl
theorem Coded.loadw (w : NodeOp) : Coded.Statement (.loadw w) := rfl
theorem Coded.swapw (w : NodeOp) : Coded.Statement (.swapw w) := rfl
theorem Coded.drain (w : NodeOp) : Coded.Statement (.drain w) := rfl
theorem Coded.zero (w : NodeOp) : Coded.Statement (.zero w) := rfl
theorem Coded.rowtag (w : NodeOp) (imm : BitVec 16) : Coded.Statement (.rowtag w imm) := rfl
theorem Coded.rprog (w : NodeOp) : Coded.Statement (.rprog w) := rfl
theorem Coded.pj (w : NodeOp) (psel : BitVec 3) : Coded.Statement (.pj w psel) := rfl
theorem Coded.pjp (w : NodeOp) : Coded.Statement (.pjp w) := rfl
theorem Coded.pjs (w : NodeOp) (aux : Bool) : Coded.Statement (.pjs w aux) := rfl
theorem Coded.pja (w : NodeOp) : Coded.Statement (.pja w) := rfl
theorem Coded.trap (w : NodeOp) (code : BitVec 16) : Coded.Statement (.trap w code) := rfl
theorem Coded.dtime (w : NodeOp) : Coded.Statement (.dtime w) := rfl
theorem Coded.tileid (w : NodeOp) : Coded.Statement (.tileid w) := rfl
theorem Coded.stat (w : NodeOp) : Coded.Statement (.stat w) := rfl
theorem Coded.seqAdd (d a b : BitVec 5) : Coded.Statement (.seqAdd d a b) := rfl
theorem Coded.seqSub (d a b : BitVec 5) : Coded.Statement (.seqSub d a b) := rfl
theorem Coded.seqAnd (d a b : BitVec 5) : Coded.Statement (.seqAnd d a b) := rfl
theorem Coded.seqOr (d a b : BitVec 5) : Coded.Statement (.seqOr d a b) := rfl
theorem Coded.seqXor (d a b : BitVec 5) : Coded.Statement (.seqXor d a b) := rfl
theorem Coded.seqShl (d a b : BitVec 5) : Coded.Statement (.seqShl d a b) := rfl
theorem Coded.seqShr (d a b : BitVec 5) : Coded.Statement (.seqShr d a b) := rfl
theorem Coded.seqSra (d a b : BitVec 5) : Coded.Statement (.seqSra d a b) := rfl
theorem Coded.seqMul (d a b : BitVec 5) : Coded.Statement (.seqMul d a b) := rfl
theorem Coded.seqMulh (d a b : BitVec 5) : Coded.Statement (.seqMulh d a b) := rfl
theorem Coded.seqSlt (d a b : BitVec 5) : Coded.Statement (.seqSlt d a b) := rfl
theorem Coded.seqSltu (d a b : BitVec 5) : Coded.Statement (.seqSltu d a b) := rfl
theorem Coded.seqMin (d a b : BitVec 5) : Coded.Statement (.seqMin d a b) := rfl
theorem Coded.seqMax (d a b : BitVec 5) : Coded.Statement (.seqMax d a b) := rfl
theorem Coded.seqDiv (d a b : BitVec 5) : Coded.Statement (.seqDiv d a b) := rfl
theorem Coded.seqRem (d a b : BitVec 5) : Coded.Statement (.seqRem d a b) := rfl
theorem Coded.seqAddi (d a : BitVec 5) (imm : BitVec 16) : Coded.Statement (.seqAddi d a imm) := rfl
theorem Coded.seqAndi (d a : BitVec 5) (imm : BitVec 16) : Coded.Statement (.seqAndi d a imm) := rfl
theorem Coded.seqOri (d a : BitVec 5) (imm : BitVec 16) : Coded.Statement (.seqOri d a imm) := rfl
theorem Coded.seqXori (d a : BitVec 5) (imm : BitVec 16) : Coded.Statement (.seqXori d a imm) := rfl
theorem Coded.seqShli (d a : BitVec 5) (sh : BitVec 6) : Coded.Statement (.seqShli d a sh) := rfl
theorem Coded.seqShri (d a : BitVec 5) (sh : BitVec 6) : Coded.Statement (.seqShri d a sh) := rfl
theorem Coded.seqSrai (d a : BitVec 5) (sh : BitVec 6) : Coded.Statement (.seqSrai d a sh) := rfl
theorem Coded.seqSlti (d a : BitVec 5) (imm : BitVec 16) : Coded.Statement (.seqSlti d a imm) := rfl
theorem Coded.seqInsh (d : BitVec 5) (imm : BitVec 16) : Coded.Statement (.seqInsh d imm) := rfl
theorem Coded.seqLd (d a : BitVec 5) (imm : BitVec 16) : Coded.Statement (.seqLd d a imm) := rfl
theorem Coded.seqSt (d a : BitVec 5) (imm : BitVec 16) : Coded.Statement (.seqSt d a imm) := rfl
theorem Coded.seqLdw (d a : BitVec 5) (imm : BitVec 16) : Coded.Statement (.seqLdw d a imm) := rfl
theorem Coded.seqStw (d a : BitVec 5) (imm : BitVec 16) : Coded.Statement (.seqStw d a imm) := rfl
theorem Coded.seqBeq (d a : BitVec 5) (imm : BitVec 16) : Coded.Statement (.seqBeq d a imm) := rfl
theorem Coded.seqBne (d a : BitVec 5) (imm : BitVec 16) : Coded.Statement (.seqBne d a imm) := rfl
theorem Coded.seqBlt (d a : BitVec 5) (imm : BitVec 16) : Coded.Statement (.seqBlt d a imm) := rfl
theorem Coded.seqBge (d a : BitVec 5) (imm : BitVec 16) : Coded.Statement (.seqBge d a imm) := rfl
theorem Coded.seqBltu (d a : BitVec 5) (imm : BitVec 16) : Coded.Statement (.seqBltu d a imm) := rfl
theorem Coded.seqBgeu (d a : BitVec 5) (imm : BitVec 16) : Coded.Statement (.seqBgeu d a imm) := rfl
theorem Coded.seqJ (off : BitVec 26) : Coded.Statement (.seqJ off) := rfl
theorem Coded.seqJal (off : BitVec 26) : Coded.Statement (.seqJal off) := rfl
theorem Coded.seqJr (a : BitVec 5) : Coded.Statement (.seqJr a) := rfl
theorem Coded.seqSget (d : BitVec 5) (n : BitVec 16) : Coded.Statement (.seqSget d n) := rfl
theorem Coded.seqSset (a : BitVec 5) (n : BitVec 16) : Coded.Statement (.seqSset a n) := rfl
theorem Coded.seqCset (c : BitVec 3) (pos : BitVec 7) (wm1 : BitVec 6) (a : BitVec 5) (chk : Bool) : Coded.Statement (.seqCset c pos wm1 a chk) := rfl
theorem Coded.seqCget (c : BitVec 3) (pos : BitVec 7) (wm1 : BitVec 6) (a : BitVec 5) (sx : Bool) : Coded.Statement (.seqCget c pos wm1 a sx) := rfl
theorem Coded.seqCclr (c : BitVec 3) (pos : BitVec 7) (wm1 : BitVec 6) : Coded.Statement (.seqCclr c pos wm1) := rfl
theorem Coded.seqCclrAll (c : BitVec 3) : Coded.Statement (.seqCclrAll c) := rfl
theorem Coded.seqCissue (c : BitVec 3) : Coded.Statement (.seqCissue c) := rfl
theorem Coded.seqTokGive (a : BitVec 5) (q : BitVec 3) : Coded.Statement (.seqTokGive a q) := rfl
theorem Coded.seqTokTake (d : BitVec 5) (h : Bool) (q : BitVec 3) : Coded.Statement (.seqTokTake d h q) := rfl
theorem Coded.seqTokPoll (d : BitVec 5) (q : BitVec 3) : Coded.Statement (.seqTokPoll d q) := rfl
theorem Coded.seqCfgLoad (a : BitVec 5) : Coded.Statement (.seqCfgLoad a) := rfl
theorem Coded.seqCfgWait (d : BitVec 5) : Coded.Statement (.seqCfgWait d) := rfl
theorem Coded.seqSeed (d a : BitVec 5) : Coded.Statement (.seqSeed d a) := rfl
theorem Coded.seqCensusWait (d : BitVec 5) : Coded.Statement (.seqCensusWait d) := rfl
theorem Coded.seqLaunchTail (a : BitVec 5) : Coded.Statement (.seqLaunchTail a) := rfl
theorem Coded.seqWfe (d : BitVec 5) (poll : Bool) : Coded.Statement (.seqWfe d poll) := rfl
theorem Coded.seqFence (scope : BitVec 3) : Coded.Statement (.seqFence scope) := rfl
theorem Coded.seqTrap (code : BitVec 16) : Coded.Statement (.seqTrap code) := rfl
theorem Coded.seqHalt : Coded.Statement (.seqHalt) := rfl
theorem Coded.boardFlow (h : CmdHead) (o : RideOps) : Coded.Statement (.boardFlow h o) := rfl
theorem Coded.boardSnap (h : CmdHead) (o : RideOps) : Coded.Statement (.boardSnap h o) := rfl
theorem Coded.gather (h : CmdHead) (rid : BitVec 8) (ort : BitVec 4) : Coded.Statement (.gather h rid ort) := rfl
theorem Coded.sieve (h : CmdHead) (o : SieveOps) : Coded.Statement (.sieve h o) := rfl
theorem Coded.fold (h : CmdHead) (o : RideOps) : Coded.Statement (.fold h o) := rfl
theorem Coded.kvride (h : CmdHead) (o : KvOps) : Coded.Statement (.kvride h o) := rfl
theorem Coded.alight (h : CmdHead) (rid : BitVec 8) : Coded.Statement (.alight h rid) := rfl
theorem Coded.updW (h : CmdHead) (o : UpdOps) : Coded.Statement (.updW h o) := rfl
theorem Coded.updAdd (h : CmdHead) (o : UpdOps) : Coded.Statement (.updAdd h o) := rfl
theorem Coded.updMax (h : CmdHead) (o : UpdOps) : Coded.Statement (.updMax h o) := rfl
theorem Coded.updScadd (h : CmdHead) (o : UpdOps) : Coded.Statement (.updScadd h o) := rfl
theorem Coded.copy (h : CmdHead) (o : CopyOps) : Coded.Statement (.copy h o) := rfl
theorem Coded.pagein (h : CmdHead) (o : PageOps) : Coded.Statement (.pagein h o) := rfl
theorem Coded.pageout (h : CmdHead) (o : PageOps) : Coded.Statement (.pageout h o) := rfl
theorem Coded.bseqNew (h : CmdHead) (o : BseqOps) : Coded.Statement (.bseqNew h o) := rfl
theorem Coded.bseqRestore (h : CmdHead) (o : BseqOps) : Coded.Statement (.bseqRestore h o) := rfl
theorem Coded.bseqAddg (h : CmdHead) (o : BseqOps) : Coded.Statement (.bseqAddg h o) := rfl
theorem Coded.bdrop (h : CmdHead) (seqid : BitVec 20) (stack : BitVec 5) : Coded.Statement (.bdrop h seqid stack) := rfl
theorem Coded.bindStart (h : CmdHead) (o : BindOps) : Coded.Statement (.bindStart h o) := rfl
theorem Coded.bindResume (h : CmdHead) (o : BindOps) : Coded.Statement (.bindResume h o) := rfl
theorem Coded.unbind (h : CmdHead) : Coded.Statement (.unbind h) := rfl
theorem Coded.eos (h : CmdHead) (ort : BitVec 4) (tag : Tag) : Coded.Statement (.eos h ort tag) := rfl
theorem Coded.tempo (h : CmdHead) (round : BitVec 32) (rmask : BitVec 16) : Coded.Statement (.tempo h round rmask) := rfl
theorem Coded.drainCmd (h : CmdHead) (rmask : BitVec 16) : Coded.Statement (.drainCmd h rmask) := rfl
theorem Coded.fenceE (h : CmdHead) (eng : Bool) : Coded.Statement (.fenceE h eng) := rfl
theorem Coded.cfgld (h : CmdHead) (block : BitVec 12) : Coded.Statement (.cfgld h block) := rfl
theorem Coded.statc (h : CmdHead) (reach : BitVec 4) (seg : BitVec 24) : Coded.Statement (.statc h reach seg) := rfl
theorem Coded.launch (p : Packet) : Coded.Statement (.launch p) := rfl
theorem Coded.bindPacket (tq : BitVec 16) (ticket : BitVec 64) (ops : BitVec 96) (region : BitVec 8) (tile : BitVec 16) : Coded.Statement (.bindPacket tq ticket ops region tile) := rfl
theorem Coded.load (addr : BitVec 64) (len : BitVec 32) (ctx : BitVec 16) : Coded.Statement (.load addr len ctx) := rfl
theorem Coded.unload (handle : BitVec 32) : Coded.Statement (.unload handle) := rfl
theorem Coded.qset (tq ctx : BitVec 16) (ring : BitVec 64) (entries : BitVec 32) (flags : BitVec 8) : Coded.Statement (.qset tq ctx ring entries flags) := rfl
theorem Coded.qsetReset (tq ctx : BitVec 16) (ring : BitVec 64) (entries : BitVec 32) (flags : BitVec 8) : Coded.Statement (.qsetReset tq ctx ring entries flags) := rfl
theorem Coded.ctxset (ctx : BitVec 16) (slice : BitVec 32) (rects : List (BitVec 32)) : Coded.Statement (.ctxset ctx slice rects) := rfl
theorem Coded.reachsetStage (stack pc slot : BitVec 8) (entry : BitVec 128) : Coded.Statement (.reachsetStage stack pc slot entry) := rfl
theorem Coded.reachsetCommit (stack pc slot : BitVec 8) (entry : BitVec 128) : Coded.Statement (.reachsetCommit stack pc slot entry) := rfl
theorem Coded.sched (policy : BitVec 8) : Coded.Statement (.sched policy) := rfl
theorem Coded.kill (ctx : BitVec 16) : Coded.Statement (.kill ctx) := rfl
theorem Coded.poolsetCreate (ctx : BitVec 16) (stack : BitVec 8) (pool : BitVec 16) (npages : BitVec 32) (vpn : BitVec 64) : Coded.Statement (.poolsetCreate ctx stack pool npages vpn) := rfl
theorem Coded.poolsetDestroy (ctx : BitVec 16) (stack : BitVec 8) (pool : BitVec 16) (npages : BitVec 32) (vpn : BitVec 64) : Coded.Statement (.poolsetDestroy ctx stack pool npages vpn) := rfl
theorem Coded.keysetLoad (ctx : BitVec 16) (stack slot : BitVec 8) (kref : BitVec 32) : Coded.Statement (.keysetLoad ctx stack slot kref) := rfl
theorem Coded.keysetErase (ctx : BitVec 16) (stack slot : BitVec 8) (kref : BitVec 32) : Coded.Statement (.keysetErase ctx stack slot kref) := rfl
theorem Coded.keysetPolicy (ctx : BitVec 16) (stack slot : BitVec 8) (kref : BitVec 32) : Coded.Statement (.keysetPolicy ctx stack slot kref) := rfl
theorem Coded.ctxreachMap (ctx : BitVec 16) (vpn : BitVec 64) (npages first ffirst : BitVec 32) (fpool : BitVec 16) (crn flags : BitVec 8) : Coded.Statement (.ctxreachMap ctx vpn npages first ffirst fpool crn flags) := rfl
theorem Coded.ctxreachUnmap (ctx : BitVec 16) (vpn : BitVec 64) (npages : BitVec 32) : Coded.Statement (.ctxreachUnmap ctx vpn npages) := rfl
theorem Coded.ctxreachRole (ctx : BitVec 16) (crn role : BitVec 8) : Coded.Statement (.ctxreachRole ctx crn role) := rfl
theorem Coded.ctxreachFarpool (ctx : BitVec 16) (fpool : BitVec 16) (fpages : BitVec 32) (fep fbase : BitVec 64) : Coded.Statement (.ctxreachFarpool ctx fpool fpages fep fbase) := rfl
theorem Coded.seqgenToken : Coded.Statement (.seqgenToken) := rfl
theorem Coded.ctlPermit : Coded.Statement (.ctlPermit) := rfl
theorem Coded.ctlDone : Coded.Statement (.ctlDone) := rfl
theorem Coded.ownerApply : Coded.Statement (.ownerApply) := rfl
theorem Coded.spOwnUpdate : Coded.Statement (.spOwnUpdate) := rfl
theorem Coded.spQRequest : Coded.Statement (.spQRequest) := rfl
theorem Coded.translationFill : Coded.Statement (.translationFill) := rfl
theorem Coded.invalidationComplete : Coded.Statement (.invalidationComplete) := rfl
theorem Coded.blockEngineServe : Coded.Statement (.blockEngineServe) := rfl
theorem Coded.tableRestore : Coded.Statement (.tableRestore) := rfl
theorem Coded.mxMma : Coded.Statement (.mxMma) := rfl
theorem Coded.mxMmaAcc : Coded.Statement (.mxMmaAcc) := rfl
theorem Coded.mxLoadw : Coded.Statement (.mxLoadw) := rfl
theorem Coded.mxSwapw : Coded.Statement (.mxSwapw) := rfl
theorem Coded.mxDrain : Coded.Statement (.mxDrain) := rfl
theorem Coded.mxZero : Coded.Statement (.mxZero) := rfl
theorem Coded.mxMarker : Coded.Statement (.mxMarker) := rfl
theorem Coded.pjInToken : Coded.Statement (.pjInToken) := rfl
theorem Coded.pjAdjToken : Coded.Statement (.pjAdjToken) := rfl
theorem Coded.pjProject : Coded.Statement (.pjProject) := rfl
theorem Coded.pjAdjoint : Coded.Statement (.pjAdjoint) := rfl
theorem Coded.pjMarker : Coded.Statement (.pjMarker) := rfl
theorem Coded.tokenDeliver : Coded.Statement (.tokenDeliver) := rfl
theorem Coded.channelDecode : Coded.Statement (.channelDecode) := rfl
theorem Coded.scaleToken : Coded.Statement (.scaleToken) := rfl
theorem Coded.cissueVerdict : Coded.Statement (.cissueVerdict) := rfl
theorem Coded.tkqTake : Coded.Statement (.tkqTake) := rfl
theorem Coded.fifoTake : Coded.Statement (.fifoTake) := rfl
theorem Coded.eventEnqueue : Coded.Statement (.eventEnqueue) := rfl
theorem Coded.commandStart : Coded.Statement (.commandStart) := rfl
theorem Coded.commandRetire : Coded.Statement (.commandRetire) := rfl
theorem Coded.kvrideAdmit : Coded.Statement (.kvrideAdmit) := rfl
theorem Coded.updTokenTake : Coded.Statement (.updTokenTake) := rfl
theorem Coded.addressGenerate : Coded.Statement (.addressGenerate) := rfl
theorem Coded.rideReserve : Coded.Statement (.rideReserve) := rfl
theorem Coded.rideCommit : Coded.Statement (.rideCommit) := rfl
theorem Coded.riderBoard : Coded.Statement (.riderBoard) := rfl
theorem Coded.segmentVisit : Coded.Statement (.segmentVisit) := rfl
theorem Coded.gatherRequest : Coded.Statement (.gatherRequest) := rfl
theorem Coded.postingAccept : Coded.Statement (.postingAccept) := rfl
theorem Coded.eddyDivert : Coded.Statement (.eddyDivert) := rfl
theorem Coded.resumeToken : Coded.Statement (.resumeToken) := rfl
theorem Coded.firmwareTierEvent : Coded.Statement (.firmwareTierEvent) := rfl
theorem Coded.roundMark : Coded.Statement (.roundMark) := rfl
theorem Coded.tempoCommit : Coded.Statement (.tempoCommit) := rfl
theorem Coded.phaseEnd : Coded.Statement (.phaseEnd) := rfl
theorem Coded.configurationComplete : Coded.Statement (.configurationComplete) := rfl
theorem Coded.entryDelivery : Coded.Statement (.entryDelivery) := rfl
theorem Coded.jumpDelivery : Coded.Statement (.jumpDelivery) := rfl
theorem Coded.kernelRetire : Coded.Statement (.kernelRetire) := rfl
theorem Coded.admissionDecision : Coded.Statement (.admissionDecision) := rfl
theorem Coded.sliceExpiry : Coded.Statement (.sliceExpiry) := rfl
theorem Coded.preempt : Coded.Statement (.preempt) := rfl
theorem Coded.trapRecordEnter : Coded.Statement (.trapRecordEnter) := rfl
theorem Coded.reachTableApply : Coded.Statement (.reachTableApply) := rfl
theorem Coded.qres : Coded.Statement (.qres) := rfl
theorem Coded.qcommit : Coded.Statement (.qcommit) := rfl
theorem Coded.registerWrite : Coded.Statement (.registerWrite) := rfl
theorem Coded.tqactResume : Coded.Statement (.tqactResume) := rfl
theorem Coded.tqactNext : Coded.Statement (.tqactNext) := rfl
theorem Coded.tqactKill : Coded.Statement (.tqactKill) := rfl
theorem Coded.linkReplay : Coded.Statement (.linkReplay) := rfl
theorem Coded.repairBoundary : Coded.Statement (.repairBoundary) := rfl
theorem Coded.linkFenced : Coded.Statement (.linkFenced) := rfl
theorem Coded.bankPark : Coded.Statement (.bankPark) := rfl
theorem Coded.bankTest : Coded.Statement (.bankTest) := rfl
theorem Coded.bankUnpark : Coded.Statement (.bankUnpark) := rfl
theorem Coded.cfgScrub : Coded.Statement (.cfgScrub) := rfl
theorem Coded.ptpLock : Coded.Statement (.ptpLock) := rfl
theorem Coded.ptpLockLoss : Coded.Statement (.ptpLockLoss) := rfl
theorem Coded.featureAccept : Coded.Statement (.featureAccept) := rfl
theorem Coded.getMeasurements : Coded.Statement (.getMeasurements) := rfl
theorem Coded.keyExchange : Coded.Statement (.keyExchange) := rfl
theorem Coded.firmwareImage : Coded.Statement (.firmwareImage) := rfl
theorem Coded.canaryCommit : Coded.Statement (.canaryCommit) := rfl
theorem Coded.canaryRevert : Coded.Statement (.canaryRevert) := rfl
theorem Coded.lcChange : Coded.Statement (.lcChange) := rfl
theorem Coded.reset : Coded.Statement (.reset) := rfl
theorem Coded.wipeComplete : Coded.Statement (.wipeComplete) := rfl
theorem Coded.thermalTrip : Coded.Statement (.thermalTrip) := rfl
theorem Coded.seqIllegalFetch : Coded.Statement (.seqIllegalFetch) := rfl
theorem Coded.networkAcknowledgement : Coded.Statement (.networkAcknowledgement) := rfl

end Sys2Proof.Laws
end

