-- ==== Sys2Proof/Laws/Threads.lean ====
section
/-! SUPPORT. What the entry machinery can do, once: the bytes of a parked entry (R243), what a write into a carve-out leaves, and what an entry port's filling changes (R240, R241). -/

namespace Sys2Proof.Machine

/-- A parked entry is 128 bytes (R243). -/
@[simp] theorem parkedBytes_length (p : Parked) : (parkedBytes p).length = 128 := by simp [parkedBytes, Word.toBytes]

/-- A write into a region's carve-out keeps the canonical form. -/
theorem carveWrite_wf (s : State) (r a : Nat) (bs : List Byte) (h : Mem.wf s.scratch = true) : Mem.wf (carveWrite s r a bs).scratch = true :=
  Mem.writeN_wf bs _ _ h

/-- It leaves every byte outside what it writes. -/
theorem carveWrite_out (s : State) (r a : Nat) (bs : List Byte) (x : Nat)
    (h : x < regionTile (s.region r) 65 * 524288 + a ∨ regionTile (s.region r) 65 * 524288 + a + bs.length ≤ x) :
    Mem.read (carveWrite s r a bs).scratch x = Mem.read s.scratch x := Mem.read_writeN_out bs _ _ _ h

/-- An entry port's filling finds the latch full and does nothing, raises the census trap of its slot once, or delivers the token and removes it from where it waited. -/
theorem entryPut_cases (s : State) (r : Nat) (pt : Port) (t : Tok) (gone : Region → Region) :
    let k := regionTile (s.region r) pt.tile
    let d : Int := if t.tt.isMarker then 0 else 1
    ((s.slot k pt.slot).at_ pt.pos ≠ none ∧ entryPut s r pt t gone = s)
    ∨ (∃ c, (s.slot k pt.slot).at_ pt.pos = none ∧ censusTrap (s.region r).census d = some c
        ∧ entryPut s r pt t gone = if (s.slot k pt.slot).stopped then s else raiseTrap s (slotSite s k pt.slot) c (BitVec.ofInt 64 (s.region r).census))
    ∨ ((s.slot k pt.slot).at_ pt.pos = none ∧ censusTrap (s.region r).census d = none
        ∧ ∃ u, SentFrom k (censusAdd s r d) u ∧ entryPut s r pt t gone = u.setRegion r (gone (u.region r))) := by
  intro k d
  by_cases h : (s.slot k pt.slot).at_ pt.pos = none
  · cases c : censusTrap (s.region r).census d with
    | some x => exact .inr (.inl ⟨x, h, rfl, by simp [entryPut, k, d] at h c ⊢; simp [h, c]⟩)
    | none => exact .inr (.inr ⟨h, rfl, _, sentFrom_deliver _ k (.latch pt.pos (BitVec.ofNat 5 pt.slot)) { tok := t }, by simp [entryPut, k, d] at h c ⊢; simp [h, c]⟩)
  · exact .inl ⟨h, by simp [entryPut, k] at h ⊢; simp [h]⟩

end Sys2Proof.Machine
end

