-- ==== Sys2Proof/Laws/Turns.lean ====
section
/-! SUPPORT. Whose turn it is at a node that serves one requester at a time: of those that it may serve now, the longest-ready one's. -/

namespace Sys2Proof.Machine

/-- Where nobody is noted as ready, anyone who is ready has its turn. -/
@[simp] theorem turnOf_nil (may : Nat → Bool) (n : Nat) : turnOf [] may n = true := rfl

/-- The longest-ready requester has its turn. -/
@[simp] theorem turnOf_head (may : Nat → Bool) (n : Nat) (l : List Nat) (h : may n = true) : turnOf (n :: l) may n = true := by simp [turnOf, h]

/-- One that may not be served now holds nobody up. -/
theorem turnOf_skip {may : Nat → Bool} {m n : Nat} {l : List Nat} (h : may m = false) (ne : m ≠ n) : turnOf (m :: l) may n = turnOf l may n := by
  unfold turnOf
  rw [List.find?_cons_of_neg (by simp [h])]
  cases l.find? may <;> simp [ne.symm]

/-- One that has become ready since the line was noted has its turn. -/
theorem turnOf_new {may : Nat → Bool} {l : List Nat} {n : Nat} (h : n ∉ l) : turnOf l may n = true := by
  unfold turnOf
  split <;> simp [h]

/-- One that stands behind another that may be served waits. -/
theorem turnOf_behind {may : Nat → Bool} {m n : Nat} {l : List Nat} (may_m : may m = true) (h : m ≠ n) (hn : n ∈ l) : turnOf (m :: l) may n = false := by
  simp [turnOf, h, hn, may_m]

end Sys2Proof.Machine
end

