-- ==== Sys2Proof/Tests/Build.lean ====
section
/-! SUPPORT. Small states for the tests: one agent of the placed launch at one instruction, with the latches, the registers and the units that a test names. -/

namespace Sys2Proof.Tests

set_option Elab.async false

open Sys2Proof.Machine

/-- The state after a step or an instruction, or the given one where it stops. -/
def after (o : Host.Outcome State Fault Refusal) (s : State) : State :=
  match o with
  | .next t => t
  | _ => s

/-- Whether an instruction answers a next state that passes a test. -/
def nextIs (o : Host.Outcome State Fault Refusal) (p : State → Bool) : Bool :=
  match o with
  | .next t => p t
  | _ => false

/-- What `nextIs` says. -/
theorem nextIs_spec {o : Host.Outcome State Fault Refusal} {p : State → Bool} (h : nextIs o p = true) : ∃ t, o = .next t ∧ p t = true := by
  cases o with
  | next t => exact ⟨t, rfl, h⟩
  | fault _ => cases h
  | refused _ => cases h

/-! ### A node -/

/-- The common fields of a test's node: TGA is the left latch of slot 1, TGB none. -/
def op (ty : Ty) : NodeOp := { ty := ty, tga := .latch .left 1, tgb := .none, lk := false, rk := false, pn := false, pe := false, rm := .rn, sat := false, pd := false }

/-- The same with a third operand (PD). -/
def op3 (ty : Ty) : NodeOp := { op ty with pd := true }

/-- A node with targets of its own. -/
def opTo (ty : Ty) (a b : Tgt) : NodeOp := { op ty with tga := a, tgb := b }

/-- The word of a node instruction. -/
def wordOf (i : Instr) : Word64 := (encodeNode i).getD 0

/-- The tile a node instruction is placed on. -/
def tileFor (i : Instr) : TileKey := firstTile (firstKind (formOf i).opc)

/-- The region of the placed launch. -/
def reg : Nat := regionId 1 0

/-- A node instruction in slot 0 of a tile of its kind, in focus, with the latches given; slots 1 and 3 are empty. -/
def slotState (i : Instr) (sl : Slot) : State :=
  let s := placeLaunch State.reset
  let k := tileFor i
  { s with focus := .slot k 0
           tiles := [(k, { kind := firstKind (formOf i).opc, region := some reg, rel := k % 2048 - 4, slots := [(0, { sl with word := wordOf i }), (1, {}), (3, {})] })] }

/-- The latches of a node that fires on data: a token in each position its form enables. -/
def fullSlot (i : Instr) : Slot :=
  let tok := fun (p : Pos) => if (enabledPos (formOf i)).contains p then some ({} : Tok) else none
  { left := tok .left, right := tok .right, pred := tok .pred }

/-- The state of a node that may fire. -/
def fullState (i : Instr) : State := slotState i (fullSlot i)

/-- Whether a slot may act (`SlotAt`). -/
def slotReady (s : State) (k : TileKey) (n : Nat) : Bool :=
  s.focus == .slot k n && (s.tile k).slots.has n && s.tileRuns k && !(s.slot k n).stopped && (s.slot k n).out.isEmpty

/-- Whether a node may fire on its operands (`NodeAt`). -/
def nodeReady (i : Instr) (s : State) (k : TileKey) (n : Nat) : Bool :=
  slotReady s k n && gateOf (formOf i) (s.slot k n) == .go (opndsOf (formOf i) (s.slot k n)) && bothFree s k n (formOf i)

/-- A slot that is ready satisfies `SlotAt`. -/
theorem slotAt_of_ready {s : State} {k : TileKey} {n : Nat} (h : slotReady s k n = true) : SlotAt s k n := by
  simp only [slotReady, Bool.and_eq_true, Bool.not_eq_true', List.isEmpty_iff] at h
  exact ⟨by simpa using h.1.1.1.1, h.1.1.1.2, h.1.1.2, h.1.2, h.2⟩

/-- A node that is ready satisfies `NodeAt` with the operands it holds. -/
theorem nodeAt_of_ready {i : Instr} {s : State} {k : TileKey} {n : Nat} (h : nodeReady i s k n = true) :
    NodeAt s k n (formOf i) (opndsOf (formOf i) (s.slot k n)) := by
  simp only [nodeReady, Bool.and_eq_true] at h
  exact ⟨slotAt_of_ready h.1.1, by simpa using h.1.2, h.2⟩

/-- Whether a node instruction fires in its `fullState`. -/
def fires (i : Instr) : Bool := i.wellFormed && nodeReady i (fullState i) (tileFor i) 0

/-- A node that fires meets the hypothesis of the statements about nodes. -/
theorem fires_spec {i : Instr} (h : fires i = true) : i.wellFormed = true ∧ ∃ s k n o, NodeAt s k n (formOf i) o := by
  simp only [fires, Bool.and_eq_true] at h
  exact ⟨h.1, _, _, _, _, nodeAt_of_ready h.2⟩

/-! ### A sequencer -/

/-- The tile of the placed sequencer. -/
def seqTile : TileKey := firstTile .ct

/-- The placed sequencer in focus, with registers of its own. -/
def seqState (q : Seq) : State :=
  let s := State.reset.withFetchWord 32 0
  { s with agenda := [], focus := .seq seqTile, seqs := [(seqTile, { q with region := reg, running := true })] }

/-- Whether the sequencer in focus may issue (`SeqAt`). -/
def seqReady (s : State) : Bool :=
  s.focus == .seq seqTile && s.seqs.has seqTile && seqRuns s seqTile && decide ((s.seq seqTile).pc.toNat < 65536) && ramBad s seqTile (s.seq seqTile).pc.toNat 4 == none

/-- A sequencer that is ready satisfies `SeqAt`. -/
theorem seqAt_of_ready {s : State} (h : seqReady s = true) : SeqAt s seqTile := by
  simp only [seqReady, Bool.and_eq_true, beq_iff_eq, decide_eq_true_eq] at h
  exact ⟨h.1.1.1.1, h.1.1.1.2, h.1.1.2, h.1.2, h.2⟩

/-! ### A unit of a tile -/

/-- One tile of the placed launch in focus. -/
def tileState (k : TileKey) (t : Tile) : State :=
  let s := placeLaunch State.reset
  { s with focus := .tile k, tiles := [(k, { t with region := some reg })] }

/-! ### A command -/

/-- The common fields of a test's command at PT 2 of F0, tile 4. -/
def head : CmdHead := { acq := false, rel := false, gv := false, tk := false, scope := 0, gvq := 0, tkq := 0, die := 0, index := 2 }

/-- A command that has started at the station its word names, in focus as command 1. -/
def cmdState (i : Instr) : State :=
  let w := (encodeCmd i).getD 0
  let s := placeLaunch State.reset
  { s with focus := .cmd 1, nextCmd := 1
           cmds := [(1, { word := w, station := stationOf w, origin := .seq seqTile 0, launch := 1, ctx := 1, region := reg, phase := .started })] }

/-- Whether the command in focus may act (`CmdAt`). -/
def cmdReady (s : State) (id : Nat) : Bool :=
  s.focus == .cmd id && s.cmds.has id && (s.cmd id).phase == .started && !(s.cmd id).admitted && !(s.cmd id).stopped && cmdLive s (s.cmd id)

/-- A command that is ready satisfies `CmdAt`. -/
theorem cmdAt_of_ready {s : State} {id : Nat} (h : cmdReady s id = true) : CmdAt s id := by
  simp only [cmdReady, Bool.and_eq_true, beq_iff_eq, Bool.not_eq_true'] at h
  exact ⟨h.1.1.1.1.1, h.1.1.1.1.2, h.1.1.1.2, h.1.1.2, h.1.2, h.2⟩

end Sys2Proof.Tests
end

