-- ==== Sys2Proof/Tests/NodeWitnesses.lean ====
section
/-! SUPPORT. For each statement about nodes, states and operands that meet its hypotheses, clause by clause. -/

namespace Sys2Proof.Tests

set_option Elab.async false

open Sys2Proof.Machine

/-! ### Arithmetic nodes: `NodeAt` holds of each instruction (`fires_spec`) -/

theorem witness_NodeIntegerElements :
    [Instr.add (op .i32), .sub (op .i16x2), .mul (op .i8x4), .mulh (op .u32), .madd (op3 .i32), .div (op .u32), .rem (op .i32), .neg (op .i16x2), .abs (op .i8x4),
     .min (op .u32), .max (op .i32), .addi (op .i32) 0x8000].all fires = true := by decide +kernel

theorem witness_NodeLogicAndShifts :
    [Instr.icmp (op .i32) 5, .and (op .pred), .or (op .i32), .xor (op .pred), .not (op .pred), .andn (op .i32), .shl (op .i32), .shr (op .i32), .sra (op .i32),
     .rotl (op .i32), .clz (op .i32), .popc (op .i32), .bfx (op .i32) true 31 0, .bfi (op .i32) 0 31].all fires = true := by decide +kernel

/-- The exact results at which the rounding clauses are met: a value that is a number of the format, one half way between two, and one beyond the format. -/
theorem witness_NodeFloatElements_rounding :
    (0 : Int) ≤ 0 + (200 : Nat) ∧ 0 ≤ Fp.f32.emin + (200 : Nat) ∧ 0 ≤ Fp.bf16.emin + (200 : Nat)
    ∧ ([(0x3F800000, 2 ^ 24, -24), (0x3F800000, 2 ^ 24 + 1, -24), (0x3F800001, 2 ^ 25 + 5, -25)] : List (Nat × Nat × Int)).all (fun x =>
        let mag := fun (p : Nat) => (p % 2 ^ 23 + 2 ^ 23) * 2 ^ ((Fp.f32.emin + 200).toNat + (p / 2 ^ 23 - 1))
        let v := x.2.1 * 2 ^ (x.2.2 + 200).toNat
        x.2.1 != 0 && decide (x.1 < Fp.f32.infBits) && decide (mag x.1 ≤ v) && decide (v < mag (x.1 + 1))) = true
    ∧ (let mag := fun (p : Nat) => (p % 2 ^ 23 + 2 ^ 23) * 2 ^ ((Fp.f32.emin + 200).toNat + (p / 2 ^ 23 - 1))
       mag Fp.f32.infBits ≤ 1 * 2 ^ ((128 : Int) + 200).toNat)
    ∧ Fp.f32.read 0x3F800000 = .fin false (2 ^ 23) (-23) ∧ Fp.bf16.read 0xBF80 = .fin true (2 ^ 7) (-7) ∧ (0 : Int) ≤ -23 + (200 : Nat) := by decide +kernel

theorem witness_NodeFloatElements :
    [Instr.fadd (op .f32), .fsub (op .bf16x2), .fmul (op .f32), .fma (op3 .bf16x2), .fms (op3 .f32), .fnma (op3 .f32), .fmin (op .bf16x2), .fmax (op .f32), .fabs (op .f32),
     .fneg (op .bf16x2), .fcpsgn (op .f32), .fdiv (op .f32), .fsqrt (op .f32), .frcp (op .f32), .frsqrt (op .f32), .exp2f (op .f32), .log2f (op .f32), .ldx (op .f32)].all fires = true := by
  decide +kernel

theorem witness_NodeFloatTestsAndConversions :
    [Instr.fcmp (op .f32) 6, .fclass (op .f32) 0x3FF, .rndi (op .f32), .cvt (op .ctl) 2 3, .cvt (op .ctl) 3 2, .cvt { op .ctl with sat := true } 2 9, .cvt (op .ctl) 4 2, .cvt (op .ctl) 9 1,
     .cvt (op .ctl) 2 5, .cvt (op .ctl) 2 7, .cvt (op .ctl) 5 2, .cvt (op .ctl) 7 2].all fires = true := by decide +kernel

/-- Operands of each class that the special values name; the powers of two. -/
theorem witness_NodeFloatElements_values :
    Fp.f32.read 0x7FC00001 = .nan ∧ Fp.f32.read 0x7F800000 = .inf false ∧ Fp.f32.read 0xFF800000 = .inf true ∧ Fp.f32.read 0x80000000 = .fin true 0 (-149)
    ∧ Fp.f32.read 0 = .fin false 0 (-149) ∧ Fp.f32.read 0xBF800000 = .fin true (2 ^ 23) (-23) ∧ Fp.f32.read 1 = .fin false (2 ^ 0) (-149) ∧ Fp.f32.read 0x7F000000 = .fin false (2 ^ 23) 104
    ∧ 0x3F800000 < 0xBF800001 % 2 ^ 31 ∧ 0xFF7FFFFF % 2 ^ 31 < 0x7F800000 := by decide +kernel

/-- Blocks to encode: with a NaN, of zeros, of subnormals, with an infinity, of numbers; scale words of a NaN block and of others. -/
theorem witness_NodeFloatTestsAndConversions_blocks :
    ([0x7FC00001, 0x80000000, 0x80000001, 0xFF800000, 0x3FC00000].all fun y =>
      let xs := y :: List.replicate 15 (0x80000000 : Nat)
      xs.length == 16 && xs.all (fun x => decide (x < 2 ^ 32)) && (xs.any (fun x => decide (0x7F800000 < x % 2 ^ 31)) == (y == 0x7FC00001))) = true
    ∧ magOf 1 ≠ 0 ∧ magOf 1 < 2 ^ 23 ∧ 2 ^ 23 ≤ magOf 0x3FC00000 ∧ magOf 0 = 0 ∧ (0xFF00 : BitVec 16).toNat / 256 = 255 ∧ (0x81C8 : BitVec 16).toNat / 256 ≠ 255 := by decide +kernel

theorem witness_NodeElementMoves :
    [Instr.pack (op .ctl) false, .pack (op .ctl) true, .unpack (op .ctl) true false, .unpack (op .ctl) false true, .perm (op3 .ctl), .bcast (op .ctl) 15, .lidx (op .i32) 0xFFFF,
     .mcount (op .pred) true].all fires = true := by decide +kernel

theorem witness_NodeReductions :
    [Instr.rsum (op .i32), .rsum (op .f32), .rmin (op .u32), .rmin (op .f32), .rmax (op .i32), .rmax (op .f32), .psum (op .u32), .psum (op .f32), .pmin (op .i32), .pmin (op .f32),
     .pmax (op .u32), .pmax (op .f32)].all fires = true := by decide +kernel

/-! ### Firing, markers and traps -/

/-- A firing of an `add` whose TGA names the left latch of slot 31 and whose left latch is sticky. -/
theorem witness_FiringConsumesAndDelivers :
    let f := formOf (.add { op .i32 with tga := .latch .left 31, lk := true })
    (∀ p : Pos, f.op.tga ≠ .latch p (BitVec.ofNat 5 0) ∧ f.op.tgb ≠ .latch p (BitVec.ofNat 5 0))
    ∧ (let g := (formOf (.unpack { op .ctl with tga := .latch .right 31, tgb := .latch .left 31 } true false)).op
       g.tga = .latch .right 31 ∧ g.tgb = .latch .left 31)
    ∧ stickyAt ((State.reset.slot 7 31).word) .left = false
    ∧ (((tileState 7 { kind := .vx, routes := [(15, { hops := [none] })] }).tile 7).routes.getD (15 : BitVec 4).toNat {}).hops = none :: [] ∧ 0x40 ≤ (0x47 : BitVec 7).toNat ∧ (0x40 : BitVec 7).toNat ≤ 0x47 := by
  refine ⟨fun p => by cases p <;> decide, by decide +kernel, ?_⟩
  decide +kernel

/-- A token of a type. -/
def tt (x : TT) : Tok := { tt := x }

/-- An `add` with two tokens. -/
def addSlot (l r : Option Tok) : Slot := { left := l, right := r }

theorem witness_NodeTokenTypes :
    let f := formOf (.add (op .i32))
    let full := fun (sl : Slot) => (enabledPos f).filterMap sl.at_
    let firm := fun (sl : Slot) => (firmPos f).filterMap sl.at_
    (full (addSlot (some {}) none)).length < (enabledPos f).length
    ∧ (full (addSlot (some (tt .resume)) (some {}))).any (fun t => t.tt == .resume) = true
    ∧ (full (addSlot (some {}) (some (tt .fault)))).any (fun t => t.tt == .fault) = true
    ∧ (firm (addSlot (some {}) (some (tt .control)))).all (fun t => !t.tt.isMarker) = true
    ∧ firm (addSlot (some (tt .eos)) (some (tt .eos))) = [tt .eos, tt .eos]
    ∧ firm (addSlot (some (tt .eos)) (some {})) = [tt .eos, {}] := by decide +kernel

theorem witness_NodeMarkersAndTraps :
    let i := Instr.add (op .i32)
    let s := fun (sl : Slot) => slotState i sl
    let k := tileFor i
    let at_ := fun (sl : Slot) => slotReady (s sl) k 0 = true
    (at_ (addSlot (some (tt .tempo)) (some (tt .tempo))) ∧ gateOf (formOf i) ((s (addSlot (some (tt .tempo)) (some (tt .tempo)))).slot k 0) = .forward (tt .tempo)
      ∧ bothFree (s (addSlot (some (tt .tempo)) (some (tt .tempo)))) k 0 (formOf i) = true)
    ∧ (at_ (addSlot (some (tt .tempo)) (some {})) ∧ gateOf (formOf i) ((s (addSlot (some (tt .tempo)) (some {}))).slot k 0) = .trap 0x01)
    ∧ (at_ (addSlot (some {}) none) ∧ gateOf (formOf i) ((s (addSlot (some {}) none)).slot k 0) = .wait) := by decide +kernel

/-! ### Flow nodes -/

theorem witness_NodeMoves :
    [Instr.mov (op .ctl), .sel (op3 .ctl), .tagSet (op .ctl), .const (op .i32) 0x8000, .const (op .u32) 0xFFFF, .const (op .f32) 0x3F80, .tagGet (op .i32), .widFld (op .u32) 5,
     .widLvl (op .a64) 6, .dtime (op .a64), .tileid (op .u32)].all fires = true := by decide +kernel

/-- A steering node with `r` in its right latch. -/
def steerState (i : Instr) (r : Payload) : State := slotState i { left := some { seq := 255 }, right := some { pay := r } }

theorem witness_NodeMovesAndSteering :
    [Instr.steer (opTo .ctl (.latch .left 1) (.latch .left 3)) false, .steer (opTo .ctl (.latch .left 1) (.latch .left 3)) true, .loop (op .ctl) false, .loop (op .ctl) true].all (fun i =>
      [(0 : Payload), 1].all fun r =>
        let s := steerState i r
        let k := tileFor i
        slotReady s k 0 && gateOf (formOf i) (s.slot k 0) == .go (opndsOf (formOf i) (s.slot k 0))
        && freeAfter s k 0 (formOf i) (formOf i).op.tga && freeAfter s k 0 (formOf i) (formOf i).op.tgb) = true := by decide +kernel

/-- A node with a token in its left latch, in a region of a census. -/
def countState (i : Instr) (sl : Slot) (census : Int) : State :=
  let s := slotState i sl
  s.setRegion reg { s.region reg with census := census }

/-- Whether a node may act with a token in its left latch and both targets free. -/
def leftReady (i : Instr) (s : State) (l : Tok) : Bool :=
  slotReady s (tileFor i) 0 && (s.slot (tileFor i) 0).left == some l && bothFree s (tileFor i) 0 (formOf i)

theorem witness_NodeGateStatAndCensus :
    (let i := Instr.gate (op .ctl)
     let s := slotState i { left := some (tt .eos), right := some (tt .fault) }
     leftReady i s (tt .eos) = true ∧ (s.slot (tileFor i) 0).right = some (tt .fault))
    ∧ [TT.data, .control, .drain, .eos, .tempo, .fault].all (fun x => leftReady (.stat (op .u32)) (slotState (.stat (op .u32)) { left := some (tt x) }) (tt x)) = true
    ∧ (let i := Instr.trap { opTo .ctl .none .none with pe := true } 0xFFFF
       let s := fun (p : Payload) => slotState i { left := some {}, pred := some { pay := p } }
       let o := fun (p : Payload) => opndsOf (formOf i) ((s p).slot (tileFor i) 0)
       leftReady i (s 0x8000) {} = true ∧ gateOf (formOf i) ((s 0x8000).slot (tileFor i) 0) = .go (o 0x8000) ∧ laneOn (formOf i).op (o 0x8000).p.pay 15 = true
       ∧ leftReady i (s 0) {} = true ∧ gateOf (formOf i) ((s 0).slot (tileFor i) 0) = .go (o 0) ∧ (List.range 16).all (fun j => !laneOn (formOf i).op (o 0).p.pay j) = true)
    ∧ ([(Instr.dup (opTo .ctl (.latch .left 1) (.latch .left 3)), (1 : Int)), (.censusUp (op .ctl) 0xFFFF, 65535), (.censusDn (op .ctl) 1, -1)]).all (fun x =>
        [(tt .drain, (0 : Int)), (tt .control, 1), ({}, 2147483647), ({}, 0)].all fun y => x.1.wellFormed && leftReady x.1 (countState x.1 { left := some y.1 } y.2) y.1) = true
    ∧ (let i := Instr.sink (opTo .ctl .none .none)
       [(({} : Tok), (1 : Int)), (tt .control, 2147483648), ({}, 0), (tt .eos, 0), (tt .fault, 5)].all (fun x => i.wellFormed && leftReady i (countState i { left := some x.1 } x.2) x.1) = true) := by
  decide +kernel

/-- A node with a token, and tags of the pool in use. -/
def threadState (i : Instr) (tag : Tag) (used : List Nat) (census : Int) : State :=
  let s := slotState i { left := some { tag := tag } }
  s.setRegion reg { s.region reg with census := census, used := used }

/-- Every tag of the pool. -/
def allTags : List Nat := (List.range 65279).map (fun u => u + 0x100)

/-- A `spawn` of the tile with the relative id 7, where other spawns of the region wait. -/
def waitingSpawns (i : Instr) (asked : List Nat) : State :=
  let s := threadState i 7 [0x100] 0
  let s := s.setTile (tileFor i) { s.tile (tileFor i) with rel := 7 }
  s.setRegion reg { s.region reg with asked := asked }

/-- The first clause at the lowest tag and the next; with every tag in use; `retire` without and with the pool's tag, and one that is not in use. -/
theorem witness_NodeThreads :
    (let i := Instr.spawn (opTo .ctl (.latch .left 1) (.latch .left 3))
     i.wellFormed = true ∧ leftReady i (threadState i 7 [] 0) { tag := 7 } = true ∧ leftReady i (threadState i 7 [0x100] 2147483646) { tag := 7 } = true
     ∧ leftReady i (threadState i 7 allTags 5) { tag := 7 } = true
     ∧ [[], [7 * 32], [7 * 32 + 1], [7 * 32 + 32, 2 ^ 16 - 1]].all (fun ms => let s := waitingSpawns i ms
        leftReady i s { tag := 7 } && ((s.tile (tileFor i)).rel * 32 + 0 == 7 * 32) && (s.region reg).asked.all (fun m => decide (7 * 32 ≤ m))) = true
     ∧ [[7 * 32 - 1], [7 * 32, 0]].all (fun ms => leftReady i (waitingSpawns i ms) { tag := 7 } && ms.any (fun m => decide (m < 7 * 32))) = true)
    ∧ (let i := Instr.retire (opTo .ctl .none .none) false
       leftReady i (threadState i 7 [] 1) { tag := 7 } = true)
    ∧ (let i := Instr.retire (opTo .ctl .none .none) true
       leftReady i (threadState i 0xFFFE [0xFFFE] 2147483648) { tag := 0xFFFE } = true ∧ leftReady i (threadState i 7 [] 1) { tag := 7 } = true
       ∧ slotReady (slotState i { left := some (tt .fault) }) (tileFor i) 0 = true) := by decide +kernel

theorem witness_NodeThreads_all (u : Nat) (h1 : 0x0100 ≤ u) (h2 : u ≤ 0xFFFE) : u ∈ allTags :=
  List.mem_map.2 ⟨u - 0x100, List.mem_range.2 (by omega), by omega⟩

/-- A `seqgen` trigger for 2 tokens from 5 in steps of 3. -/
def trigger : Tok := { tag := 7, pay := 5 + 2 * 2 ^ 32 + 3 * 2 ^ 64 }

/-- A `seqgen` with a run. -/
def seqgenState (fin : Bool) (tgb : Tgt) (run : SlotRun) (left : Option Tok) : State := slotState (.seqgen (opTo .i32 (.latch .left 1) tgb) fin) { left := left, run := run }

theorem witness_NodeThreadsAndSeqgen :
    (let i := fun (fin : Bool) => Instr.seqgen (opTo .i32 (.latch .left 1) (.latch .left 3)) fin
     let w := fun (fin : Bool) => wordOf (i fin)
     let k := tileFor (i true)
     (∀ fin : Bool, decodeNode (w fin) = .ok (i fin))
     ∧ slotReady (seqgenState false (.latch .left 3) .idle (some { pay := 0x100000000 })) k 0 = true
     ∧ [(false, 0), (false, 1), (false, 2), (true, 0), (true, 1), (true, 2), (true, 3)].all (fun (x : Bool × Nat) =>
        let s := seqgenState x.1 (.latch .left 3) (.seqgen trigger x.2) none
        slotReady s k 0 && targetFree (s.tile k) (.latch .left 1) && targetFree (s.tile k) (.latch .left 3)) = true) := by decide +kernel

/-- Every tag of the pool but the last. -/
def mostTags : List Nat := (List.range 65278).map (fun u => u + 0x100)

/-- Every clause: `spawn` at the lowest tag and at the last; `retire` with and without F; a trigger with and without tokens; each token of a run, the last of them among them. -/
theorem witness_ThreadNodesComplete :
    (let i := Instr.spawn (opTo .ctl (.latch .left 1) (.latch .left 3))
     leftReady i (threadState i 7 [] 0) { tag := 7 } = true ∧ ((threadState i 7 [] 0).region reg).asked = []
     ∧ leftReady i (threadState i 7 mostTags 2147483646) { tag := 7 } = true ∧ ((threadState i 7 mostTags 2147483646).region reg).asked = [])
    ∧ [true, false].all (fun free => let i := Instr.retire (opTo .ctl .none .none) free
        leftReady i (threadState i 0xFFFE [0xFFFE] 2147483648) { tag := 0xFFFE }) = true
    ∧ (let k := tileFor (.seqgen (op .i32) true)
       let i := fun (fin : Bool) (b : Tgt) => Instr.seqgen (opTo .i32 (.latch .left 1) b) fin
       let starts := fun (fin : Bool) (b : Tgt) (t : Tok) (steps : Nat) =>
         let s := seqgenState fin b .idle (some t)
         slotReady s k 0 && gateOf (formOf (i fin b)) (s.slot k 0) == .go (opndsOf (formOf (i fin b)) (s.slot k 0))
         && seqgenSteps (seqgenN (opndsOf (formOf (i fin b)) (s.slot k 0)).l) fin (b != .none) == steps && ((s.slot k 0).run == .idle)
       starts true (.latch .left 3) trigger 4 = true ∧ starts false .none {} 0 = true
       ∧ [0, 1, 2, 3].all (fun p => let s := seqgenState true (.latch .left 3) (.seqgen trigger p) none
           slotReady s k 0 && (decodeNode (s.slot k 0).word).toOption == some (i true (.latch .left 3))
           && targetFree (s.tile k) (seqgenTok (opTo .i32 (.latch .left 1) (.latch .left 3)) true trigger p).1) = true) := by decide +kernel

theorem witness_ThreadNodesComplete_last : 0xFFFE ∉ mostTags := by
  simp only [mostTags, List.mem_map, List.mem_range]
  omega

/-- A merge with two latches. -/
def mergeState (alt : Bool) (sl : Slot) : State := slotState (.merge (op .ctl) alt) sl

theorem witness_NodeMerge :
    let k := tileFor (.merge (op .ctl) false)
    let d : Tok := {}
    let e := tt .eos
    [(false, ({ left := some d } : Slot)), (false, { left := some d, right := some e }), (false, { left := some d, right := some d, leftFirst := true }),
     (false, { right := some d }), (false, { left := some e, right := some d }), (false, { left := some d, right := some d, leftFirst := false }),
     (true, { left := some d }), (true, { right := some d, run := .alt true }), (true, { right := some d }), (true, { left := some d, run := .alt true }),
     (false, { left := some e, right := some e }), (true, { left := some e, right := some (tt .tempo) }), (true, { left := some e, right := some d }),
     (true, { left := some d, right := some e, run := .alt true })].all (fun x => slotReady (mergeState x.1 x.2) k 0 && targetFree ((mergeState x.1 x.2).tile k) (.latch .left 1)) = true := by
  decide +kernel

/-- A controller with a run. -/
def ctlState (i : Instr) (sl : Slot) : State := slotState i sl

/-- The three controllers with two children, own index 7. -/
def ctls : List Instr :=
  [.ctlS (opTo .ctl (.latch .left 1) (.latch .left 3)) 1 7, .ctlP (opTo .ctl (.latch .left 1) (.latch .left 3)) 1 0 7, .ctlQ (opTo .ctl (.latch .left 1) (.latch .left 3)) 1 7]

/-- A controller's run for three iterations. -/
def run3 (issued fin : List Nat) : SlotRun := .ctl { go := { tt := .control, pay := 3 }, issued := issued, fin := fin }

theorem witness_NodeControllers :
    let k := tileFor (.mov (op .ctl))
    ctls.all (fun i => i.wellFormed && (decodeNode (wordOf i)).toOption == some i) = true
    -- an idle controller with a go token
    ∧ ctls.all (fun i => slotReady (ctlState i { right := some (tt .control) }) k 0) = true
    -- a permit is due: of the first child, of the second, and the last of all
    ∧ [(run3 [0, 0] [0, 0]), (run3 [1, 0] [1, 0]), (run3 [3, 2] [3, 2])].all (fun r => ctls.all fun i =>
        slotReady (ctlState i { right := some (tt .control), run := r }) k 0 && targetFree ((ctlState i { run := r }).tile k) (.latch .left 1)) = true
    -- a done that is owed, one that is not, and one of a child that does not exist
    ∧ ctls.all (fun i => [(0 : Nat), 1, 2].all fun c =>
        slotReady (ctlState i { left := some { tt := .control, pay := BitVec.ofNat 512 c }, right := some (tt .control), run := run3 [1, 0] [0, 0] }) k 0) = true
    -- the marker phase: a marker at an idle controller, one back from the first child and from the last, another one, and one outside the phase
    ∧ ctls.all (fun i => slotReady (ctlState i { right := some (tt .eos) }) k 0 && targetFree ((ctlState i {}).tile k) (.latch .left 1)
        && [((0 : Nat), TT.eos, true), (1, .eos, true), (0, .tempo, true), (0, .eos, false)].all fun x =>
          let s := ctlState i { left := some (tt x.2.1), run := .ctl { go := tt .eos, marker := x.2.2, back := x.1 } }
          slotReady s k 0 && targetFree (s.tile k) (.latch .left 3)) = true
    -- a done at an idle controller, and at one that waits for markers
    ∧ ctls.all (fun i => [SlotRun.idle, .ctl { go := tt .eos, marker := true }].all fun r => [TT.data, .control].all fun x =>
        slotReady (ctlState i { left := some (tt x), run := r }) k 0) = true
    -- every done has come
    ∧ ([(ctls.headD (.mov (op .ctl)), run3 [3, 3] [3, 3]), (ctls.getD 1 (.mov (op .ctl)), run3 [3, 3] [3, 3]), (ctls.getD 2 (.mov (op .ctl)), run3 [1, 1] [1, 1])]).all (fun x =>
        slotReady (ctlState x.1 { right := some (tt .control), run := x.2 }) k 0 && targetFree ((ctlState x.1 { run := x.2 }).tile k) (.latch .left 3)) = true := by
  decide +kernel

/-- A full join of 16 arcs. -/
def joinState (one : Bool) (toks : List Tok) (census : Int) : State :=
  countState (.join (opTo .ctl .none .none) one 16 0 15) { run := .join (toks.map some) } census

theorem witness_NodeJoin :
    let k := tileFor (.mov (op .ctl))
    let toks := tt .fault :: List.replicate 15 (tt .data)
    slotReady (joinState true toks 15) k 0 = true ∧ ((joinState true toks 15).slot k 0).run = .join (toks.map some) ∧ toks.length = (15 : BitVec 4).toNat + 1
    ∧ (∀ t ∈ toks, t.tt = .data ∨ t.tt = .control ∨ t.tt = .fault) ∧ (15 : BitVec 4).toNat ≤ (15 : Int) ∧ (16 : BitVec 5).toNat + (15 : BitVec 4).toNat + 1 ≤ 32
    ∧ slotReady (joinState false toks 2147483647) k 0 = true
    -- markers of one kind, of two, and beside data; the census is not asked
    ∧ [List.replicate 16 (tt .eos), tt .tempo :: List.replicate 15 (tt .eos), tt .data :: List.replicate 15 (tt .eos)].all (fun ts =>
        slotReady (joinState true ts 0) k 0 && ts.length == 16 && ts.any (fun t => t.tt.isMarker) && ts.all (fun t => t.tt != .resume)) = true := by decide +kernel

/-- The state with an access under way that happens before the token in the left latch of slot 0. -/
def withAccess (k : TileKey) (s : State) : State :=
  { s.setSlot k 0 { s.slot k 0 with left := (s.slot k 0).left.map (fun t => t.after [5]) } with accs := [(5, false)] }

theorem witness_NodeJoinFenceAndSluice :
    (let i := Instr.fenceSc (op .ctl) 4
     let s := withAccess (tileFor i) (fullState i)
     nodeReady i (fullState i) (tileFor i) 0 = true ∧ released (fullState i) (slotPast (fullState i) (tileFor i) 0 (formOf i)) 4 = true
     ∧ nodeReady i s (tileFor i) 0 = true ∧ released s (slotPast s (tileFor i) 0 (formOf i)) 4 = false)
    ∧ (let i := Instr.sluiceLocSnd (op .ctl) 1 0 1
       let s := fun (ts : List Tok) => slotState i { left := some {}, run := .sluice ts }
       i.wellFormed = true ∧ slotReady (s [tt .control]) (tileFor i) 0 = true ∧ slotReady (s [tt .control, {}]) (tileFor i) 0 = true
       ∧ slotReady (slotState i { left := some (tt .eos) }) (tileFor i) 0 = true ∧ ((slotState i { left := some (tt .eos) }).slot (tileFor i) 0).run = .idle)
    ∧ (let i := Instr.sluiceLocSnd (op .ctl) 1 0 1
       let k := tileFor i
       let s := fun (past : List Nat) => { slotState i { run := .sluice [{ hb := past }, tt .control] } with focus := .place (.slot k 0), accs := [(5, false)] }
       [([], true), ([5], false)].all (fun x => (s x.1).tileRuns k && (decodeNode ((s x.1).slot k 0).word).toOption == some i && !((s x.1).slot k 0).stopped
         && ((s x.1).slot k 0).out.isEmpty && ((s x.1).slot k 0).pend.isEmpty && targetFree ((s x.1).tile k) (.latch .left 1)
         && released (s x.1) (pastOf (s x.1) [{ hb := x.1 }]) 1 == x.2) = true)
    ∧ (let i := Instr.sluiceXrSnd (opTo .ctl .none .none) 1 127 0
       let s := fun (ts : List Tok) => let x := slotState i { left := some {} }; x.setRegion reg { x.region reg with windows := [(127, ts)] }
       i.wellFormed = true ∧ slotReady (s []) (tileFor i) 0 = true ∧ ((s []).region reg).windows.getD 127 [] = [] ∧ released (s []) (pastOf (s []) [{}]) 1 = true
       ∧ slotReady (s [{}]) (tileFor i) 0 = true ∧ slotReady (withAccess (tileFor i) (s [])) (tileFor i) 0 = true
       ∧ released (withAccess (tileFor i) (s [])) (pastOf (withAccess (tileFor i) (s [])) [{ hb := [5] }]) 1 = false)
    ∧ (let i := Instr.sluiceXrRcv (op .ctl) 1 127 0
       let s := slotState i { run := .sluice [tt .control] }
       i.wellFormed = true ∧ slotReady s (tileFor i) 0 = true ∧ targetFree (s.tile (tileFor i)) (.latch .left 1) = true) := by decide +kernel

end Sys2Proof.Tests
end

