-- ==== Sys2Proof/Tests/UnitWitnesses.lean ====
section
/-! SUPPORT. For each statement about scratchpads, owner nodes, translation, block engines, matrix units and projection engines, states that meet its hypotheses, clause by clause. -/

namespace Sys2Proof.Tests

set_option Elab.async false

open Sys2Proof.Machine

/-! ### Scratchpads -/

/-- Word 0 of an SP tile's unit section: the owner range is the 128 bytes from 64. -/
def ownUnits : List Word64 := [0x8000000000000000 ||| (64 <<< 44) ||| (128 <<< 24)]

/-- The slot's tile with its unit section, which has the relative id of no carve-out. -/
def withUnits (s : State) (k : TileKey) (u : List Word64) : State := s.setTile k { s.tile k with units := u, rel := 5 }

/-- A scratchpad node with one address in every lane, or a payload of addresses. -/
def spState (i : Instr) (l r p : Payload) : State :=
  let f := enabledPos (formOf i)
  withUnits (slotState i { left := some { pay := l, tag := 7 }, right := if f.contains .right then some { pay := r } else none,
                           pred := if f.contains .pred then some { pay := p } else none }) (tileFor i) ownUnits

/-- Addresses 4 * j, or one address everywhere. -/
def rising (a : Nat) : Payload := Word.ofLanes fun j => BitVec.ofNat 32 (a + 4 * j)

/-- Whether every enabled lane's word lies in the usable scratchpad. -/
def lanesOk (s : State) (k : TileKey) (l : Payload) : Bool := (List.range 16).all fun j => (Word.lane l j).toNat % 4 == 0 && decide ((Word.lane l j).toNat + 4 ≤ spLimit s k)

theorem witness_ScratchLoadAndStore :
    (let i := Instr.spld (op .ctl) 0 false 0
     let s := fun (l : Payload) => spState i l 0 0
     let k := tileFor i
     nodeReady i (s (rising 524224)) k 0 = true ∧ acqHeld ((s 0).tile k) = false ∧ lanesOk (s 0) k (rising 524224) = true ∧ ownerOpen (s 0) k 0 (laneWords (op .ctl) (rising 524224) 0) = true
     ∧ eccHit (s 0) k (laneWords (op .ctl) (rising 524224) 0) = none ∧ (s 0).race k = false ∧ memTurn (s (rising 524224)) k 0 = true ∧ memTurn (s (rising 524228)) k 0 = true
     ∧ nodeReady i (s (rising 524228)) k 0 = true ∧ spLimit (s 0) k < (Word.lane (rising 524228) 15).toNat + 4
     ∧ (∀ x, x < 15 → (Word.lane (rising 524228) x).toNat % 4 = 0 ∧ (Word.lane (rising 524228) x).toNat + 4 ≤ spLimit (s 0) k))
    ∧ (let i := Instr.spld (op .ctl) 1 true 4
       let s := spState i 524224 0 0
       nodeReady i s (tileFor i) 0 = true ∧ 524224 % 64 = 0 ∧ 524224 + 64 ≤ spLimit s (tileFor i) ∧ ownerOpen s (tileFor i) 0 (blkWords 524224) = true
       ∧ eccHit s (tileFor i) (blkWords 524224) = none ∧ memTurn s (tileFor i) 0 = true)
    ∧ (let i := Instr.spst (op .ctl) 2 false 4
       let s := fun (l : Payload) => spState i l (rising 0) 0
       let k := tileFor i
       nodeReady i (s (rising 192)) k 0 = true ∧ lanesOk (s 0) k (rising 192) = true ∧ released (s 0) (slotPast (s (rising 192)) k 0 (formOf i)) 4 = true ∧ relHeld (s 0) k = false ∧ acqHeld ((s 0).tile k) = false
       ∧ (s 0).race k = false ∧ Mem.wf (s 0).scratch = true ∧ memTurn (s (rising 192)) k 0 = true ∧ memTurn (s (rising 4)) k 0 = true
       ∧ nodeReady i (s (rising 524228)) k 0 = true ∧ memTurn (s (rising 524228)) k 0 = true ∧ spLimit (s 0) k < (Word.lane (rising 524228) 15).toNat + 4
       ∧ (List.range 15).all (fun j => let a := (Word.lane (rising 524228) j).toNat; a % 4 == 0 && decide (a + 4 ≤ spLimit (s 0) k) && !inOwner ((s 0).tile k) a) = true
       ∧ (List.range 16).all (fun j => !inOwner ((s 0).tile k) (Word.lane (rising 192) j).toNat) = true
       ∧ nodeReady i (s (rising 4)) k 0 = true ∧ lanesOk (s 0) k (rising 4) = true ∧ inOwner ((s 0).tile k) (Word.lane (rising 4) 15).toNat = true
       ∧ (List.range 15).all (fun j => !inOwner ((s 0).tile k) (Word.lane (rising 4) j).toNat) = true)
    ∧ (let i := Instr.spst (op .ctl) 0 true 0
       nodeReady i (spState i 524224 0 0) (tileFor i) 0 = true ∧ memTurn (spState i 524224 0 0) (tileFor i) 0 = true)
    ∧ ([Instr.spld (op .ctl) 0 true 0, .spst (op .ctl) 0 true 0].all fun i => [524232, 524288].all fun a =>
       let s := spState i a 0 0
       nodeReady i s (tileFor i) 0 && memTurn s (tileFor i) 0 && !acqHeld (s.tile (tileFor i)) && (decide ((a : Payload).toNat % 64 ≠ 0) || decide (spLimit s (tileFor i) < (a : Payload).toNat + 64))) = true := by decide +kernel

/-- A state whose race check is on, in sync phase `sph`, where word `a` of tile `k` was last written by the token of TAG 9 in sync phase 4. -/
def racing (s : State) (k : TileKey) (a : Nat) (sph : BitVec 8) : State :=
  let s1 := s.setLaunch 1 { s.launch 1 with packet := pkPut 1 (4 : BitVec 8) }
  { s1.setRegion reg { s1.region reg with sph := sph } with shadow := [(k * 524288 + a, (9 : BitVec 16) ++ (4 : BitVec 8))] }

/-- Whether a token of TAG 7 that accesses word `a` of tile `k` in sync phase `sph` races. -/
def raceAt (s : State) (k : TileKey) (a : Nat) (sph : BitVec 8) : Bool :=
  let x := s.shadow.getD (k * 524288 + a) 0xFFFF00
  !inOwner (s.tile k) a && x.extractLsb' 8 16 != 0xFFFF && x.extractLsb' 8 16 != (7 : BitVec 16) && x.extractLsb' 0 8 == sph

/-- The first and the last lane's word race, or none; an acquiring load counts its own sync phase; another requester stands behind. -/
theorem witness_ScratchLoadAndStore_race :
    ([0, 1] : List (BitVec 2)).all (fun ord => [0, 15].all fun j =>
      let i := Instr.spld (op .ctl) ord false 4
      let k := tileFor i
      let sph : BitVec 8 := if ordAcq ord then 3 else 4
      let s := racing (spState i (rising 192) 0 0) k (192 + 4 * j) sph
      nodeReady i s k 0 && s.race k && !(s.slot k 0).once && (s.slot k 0).left.any (fun t => t.tag == 7) && memTurn s k 0 && !acqHeld (s.tile k)
        && ownerOpen s k 0 (laneWords (op .ctl) (rising 192) 0)
        && (List.range 16).all (fun x => raceAt s k (192 + 4 * x) ((s.region (s.regionOf k)).sph + (if ordAcq ord then 1 else 0)) == (x == j))
        && turnOf [5, 0] (fun _ => true) 5 && !turnOf [5, 0] (fun _ => true) 0 && turnOf [5, 0] (fun m => m == 0) 0) = true
    ∧ ([0, 15].all fun j =>
      let i := Instr.spst (op .ctl) 0 false 0
      let k := tileFor i
      let s := racing (spState i (rising 192) (rising 0) 0) k (192 + 4 * j) 4
      let u := racing (spState i (rising 192) (rising 0) 0) k 64 4
      nodeReady i s k 0 && s.race k && !(s.slot k 0).once && lanesOk s k (rising 192) && (List.range 16).all (fun x => raceAt s k (192 + 4 * x) (s.region (s.regionOf k)).sph == (x == j))
        && u.race k && (List.range 16).all (fun x => !raceAt u k (192 + 4 * x) 4) && memTurn s k 0 && memTurn u k 0 && Mem.wf u.scratch) = true := by decide +kernel

/-- An SP tile of the placed launch in focus, with an owner node. -/
def ownState (u : OwnUnit) (ports : Map Parcel) : State :=
  tileState 69 { kind := .sp, rel := 5, units := ownUnits, own := u, ports := ports, slots := [(2, { pend := [{ tok := {}, no := 4, count := 15 }] })]
                 routes := [(15, { entry := 0, hops := [none] })] }

/-- An update of the word at 64. -/
def upd (src : Nat) (atop : BitVec 3) : OwnUpd :=
  { src := src, lane := 15, tag := 0, seq := 0, atop := atop, ty := 0, addr := 64, v := 1, cmp := 0, reply := true, round := 1, no := 4 }

theorem witness_OwnerNode :
    (let i := Instr.spatom (op .i32) 3 4 0
     let s := fun (l : Payload) => spState i l 1 0
     let k := tileFor i
     let sixty4 : Payload := Word.splat 64
     let last : Payload := Word.ofLanes fun j => if j = 15 then 192 else 188
     slotReady (s sixty4) k 0 = true ∧ gateOf (formOf i) ((s sixty4).slot k 0) = .go (opndsOf (formOf i) ((s sixty4).slot k 0)) ∧ acqHeld ((s sixty4).tile k) = false
     ∧ released (s sixty4) (slotPast (s sixty4) k 0 (formOf i)) 4 = true ∧ (Word.lane sixty4 0).toNat + 4 ≤ spLimit (s 0) k
     ∧ (List.range 16).all (fun j => (Word.lane sixty4 j).toNat % 4 == 0 && inOwner ((s 0).tile k) (Word.lane sixty4 j).toNat) = true
     ∧ gateOf (formOf i) ((s last).slot k 0) = .go (opndsOf (formOf i) ((s last).slot k 0)) ∧ inOwner ((s 0).tile k) (Word.lane last 15).toNat = false
     ∧ (List.range 15).all (fun j => (Word.lane last j).toNat % 4 == 0 && inOwner ((s 0).tile k) (Word.lane last j).toNat) = true)
    ∧ ([0, 1, 2, 3, 4, 5] : List (BitVec 3)).all (fun a => [2, 16].all fun src =>
        let s := ownState { queue := [upd src a] } []
        s.focus == .tile 69 && s.tiles.has 69 && decide ((s.tile 69).kind = .sp) && s.tileRuns 69 && !s.tempo 69 && (s.tile 69).own.queue == [upd src a] && eccHit s 69 [(15, 64)] == none && Mem.wf s.scratch) = true := by
  decide +kernel

/-- An update whose word has an uncorrectable error, of a slot and of `sp.own`; `spatom` of slot 0 at its turn. -/
theorem witness_OwnerNode_ecc :
    ([2, 15, 16].all fun src =>
      let s := { ownState { queue := [upd src 0] } [] with ecc := [spKey 69 64] }
      s.focus == .tile 69 && s.tileRuns 69 && !s.tempo 69 && (s.tile 69).own.queue == [upd src 0] && (eccHit s 69 [(15, 64)]).isSome) = true
    ∧ (let i := Instr.spatom (op .i32) 0 0 0
       ownTurn (spState i 0 0 0) (tileFor i) 0 = true ∧ turnOf [33, 0] (fun m => m == 33) 0 = false) := by decide +kernel

/-- The same in tempo mode. -/
def inTempo (s : State) : State := s.setLaunch 1 { s.launch 1 with packet := pkPut 1 (2 : BitVec 8) }

theorem witness_OwnerRounds :
    let a := { upd 16 0 with tag := 9 }
    let b := { upd 2 0 with tag := 3 }
    let c := { upd 2 3 with tag := 3, v := 5 }
    let d := { upd 16 0 with round := 2 }
    let s := inTempo (ownState { queue := [a, b, c, d] } [])
    let key := fun (u : OwnUpd) => (u.addr.toNat, u.tag.toNat, u.seq.toNat, u.lane, u.src)
    let due := (s.tile 69).own.queue.filter (fun u => u.round ≤ (s.tile 69).own.closed + 1)
    (s.focus = .tile 69 ∧ s.tiles.has 69 = true ∧ (s.tile 69).kind = .sp ∧ s.tileRuns 69 = true ∧ s.tempo 69 = true ∧ ownRoundCloses (s.tile 69) = true)
    ∧ (∀ u ∈ due, u.lane < 16 ∧ u.src < 32)
    ∧ [b, c, a].Pairwise (fun x y => ¬Prod.Lex (· < ·) (Prod.Lex (· < ·) (Prod.Lex (· < ·) (Prod.Lex (· < ·) (· < ·)))) (key y) (key x))
    ∧ (∀ v ∈ due.map key, [b, c, a].filter (fun u => key u = v) = due.filter (fun u => key u = v)) ∧ due = [a, b, c] := by
  refine ⟨by decide +kernel, by decide +kernel, ?_, by decide +kernel, by decide +kernel⟩
  simp [Prod.lex_def, upd]

/-- A token at `sp.own`: an add of 1 to the word at 64, with a reply where asked for. -/
def ownTok (lane0 : Nat) : Parcel := { tok := { pay := BitVec.ofNat 512 (lane0 + 64 * 2 ^ 32 + 2 ^ 64) } }

/-- A token at `sp.q`: loads of words of a scratchpad, answered on a route. -/
def qTok (a route : Nat) : Parcel := { tok := { pay := Word.ofLanes fun j => if j = 15 then BitVec.ofNat 32 route else BitVec.ofNat 32 (a + 4 * j) } }

theorem witness_OwnerRoundsAndPorts :
    (ownTurn (ownState {} [(0x21, ownTok 0)]) 69 33 = true ∧ memTurn (ownState {} [(0x20, qTok 0 15)]) 69 32 = true)
    ∧ (let s := fun (x : Nat) => ownState {} [(0x21, ownTok x)]
     ownReqOk ((s 0).tile 69) (ownTok 0).tok.pay = true ∧ (Word.lane (ownTok 0).tok.pay 1).toNat % 4 = 0 ∧ (Word.lane (ownTok 0).tok.pay 1).toNat + 4 ≤ spLimit (s 0) 69 ∧ inOwner ((s 0).tile 69) (Word.lane (ownTok 0).tok.pay 1).toNat = true
     ∧ ownReqOk ((s 0x40).tile 69) (ownTok 0x40).tok.pay = false ∧ ((s 0).tile 69).ports.get? 0x21 = some (ownTok 0) ∧ (s 0).tileRuns 69 = true)
    ∧ (let i := Instr.spown (op .ctl)
       let s := slotState i {}
       let s1 := s.setTile (tileFor i) { s.tile (tileFor i) with own := { replies := [{ tok := {}, done := some { tag := 9 } }] } }
       i.wellFormed = true ∧ slotReady s1 (tileFor i) 0 = true ∧ (s1.tile (tileFor i)).own.replies = [{ tok := {}, done := some { tag := 9 } }] ∧ targetFree (s1.tile (tileFor i)) (.latch .left 1) = true)
    ∧ (let s := fun (a r : Nat) => ownState {} [(0x20, qTok a r)]
       (Word.lane (qTok 0 15).tok.pay 15).toNat = 15 ∧ unitRoute ((s 0 15).tile 69) 15 = true ∧ routeFree ((s 0 15).tile 69) 15 = true
       ∧ (∀ j, j < 15 → (Word.lane (qTok 524228 15).tok.pay j).toNat % 4 = 0) ∧ (∀ j, j < 15 → (Word.lane (qTok 524228 15).tok.pay 0).toNat + 4 ≤ spLimit (s 0 15) 69)
       ∧ (∀ j, j < 15 → (Word.lane (qTok 0 15).tok.pay j).toNat + 4 ≤ spLimit (s 0 15) 69)
       ∧ (s 0 15).race 69 = false ∧ acqHeld ((s 0 15).tile 69) = false ∧ ownerOpen (s 0 15) 69 0 ((List.range 15).map fun j => (j, Word.lane (qTok 0 15).tok.pay j)) = true
       ∧ eccHit (s 0 15) 69 ((List.range 15).map fun j => (j, Word.lane (qTok 0 15).tok.pay j)) = none ∧ (s 0 15).tileRuns 69 = true
       ∧ 16 ≤ (Word.lane (qTok 0 16).tok.pay 15).toNat ∧ unitRoute ((s 0 14).tile 69) 14 = false) := by decide +kernel

/-! ### Translation and block nodes -/

/-- A page of context 1: readable, not writable, page 3 of context reach 2. -/
def page5 : BitVec 128 := MapEntry.mk 1 5 false true false false 2 3

/-- The map and a PT cache with the page of VPN 5. -/
def withMap (s : State) (cached_ : Bool) : State :=
  let s1 := s.setBase (homeOf 5) { home := [(0, page5)] }
  if cached_ then s1.setPort 4 { cache := [page5] } else s1

/-- An operand of `xlat`: eight addresses in page 5. -/
def va5 : Payload := Word.ofA64 fun j => BitVec.ofNat 64 (5 * 2 ^ 21 + 64 * j)

theorem witness_PortNodes :
    (let i := Instr.xlat (op .a64) false
     let s := fun (c : Bool) (l : Payload) => withMap (slotState i { left := some { pay := l } }) c
     i.wellFormed = true ∧ slotReady (s true va5) 4 0 = true ∧ gateOf (formOf i) ((s true va5).slot 4 0) = .go (opndsOf (formOf i) ((s true va5).slot 4 0))
     ∧ gateOf (formOf i) ((s false 0).slot 4 0) = .go (opndsOf (formOf i) ((s false 0).slot 4 0)) ∧ slotReady (s false 0) 4 0 = true
     ∧ (let p : Pend := { tok := { pay := va5 } }
        let x := s false 0
        let y := x.setSlot 4 0 { x.slot 4 0 with left := none, pend := [{ tok := {}, done := some {} }, p, p] }
        y.focus = .slot 4 0 ∧ (y.tile 4).slots.has 0 = true ∧ decodeNode (y.slot 4 0).word = .ok i ∧ (y.slot 4 0).pend = [{ tok := {}, done := some {} }] ++ p :: [p] ∧ p.done = none))
    ∧ nodeReady (.gaddr (opTo .a64 (.port 0x31) .none)) (fullState (.gaddr (opTo .a64 (.port 0x31) .none))) 4 0 = true
    ∧ nodeReady (.resume (opTo .ctl (.port 0x32) .none)) (fullState (.resume (opTo .ctl (.port 0x32) .none))) 4 0 = true
    ∧ (let s := { withMap State.reset true with focus := .page 1 5 }
       s.focus = .page 1 5 ∧ entryFor 1 5 page5 = true ∧ page5 ∈ (s.port 4).cache) := by decide +kernel

/-- Block nodes and an operand that each takes: sequence or pool 1, group 2, index 3, stack 23. -/
def blockNodes : List (Instr × Payload) :=
  let pay := fun (g i st : Nat) => BitVec.ofNat 512 (1 + g * 2 ^ 32 + i * 2 ^ 64 + st * 2 ^ 480)
  [(.balloc (op .u32), pay 0 0 23), (.bfree (op .u32), pay 7 0 0), (.bappend (op .u32), pay 63 0 23), (.blook (op .u32), pay 63 4095 23), (.btrim (op .u32), pay 0 4095 0)]

/-- A block node with outstanding requests. -/
def blockState (i : Instr) (l : Payload) (n : Nat) : State := slotState i { left := some { pay := l }, pend := List.replicate n { tok := {} } }

/-- An engine whose only request is a `balloc` of pool 1 by slot 0 of tile 4. -/
def engineState (b : Stack) (opc : BitVec 8) (p : Payload) (i : Nat) : State :=
  let s := blockState (.balloc (op .u32)) 0 1
  ({ s with focus := .engine 23 i }).setBase 23 { b with reqs := [.node 4 0 1 1 1 opc { pay := p }] }

/-- A pool of context 1 with one page. -/
def pool1 : Pool := { ctx := 1, vpn := 0, npages := 1, used := [0, 2] }

/-- A table of context 1 with a group of two blocks. -/
def table1 : SeqTable := { ctx := 1, pool := 1, used := 0, groups := [(2, { policy := 3, frame := 0, leaf := [0, 2] }), (5, { policy := 1 })] }

theorem witness_BlockNodesAndEngine :
    blockNodes.all (fun x =>
      let s := blockState x.1 x.2 15
      x.1.wellFormed && slotReady s 4 0 && gateOf (formOf x.1) (s.slot 4 0) == .go (opndsOf (formOf x.1) (s.slot 4 0)) && blockArgsOk (formOf x.1).opc x.2
      && !blockArgsOk (formOf x.1).opc (x.2 ||| (1 <<< 448)) && !blockArgsOk (formOf x.1).opc (x.2 ||| (24 <<< 480)) && slotReady (blockState x.1 x.2 16) 4 0) = true
    ∧ (let s := engineState { pools := [(1, pool1)] } 0xB8 1 0
       s.focus = .engine 23 0 ∧ (s.base 23).reqs[0]? = some (.node 4 0 1 1 1 0xB8 { pay := 1 }) ∧ reqTurn s (s.base 23) 0 = true
       ∧ needsRestore s (s.base 23) (.node 4 0 1 1 1 0xB8 { pay := 1 }) = none)
    ∧ (let s := engineState { pools := [(1, pool1)], evicted := [(1, table1)] } 0xBB (1 + 2 * 2 ^ 32) 0
       reqTurn s (s.base 23) 0 = true ∧ needsRestore s (s.base 23) (.node 4 0 1 1 1 0xBB { pay := 1 + 2 * 2 ^ 32 }) = some 1 ∧ (restoreTable (s.base 23) 1).isSome = true
       ∧ (s.landing (23 * 64 + 63)).riders.length < 64)
    ∧ (let s := (engineState {} 0xBB 1 1).setBase 23 { evicted := [(1, table1)], restoring := [1] }
       let r : Rider := { cmd := 0, kind := .table, slot := 15, start := 1 }
       let busy := fun (r : Rider) => s.setLanding (23 * 64 + 63) { riders := [r] }
       tableRead s 23 1 = true ∧ tableRead (busy { r with want := [(0, 0, 0)] }) 23 1 = false ∧ tableRead (busy { r with dead := true }) 23 1 = false
       ∧ s.focus = .engine 23 1 ∧ 1 ∈ (s.base 23).restoring ∧ (s.base 23).evicted.get? 1 = some table1 ∧ (restoreTable (s.base 23) 1).isSome = true
       ∧ (table1.groups.map Prod.fst).Nodup) := by decide +kernel

/-- A stack for block requests: pool 1 of context 1 and its table. -/
def stack1 : Stack := { pools := [(1, pool1)], seqs := [(1, table1)] }

theorem witness_BlockRequests :
    (serveReq stack1 1 0xB8 7).2.status ≠ 0
    ∧ (stack1.pools.get? 1 = some pool1 ∧ pool1.ctx = 1 ∧ 1 < 32 * pool1.npages ∧ 1 ∉ pool1.used ∧ ∀ y, y < 1 → y ∈ pool1.used)
    ∧ (let full : Pool := { pool1 with used := List.range 32 }
       ∀ y, y < 32 * full.npages → y ∈ full.used)
    ∧ ((stack1.pools.get? 1).isSome = true ∧ (stack1.pools.get? 1).all (fun x => x.ctx != 2) = true)
    ∧ (groupOf { stack1 with pools := [] } 1 1 2 = some (table1, { policy := 3, frame := 0, leaf := [0, 2] }) ∧ Map.get? ([] : Map Pool) 1 = none)
    ∧ (2 ∈ pool1.used ∧ 31 ∉ pool1.used ∧ 31 < 32 * pool1.npages)
    ∧ groupOf stack1 1 1 63 = none
    ∧ groupOf stack1 1 1 2 = some (table1, { policy := 3, frame := 0, leaf := [0, 2] })
    ∧ ([0, 2] : List (BitVec 32))[1]? = some 2 := by decide +kernel

/-- A leaf that is full, and one of which `btrim` keeps the first block and frees the second. -/
theorem witness_BlockRequests_leaves : 4096 ≤ ({ policy := 0, leaf := List.replicate 4096 0 } : Group).leaf.length ∧ 1 ≤ ({ policy := 0, leaf := [0, 2] } : Group).leaf.length :=
  ⟨Nat.le_of_eq (List.length_replicate (n := 4096) (a := (0 : BitVec 32))).symm, by decide⟩

/-! ### The matrix unit -/

theorem witness_MatrixNodes :
    [Instr.mma (opTo .ctl (.port 2) .none), .mmaAcc (opTo .ctl (.port 2) .none), .loadw (opTo .ctl (.port 2) .none), .swapw (opTo .ctl (.port 2) .none), .drain (opTo .ctl (.port 2) .none),
     .zero (opTo .ctl (.port 2) .none), .rowtag (op .ctl) 0xFFFF, .rprog (op .ctl)].all fires = true := by decide +kernel

/-- Word 0 of an MX tile's unit section: AFMT, SMODE, DFMT. -/
def mxWord (afmt : BitVec 4) (smode : Bool) (dfmt : BitVec 4) : Word64 := (afmt.setWidth 64 <<< 60) ||| (if smode then 1 <<< 55 else 0) ||| (dfmt.setWidth 64 <<< 51)

/-- An MX tile of the placed launch in focus, with a route 5 that no slot targets. -/
def mxState (w : Word64) (u : MxUnit) (ports : Map Parcel) : State :=
  tileState 5 { kind := .mx, rel := 1, units := [w], mx := u, ports := ports, routes := [(5, { entry := 0, hops := [none] })] }

/-- A parcel with a payload. -/
def parcel (p : Payload) : Parcel := { tok := { pay := p } }

/-- Control words of each MOP: all counts 32 where a count is used, buffer 3, accumulator 1, selector 1, route 5. -/
def mxWords : List (Nat × Word64) :=
  [(0, 0x0000038000001234), (1, 0x0400039500001234), (2, 0x0800030000000000), (3, 0x0C00030000000000), (4, 0x1000009506001234), (5, 0x1400008000000000)]

theorem witness_MatrixNodesAndControlWords :
    mxWords.all (fun x =>
      let s := mxState (mxWord 3 false 2) {} [(2, parcel (x.2.setWidth 512))]
      s.focus == .tile 5 && s.tiles.has 5 && decide ((s.tile 5).kind = .mx) && s.tileRuns 5 && (s.tile 5).ports.get? 2 == some (parcel (x.2.setWidth 512))
      && MxCtl.ok (s.tile 5) x.2 && decide (x.2.toNat / 2 ^ 58 = x.1)
      && !MxCtl.ok (s.tile 5) (x.2 ||| (1 <<< 24))) = true := by decide +kernel

/-- A resume token at either operand port of a unit that runs a word of either port, or none. -/
theorem witness_MatrixNodesAndControlWords_resume :
    ([0, 1].all fun q => [none, some (0x0000038000001234 : Word64), some 0x0800030000000000].all fun run =>
      let x : Parcel := { tok := tt .resume }
      let s := mxState (mxWord 3 false 2) { run := run.map (fun c => { ctl := c }) } [(q, x)]
      s.focus == .tile 5 && s.tiles.has 5 && decide ((s.tile 5).kind = .mx) && s.tileRuns 5 && (s.tile 5).ports.get? q == some x && !(s.tile 5).mx.stopped
        && (q == 0 || !(s.tile 5).ports.has 0)) = true := by decide +kernel

/-- A unit at a line of a control word. -/
def mxRun (c : Word64) (line : Nat) : MxUnit := { run := some { ctl := c, line := line }, w := [((3 * 32 + 1) * 32 + 2, 0x3F800000)], acc := [((1 * 32 + 1) * 32 + 1, 0x40000000)] }

theorem witness_MatrixLinesAndDrains :
    ([(0, 0x0000038000001234), (1, 0x0400039500001234), (2, 0x0800030000000000)] : List (Nat × Word64)).all (fun x => [false, true].all fun smode => [0, 31].all fun line =>
      let p := parcel (Word.splat 0x3F803F80)
      let s := mxState (mxWord 3 smode 2) (mxRun x.2 line) [(0, p), (1, p)]
      s.tileRuns 5 && (s.tile 5).mx.run == some { ctl := x.2, line := line } && ((s.tile 5).ports.get? (mxPort (s.tile 5) x.2)) == some p
      && (readLine (s.tile 5) (MxCtl.k x.2) [] (some p)).isSome && (s.tile 5).ports.get? 2 == none && decide (line < 32)) = true
    ∧ (let s := mxState (mxWord 3 false 2) (mxRun 0x0000038000001234 31) [(0, parcel 0), (2, { tok := tt .fault })]
       s.tileRuns 5 = true ∧ (s.tile 5).ports.get? 2 = some { tok := tt .fault })
    ∧ (let s := fun (r : Option (BitVec 4)) => mxState (mxWord 3 false 2) { lastRoute := r } [(2, { tok := tt .tempo })]
       (s none).tileRuns 5 = true ∧ ((s none).tile 5).ports.get? 2 = some { tok := tt .tempo } ∧ ((s (some 5)).tile 5).mx.lastRoute = some 5 ∧ routeFree ((s (some 5)).tile 5) 5 = true) := by
  decide +kernel

/-- Lines of products: with a NaN, with infinities of both signs and of one, finite, all -0; and one longer than a block. -/
theorem witness_MatrixLinesAndDrains_sums :
    (let prod := fun (p : Lane × Lane) => Fp.mulV (Fp.f32.read p.1.toNat) (Fp.f32.read p.2.toNat)
     prod (0x7FC00000, 0) = some .nan ∧ prod (0x7F800000, 0) = none ∧ prod (0x7F800000, 0x3F800000) = some (.inf false) ∧ prod (0xFF800000, 0x3F800000) = some (.inf true)
     ∧ prod (0x80000000, 0x3F800000) = some (.fin true 0 (-172)) ∧ prod (0x3F800000, 0x3F800000) = some (.fin false (2 ^ 46) (-46)))
    ∧ 16 < (List.replicate 17 ((0, 0) : Lane × Lane)).length ∧ (List.replicate 17 ((0, 0) : Lane × Lane)).length ≤ 32 := by decide +kernel

/-! ### The projection engine -/

/-- Word 1 of a VX tile's unit section: a row length, PTGT the left latch of slot 1, STGT the left latch of slot 3. -/
def pjWord (len : Nat) : Word64 := (BitVec.ofNat 64 (len - 1) <<< 52) ||| (0x001 <<< 40) ||| (0x003 <<< 28)

/-- A VX tile of the placed launch in focus. -/
def pjState (len : Nat) (u : PjUnit) (ports : Map Parcel) : State :=
  tileState 7 { kind := .vx, rel := 3, units := [0, pjWord len], pj := u, ports := ports, slots := [(1, {}), (3, {})] }

/-- A support record of a row with tag 9. -/
def rec9 : Support := { mask := 5, scalar := 0x3F800000, size := 2, len := 20, psel := 4, tag := 9, valid := true }

theorem witness_ProjectionNodesAndMarkers :
    ([(Instr.pj (opTo .f32 (.port 0x10) .none) 7), .pjp (opTo .f32 (.port 0x11) .none), .pja (opTo .f32 (.port 0x12) (.latch .left 1)), .pjs (op .ctl) true].all fires = true)
    ∧ (let i := Instr.pjs (opTo .ctl (.latch .left 1) (.latch .left 3)) false
       let s := slotState i { left := some { tag := 9 } }
       let s1 := s.setTile 7 { s.tile 7 with pj := { sup := [(1, rec9)] } }
       nodeReady i s1 7 0 = true ∧ ((s1.tile 7).pj.sup.getD 1 {}).valid = true ∧ ((s1.tile 7).pj.sup.getD 1 {}).tag = 9)
    ∧ ([0x10, 0x11, 0x12] : List Nat).all (fun p => [tt .eos, tt .fault].all fun x =>
        let y : Parcel := { tok := x, via := .latch .left 1 }
        let s := fun (h : Map Nat) => pjState 20 { held := h } [(p, y)]
        (s []).tileRuns 7 && ((s []).tile 7).ports.get? p == some y && ((s []).tile 7).pj.held.get? p == none && ((s [(p, 0)]).tile 7).pj.held.get? p == some 0
        && targetFree ((s [(p, 0)]).tile 7) (pjPtgt ((s []).tile 7)) && targetFree ((s [(p, 0)]).tile 7) (pjStgt ((s []).tile 7)) && targetFree ((s [(p, 0)]).tile 7) (.latch .left 1)) = true := by
  decide +kernel

/-- A place that holds the first sixteen elements of a row of twenty. -/
def halfRow : PjPlace := { tag := 9, kind := .row, psel := 4, elems := (List.range 16).map fun i => (i, BitVec.ofNat 32 i) }

/-- The token with the last four. -/
def lastPart (psel : Option (BitVec 3)) : Parcel := { tok := { tag := 9, seq := 1, pay := Word.splat 0x3F800000 }, psel := psel }

/-- A complete place. -/
def fullPlace (kind : PjKind) : PjPlace := { tag := 9, kind := kind, psel := 4, complete := true, found := rec9, via := .latch .left 1, elems := (List.range 20).map fun i => (i, 0x40000000) }

/-- A token that names the selector of the row of tag 9. -/
def selTok (psel : BitVec 3) : Parcel := { tok := { tt := .control, tag := 9, pay := psel.setWidth 512 } }

/-- A record of an L2 row outside the ball, in the form of `rec9`. -/
def rec9far : Support := { rec9 with psel := 3 }

/-- Selector tokens that open, match, miss and wait; adjoint rows of two places on engines with one and with several; rows and records of the other sets. -/
theorem witness_ProjectionRowsAndResults_places :
    ([([], 4), ([(9, halfRow)], 4), ([(9, halfRow)], 5), ([(9, { halfRow with tag := 25 })], 4), ([(9, fullPlace .row)], 4)].all fun (x : Map PjPlace × BitVec 3) =>
      let s := pjState 20 { places := x.1 } [(0x10, selTok x.2)]
      s.tileRuns 7 && !(s.tile 7).pj.stopped && (s.tile 7).ports.get? 0x10 == some (selTok x.2) && ((selTok x.2).tok.pay.extractLsb' 0 3 : BitVec 3) == x.2 && (s.tile 7).pj.places == x.1) = true
    ∧ (halfRow.elems.length ≠ 20 ∧ halfRow.psel = 4 ∧ (fullPlace .row).complete = true)
    ∧ ([(20, []), (20, [(10, fullPlace .row)]), (20, [(10, halfRow)]), (4096, [])].all fun (x : Nat × Map PjPlace) =>
      let s := pjState x.1 { places := x.2, sup := [(1, rec9far)] } [(0x12, { lastPart none with aux := some 0 })]
      s.tileRuns 7 && (s.tile 7).pj.places.get? (9 % pjPlaces (s.tile 7)) == none && ((s.tile 7).pj.sup.getD (9 % 8) {}).twoPlaces && ((s.tile 7).pj.sup.getD (9 % 8) {}).valid
        && decide (16 * 1 < pjLen (s.tile 7)) && (pjPlaces (s.tile 7) == 1) == (x.1 == 4096) && (pjPlaces (s.tile 7) == 1 || (9 + 1) % pjPlaces (s.tile 7) == 10)) = true := by
  decide +kernel

/-- Rows of the sets that pick their support: parameters that are valid and that are not, rows inside and outside. -/
theorem witness_ProjectionRowsAndResults_sets :
    ([1, 2, 3, 5, 6] : List (BitVec 3)).all (fun psel => Pj.valid psel 0x3F800000 0 && ([0x3F800000, 0xC0000000, 0x40400000] : List Lane).all Pj.finite) = true
    ∧ ([1, 2, 3] : List (BitVec 3)).all (fun psel => !Pj.valid psel 0xBF800000 0) = true ∧ Pj.valid 4 0x40000000 0x3F800000 = false ∧ Pj.valid 2 0 0 = true
    ∧ (let total := (([0x3F800000, 0xC0000000] : List Lane).map fun x => Pj.units (x &&& 0x7FFFFFFF)).sum
       total ≤ Pj.units 0x40400000 ∧ Pj.units 0x3F800000 < total ∧ Pj.units 0 < total ∧ Pj.units 0 = 0 ∧ Pj.units 0x3F800000 ≠ 0)
    ∧ (rec9far.scalar ≠ 0x7FC00000 ∧ ([0, 0] : List Lane).length = ([0x3F800000, 0] : List Lane).length ∧ rec9far.inside = false ∧ ({ rec9far with inside := true } : Support).inside = true
       ∧ Pj.units ({ rec9far with param := 0x3F800000 } : Support).param ≠ 0 ∧ Pj.units rec9far.param = 0)
    ∧ ((List.range 2).filter (fun i => rec9.mask.getLsbD i) ≠ [] ∧ (List.range 2).filter (fun i => (0 : BitVec 4096).getLsbD i) = [])
    ∧ (let r : Support := { rec9 with psel := 5, aux := 5 }
       r.aux.getLsbD 0 = true ∧ r.aux.getLsbD 1 = false ∧ r.aux.getLsbD 2 = true ∧ r.scalar ≠ 0x7FC00000) := by decide +kernel

theorem witness_ProjectionRowsAndResults :
    (let s := fun (u : PjUnit) (p : Option (BitVec 3)) => pjState 20 u [(0x10, lastPart p)]
     (s {} (some 4)).tileRuns 7 = true ∧ pjLen ((s {} none).tile 7) = 20 ∧ 9 % pjPlaces ((s {} none).tile 7) = 9 ∧ ((s {} (some 4)).tile 7).ports.get? 0x10 = some (lastPart (some 4))
     ∧ (Map.get? [(9, halfRow)] 9 = some halfRow ∧ halfRow.complete = false ∧ ∀ l, l < 16 → 16 * 1 + l < 20 → halfRow.elems.has (16 + l) = false)
     ∧ ((some 5 : Option (BitVec 3)) = some 5 ∧ (5 : BitVec 3) ≠ halfRow.psel)
     ∧ ((fullPlace .row).complete = true))
    ∧ (let s := fun (sup : Map Support) => pjState 20 { sup := sup } [(0x12, lastPart none)]
       (s []).tileRuns 7 = true ∧ (((s []).tile 7).pj.sup.getD (9 % 8) {}).valid = false
       ∧ (((s [(1, rec9)]).tile 7).pj.sup.getD (9 % 8) {}).valid = true ∧ (((s [(1, rec9)]).tile 7).pj.sup.getD (9 % 8) {}).tag = 9 ∧ rec9.twoPlaces = false)
    ∧ ([PjKind.row, .adjoint].all fun kind =>
        let s := pjState 20 { ready := [9], places := [(9, fullPlace kind)] } []
        s.tileRuns 7 && (s.tile 7).pj.ready == [9] && (s.tile 7).pj.places.get? 9 == some (fullPlace kind) && (s.tile 7).ports.get? 0x11 == none) = true
    ∧ (Pj.isNan 0x3F800000 = false ∧ Pj.valid 4 0 0x3F800000 = true ∧ ([0x3F800000] : List Lane)[0]? = some 0x3F800000 ∧ rec9.scalar ≠ 0x7FC00000) := by decide +kernel

end Sys2Proof.Tests
end

