-- ==== Sys2Proof/Tests/SequencerWitnesses.lean ====
section
/-! SUPPORT. For each statement about sequencers, states that meet its hypotheses, clause by clause. -/

namespace Sys2Proof.Tests

set_option Elab.async false

open Sys2Proof.Machine

/-! ### Registers, RAM, branches -/

theorem witness_SeqAluResult :
    (decodeSeq ((0x01 : BitVec 6) ++ (1 : BitVec 5) ++ (2 : BitVec 5) ++ (3 : BitVec 5) ++ (15 : BitVec 11)) = .ok (.seqRem 1 2 3)) ∧ 16 ≤ (16 : BitVec 11).toNat
    ∧ seqReady (seqState { s := [(2, 0x8000000000000000), (3, 64)] }) = true ∧ seqReady (seqState { s := [(2, 5)] }) = true := by decide +kernel

theorem witness_SeqImmediateResult :
    64 ≤ (64 : BitVec 16).toNat ∧ (1 : BitVec 5) ≠ 0 ∧ seqReady (seqState { s := [(1, 1), (31, 0xFFFFFFFFFFFFFFFF)] }) = true := by decide +kernel

/-- A sequencer whose s1 is an address. -/
def atAddr (x : BitVec 64) : State := seqState { s := [(1, x), (2, 7)] }

theorem witness_SeqMemory :
    (seqReady (atAddr 65528) = true ∧ 65528 % 8 = 0 ∧ ramBad (atAddr 65528) seqTile 65528 8 = none)
    ∧ (seqReady (atAddr 65532) = true ∧ 65532 % 4 = 0 ∧ ramBad (atAddr 65532) seqTile 65532 4 = none)
    ∧ (seqReady (atAddr 65532) = true ∧ 65532 % 8 ≠ 0) ∧ seqReady (atAddr 65534) = true ∧ 65534 % 4 ≠ 0
    ∧ seqReady (atAddr 65536) = true := by decide +kernel

theorem witness_SeqControlFlow :
    (let q : Seq := { s := [(1, 1), (2, 0xFFFFFFFFFFFFFFFF), (3, 65532), (4, 65536), (5, 2)], pc := 65532 }
     let s := seqState q
     seqReady s = true ∧ (s.seq seqTile).pc.toNat % 4 = 0
     ∧ q.reg 1 ≠ q.reg 2 ∧ (q.reg 2).toInt < (q.reg 1).toInt ∧ (q.reg 1).toInt ≤ (q.reg 1).toInt ∧ ¬(q.reg 1).toInt < (q.reg 2).toInt
     ∧ (q.reg 1).toNat < (q.reg 2).toNat ∧ ¬(q.reg 1).toNat ≥ (q.reg 2).toNat
     ∧ q.pc.toNat + 4 * (0 : BitVec 16).toInt = 65532 ∧ q.pc.toNat + 4 * (1 : BitVec 16).toInt = 65536 ∧ q.pc.toNat + 4 * (-16384 : BitVec 26).toInt = -4
     ∧ (q.reg 3).toNat = 65532 ∧ (q.reg 4).toNat = 65536 ∧ (q.reg 5).toNat % 4 ≠ 0)
    ∧ seqReady (seqState {}) = true := by decide +kernel

theorem witness_SeqSpecialRegisters :
    let q : Seq := { s := [(1, 1), (2, 2)], cause := 0x21, evmask := 1 }
    seqReady (seqState q) = true ∧ q.reg 0 = 0 ∧ q.reg 1 = 1 ∧ q.reg 2 ≠ 0 ∧ q.reg 2 ≠ 1
    ∧ [(10 : BitVec 16), 15, 24, 65535].all (fun n => decide ((9 < n.toNat ∧ n.toNat < 16) ∨ 23 < n.toNat)) = true := by decide +kernel

theorem witness_SeqCommandFields :
    let q : Seq := { s := [(1, 7), (2, 8)], c := [(3, BitVec.allOnes 128)] }
    seqReady (seqState q) = true ∧ (q.reg 1).toNat < 2 ^ ((2 : BitVec 6).toNat + 1) ∧ 2 ^ ((2 : BitVec 6).toNat + 1) ≤ (q.reg 2).toNat ∧ (1 : BitVec 5) ≠ 0 := by decide +kernel

/-- A region with the element kinds whose rounds TEMPO takes: a PT, a matrix unit and an owner node with producers. -/
def roundState : State :=
  let s := seqState {}
  let feeds := fun (p : BitVec 8) => ({ word := wordOf (.mov (opTo .ctl (.port p) .none)) } : Slot)
  { s with ports := [(4, { cr := 6 })]
           tiles := [(4, { kind := .pt, region := some reg }), (5, { kind := .mx, region := some reg, mx := { rounds := 4 }, slots := [(0, feeds 2)] }),
                     (69, { kind := .sp, region := some reg, own := { closed := 3 }, slots := [(0, feeds 0x21), (1, { word := 0xA2 <<< 56 })] })] }

theorem witness_SeqSpecialRegisters_rounds :
    seqReady roundState = true ∧ (roundState.port 4).cr - 1 = 5 ∧ 0x02 ∈ portsFed (roundState.tile 5) ∧ 0x21 ∈ portsFed (roundState.tile 69)
    ∧ ((roundState.slot 69 1).word.extractLsb' 56 8 : BitVec 8) = 0xA2 := by decide +kernel

/-! ### FIFOs -/

/-- A sequencer whose FIFO 7 holds `n` tokens. -/
def fifoState (n : Nat) (offers : List Offer) : State :=
  let s := seqState { s := [(1, 9)], q := [(7, List.replicate n (tt .data))], offers := [(7, offers)] }
  { s with tiles := s.tiles.put seqTile { s.tile seqTile with ports := [(0x47, { tok := tt .data })] } }

/-- The same with the FIFO in focus. -/
def atFifo (s : State) : State := { s with focus := .fifo seqTile 7 }

theorem witness_SeqFifos :
    ([0, 15].all (fun n => ((fifoState n []).seq seqTile).q.getD 7 [] == List.replicate n (tt .data) && decide (((fifoState n []).seq seqTile).offers.getD 7 [] = [])) = true)
    ∧ seqReady (fifoState 15 []) = true ∧ seqReady (fifoState 0 []) = true ∧ (((fifoState 15 []).seq seqTile).fifo 7).length < 16
    ∧ seqReady (fifoState 16 []) = true ∧ 16 ≤ (((fifoState 16 []).seq seqTile).fifo 7).length
    ∧ seqReady (fifoState 1 []) = true ∧ ((fifoState 1 []).seq seqTile).fifo 7 = [tt .data] ∧ ((fifoState 0 []).seq seqTile).fifo 7 = []
    ∧ (let o := [Offer.fabric, .completion (.port 4) (tt .control), .give (tt .control)]
       let s := atFifo (fifoState 15 o)
       s.focus = .fifo seqTile 7 ∧ s.seqs.has seqTile = true ∧ s.regions.has (s.seq seqTile).region = true ∧ s.regionStops (s.seq seqTile).region = false ∧ ((s.seq seqTile).fifo 7).length < 16
       ∧ (s.seq seqTile).offers.getD 7 [] = o ∧ (s.tile seqTile).ports.get? 0x47 = some { tok := tt .data }
       ∧ ((atFifo (fifoState 15 (o.drop 1))).seq seqTile).offers.getD 7 [] = o.drop 1 ∧ ((atFifo (fifoState 15 (o.drop 2))).seq seqTile).offers.getD 7 [] = o.drop 2
       ∧ ((atFifo (fifoState 15 (o.drop 2))).seq seqTile).stopped = false) := by decide +kernel

/-! ### Configurations, seeds, the census -/

/-- A sequencer of a region whose blocks are 0, 1 and the greatest, 4095 (R236), with block 2 another region's; slot 3 of the first PT enables its right latch and its left one, which is fed by the node in slot 4, whose latches are full. -/
def cfgState (q : Seq) (f : Region → Region) : State :=
  let s := seqState q
  let blk := fun (r : Nat) => ({ region := r, images := [] } : Block)
  let node := fun (d : Nat) (l : Option Tok) => ({ word := wordOf (.add (opTo .u32 (.latch .left (BitVec.ofNat 5 d)) .none)), left := l, right := l } : Slot)
  { s with kernels := s.kernels.put 1 { s.kernels.getD 1 { ctx := 1, regions := [], blocks := [] } with blocks := [(0, blk 0), (1, blk 0), (2, blk 9), (4095, blk 0)] }
           tiles := s.tiles.put 4 { kind := .pt, region := some reg, slots := [(3, node 9 none), (4, node 3 (some (tt .data)))] }
           regions := [(reg, f (s.region reg))] }

/-- The descriptor of `seed`: relative tile, slot, position, tag. -/
def seedTo (rel slot pos tag : Nat) : BitVec 64 := BitVec.ofNat 64 (rel + slot * 2 ^ 11 + pos * 2 ^ 16 + tag * 2 ^ 18)

/-- The R197 conditions of a descriptor in `cfgState`. -/
def seedable (s : State) (v : BitVec 64) (p : Pos) : Bool :=
  let rg := s.region reg
  let rel := (Word.field v 0 11).toNat
  let n : BitVec 5 := Word.field v 11 5
  let tk := regionTile rg rel
  (regionRels rg).contains rel && (s.tile tk).slots.has n.toNat && wordEnables (s.slot tk n.toNat).word p && !latchFed (s.tile tk) p n && !entryAt s reg rel n.toNat p
    && decide ((Word.field v 18 16 : Tag).toNat ≤ 0xFF) && Word.field v 34 30 == (0 : BitVec 30)

theorem witness_SeqConfiguration :
    (let s := cfgState { s := [(1, 4095)] } (fun r => { r with quiet := true })
     seqReady s = true ∧ (s.seq seqTile).region = reg ∧ (blockOf s reg (Word.field ((s.seq seqTile).reg 1) 0 12 : BitVec 12).toNat).any (fun b => b.region == (s.region reg).index) = true
     ∧ (s.region reg).cfgNext = none ∧ (s.region reg).loading = none
     ∧ blockOf s reg 3 = none ∧ (blockOf s reg 2).any (fun b => b.region != (s.region reg).index) = true)
    ∧ seqReady (cfgState { s := [(1, 3)] } id) = true ∧ seqReady (cfgState { s := [(1, 2)] } id) = true
    ∧ (let s := cfgState {} (fun r => { r with cfgNext := some 1 })
       seqReady s = true ∧ (s.region reg).cfgNext.isSome = true)
    ∧ (let s := cfgState {} (fun r => { r with loading := some 1 })
       seqReady s = true ∧ (s.region reg).loading.isSome = true)
    ∧ (let good := seedTo 0 3 1 0xFF
       let s := fun (v : BitVec 64) (n : Int) => cfgState { s := [(1, 9), (2, v)] } (fun r => { r with census := n })
       seqReady (s good 2147483646) = true ∧ Pos.ofCode (Word.field good 16 2) = some .right ∧ seedable (s good 2147483646) good .right = true
       ∧ ((s good 0).slot 4 3).at_ .right = none ∧ ((s good 0).region reg).census = 0 ∧ ((s good 0).region reg).loading = none ∧ seedsWait (s good 0) ((s good 0).region reg).launch = false
       ∧ seqReady (s (seedTo 0 4 1 0) 0) = true ∧ seedable (s 0 0) (seedTo 0 4 1 0) .right = true ∧ ((s 0 0).slot 4 4).at_ .right ≠ none
       ∧ [seedTo 0 3 1 0x100, seedTo 4 3 1 0, seedTo 0 5 1 0, seedTo 0 3 2 0, seedTo 0 3 0 0, seedTo 0 3 1 0 + 2 ^ 34].all
           (fun v => !seedable (s v 0) v ((Pos.ofCode (Word.field v 16 2)).getD .left) && (Pos.ofCode (Word.field v 16 2)).isSome && seqRuns (s v 0) seqTile) = true
       ∧ seqReady (s (seedTo 0 3 3 0) 0) = true ∧ Pos.ofCode (Word.field (seedTo 0 3 3 0) 16 2) = none)
    ∧ (let s := fun (seen : BitVec 32) => cfgState { seen := seen } (fun r => { r with phase := 5 })
       seqReady (s 4) = true ∧ ((s 4).seq seqTile).seen < ((s 4).region reg).phase ∧ seqReady (s 5) = true ∧ ((s 5).region reg).phase ≤ ((s 5).seq seqTile).seen)
    ∧ (let s := cfgState { s := [(1, 4095)] } (fun r => { r with loading := some 1 })
       seqReady s = true ∧ (s.region reg).cfgLoad = false ∧ (cfgState { s := [(1, 4095)] } (fun r => { r with loading := some 1, cfgLoad := true })).regions.has reg = true)
    ∧ (let s := cfgState {} (fun r => { r with seeds := [{ tile := 0, slot := 3, pos := .right, tok := {} }] })
       seqReady s = true ∧ seedsWait s (s.region reg).launch = true ∧ (s.region reg).loading = none) := by decide +kernel

/-! ### Events and ends -/

/-- A launch that has issued its `launch.tail`. -/
def tailedState (x : BitVec 64) (tailed : Bool) : State :=
  let s := atAddr x
  s.setLaunch 1 { s.launch 1 with tailed := tailed }

/-- A sequencer with a command of its own in some phase. -/
def fencing (p : Phase) : State :=
  let s := seqState {}
  { s with cmds := [(1, { word := 0, station := .port 4, origin := .seq seqTile 0, launch := 1, ctx := 1, region := reg, phase := p })] }

/-- A sequencer whose word is `w`. -/
def atWord (w : BitVec 32) : State :=
  let s := seqState {}
  { s with ram := Mem.store s.ram (seqTile * 65536) 4 w }

/-- An event of the first PT that its sequencer takes. -/
def eventState : State :=
  let s := seqState { evmask := 1, events := List.replicate 15 3 }
  { s with focus := .fifo seqTile 4, ports := [(4, { tier := [7, 8] })], tiles := s.tiles.put 4 { kind := .pt, region := some reg } }

theorem witness_SeqEventsAndEnds :
    (seqReady (tailedState 65408 false) = true ∧ ((tailedState 65408 false).launch 1).tailed = false ∧ 65408 % 8 = 0 ∧ 65408 + 128 ≤ 65536 ∧ ramBad (tailedState 65408 false) seqTile 65408 128 = none)
    ∧ (seqReady (tailedState 65416 false) = true ∧ ¬65416 + 128 ≤ 65536) ∧ (seqReady (tailedState 4 false) = true ∧ 4 % 8 ≠ 0)
    ∧ (seqReady (tailedState 0 true) = true ∧ ((tailedState 0 true).launch ((tailedState 0 true).region reg).launch).tailed = true)
    ∧ seqReady (seqState { events := [5] }) = true ∧ seqReady (seqState {}) = true
    ∧ (4 : BitVec 3).toNat < 5 ∧ (seqReady (fencing .done) = true ∧ seqCmdsOpen (fencing .done) seqTile = false ∧ released (fencing .done) ((fencing .done).seq seqTile).hb 4 = true)
    ∧ (let s := { seqState { hb := [5] } with accs := [(5, true)] }
       seqReady s = true ∧ released s (s.seq seqTile).hb 1 = true ∧ released s (s.seq seqTile).hb 2 = false)
    ∧ (seqReady (fencing .started) = true ∧ seqCmdsOpen (fencing .started) seqTile = true) ∧ 5 ≤ (5 : BitVec 3).toNat
    ∧ (seqReady (atWord 0xFC000000) = true ∧ (decodeSeq (seqWord (atWord 0xFC000000) seqTile)).toOption = none)
    ∧ (let s := seqState { pc := 65536 }
       s.focus = .seq seqTile ∧ s.seqs.has seqTile = true ∧ seqRuns s seqTile = true ∧ 65536 ≤ (s.seq seqTile).pc.toNat)
    ∧ (let s := eventState
       s.focus = .fifo seqTile 4 ∧ s.seqs.has seqTile = true ∧ (s.seq seqTile).running = true ∧ (s.region (s.seq seqTile).region).closed = false ∧ (s.seq seqTile).evmask ≠ 0
       ∧ (s.seq seqTile).events.length < 16 ∧ (s.tile 4).region = some (s.seq seqTile).region ∧ (s.port 4).tier = [7, 8]) := by decide +kernel

end Sys2Proof.Tests
end

