-- ==== Sys2Proof/Tests/CommandWitnesses.lean ====
section
/-! SUPPORT. For each statement about stream commands, states that meet its hypotheses, clause by clause. -/

namespace Sys2Proof.Tests

set_option Elab.async false

open Sys2Proof.Machine

/-! ### Issue, start, retirement -/

/-- Quad (1, 0) of F0 as a rectangle of a partition. -/
def quad10 : BitVec 32 := 0x01000000

/-- The placed launch's context with a partition and its PT loaded. -/
def owned (s : State) : State :=
  { s with contexts := [(1, { rects := [quad10] })], tiles := s.tiles.put 4 { kind := .pt, region := some reg, routes := [(15, { hops := [none] })] } }

/-- The word of a command. -/
def cmdOf (i : Instr) : Word128 := (encodeCmd i).getD 0

/-- A sequencer with a word in c7, and commands that wait at its station. -/
def issueState (w : Word128) (waiting : Nat) : State :=
  let s := owned (seqState { c := [(7, w)], issue := 0xFFFFFFFF })
  let c : Cmd := { word := w, station := stationOf w, origin := .firmware, launch := 1, ctx := 1, region := reg, phase := .queued }
  { s with nextCmd := 16, cmds := (List.range waiting).map fun i => (i + 1, c) }

/-- A sequencer that waits for the verdict on command 17. -/
def verdictState (w : Word128) : State := after (exec (.seqCissue 7) (issueState w 0)) State.reset

/-- A `fence.e`, with GV and TK as given; an `eos` on a route that is not there. -/
def fenceWord (gv tk : Bool) : Word128 := cmdOf (.fenceE { head with gv := gv, tk := tk, gvq := if gv then 7 else 0, tkq := if tk then 7 else 0 } false)
/-- An `eos` on a route that is not there. -/
def lostEos (gv : Bool) : Word128 := cmdOf (.eos { head with gv := gv, gvq := if gv then 7 else 0 } 3 5)
/-- A word of no command. -/
def noCommand (gv : Bool) : Word128 := fenceWord gv false ||| (1 : BitVec 128) <<< 127 ||| (1 : BitVec 128) <<< 126

/-- A command at its end: an `eos`, a `board` or a refused one, with a detail. -/
def endState (w : Word128) (status : Nat) : State :=
  let s := owned (seqState {})
  { s with focus := .cmd 1, cmds := [(1, { word := w, station := .port 4, origin := .seq seqTile 300, launch := 1, ctx := 1, region := reg, phase := .started, status := status
                                           admitted := true, underway := true, taken := 6, missed := 3, detail := 8, detail2 := 9 })] }

/-- A finished release with an access before it, which stands as given among those under way. -/
def releaseState (g : Bool) (scope : BitVec 3) (acc : Option Bool) : State :=
  let s := endState (cmdOf (.fenceE { head with rel := true, scope := scope, gv := g, gvq := if g then 7 else 0 } false)) 0
  { s.setCmd 1 { s.cmd 1 with hb := [5] } with accs := acc.elim [] (fun b => [(5, b)]) }

/-- Whether a command in focus may retire. -/
def retiring (s : State) (id : Nat) : Bool :=
  s.focus == .cmd id && s.cmds.has id && (s.cmd id).phase == .started && cmdLive s (s.cmd id) && cmdFinished s id (s.cmd id)
    && !([0x02, 0x13, 0x19, 0x1A].contains (cmdCode (s.cmd id).word))

/-- A board of the whole stripe 5. -/
def boardOps : RideOps := { reach := 5, rid := 200, ort := 15, win := false, early := true, etype := 8, offw := 0, cm1 := 0, fop := 0, pk := false, lo := 0, hi := 0 }

theorem witness_CommandIssueAndRetirement :
    ([0, 15].all (fun n => seqReady (issueState (fenceWord true true) n) && cmdSequencerChecks (fenceWord true true)
        && decide ((waitingAt (issueState (fenceWord true true) n) (stationOf (fenceWord true true))).length < 16)) = true)
    ∧ (seqReady (issueState (fenceWord true true) 16) = true ∧ 16 ≤ (waitingAt (issueState (fenceWord true true) 16) (stationOf (fenceWord true true))).length)
    ∧ [true, false].all (fun g => !cmdSequencerChecks (noCommand g) && (decodeHead (noCommand g)).gv == g && seqReady (issueState (noCommand g) 0)) = true
    ∧ [(fenceWord false false, true, false), (fenceWord true true, true, true), (lostEos true, false, false), (lostEos false, false, false)].all (fun x =>
        let s := verdictState x.1
        s.focus == .seq seqTile && s.seqs.has seqTile && !s.regionStops reg && !(s.seq seqTile).stopped && (s.seq seqTile).wait == .verdict 17
          && (verdict s 17 (s.cmd 17)).isNone == x.2.1 && (decodeHead (s.cmd 17).word).tk == x.2.2) = true
    ∧ (let s := after (exec .cissueVerdict (verdictState (fenceWord true true))) State.reset
       let t := s.setSeq seqTile { s.seq seqTile with q := [(7, [tt .data, tt .control])] }
       (s.seq seqTile).wait = .tkq 17 7 ∧ (t.seq seqTile).wait = .tkq 17 7 ∧ (t.seq seqTile).fifo 7 = [tt .data, tt .control] ∧ t.seqs.has seqTile = true)
    ∧ (let s := after (exec .cissueVerdict (verdictState (fenceWord false false))) State.reset
       bindDue s (.port 4) = none ∧ waitingAt s (.port 4) = [17] ∧ (s.cmd 17).phase ≠ .queued ∧ passedOver s (s.cmd 17) = false ∧ startOk s (s.cmd 17) = true)
    ∧ (let s := after (exec .cissueVerdict (verdictState (fenceWord true true))) State.reset
       bindDue s (.port 4) = none ∧ waitingAt s (.port 4) = [17] ∧ (s.cmd 17).phase = .held ∧ passedOver s (s.cmd 17) = false ∧ startOk s (s.cmd 17) = false)
    ∧ ([(cmdOf (.eos head 15 5), 0), (cmdOf (.eos { head with gv := true, gvq := 7 } 15 5), 4), (cmdOf (.boardFlow { head with gv := true, gvq := 7 } boardOps), 0),
        (cmdOf (.boardFlow head boardOps), 0), (cmdOf (.boardFlow head boardOps), 1), (cmdOf (.eos head 15 5), 12)].all (fun x =>
        let s := endState x.1 x.2
        retiring s 1 && !(decodeHead (s.cmd 1).word).rel && (s.cmd 1).origin == .seq seqTile 300 && (s.seq seqTile).fails == [] && !(s.seq seqTile).stopped
          && s.saved.get? 1 == none) = true)
    ∧ ([(true, 0, none, true), (false, 4, none, true), (true, 1, some true, true), (false, 0, some false, false), (true, 4, some true, false)].all (fun x =>
        let s := releaseState x.1 x.2.1 x.2.2.1
        let c := s.cmd 1
        retiring s 1 && (decodeHead c.word).rel && (decodeHead c.word).gv == x.1 && c.origin == .seq seqTile 300
          && released (s.setCmd 1 { c with phase := .done, out := [] }) c.hb (decodeHead c.word).scope == x.2.2.2) = true)
    ∧ [0, 1].map (fun n => cmdStatus ((endState (cmdOf (.boardFlow head boardOps)) n).cmd 1)) = [2, 1] := by decide +kernel

/-! ### Rides -/

/-- The member of rank `rank` of a stripe of two in context 1, in segments of 4 KiB, two to a member; `base` is its first unit of 64 KiB. -/
def entryOf (crn : BitVec 4) (rank base : Nat) : BitVec 128 :=
  (1 : BitVec 1) ++ (0 : BitVec 2) ++ crn ++ (0 : BitVec 1) ++ (1 : BitVec 16) ++ (0 : BitVec 8) ++ (0 : BitVec 6) ++ (12 : BitVec 4) ++ (0 : BitVec 4)
    ++ BitVec.ofNat 11 rank ++ (1 : BitVec 11) ++ (2 : BitVec 24) ++ BitVec.ofNat 16 base ++ (0 : BitVec 20)

/-- Two landings with the stripe 5 in slot 3, its cursors at segment 1. -/
def withStripe (s : State) : State :=
  { s with landings := [(0, { reaches := [(3, entryOf 5 0 0)], cursors := [(3, (1, 0))] }), (1, { reaches := [(3, entryOf 5 1 0)], cursors := [(3, (1, 0))] })] }

/-- A map entry of page `v` of context 1 in its home, in the stripe 5. -/
def withPage (s : State) (v : Nat) (far transit : Bool) : State :=
  s.setBase (homeOf v) { s.base (homeOf v) with home := [(7, MapEntry.mk 1 v far true true transit 5 0)] }

/-- `alight` of the ride 200 as command 2, and the ride as command 1 with a rider at both landings. -/
def alightState (code : Instr) (rid : BitVec 8) : State :=
  let ride : Cmd := { word := cmdOf code, station := .port 4, origin := .seq seqTile 0, launch := 1, ctx := 1, region := reg, phase := .started, admitted := true, underway := true }
  let s := withStripe (cmdState (.alight head rid))
  let rider : Rider := { cmd := 1, slot := 3, kind := .flow, commit := true, on := true, left := 2 }
  { s with focus := .cmd 2, cmds := [(1, ride), (2, s.cmd 1)], landings := s.landings.map fun (x : Nat × Landing) => (x.1, { x.2 with riders := [rider, { rider with cmd := 9 }] }) }

/-- A ride that waits at two landings, of which the second has `n` riders. -/
def reserveState (i : Instr) (n : Nat) : State :=
  let s := after (exec i (withStripe (cmdState i))) State.reset
  { s.setLanding 1 { s.landing 1 with riders := List.replicate n { cmd := 9, slot := 3, kind := .flow } } with focus := .cmdAt 1 1 }

/-- A ride to which every landing has answered. -/
def answeredState (i : Instr) (n : Nat) : State :=
  let s := after (exec .rideReserve (reserveState i n)) State.reset
  { after (exec .rideReserve { s with focus := .cmdAt 1 0 }) State.reset with focus := .cmd 1 }

/-- A rider of a ride that may board at the second landing, behind `n` others. -/
def boardState (i : Instr) (n : Nat) : State := { after (exec .rideCommit (answeredState i n)) State.reset with focus := .landing 1 n }

/-- The rides of one stripe. -/
def rideWords : List Instr :=
  [.boardFlow head boardOps, .boardSnap head boardOps, .fold head { boardOps with etype := 2, cm1 := 15 },
   .sieve head { reach := 5, rid := 200, ort := 15, etype := 2, offw := 0, cm1 := 15, cmp := 0, k := 0 }]

theorem witness_RideCommands :
    rideWords.all (fun i => cmdReady (withStripe (cmdState i)) 1 && (stripe (withStripe (cmdState i)) 1 5).length == 2) = true
    ∧ (let i := Instr.pageout { head with die := 12, index := 31 } { vpn := 0x7FFFFFFFF, fpool := 0, fpage := 0 }
       let s := fun (far transit : Bool) => withPage (withStripe (cmdState i)) 0x7FFFFFFFF far transit
       [(false, false), (true, false), (false, true)].all (fun x => cmdReady (s x.1 x.2) 1 && (mapFind (s x.1 x.2) 1 0x7FFFFFFFF).any (fun y => MapEntry.far y.2 == x.1 && MapEntry.transit y.2 == x.2)
         && !cached (s x.1 x.2) 1 0x7FFFFFFFF) = true)
    ∧ (let s := alightState (.boardFlow head boardOps) 200
       cmdReady s 2 = true ∧ (rideOf s (s.cmd 2) 200).map Prod.fst = some 1 ∧ riding s 1 = true ∧ rideOf s (s.cmd 2) 201 = none)
    ∧ rideWords.all (fun i => [0, 63, 64].all fun n =>
        let s := reserveState i n
        s.focus == .cmdAt 1 1 && s.cmds.has 1 && (s.cmd 1).phase == .started && isRide (s.cmd 1) && (s.cmd 1).admitted && (s.cmd 1).pending.contains 1
          && !earlierSent s (s.cmd 1).station 1 (s.cmd 1).sentAt && !fencedPc s 1 && (s.landing 1).riders.length == n) = true
    ∧ rideWords.all (fun i => [(0, 0), (63, 0), (64, 1)].all fun n =>
        let s := answeredState i n.1
        s.focus == .cmd 1 && (s.cmd 1).phase == .started && (s.cmd 1).admitted && !(s.cmd 1).underway && (s.cmd 1).pending.isEmpty && (s.cmd 1).status == n.2) = true
    ∧ rideWords.all (fun i => [0, 63].all fun n =>
        let s := boardState i n
        let ld := s.landing 1
        let r := ld.riders.getD n { cmd := 0, slot := 0, kind := .kv }
        let c := s.cmd r.cmd
        s.focus == .landing 1 n && r.cmd == 1 && r.commit && !r.on && !heldAt s ld r.slot && (r.kind == .flow || r.kind == .snap)
          && (!(course s c).early || (course s c).ahead (Reach.rank (ld.reaches.getD r.slot 0)) (slotLen ld r.slot) 1 (slotLen ld r.slot))) = true := by decide +kernel

/-- A landing at segment 1 of the stripe 5, whose one rider is command 1's, with the command's state and the poisoned granules given. -/
def visiting (i : Instr) (r : Rider) (poison : List Nat) (f : Cmd → Cmd) : State :=
  let s := withStripe (cmdState i)
  let t := s.setCmd 1 (f { s.cmd 1 with admitted := true, underway := true, members := [0, 1] })
  { t.setLanding 0 { t.landing 0 with riders := [r] } with
    focus := .landing 0 3, poison := poison
    dram := Mem.writeN [] (segByte ⟨0, 3, entryOf 5 0 0⟩ 1 0) [1, 2, 3, 4, 5, 6, 7, 8] }

/-- A rider of command 1 on its first lap. -/
def onLap (kind : RideKind) : Rider := { cmd := 1, slot := 3, kind := kind, commit := true, on := true, left := 2 }

/-- A rider that has ended its first lap and wants the segment. -/
def wanting (kind : RideKind) : Rider := { onLap kind with left := 0, want := [(3, 1, 0)] }

/-- Whether a visit is one that the clauses about riders speak of. -/
def visits (s : State) : Bool :=
  s.focus == .landing 0 3 && (s.landing 0).reaches.get? 3 == some (entryOf 5 0 0) && Reach.valid (entryOf 5 0 0) && !s.dev.wiping && visitTurn s ⟨0, 3, entryOf 5 0 0⟩
    && (s.landing 0).riders.length == 1 && (s.landing 0).riders.all (fun r => r.on && r.cmd == 1)

/-- The state in which a visit meets its riders. -/
def metAt (s : State) : State := let m : Member := ⟨0, 3, entryOf 5 0 0⟩; let found := poisonSegment s m 1; { freePairs (applyUpdates found m 1) 0 with poison := found.poison }

/-- A full delivery buffer of the first landing. -/
def fullBuffer (c : Cmd) : Cmd := { c with out := List.replicate 32 { rider := 0, route := 15, tok := {} } }

/-- A `copy` of the stripe 5 onto itself, from segment 0 to segment 1. -/
def copyOps : CopyOps := { sreach := 5, dreach := 5, slo := 0, dlo := 1, nm1 := 1 }

/-- Rides of a segment: `board`, `sieve` (with an element that matches, and with none), `copy`. -/
def segmentRides : List (Instr × RideKind) :=
  [(.boardFlow head boardOps, .flow), (.boardSnap head boardOps, .snap),
   (.sieve head { reach := 5, rid := 200, ort := 15, etype := 1, offw := 0, cm1 := 15, cmp := 0, k := 0x04030201 }, .flow),
   (.sieve head { reach := 5, rid := 200, ort := 15, etype := 1, offw := 0, cm1 := 0, cmp := 0, k := 0 }, .flow), (.copy head copyOps, .snap)]

/-- A `gather` whose only request waits for its last address, or for two; the last lies in segment 1. -/
def gatherVisit (n : Nat) (i : Nat) : State :=
  let q : Req := { order := 0, tag := 7, seq := 9, addrs := (List.range 8).map (fun k => paOf 5 (4096 + 8 * k)), got := (List.range (8 - n)).map (fun k => (k, 3)) }
  { visiting (.gather head 200 15) { wanting .gather with want := [(3, 1, 0)] } [] id with ports := [(4, { gather := some 1, window := [{ q with addrs := q.addrs.set 7 (paOf 5 (4096 * i)) }] })] }

/-- A `kvride` of two units of one block, the first in segment 1 and the second behind it in the same segment, or in the next. -/
def kvVisit (off : Nat) (f : Cmd → Cmd) : State :=
  visiting (.kvride head { seqid := 9, group := 63, stack := 23, rid := 200, ort := 15, etype := 2, pk := false, first := 0, nm1 := 0, boff := 0, blm1 := 1 }) (wanting .kv) []
    (fun c => f { c with blocks := [{ index := 6, bit := 0, vpn := 0, pa := some (paOf 5 off), wanted := true, lands := [0] }] })

theorem witness_RideCommands_visits :
    segmentRides.all (fun x => [(onLap x.2, ([] : List Nat), id), (wanting x.2, [], id), ({ onLap x.2 with dead := true }, [], id), ({ onLap x.2 with left := 0 }, [], id),
        (onLap x.2, [segByte ⟨0, 3, entryOf 5 0 0⟩ 1 4032], id), (onLap x.2, [], fullBuffer)].all fun (y : Rider × List Nat × (Cmd → Cmd)) =>
      let s := visiting x.1 y.1 y.2.1 y.2.2
      visits s && (course (metAt s) ((metAt s).cmd 1)).has 1 && segPoisoned (metAt s) ⟨0, 3, entryOf 5 0 0⟩ 1 == !y.2.1.isEmpty
        && bufferTakes (buffered ((metAt s).cmd 1) 0) 1 == (((metAt s).cmd 1).out.isEmpty)) = true
    ∧ (let s := metAt (visiting (.copy head copyOps) (onLap .snap) [] id)
       (Stripe.place (stripe s 1 5) 2).isSome = true ∧ bufferTakes ((s.cmd 1).flight.filter (fun f => f.2.2.key.head? == some 0)).length 64 = true)
    ∧ (let s := visiting (.fold head { boardOps with etype := 2, cm1 := 15 }) (onLap .flow) [] (fun c => { c with fold := List.replicate 16 {} })
       visits s = true ∧ (course (metAt s) ((metAt s).cmd 1)).has 1 = true ∧ segPoisoned (metAt s) ⟨0, 3, entryOf 5 0 0⟩ 1 = false)
    ∧ [(1, 1), (1, 0), (2, 1)].all (fun x =>
        let s := gatherVisit x.1 x.2
        let p := portAt (metAt s) ((metAt s).cmd 1) 4
        visits s && cmdPort ((metAt s).cmd 1) == 4 && p.window.length == 1 && p.window.all (fun q => !q.dead && !q.diverted) && p.ready.isEmpty && p.eddy.isEmpty) = true
    ∧ [(4096, id, true), (8128, id, true), (4096, fullBuffer, false)].all (fun (x : Nat × (Cmd → Cmd) × Bool) =>
        let s := kvVisit x.1 x.2.1
        let u := metAt s
        let c := u.cmd 1
        let y := kvCollect u c ⟨0, 3, entryOf 5 0 0⟩ 1
        visits s && (kvTakes u c ⟨0, 3, entryOf 5 0 0⟩ 1 (c.blocks.headD { index := 0, bit := 0, vpn := 0 })).contains 0
          && bufferTakes (kvBuffered u c 0) (kvBuffered u y 0 - kvBuffered u c 0) == x.2.2 && !(y.blocks.any (kvNeeds u y ⟨0, 3, entryOf 5 0 0⟩ 1))) = true
    ∧ ((8 : BitVec 4) = 8 ∧ Reach.g (entryOf 5 0 0) = 4096) := by decide +kernel

/-- A `fold` at the last visit of its last rider: one lane, or sixteen. -/
def lastVisit (cm1 : BitVec 12) : State :=
  let s := visiting (.fold head { boardOps with etype := 2, cm1 := cm1 }) { onLap .flow with left := 1 } [] (fun c => { c with fold := List.replicate (cm1.toNat + 1) {}, taken := 1 })
  { s with cmds := s.cmds.map fun (x : Nat × Cmd) => (x.1, { x.2 with phase := .started }) }

/-- The `board` of an SX field: unpacked of one block, packed of a block more than a token has, in the tag's width and in others, past the segment's end. -/
def sxBoard (etype : BitVec 4) (pk : Bool) (offw : BitVec 10) (cm1 : BitVec 12) : Word128 := cmdOf (.boardFlow head { boardOps with etype := etype, pk := pk, offw := offw, cm1 := cm1 })

theorem witness_RideCommands_last :
    [0, 15].all (fun n =>
      let s := lastVisit n
      let u := metAt s
      let c := u.cmd 1
      visits s && (course u c).has 1 && !segPoisoned u ⟨0, 3, entryOf 5 0 0⟩ 1 && c.phase == .started && c.underway && !c.extended && c.status != 1 && c.pending.isEmpty
        && (s.landings.map Prod.fst == [0, 1]) && s.landings.all (fun (x : Nat × Landing) => x.1 == 0 || !hasRider x.2 1) && c.fold.length == n.toNat + 1
        && (s.landing 0).riders.all (fun r => r.left == 1 && r.want.isEmpty && !r.dead)) = true
    ∧ ([5, 6, 7] : List (BitVec 4)).all (fun ety => ([5, 6, 7, 0, 3] : List (BitVec 4)).all fun tag =>
        let w := sxBoard ety true 1000 10
        let s := { withStripe State.reset with tags := [(tagKey 0 3 1, tag)] }
        (Word.field w 74 4 : BitVec 4) == ety && w.getLsbD 49 && (Word.field w 64 10).toNat == 1000 && (Word.field w 52 12).toNat == 10 && segTag s ⟨0, 3, entryOf 5 0 0⟩ 1 == tag) = true
    ∧ (sxBoard 5 false 0 0).getLsbD 49 = false
    ∧ (4 * 1000 + (2 + 1) * 18 ≤ 4096 ∧ ¬4 * 1000 + (10 + 1) * 18 ≤ 4096)
    ∧ (Fp.f32.read (0x7FC00001 : Lane).toNat = .nan ∧ Fp.f32.read (0x80000000 : Lane).toNat ≠ .nan ∧ Pj.finite 0x80000000 = true ∧ Pj.finite 0x3F800000 = true ∧ Pj.units 0x80000000 = 0
       ∧ (([0x3F800000, 0xBF800000] : List Lane).map Pj.units).sum = 0 ∧ (([0x3F800000, 0x80000000] : List Lane).map Pj.units).sum ≠ 0
       ∧ ([0x7F800000, 0xFF800000, 0x3F800000] : List Lane).map Pj.isNan = [false, false, false]) := by decide +kernel

/-! ### Gathers, wanted blocks, the eddy -/

/-- A `kvride` at stack 23, sequence 9, group 63: one slice of two units. -/
def kvOps : KvOps := { seqid := 9, group := 63, stack := 23, rid := 200, ort := 15, etype := 2, pk := false, first := 0, nm1 := 1, boff := 0, blm1 := 1 }

/-- The `kvride` once its engine has its request; its sequence has the groups given. -/
def kvState (groups : Map Group) : State :=
  let s := after (exec (.kvride head kvOps) (cmdState (.kvride head kvOps))) State.reset
  s.setBase 23 { s.base 23 with seqs := [(9, { ctx := 1, pool := 4095, used := 0, groups := groups })], pools := [(4095, { ctx := 1, vpn := 64, npages := 2, used := [0, 33] })] }

/-- A port tile of the placed launch in focus, with an open gather. -/
def portState (p : PortUnit) (port : Nat) (x : Parcel) : State :=
  let s := tileState 4 { kind := .pt, ports := [(port, x)] }
  { s with ports := [(4, p)], cmds := [(1, { word := cmdOf (.gather head 200 15), station := .port 4, origin := .seq seqTile 0, launch := 1, ctx := 1, region := reg, phase := .started, admitted := true })] }

/-- A request in a merge window. -/
def aReq : Req := { order := 0, tag := 0, seq := 0, addrs := [0] }
/-- An eddy entry of a gather. -/
def anEddy : Eddy := { kv := false, cls := 1, order := 0, tag := 0, seq := 0, body := 0, cmd := 1 }

/-- A PT with a tier event for page 5, whose context maps it far. -/
def tierState (windows : List Window) (mask : BitVec 64) : State :=
  let s := portState { tier := [5, 6] } 0 { tok := {} }
  { s with seqs := [(seqTile, { region := reg, running := true, evmask := mask })], contexts := [(1, { windows := windows })] }

/-- A far window of pages 4 to 5. -/
def farWindow : Window := { vpn := 4, npages := 2, first := 0, ffirst := 0xFFFFFFFE, fpool := 0xFFFF, crn := 5, r := true, w := true, far := true }

theorem witness_GatherAndEddy :
    ([Instr.gather head 200 15, .kvride head kvOps].all (fun i => cmdReady (cmdState i) 1 && !((cmdState i).cmd 1).underway) = true)
    ∧ (let s := kvState [(63, { policy := 0, leaf := [0, 33] })]
       s.focus = .cmd 1 ∧ (s.cmd 1).phase = .started ∧ cmdCode (s.cmd 1).word = 5 ∧ (s.cmd 1).stopped = false ∧ cmdLive s (s.cmd 1) = true ∧ (s.cmd 1).admitted = false
       ∧ cmdReqIdx (s.base 23) 1 = some 0 ∧ reqTurn s (s.base 23) 0 = true ∧ (s.base 23).evicted.get? 9 = none ∧ (groupOf (s.base 23) 1 9 63).isSome = true
       ∧ groupOf ((kvState []).base 23) 1 9 63 = none ∧ reqTurn (kvState []) ((kvState []).base 23) 0 = true
       ∧ cmdForeign s (s.cmd 1).ctx (s.cmd 1).word = false ∧ cmdForeign (kvState []) ((kvState []).cmd 1).ctx ((kvState []).cmd 1).word = false
       ∧ (let t := s.setBase 23 { s.base 23 with seqs := [(9, { ctx := 2, pool := 4095, used := 0, groups := [] })] }
          cmdForeign t (t.cmd 1).ctx (t.cmd 1).word = true ∧ cmdReqIdx (t.base 23) 1 = some 0 ∧ reqTurn t (t.base 23) 0 = true))
    ∧ ([(TT.data, 0), (.control, 63), (.eos, 0), (.fault, 0)].all (fun x =>
        let s := portState { gather := some 1, window := List.replicate x.2 aReq, eddy := [(0, anEddy)] } 0x31 { tok := tt x.1 }
        s.tileRuns 4 && (s.port 4).gather == some 1 && (s.port 4).window.length == x.2 && (s.tile 4).ports.get? 0x31 == some { tok := tt x.1 }
        && (s.port 4).eddy.lowestFree 64 0 == some 1) = true)
    ∧ ([(0 : Nat), 63, 64].all (fun e =>
        let x : Parcel := { tok := { tt .resume with pay := BitVec.ofNat 512 e } }
        let s := portState { eddy := [(0, anEddy)], window := List.replicate 63 aReq } 0x32 x
        s.tileRuns 4 && (s.tile 4).ports.get? 0x32 == some x && ((s.port 4).eddy.has e == (e == 0))
          && (List.range 8).all (fun i => elemClass (Word.a64 (retranslate s 1 anEddy) i) == 0)) = true)
    ∧ (let s := tierState [farWindow] 0
       s.focus = .tile 4 ∧ (s.port 4).tier = [5, 6] ∧ tierToSeq s 4 = false ∧ farPlace s (s.ctxOf 4) 5 = some (0xFFFF, 0xFFFFFFFF) ∧ s.ctxOf 4 = 1
       ∧ s.cmds.any (fun x => x.2.origin == .firmware) = false ∧ (s.cmds.any fun x => x.2.phase == .queued || x.2.phase == .accepted) = false ∧ feature s 3 = false
       ∧ (let t := { s.setDev { s.dev with feats := some 8 } with contexts := [(1, { windows := [farWindow], farpools := [(0xFFFF, { pages := 0xFFFFFFFF, fep := 0, fbase := 0 })] })] }
          feature t 3 = true ∧ farPlace t (t.ctxOf 4) 5 = some (0xFFFF, 0xFFFFFFFF) ∧ ¬0xFFFFFFFF < (0xFFFFFFFF : BitVec 32).toNat)) := by decide +kernel

/-- A PT with a tier event for page 5, which lies in a far pool that the context knows. -/
def nearPool : State :=
  let w := [{ farWindow with ffirst := 0xFFFFFFFD }]
  let s := tierState w 0
  { s.setDev { s.dev with feats := some 8 } with contexts := [(1, { windows := w, farpools := [(0xFFFF, { pages := 0xFFFFFFFF, fep := 0, fbase := 0 })] })] }

theorem witness_GatherAndEddy_known :
    (nearPool.port 4).tier = [5, 6] ∧ tierToSeq nearPool 4 = false ∧ feature nearPool 3 = true ∧ farPlace nearPool (nearPool.ctxOf 4) 5 = some (0xFFFF, 0xFFFFFFFE)
    ∧ 0xFFFFFFFE < (0xFFFFFFFF : BitVec 32).toNat := by decide +kernel

/-- Whatever engine the firmware chooses has room: no command waits anywhere. -/
theorem witness_GatherAndEddy_room :
    (waitingAt nearPool (.engine (12 + Config.tierEngine nearPool.fresh / 32 % 2) (Config.tierEngine nearPool.fresh % 32))).length < 16 := by
  simp only [waitingAt]
  decide +kernel

/-! ### Updates -/

/-- An update command of two words in segment 3 of stripe 5. -/
def updOps : UpdOps := { reach := 5, etype := 1, offw := 1022, cm1 := 1, ntm1 := 1, a := 0, b := 0 }
/-- The update commands. -/
def updWords : List Instr := [.updW head { updOps with a := 0xF0000000 }, .updAdd head updOps, .updMax head updOps, .updScadd head { updOps with etype := 2, a := 0x3F800000, b := 0xBF800000 }]

/-- An update command that takes the token of a segment at `pt.q`. -/
def takingState (i : Instr) (seg : Nat) : State :=
  let s := withStripe (after (exec i (withStripe (cmdState i))) State.reset)
  { s with focus := .tile 4, tiles := [(4, { kind := .pt, region := some reg, ports := [(0x30, { tok := { tag := BitVec.ofNat 16 (seg / 256), seq := BitVec.ofNat 8 seg, pay := rising 5 } })] })] }

/-- The same with its first update on its way to a landing. -/
def postedState (i : Instr) (seg : Nat) : State :=
  let s := after (exec .updTokenTake (takingState i seg)) State.reset
  { s with focus := .cmdAt 1 (seg / 2) }

/-- The landing with the update in its weir, its cursor at the update's segment. -/
def visitState (i : Instr) (seg : Nat) : State :=
  let s := after (exec .postingAccept (postedState i seg)) State.reset
  let pc := seg / 2
  { s.setLanding pc { s.landing pc with cursors := [(3, (seg % 2, 0))] } with focus := .landing pc 3 }

/-- An update command that has started after another one, which has tokens to take. -/
def behindState : State :=
  let s := cmdState (.updW head updOps)
  let c := s.cmd 1
  { s with cmds := [(1, { c with order := 5 }), (2, { c with order := 4, admitted := true })] }

/-- A landing whose weir holds as many held updates as a tempo round may have. -/
def fullTempo (s : State) : State :=
  s.setLanding 1 { s.landing 1 with weir := List.replicate 2048 { cmd := 0, launch := 1, slot := 3, seg := 1, word := 0, op := .write, ety := 1, vals := [], ftag := 0, stamp := 0, round := some 7 } }

theorem witness_UpdateCommands :
    (updWords.all (fun i => cmdReady (cmdState i) 1 && (cmdState i).cmds.all (fun x => !(x.2.order < ((cmdState i).cmd 1).order))) = true)
    ∧ (let s := behindState
       cmdReady s 1 = true ∧ (s.cmd 2).order < (s.cmd 1).order ∧ sameStation (s.cmd 1) (s.cmd 2) = true ∧ (s.cmd 2).phase = .started ∧ isUpd (s.cmd 2) = true ∧ (s.cmd 2).taken < updTokens (s.cmd 2))
    ∧ (let i := Instr.statc head 5 3
       let s := withStripe (cmdState i)
       cmdReady s 1 = true ∧ (Stripe.place (stripe s 1 5) 3).isSome = true ∧ weirRoom s 1 1 = true ∧ Stripe.place (stripe s 1 5) 4 = none ∧ (s.port 4).qStopped = false
       ∧ (cmdRound s (s.cmd 1)).isNone = true ∧ (cmdRound (inTempo s) (s.cmd 1)).isSome = true ∧ tempoHeldAt (inTempo s) 1 < 2048
       ∧ (let t := fullTempo (inTempo s)
          cmdReady t 1 = true ∧ weirRoom t 1 1 = true ∧ (cmdRound t (t.cmd 1)).isSome = true ∧ 2048 ≤ tempoHeldAt t 1))
    ∧ (updWords.all (fun i => [0, 3, 4].all fun seg =>
        let s := takingState i seg
        s.tileRuns 4 && ((s.tile 4).ports.get? 0x30).any (fun x => x.tok.tt == .data && x.tok.tag.toNat * 256 + x.tok.seq.toNat == seg) && (updTaking s 4).any (fun x => x.1 == 1)
          && !(s.port 4).qStopped && (Stripe.place (stripe s 1 5) seg).isSome == decide (seg < 4) && weirRoom s (seg / 2) 1 == true && (cmdRound s (s.cmd 1)).isNone && (s.landing (seg / 2)).pairs.isEmpty
          && (cmdRound (inTempo s) (s.cmd 1)).isSome && decide (tempoHeldAt (inTempo s) (seg / 2) < 2048)) = true)
    ∧ (updWords.all (fun i => [0, 3].all fun seg =>
        let s := postedState i seg
        (s.cmd 1).flight.length == 1 && !earlierSent s (.port 4) (seg / 2) 0 && !fencedPc s (seg / 2) && decide ((s.landing (seg / 2)).weir.length < 4096)) = true)
    ∧ (updWords.all (fun i => [0, 2, 3].all fun seg =>
        let s := visitState i seg
        (s.landing (seg / 2)).weir.length == 1 && ((s.landing (seg / 2)).reaches.get? 3).any Reach.valid && !s.dev.wiping && (s.landing (seg / 2)).riders.isEmpty
          && ((s.landing (seg / 2)).cursors.getD 3 (0, 0)).1 == seg % 2 && visitTurn s ⟨seg / 2, 3, entryOf 5 (seg / 2) 0⟩ == decide (seg < 3) && s.poison == []) = true)
    ∧ [0x10, 0x11, 0x12, 0x13] = updWords.map (fun i => cmdCode (cmdOf i))
    ∧ (let m : Member := ⟨1, 3, entryOf 5 1 0⟩
       let w : Weir := { cmd := 1, slot := 3, seg := 1, word := 1008, op := .write, ety := 1, vals := List.replicate 16 7, stamp := 0 }
       let gran := segByte m 1 4032
       Mem.wf (withStripe State.reset).dram = true ∧ w.word / 16 * 64 * 1 = 4032 ∧ ({ withStripe State.reset with poison := [gran] }).poison.contains gran = true
       ∧ (w.op = .write ∧ w.vals.length = 16) ∧ ¬({ w with op := UpdOp.add }.op = .write) ∧ (withStripe State.reset).poison.contains gran = false) := by decide +kernel

/-! ### Block commands -/

/-- Groups 60 to 63 of sequence 9 at stack 23, pool 4095. -/
def bseqOps : BseqOps := { seqid := 9, stack := 23, pool := 4095, g0 := 60, gnm1 := 3, policy := 2 }

/-- A block command whose request its engine has, with the tables given. -/
def blockCmd (i : Instr) (seqs : Map SeqTable) : State :=
  let s := cmdState i
  s.setBase 23 { s.base 23 with reqs := [.cmd 1], seqs := seqs, pools := [(4095, { ctx := 1, vpn := 64, npages := 2, used := [33, 34] })] }

/-- The table of sequence 9 with the groups given. -/
def table9 (groups : Map Group) : Map SeqTable := [(9, { ctx := 1, pool := 4095, used := 0, groups := groups })]

/-- The block commands of a sequence that exists. -/
def bseqOld : List Instr := [.bseqRestore head bseqOps, .bseqAddg head bseqOps, .bdrop head 9 23]

theorem witness_BlockCommands :
    ([(Instr.bseqNew head bseqOps, ([] : Map SeqTable)), (.bseqNew head bseqOps, table9 [])] ++ bseqOld.map (fun i => (i, [])) ++ bseqOld.map (fun i => (i, table9 []))
      ++ [(Instr.bseqAddg head bseqOps, table9 [(60, { policy := 2 }), (61, { policy := 2 }), (62, { policy := 2 }), (63, { policy := 2 })]),
          (Instr.bdrop head 9 23, table9 [(60, { policy := 2 }), (63, { policy := 2, frame := 5, leaf := [33, 34] })])]).all (fun x =>
        let s := blockCmd x.1 x.2
        cmdReady s 1 && cmdReqIdx (s.base 23) 1 == some 0 && reqTurn s (s.base 23) 0 && (s.base 23).evicted.get? 9 == none && (Word.field (s.cmd 1).word 76 20).toNat == 9 && !cmdForeign s (s.cmd 1).ctx (s.cmd 1).word) = true
    ∧ bseqOld.all (fun i =>
        let s := blockCmd i []
        let t := s.setBase 23 { s.base 23 with evicted := [(9, { ctx := 2, pool := 4095, used := 0, groups := [] })] }
        cmdReady t 1 && cmdReqIdx (t.base 23) 1 == some 0 && reqTurn t (t.base 23) 0 && cmdForeign t (t.cmd 1).ctx (t.cmd 1).word) = true
    ∧ (let s := blockCmd (.bseqNew head bseqOps) [(9, { ctx := 2, pool := 4095, used := 0, groups := [] })]
       cmdReady s 1 = true ∧ cmdForeign s (s.cmd 1).ctx (s.cmd 1).word = true)
    ∧ anyTable ((blockCmd (.bseqNew head bseqOps) []).base 23) 9 = none ∧ ((blockCmd (.bseqNew head bseqOps) []).base 23).seqs.length < Config.seqRecords
    ∧ (anyTable ((blockCmd (.bseqNew head bseqOps) (table9 [])).base 23) 9).isSome = true
    ∧ (let t : SeqTable := { ctx := 1, pool := 4095, used := 0, groups := [(60, { policy := 2 }), (63, { policy := 2, frame := 5, leaf := [33, 34] })] }
       fullGroup t = some (63, { policy := 2, frame := 5, leaf := [33, 34] })) := by decide +kernel

/-! ### Port commands, the address generator, round marks -/

/-- A `bind` of loops to the sink in slot 0 of the region's first tile. -/
def bindOps : BindOps := { base := 0, stile := 0, sslot := 0 }
/-- A page. -/
def pageOps : PageOps := { vpn := 0x7FFFFFFFF, fpool := 0, fpage := 0 }

/-- A command at the PT of the placed launch, whose tile has a unit section, routes 0 and 15, and its port unit as given. -/
def ptCmd (i : Instr) (p : PortUnit) : State :=
  let s := cmdState i
  { s with tiles := [(4, { kind := .pt, region := some reg, units := [0, 0], routes := [(0, { hops := [none] }), (15, { hops := [none] })] })], ports := [(4, p)] }

/-- The same in a launch in tempo mode. -/
def tempoCmd (i : Instr) (p : PortUnit) : State := inTempo (withStripe (ptCmd i p))

/-- The unit section of a PT with two loops, TGT the left latch of slot 1: CNT0 3, STR0 -8, CNT1 4, STR1 64 (R26). -/
def loopUnits : List Word64 := [0x8000000000000000, (2 <<< 58) ||| (0x001 <<< 46), (3 <<< 32) ||| 0xFFFFFFF8, (4 <<< 32) ||| 64]

/-- A PT whose generator runs. -/
def genState (lc : List Nat) : State :=
  let s := tileState 4 { kind := .pt, units := loopUnits, slots := [(1, {})] }
  { s with ports := [(4, { gen := some 1, base := 0x1000, lc := lc, sent := 255 })] }

/-- A `tempo` command's round mark on its way to the second landing. -/
def markState : State :=
  let i := Instr.tempo head 5 0x8001
  { withStripe (after (exec i (tempoCmd i { cr := 5 })) State.reset) with focus := .mark 4 1 }

theorem witness_PortCommands :
    ([Instr.bindStart head bindOps, .bindResume head { bindOps with base := 1 }, .eos head 15 5, .drainCmd head 0x8001, .drainCmd head 0, .tempo head 5 0x8001, .fenceE head false,
      .fenceE head true, .cfgld head 0, .cfgld head 4095, .unbind head].all (fun i => cmdReady (ptCmd i {}) 1) = true)
    ∧ ((ptCmd (.unbind head) {}).port 4).gen = none
    ∧ (cmdReady (ptCmd (.unbind head) { gen := some 7 }) 1 = true ∧ ((ptCmd (.unbind head) { gen := some 7 }).port 4).gen.isSome = true)
    ∧ (ptCmd (.tempo head 5 0) {}).launchFlag 1 1 = false
    ∧ (cmdReady (tempoCmd (.tempo head 5 0x8001) { cr := 5 }) 1 = true ∧ (tempoCmd (.tempo head 5 0x8001) { cr := 5 }).launchFlag 1 1 = true)
    ∧ ([(4, true), (5, true), (6, false)].all (fun x =>
        let s := tempoCmd (.tempo head 5 0x8001) { cr := 5, eddy := [(3, { kv := false, cls := 1, order := 0, tag := 0, seq := 0, body := 0, cmd := 1, round := x.1 })] }
        cmdReady s 1 && s.launchFlag 1 1 && roundDiverted s 4 5 == x.2) = true)
    ∧ roundDiverted (tempoCmd (.tempo head 5 0x8001) { cr := 5 }) 4 5 = false
    ∧ (((ptCmd (.cfgld head 0) {}).kernelOf 1).blocks.get? 0).isSome = true ∧ ((ptCmd (.cfgld head 4095) {}).kernelOf 1).blocks.get? 4095 = none
    ∧ (let s := fun (far transit : Bool) => withPage (cmdState (.pagein { head with die := 12 } pageOps)) 0x7FFFFFFFF far transit
       [(true, false), (false, false)].all (fun x => cmdReady (s x.1 x.2) 1 && (mapFind (s x.1 x.2) 1 0x7FFFFFFFF).any (fun y => MapEntry.far y.2 == x.1 && MapEntry.transit y.2 == x.2)) = true)
    ∧ ([([0, 0, 0, 0], false), ([2, 3, 0, 0], false), ([0, 4, 0, 0], true)].all (fun x =>
        let s := genState x.1
        s.tileRuns 4 && (s.port 4).gen.isSome && !s.regionStops (s.regionOf 4) && (s.port 4).stopAt.isNone && targetFree (s.tile 4) (.latch .left 1)
          && genEnded (s.tile 4) (s.port 4).lc == x.2) = true)
    ∧ (let s := markState
       (s.cmds.find? (fun c => c.2.station == .port 4 && cmdCode c.2.word == 0x30 && c.2.pending.contains 1)).isSome = true ∧ earlierSent s (.port 4) 1 0 = false) := by decide +kernel

end Sys2Proof.Tests
end

