-- ==== Sys2Proof/Tests/LaunchWitnesses.lean ====
section
/-! SUPPORT. For each statement about regions, routes, channels and launches, states that meet its hypotheses, clause by clause. -/

namespace Sys2Proof.Tests

set_option Elab.async false

open Sys2Proof.Machine

/-! ### Regions -/

/-- A loaded block 0 and a block 4095 of the placed region; entry port 15 of each is the left latch of slot 3 of the first PT. -/
def withBlocks (s : State) : State :=
  let ports := List.replicate 16 ({ tile := 0, slot := 3, pos := .left } : Port)
  let blk : Block := { region := 0, images := [], entries := ports }
  { s with kernels := s.kernels.put 1 { s.kernels.getD 1 { ctx := 1, regions := [], blocks := [] } with blocks := [(0, blk), (4095, blk)] } }

/-- The carve-out of the placed launch in KiB. -/
def withCarve (s : State) (kib : Nat) : State := s.setLaunch 1 { s.launch 1 with packet := pkPut 0x14 (BitVec.ofNat 16 kib) }

/-- A `jump` with a token, in a region with a census. -/
def jumpState (block : BitVec 12) (census : Int) (kib : Nat) (x : TT) : State :=
  let s := withCarve (withBlocks (slotState (.jump (opTo .ctl .none .none) block 15) { left := some { tt := x, tag := 7, vc := 3 } })) kib
  s.setRegion reg { s.region reg with census := census }

/-- The region of the first PT's entry latch, with the latch empty. -/
def entryState (transit parked : List Parked) (census : Int) : State :=
  let s := withBlocks (placeLaunch State.reset)
  let s := s.setRegion reg { s.region reg with census := census, transit := transit, queues := [(0, parked)] }
  { s with focus := .regionItem reg 15, tiles := [(4, { kind := .pt, region := some reg, slots := [(3, {})] })] }

/-- A token for entry port 15 of block 0. -/
def parkedFor (entry : Nat) : Parked := { block := 0, entry := entry, tok := { tag := 7 }, stile := 0, sslot := 3 }

/-- A region at the end of its phase, or not. -/
def phaseState (f : Region → Region) : State :=
  let s := withBlocks (placeLaunch State.reset)
  { s.setRegion reg (f (s.region reg)) with focus := .region reg }

/-- What R240, R243 and R244 ask of a token for an entry port: its block loaded and nothing parked for the port, room in the carve-out, room in the overflow ring. -/
def jumpCase (s : State) (b e : Nat) : Bool × Bool × Bool :=
  let rg := s.region reg
  let q := blockQueue rg b
  let x := s.ctx (s.launch rg.launch).ctx
  (rg.block == some b && rg.loading.isNone && q.all (fun y => y.entry != e),
   q.all (fun y => y.overflow.isNone || y.fetched) && carveUsed rg < 8 * carveKiB s rg.launch,
   128 ≤ overflowSize s (s.launch rg.launch).ctx && (x.unread.isEmpty || overflowNext s (s.launch rg.launch).ctx x.wptr != x.rptr))

theorem witness_RegionLife :
    ([(1, TT.data), (2147483648, .control)].all (fun x =>
        let i := Instr.jump (opTo .ctl .none .none) 0 15
        let s := jumpState 0 x.1 0 x.2
        slotReady s (tileFor i) 0 && ownerRegion s (s.launchOf (tileFor i)) 0 == some reg && (jumpCase s 0 15).1 && (s.region (s.regionOf (tileFor i))).census == x.1) = true)
    ∧ (let i := Instr.jump (opTo .ctl .none .none) 4095 15
       let s := fun (kib : Nat) => jumpState 4095 1 kib .data
       slotReady (s 1) (tileFor i) 0 = true ∧ ownerRegion (s 1) ((s 1).launchOf (tileFor i)) 4095 = some reg ∧ jumpCase (s 1) 4095 15 = (false, true, false) ∧ jumpCase (s 0) 4095 15 = (false, false, false)
       ∧ slotReady (s 0) (tileFor i) 0 = true ∧ slotReady (jumpState 4095 0 1 .data) (tileFor i) 0 = true ∧ blockQueue ((s 1).region reg) 4095 = [] ∧ Mem.wf (s 1).scratch = true
       ∧ (let t := { withStripe (s 0) with contexts := [(1, { overflow := some 5 })] }
          slotReady t (tileFor i) 0 = true ∧ ownerRegion t (t.launchOf (tileFor i)) 4095 = some reg ∧ jumpCase t 4095 15 = (false, false, true)))
    ∧ ([0, 2147483646].all (fun n =>
        let s := entryState [parkedFor 15] [] n
        s.regionRuns reg && (entryPort s reg 15).any (fun pt => pt.slot == 3 && ((s.slot (regionTile (s.region reg) pt.tile) pt.slot).at_ pt.pos).isNone)
          && (s.region reg).transit == [parkedFor 15] && (s.region reg).census == n) = true)
    ∧ (let s := entryState [parkedFor 14] [parkedFor 14, parkedFor 15] 0
       s.regionRuns reg = true ∧ (entryPort s reg 15).isSome = true ∧ (s.region reg).block = some 0 ∧ (∀ x ∈ (s.region reg).transit, x.entry ≠ 15)
       ∧ nextParked (s.launchFlag 1 1) (blockQueue (s.region reg) 0) 15 = some (parkedFor 15) ∧ (parkedFor 15).overflow = none
       ∧ (parkedFor 15).tok.tt = .data ∧ (s.region reg).spills = [])
    ∧ (let s := phaseState (fun r => { r with cfgNext := some 4095 })
       regionQuiet s reg = true ∧ (s.region reg).quiet = false ∧ s.launchFlag 1 1 = false ∧ s.regionStops reg = false ∧ (s.region reg).cfgNext = some 4095 ∧ (s.region reg).loading = none)
    ∧ (let s := phaseState (fun r => { r with quiet := true, due := true })
       regionQuiet s reg = true ∧ (s.region reg).due = true ∧ (s.region reg).cfgNext = none ∧ (s.region reg).loading = none ∧ s.regionStops reg = false)
    ∧ regionQuiet (phaseState (fun r => { r with census := 1 })) reg = false
    ∧ (let s := phaseState (fun r => { r with loading := some 4095 })
       (s.region reg).loading = some 4095 ∧ (blockOf s reg 4095).any (fun b => crcReport b == 0) = true ∧ (s.region reg).block.isSome = true ∧ fifoDue s reg = false
       ∧ (phaseState (fun r => { r with loading := some 0, block := none })).regions.has reg = true)
 := by decide +kernel

/-- An entry that leaves from behind another, at the end of its queue and before a third. -/
theorem witness_RegionLife_link :
    ([[], [{ parkedFor 14 with carve := 256 }]] : List (List Parked)).all (fun post =>
      let x : Parked := { parkedFor 14 with carve := 0 }
      let p : Parked := { parkedFor 15 with carve := 128 }
      let s := entryState [] ([x, p] ++ post) 0
      blockQueue (s.region reg) 0 == [] ++ x :: p :: post && x != p && x.overflow.isNone && Mem.wf s.scratch && (s.region reg).spills.isEmpty
        && nextParked (s.launchFlag 1 1) (blockQueue (s.region reg) 0) 15 == some p) = true := by decide +kernel

/-- A region with words to post to the second half of segment 1 of its overflow reach. -/
def spillState (tempo fenced : Bool) : State :=
  let s := withStripe (entryState [] [] 0)
  let s := s.setLaunch 1 { s.launch 1 with packet := pkPut 1 (if tempo then (2 : BitVec 8) else 0) }
  { s.setRegion reg { s.region reg with spills := [(6144, [1, 2])] } with contexts := [(1, { overflow := some 5 })], links := if fenced then [(0, { fenced := true }), (1, { fenced := true })] else [] }

theorem witness_RegionLife_spills :
    ([false, true].all fun tempo => [false, true].all fun fenced =>
      let s := spillState tempo fenced
      s.focus == .regionItem reg 15 && (s.region reg).spills == [(6144, [1, 2])] && !(s.port (regionTile (s.region reg) 0)).qStopped
        && (overflowPlace s 1 6144).any (fun x => fencedPc s x.1.pc == fenced && !earlierSent s (.port (regionTile (s.region reg) 0)) x.1.pc s.sends && weirRoom s x.1.pc 1 && decide (tempoHeldAt s x.1.pc < 2048) && x.2.2 == 2048)
        && (spillRound s reg).isSome == tempo && !s.saved.has (s.region reg).launch) = true := by decide +kernel

/-- A region with threads parked for blocks 1, 2 and 4095 that have the ages given. -/
def waitingRegion (ages : Map Nat) : Region :=
  let p := fun (b : Nat) (t : Tag) => ({ block := b, entry := 0, tok := { tag := t }, stile := 0, sslot := 0 } : Parked)
  { (placeLaunch State.reset).region reg with queues := [(1, [p 1 0]), (2, [p 2 0, p 2 1]), (4095, [p 4095 0, p 4095 1])], ages := ages }

theorem witness_RegionLife_ages :
    (let r := waitingRegion []
     r.queues.keys.Pairwise (· < ·) ∧ [1, 2, 4095].all (fun b => blockQueue r b != [] && r.block != some b && decide (r.ages.getD b 0 < 16)) = true ∧ schedPick r = some 2)
    ∧ (let r := waitingRegion [(1, 16), (2, 15), (4095, 16)]
       16 ≤ r.ages.getD 1 0 ∧ schedPick r = some 1)
    ∧ schedPick { waitingRegion [] with queues := [] } = none
    ∧ (let s := (phaseState id).setRegion reg { waitingRegion [(1, 3)] with block := some 0 }
       let t : State := { s with focus := .region reg }
       t.regions.has reg = true ∧ regionQuiet t reg = true ∧ (t.region reg).quiet = false ∧ (t.region reg).loading = none ∧ (t.region reg).cfgNext = none ∧ t.regionStops reg = false ∧ t.launchFlag 1 1 = false) := by
  decide +kernel

/-- A region of a tempo launch whose one node has, or has not, passed the drain wave on. -/
def waveState (drained : Bool) : State :=
  let s := phaseState id
  let s := s.setLaunch 1 { s.launch 1 with packet := pkPut 1 (2 : BitVec 8) }
  { s with tiles := [(4, { kind := .pt, region := some reg, slots := [(3, { word := wordOf (.add (opTo .u32 (.latch .left 9) .none)), drained := drained }), (9, { word := nopWord })] })] }

theorem witness_RegionLife_wave :
    ([true, false].all fun d =>
      let s := waveState d
      s.regions.has reg && !(s.region reg).closed && s.launchFlag 1 1 && regionQuiet s reg && !(s.region reg).quiet && !s.regionStops reg && (s.region reg).loading.isNone
        && (s.slot 4 3).drained == d && (s.slot 4 9).word == nopWord && (portsFed (s.tile 4)).isEmpty && (s.slot 4 3).word != nopWord) = true := by decide +kernel

/-- A report as a function of the image that does not match (R14). -/
def reportOf (o : Option (Nat × Image)) : BitVec 64 := match o with
  | some im => (3 : BitVec 8) ++ BitVec.ofNat 11 im.1 ++ (0x1C : BitVec 10) ++ (0 : BitVec 35)
  | none => 0

/-- The report of a block of images. -/
theorem crcReport_images (l : Map Image) : crcReport { region := 0, images := l } = reportOf (l.find? (fun im => imageCrc im.2.bits != Img.chk im.2.bits)) := rfl

/-- A list of one element that passes a test is found. -/
theorem find_one (p : Nat × Image → Bool) (im : Nat × Image) (h : p im = true) : [im].find? p = some im := by simp [h]

/-- The report of an image whose CHK does not match. -/
theorem report_bad (x : BitVec 8192) (h : imageCrc x ≠ Img.chk x) : crcReport { region := 0, images := [(0, { bits := x })] } ≠ 0 := by
  have p : (fun (im : Nat × Image) => imageCrc im.2.bits != Img.chk im.2.bits) (0, { bits := x }) = true := bne_iff_ne.mpr h
  rw [crcReport_images, find_one _ _ p]
  show (3 : BitVec 8) ++ BitVec.ofNat 11 0 ++ (0x1C : BitVec 10) ++ (0 : BitVec 35) ≠ 0
  decide

/-- There is an image whose CHK does not match: two images that differ in CHK alone have one CRC (R13, R14). -/
theorem witness_RegionLife_chk : ∃ x : BitVec 8192, crcReport { region := 0, images := [(0, { bits := x })] } ≠ 0 := by
  have same : imageCrc 0 = imageCrc (1 <<< 224) := by
    unfold imageCrc
    rw [show Word.setField (1 <<< 224 : BitVec 8192) 224 (0 : BitVec 32) = Word.setField (0 : BitVec 8192) 224 (0 : BitVec 32) by decide +kernel]
  have other : Img.chk (0 : BitVec 8192) ≠ Img.chk (1 <<< 224) := by decide +kernel
  by_cases h : imageCrc (0 : BitVec 8192) = Img.chk 0
  · exact ⟨_, report_bad _ (fun e => other (by rw [← h, same, e]))⟩
  · exact ⟨_, report_bad _ h⟩

/-! ### Routes and channels -/

/-- A PT with a route of two hops and a channel. -/
def routeState (hops : List (Option Tok)) (c : Chan) (f : Lane) : State :=
  tileState 4 { kind := .pt, routes := [(15, { hops := hops })], chans := [(31, c)], sregs := [(15, f)], slots := [(1, {}), (2, { out := [⟨.latch .left 1, { tok := tt .data }⟩] })] }

/-- A channel of a format with scale register 15, its scale queue, the token at its decoder and its decoded tokens. -/
def chanOf (fmt : Nat) (sreg : Nat) (pack : Bool) (queue : List (BitVec 16)) (x : Option Tok) (parts : List Parcel) : Chan :=
  { entry := BitVec.ofNat 16 (fmt * 4096 + sreg * 256 + (if pack then 128 else 0)), dst := .latch .left 1, arrived := x, queue := queue, parts := parts }

/-- A channel whose token is for arc 3 of the `join` in slot 1, with arcs at VCs 28 to 31 that hold what is given. -/
def arcState (arcs : List (Option Tok)) : State :=
  let c := chanOf 0 0 false [] none [{ tok := tt .data }]
  tileState 4 { kind := .pt, chans := [(31, c)], slots := [(1, { word := wordOf (.join (opTo .ctl .none .none) false 28 12 3), run := if arcs.isEmpty then .idle else .join arcs })] }

/-- The channel in focus. -/
def atChan (c : Chan) (f : Lane) : State := { routeState [none, none] c f with focus := .chan 4 31 }

theorem witness_RoutesAndChannels :
    (let s := { routeState [some (tt .eos), none] {} 0 with focus := .place (.hop 4 15 0) }
     s.tileThere 4 = true ∧ ((s.tile 4).routes.getD 15 {}).hops = [some (tt .eos), none])
    ∧ (let s := { routeState [] (chanOf 0 0 false [] none [{ tok := tt .data }]) 0 with focus := .place (.chan 4 31) }
       s.tileThere 4 = true ∧ ((s.tile 4).chans.getD 31 {}).parts = [{ tok := tt .data }] ∧ targetFree (s.tile 4) ((s.tile 4).chans.getD 31 {}).dst = true
       ∧ chanArc (s.tile 4) 31 ((s.tile 4).chans.getD 31 {}).dst = none)
    ∧ (let s := { arcState [] with focus := .place (.chan 4 31) }
       s.tileThere 4 = true ∧ ((s.tile 4).chans.getD 31 {}).parts = [{ tok := tt .data }] ∧ chanArc (s.tile 4) 31 ((s.tile 4).chans.getD 31 {}).dst = some (1, 3, 4)
       ∧ (arcsOf 4 (s.slot 4 1).run).getD 3 none = none
       ∧ (let t := { arcState [some (tt .data), none, none, none] with focus := .place (.chan 4 31) }
          (arcsOf 4 (t.slot 4 1).run).getD 3 none = none))
    ∧ (let s := { routeState [] {} 0 with focus := .place (.slot 4 2) }
       s.tileThere 4 = true ∧ (s.slot 4 2).out = [⟨.latch .left 1, { tok := tt .data }⟩] ∧ targetFree (s.tile 4) (.latch .left 1) = true)
    ∧ ([(chanOf 0 0 false [] (some (tt .eos)) [], 0), (chanOf 0 0 false [] (some (tt .data)) [], 0), (chanOf 0 15 false [] (some (tt .data)) [], 0x3F800000),
        (chanOf 5 15 false [0x3F80] (some (tt .data)) [], 0), (chanOf 7 15 false [] (some (tt .data)) [], 0x12344000),
        (chanOf 6 15 true (List.replicate 31 0) (some { tt .scale with seq := 1 }) [], 0), (chanOf 6 15 true [] (some { tt .scale with seq := 32 }) [], 0),
        (chanOf 6 15 true [] (some { tt .scale with seq := 33 }) [], 0), (chanOf 6 15 true [] (some { tt .scale with seq := 0 }) [], 0), (chanOf 0 15 false [] (some { tt .scale with seq := 1 }) [], 0)].all (fun x =>
        let s := atChan x.1 x.2
        (s.tile 4).chans.has 31 && s.tileThere 4 && ((s.tile 4).chans.getD 31 {}).arrived.isSome && ((s.tile 4).chans.getD 31 {}).parts.isEmpty) = true)
    ∧ (chanSx (chanOf 5 15 false [] none []) = true ∧ chanPack (chanOf 5 15 false [] none []) = false ∧ chanSx (chanOf 7 15 false [] none []) = true ∧ chanSx (chanOf 6 15 true [] none []) = true
       ∧ chanSx (chanOf 0 15 false [] none []) = false ∧ chanSreg (chanOf 0 0 false [] none []) = 0 ∧ chanSreg (chanOf 0 15 false [] none []) = 15) := by decide +kernel

/-- A token at the last hop of a route that ends at inbound channel 31 of tile 4 itself, with the channel free and taken. -/
theorem witness_RoutesAndChannels_last :
    [none, some (tt .drain)].all (fun x =>
      let k := 4
      let e : Word64 := BitVec.ofNat 64 (31 * 2 ^ 42)
      let s := tileState k { kind := .pt, routes := [(15, { entry := e, hops := [none, some (tt .eos)] })], chans := [(31, { arrived := x })] }
      let s := { s with focus := .place (.hop k 15 1) }
      let rt := (s.tile k).routes.getD 15 {}
      let d := regionTile (s.region (s.regionOf k)) (routeTile rt.entry)
      s.tileThere k && rt.hops == [none, some (tt .eos)] && d == 4 && (routeDvc rt.entry).toNat == 31 && ((s.tile d).chans.getD 31 {}).arrived == x) = true := by decide +kernel

/-- A data token at a channel of 8-bit integers, and at packed channels with as many scale words queued as it needs and with none. -/
theorem witness_RoutesAndChannels_formats :
    ([(chanOf 4 15 false [] (some (tt .data)) [], 0x3F800000), (chanOf 5 15 true [1, 2, 3, 4] (some (tt .data)) [], 0), (chanOf 6 15 true [] (some (tt .data)) [], 9)].all (fun x =>
      let s := atChan x.1 x.2
      let c := (s.tile 4).chans.getD 31 {}
      s.tileThere 4 && c.arrived == some (tt .data) && c.parts.isEmpty && chanSreg c == 15) = true)
    ∧ chanFmt (chanOf 4 15 false [] none []) = 4 ∧ chanSx (chanOf 5 15 true [] none []) = true ∧ chanPack (chanOf 5 15 true [] none []) = true := by decide +kernel

/-! ### Launches -/

/-- A launch that has nothing left to do, and one that has. -/
def overState (census : Int) : State :=
  let s := placeLaunch State.reset
  let s := s.setRegion reg { s.region reg with census := census }
  { s with focus := .launch 1, seqs := [(seqTile, { region := reg, halted := true })] }

/-- A launch that is to be pre-empted, with a save reach of one page of 2 MiB. -/
def stoppingState : State :=
  let s := placeLaunch State.reset
  let s := s.setLaunch 1 { s.launch 1 with stopping := true, queue := 3, packet := pkPut 0x10 (0x0101 : BitVec 16) }
  let save : BitVec 128 := (1 : BitVec 1) ++ (0 : BitVec 2) ++ (9 : BitVec 4) ++ (0 : BitVec 1) ++ (1 : BitVec 16) ++ (0 : BitVec 14) ++ (12 : BitVec 4) ++ (0 : BitVec 26) ++ (1024 : BitVec 24) ++ (0 : BitVec 36)
  { s with focus := .launch 1, contexts := [(1, { save := some 9 })], landings := [(0, { reaches := [(2, save)] })] }

/-- A waiting launch of one quad in queue 3 of context 1, whose kernel is resident. -/
def admitState : State :=
  let s := placeLaunch State.reset
  { s with focus := .device, launches := [], regions := [], contexts := [(1, { rects := [quad10] })]
           queues := [(3, { enabled := true, ctx := 1, entries := 4, waiting := some { ticket := 9, stamp := 5, packet := pkPut 0x04 (1 : BitVec 32) ||| pkPut 0x10 (0x0101 : BitVec 16) } })] }

/-- A record of a sequencer. -/
def aTrap (fatal : Bool) : Trap := { bits := 0, agent := .seq seqTile, fatal := fatal, launch := 1 }

/-- A context with a record offered and `n` entries in use. -/
def trapState (fatal handler : Bool) (n : Nat) : State :=
  { placeLaunch State.reset with focus := .ctx 1, contexts := [(1, { offered := [aTrap fatal], handler := handler, tq := (List.range n).map fun i => (i, { trap := aTrap false, used := true }) })] }

theorem witness_LaunchLife :
    ((overState 0).launches.has 1 = true ∧ kernelOver (overState 0) 1 = true ∧ ((overState 0).launch 1).tail = none ∧ kernelOver (overState 1) 1 = false)
    ∧ (let s := stoppingState
       (s.launch 1).stopping = true ∧ (s.launch 1).killing = false ∧ (s.launch 1).resuming = false ∧ (s.launch 1).phase = .running ∧ takePages s (s.launch 1) = some [0]
       ∧ (launchKeys (s.launch 1)).all (fun k => unitStops s k (s.tile k) && tileSettled s k) = true
       ∧ (let t := { s with contexts := [(1, { slice := 3000 })] }
          (t.launch 1).stopping = true ∧ (t.launch 1).killing = false ∧ (t.launch 1).resuming = false ∧ (t.launch 1).phase = .running ∧ takePages t (t.launch 1) = none))
    ∧ (let s := admitState
       dropLate s = s ∧ reservedOf s (ranked s) = none
       ∧ (firstFit (s.setDev { s.dev with reserved := none }) (ranked s)).any (fun x => x.1.isEmpty && x.2.1.queue == 3 && x.2.1.again.isNone && x.2.2 == [(0, 1, 0)]) = true)
    ∧ (let s := fun (left : Nat) => { placeLaunch State.reset with focus := .ctx 1, contexts := [(1, { left := left, slice := 3000 })] }
       ((s 0).ctx 1).left = 0 ∧ ((s 1).ctx 1).left ≠ 0 ∧ (s 0).focus = .ctx 1)
    ∧ tqUsed ((trapState false true 253).ctx 1) ≤ 253
    ∧ ([(false, 2), (true, 3)].all (fun x => [true, false].all fun h =>
        let s := trapState x.1 h x.2
        (s.ctx 1).offered == [aTrap x.1] && (x.1 || tqUsed (s.ctx 1) ≤ 253) && tqFree (s.ctx 1) 256 0 == some x.2 && (s.ctx 1).handler == h && s.saved.get? 1 == none) = true)
    ∧ (({ trapState false false 2 with saved := [(1, { tiles := [], seqs := [], ports := [], scratch := [], ram := [], shadow := [] })] } : State).saved.get? 1).isSome = true
    ∧ tqFree ((trapState true true 256).ctx 1) 256 0 = none := by decide +kernel

/-- A launch that is being killed: its one slot has nothing, or has a result that its target takes. -/
def killedState (busy : Bool) : State :=
  let s := placeLaunch State.reset
  let s := s.setLaunch 1 { s.launch 1 with stopping := true, killing := true, packet := pkPut 0x10 (0x0101 : BitVec 16) }
  { s with focus := .launch 1, tiles := [(4, { kind := .pt, region := some reg, slots := [(1, {}), (2, { out := if busy then [⟨.latch .left 1, { tok := tt .data }⟩] else [] })] })] }

/-- A launch that is being restored, whose rides have alighted or have not. -/
def resumingState (riding : Bool) (phase : LaunchPhase) : State :=
  let s := placeLaunch State.reset
  let s := s.setLaunch 1 { s.launch 1 with resuming := true, phase := phase }
  let r : Rider := { cmd := 0, kind := .restore, slot := 2, start := 1 }
  { s with focus := .launch 1, saved := [(1, { tiles := [], seqs := [], ports := [], scratch := [], ram := [], shadow := [] })], landings := [(0, { riders := if riding then [r] else [] })] }

theorem witness_LaunchLife_ends :
    ([true, false].all fun b =>
      let s := killedState b
      (s.launch 1).killing && !(s.launch 1).resuming && decide ((s.launch 1).phase = .running) && killSettled s 1 (s.launch 1) == !b && s.launches.has 1) = true
    ∧ ([true, false].all fun b =>
      let s := resumingState b .saved
      (s.launch 1).resuming && restoring s 1 == b && (s.saved.get? 1).any (fun y => y.answers.isEmpty)) = true
    ∧ (let s := { resumingState true .saved with focus := .ctx 1, contexts := [(1, { offered := [aTrap true] })] }
       (s.saved.get? 1).isSome = true ∧ (s.launch 1).resuming = true ∧ (s.launch 1).phase = .saved ∧ tqFree (s.ctx 1) 256 0 = some 0 ∧ (s.ctx 1).handler = false) := by decide +kernel

end Sys2Proof.Tests
end

