-- ==== Sys2Proof/Tests/DeviceWitnesses.lean ====
section
/-! SUPPORT. For each statement about queues, packets and the device, states that meet its hypotheses, clause by clause. -/

namespace Sys2Proof.Tests

set_option Elab.async false

open Sys2Proof.Machine

/-! ### Packets -/

/-- A queue of a context whose head slot is committed, on a device that takes packets. -/
def withQueue (s : State) (q c : Nat) : State :=
  let x : Queue := { enabled := true, ctx := c, entries := 16, ring := 0x1000, commit := 1 <<< 255, head := 255, next := 0, taken := 1, ticks := [(255, 0xFFF0000000000007)], stamps := [(255, 5)] }
  { s with focus := .queue q, queues := [(q, x)], dev := { s.dev with feats := some 0xF, measured := true } }

/-- A launch packet of one quad for kernel 1 in queue 4095. -/
def launchPacket : Packet := pkPut 0 (1 : BitVec 8) ||| pkPut 2 (4095 : BitVec 16) ||| pkPut 4 (1 : BitVec 32) ||| pkPut 0x10 (0x0101 : BitVec 16)

/-- The launch's context with the partition of its quad, and its queue. -/
def packetState (c : Nat) : State :=
  let s := withQueue (placeLaunch State.reset) 4095 c
  { s with contexts := [(1, { rects := [quad10] })] }

/-- The same with the placed launch as the one of ticket 77, its generator free, its PT loaded. -/
def bindState : State :=
  let s := packetState 1
  let s := s.setLaunch 1 { s.launch 1 with ticket := 77 }
  { s with tiles := [(4, { kind := .pt, region := some reg, units := loopUnits, slots := [(0, {})] })] }

/-- The words of a `bind.start` to slot 0 of tile 0. -/
def bindBits : BitVec 96 := (cmdOf (.bindStart head bindOps)).extractLsb' 0 96

theorem witness_QueuePackets :
    ((packetState 1).focus = .queue 4095 ∧ (headPacket (packetState 1) 4095).isSome = true)
    ∧ (let s := packetState 1; launchCheck (takePacket s 4095 launchPacket).2 4095 launchPacket = none ∧ launchCheck (takePacket s 4095 0).2 4095 0 = some 4
       ∧ (let s0 := packetState 0; launchCheck (takePacket s0 4095 launchPacket).2 4095 launchPacket = some 6))
    ∧ (let s := bindState
       let y := takePacket s 4095 (packetOf (.bindPacket 4095 77 bindBits 0 0))
       let k := regionTile (s.region reg) 0
       (headPacket s 4095).isSome = true ∧ (launchByTicket y.2 77).any (fun l => l.1 == 1 && l.2.ctx == 1 && l.2.phase == .running) = true ∧ s.regions.has (regionId 1 0) = true
       ∧ 0 ∈ regionRels (s.region reg) ∧ Config.tileKind 0 = .pt ∧ s.regionThere reg = true ∧ s.saved.has 1 = false
       ∧ (let id := s.nextCmd + 1
          let c : Cmd := { word := bindWord k bindBits, station := .port k, origin := .packet 4095 y.1.ticket, launch := 1, ctx := 1, region := reg }
          verdict { y.2.setCmd id c with nextCmd := id } id c = none)
       ∧ (s.setRegion reg { s.region reg with loading := some 0 }).regionThere reg = false ∧ (s.setRegion reg { s.region reg with loading := some 0 }).regions.has reg = true)
    ∧ (((packetState 0).queue 4095).ctx = 0 ∧ ((packetState 1).queue 4095).ctx = (1 : BitVec 16).toNat ∧ ¬(((packetState 1).queue 4095).ctx = 0 ∨ ((packetState 1).queue 4095).ctx = (0xFFFF : BitVec 16).toNat))
    ∧ (let s := { packetState 1 with launches := [] }
       (headPacket s 4095).isSome = true ∧ (s.kernels.get? 1).any (fun k => k.ctx == 1) = true ∧ handleUsed s 1 = false ∧ handleUsed (packetState 1) 1 = true)
    ∧ (let s := packetState 1
       let t := s.setLaunch 1 { s.launch 1 with phase := .retired }
       s.launches.has 1 = true ∧ (s.launch 1).ctx = (1 : BitVec 16).toNat ∧ (s.launch 1).phase = .running ∧ s.regions.has reg = true ∧ (s.region reg).launch = 1 ∧ s.queues.has 4095 = true
       ∧ (t.launch 1).phase ≠ .running ∧ t.launches.any (fun l => l.2.ctx == 1 && l.2.phase == .running) = false ∧ (headPacket t 4095).isSome = true) := by decide +kernel

/-- A queue of the management context, with the stripe 5 of context 1 on stack 23 in segments of 4 KiB, page 5 mapped in it, a pool and a key. -/
def manageState (c : Nat) : State :=
  let e := (entryOf 5 0 0) &&& ~~~((0xFFFFFF : BitVec 128) <<< 36) ||| ((1024 : BitVec 128) <<< 36)
  let f := (entryOf 5 1 0) &&& ~~~((0xFFFFFF : BitVec 128) <<< 36) ||| ((1024 : BitVec 128) <<< 36)
  let s := withQueue State.reset 0 c
  let s := { s with landings := [(23 * 64, { reaches := [(3, e)], cursors := [(3, (0, 0))] }), (23 * 64 + 1, { reaches := [(3, f)], cursors := [(3, (0, 0))] }), (23 * 64 + 2, { reaches := [(0, backwater 22528 64)] })] }
  let s := s.setBase 5 { home := [(0, MapEntry.mk 1 5 false true true false 5 3)], keys := [(0, 1)] }
  s.setBase 23 { keys := [(0, 1), (255, 2)], pools := [(7, { ctx := 1, vpn := 9, npages := 1, used := [] })] }

/-- A reach of context 1 over all of a pseudo-channel's 22,528 units, with a share of 64: the stripe 6, of one member, tagged RAW. -/
def newReach : BitVec 128 := (entryOf 6 0 0 &&& ~~~((0x7FF : BitVec 128) <<< 60) &&& ~~~((0xFFFFFF : BitVec 128) <<< 36)) ||| ((360448 : BitVec 128) <<< 36) ||| (63 <<< 90) ||| (1 <<< 82)

theorem witness_ManagementPackets :
    ((manageState 0).focus = .queue 0 ∧ (headPacket (manageState 0) 0).isSome = true ∧ ((manageState 0).queue 0).ctx = 0 ∧ (headPacket (manageState 1) 0).isSome = true
     ∧ ((manageState 1).queue 0).ctx ≠ 0)
    ∧ (qsetOk 4095 16 7 = true ∧ qsetOk 4095 65536 3 = true)
    ∧ (List.replicate 8 quad10 ≠ [] ∧ (List.replicate 8 quad10).length ≤ 8 ∧ (List.replicate 8 quad10).all rectFieldsOk = true ∧ rectFieldsOk 0xBFE00000 = true)
    ∧ feature (manageState 0) 2 = true
    ∧ (let s := manageState 0
       reachPlaceOk 23 2 0 = true ∧ stageBad s (23 * 64 + 2, 0, newReach) = false ∧ commitOk (tablesAhead s) (stageWith s (23 * 64 + 2, 0, newReach)) = true)
    ∧ (let s := manageState 0
       let b := s.base 23
       23 < Config.stackCount ∧ 4095 < 4096 ∧ b.pools.has 4095 = false ∧ (b.pools.map (fun p => p.2.npages)).sum + 1 ≤ Config.poolPages
       ∧ (mapFind s 1 5).any (fun x => MapEntry.r x.2 && MapEntry.w x.2 && pageOnStack s 1 23 x.2) = true
       ∧ (b.pools.get? 7).any (fun p => p.ctx == 1 && p.used.isEmpty) = true)
    ∧ (keyPlaceOk 23 255 = true ∧ keyPlaceOk 0xFF 1 = true ∧ (manageState 0).dev.measured = true ∧ keyNamed (manageState 0) 23 255 = false)
    ∧ (let s := manageState 0
       let t := s.setDev { s.dev with lc := .provisioned }
       t.dev.lc ≠ .deployed ∧ (headPacket t 0).isSome = true ∧ t.dev.measured = true)
    ∧ (let s := manageState 0
       mapBad s 1 6 1 2 0 5 3 = false ∧ (s.base (homeOf 6)).home.lowestFree Config.homeEntries 0 = some 0
       ∧ (mapFind s 1 5).isSome = true ∧ unmapping s 1 5 = false ∧ anyCached s 1 5 1 = false
       ∧ anyCached (s.setPort 4 { cache := [MapEntry.mk 1 5 false true true false 5 3] }) 1 5 1 = true ∧ stripe s 1 5 ≠ [] ∧ 128 ≤ Stripe.g (stripe s 1 5) ∧ feature s 3 = true ∧ (s.ctx 1).farpools.has 0xFFFF = false) := by
  decide +kernel

/-! ### Registers -/

/-- A queue with `n` reservations. -/
def reserved (n : Nat) : State :=
  let s := withQueue State.reset 4095 1
  s.setQueue 4095 { s.queue 4095 with taken := n, next := 255 }

/-- An entry 255 of a trap queue with a record of some agent and cause. -/
def entered (a : Agent) (cause : BitVec 8) (word fatal : Bool) : TqEntry :=
  { used := true, trap := { agent := a, fatal := fatal, launch := 1, bits := pkPut 0x12 cause ||| pkPut 0x13 (if word then (2 : BitVec 8) else 0) ||| pkPut 0x18 (0x80000001 : BitVec 32) } }

/-- A TQACT of that entry. -/
def actWord (act : Nat) : BitVec 64 := (0x80000001 : BitVec 32) ++ (0 : BitVec 16) ++ BitVec.ofNat 8 act ++ (0xFF : BitVec 8)

/-- A handler's queue of context 1 and its trap queue. -/
def actState (e : TqEntry) (act : Nat) : State :=
  let s := withQueue (seqState { stopped := true, cause := 0x11 }) 0 1
  { s with focus := .tqact 0 1 (actWord act), contexts := [(1, { tq := [(255, e)], handler := true, tqres := 9 })], tiles := s.tiles.put 4 { kind := .pt, region := some reg, slots := [(31, { stopped := true })] } }

theorem witness_QueueRegisters :
    ([0, 255, 256].all (fun n => (reserved n).focus == .queue 4095 && queueTakes (reserved n) 4095 && ((reserved n).queue 4095).taken == n) = true)
    ∧ (queueTakes { reserved 0 with focus := .commit 4095 3 1 } 4095 = true ∧ queueTakes { reserved 0 with focus := .reg (.slot 4095 255 launchPacket) } 4095 = true
       ∧ queueTakes { reserved 0 with focus := .reg (.slot 4094 0 0) } 4094 = false)
    ∧ Mem.wf (reserved 0).host = true
    ∧ ([(entered (.slot 4 31) 0x12 false false, 1), (entered (.seq seqTile) 0x11 true false, 2), (entered (.seq seqTile) 0x02 false true, 3)].all (fun x =>
        let s := actState x.1 x.2
        s.focus == .tqact 0 1 (actWord x.2) && tqAccess s 0 1 && (Word.field (actWord x.2) 16 16 : BitVec 16) == 0 && (Word.field (actWord x.2) 0 8 : BitVec 8).toNat == 255
          && (Word.field (actWord x.2) 8 8 : BitVec 8).toNat == x.2 && (s.ctx 1).tq.get? 255 == some x.1 && x.1.used && (pk x.1.trap.bits 0x18 4 : BitVec 32) == Word.field (actWord x.2) 32 32
          && !s.saved.has 1 && decide ((s.launch 1).phase = .running) && (s.seq seqTile).wait == .none && (s.seq seqTile).fails == []) = true)
    ∧ ((pk (entered (.slot 4 31) 0x12 false false).trap.bits 0x12 1 : BitVec 8) = 0x12 ∧ (pk (entered (.seq seqTile) 0x11 true false).trap.bits 0x13 1 : BitVec 8).getLsbD 1 = true)
    ∧ ([false, true].all (fun again =>
        let e := entered (.seq seqTile) 0x02 false true
        let s := actState e 3
        let t : State := { s.setLaunch 1 { s.launch 1 with phase := .saved, resuming := again } with saved := [(1, { tiles := [], seqs := [], ports := [], scratch := [], ram := [], shadow := [] })] }
        (t.saved.get? e.trap.launch).isSome && (t.launch e.trap.launch).resuming == again && decide ((t.launch e.trap.launch).phase = .saved) && tqAccess t 0 1) = true) := by
  decide +kernel

/-! ### Across hours -/

/-- A link direction in focus. -/
def linkState (x : Link) (again : Bool) : State := { State.reset with focus := .link 23 1 15 again 9, links := [(47, x)] }

/-- A pseudo-channel's bank test in focus. -/
def bankState (x : Landing) (failing : List Nat) : State := { State.reset with focus := .bank 5 failing, landings := [(5, x)] }

/-- Thirty-two repairs of bank 63. -/
def fullBank : List (BitVec 32) := (List.range 32).map (fun i => repairEntry 63 7 i)

theorem witness_LinksAndBanks :
    ([({} : Link), { crc := [(15, [8, 7, 6, 5, 4, 3, 2])], flits := 8, replay := true, fails := 2 }, { crc := [(15, [1])], flits := 2 ^ 24, replay := true, fails := 3 }].all (fun x => [x.replay, false].all fun again =>
        let s := linkState x again
        s.focus == .link 23 1 15 again 9 && linkOf s 23 1 == x && !(linkOf s 23 1).fenced && (!again || (linkOf s 23 1).replay)) = true)
    ∧ (linkOf (linkState { due := some 15 } false) 23 1 = { due := some 15 } ∧ linkOf (linkState { fails := 3, replay := true } false) 23 1 = { fails := 3, replay := true })
    ∧ (((bankState {} []).landing 5).parked = none ∧ ((bankState {} []).landing 5).retired = [] ∧ (bankState {} []).dev.wiping = false)
    ∧ (let l : Landing := { parked := some 63, testing := true }
       ((bankState l [65535]).landing 5).parked = some 63 ∧ (bankState l []).dev.selfTest = none
       ∧ (let s := { bankState {} [63 * 65536 + 65535] with dev := { State.reset.dev with selfTest := some [4] } }
          s.focus = .bank 5 [63 * 65536 + 65535] ∧ s.dev.selfTest = some [4] ∧ 5 ∉ [4] ∧ 63 ∉ (s.landing 5).retired ∧ spareRow (s.landing 5).repairs 63 = some 0
          ∧ spareRow (({ s with landings := [(5, { repairs := fullBank, retired := [62] })] } : State).landing 5).repairs 63 = none) ∧ spareRow l.repairs 63 = some 0 ∧ spareRow fullBank 63 = none ∧ spareRow (fullBank.take 31) 63 = some 31)
    ∧ ((bankState { parked := some 63 } []).landing 5).testing = false
    ∧ (let s := { placeLaunch State.reset with focus := .scrub 4 0, tiles := [(4, { kind := .pt, region := some reg })] }
       (s.tile 4).region = some reg ∧ s.regions.has reg = true ∧ (s.tile 5).region = none)
    ∧ { State.reset with focus := .number 1 }.focus = .number 1 := by decide +kernel

/-- A firmware image. -/
def anImage (svn : BitVec 32) : FwImage := { version := 3, svn := svn, body := [1, 2], sig := [], queues := [4095], windowS := 600, maxTraps := 0, maxStart := 0, maxRun := 0 }

/-- A page move that has started. -/
def moving (i : Instr) : State :=
  let s := cmdState i
  { s.setCmd 1 { s.cmd 1 with admitted := true, underway := true } with focus := .net (.page 1) }

/-- A device with a minimum SVN. -/
def devState (a : Agent) (f : Device → Device) : State := { State.reset with focus := a, dev := f State.reset.dev }

/-- A reach table change that is applied. -/
def applyState : State :=
  { devState .device (fun d => { d with commits := [(0, 7, [(5, 14, newReach)])] }) with landings := [(5, {})], queues := [(0, { enabled := true, entries := 16 })] }

/-- A canary of an image with a window of 600 s, watched for `ns` nanoseconds. -/
def watched (ns : Nat) (passed : Option Nat) : State :=
  devState .device (fun d => { d with dtime := BitVec.ofNat 64 (5 + ns), canary := some { image := anImage 4, since := 5, passed := passed } })

theorem witness_DeviceEvents_canary :
    [(0, none), (599999999999, none), (600000000000, none), (0, some 2)].all (fun x =>
      let s := watched x.1 x.2
      s.focus == .device && s.dev.canary.any (fun c => canaryPassed s c == x.2 && decide (s.dev.dtime.toNat < c.since.toNat + 1000000000 * c.image.windowS) == decide (x.1 < 600000000000))) = true := by
  decide +kernel

theorem witness_DeviceEvents :
    ((devState (.time 5) id).dev.stepped = false ∧ (devState (.time 5) (fun d => { d with stepped := true })).dev.stepped = true)
    ∧ ((devState (.bits 0x3F) id).dev.feats = none ∧ (0x3F : BitVec 128) &&& ~~~Config.offered = 0 ∧ (0x40 : BitVec 128) &&& ~~~Config.offered ≠ 0
       ∧ (devState (.bits 0) (fun d => { d with feats := some 0 })).dev.feats.isSome = true)
    ∧ (let s := devState (.image (anImage 4)) (fun d => { d with minSvn := 5 })
       s.focus = .image (anImage 4) ∧ (anImage 4).svn.toNat < s.dev.minSvn.toNat)
    ∧ (LcState.returned ∈ lcSuccessors (devState (.lifeCycle .returned []) id).dev.lc ∧ LcState.manufacture ∉ lcSuccessors (devState (.lifeCycle .manufacture []) id).dev.lc)
    ∧ ([Instr.pagein { head with die := 12 } pageOps, .pageout { head with die := 12 } pageOps].all (fun i => (moving i).cmds.has 1 && movesPage ((moving i).cmd 1)) = true)
    ∧ cmdCode ((moving (.pagein { head with die := 12 } pageOps)).cmd 1).word = 0x19 := by
  decide +kernel

theorem witness_DeviceEvents_tables : applyState.focus = .device ∧ applyState.dev.commits = [(0, 7, [(5, 14, newReach)])] := by decide +kernel

end Sys2Proof.Tests
end

