-- ==== Sys2Proof/Tests/MachineWitnesses.lean ====
section
/-! SUPPORT. For each statement about the whole machine, states that meet its hypotheses, clause by clause. -/

namespace Sys2Proof.Tests

set_option Elab.async false

open Sys2Proof.Machine

/-! ### Frames -/

/-- Words of a sequencer that answer a next state: one that writes a register, two that store, one that seeds. -/
theorem witness_SequencerFrame :
    [(Instr.seqAddi 1 0 4, seqState {}), (.seqSt 2 1 0xFFF8, atAddr 65528), (.seqStw 2 1 0, atAddr 65532), (.seqSeed 3 2, cfgState { s := [(2, seedTo 0 3 1 0xFF)] } id)].all (fun x =>
      x.1.layer == .seq && x.2.focus == .seq seqTile && nextIs (exec x.1 x.2) (fun t => t.focus == .seq seqTile)) = true
    ∧ (31 : BitVec 5) ≠ 0 := by decide +kernel

/-- A store to the scratchpad of its tile, at the last chunk. -/
def storeState (i : Instr) : State := slotState i { left := some { pay := 524224 }, right := some { pay := 9 } }

theorem witness_NodeFrame :
    (let i := Instr.add (op .i32)
     i.layer = .node ∧ (fullState i).focus = .slot (tileFor i) 0 ∧ nextIs (exec i (fullState i)) (fun t => (t.slot (tileFor i) 1).left.isSome) = true)
    ∧ (let i := Instr.spst (op .ctl) 0 false 0
       i.layer = .node ∧ (storeState i).focus = .slot (tileFor i) 0
       ∧ nextIs (exec i (storeState i)) (fun t => Mem.read t.scratch (tileFor i * 524288 + 524224) == 9) = true)
    ∧ (let i := Instr.add (op .i32)
       let s := { fullState i with focus := .pipe (tileFor i) 0 }
       i.layer = .node ∧ s.focus = .pipe (tileFor i) 0 ∧ nextIs (exec i s) (fun t => !(t.slot (tileFor i) 0).out.isEmpty) = true)
    ∧ (let i := Instr.jump (opTo .ctl .none .none) 4095 15
       let s := jumpState 4095 1 1 .data
       i.layer = .node ∧ s.focus = .slot (tileFor i) 0 ∧ ownerRegion s (s.launchOf (tileFor i)) 4095 = some reg ∧ nextIs (exec i s) (fun t => !t.scratch.isEmpty) = true)
    ∧ (let i := Instr.jump (opTo .ctl .none .none) 4095 15
       let s := jumpState 4095 1 1 .data
       let t := s.setRegion reg { s.region reg with queues := [(4095, [parkedFor 15])] }
       t.focus = .slot (tileFor i) 0 ∧ (blockQueue (t.region reg) 4095).getLast? = some (parkedFor 15) ∧ carveFree t reg ≠ (parkedFor 15).carve
       ∧ nextIs (exec i t) (fun u => (blockQueue (u.region reg) 4095).length == 2) = true) := by decide +kernel

theorem witness_CommandFrame :
    (let i := Instr.boardFlow head boardOps
     i.layer = .cmd ∧ (withStripe (cmdState i)).focus = .cmd 1 ∧ nextIs (exec i (withStripe (cmdState i))) (fun t => (t.cmd 1).admitted) = true)
    ∧ (let i := Instr.statc head 5 3
       i.layer = .cmd ∧ (withStripe (cmdState i)).focus = .cmd 1 ∧ nextIs (exec i (withStripe (cmdState i))) (fun t => (t.cmd 1).admitted) = true)
    ∧ (let i := Instr.statc head 5 3
       let s := fullTempo (tempoCmd i {})
       s.focus = .cmd 1 ∧ s.launchFlag (s.cmd 1).launch 1 = true ∧ 2048 ≤ tempoHeldAt s 1 ∧ nextIs (exec i s) (fun t => (t.ctx 1).offered.length == 1) = true) := by decide +kernel

/-! ### Invariants -/

/-- A machine whose next step is a doubleword store of the placed sequencer at the last doubleword of its RAM. -/
def storing : State :=
  { atAddr 65528 with agenda := [.issue (.seq seqTile)], ram := Mem.store (atAddr 65528).ram (seqTile * 65536) 4 ((encodeSeq (.seqSt 2 1 0)).getD 0) }

theorem witness_MemoryCanonical :
    storing.memOk = true ∧ nextIs (step storing) (fun t => Mem.readN t.ram (seqTile * 65536 + 65528) 8 == [7, 0, 0, 0, 0, 0, 0, 0]) = true := by decide +kernel

/-- A device whose next step commits the canary's image of SVN 4. -/
def committing : State :=
  let s := watched 600000000000 none
  { s with agenda := [.act .device .canaryCommit], dev := { s.dev with minSvn := 2 } }

theorem witness_DeviceNeverGoesBack :
    committing.svnOk ∧ nextIs (step committing) (fun t => t.dev.minSvn == 4) = true := by
  refine ⟨?_, by decide +kernel⟩
  intro c h
  have e : c = { image := anImage 4, since := 5 } := by
    have : some c = some { image := anImage 4, since := 5 } := h.symm
    simpa using this
  subst e
  decide +kernel

/-! ### Encoding and stepping -/

theorem witness_NodeRoundTrip :
    [Instr.add { ty := .i8x4, tga := .route 15, tgb := .latch .pred 31, lk := false, rk := true, pn := true, pe := true, rm := .rn, sat := true, pd := false },
     .sluiceXrRcv (opTo .ctl (.latch .left 1) .none) 4 127 15].all (fun i => i.layer == .node && i.wellFormed && (encodeNode i).isSome) = true := by decide +kernel

theorem witness_WordRoundTrip :
    [Instr.seqCget 7 64 63 31 true, .seqHalt].all (fun i => i.layer == .seq && i.wellFormed && (encodeSeq i).isSome) = true
    ∧ [Instr.kvride head kvOps, .drainCmd head 0xFFFF].all (fun i => i.layer == .cmd && i.wellFormed && (encodeCmd i).isSome) = true := by decide +kernel

theorem witness_StepRunsDecoded :
    (storing.agenda = .issue (.seq seqTile) :: [] ∧ (storing.seq seqTile).pc.toNat < 65536
     ∧ decodeSeq (Word.ofBytes 32 (Mem.readN storing.ram (seqTile * 65536 + (storing.seq seqTile).pc.toNat) 4)) = .ok (.seqSt 2 1 0))
    ∧ decodeNode ((fullState (.add (op .i32))).slot (tileFor (.add (op .i32))) 0).word = .ok (.add (op .i32))
    ∧ decodeCmd ((cmdState (.statc head 5 3)).cmd 1).word = .ok (.statc head 5 3)
    ∧ (let s := packetState 1
       (headPacket (s.setQueue 4095 { s.queue 4095 with slots := [(255, launchPacket)] }) 4095).any (fun p => decide ((decodePacket p).toOption = some (.launch launchPacket))) = true)
    ∧ (committing.agenda = .act .device .canaryCommit :: [] ∧ Instr.canaryCommit.layer = .event)
    ∧ State.reset.agenda = [] := by decide +kernel

/-- The site of a node, and of a sequencer. -/
def siteOf (a : Agent) : Site := { agent := a, launch := 1, die := 0, unitNo := 0, tile := 0 }

/-- A trap of a node and one of a sequencer, of a class that goes on and of one that ends the launch. -/
theorem witness_TrapTaking :
    (siteOf (.slot 4 31)).agent = .slot 4 31 ∧ (siteOf (.seq seqTile)).agent = .seq seqTile ∧ causeFatal 0x02 = true ∧ causeFatal 0x11 = false
    ∧ (let s := seqState {}
       s.regions.has reg = true ∧ (s.region reg).launch = 1 ∧ (s.region (reg + 1)).launch ≠ 1) := by decide +kernel

end Sys2Proof.Tests
end

