-- ==== Sys2Proof/Tests/Slice0.lean ====
section
/-! SUPPORT. The smoke test of WellFormed, with an ill-formed term for each check; the host's two functions; single steps of sequencers, commands, packets and events with results taken from the rules by hand. -/

namespace Sys2Proof.Tests

set_option Elab.async false

open Sys2Proof.Machine

theorem test_halt_word : decodeSeq 0xD0000000 = .ok .seqHalt := by decide

/-! ### What WellFormed refuses -/

/-- R15, R16, R57: the type, SAT, RMODE, PE, PD and PN that a row of the tables does not allow. -/
theorem test_ill_formed_fields : [
    Instr.add (op .f32),
    .mulh { op .i32 with sat := true },
    .add { op .i32 with rm := .rz },
    .perm { op .ctl with pd := true, pe := true },
    .add { op .i32 with pn := true },
    .icmp { op .i32 with pe := true } 0,
    .add { op .i32 with pd := true },
    .sel (op .ctl)].all (fun i => !i.wellFormed) = true := by decide +kernel

/-- R16, R57, R117: LK and RK where the row has no such operand or does not allow it, and a slot with every operand sticky. -/
theorem test_ill_formed_latches : [
    Instr.mov { op .ctl with lk := true },
    .sluiceXrRcv { op .ctl with lk := true } 1 0 0,
    .neg { op .i32 with rk := true },
    .sel { op3 .ctl with rk := true },
    .neg { op .i32 with lk := true },
    .add { op .i32 with lk := true, rk := true }].all (fun i => !i.wellFormed) = true
    ∧ [Instr.add { op .i32 with lk := true }, .neg { op .i32 with lk := true, pe := true }].all Instr.wellFormed = true := by decide +kernel

/-- R18, R19, R20, R100, R114, R121: reserved ports, equal targets, and the targets that a row requires or keeps for itself. -/
theorem test_ill_formed_targets : [
    Instr.add (opTo .i32 (.port 0x03) .none),
    .add (opTo .i32 .none (.port 0x48)),
    .add (opTo .i32 (.route 3) (.route 3)),
    .dup (op .ctl),
    .sink (op .ctl),
    .gaddr (op .a64),
    .mma (op .ctl),
    .add (opTo .i32 (.port 0x11) .none),
    .add (opTo .i32 .none (.port 0x12)),
    .pj (opTo .f32 (.port 0x10) (.port 0x11)) 0,
    .pja (opTo .f32 (.port 0x12) (.port 0x12))].all (fun i => !i.wellFormed) = true
    ∧ [Instr.pjp (opTo .f32 (.port 0x11) .none), .pja (opTo .f32 (.port 0x12) (.route 1)), .mma (opTo .ctl (.port 0x02) .none)].all Instr.wellFormed = true := by decide +kernel

/-- SUB and IMM16 out of the range of a row (R63, R70, R79, R132, R138, R140). -/
theorem test_ill_formed_sub : [
    Instr.icmp (op .i32) 6,
    .bfx (op .i32) false 31 1,
    .bfi (op .i32) 16 16,
    .fcmp (op .f32) 7,
    .cvt (op .ctl) 2 2,
    .cvt (op .ctl) 2 0,
    .cvt { op .ctl with rm := .rz } 3 2,
    .widFld (op .u32) 6,
    .widLvl (op .a64) 7,
    .join (opTo .ctl .none .none) false 31 0 1,
    .join (opTo .ctl .none .none) false 0 15 1,
    .fenceSc (op .ctl) 5,
    .sluiceLocSnd (op .ctl) 0 0 0,
    .sluiceLocSnd (op .ctl) 1 1 0,
    .censusUp (op .ctl) 0,
    .spld (op .ctl) 2 false 0,
    .spst (op .ctl) 1 false 0,
    .spld (op .ctl) 0 false 1,
    .spatom (op .f32) 0 0 0,
    .spatom { op .i32 with pd := true } 0 0 3].all (fun i => !i.wellFormed) = true := by decide +kernel

/-- R30, R163 to R186: what a command's words alone show to be wrong; one line for each check. -/
theorem test_ill_formed_commands : [
    Instr.alight { head with acq := true, scope := 5 } 0,
    .alight { head with scope := 1 } 0,
    .alight { head with gvq := 1 } 0,
    .alight { head with tkq := 1 } 0,
    .alight { head with die := 12 } 0,
    .copy { head with index := 16 } { sreach := 0, dreach := 0, slo := 0, dlo := 0, nm1 := 0 },
    .pagein head pageOps,
    .boardFlow head { boardOps with etype := 9 },
    .boardFlow head { boardOps with cm1 := 1 },
    .boardSnap head { boardOps with fop := 1 },
    .boardSnap head { boardOps with etype := 4, pk := true },
    .boardFlow head { boardOps with hi := 1 },
    .boardFlow head { boardOps with win := true, early := false, lo := 3, hi := 3 },
    .fold head { boardOps with etype := 3 },
    .sieve head { reach := 5, rid := 0, ort := 0, etype := 0, offw := 0, cm1 := 15, cmp := 0, k := 0 },
    .sieve head { reach := 5, rid := 0, ort := 0, etype := 0, offw := 0, cm1 := 0, cmp := 6, k := 0 },
    .kvride head { kvOps with stack := 24 },
    .kvride head { kvOps with etype := 4 },
    .kvride head { kvOps with pk := true },
    .kvride head { kvOps with boff := 1023, blm1 := 1 },
    .updAdd head { updOps with offw := 15 },
    .updAdd head { updOps with a := 1 },
    .updW head { updOps with a := 0x20000000 },
    .updScadd head updOps,
    .bseqNew head { bseqOps with stack := 24 },
    .bseqNew head { bseqOps with gnm1 := 4 },
    .bseqNew head { bseqOps with policy := 8 },
    .bdrop head 9 24,
    .fenceE { head with index := 16 } true].all (fun i => !i.wellFormed) = true := by decide +kernel

/-- R35: a field that reaches beyond bit 127. -/
theorem test_ill_formed_seq :
    [Instr.seqCset 0 127 1 0 false, .seqCget 0 127 1 0 false, .seqCclr 0 65 63].all (fun i => !i.wellFormed) = true
    ∧ [Instr.seqCset 0 127 0 0 false, .seqCget 0 64 63 0 false, .seqCclr 0 64 63].all Instr.wellFormed = true := by decide +kernel

/-! ### The host's functions -/

/-- R15, R28, R32: a word of each length is the instruction of its encoding. -/
theorem test_table_words :
    decodeTableWord 32 0x08200004 = some (.seqAddi 1 0 4) ∧ decodeTableWord 64 0x0200000010000000 = some (.sub (opTo .i32 (.latch .left 0) (.latch .left 1)))
    ∧ decodeTableWord 128 0x08400005300200000000000000000000 = (decodeCmd 0x08400005300200000000000000000000).toOption
    ∧ decodeTableWord 32 0xFC000000 = none ∧ decodeTableWord 64 0 = none := by decide +kernel

/-- The first step after reset runs the word placed: `addi s1, s0, 4`, a `const`, a `drain` that ends. -/
theorem test_first_step :
    nextIs (step (State.reset.withFetchWord 32 0x08200004)) (fun t => (t.seq seqTile).reg 1 == 4 && (t.seq seqTile).pc == 4) = true
    ∧ nextIs (step (State.reset.withFetchWord 64 (wordOf (.neg (op .i32))).toNat)) (fun t => (t.slot (tileFor (.neg (op .i32))) 1).left.any (fun x => x.pay == 0)) = true
    ∧ nextIs (step (State.reset.withFetchWord 128 (cmdOf (.drainCmd head 0)).toNat)) (fun t => t.cmds.any (fun c => c.2.admitted)) = true := by decide +kernel

/-! ### Sequencers -/

/-- R191, R202, R361: a load off its alignment traps, the sequencer at the word; the record of a `trap` has its code as DETAIL. -/
theorem test_seq_traps :
    nextIs (exec (.seqLd 1 1 0) (atAddr 65532)) (fun t => (t.seq seqTile).stopped && (t.seq seqTile).pc == 0 && (t.ctx 1).offered.length == 1) = true
    ∧ nextIs (exec (.seqTrap 0x1234) (seqState {})) (fun t => (t.ctx 1).offered.map (fun r => (pk r.bits 0x28 8 : BitVec 64)) == [0x1234]) = true := by decide +kernel

/-- R195: the oldest token of a FIFO is taken; with none the word waits. -/
theorem test_seq_fifo :
    nextIs (exec (.seqTokTake 4 false 7) (fifoState 2 [])) (fun t => ((t.seq seqTile).fifo 7).length == 1 && (t.seq seqTile).pc == 4) = true
    ∧ nextIs (exec (.seqTokTake 4 false 7) (fifoState 0 [])) (fun t => (t.seq seqTile).pc == 0) = true := by decide +kernel

/-! ### Commands -/

/-- R29, R30: a command that passes the station's checks is accepted, and the sequencer goes on to the next word. -/
theorem test_command_verdict :
    nextIs (exec .cissueVerdict (verdictState (fenceWord false false))) (fun t => (t.cmd 17).phase == .accepted && (t.seq seqTile).pc == 4) = true := by decide +kernel

/-- R159, R165: a landing with 64 riders has no free rider, and the ride will be BUSY; one with 63 registers it. -/
theorem test_ride_full :
    nextIs (exec .rideReserve (reserveState (.boardFlow head boardOps) 64)) (fun t => (t.landing 1).riders.length == 64 && (t.cmd 1).status == 1) = true
    ∧ nextIs (exec .rideReserve (reserveState (.boardFlow head boardOps) 63)) (fun t => (t.landing 1).riders.length == 64 && (t.cmd 1).status == 0) = true := by decide +kernel

/-- R177: `bseq` of four groups that are new. -/
theorem test_block_groups :
    nextIs (exec (.bseqNew head bseqOps) (blockCmd (.bseqNew head bseqOps) [])) (fun t =>
      ((t.base 23).seqs.get? 9).any (fun q => q.groups.map Prod.fst == [60, 61, 62, 63] && q.pool == 4095)) = true := by decide +kernel

/-! ### Events -/

/-- R371: device time goes on from the time that PTP gives. -/
theorem test_ptp_lock :
    nextIs (exec .ptpLock (devState (.time 5) id)) (fun t => t.dev.dtime == 5 && t.dev.locked) = true := by decide +kernel

/-- R382: a committed image's SVN is the new least. -/
theorem test_canary_commit :
    nextIs (exec .canaryCommit { committing with focus := .device }) (fun t => t.dev.minSvn == 4 && t.dev.canary.isNone) = true := by decide +kernel

/-- An instruction of an agent that is not in focus has no agent (the model's, log 1). -/
theorem test_agents_elsewhere :
    (match exec (.seqAddi 1 0 4) State.reset with | .fault .noAgent => true | _ => false) = true
    ∧ (match exec (.add (op .i32)) State.reset with | .fault .noAgent => true | _ => false) = true := by decide +kernel

end Sys2Proof.Tests
end

