-- ==== Sys2Proof/Tests/Values.lean ====
section
/-! SUPPORT. Values of single steps, from the examples and tables of the spec or by hand from its rules. -/

namespace Sys2Proof.Tests

set_option Elab.async false

open Sys2Proof.Machine

/-- The tile that `withFetchWord` uses for a node word. -/
def tileOf (w : Word64) : TileKey := firstTile (firstKind (Word.field w 56 8))

/-- A node word placed for the next step in slot 0, with the tokens given where it enables a latch; slots 1 and 3 are empty. -/
def withTokens (w : Word64) (l r p : Tok) : State :=
  let s := State.reset.withFetchWord 64 w.toNat
  let k := tileOf w
  let at_ := fun (x : Pos) (t : Tok) => if wordEnables w x then some t else none
  s.setTile k { s.tile k with slots := [(0, { word := w, left := at_ .left l, right := at_ .right r, pred := at_ .pred p }), (1, {}), (3, {})] }

/-- A token with one value in every lane, TAG 0x0203 and SEQ 9. -/
def all (v : Nat) : Tok := { tag := 0x0203, seq := 9, pay := Word.splat (BitVec.ofNat 32 v) }

/-- The token that a step of `withTokens` leaves in the left latch of slot 1. -/
def result (w : Word64) (l r p : Tok) : Option Tok :=
  let s := withTokens w l r p
  ((after (step s) s).slot (tileOf w) 1).left

/-- A row of a test: word, left and right lanes, payload of the predicate token, lane 0 of the result. -/
def gives (x : Word64 × Nat × Nat × Nat × Nat) : Bool :=
  let p : Tok := if Word.bit x.1 19 && x.2.2.2.1 < 2 ^ 32 && 2 < x.2.2.2.1 then all x.2.2.2.1 else { pay := BitVec.ofNat 512 x.2.2.2.1 }
  (result x.1 (all x.2.1) (all x.2.2.1) p).map (fun t => (Word.lane t.pay 0).toNat) == some x.2.2.2.2

/-- A row of a test: word, s1, s2, and s3 after a step from address 0, where PC is then 4. -/
def seqGives (x : BitVec 32 × BitVec 64 × BitVec 64 × BitVec 64) : Bool :=
  let s := State.reset.withFetchWord 32 x.1.toNat
  let k := firstTile .ct
  let s1 := s.setSeq k { s.seq k with s := [(1, x.2.1), (2, x.2.2.1)] }
  let t := (after (step s1) s1).seq k
  t.reg 3 == x.2.2.2 && t.pc == 4

/-- 03 R64 to R66, by hand: wrap and clamp, the corners of division, signed elements, masks. -/
theorem test_values_integer : [
    (0x010001FFF0000000, 0xFFFFFFFF, 0x3, 0x0, 0x2),
    (0x010001FFF0100000, 0x7FFFFFFF, 0x1, 0x0, 0x7FFFFFFF),
    (0x021001FFF0100000, 0x1, 0x2, 0x0, 0x0),
    (0x021001FFF0000000, 0x1, 0x2, 0x0, 0xFFFFFFFF),
    (0x035001FFF0000000, 0x2FFFF, 0x30002, 0x0, 0x6FFFE),
    (0x040001FFF0000000, 0x80000000, 0x2, 0x0, 0xFFFFFFFF),
    (0x041001FFF0000000, 0x80000000, 0x2, 0x0, 0x1),
    (0x050001FFF0080000, 0x3, 0x4, 0x5, 0x11),
    (0x060001FFF0000000, 0xFFFFFFF9, 0x2, 0x0, 0xFFFFFFFD),
    (0x060001FFF0100000, 0x5, 0x0, 0x0, 0x7FFFFFFF),
    (0x070001FFF0000000, 0xFFFFFFF9, 0x2, 0x0, 0xFFFFFFFF),
    (0x071001FFF0000000, 0x7, 0x0, 0x0, 0x7),
    (0x084001FFF0000000, 0x80017F00, 0x0, 0x0, 0x80FF8100),
    (0x095001FFF0100000, 0x8000FFFE, 0x0, 0x0, 0x7FFF0002),
    (0x0A4001FFF0000000, 0x807F0102, 0x17F0201, 0x0, 0x807F0101),
    (0x0B1001FFF0000000, 0xFFFFFFFF, 0x1, 0x0, 0xFFFFFFFF),
    (0x0C0001FFF0040000, 0x5, 0xFFFFFFFF, 0x0, 0xFFFF),
    (0x0C1001FFF0020000, 0x5, 0xFFFFFFFF, 0x0, 0xFFFF),
    (0x1A0001FFF000FFFF, 0x5, 0x0, 0x0, 0x4),
    (0x1A1001FFF000FFFF, 0x5, 0x0, 0x0, 0x10004),
    (0x1A0001FFF1000001, 0x5, 0x0, 0xFFFE, 0x5)].all gives = true := by decide +kernel

/-- 03 R66 to R68, by hand: amounts of 32 and more, fields at the top of a lane. -/
theorem test_values_logic : [
    (0x0D0001FFF0000000, 0xC, 0xA, 0x0, 0x8),
    (0x0E0001FFF0000000, 0xC, 0xA, 0x0, 0xE),
    (0x0F0001FFF0000000, 0xC, 0xA, 0x0, 0x6),
    (0x100001FFF0000000, 0x0, 0x0, 0x0, 0xFFFFFFFF),
    (0x110001FFF0000000, 0xC, 0xA, 0x0, 0x4),
    (0x107001FFF0000000, 0xF0F0, 0x0, 0x0, 0xF0F),
    (0x117001FFF0000000, 0xFFFF, 0xFF, 0x0, 0xFF00),
    (0x120001FFF0000000, 0x1, 0x1F, 0x0, 0x80000000),
    (0x120001FFF0000000, 0x1, 0x20, 0x0, 0x0),
    (0x130001FFF0000000, 0x80000000, 0x1F, 0x0, 0x1),
    (0x140001FFF0000000, 0x80000000, 0x28, 0x0, 0xFFFFFFFF),
    (0x140001FFF0000000, 0x80000000, 0x4, 0x0, 0xF8000000),
    (0x150001FFF0000000, 0x80000001, 0x21, 0x0, 0x3),
    (0x160001FFF0000000, 0x10000, 0x0, 0x0, 0xF),
    (0x160001FFF0000000, 0x0, 0x0, 0x0, 0x20),
    (0x170001FFF0000000, 0xF0F0, 0x0, 0x0, 0x8),
    (0x180001FFF00100EC, 0xFF000, 0x0, 0x0, 0xFFFFFFFF),
    (0x180001FFF00000EC, 0xFF000, 0x0, 0x0, 0xFF),
    (0x190001FFF000007C, 0x1234567, 0xA, 0x0, 0xA1234567)].all gives = true := by decide +kernel

/-- 03 R71 to R76, by hand. -/
theorem test_values_float : [
    (0x202001FFF0000000, 0x3F800000, 0x40000000, 0x0, 0x40400000),
    (0x202001FFF0000000, 0x4B800000, 0x3F800000, 0x0, 0x4B800000),
    (0x202001FFF0400000, 0x4B800000, 0x3F800000, 0x0, 0x4B800001),
    (0x213001FFF0000000, 0x40003F80, 0x3F803F80, 0x0, 0x3F800000),
    (0x222001FFF0400000, 0x3F800001, 0x3F800001, 0x0, 0x3F800003),
    (0x232001FFF0080000, 0x40000000, 0x40400000, 0x3F800000, 0x40E00000),
    (0x243001FFF0080000, 0x40004000, 0x40404040, 0x3F803F80, 0x40A040A0),
    (0x252001FFF0080000, 0x40000000, 0x40400000, 0x3F800000, 0xC0A00000),
    (0x262001FFF0000000, 0x80000000, 0x0, 0x0, 0x80000000),
    (0x272001FFF0000000, 0x80000000, 0x0, 0x0, 0x0),
    (0x282001FFF0000000, 0xBF800000, 0x0, 0x0, 0x3F800000),
    (0x292001FFF0000000, 0x0, 0x0, 0x0, 0x80000000),
    (0x2A2001FFF0000000, 0x3F800000, 0xC0000000, 0x0, 0xBF800000),
    (0x2B2001FFF0060000, 0x7FC00000, 0x3F800000, 0x0, 0xFFFF),
    (0x2B2001FFF0000000, 0x80000000, 0x0, 0x0, 0xFFFF),
    (0x2C2001FFF0000100, 0x7F800001, 0x0, 0x0, 0xFFFF),
    (0x2C2001FFF0000081, 0xFF800000, 0x0, 0x0, 0xFFFF),
    (0x2D2001FFF0000000, 0x3F800000, 0x40400000, 0x0, 0x3EAAAAAB),
    (0x2D2001FFF0000000, 0x3F800000, 0x80000000, 0x0, 0xFF800000),
    (0x2E2001FFF0000000, 0x40000000, 0x0, 0x0, 0x3FB504F3),
    (0x2E2001FFF0000000, 0x80000000, 0x0, 0x0, 0x80000000),
    (0x2F2001FFF0000000, 0x40800000, 0x0, 0x0, 0x3E800000),
    (0x302001FFF0000000, 0x40800000, 0x0, 0x0, 0x3F000000),
    (0x312001FFF0000000, 0x3F800000, 0x0, 0x0, 0x40000000),
    (0x312001FFF0000000, 0x40000000, 0x0, 0x0, 0x7FC00000),
    (0x322001FFF0000000, 0x41000000, 0x0, 0x0, 0x40400000),
    (0x322001FFF0600000, 0x3F800000, 0x0, 0x0, 0x0),
    (0x322001FFF0000000, 0x1, 0x0, 0x0, 0xC3150000)].all gives = true := by decide +kernel

/-- The tables of 03 R77 and R78. -/
theorem test_values_ldx_and_rndi : [
    (0x332001FFF0000000, 0x3F800000, 0xFFFFFF6B, 0x0, 0x1),
    (0x332001FFF0000000, 0x3FC00000, 0xFFFFFF6B, 0x0, 0x2),
    (0x332001FFF0200000, 0x3FC00000, 0xFFFFFF6B, 0x0, 0x1),
    (0x332001FFF0000000, 0x3F800000, 0xFFFFFF6A, 0x0, 0x0),
    (0x332001FFF0400000, 0x3F800000, 0xFFFFFF6A, 0x0, 0x1),
    (0x332001FFF0000000, 0xBF800000, 0xFFFFFF6A, 0x0, 0x80000000),
    (0x332001FFF0000000, 0x3F800000, 0x7F, 0x0, 0x7F000000),
    (0x332001FFF0000000, 0x3F800000, 0x80, 0x0, 0x7F800000),
    (0x332001FFF0200000, 0x3F800000, 0x80, 0x0, 0x7F7FFFFF),
    (0x332001FFF0000000, 0x1, 0x95, 0x0, 0x3F800000),
    (0x342001FFF0000000, 0x42FF0000, 0x0, 0x0, 0x43000000),
    (0x342001FFF0000000, 0xC30C8000, 0x0, 0x0, 0xC30C0000),
    (0x342001FFF0800000, 0x40200000, 0x0, 0x0, 0x40400000),
    (0x342001FFF0000000, 0xBE99999A, 0x0, 0x0, 0x80000000),
    (0x342001FFF0000000, 0x4F32D05E, 0x0, 0x0, 0x4F32D05E)].all gives = true := by decide +kernel

/-- TGB of `rndi` and `unpack` (03 R78, R82) and the exits of steering nodes, TGB being the left latch of slot 1. -/
theorem test_values_second_targets : [
    (0x3420030010000000, 0x42FF0000, 0x0, 0x0, 0x80),
    (0x3420030010000000, 0xC30C8000, 0x0, 0x0, 0xFFFFFF74),
    (0x3420030010000000, 0x4F32D05E, 0x0, 0x0, 0x7FFFFFFF),
    (0x3420030010000000, 0x7FC00000, 0x0, 0x0, 0x0),
    (0x5280030010020000, 0x8001FFFF, 0x0, 0x0, 0xFFFFFFFF),
    (0x5280030010010000, 0x807F, 0x0, 0x0, 0x80007F),
    (0x7280030010000000, 0x9, 0x0, 0x0, 0x9),
    (0x7280030010010000, 0x9, 0x1, 0x0, 0x9),
    (0x7D80030010000000, 0x9, 0x0, 0x0, 0x9)].all gives = true := by decide +kernel

/-- 03 R79 to R87 and R45 to R50, by hand; cvt of 127.6 and -0.5 to I8 as R80 gives them. -/
theorem test_values_lanes : [
    (0x508001FFF0100024, 0x42FF3333, 0x0, 0x0, 0x7F),
    (0x508001FFF0100024, 0xBF000000, 0x0, 0x0, 0x0),
    (0x508001FFF0100024, 0x43800000, 0x0, 0x0, 0x7F),
    (0x508001FFF0000023, 0x3F808000, 0x0, 0x0, 0x3F80),
    (0x508001FFF0000032, 0x3F80, 0x0, 0x0, 0x3F800000),
    (0x508001FFF0000002, 0xFFFFFFFF, 0x0, 0x0, 0xBF800000),
    (0x508001FFF0000012, 0xFFFFFFFF, 0x0, 0x0, 0x4F800000),
    (0x508001FFF0000004, 0x12345680, 0x0, 0x0, 0xFFFFFF80),
    (0x508001FFF0100004, 0x12345680, 0x0, 0x0, 0x7F),
    (0x518001FFF0000000, 0xAAAA1234, 0xBBBB5678, 0x0, 0x12341234),
    (0x518001FFF0010000, 0xAA12BB34, 0x0, 0x0, 0x12341234),
    (0x528001FFF0000000, 0x80017FFF, 0x0, 0x0, 0x7FFF),
    (0x608001FFF0000000, 0x7, 0x10, 0x0, 0x0),
    (0x608001FFF0080000, 0x7, 0x11, 0x900000000, 0x9),
    (0x618001FFF0000009, 0x7, 0x0, 0x0, 0x7),
    (0x620001FFF0000000, 0x10000000, 0x0, 0x0, 0x0),
    (0x620001FFF0100000, 0x10000000, 0x0, 0x0, 0x7FFFFFFF),
    (0x630001FFF0000000, 0xFFFFFFFF, 0x0, 0x0, 0xFFFFFFFF),
    (0x641001FFF0000000, 0xFFFFFFFF, 0x0, 0x0, 0xFFFFFFFF),
    (0x650001FFF0000000, 0x3, 0x5, 0x0, 0x8),
    (0x660001FFF0000000, 0x3, 0xFFFFFFFF, 0x0, 0xFFFFFFFF),
    (0x671001FFF0000000, 0x3, 0xFFFFFFFF, 0x0, 0xFFFFFFFF),
    (0x680001FFF000FFFF, 0x0, 0x0, 0x0, 0xFFFFFFFF),
    (0x697001FFF0000000, 0xF0F1, 0x0, 0x0, 0x9),
    (0x697001FFF0010000, 0xF0F1, 0x0, 0x0, 0x1)].all gives = true := by decide +kernel

/-- 05 R122, R125, by hand; the token of the test has TAG 0x0203. -/
theorem test_values_flow : [
    (0x708001FFF0000000, 0x5, 0x0, 0x0, 0x5),
    (0x718001FFF0080000, 0x5, 0x6, 0x1, 0x5),
    (0x718001FFF0080000, 0x5, 0x6, 0x2, 0x6),
    (0x7280010030000000, 0x5, 0x1, 0x0, 0x5),
    (0x738001FFF0000000, 0x5, 0x6, 0x0, 0x5),
    (0x748001FFF0000000, 0x5, 0x0, 0x0, 0x5),
    (0x7580014030000000, 0x5, 0x0, 0x0, 0x5),
    (0x770001FFF0008000, 0x0, 0x0, 0x0, 0xFFFF8000),
    (0x771001FFF0008000, 0x0, 0x0, 0x0, 0x8000),
    (0x772001FFF0003F80, 0x0, 0x0, 0x0, 0x3F800000),
    (0x790001FFF0000000, 0x5, 0x0, 0x0, 0x203),
    (0x7A8001FFF0000000, 0x5, 0x20009, 0x0, 0x5),
    (0x7D80014030000000, 0x5, 0x1, 0x0, 0x5),
    (0x938001FFF0000003, 0x5, 0x0, 0x0, 0x5),
    (0x918001FFF0008000, 0x5, 0x0, 0x0, 0x5),
    (0xC68001FFF0000003, 0x12340000, 0x7, 0x0, 0x1234000A),
    (0xC78001FFF0000000, 0x5, 0x0, 0x0, 0xFFFF),
    (0xE21001FFF0000000, 0x5, 0x0, 0x0, 0x7)].all gives = true := by decide +kernel

/-- 06 R189, R190, by hand: `op s3, s1, s2` and `op s3, s1, imm`, with the corners of the shifts and of division. -/
theorem test_values_sequencer : [
    (0x04611000, 0xFFFFFFFFFFFFFFFF, 0x3, 0x2),
    (0x04611001, 0x1, 0x2, 0xFFFFFFFFFFFFFFFF),
    (0x04611002, 0xC, 0xA, 0x8),
    (0x04611003, 0xC, 0xA, 0xE),
    (0x04611004, 0xC, 0xA, 0x6),
    (0x04611005, 0x1, 0x3F, 0x8000000000000000),
    (0x04611005, 0x1, 0x40, 0x0),
    (0x04611006, 0xFFFFFFFFFFFFFFFF, 0x3F, 0x1),
    (0x04611007, 0x8000000000000000, 0x64, 0xFFFFFFFFFFFFFFFF),
    (0x04611008, 0x8000000000000001, 0x2, 0x2),
    (0x04611009, 0x8000000000000000, 0x2, 0xFFFFFFFFFFFFFFFF),
    (0x0461100A, 0xFFFFFFFFFFFFFFFF, 0x0, 0x1),
    (0x0461100B, 0xFFFFFFFFFFFFFFFF, 0x0, 0x0),
    (0x0461100C, 0xFFFFFFFFFFFFFFFF, 0x0, 0xFFFFFFFFFFFFFFFF),
    (0x0461100D, 0xFFFFFFFFFFFFFFFF, 0x0, 0x0),
    (0x0461100E, 0xFFFFFFFFFFFFFFF9, 0x2, 0xFFFFFFFFFFFFFFFD),
    (0x0461100E, 0x5, 0x0, 0x0),
    (0x0461100E, 0x8000000000000000, 0xFFFFFFFFFFFFFFFF, 0x8000000000000000),
    (0x0461100F, 0xFFFFFFFFFFFFFFF9, 0x2, 0xFFFFFFFFFFFFFFFF),
    (0x0461100F, 0x5, 0x0, 0x5),
    (0x0461100F, 0x8000000000000000, 0xFFFFFFFFFFFFFFFF, 0x0),
    (0x0861FFFF, 0x5, 0x0, 0x4),
    (0x0C618000, 0xFFFFFFFFFFFFFFFF, 0x0, 0x8000),
    (0x10618000, 0x0, 0x0, 0x8000),
    (0x1461FFFF, 0xFFFFFFFFFFFFFFFF, 0x0, 0xFFFFFFFFFFFF0000),
    (0x1861003F, 0x1, 0x0, 0x8000000000000000),
    (0x1C61003F, 0xFFFFFFFFFFFFFFFF, 0x0, 0x1),
    (0x2061003F, 0x8000000000000000, 0x0, 0xFFFFFFFFFFFFFFFF),
    (0x2461FFFF, 0xFFFFFFFFFFFFFFFE, 0x0, 0x1)].all seqGives = true := by decide +kernel

/-- The sum of 03 R85's example: lane 0 is 2^24, the others 1.0; the tree of the rule gives 0x4B800007 in every lane. -/
theorem test_rsum_tree :
    (result 0x622001FFF0000000 { pay := Word.ofLanes fun i => if i = 0 then 0x4B800000 else 0x3F800000 } {} {}).map (fun t => (Word.lane t.pay 0, Word.lane t.pay 15))
      = some (0x4B800007, 0x4B800007) := by decide +kernel

/-- The worked SX5 block of 02 R50: its twelve bytes, and the lanes that it decodes to. -/
theorem test_sx5_block :
    let x : Payload := Word.ofLanes fun i => [0x40C00000, 0xC0A80000, 0x3F400000, 0x3F000000, 0x3F800000, 0x3D000000, 0x80000000, 0, 0x40FCCCCD, 0x40000000].getD i 0
    (result 0x508001FFF0000026 { pay := x } {} {}).map (fun t => t.pay) = some 0x8F0400808B4C81C8
    ∧ (result 0x508001FFF0000062 { pay := 0x8F0400808B4C81C8 } {} {}).map (fun t => (List.range 10).map (Word.lane t.pay))
      = some [0x40C00000, 0xC0A00000, 0x3F800000, 0x3F000000, 0x3F800000, 0, 0x80000000, 0, 0x40F00000, 0x40000000] := by decide +kernel

/-- Accumulation of 02 R55's example: 2^24 and 16 ones give 2^24 + 16 over two blocks. -/
theorem test_matrix_accumulate :
    accumulate 0 (((0x4B800000 : Lane), (0x3F800000 : Lane)) :: List.replicate 16 ((0x3F800000 : Lane), (0x3F800000 : Lane))) = 0x4B800008 := by decide +kernel

/-- The L2 ball of 04 R108's example, and the pools of 04 R110's. -/
theorem test_projection_examples :
    let b := Pj.project 0 3 0x3F800000 0 [0x40400000, 0x40800000]
    let m := Pj.project 0 5 0 0 [0, 0x40000000, 0, 0, 0x40A00000]
    b.p = [0x3F19999A, 0x3F4CCCCD] ∧ b.size = 1 ∧ b.sup.scalar = 0x3E4CCCCD
    ∧ m.p = [0, 0x3F2AAAAB, 0x3F2AAAAB, 0x3F2AAAAB, 0x40A00000] ∧ m.size = 3 ∧ m.sup.aux = 0x13 := by decide +kernel

/-- The control word of 04 R92's example names what the rule says. -/
theorem test_drain_word :
    let c : Word64 := 0x1080009506000100
    MxCtl.mop c = 4 ∧ MxCtl.m c = 4 ∧ MxCtl.n c = 32 ∧ MxCtl.asel c = 1 ∧ MxCtl.psel c = 1 ∧ MxCtl.drt c = 5 ∧ MxCtl.cbi c = 3 ∧ MxCtl.rowtag c = 0x100 := by decide +kernel

/-- The header of 02's example: a data token on VC1 with SEQ 13 and TAG 0 (R195). -/
theorem test_token_header : ({ vc := 1, seq := 13 } : Tok).header = 0x010D0000 := by decide +kernel

end Sys2Proof.Tests
end

