-- ==== Sys2Proof/Tests/Words.lean ====
section
/-! SUPPORT. Words written out from the encodings of the spec, each with the instruction it stands for. -/

namespace Sys2Proof.Tests

set_option Elab.async false

/-- The common fields of a node word, all flags clear. -/
def opAt (ty : Ty) (tga tgb : Tgt) : NodeOp :=
  { ty := ty, tga := tga, tgb := tgb, lk := false, rk := false, pn := false, pe := false, rm := .rn, sat := false, pd := false }

/-- The common fields of a command in the order of R28. -/
def headOf (acq rel gv tk : Bool) (scope gvq tkq : BitVec 3) (die : BitVec 4) (index : BitVec 8) : CmdHead :=
  { acq := acq, rel := rel, gv := gv, tk := tk, scope := scope, gvq := gvq, tkq := tkq, die := die, index := index }

/-- Words of 03 R63, bit by bit from R15 and R18. -/
theorem test_words_integer : [
    (0x0200000010000000, .sub (opAt .i32 (.latch .left 0) (.latch .left 1))),
    (0x0100014030100000, .add { opAt .i32 (.latch .left 1) (.latch .right 3) with sat := true }),
    (0x021001FFF1000000, .sub { opAt .u32 (.latch .left 1) .none with pe := true }),
    (0x035001FFF4100000, .mul { opAt .i16x2 (.latch .left 1) .none with rk := true, sat := true }),
    (0x041001FFF0000000, .mulh (opAt .u32 (.latch .left 1) .none)),
    (0x050001FFF0080000, .madd { opAt .i32 (.latch .left 1) .none with pd := true }),
    (0x061001FFF0100000, .div { opAt .u32 (.latch .left 1) .none with sat := true }),
    (0x070001FFF3000000, .rem { opAt .i32 (.latch .left 1) .none with pn := true, pe := true }),
    (0x084001FFF0000000, .neg (opAt .i8x4 (.latch .left 1) .none)),
    (0x095001FFF0100000, .abs { opAt .i16x2 (.latch .left 1) .none with sat := true }),
    (0x0A4001FFF0000000, .min (opAt .i8x4 (.latch .left 1) .none)),
    (0x0B1C02FFF0000000, .max (opAt .u32 (.route 2) .none)),
    (0x0C0801FFF4040000, .icmp { opAt .i32 (.latch .pred 1) .none with rk := true } 4),
    (0x0D7001FFF0000000, .and (opAt .pred (.latch .left 1) .none)),
    (0x0E0001FFF0000000, .or (opAt .i32 (.latch .left 1) .none)),
    (0x0F0001FFF0000000, .xor (opAt .i32 (.latch .left 1) .none)),
    (0x107001FFF0000000, .not (opAt .pred (.latch .left 1) .none)),
    (0x110001FFF8000000, .andn { opAt .i32 (.latch .left 1) .none with lk := true })].all (fun x => decodeNode x.1 == .ok x.2) = true := by decide +kernel

/-- Words of the shift, field and immediate rows of 03 R63. -/
theorem test_words_shifts : [
    (0x120001FFF0000000, .shl (opAt .i32 (.latch .left 1) .none)),
    (0x130001FFF0000000, .shr (opAt .i32 (.latch .left 1) .none)),
    (0x140001FFF4000000, .sra { opAt .i32 (.latch .left 1) .none with rk := true }),
    (0x150001FFF0000000, .rotl (opAt .i32 (.latch .left 1) .none)),
    (0x160001FFF0000000, .clz (opAt .i32 (.latch .left 1) .none)),
    (0x170001FFF0000000, .popc (opAt .i32 (.latch .left 1) .none)),
    (0x180001FFF00100EC, .bfx (opAt .i32 (.latch .left 1) .none) true 7 12),
    (0x190001FFF000007C, .bfi (opAt .i32 (.latch .left 1) .none) 3 28),
    (0x1A0C02FFF1000064, .addi { opAt .i32 (.route 2) .none with pe := true } 100)].all (fun x => decodeNode x.1 == .ok x.2) = true := by decide +kernel

/-- Words of 03 R70. -/
theorem test_words_float : [
    (0x202001FFF0200000, .fadd { opAt .f32 (.latch .left 1) .none with rm := .rz }),
    (0x213001FFF0000000, .fsub (opAt .bf16x2 (.latch .left 1) .none)),
    (0x222001FFF0400000, .fmul { opAt .f32 (.latch .left 1) .none with rm := .ru }),
    (0x232001FFF0680000, .fma { opAt .f32 (.latch .left 1) .none with pd := true, rm := .rd }),
    (0x243001FFF0080000, .fms { opAt .bf16x2 (.latch .left 1) .none with pd := true }),
    (0x252001FFF0080000, .fnma { opAt .f32 (.latch .left 1) .none with pd := true }),
    (0x262001FFF0000000, .fmin (opAt .f32 (.latch .left 1) .none)),
    (0x273001FFF0000000, .fmax (opAt .bf16x2 (.latch .left 1) .none)),
    (0x282001FFF0000000, .fabs (opAt .f32 (.latch .left 1) .none)),
    (0x292001FFF1000000, .fneg { opAt .f32 (.latch .left 1) .none with pe := true }),
    (0x2A2001FFF0000000, .fcpsgn (opAt .f32 (.latch .left 1) .none)),
    (0x2B2001FFF0060000, .fcmp (opAt .f32 (.latch .left 1) .none) 6),
    (0x2C2001FFF0000201, .fclass (opAt .f32 (.latch .left 1) .none) 0x201),
    (0x2D2001FFF0800000, .fdiv { opAt .f32 (.latch .left 1) .none with rm := .rna }),
    (0x2E2001FFF0000000, .fsqrt (opAt .f32 (.latch .left 1) .none)),
    (0x2F2001FFF0000000, .frcp (opAt .f32 (.latch .left 1) .none)),
    (0x302001FFF0000000, .frsqrt (opAt .f32 (.latch .left 1) .none)),
    (0x312001FFF0000000, .exp2f (opAt .f32 (.latch .left 1) .none)),
    (0x322001FFF0000000, .log2f (opAt .f32 (.latch .left 1) .none)),
    (0x332001FFF0000000, .ldx (opAt .f32 (.latch .left 1) .none)),
    (0x3420014030200000, .rndi { opAt .f32 (.latch .left 1) (.latch .right 3) with rm := .rz })].all (fun x => decodeNode x.1 == .ok x.2) = true := by decide +kernel

/-- Words of 03 R79, R82, R83. -/
theorem test_words_lanes : [
    (0x508001FFF0300020, .cvt { opAt .ctl (.latch .left 1) .none with sat := true, rm := .rz } 2 0),
    (0x518001FFF0010000, .pack (opAt .ctl (.latch .left 1) .none) true),
    (0x528001FFF0020000, .unpack (opAt .ctl (.latch .left 1) .none) true false),
    (0x608001FFF0080000, .perm { opAt .ctl (.latch .left 1) .none with pd := true }),
    (0x618001FFF0000009, .bcast (opAt .ctl (.latch .left 1) .none) 9),
    (0x620001FFF0100000, .rsum { opAt .i32 (.latch .left 1) .none with sat := true }),
    (0x631001FFF0000000, .rmin (opAt .u32 (.latch .left 1) .none)),
    (0x642001FFF0000000, .rmax (opAt .f32 (.latch .left 1) .none)),
    (0x652001FFF0400000, .psum { opAt .f32 (.latch .left 1) .none with rm := .ru }),
    (0x660001FFF0000000, .pmin (opAt .i32 (.latch .left 1) .none)),
    (0x671001FFF0000000, .pmax (opAt .u32 (.latch .left 1) .none)),
    (0x680001FFF0008001, .lidx (opAt .i32 (.latch .left 1) .none) 0x8001),
    (0x697001FFF0010000, .mcount (opAt .pred (.latch .left 1) .none) true)].all (fun x => decodeNode x.1 == .ok x.2) = true := by decide +kernel

/-- Words of 05 R121, R124, R127. -/
theorem test_words_flow : [
    (0x708001C020000000, .mov (opAt .ctl (.latch .left 1) (.route 2))),
    (0x718001FFF0080000, .sel { opAt .ctl (.latch .left 1) .none with pd := true }),
    (0x7280014034010000, .steer { opAt .ctl (.latch .left 1) (.latch .right 3) with rk := true } true),
    (0x738001FFF0010000, .merge (opAt .ctl (.latch .left 1) .none) true),
    (0x748001FFF0000000, .gate (opAt .ctl (.latch .left 1) .none)),
    (0x7580014030000000, .dup (opAt .ctl (.latch .left 1) (.latch .right 3))),
    (0x768FFFFFF0000000, .sink (opAt .ctl .none .none)),
    (0x772001FFF0003F80, .const (opAt .f32 (.latch .left 1) .none) 0x3F80),
    (0x780001FFF0010000, .seqgen (opAt .i32 (.latch .left 1) .none) true),
    (0x790001FFF1000000, .tagGet { opAt .i32 (.latch .left 1) .none with pe := true }),
    (0x7A8001FFF4000000, .tagSet { opAt .ctl (.latch .left 1) .none with rk := true }),
    (0x7B80014030000000, .spawn (opAt .ctl (.latch .left 1) (.latch .right 3))),
    (0x7C8FFFFFF000ABC5, .jump (opAt .ctl .none .none) 0xABC 5),
    (0x7D80014030000000, .loop (opAt .ctl (.latch .left 1) (.latch .right 3)) false),
    (0x7E8FFFFFF0010000, .retire (opAt .ctl .none .none) true),
    (0x7F1001FFF0000005, .widFld (opAt .u32 (.latch .left 1) .none) 5),
    (0x809001FFF0000006, .widLvl (opAt .a64 (.latch .left 1) .none) 6)].all (fun x => decodeNode x.1 == .ok x.2) = true := by decide +kernel

/-- Words of 05 R132, R135. -/
theorem test_words_sync : [
    (0x818001FFF000A0C0, .ctlS (opAt .ctl (.latch .left 1) .none) 5 3),
    (0x828001FFF000FE00, .ctlP (opAt .ctl (.latch .left 1) .none) 7 15 0),
    (0x838001FFF00001C0, .ctlQ (opAt .ctl (.latch .left 1) .none) 0 7),
    (0x908FFFFFF0018B09, .join (opAt .ctl .none .none) true 17 6 9),
    (0x918001FFF0008000, .fenceSc (opAt .ctl (.latch .left 1) .none) 4),
    (0x928001FFF000200F, .sluiceLocSnd (opAt .ctl (.latch .left 1) .none) 1 0 15),
    (0x928FFFFFF0005643, .sluiceXrSnd (opAt .ctl .none .none) 2 100 3),
    (0x928001FFF0009FF0, .sluiceXrRcv (opAt .ctl (.latch .left 1) .none) 4 127 0),
    (0x938001FFF000FFFF, .censusUp (opAt .ctl (.latch .left 1) .none) 0xFFFF),
    (0x948001FFF0000001, .censusDn (opAt .ctl (.latch .left 1) .none) 1)].all (fun x => decodeNode x.1 == .ok x.2) = true := by decide +kernel

/-- Words of 05 R140, R147, R150, R154. -/
theorem test_words_ports : [
    (0xA08001FFF0036000, .spld (opAt .ctl (.latch .left 1) .none) 1 true 3),
    (0xA18001FFF1042000, .spst { opAt .ctl (.latch .left 1) .none with pe := true } 2 false 1),
    (0xA20001FFF00E5000, .spatom { opAt .i32 (.latch .left 1) .none with pd := true } 3 2 4),
    (0xA38001FFF0000000, .spown (opAt .ctl (.latch .left 1) .none)),
    (0xB09001FFF0010000, .xlat (opAt .a64 (.latch .left 1) .none) true),
    (0xB19D31FFF0000000, .gaddr (opAt .a64 (.port 0x31) .none)),
    (0xB28D32FFF0000000, .resume (opAt .ctl (.port 0x32) .none)),
    (0xB81001FFF0000000, .balloc (opAt .u32 (.latch .left 1) .none)),
    (0xB91001FFF0000000, .bfree (opAt .u32 (.latch .left 1) .none)),
    (0xBA1001FFF0000000, .bappend (opAt .u32 (.latch .left 1) .none)),
    (0xBB1001FFF0000000, .blook (opAt .u32 (.latch .left 1) .none)),
    (0xBC1001FFF0000000, .btrim (opAt .u32 (.latch .left 1) .none)),
    (0xE08FFFFFF1001234, .trap { opAt .ctl .none .none with pe := true } 0x1234),
    (0xE19001FFF0000000, .dtime (opAt .a64 (.latch .left 1) .none)),
    (0xE21001FFF0000000, .tileid (opAt .u32 (.latch .left 1) .none)),
    (0xE310014030000000, .stat (opAt .u32 (.latch .left 1) (.latch .right 3)))].all (fun x => decodeNode x.1 == .ok x.2) = true := by decide +kernel

/-- Words of 04 R100, R114. -/
theorem test_words_units : [
    (0xC08D02FFF0000000, .mma (opAt .ctl (.port 0x02) .none)),
    (0xC18D020010000000, .mmaAcc (opAt .ctl (.port 0x02) (.latch .left 1))),
    (0xC28D02FFF0000000, .loadw (opAt .ctl (.port 0x02) .none)),
    (0xC38D02FFF0000000, .swapw (opAt .ctl (.port 0x02) .none)),
    (0xC48D02FFF0000000, .drain (opAt .ctl (.port 0x02) .none)),
    (0xC58D02FFF0000000, .zero (opAt .ctl (.port 0x02) .none)),
    (0xC68001FFF000004D, .rowtag (opAt .ctl (.latch .left 1) .none) 77),
    (0xC78001FFF0000000, .rprog (opAt .ctl (.latch .left 1) .none)),
    (0xD02D10FFF0040000, .pj (opAt .f32 (.port 0x10) .none) 4),
    (0xD12D11FFF0000000, .pjp (opAt .f32 (.port 0x11) .none)),
    (0xD280014030010000, .pjs (opAt .ctl (.latch .left 1) (.latch .right 3)) true),
    (0xD32D12C020000000, .pja (opAt .f32 (.port 0x12) (.route 2))),
    (0x908FFFFFF0002402, .join (opAt .ctl .none .none) false 4 8 2)].all (fun x => decodeNode x.1 == .ok x.2) = true := by decide +kernel

/-- R-form words of 06 R189 (01 R32, R34). -/
theorem test_words_alu : [
    (0x07E33800, .seqAdd 31 3 7),
    (0x07C43801, .seqSub 30 4 7),
    (0x07A53802, .seqAnd 29 5 7),
    (0x07863803, .seqOr 28 6 7),
    (0x07673804, .seqXor 27 7 7),
    (0x07483805, .seqShl 26 8 7),
    (0x07293806, .seqShr 25 9 7),
    (0x070A3807, .seqSra 24 10 7),
    (0x06EB3808, .seqMul 23 11 7),
    (0x06CC3809, .seqMulh 22 12 7),
    (0x06AD380A, .seqSlt 21 13 7),
    (0x068E380B, .seqSltu 20 14 7),
    (0x066F380C, .seqMin 19 15 7),
    (0x0650380D, .seqMax 18 16 7),
    (0x0631380E, .seqDiv 17 17 7),
    (0x0612380F, .seqRem 16 18 7)].all (fun x => decodeSeq x.1 == .ok x.2) = true := by decide +kernel

/-- I-form words of 06 R190 to R193 (01 R32, R33). -/
theorem test_words_immediate : [
    (0x08200004, .seqAddi 1 0 4),
    (0x0CE600FF, .seqAndi 7 6 0xFF),
    (0x11288000, .seqOri 9 8 0x8000),
    (0x14220003, .seqXori 1 2 3),
    (0x1822003F, .seqShli 1 2 63),
    (0x1C220020, .seqShri 1 2 32),
    (0x20220001, .seqSrai 1 2 1),
    (0x2422FFFF, .seqSlti 1 2 0xFFFF),
    (0x28A0BEEF, .seqInsh 5 0xBEEF),
    (0x2C830008, .seqLd 4 3 8),
    (0x3083FFF8, .seqSt 4 3 0xFFF8),
    (0x34830004, .seqLdw 4 3 4),
    (0x3883000C, .seqStw 4 3 12),
    (0x40E2FFFD, .seqBeq 7 2 0xFFFD),
    (0x44220004, .seqBne 1 2 4),
    (0x48220005, .seqBlt 1 2 5),
    (0x4C220006, .seqBge 1 2 6),
    (0x50220007, .seqBltu 1 2 7),
    (0x54220008, .seqBgeu 1 2 8)].all (fun x => decodeSeq x.1 == .ok x.2) = true := by decide +kernel

/-- Words of 06 R192 to R202 (01 R32, R33). -/
theorem test_words_control : [
    (0x5BFFFFFF, .seqJ 0x3FFFFFF),
    (0x5C000005, .seqJal 5),
    (0x601E0000, .seqJr 30),
    (0x64A00010, .seqSget 5 16),
    (0x68040009, .seqSset 4 9),
    (0x80F91820, .seqCset 1 121 6 1 false),
    (0x83C0FFE1, .seqCset 7 64 63 31 true),
    (0x850A1061, .seqCget 2 10 4 3 true),
    (0x89E46C00, .seqCclr 3 100 27),
    (0x88800001, .seqCclrAll 1),
    (0x8C800000, .seqCissue 1),
    (0xA0090005, .seqTokGive 9 5),
    (0xA4C00000, .seqTokTake 6 false 0),
    (0xA4C0000B, .seqTokTake 6 true 3),
    (0xA8C00007, .seqTokPoll 6 7),
    (0xB0030000, .seqCfgLoad 3),
    (0xB4600000, .seqCfgWait 3),
    (0xB8640000, .seqSeed 3 4),
    (0xBC600000, .seqCensusWait 3),
    (0xC0030000, .seqLaunchTail 3),
    (0xC4600001, .seqWfe 3 true),
    (0xC8000004, .seqFence 4),
    (0xCC00ABCD, .seqTrap 0xABCD),
    (0xD0000000, .seqHalt)].all (fun x => decodeSeq x.1 == .ok x.2) = true := by decide +kernel

/-- Stream commands of 06 R163 to R186, W0 from 01 R28. -/
theorem test_words_commands : [
    (0x08400005300200000000000000000000, .fold (headOf false false true false 0 0 0 0 5) { reach := 3, rid := 0, ort := 2, win := false, early := false, etype := 0, offw := 0, cm1 := 0, fop := 0, pk := false, lo := 0, hi := 0 }),
    (0x01538BFF9C85DA01BB82011170011171, .boardFlow (headOf true false true false 4 7 0 11 255) { reach := 9, rid := 200, ort := 5, win := true, early := true, etype := 6, offw := 513, cm1 := 3000, fop := 0, pk := true, lo := 70000, hi := 70001 }),
    (0x02203000100020000000000000000000, .boardSnap (headOf false false false true 0 0 3 0 0) { reach := 1, rid := 0, ort := 0, win := false, early := false, etype := 8, offw := 0, cm1 := 0, fop := 0, pk := false, lo := 0, hi := 0 }),
    (0x04000304011600000000000000000000, .gather (headOf false false false false 0 0 0 3 4) 17 6),
    (0x0600000020340805EA00000080000001, .sieve (headOf false false false false 0 0 0 0 0) { reach := 2, rid := 3, ort := 4, etype := 2, offw := 5, cm1 := 14, cmp := 5, k := 0x80000001 }),
    (0x0A000000ABCDEFEEC70FFFF001FA0170, .kvride (headOf false false false false 0 0 0 0 0) { seqid := 0xABCDE, group := 63, stack := 23, rid := 99, ort := 8, etype := 7, pk := true, first := 4095, nm1 := 1, boff := 1000, blm1 := 23 }),
    (0x0C8400000FF000000000000000000000, .alight (headOf false true false false 1 0 0 0 0) 255),
    (0x2000000041043FFF5000000000000000, .updW (headOf false false false false 0 0 0 0 0) { reach := 4, etype := 1, offw := 16, cm1 := 15, ntm1 := 1023, a := 0x50000000, b := 0 }),
    (0x22000000400040000000000000000000, .updAdd (headOf false false false false 0 0 0 0 0) { reach := 4, etype := 0, offw := 1, cm1 := 0, ntm1 := 0, a := 0, b := 0 }),
    (0x24000000020000070000000000000000, .updMax (headOf false false false false 0 0 0 0 0) { reach := 0, etype := 2, offw := 0, cm1 := 0, ntm1 := 7, a := 0, b := 0 }),
    (0x26000000020000003F800000BF800000, .updScadd (headOf false false false false 0 0 0 0 0) { reach := 0, etype := 2, offw := 0, cm1 := 0, ntm1 := 0, a := 0x3F800000, b := 0xBF800000 }),
    (0x30000D1F120000030000040000050000, .copy (headOf false false false false 0 0 0 13 31) { sreach := 1, dreach := 2, slo := 3, dlo := 4, nm1 := 5 }),
    (0x32000C00E00000003000300000002000, .pagein (headOf false false false false 0 0 0 12 0) { vpn := 0x700000001, fpool := 0x8001, fpage := 0x80000001 }),
    (0x34000D01000000002000400000006000, .pageout (headOf false false false false 0 0 0 13 1) { vpn := 1, fpool := 2, fpage := 3 })].all (fun x => decodeCmd x.1 == .ok x.2) = true := by decide +kernel

/-- Stream commands of 06 R177 to R186. -/
theorem test_words_more_commands : [
    (0x4000000000005B55E1E06C0000000000, .bseqNew (headOf false false false false 0 0 0 0 0) { seqid := 5, stack := 22, pool := 0xABC, g0 := 60, gnm1 := 3, policy := 6 }),
    (0x4000000000005B55E3E06C0000000000, .bseqRestore (headOf false false false false 0 0 0 0 0) { seqid := 5, stack := 22, pool := 0xABC, g0 := 60, gnm1 := 3, policy := 6 }),
    (0x4000000000005B55E5E06C0000000000, .bseqAddg (headOf false false false false 0 0 0 0 0) { seqid := 5, stack := 22, pool := 0xABC, g0 := 60, gnm1 := 3, policy := 6 }),
    (0x42000000FFFFFB800000000000000000, .bdrop (headOf false false false false 0 0 0 0 0) 0xFFFFF 23),
    (0x50000000800000000000013E87C00000, .bindStart (headOf false false false false 0 0 0 0 0) { base := 0x80000000000001, stile := 2000, sslot := 31 }),
    (0x50000000800000000000017E87C00000, .bindResume (headOf false false false false 0 0 0 0 0) { base := 0x80000000000001, stile := 2000, sslot := 31 }),
    (0x52000000000000000000000000000000, .unbind (headOf false false false false 0 0 0 0 0)),
    (0x54000000000000000000000000091234, .eos (headOf false false false false 0 0 0 0 0) 9 0x1234),
    (0x60000000000000000000DEADBEEF8001, .tempo (headOf false false false false 0 0 0 0 0) 0xDEADBEEF 0x8001),
    (0x62000000000000000000000000000003, .drainCmd (headOf false false false false 0 0 0 0 0) 3),
    (0x64000C05000000000000000000000001, .fenceE (headOf false false false false 0 0 0 12 5) true),
    (0x66000000000000000000000000000FED, .cfgld (headOf false false false false 0 0 0 0 0) 0xFED),
    (0x68000000712345600000000000000000, .statc (headOf false false false false 0 0 0 0 0) 7 0x123456)].all (fun x => decodeCmd x.1 == .ok x.2) = true := by decide +kernel

/-- Packets of 14 R312, bytes at their offsets. -/
theorem test_words_packets : [
    (0x82000300000000000000000000012300000000000000990000000000070002, .bindPacket 7 0x99 0x0123 3 130),
    (0x50000100000000000001000000000000000000003, .load 0x100000 4096 5),
    (0xC00000004, .unload 12),
    (0x30000004000000000000020000001000900000005, .qset 9 1 0x2000 64 3),
    (0x70000004000000000000020000001000900000005, .qsetReset 9 1 0x2000 64 7),
    (0x50607080102030400000002000013880000000100000006, .ctxset 1 5000 [0x01020304, 0x05060708]),
    (0x5500000000000000000003020100000007, .reachsetStage 1 2 3 0x55),
    (0x5500000000000000000003020100000107, .reachsetCommit 1 2 3 0x55),
    (0x100000008, .sched 1),
    (0x300000009, .kill 3),
    (0x50000000400000003000200010000000A, .poolsetCreate 1 2 3 4 5),
    (0x3010200010000000A, .poolsetDestroy 1 2 3 0 0),
    (0x900000000030200010000000B, .keysetLoad 1 2 3 9),
    (0x1030200010000000B, .keysetErase 1 2 3 0),
    (0x900000002000000010000000B, .keysetPolicy 1 0 0 9),
    (0x30700060000000500000004000000030000000000000002000000010000000C, .ctxreachMap 1 2 3 4 5 6 7 3),
    (0x30000000000000002000100010000000C, .ctxreachUnmap 1 2 3),
    (0x205000200010000000C, .ctxreachRole 1 5 2),
    (0x800000000000000070000000600000005000300010000000C, .ctxreachFarpool 1 5 6 7 8),
    (0x00030001, .launch 0x30001)].all (fun x => decodePacket x.1 == .ok x.2) = true := by decide +kernel

/-- The `nop` word of R69, a reserved opcode, a reserved TY, a reserved target, a bit that must be zero, a broken rule: each refused by its name. -/
theorem test_refused_node_words :
    decodeNode 0x008FFFFFF0000000 = .error .nop ∧ decodeNode 0xFF8001FFF0000000 = .error .reservedOp ∧ decodeNode 0x01A001FFF0000000 = .error .reservedField
    ∧ decodeNode 0x010E01FFF0000000 = .error .reservedField ∧ decodeNode 0x010001FFF0000001 = .error .nonzeroBit ∧ decodeNode 0x012001FFF0000000 = .error .brokenRule := by
  decide +kernel

/-- A reserved OP, a reserved FN, a nonzero unused field, a field that leaves the register (01 R35). -/
theorem test_refused_seq_words :
    decodeSeq 0 = .error .reservedOp ∧ decodeSeq 0x04000010 = .error .reservedOp ∧ decodeSeq 0xD0000001 = .error .nonzeroBit ∧ decodeSeq 0x80780400 = .ok (.seqCset 0 120 1 0 false)
    ∧ decodeSeq 0x807F0400 = .error .brokenRule := by decide +kernel

/-- A reserved CMD, a nonzero reserved bit, GVQ with GV = 0, a packet of no TYPE and one with a nonzero byte that is not named (01 R30; 14 R312). -/
theorem test_refused_commands_and_packets :
    decodeCmd (0x7F <<< 121) = .error .reservedOp ∧ decodeCmd ((0x29 <<< 121) ||| 1) = .error .nonzeroBit ∧ decodeCmd ((0x29 <<< 121) ||| (1 <<< 111)) = .error .brokenRule
    ∧ decodePacket 0x0D = .error .badType ∧ decodePacket 0x1000000000009 = .error .badReq := by decide +kernel

end Sys2Proof.Tests
end

section
/-! PROOF. Encoding and decoding agree (01 R15 to R38): what each field of a word put together from fields reads, form by form, and from it that every well-formed node word, sequencer word and stream command is read back. -/

namespace Sys2Proof

/-! ### Fields of words that are put together from fields (R7) -/

theorem field_append_high {n m : Nat} (x : BitVec n) (y : BitVec m) (lo w : Nat) (h : m ≤ lo) :
    Word.field (x ++ y) lo w = Word.field x (lo - m) w := BitVec.extractLsb'_append_eq_of_le h

theorem field_append_low {n m : Nat} (x : BitVec n) (y : BitVec m) (lo w : Nat) (h : lo + w ≤ m) :
    Word.field (x ++ y) lo w = Word.field y lo w := BitVec.extractLsb'_append_eq_of_add_le h

@[simp] theorem field_self {n : Nat} (x : BitVec n) : Word.field x 0 n = x := BitVec.extractLsb'_eq_self

theorem bit_append_high {n m : Nat} (x : BitVec n) (y : BitVec m) (i : Nat) (h : m ≤ i) : Word.bit (x ++ y) i = Word.bit x (i - m) := by
  simp [Word.bit, BitVec.getLsbD_append, Nat.not_lt.mpr h]

theorem bit_append_low {n m : Nat} (x : BitVec n) (y : BitVec m) (i : Nat) (h : i < m) : Word.bit (x ++ y) i = Word.bit y i := by
  simp [Word.bit, BitVec.getLsbD_append, h]

@[simp] theorem bit_ofBool (b : Bool) : Word.bit (BitVec.ofBool b) 0 = b := by simp [Word.bit]

@[simp] theorem bit_setWidth_ofBool (b : Bool) (n : Nat) (h : 0 < n) : Word.bit ((BitVec.ofBool b).setWidth n) 0 = b := by simp [Word.bit, h]

@[simp] theorem bit_zero {n : Nat} (i : Nat) : Word.bit 0#n i = false := BitVec.getLsbD_zero

@[simp] theorem bit_one {n : Nat} (h : 0 < n) : Word.bit 1#n 0 = true := by simp [Word.bit, h]

/-! ### Sequencer words -/

section
variable (op : BitVec 6) (d a b : BitVec 5) (fn : BitVec 11)

@[simp] theorem rForm_op : Word.field (rForm op d a b fn) 26 6 = op := by simp (disch := omega) [rForm, field_append_high, -Nat.reduceAdd]
@[simp] theorem rForm_d : Word.field (rForm op d a b fn) 21 5 = d := by simp (disch := omega) [rForm, field_append_high, field_append_low, -Nat.reduceAdd]
@[simp] theorem rForm_a : Word.field (rForm op d a b fn) 16 5 = a := by simp (disch := omega) [rForm, field_append_high, field_append_low, -Nat.reduceAdd]
@[simp] theorem rForm_b : Word.field (rForm op d a b fn) 11 5 = b := by simp (disch := omega) [rForm, field_append_high, field_append_low, -Nat.reduceAdd]
@[simp] theorem rForm_fn : Word.field (rForm op d a b fn) 0 11 = fn := by simp (disch := omega) [rForm, field_append_low, -Nat.reduceAdd]
end

section
variable (op : BitVec 6) (d a : BitVec 5) (imm : BitVec 16)

@[simp] theorem iForm_op : Word.field (iForm op d a imm) 26 6 = op := by simp (disch := omega) [iForm, field_append_high, -Nat.reduceAdd]
@[simp] theorem iForm_d : Word.field (iForm op d a imm) 21 5 = d := by simp (disch := omega) [iForm, field_append_high, field_append_low, -Nat.reduceAdd]
@[simp] theorem iForm_a : Word.field (iForm op d a imm) 16 5 = a := by simp (disch := omega) [iForm, field_append_high, field_append_low, -Nat.reduceAdd]
@[simp] theorem iForm_imm : Word.field (iForm op d a imm) 0 16 = imm := by simp (disch := omega) [iForm, field_append_low, -Nat.reduceAdd]
theorem iForm_field (lo w : Nat) (h : lo + w ≤ 16) : Word.field (iForm op d a imm) lo w = Word.field imm lo w := field_append_low _ _ _ _ h
theorem iForm_bit (i : Nat) (h : i < 16) : Word.bit (iForm op d a imm) i = Word.bit imm i := bit_append_low _ _ _ h
end

@[simp] theorem jForm_op (op : BitVec 6) (off : BitVec 26) : Word.field (jForm op off) 26 6 = op := by simp (disch := omega) [jForm, field_append_high, -Nat.reduceAdd]
@[simp] theorem jForm_off (op : BitVec 6) (off : BitVec 26) : Word.field (jForm op off) 0 26 = off := by simp (disch := omega) [jForm, field_append_low, -Nat.reduceAdd]

section
variable (op : BitVec 6) (c : BitVec 3) (pos : BitVec 7) (wm1 : BitVec 6) (a sub : BitVec 5)

@[simp] theorem cForm_op : Word.field (cForm op c pos wm1 a sub) 26 6 = op := by simp (disch := omega) [cForm, field_append_high, -Nat.reduceAdd]
@[simp] theorem cForm_c : Word.field (cForm op c pos wm1 a sub) 23 3 = c := by simp (disch := omega) [cForm, field_append_high, field_append_low, -Nat.reduceAdd]
@[simp] theorem cForm_pos : Word.field (cForm op c pos wm1 a sub) 16 7 = pos := by simp (disch := omega) [cForm, field_append_high, field_append_low, -Nat.reduceAdd]
@[simp] theorem cForm_wm1 : Word.field (cForm op c pos wm1 a sub) 10 6 = wm1 := by simp (disch := omega) [cForm, field_append_high, field_append_low, -Nat.reduceAdd]
@[simp] theorem cForm_a : Word.field (cForm op c pos wm1 a sub) 5 5 = a := by simp (disch := omega) [cForm, field_append_high, field_append_low, -Nat.reduceAdd]
theorem cForm_bit (i : Nat) (h : i < 5) : Word.bit (cForm op c pos wm1 a sub) i = Word.bit sub i := bit_append_low _ _ _ h
end

/-- The OP, the FN and the fields of a sequencer instruction's word name that instruction (R33, R34). -/
theorem seqOfOp_of_encodeSeq {i : Instr} {w : BitVec 32} (h : encodeSeq i = some w) : seqOfOp w = some i := by
  cases i <;> cases h <;> simp (disch := omega) [seqOfOp, iForm_field, iForm_bit, cForm_bit, field_append_low, bit_append_low, bit_append_high, -Nat.reduceAdd]

/-- A word that is its own instruction's encoding is read back, when the rules of the instruction hold (R35). -/
theorem decodeSeq_of_seqOfOp {i : Instr} {w : BitVec 32} (he : encodeSeq i = some w) (hi : seqOfOp w = some i) (ok : i.seqOk = true) : decodeSeq w = .ok i := by
  simp [decodeSeq, hi, he, ok]

/-! ### Stream commands -/

section
variable (c : BitVec 7) (h : CmdHead) (x : BitVec 96)

@[simp] theorem cmdWord_cmd : Word.field (h.word c ++ x) 121 7 = c := by
  simp (disch := omega) [CmdHead.word, field_append_high, -Nat.reduceAdd]
@[simp] theorem cmdWord_operands : Word.field (h.word c ++ x) 0 96 = x := by simp (disch := omega) [field_append_low, -Nat.reduceAdd]
@[simp] theorem cmdWord_head : decodeHead (h.word c ++ x) = h := by
  simp (disch := omega) [decodeHead, CmdHead.word, field_append_high, field_append_low, bit_append_high, bit_append_low, -Nat.reduceAdd]
end

@[simp] theorem rideOps_of_word (o : RideOps) :
    ({ reach := Word.field o.word 92 4, rid := Word.field o.word 84 8, ort := Word.field o.word 80 4, win := Word.bit o.word 79, early := Word.bit o.word 78,
       etype := Word.field o.word 74 4, offw := Word.field o.word 64 10, cm1 := Word.field o.word 52 12, fop := Word.field o.word 50 2, pk := Word.bit o.word 49,
       lo := Word.field o.word 24 24, hi := Word.field o.word 0 24 } : RideOps) = o := by
  simp (disch := omega) [RideOps.word, field_append_high, field_append_low, bit_append_high, bit_append_low, -Nat.reduceAdd]

@[simp] theorem sieveOps_of_word (o : SieveOps) :
    ({ reach := Word.field o.word 92 4, rid := Word.field o.word 84 8, ort := Word.field o.word 80 4, etype := Word.field o.word 74 4,
       offw := Word.field o.word 64 10, cm1 := Word.field o.word 60 4, cmp := Word.field o.word 57 3, k := Word.field o.word 0 32 } : SieveOps) = o := by
  simp (disch := omega) [SieveOps.word, field_append_high, field_append_low, -Nat.reduceAdd]

@[simp] theorem kvOps_of_word (o : KvOps) :
    ({ seqid := Word.field o.word 76 20, group := Word.field o.word 70 6, stack := Word.field o.word 65 5, rid := Word.field o.word 57 8,
       ort := Word.field o.word 53 4, etype := Word.field o.word 49 4, pk := Word.bit o.word 48, first := Word.field o.word 36 12,
       nm1 := Word.field o.word 24 12, boff := Word.field o.word 14 10, blm1 := Word.field o.word 4 10 } : KvOps) = o := by
  simp (disch := omega) [KvOps.word, field_append_high, field_append_low, bit_append_high, bit_append_low, -Nat.reduceAdd]

@[simp] theorem updOps_of_word (o : UpdOps) :
    ({ reach := Word.field o.word 92 4, etype := Word.field o.word 88 4, offw := Word.field o.word 78 10, cm1 := Word.field o.word 74 4,
       ntm1 := Word.field o.word 64 10, a := Word.field o.word 32 32, b := Word.field o.word 0 32 } : UpdOps) = o := by
  simp (disch := omega) [UpdOps.word, field_append_high, field_append_low, -Nat.reduceAdd]

@[simp] theorem copyOps_of_word (o : CopyOps) :
    ({ sreach := Word.field o.word 92 4, dreach := Word.field o.word 88 4, slo := Word.field o.word 64 24, dlo := Word.field o.word 40 24,
       nm1 := Word.field o.word 16 24 } : CopyOps) = o := by
  simp (disch := omega) [CopyOps.word, field_append_high, field_append_low, -Nat.reduceAdd]

@[simp] theorem pageOps_of_word (o : PageOps) :
    ({ vpn := Word.field o.word 61 35, fpool := Word.field o.word 45 16, fpage := Word.field o.word 13 32 } : PageOps) = o := by
  simp (disch := omega) [PageOps.word, field_append_high, field_append_low, -Nat.reduceAdd]

@[simp] theorem bseqOps_of_word (o : BseqOps) (mode : BitVec 2) :
    ({ seqid := Word.field (o.word mode) 76 20, stack := Word.field (o.word mode) 71 5, pool := Word.field (o.word mode) 59 12, g0 := Word.field (o.word mode) 51 6,
       gnm1 := Word.field (o.word mode) 45 6, policy := Word.field (o.word mode) 41 4 } : BseqOps) = o := by
  simp (disch := omega) [BseqOps.word, field_append_high, field_append_low, -Nat.reduceAdd]

@[simp] theorem bseqOps_mode (o : BseqOps) (mode : BitVec 2) : Word.field (o.word mode) 57 2 = mode := by
  simp (disch := omega) [BseqOps.word, field_append_high, field_append_low, -Nat.reduceAdd]

@[simp] theorem decodeBind_word (o : BindOps) (mode : BitVec 2) : decodeBind (o.word mode) = (o, mode) := by
  simp (disch := omega) [decodeBind, BindOps.word, field_append_high, field_append_low, -Nat.reduceAdd]

@[simp] theorem bindOps_mode (o : BindOps) (mode : BitVec 2) : Word.field (o.word mode) 38 2 = mode := congrArg Prod.snd (decodeBind_word o mode)

/-- The CMD, the MODE and the fields of a command's word name that command (R31). -/
theorem cmdOfCode_of_encodeCmd {i : Instr} {w : Word128} (h : encodeCmd i = some w) : cmdOfCode w = some i := by
  cases i <;> cases h <;> change cmdOfCode (CmdHead.word _ _ ++ (_ : BitVec 96)) = _ <;>
    simp only [cmdOfCode, cmdWord_cmd, cmdWord_operands, cmdWord_head, BitVec.reduceToNat, bseqOps_mode, bindOps_mode] <;>
    simp (disch := omega) [field_append_high, field_append_low, bit_append_low, -Nat.reduceAdd]

/-- So with a command (R30). -/
theorem decodeCmd_of_cmdOfCode {i : Instr} {w : Word128} (he : encodeCmd i = some w) (hi : cmdOfCode w = some i) (ok : i.cmdOk = true) : decodeCmd w = .ok i := by
  simp [decodeCmd, hi, he, ok]

/-- Settles O58: the fields of a word name its instruction, whose encoding is the word. -/
theorem wordRoundTrip : Obligations.WordRoundTrip := by
  unfold Obligations.WordRoundTrip
  refine ⟨fun i w hl hw he => ?_, fun i w hl hw he => ?_⟩
  · exact decodeSeq_of_seqOfOp he (seqOfOp_of_encodeSeq he) (by simpa [Instr.wellFormed, hl] using hw)
  · exact decodeCmd_of_cmdOfCode he (cmdOfCode_of_encodeCmd he) (by simpa [Instr.wellFormed, hl] using hw)

/-! ### Node words -/

theorem Ty.ofCode_code (t : Ty) : Ty.ofCode t.code = some t := by cases t <;> rfl

theorem RMode.ofCode_code (m : RMode) : RMode.ofCode m.code = some m := by cases m <;> rfl

theorem Pos.ofCode_code (p : Pos) : Pos.ofCode p.code = some p := by cases p <;> rfl

theorem Tgt.ofCode_latch (p : Pos) (n : BitVec 5) : Tgt.ofCode (Tgt.latch p n).code = some (.latch p n) := by
  revert n; cases p <;> decide

theorem Tgt.ofCode_route (n : BitVec 4) : Tgt.ofCode (Tgt.route n).code = some (.route n) := by
  revert n; decide

theorem Tgt.ofCode_port (p : BitVec 8) (h : portDefined p = true) : Tgt.ofCode (Tgt.port p).code = some (.port p) := by
  revert p; decide

/-- A target that is not reserved is read back from its pattern (R18, R20). -/
theorem Tgt.ofCode_code (t : Tgt) (h : t.ok = true) : Tgt.ofCode t.code = some t := by
  cases t with
  | latch p n => exact Tgt.ofCode_latch p n
  | route n => exact Tgt.ofCode_route n
  | port p => exact Tgt.ofCode_port p h
  | none => rfl

section
variable (f : NodeForm)

@[simp] theorem NodeForm.word_opc : Word.field f.word 56 8 = f.opc := by simp (disch := omega) [NodeForm.word, field_append_high, -Nat.reduceAdd]
@[simp] theorem NodeForm.word_low : Word.field f.word 0 19 = f.low := by simp (disch := omega) [NodeForm.word, field_append_low, -Nat.reduceAdd]

/-- The common fields of a row's word are read back, when neither target is reserved (R15). -/
theorem NodeForm.decodeNodeOp_word (ha : f.op.tga.ok = true) (hb : f.op.tgb.ok = true) : decodeNodeOp f.word = some f.op := by
  have ty : Word.field f.word 52 4 = f.op.ty.code := by simp (disch := omega) [NodeForm.word, field_append_high, field_append_low, -Nat.reduceAdd]
  have tga : Word.field f.word 40 12 = f.op.tga.code := by simp (disch := omega) [NodeForm.word, field_append_high, field_append_low, -Nat.reduceAdd]
  have tgb : Word.field f.word 28 12 = f.op.tgb.code := by simp (disch := omega) [NodeForm.word, field_append_high, field_append_low, -Nat.reduceAdd]
  have rm : Word.field f.word 21 3 = f.op.rm.code := by simp (disch := omega) [NodeForm.word, field_append_high, field_append_low, -Nat.reduceAdd]
  simp only [decodeNodeOp, ty, tga, tgb, rm, Ty.ofCode_code, Tgt.ofCode_code _ ha, Tgt.ofCode_code _ hb, RMode.ofCode_code]
  simp (disch := omega) [NodeForm.word, bit_append_high, bit_append_low, -Nat.reduceAdd]
end

section
variable (sub : BitVec 3) (imm : BitVec 16)

theorem low19_field_high (lo w : Nat) (h : 16 ≤ lo) : Word.field (NodeForm.low19 sub imm) lo w = Word.field sub (lo - 16) w := field_append_high _ _ _ _ h
theorem low19_field_low (lo w : Nat) (h : lo + w ≤ 16) : Word.field (NodeForm.low19 sub imm) lo w = Word.field imm lo w := field_append_low _ _ _ _ h
theorem low19_bit_high (i : Nat) (h : 16 ≤ i) : Word.bit (NodeForm.low19 sub imm) i = Word.bit sub (i - 16) := bit_append_high _ _ _ h
theorem low19_bit_low (i : Nat) (h : i < 16) : Word.bit (NodeForm.low19 sub imm) i = Word.bit imm i := bit_append_low _ _ _ h
end

/-- The three forms of `sluice` share an opcode; XR and the direction bit tell them apart (R135). -/
theorem nodeOfOpc_sluice (op : NodeOp) (scope : BitVec 3) (xr rcv : Bool) (pair : BitVec 7) (dm1 : BitVec 4) :
    nodeOfOpc 0x92 op (NodeForm.low19 0 (scope ++ BitVec.ofBool xr ++ BitVec.ofBool rcv ++ pair ++ dm1))
      = if xr then (if rcv then some (.sluiceXrRcv op scope pair dm1) else some (.sluiceXrSnd op scope pair dm1))
        else some (.sluiceLocSnd op scope pair dm1) := by
  change (if Word.bit _ 12 then (if Word.bit _ 11 then some _ else some _) else some _) = _
  simp (disch := omega) [low19_field_low, low19_bit_low, field_append_high, field_append_low, bit_append_high, bit_append_low, -Nat.reduceAdd]

/-- The opcode and the SUB fields of an instruction's row name that instruction (R36). -/
theorem nodeOfOpc_of_nodeForm {i : Instr} {f : NodeForm} (h : i.nodeForm = some f) : nodeOfOpc f.opc f.op f.low = some i := by
  cases i
  case sluiceLocSnd w scope pair dm1 => cases h; exact nodeOfOpc_sluice w scope false false pair dm1
  case sluiceXrSnd w scope pair dm1 => cases h; exact nodeOfOpc_sluice w scope true false pair dm1
  case sluiceXrRcv w scope pair dm1 => cases h; exact nodeOfOpc_sluice w scope true true pair dm1
  all_goals
    cases h <;> change some _ = some _ <;>
    simp (disch := omega) [NodeForm.un, NodeForm.bin, NodeForm.ter, NodeForm.unF, NodeForm.binF, NodeForm.bit16, low19_field_high, low19_field_low,
      low19_bit_high, field_append_high, field_append_low, bit_append_high, bit_append_low, -Nat.reduceAdd]

theorem nodeOfOpc_zero (op : NodeOp) (x : BitVec 19) : nodeOfOpc 0 op x = none := rfl

/-- No row has the opcode 0, so no row's word is the `nop` word (R69). -/
theorem NodeForm.word_ne_nop {i : Instr} {f : NodeForm} (h : i.nodeForm = some f) : f.word ≠ nopWord := by
  intro e
  have opc : f.opc = 0 := by rw [← NodeForm.word_opc, e]; rfl
  have := nodeOfOpc_of_nodeForm h
  rw [opc, nodeOfOpc_zero] at this
  cases this

theorem NodeForm.ok_tga {f : NodeForm} (h : f.ok = true) : f.op.tga.ok = true := by simp_all [NodeForm.ok]
theorem NodeForm.ok_tgb {f : NodeForm} (h : f.ok = true) : f.op.tgb.ok = true := by simp_all [NodeForm.ok]

/-- Settles O57: the common fields, the opcode and the SUB fields of a row's word are read back each by itself. -/
theorem nodeRoundTrip : Obligations.NodeRoundTrip := by
  unfold Obligations.NodeRoundTrip
  intro i w hl hw he
  obtain ⟨f, hf, rfl⟩ := Option.map_eq_some_iff.mp he
  have ok : f.ok = true := by simpa [Instr.wellFormed, hl, hf] using hw
  simp [decodeNode, NodeForm.word_ne_nop hf, NodeForm.decodeNodeOp_word f (NodeForm.ok_tga ok) (NodeForm.ok_tgb ok), nodeOfOpc_of_nodeForm hf, hf, ok]

end Sys2Proof
end

section
/-! PROOF. What a step runs and what it ends with: the fetch of each kind of agent (R11, R187, R312), and what the last act of a step leaves in each part of the state (R141, R144, R253, R323). -/

namespace Sys2Proof.Machine.Map

@[simp] theorem get?_mapV {α : Type} (m : Map α) (f : Nat → α → α) (i : Nat) : get? (mapV m f) i = (get? m i).map (f i) := by
  induction m with
  | nil => rfl
  | cons kv m ih =>
    obtain ⟨k, v⟩ := kv
    by_cases h : k = i
    · subst h; simp [mapV, get?]
    · simpa [mapV, get?, h] using ih

/-- What is read after a change of every value, when the reset value is changed into itself. -/
theorem getD_mapV {α : Type} (m : Map α) (f : Nat → α → α) (i : Nat) (d : α) (h : f i d = d) : getD (mapV m f) i d = f i (getD m i d) := by
  rw [getD, getD, get?_mapV]
  cases get? m i with
  | none => exact h.symm
  | some v => rfl

end Sys2Proof.Machine.Map

namespace Sys2Proof.Machine

/-! ### What every step ends with -/

section
variable (s : State)

@[simp] theorem settleCands_tiles : (settleCands s).tiles = s.tiles := rfl
@[simp] theorem settleCands_regions : (settleCands s).regions = s.regions := rfl
@[simp] theorem settleCands_region (r : Nat) : (settleCands s).region r = s.region r := rfl

/-- A bypass count stays with a candidate and is 0 for every other launch (R323). -/
theorem clearBypass_open (c : Option Cand) (o : Open) :
    (if o.bypass == 0 || isCand c o.ticket then o else { o with bypass := 0 }) = { o with bypass := if isCand c o.ticket then o.bypass else 0 } := by
  cases isCand c o.ticket
  · by_cases z : o.bypass = 0
    · simp [z]; rw [← z]
    · simp [z]
  · simp

/-- So it is for a launch that waits pre-empted. -/
theorem clearBypass_launch (c : Option Cand) (x : Launch) :
    (if x.bypass == 0 || isCand c x.ticket then x else { x with bypass := 0 }) = { x with bypass := if isCand c x.ticket then x.bypass else 0 } := by
  cases isCand c x.ticket
  · by_cases z : x.bypass = 0
    · simp [z]; rw [← z]
    · simp [z]
  · simp

theorem settleCands_launch (l : Nat) : (settleCands s).launch l =
    { s.launch l with bypass := if isCand (candOf s (s.launch l).queue (s.queue (s.launch l).queue)) (s.launch l).ticket then (s.launch l).bypass else 0 } := by
  rw [State.launch, settleCands, Map.getD_mapV _ _ _ _ (by simp)]
  exact clearBypass_launch _ (s.launch l)

/-- So the kernel of a launch is the one it was. -/
@[simp] theorem settleCands_kernelOf (l : Nat) : (settleCands s).kernelOf l = s.kernelOf l := by
  simp [State.kernelOf, settleCands_launch]; rfl

theorem settleCands_queue (q : Nat) : (settleCands s).queue q =
    let keep := fun (o : Open) => { o with bypass := if isCand (candOf s q (s.queue q)) o.ticket then o.bypass else 0 }
    { s.queue q with waiting := (s.queue q).waiting.map keep, tails := (s.queue q).tails.map keep } := by
  rw [State.queue, settleCands, Map.getD_mapV _ _ _ _ (by simp)]
  simp only [clearBypass_open]
  rfl

/-- The bypass counts have no part in whether a phase is at its end. -/
@[simp] theorem settleCands_regionQuiet (r : Nat) : regionQuiet (settleCands s) r = regionQuiet s r := by
  have seq : regionSeq (settleCands s) r = regionSeq s r := by simp [regionSeq]
  have waits : seedWaits (settleCands s) r = seedWaits s r := by
    unfold seedWaits
    rw [seq]
    rfl
  unfold regionQuiet
  rw [waits]
  rfl

theorem settleQuiet_region (r : Nat) : (settleQuiet s).region r = s.region r
    ∨ (regionQuiet s r = false ∧ (settleQuiet s).region r = { s.region r with quiet := false, due := false }) := by
  rw [State.region, settleQuiet, Map.getD_mapV _ _ _ _ (by simp)]
  change (if _ then { s.region r with quiet := false, due := false } else s.region r) = _ ∨ _ ∧ (if _ then { s.region r with quiet := false, due := false } else s.region r) = _
  split
  · rename_i h
    exact .inr ⟨by simpa using (Bool.and_eq_true_iff.mp h).2, rfl⟩
  · exact .inl rfl

theorem settleLines_tile (k : TileKey) : (settleLines s).tile k = if (s.tile k).kind == .sp && s.tileRuns k then tileLines s k (s.tile k) else s.tile k := by
  rw [State.tile, settleLines, Map.getD_mapV _ _ _ _ (by simp)]
  rfl

end
/-! ### What a step runs -/

section
variable {s : State} {rest : List Move} {i : Instr}

theorem step_of_nil (h : s.agenda = []) : step s = .next s := by simp [step, h]

/-- An agent that is let go on runs the instruction it fetches. -/
theorem step_of_issue {a : Agent} (h : s.agenda = .issue a :: rest) (f : fetchOf { s with agenda := rest } a = .run i) :
    step s = settled (exec i { s with agenda := rest, focus := a }) := by
  simp [step, h, runMove, issueAt, f]

/-- An event runs as it is. -/
theorem step_of_act {a : Agent} (h : s.agenda = .act a i :: rest) (e : i.layer = .event) : step s = settled (exec i { s with agenda := rest, focus := a }) := by
  simp [step, h, runMove, e]

theorem fetchOf_seq {k : TileKey} (hpc : (s.seq k).pc.toNat < 65536)
    (hd : decodeSeq (Word.ofBytes 32 (Mem.readN s.ram (k * 65536 + (s.seq k).pc.toNat) 4)) = .ok i) : fetchOf s (.seq k) = .run i := by
  simp [fetchOf, Nat.not_le.mpr hpc, seqWord, hpc, Mem.load, hd]

theorem fetchOf_slot {k : TileKey} {n : Nat} (hd : decodeNode (s.slot k n).word = .ok i) : fetchOf s (.slot k n) = .run i := by simp [fetchOf, hd]

theorem fetchOf_pipe {k : TileKey} {n : Nat} (hd : decodeNode (s.slot k n).word = .ok i) : fetchOf s (.pipe k n) = .run i := by simp [fetchOf, hd]

theorem fetchOf_cmd {id : Nat} (hd : decodeCmd (s.cmd id).word = .ok i) : fetchOf s (.cmd id) = .run i := by simp [fetchOf, hd]

theorem fetchOf_queue {q : Nat} {p : Packet} (hp : headPacket s q = some p) (hd : decodePacket p = .ok i) : fetchOf s (.queue q) = .run i := by
  simp [fetchOf, hp, hd]

end

/-- Every step's last act notes bypasses, ends of phases and lines of requesters, and nothing else. -/
theorem settled_next (t : State) : settled (.next t) = .next (settleLines (settleQuiet (settleCands t))) := rfl

/-- An SP tile's lines of requesters are all that the last act of a step changes of a tile (R141, R144). -/
theorem settleLines_tile_own (s : State) (k : TileKey) :
    ∃ a b, (settleLines s).tile k = { s.tile k with own := { (s.tile k).own with line := a, ownLine := b } } := by
  rw [settleLines_tile]
  split
  · exact ⟨_, _, rfl⟩
  · exact ⟨_, _, rfl⟩

theorem settleLines_tile_of_not_sp (s : State) (k : TileKey) (h : (s.tile k).kind ≠ .sp) : (settleLines s).tile k = s.tile k := by
  rw [settleLines_tile]
  simp [h]

/-- Settles O59: each agent's fetch gives the instruction of its word, and the last act of a step is read part by part. -/
theorem stepRunsDecoded : Obligations.StepRunsDecoded := by
  unfold Obligations.StepRunsDecoded
  intro s rest i
  refine ⟨?_, ?_, ?_, ?_, ?_, ?_, step_of_nil, ?_⟩
  · exact fun k ha hpc hd => step_of_issue ha (fetchOf_seq hpc hd)
  · exact fun k n ha hd => step_of_issue ha (fetchOf_slot hd)
  · exact fun k n ha hd => step_of_issue ha (fetchOf_pipe hd)
  · exact fun id ha hd => step_of_issue ha (fetchOf_cmd hd)
  · exact fun q p ha hp hd => step_of_issue ha (fetchOf_queue hp hd)
  · exact fun a ha he => step_of_act ha he
  · intro t
    refine ⟨_, settled_next t, rfl, settleCands_launch t, settleCands_queue t, ?_, ?_, ?_⟩
    · exact settleLines_tile_own (settleQuiet (settleCands t))
    · exact settleLines_tile_of_not_sp (settleQuiet (settleCands t))
    · intro r
      obtain h | ⟨q, h⟩ := settleQuiet_region (settleCands t) r
      · exact .inl h
      · exact .inr ⟨by rwa [settleCands_regionQuiet] at q, h⟩

/-- Settles O60: the decoders are run on the eight words. -/
theorem decodingRight : Obligations.DecodingRight := by
  unfold Obligations.DecodingRight
  decide +kernel

end Sys2Proof.Machine
end

section
/-! PROOF. What a firing consumes and delivers (R17, R58, R61, R123): latches one by one, tokens that differ in the model's own fields alone (R290), the accesses that an action opens once, and what each kind of target holds after a delivery. -/

namespace Sys2Proof.Machine

/-! ### Latches -/

theorem Slot.at_put_self (sl : Slot) (p : Pos) (t : Option Tok) : (sl.put p t).at_ p = t := by cases p <;> rfl

theorem Slot.at_put_ne (sl : Slot) {p q : Pos} (t : Option Tok) (h : p ≠ q) : (sl.put q t).at_ p = sl.at_ p := by
  cases p
  all_goals cases q
  case left.left | right.right | pred.pred => exact absurd rfl h
  all_goals rfl

theorem Slot.at_arrive_ne (sl : Slot) {p q : Pos} (t : Tok) (h : p ≠ q) : (sl.arrive q t).at_ p = sl.at_ p := by
  unfold Slot.arrive
  split
  · rfl
  · exact Slot.at_put_ne sl (some t) h

/-- A latch that is not both sticky and met by a marker holds the token that arrives (R17, R60). -/
theorem Slot.at_arrive_self (sl : Slot) {p : Pos} {t : Tok} (h : stickyAt sl.word p = true → t.tt.isMarker = false) : (sl.arrive p t).at_ p = some t := by
  have keeps : (stickyAt sl.word p && t.tt.isMarker) = false := by
    cases hs : stickyAt sl.word p
    · rfl
    · exact h hs
  simp [Slot.arrive, keeps, Slot.at_put_self]

theorem at_foldl_put_none (p : Pos) (ps : List Pos) (sl : Slot) :
    (ps.foldl (fun x q => x.put q none) sl).at_ p = if p ∈ ps then none else sl.at_ p := by
  induction ps generalizing sl with
  | nil => rfl
  | cons q ps ih =>
    rw [List.foldl_cons, ih]
    by_cases h : p = q
    · subst h; simp [Slot.at_put_self]
    · simp [h, Slot.at_put_ne sl none h]

/-- A firing empties the enabled latches that are not sticky, and keeps the others (R17, R58). -/
theorem at_consume (f : NodeForm) (sl : Slot) (p : Pos) : (consume f sl).at_ p = if p ∈ firmPos f then none else sl.at_ p := at_foldl_put_none p (firmPos f) sl

@[simp] theorem consumeAt_focus (s : State) (k : TileKey) (n : Nat) (f : NodeForm) : (consumeAt s k n f).focus = s.focus := rfl

@[simp] theorem consumeAt_slot (s : State) (k : TileKey) (n : Nat) (f : NodeForm) : (consumeAt s k n f).slot k n = consume f (s.slot k n) :=
  State.setSlot_slot_self _ _ _ _

theorem consumeAt_slot_ne (s : State) (k : TileKey) {n m : Nat} (f : NodeForm) (h : m ≠ n) : (consumeAt s k n f).slot k m = s.slot k m :=
  State.setSlot_slot_ne _ _ _ _ _ h

/-! ### Tokens that differ in the model's own fields alone (R290) -/

theorem Tok.Like.refl (t : Tok) : t.Like t := ⟨rfl, rfl, rfl, rfl, rfl⟩

theorem Tok.Like.trans {t u v : Tok} (h : t.Like u) (g : u.Like v) : t.Like v := by
  obtain ⟨h1, h2, h3, h4, h5⟩ := h
  obtain ⟨g1, g2, g3, g4, g5⟩ := g
  exact ⟨h1.trans g1, h2.trans g2, h3.trans g3, h4.trans g4, h5.trans g5⟩

/-- The same header but for the VC that both get. -/
theorem Tok.Like.withVc {t u : Tok} (h : t.Like u) (v : BitVec 5) : Tok.Like { t with vc := v } { u with vc := v } := ⟨h.1, rfl, h.2.2⟩

theorem Tok.after_like (t : Tok) (h : List Nat) : (t.after h).Like t := ⟨rfl, rfl, rfl, rfl, rfl⟩

theorem openAcc_like (s : State) (k : TileKey) (d : Tgt) (x : Tok) : (openAcc s k d x).2.Like x := by
  obtain h | ⟨-, h⟩ := openAcc_spec s k d x <;> rw [h] <;> exact ⟨rfl, rfl, rfl, rfl, rfl⟩

/-- Two optional tokens of which both are there or neither, alike. -/
def OptLike (x y : Option Tok) : Prop := x.isSome = y.isSome ∧ ∀ u v, x = some u → y = some v → u.Like v

theorem OptLike.map {f : Tok → Tok} (h : ∀ t, (f t).Like t) (x : Option Tok) : OptLike (x.map f) x := by
  cases x with
  | none => exact ⟨rfl, fun _ _ e => nomatch e⟩
  | some t => exact ⟨rfl, fun u v hu hv => by cases hu; cases hv; exact h t⟩

theorem OptLike.trans {x y z : Option Tok} (h : OptLike x y) (g : OptLike y z) : OptLike x z := by
  refine ⟨h.1.trans g.1, fun u w hu hw => ?_⟩
  obtain ⟨v, hv⟩ := Option.isSome_iff_exists.mp (h.1.symm.trans (by rw [hu]; rfl))
  exact (h.2 u v hu hv).trans (g.2 v w hv hw)

theorem openTok_like (s : State) (k : TileKey) (d : Tgt) (x : Option Tok) : OptLike (openTok s k d x).2 x := by
  cases x with
  | none => exact ⟨rfl, fun _ _ e => nomatch e⟩
  | some t => exact ⟨rfl, fun u v hu hv => by cases hu; cases hv; exact openAcc_like s k d t⟩

/-! ### An access is opened once (R290) -/

/-- A token whose sending to a target opens no further access. -/
def NoOpen (t : Tile) (d : Tgt) (x : Tok) : Prop := ∀ p, portOfTgt t d = some p → (x.acc.isNone && opensAccess p x) = false

theorem openAcc_of_noOpen {s : State} {k : TileKey} {d : Tgt} {x : Tok} (h : NoOpen (s.tile k) d x) : openAcc s k d x = (s, x) := by
  unfold openAcc
  split
  · rename_i p hp
    simp [h p hp]
  · rfl

theorem noOpen_openAcc (s : State) (k : TileKey) (d : Tgt) (x : Tok) : NoOpen (s.tile k) d (openAcc s k d x).2 := by
  intro p hp
  by_cases h : (x.acc.isNone && opensAccess p x) = true
  · simp [openAcc, hp, h]
  · simp [openAcc, hp, h]

theorem NoOpen.after {t : Tile} {d : Tgt} {x : Tok} (h : NoOpen t d x) (past : List Nat) : NoOpen t d (x.after past) := h

/-- What opening an access changes: nothing but the accesses followed. -/
theorem openAcc_state (s : State) (k : TileKey) (d : Tgt) (x : Tok) :
    (openAcc s k d x).1 = { s with accs := (openAcc s k d x).1.accs, nextAcc := (openAcc s k d x).1.nextAcc } := by
  obtain h | ⟨-, h⟩ := openAcc_spec s k d x <;> rw [h]

theorem openTok_state (s : State) (k : TileKey) (d : Tgt) (x : Option Tok) :
    (openTok s k d x).1 = { s with accs := (openTok s k d x).1.accs, nextAcc := (openTok s k d x).1.nextAcc } := by
  cases x with
  | none => rfl
  | some t => exact openAcc_state s k d t

theorem openTok_tile (s : State) (k : TileKey) (d : Tgt) (x : Option Tok) (j : TileKey) : (openTok s k d x).1.tile j = s.tile j := by
  rw [openTok_state]; rfl

theorem noOpen_openTok {s : State} {k : TileKey} {d : Tgt} {x : Option Tok} {t : Tok} (h : (openTok s k d x).2 = some t) : NoOpen (s.tile k) d t := by
  cases x with
  | none => cases h
  | some u => cases h; exact noOpen_openAcc s k d u

/-- No arrival changes at which port a token for a target ends up. -/
theorem portOfTgt_land (s : State) (k : TileKey) (d e : Tgt) (x : Parcel) : portOfTgt ((land s k d x).tile k) e = portOfTgt (s.tile k) e := by
  have same : ∀ t : Tile, (∀ r : BitVec 4, (t.routes.getD r.toNat {}).entry = ((s.tile k).routes.getD r.toNat {}).entry) → portOfTgt t e = portOfTgt (s.tile k) e := by
    intro t h
    cases e <;> simp only [portOfTgt, h]
  cases d with
  | none => rfl
  | latch p n => exact same _ fun r => by simp [land, State.setSlot_tile_self]
  | route r =>
    refine same _ fun q => ?_
    simp only [land, State.setTile_tile_self, routePut]
    split
    · rfl
    · by_cases h : q.toNat = r.toNat
      · simp [h]
      · simp [Map.getD_put_ne _ _ _ _ _ h]
  | port p =>
    refine same _ fun r => ?_
    simp only [land]
    split <;> simp

theorem NoOpen.land {s : State} {k : TileKey} {d : Tgt} {x : Tok} (h : NoOpen (s.tile k) d x) (e : Tgt) (y : Parcel) : NoOpen ((land s k e y).tile k) d x := by
  intro p hp
  rw [portOfTgt_land] at hp
  exact h p hp

theorem deliverTok_of_noOpen {s : State} {k : TileKey} {d : Tgt} {x : Tok} (h : NoOpen (s.tile k) d x) :
    deliverTok s k d (some x) = land s k d { tok := { x with vc := 0 } } := by
  simp [deliverTok, deliver, openAcc_of_noOpen h]

/-- Arrivals follow no access. -/
@[simp] theorem land_accs (s : State) (k : TileKey) (d : Tgt) (x : Parcel) : (land s k d x).accs = s.accs := by
  cases d with
  | port p => simp only [land]; split <;> rfl
  | _ => rfl

@[simp] theorem land_nextAcc (s : State) (k : TileKey) (d : Tgt) (x : Parcel) : (land s k d x).nextAcc = s.nextAcc := by
  cases d with
  | port p => simp only [land]; split <;> rfl
  | _ => rfl

/-- Two optional tokens that open no access at two targets. -/
def PairNoOpen (t : Tile) (da db : Tgt) (a b : Option Tok) : Prop := (∀ x, a = some x → NoOpen t da x) ∧ ∀ x, b = some x → NoOpen t db x

theorem deliverTok_accs {s : State} {k : TileKey} {d : Tgt} {a : Option Tok} (h : ∀ x, a = some x → NoOpen (s.tile k) d x) :
    (deliverTok s k d a).accs = s.accs ∧ (deliverTok s k d a).nextAcc = s.nextAcc := by
  cases a with
  | none => exact ⟨rfl, rfl⟩
  | some x => simp [deliverTok_of_noOpen (h x rfl)]

theorem noOpen_deliverTok {s : State} {k : TileKey} {d e : Tgt} {a : Option Tok} {x : Tok} (ha : ∀ x, a = some x → NoOpen (s.tile k) d x)
    (h : NoOpen (s.tile k) e x) : NoOpen ((deliverTok s k d a).tile k) e x := by
  cases a with
  | none => exact h
  | some y => rw [deliverTok_of_noOpen (ha y rfl)]; exact h.land _ _

/-- What `sendBoth` does outside a pipe: both accesses are opened, then the two tokens are delivered, and opening them again would change nothing. -/
theorem deliverPair_accs {s : State} {k : TileKey} {da db : Tgt} {a b : Option Tok} (h : PairNoOpen (s.tile k) da db a b) :
    (deliverPair s k da db a b).accs = s.accs ∧ (deliverPair s k da db a b).nextAcc = s.nextAcc := by
  obtain ⟨ha, hb⟩ := h
  unfold deliverPair
  split
  · have first := deliverTok_accs hb
    have second := @deliverTok_accs (deliverTok s k db b) _ _ _ fun x hx => noOpen_deliverTok hb (ha x hx)
    exact ⟨second.1.trans first.1, second.2.trans first.2⟩
  · have first := deliverTok_accs ha
    have second := @deliverTok_accs (deliverTok s k da a) _ _ _ fun x hx => noOpen_deliverTok ha (hb x hx)
    exact ⟨second.1.trans first.1, second.2.trans first.2⟩

theorem leftSecond_iff (da db : Tgt) : leftSecond da db = true ↔ ∃ m, da = .latch .right m ∧ db = .latch .left m := by
  constructor
  · intro h
    unfold leftSecond at h
    split at h
    · exact ⟨_, rfl, by simpa using (beq_iff_eq.mp h).symm⟩
    · cases h
  · rintro ⟨m, rfl, rfl⟩
    simp [leftSecond]

/-! ### The two ways in which an action sends its tokens (R58, R61) -/

/-- Whether the agent in focus sends into its pipe. -/
def Piped (s : State) : Prop := ∃ j m, s.focus = .pipe j m

/-- The accesses of one action opened: the state that follows them, and the two tokens that name them, as `sendBoth` sends them. -/
def openBoth (s : State) (k : TileKey) (da db : Tgt) (a b : Option Tok) : State × Option Tok × Option Tok :=
  let x := openTok s k da a
  let y := openTok x.1 k db b
  let own := (x.2.bind (·.acc)).toList ++ (y.2.bind (·.acc)).toList
  (y.1, x.2.map (fun t => t.after own), y.2.map (fun t => t.after own))

section
variable (s : State) (k : TileKey) (da db : Tgt) (a b : Option Tok)

theorem openBoth_left_like : OptLike (openBoth s k da db a b).2.1 a := (OptLike.map (fun t => t.after_like _) _).trans (openTok_like _ _ _ _)

theorem openBoth_right_like : OptLike (openBoth s k da db a b).2.2 b := (OptLike.map (fun t => t.after_like _) _).trans (openTok_like _ _ _ _)

theorem openBoth_state : (openBoth s k da db a b).1 = { s with accs := (openBoth s k da db a b).1.accs, nextAcc := (openBoth s k da db a b).1.nextAcc } := by
  simp only [openBoth]
  rw [openTok_state (openTok s k da a).1 k db b, openTok_state s k da a]

theorem openBoth_tile (j : TileKey) : (openBoth s k da db a b).1.tile j = s.tile j := by rw [openBoth_state]; rfl

/-- Both accesses are open: sending the tokens opens none. -/
theorem openBoth_noOpen : PairNoOpen ((openBoth s k da db a b).1.tile k) da db (openBoth s k da db a b).2.1 (openBoth s k da db a b).2.2 := by
  rw [openBoth_tile]
  constructor
  · intro x hx
    obtain ⟨t, ht, rfl⟩ := Option.map_eq_some_iff.mp hx
    exact (noOpen_openTok ht).after _
  · intro x hx
    obtain ⟨t, ht, rfl⟩ := Option.map_eq_some_iff.mp hx
    rw [← openTok_tile s k da a k]
    exact (noOpen_openTok ht).after _
end

/-- Outside a pipe the two tokens are delivered. -/
theorem sendBoth_of_not_piped {s : State} (h : ¬Piped s) (k : TileKey) (n : Nat) (da db : Tgt) (a b : Option Tok) :
    sendBoth s k n da db a b = deliverPair (openBoth s k da db a b).1 k da db (openBoth s k da db a b).2.1 (openBoth s k da db a b).2.2 := by
  unfold sendBoth
  split
  · rename_i j m hf
    exact absurd ⟨j, m, hf⟩ h
  · rfl

/-- Delivering them follows no further access. -/
theorem sendBoth_accs {s : State} (h : ¬Piped s) (k : TileKey) (n : Nat) (da db : Tgt) (a b : Option Tok) :
    (openBoth s k da db a b).1 = { s with accs := (sendBoth s k n da db a b).accs, nextAcc := (sendBoth s k n da db a b).nextAcc } := by
  obtain ⟨accs, next⟩ := deliverPair_accs (openBoth_noOpen s k da db a b)
  rw [sendBoth_of_not_piped h, accs, next, ← openBoth_state]

/-- Into a pipe nothing is delivered: the slot keeps both tokens in the order in which they leave. -/
theorem sendBoth_of_piped {s : State} (h : Piped s) (k : TileKey) (n : Nat) (da db : Tgt) (a b : Option Tok) :
    sendBoth s k n da db a b = (openBoth s k da db a b).1.setSlot k n
      { s.slot k n with out := pairEmits da db (openBoth s k da db a b).2.1 (openBoth s k da db a b).2.2 } := by
  obtain ⟨j, m, hf⟩ := h
  have slot : (openBoth s k da db a b).1.slot k n = s.slot k n := by simp only [State.slot, openBoth_tile]
  rw [← slot]
  simp only [sendBoth, hf]
  rfl

/-! ### What each target holds after a delivery (R17 to R21, R195) -/

/-- A delivery elsewhere leaves a latch as it is. -/
theorem deliverTok_at {s : State} {k : TileKey} {d : Tgt} {n : Nat} {p : Pos} (hn : n < 32) (h : d ≠ .latch p (BitVec.ofNat 5 n)) (a : Option Tok) :
    ((deliverTok s k d a).slot k n).at_ p = (s.slot k n).at_ p := by
  cases a with
  | none => rfl
  | some x =>
    have opened : ∀ j, (openAcc s k d x).1.tile j = s.tile j := by intro j; rw [openAcc_state]; rfl
    simp only [deliverTok, deliver]
    generalize openAcc s k d x = o at *
    have same : o.1.slot k n = s.slot k n := by simp [State.slot, opened]
    rw [← same]
    cases d with
    | none => rfl
    | route r => simp only [land, State.setTile_slot_self, routePut]; split <;> rfl
    | port q => simp only [land]; split <;> simp [State.slot]
    | latch q m =>
      simp only [land]
      by_cases hm : n = m.toNat
      · have hp : p ≠ q := fun e => h (by subst e hm; simp)
        subst hm
        simp [Slot.at_arrive_ne _ _ hp]
      · rw [State.setSlot_slot_ne _ _ _ _ _ hm]

/-- Delivering two tokens elsewhere leaves a latch as it is. -/
theorem deliverPair_at {s : State} {k : TileKey} {da db : Tgt} {n : Nat} {p : Pos} (hn : n < 32) (ha : da ≠ .latch p (BitVec.ofNat 5 n))
    (hb : db ≠ .latch p (BitVec.ofNat 5 n)) (a b : Option Tok) : ((deliverPair s k da db a b).slot k n).at_ p = (s.slot k n).at_ p := by
  unfold deliverPair
  split
  · rw [deliverTok_at hn ha, deliverTok_at hn hb]
  · rw [deliverTok_at hn hb, deliverTok_at hn ha]

theorem deliverTok_some (s : State) (k : TileKey) (d : Tgt) (x : Tok) :
    deliverTok s k d (some x) = land (openAcc s k d x).1 k d { tok := { (openAcc s k d x).2 with vc := 0 } } := rfl

theorem openAcc_tile (s : State) (k : TileKey) (d : Tgt) (x : Tok) (j : TileKey) : (openAcc s k d x).1.tile j = s.tile j := by
  rw [openAcc_state]; rfl

theorem openAcc_slot (s : State) (k : TileKey) (d : Tgt) (x : Tok) (j : TileKey) (n : Nat) : (openAcc s k d x).1.slot j n = s.slot j n := by
  simp only [State.slot, openAcc_tile]

theorem deliverTok_none (s : State) (k : TileKey) (x : Tok) : deliverTok s k .none (some x) = s := rfl

theorem deliverTok_latch {s : State} {k : TileKey} {p : Pos} {m : BitVec 5} {x : Tok} (h : stickyAt (s.slot k m.toNat).word p = true → x.tt.isMarker = false) :
    ∃ z, ((deliverTok s k (.latch p m) (some x)).slot k m.toNat).at_ p = some z ∧ z.Like { x with vc := 0 } := by
  refine ⟨{ x with vc := 0 }, ?_, .refl _⟩
  change (((s.setSlot k m.toNat ((s.slot k m.toNat).arrive p { x with vc := 0 })).slot k m.toNat).at_ p) = _
  rw [State.setSlot_slot_self]
  exact Slot.at_arrive_self _ h

theorem deliverTok_route {s : State} {k : TileKey} {r : BitVec 4} {x : Tok} {h : Option Tok} {hs : List (Option Tok)}
    (hr : ((s.tile k).routes.getD r.toNat {}).hops = h :: hs) :
    ∃ z, (((deliverTok s k (.route r) (some x)).tile k).routes.getD r.toNat {}).hops = some z :: hs
      ∧ z.Like { x with vc := routeDvc ((s.tile k).routes.getD r.toNat {}).entry } := by
  refine ⟨{ (openAcc s k (.route r) x).2 with vc := routeDvc ((s.tile k).routes.getD r.toNat {}).entry }, ?_, (openAcc_like s k (.route r) x).withVc _⟩
  simp only [deliverTok_some, land, State.setTile_tile_self, openAcc_tile, routePut, hr, Map.getD_put_self]

/-- A port holds what arrives at it; a token at `pt.g` has the round in which it arrives (R303). -/
theorem land_port (s : State) (k : TileKey) (p : BitVec 8) (x : Parcel) :
    ((land s k (.port p) x).tile k).ports.get? p.toNat = some (if p == 0x31 then { x with round := (s.port k).cr } else x) := by
  simp only [land]
  split
  · rw [State.setSeq_tile, State.setTile_tile_self, Map.get?_put_self]
  · rw [State.setTile_tile_self, Map.get?_put_self]

theorem deliverTok_port (s : State) (k : TileKey) (p : BitVec 8) (x : Tok) :
    ∃ q, ((deliverTok s k (.port p) (some x)).tile k).ports.get? p.toNat = some q ∧ q.tok.Like { x with vc := 0 } := by
  refine ⟨_, by rw [deliverTok_some, land_port], ?_⟩
  split <;> exact (openAcc_like s k (.port p) x).withVc 0

theorem deliverTok_offers {s : State} {k : TileKey} {p : BitVec 8} (lo : 0x40 ≤ p.toNat) (hi : p.toNat ≤ 0x47) (x : Tok) :
    ((deliverTok s k (.port p) (some x)).seq k).offers = (s.seq k).offers.upd (p.toNat - 0x40) [] (fun l => l ++ [.fabric]) := by
  have range : (0x40 ≤ p && p ≤ 0x47) = true := by simp [BitVec.le_def, lo, hi]
  have seq : (openAcc s k (.port p) x).1.seq k = s.seq k := by rw [openAcc_state]; rfl
  simp only [deliverTok_some, land, if_pos range, State.setSeq_seq_self, State.setTile_seq, seq]

/-! ### A firing -/

section
variable (s : State) (k : TileKey) (n : Nat) (f : NodeForm) (a b : Option Tok)

/-- What `openBoth` makes of a firing: its operands are consumed, and its two tokens carry what happens before the firing. -/
def fireOpen : State × Option Tok × Option Tok :=
  openBoth (consumeAt s k n f) k f.op.tga f.op.tgb (a.map (·.after (slotPast s k n f))) (b.map (·.after (slotPast s k n f)))

theorem fireOpen_left_like : OptLike (fireOpen s k n f a b).2.1 a := (openBoth_left_like _ _ _ _ _ _).trans (OptLike.map (fun t => t.after_like _) a)

theorem fireOpen_right_like : OptLike (fireOpen s k n f a b).2.2 b := (openBoth_right_like _ _ _ _ _ _).trans (OptLike.map (fun t => t.after_like _) b)

theorem fireOpen_slot (m : Nat) : (fireOpen s k n f a b).1.slot k m = (consumeAt s k n f).slot k m := by simp only [State.slot, fireOpen, openBoth_tile]

theorem fireTo_of_not_piped (h : ¬Piped s) :
    fireTo s k n f a b = deliverPair (fireOpen s k n f a b).1 k f.op.tga f.op.tgb (fireOpen s k n f a b).2.1 (fireOpen s k n f a b).2.2 :=
  @sendBoth_of_not_piped (consumeAt s k n f) h _ _ _ _ _ _

theorem fireOpen_state (h : ¬Piped s) :
    (fireOpen s k n f a b).1 = { consumeAt s k n f with accs := (fireTo s k n f a b).accs, nextAcc := (fireTo s k n f a b).nextAcc } :=
  @sendBoth_accs (consumeAt s k n f) h _ _ _ _ _ _

theorem fireTo_of_piped (h : Piped s) : fireTo s k n f a b = (fireOpen s k n f a b).1.setSlot k n
    { consume f (s.slot k n) with out := pairEmits f.op.tga f.op.tgb (fireOpen s k n f a b).2.1 (fireOpen s k n f a b).2.2 } := by
  rw [← consumeAt_slot]
  exact @sendBoth_of_piped (consumeAt s k n f) h _ _ _ _ _ _

theorem fireTo_at {p : Pos} (h : (f.op.tga ≠ .latch p (BitVec.ofNat 5 n) ∧ f.op.tgb ≠ .latch p (BitVec.ofNat 5 n)) ∨ Piped s) (hn : n < 32) :
    ((fireTo s k n f a b).slot k n).at_ p = if p ∈ firmPos f then none else (s.slot k n).at_ p := by
  rw [← at_consume]
  by_cases piped : Piped s
  · rw [fireTo_of_piped s k n f a b piped, State.setSlot_slot_self]
    cases p <;> rfl
  · obtain ⟨ha, hb⟩ := h.resolve_right piped
    rw [fireTo_of_not_piped s k n f a b piped, deliverPair_at hn ha hb, fireOpen_slot, consumeAt_slot]

theorem fireTo_slot_of_piped (h : Piped s) {m : Nat} (hm : m ≠ n) : (fireTo s k n f a b).slot k m = s.slot k m := by
  rw [fireTo_of_piped s k n f a b h, State.setSlot_slot_ne _ _ _ _ _ hm, fireOpen_slot, consumeAt_slot_ne s k f hm]

theorem fireTo_out_of_piped (h : Piped s) :
    ((fireTo s k n f a b).slot k n).out = pairEmits f.op.tga f.op.tgb (fireOpen s k n f a b).2.1 (fireOpen s k n f a b).2.2 := by
  rw [fireTo_of_piped s k n f a b h, State.setSlot_slot_self]

end

/-- Settles O13: the firing's latches, its deliveries and its pipe are read each by its own lemma, and `SentFrom` says what else it leaves alone. -/
theorem firingConsumesAndDelivers : Obligations.FiringConsumesAndDelivers := by
  unfold Obligations.FiringConsumesAndDelivers
  intro s k n f a b
  have sent := sentFrom_fireTo s k n f a b
  have left := fireOpen_left_like s k n f a b
  have right := fireOpen_right_like s k n f a b
  refine ⟨fun p h hn => fireTo_at s k n f a b h hn, fun h => ?_, fun s1 d x => ⟨?_, ?_, ?_, ?_, ?_⟩, fun h => ?_, sent.tiles, sent.rest, fun j => ?_⟩
  · have fired := fireTo_of_not_piped s k n f a b h
    refine ⟨_, _, _, left, right, fireOpen_state s k n f a b h, fun swapped => ?_, fun straight => ?_⟩
    · rwa [deliverPair, if_pos ((leftSecond_iff _ _).mpr swapped)] at fired
    · rwa [deliverPair, if_neg (mt (leftSecond_iff _ _).mp straight)] at fired
  · rintro rfl; rfl
  · rintro p m rfl h; exact deliverTok_latch h
  · rintro r h hs rfl hr; exact deliverTok_route hr
  · rintro p rfl; exact deliverTok_port s1 k p x
  · rintro p rfl lo hi; exact deliverTok_offers lo hi x
  · exact ⟨fun m hm => fireTo_slot_of_piped s k n f a b h hm, _, _, left, right, fireTo_out_of_piped s k n f a b h⟩
  · by_cases h : j = k
    · subst h; rw [sent.seq]; exact ⟨rfl, rfl, rfl, rfl, rfl⟩
    · rw [sent.seqs j h]; exact ⟨rfl, rfl, rfl, rfl, rfl⟩

end Sys2Proof.Machine
end

section
/-! PROOF. Routes, decoders and scale tokens (01 R21; 02 R52, R53): each kind of move at its agent. -/

namespace Sys2Proof.Machine

/-! ### A list with one element replaced -/

theorem getElem?_setAt_self {α : Type} {l : List α} {i : Nat} (h : i < l.length) (x : α) : (setAt l i x)[i]? = some x := by
  simp [setAt, Nat.min_eq_left h.le]

theorem getElem?_setAt_lt {α : Type} {l : List α} {i j : Nat} (h : j < i) (hi : i < l.length) (x : α) : (setAt l i x)[j]? = l[j]? := by
  have hj : j < (l.take i).length := by simp; omega
  simp [setAt, List.getElem?_append_left hj, h]

theorem length_setAt {α : Type} {l : List α} {i : Nat} (h : i < l.length) (x : α) : (setAt l i x).length = l.length := by
  simp [setAt]; omega

theorem lt_length_of_getElem? {α : Type} {l : List α} {i : Nat} {x : α} (h : l[i]? = some x) : i < l.length := (List.getElem?_eq_some_iff.mp h).1

/-! ### Replacing a channel -/

section
variable (s : State) (k : TileKey) (v : Nat) (c : Chan)

@[simp] theorem setChan_chan_self : ((setChan s k v c).tile k).chans.getD v {} = c := by simp [setChan]

@[simp] theorem setChan_routes (j : TileKey) : ((setChan s k v c).tile j).routes = (s.tile j).routes := by
  by_cases h : j = k
  · subst h; simp [setChan]
  · simp [setChan, State.setTile_tile_ne _ _ _ _ h]

@[simp] theorem setChan_sregs (j : TileKey) : ((setChan s k v c).tile j).sregs = (s.tile j).sregs := by
  by_cases h : j = k
  · subst h; simp [setChan]
  · simp [setChan, State.setTile_tile_ne _ _ _ _ h]

@[simp] theorem countTile_sregs (j : TileKey) (lanes : List Nat) : ((countTile s k lanes).tile j).sregs = (s.tile j).sregs := by
  unfold countTile
  split
  · rfl
  · by_cases h : j = k
    · subst h; simp
    · simp [State.setTile_tile_ne _ _ _ _ h]

end

/-! ### One hop (R21) -/

/-- A token has left a hop of a route. -/
def hopOut (s : State) (k : TileKey) (r h : Nat) : State :=
  s.setTile k { s.tile k with routes := (s.tile k).routes.put r { (s.tile k).routes.getD r {} with hops := setAt ((s.tile k).routes.getD r {}).hops h none } }

/-- The tile and the channel where a route ends. -/
def routeEnd (s : State) (k : TileKey) (r : Nat) : TileKey × Nat :=
  (regionTile (s.region (s.regionOf k)) (routeTile ((s.tile k).routes.getD r {}).entry), (routeDvc ((s.tile k).routes.getD r {}).entry).toNat)

section
variable {s : State} {k : TileKey} {r h : Nat} {x : Tok}

theorem hopOut_chans (j : TileKey) : ((hopOut s k r h).tile j).chans = (s.tile j).chans := by
  by_cases hj : j = k
  · subst hj; simp [hopOut]
  · simp [hopOut, State.setTile_tile_ne _ _ _ _ hj]

theorem hopOut_hop (len : h < ((s.tile k).routes.getD r {}).hops.length) : (((hopOut s k r h).tile k).routes.getD r {}).hops[h]? = some none := by
  rw [hopOut, State.setTile_tile_self, Map.getD_put_self]
  exact getElem?_setAt_self len _

variable (here : ((s.tile k).routes.getD r {}).hops[h]? = some (some x))
include here

/-- A token moves to the next hop when that is empty. -/
theorem hopMove_next (next : ((s.tile k).routes.getD r {}).hops[h + 1]? = some none) :
    (((hopMove s k r h).tile k).routes.getD r {}).hops[h]? = some none ∧ (((hopMove s k r h).tile k).routes.getD r {}).hops[h + 1]? = some (some x) := by
  have len := lt_length_of_getElem? next
  have emptied : h + 1 < (setAt ((s.tile k).routes.getD r {}).hops h none).length := by rwa [length_setAt (by omega)]
  simp only [hopMove, here, next, Option.getD_some, if_pos len, State.setTile_tile_self, Map.getD_put_self]
  rw [getElem?_setAt_lt (Nat.lt_succ_self h) emptied, getElem?_setAt_self (by omega), getElem?_setAt_self emptied]
  exact ⟨rfl, rfl⟩

/-- At its last hop a token reaches the inbound channel where the route ends, when that has none; else it stays. -/
theorem hopMove_last (last : h + 1 = ((s.tile k).routes.getD r {}).hops.length) :
    let e := routeEnd s k r
    let c := (s.tile e.1).chans.getD e.2 {}
    hopMove s k r h = if c.arrived.isNone then setChan (hopOut s k r h) e.1 e.2 { c with arrived := some x } else s := by
  intro e c
  have same : ((hopOut s k r h).tile e.1).chans.getD e.2 {} = c := by rw [hopOut_chans]
  rw [← same]
  simp only [hopMove, here, Option.getD_some, if_neg (Nat.not_lt.mpr last.ge)]
  rfl

end

/-! ### TOKEN_DELIVER and the decoders at their agents -/

section
variable {s : State} {k : TileKey}

theorem exec_hop {r h : Nat} (hf : s.focus = .place (.hop k r h)) (ht : s.tileThere k = true) : exec .tokenDeliver s = .next (hopMove s k r h) := by
  change execTokenDeliver s = _
  simp [execTokenDeliver, hf, placeRuns, ht]

theorem exec_chan {v : Nat} (hf : s.focus = .place (.chan k v)) (ht : s.tileThere k = true) : exec .tokenDeliver s = .next (chanMove s k v) := by
  change execTokenDeliver s = _
  simp [execTokenDeliver, hf, placeRuns, ht]

theorem exec_slot {n : Nat} (hf : s.focus = .place (.slot k n)) (ht : s.tileThere k = true) : exec .tokenDeliver s = .next (slotMove s k n) := by
  change execTokenDeliver s = _
  simp [execTokenDeliver, hf, placeRuns, ht]

end

theorem atChan_of {s : State} {k : TileKey} {v : Nat} {c : Chan} (hf : s.focus = .chan k v) (hc : (s.tile k).chans.get? v = some c) (ht : s.tileThere k = true)
    (go : TileKey → Nat → Tile → Chan → Out) : atChan s go = go k v (s.tile k) c := by
  have has : (s.tile k).chans.has v = true := by simp [Map.has, hc]
  have get : (s.tile k).chans.getD v {} = c := by simp [Map.getD, hc]
  simp only [atChan, hf, has, get, ht, Bool.not_true, Bool.false_eq_true, if_true, if_false]

/-! ### Scale words (R52) -/

theorem takeScales_length (n : Nat) (cur : BitVec 16) (q : List (BitVec 16)) : (takeScales n cur q).1.length = n := by
  induction n generalizing cur q with
  | zero => rfl
  | succ n ih => simp [takeScales, ih]

theorem takeScales_queue (n : Nat) (cur : BitVec 16) (q : List (BitVec 16)) : (takeScales n cur q).2.2 = q.drop n := by
  induction n generalizing cur q with
  | zero => rfl
  | succ n ih => cases q <;> simp [takeScales, ih]

theorem getLastD_cons_headD (w cur : BitVec 16) (q : List (BitVec 16)) : (w :: q).getLastD cur = q.getLastD w := by
  cases q <;> simp [List.getLastD]

/-- The scale words are the queue's in turn, then the last one again. -/
theorem takeScales_get (n : Nat) (cur : BitVec 16) (q : List (BitVec 16)) {i : Nat} (h : i < n) :
    (takeScales n cur q).1[i]? = some (q.getD i (q.getLastD cur)) := by
  induction n generalizing cur q i with
  | zero => omega
  | succ n ih =>
    cases i with
    | zero => cases q <;> simp [takeScales]
    | succ i =>
      simp only [takeScales, List.getElem?_cons_succ]
      rw [ih _ _ (by omega)]
      cases q with
      | nil => rfl
      | cons w q => rw [getLastD_cons_headD]; rfl

/-- The register keeps the last scale word used. -/
theorem takeScales_reg (n : Nat) (cur : BitVec 16) (q : List (BitVec 16)) : (takeScales (n + 1) cur q).2.1 = q.getD n (q.getLastD cur) := by
  induction n generalizing cur q with
  | zero => cases q <;> simp [takeScales]
  | succ n ih =>
    rw [takeScales, ih]
    cases q with
    | nil => rfl
    | cons w q => rw [getLastD_cons_headD]; rfl

theorem extract_setField_zero (f : Lane) (v : BitVec 16) : (Word.setField f 0 v).extractLsb' 0 16 = v := by
  apply BitVec.eq_of_getLsbD_eq
  intro i hi
  have h : i < 32 := by omega
  simp only [Word.setField, BitVec.getLsbD_extractLsb', BitVec.getLsbD_or, BitVec.getLsbD_and, BitVec.getLsbD_not, BitVec.getLsbD_shiftLeft,
    BitVec.getLsbD_setWidth, BitVec.getLsbD_allOnes]
  simp [hi, h]

/-! ### What a channel makes of the token that has arrived (R52, R53) -/

section
variable {s : State} {k : TileKey} {v : Nat} {x : Tok} {c : Chan}
  (hf : s.focus = .chan k v) (hc : (s.tile k).chans.get? v = some c) (ht : s.tileThere k = true) (arrived : c.arrived = some x)
include hf hc ht arrived

/-- A scale token fills the queue. -/
theorem scaleToken_fills (scale : x.tt = .scale) (sx : chanSx c = true) (low : 1 ≤ x.seq.toNat) (high : x.seq.toNat ≤ 32)
    (room : c.queue.length + x.seq.toNat ≤ 32) : exec .scaleToken s = .next (setChan s k v
      { c with arrived := none, queue := c.queue ++ (List.range x.seq.toNat).map (fun j => Word.field x.pay (16 * j) 16) }) := by
  change execScaleToken s = _
  rw [execScaleToken, atChan_of hf hc ht]
  simp [arrived, scale, sx, Nat.not_lt.mpr high, Nat.not_lt.mpr room, Nat.ne_of_gt low]

/-- A scale token that names no number of scale words is discarded and counted. -/
theorem scaleToken_discarded (scale : x.tt = .scale) (none : chanSx c = false ∨ x.seq = 0 ∨ 32 < x.seq.toNat) :
    exec .scaleToken s = .next (countTile (setChan s k v { c with arrived := .none }) k [6]) := by
  have bad : (!chanSx c || x.seq.toNat == 0 || decide (32 < x.seq.toNat)) = true := by
    rcases none with h | h | h <;> simp [h]
  change execScaleToken s = _
  rw [execScaleToken, atChan_of hf hc ht]
  simp only [arrived, scale, bad, if_pos]
  rfl

variable (idle : c.parts = [])
include idle

/-- A control token, a marker or a fault token passes unchanged. -/
theorem channelDecode_other (data : x.tt ≠ .data) (scale : x.tt ≠ .scale) :
    exec .channelDecode s = .next (setChan s k v { c with arrived := none, parts := [{ tok := x }] }) := by
  change execChannelDecode s = _
  rw [execChannelDecode, atChan_of hf hc ht]
  simp [arrived, idle, data, scale]

/-- Without a format that needs a scale a data token passes unchanged. -/
theorem channelDecode_unscaled (data : x.tt = .data) (sreg : chanSreg c = 0) (sx : chanSx c = false) :
    exec .channelDecode s = .next (setChan s k v { c with arrived := none, parts := [{ tok := x }] }) := by
  change execChannelDecode s = _
  rw [execChannelDecode, atChan_of hf hc ht]
  simp [arrived, idle, data, sreg, sx]

/-- Thirty-two-bit integers become one token of scaled values. -/
theorem channelDecode_int32 (data : x.tt = .data) (fmt : chanFmt c = 0) (sreg : chanSreg c ≠ 0) :
    let f := (s.tile k).sregs.getD (chanSreg c) 0
    exec .channelDecode s = .next (setChan (countTile s k (scaledTally 16 (fun i => (Word.lane x.pay i).toInt) f)) k v
      { c with arrived := none, parts := [{ tok := { x with pay := scaledPay (fun i => (Word.lane x.pay i).toInt) f } }] }) := by
  change execChannelDecode s = _
  rw [execChannelDecode, atChan_of hf hc ht]
  simp [arrived, idle, data, fmt, sreg, chanSx]

/-- The tokens of scaled values that a token of 8-bit integers becomes. -/
def int8Parts (x : Tok) (f : Lane) : List Parcel :=
  (List.range 4).map fun j => { tok := { x with pay := scaledPay (fun i => readInt 8 false (elemAt 8 x.pay (16 * j + i))) f } }

/-- Eight-bit integers become four tokens of scaled values. -/
theorem channelDecode_int8 (data : x.tt = .data) (fmt : chanFmt c = 4) (sreg : chanSreg c ≠ 0) :
    let f := (s.tile k).sregs.getD (chanSreg c) 0
    exec .channelDecode s = .next (setChan (countTile s k (scaledTally 64 (fun i => readInt 8 false (elemAt 8 x.pay i)) f)) k v
      { c with arrived := none, parts := int8Parts x f }) := by
  change execChannelDecode s = _
  rw [execChannelDecode, atChan_of hf hc ht]
  simp [arrived, idle, data, fmt, sreg, chanSx, int8Parts]

/-- The channel's scale register after a token's blocks have taken their scale words. -/
def scaleTaken (s : State) (k : TileKey) (c : Chan) (w : BitVec 16) : State :=
  s.setTile k { s.tile k with sregs := (s.tile k).sregs.put (chanSreg c) (Word.setField ((s.tile k).sregs.getD (chanSreg c) 0) 0 w) }

/-- A packed block keeps its codes and gets its scale words. -/
theorem channelDecode_packed (data : x.tt = .data) (sx : chanSx c = true) (pack : chanPack c = true) :
    let r := takeScales (mxPack (chanFmt c)) (Word.field ((s.tile k).sregs.getD (chanSreg c) 0) 0 16) c.queue
    exec .channelDecode s = .next (setChan (scaleTaken s k c r.2.1) k v { c with arrived := none, queue := r.2.2, parts := [{ tok := x, scales := r.1 }] }) := by
  change execChannelDecode s = _
  rw [execChannelDecode, atChan_of hf hc ht]
  simp [arrived, idle, data, sx, pack, scaleTaken]

/-- A block is decoded with one scale word. -/
theorem channelDecode_block (data : x.tt = .data) (sx : chanSx c = true) (pack : chanPack c = false) :
    let w := c.queue.headD (Word.field ((s.tile k).sregs.getD (chanSreg c) 0) 0 16)
    let vs := sxDecode (sxBits (chanFmt c)) w (sxCodes (sxBits (chanFmt c)) x.pay.toNat)
    exec .channelDecode s = .next (setChan (countTile (scaleTaken s k c w) k (sxDecodeTally w)) k v
      { c with arrived := none, queue := c.queue.tail, parts := [{ tok := { x with pay := Word.ofLanes fun i => vs.getD i 0 } }] }) := by
  change execChannelDecode s = _
  rw [execChannelDecode, atChan_of hf hc ht]
  simp [arrived, idle, data, sx, pack, scaleTaken, takeScales]

end

/-! ### A decoded token, a pending result -/

section
variable {s : State} {k : TileKey}

/-- A decoded token reaches its target when that takes it. -/
theorem chanMove_target {v : Nat} {p : Parcel} {ps : List Parcel} (parts : ((s.tile k).chans.getD v {}).parts = p :: ps)
    (arc : chanArc (s.tile k) v ((s.tile k).chans.getD v {}).dst = none) (free : targetFree (s.tile k) ((s.tile k).chans.getD v {}).dst = true) :
    chanMove s k v = land (setChan s k v { (s.tile k).chans.getD v {} with parts := ps }) k ((s.tile k).chans.getD v {}).dst p := by
  simp only [chanMove, parts, arc, free, if_true]
  rfl

/-- A decoded token reaches its arc of a `join` when that is empty. -/
theorem chanMove_arc {v n a m : Nat} {p : Parcel} {ps : List Parcel} (parts : ((s.tile k).chans.getD v {}).parts = p :: ps)
    (arc : chanArc (s.tile k) v ((s.tile k).chans.getD v {}).dst = some (n, a, m)) (empty : (arcsOf m (s.slot k n).run).getD a none = none) :
    let u := setChan s k v { (s.tile k).chans.getD v {} with parts := ps }
    chanMove s k v = u.setSlot k n { u.slot k n with run := .join ((arcsOf m (s.slot k n).run).set a (some p.tok)) } := by
  simp only [chanMove, parts, arc, empty, Option.isNone_none, if_true]
  rfl

/-- A pending result leaves when its target takes it. -/
theorem slotMove_out {n : Nat} {e : Emit} {es : List Emit} (out : (s.slot k n).out = e :: es) (free : targetFree (s.tile k) e.dst = true) :
    slotMove s k n = deliver (s.setSlot k n { s.slot k n with out := es }) k e.dst e.parcel := by
  simp only [slotMove, out, free, if_true]

end

theorem get?_eq_some_getD {α : Type} {m : Map α} {i : Nat} (h : m.has i = true) (d : α) : m.get? i = some (m.getD i d) := by
  obtain ⟨x, hx⟩ := Option.isSome_iff_exists.mp h
  simp [Map.getD, hx]

theorem mxPack_pos (n : Nat) : mxPack n = mxPack n - 1 + 1 := by
  unfold mxPack
  split
  · rfl
  · split <;> rfl

/-- Settles O44: the lemma of each kind of move and of each decoder, at its agent. -/
theorem routesAndChannels : Obligations.RoutesAndChannels := by
  refine ⟨?next, ?last, ?chan, ?slot, ?decode⟩
  case next =>
    intro s k r h x hf ht rt here next
    exact ⟨_, exec_hop hf ht, hopMove_next here next⟩
  case last =>
    intro s k r h x hf ht rt d v here last
    have moved := hopMove_last here last
    refine ⟨fun empty => ⟨_, exec_hop hf ht, ?_⟩, fun full => ?_⟩
    · rw [moved, routeEnd, if_pos (by rw [empty]; rfl)]
      refine ⟨?_, setChan_chan_self ..⟩
      rw [setChan_routes]
      exact hopOut_hop (lt_length_of_getElem? here)
    · rw [exec_hop hf ht, moved, if_neg]
      rwa [Option.isNone_iff_eq_none]
  case chan =>
    intro s k v p ps hf ht c u parts
    refine ⟨fun arc free => ?_, fun n a m arc empty => ?_⟩
    · rw [exec_chan hf ht, chanMove_target parts arc free]
    · rw [exec_chan hf ht, chanMove_arc parts arc empty]
  case slot =>
    intro s k n e es hf ht out free
    rw [exec_slot hf ht, slotMove_out out free]
  case decode =>
    intro s k v x hf has ht t c f w arrived idle
    have hc : t.chans.get? v = some c := get?_eq_some_getD has _
    refine ⟨channelDecode_other hf hc ht arrived idle, channelDecode_unscaled hf hc ht arrived idle, ?int32, ?int8, ?packed, ?block, ?fills, ?discarded⟩
    case int32 =>
      intro data fmt sreg
      exact ⟨_, channelDecode_int32 hf hc ht arrived idle data fmt sreg, fun i hi => lane_ofLanes _ i hi⟩
    case int8 =>
      intro data fmt sreg
      refine ⟨_, channelDecode_int8 hf hc ht arrived idle data fmt sreg, by simp [int8Parts], fun j p at_j => ?_⟩
      simp only [int8Parts, List.getElem?_map, Option.map_eq_some_iff] at at_j
      obtain ⟨j', hj, rfl⟩ := at_j
      obtain ⟨-, rfl⟩ := List.getElem?_eq_some_iff.mp hj
      exact ⟨_, by rw [List.getElem_range]; rfl, fun i hi => lane_ofLanes _ i hi⟩
    case packed =>
      intro data sx pack
      refine ⟨_, _, channelDecode_packed hf hc ht arrived idle data sx pack, takeScales_length .., ?_, fun i hi => takeScales_get _ _ _ hi, ?_⟩
      · rw [setChan_chan_self, takeScales_queue]
      · rw [setChan_sregs, scaleTaken, State.setTile_tile_self, Map.getD_put_self, extract_setField_zero, mxPack_pos, takeScales_reg]
        rfl
    case block =>
      intro data sx pack
      refine ⟨_, _, channelDecode_block hf hc ht arrived idle data sx pack, setChan_chan_self .., ?_, fun i hi => lane_ofLanes _ i hi⟩
      rw [setChan_sregs, countTile_sregs, scaleTaken, State.setTile_tile_self, Map.getD_put_self, extract_setField_zero]
    case fills => exact scaleToken_fills hf hc ht arrived
    case discarded => exact scaleToken_discarded hf hc ht arrived

end Sys2Proof.Machine
end

section
/-! PROOF. A command from issue to its completion (01 R29, R30; 06 R157 to R161): what its instructions answer in each case, and which command of a station is the first. -/

namespace Sys2Proof.Machine

/-! ### A sequencer's trap (R203, R358) -/

section
variable (s : State) (k : TileKey) (cause : BitVec 8) (detail : BitVec 64)

/-- The sequencer stops with its state kept, and CAUSE holds the cause. -/
@[simp] theorem raiseSeq_seq_self : (raiseSeq s k cause detail).seq k = { s.seq k with stopped := true, cause := cause.setWidth 64 } := by
  have closed (u : State) (l : Nat) : (closeLaunch u l).seq k = u.seq k := rfl
  unfold raiseSeq raiseTrap
  simp only [seqSite, setStopped]
  split <;> simp only [closed, State.setSeq_seq_self] <;> rfl

@[simp] theorem raiseSeq_cmds : (raiseSeq s k cause detail).cmds = s.cmds := by
  unfold raiseSeq raiseTrap
  simp only [seqSite, setStopped]
  split <;> rfl

@[simp] theorem raiseSeq_cmd (i : Nat) : (raiseSeq s k cause detail).cmd i = s.cmd i := by
  simp only [State.cmd, raiseSeq_cmds]

end

/-! ### Issue (R29, R30, R158) -/

section
variable {s : State} {k : TileKey} {c : BitVec 3} (here : SeqAt s k)
include here

/-- A command that passes the sequencer's checks is delivered when its station's queue has room. -/
theorem cissue_delivers (ok : cmdSequencerChecks ((s.seq k).creg c) = true) (room : (waitingAt s (stationOf ((s.seq k).creg c))).length < 16) :
    let q := s.seq k
    let w := q.creg c
    ∃ t, exec (.seqCissue c) s = .next t ∧ t.seq k = { q with issue := q.issue + 1, wait := .verdict (s.nextCmd + 1) }
      ∧ t.cmd (s.nextCmd + 1) = { word := w, station := stationOf w, origin := .seq k q.issue, launch := (s.region q.region).launch
                                  ctx := (s.launch (s.region q.region).launch).ctx, region := q.region, hb := q.hb } := by
  change let q := s.seq k; let w := q.creg c; ∃ t, execSeqCissue c s = .next t ∧ _
  simp only [execSeqCissue, atSeq_of here, ok, if_neg (Nat.not_le.mpr room), Bool.not_true, Bool.false_eq_true, if_false]
  exact ⟨_, rfl, State.setSeq_seq_self .., State.setCmd_cmd_self ..⟩

theorem cissue_waits (ok : cmdSequencerChecks ((s.seq k).creg c) = true) (full : 16 ≤ (waitingAt s (stationOf ((s.seq k).creg c))).length) :
    exec (.seqCissue c) s = .next s := by
  change execSeqCissue c s = _
  simp only [execSeqCissue, atSeq_of here, ok, if_pos full, Bool.not_true, Bool.false_eq_true, if_false]

theorem cissue_bad_completes (bad : cmdSequencerChecks ((s.seq k).creg c) = false) (gv : (decodeHead ((s.seq k).creg c)).gv = true) :
    let q := s.seq k
    let w := q.creg c
    exec (.seqCissue c) s = .next (offerCompletion (s.setSeq k { q with issue := q.issue + 1, pc := q.pc + 4 }) (s.region q.region).launch (.port k) k
      (decodeHead w).gvq.toNat (completionTok w q.issue 4 0 0)) := by
  change execSeqCissue c s = _
  simp only [execSeqCissue, atSeq_of here, bad, gv, Bool.not_false, if_true]
  rfl

theorem cissue_bad_traps (bad : cmdSequencerChecks ((s.seq k).creg c) = false) (gv : (decodeHead ((s.seq k).creg c)).gv = false) :
    let q := s.seq k
    exec (.seqCissue c) s = .next (raiseSeq (s.setSeq k { q with issue := q.issue + 1 }) k causeCmdBad (failDetail q.issue 4)) := by
  change execSeqCissue c s = _
  simp only [execSeqCissue, atSeq_of here, bad, gv, Bool.not_false, if_true, Bool.false_eq_true, if_false]

end

/-! ### The verdict and the TKQ token (R29, R30, R158, R161) -/

section
variable {s : State} {k : TileKey} {id : Nat}
  (hf : s.focus = .seq k) (has : s.seqs.has k = true) (goes : ((s.seq k).stopped || s.regionStops (s.seq k).region) = false)
include hf has goes

theorem tkqTake_takes {n : BitVec 3} {x : Tok} {xs : List Tok} (wait : (s.seq k).wait = .tkq id n) (fifo : (s.seq k).fifo n.toNat = x :: xs) :
    let q := s.seq k
    let c := s.cmd id
    exec .tkqTake s = .next ((s.setSeq k { q.learn s x with pc := q.pc + 4, wait := .none, q := q.q.put n.toNat xs }).setCmd id
      { c with phase := .accepted, hb := hbJoin c.hb x.hb }) := by
  change execTkqTake s = _
  simp only [execTkqTake, hf, has, goes, wait, fifo]
  rfl

variable (wait : (s.seq k).wait = .verdict id) (near : (s.cmd id).away = none)
include wait near

/-- An accepted command may start, or is held until its TKQ token comes. -/
theorem cissueVerdict_accepted (accepted : verdict s id (s.cmd id) = none) :
    let q := s.seq k
    let h := decodeHead (s.cmd id).word
    exec .cissueVerdict s = .next ((arrive s id (if h.tk then .held else .accepted)).setSeq k
      (if h.tk then { q with wait := .tkq id h.tkq } else { q with pc := q.pc + 4, wait := .none })) := by
  change execCissueVerdict s = _
  simp only [execCissueVerdict, hf, has, goes, wait, near, accepted, Option.isSome_none]
  cases (decodeHead (s.cmd id).word).tk <;> rfl

theorem cissueVerdict_refused_completes {st : Nat} (refused : verdict s id (s.cmd id) = some st) (gv : (decodeHead (s.cmd id).word).gv = true) :
    let q := s.seq k
    let c := s.cmd id
    exec .cissueVerdict s = .next (offerCompletion ((s.setCmd id { c with phase := .done, status := st }).setSeq k { q with pc := q.pc + 4, wait := .none })
      c.launch c.station k (decodeHead c.word).gvq.toNat (completionTok c.word (q.issue - 1) st 0 0)) := by
  change execCissueVerdict s = _
  simp only [execCissueVerdict, hf, has, goes, wait, near, refused, gv, Option.isSome_none]
  rfl

theorem cissueVerdict_refused_traps {st : Nat} (refused : verdict s id (s.cmd id) = some st) (gv : (decodeHead (s.cmd id).word).gv = false) :
    let q := s.seq k
    let c := s.cmd id
    exec .cissueVerdict s = .next (raiseSeq ((s.setCmd id { c with phase := .done, status := st }).setSeq k { q with wait := .none }) k
      (if st = 4 then causeCmdBad else causeCmdFail) (failDetail (q.issue - 1) st)) := by
  change execCissueVerdict s = _
  simp only [execCissueVerdict, hf, has, goes, wait, near, refused, gv, Option.isSome_none, beq_iff_eq]
  rfl

end

/-! ### The first command of a station (R157) -/

/-- The choice of the element with the smallest key, the earlier of two that are equal. -/
def foldMin (f : Nat → Nat) (a : Option Nat) (i : Nat) : Option Nat :=
  match a with
  | none => some i
  | some j => if f i < f j then some i else some j

/-- Once the strict minimum is chosen it stays. -/
theorem foldl_foldMin_stays {f : Nat → Nat} {m : Nat} (l : List Nat) (least : ∀ j ∈ l, j ≠ m → f m < f j) : l.foldl (foldMin f) (some m) = some m := by
  induction l with
  | nil => rfl
  | cons i l ih =>
    have rest := ih fun j hj => least j (List.mem_cons_of_mem _ hj)
    have keep : foldMin f (some m) i = some m := by
      by_cases e : i = m
      · simp [foldMin, e]
      · simp [foldMin, (least i List.mem_cons_self e).le]
    rw [List.foldl_cons, keep, rest]

/-- The strict minimum of a list is chosen. -/
theorem foldl_foldMin {f : Nat → Nat} {m : Nat} (l : List Nat) (mem : m ∈ l) (least : ∀ j ∈ l, j ≠ m → f m < f j) (a : Option Nat)
    (start : ∀ j, a = some j → j ≠ m → f m < f j) : l.foldl (foldMin f) a = some m := by
  induction l generalizing a with
  | nil => cases mem
  | cons i l ih =>
    have later : ∀ j ∈ l, j ≠ m → f m < f j := fun j hj => least j (List.mem_cons_of_mem _ hj)
    rw [List.foldl_cons]
    by_cases e : i = m
    · subst e
      have chosen : foldMin f a i = some i := by
        cases a with
        | none => rfl
        | some j =>
          by_cases ej : j = i
          · simp [foldMin, ej]
          · simp [foldMin, start j rfl ej]
      rw [chosen, foldl_foldMin_stays l later]
    · refine ih ((List.mem_cons.mp mem).resolve_left (Ne.symm e)) later _ fun j hj hne => ?_
      cases a with
      | none =>
        obtain rfl : i = j := Option.some.inj hj
        exact least i List.mem_cons_self e
      | some b =>
        simp only [foldMin] at hj
        split at hj
        · obtain rfl : i = j := Option.some.inj hj
          exact least i List.mem_cons_self e
        · obtain rfl : b = j := Option.some.inj hj
          exact start b rfl hne

/-- A command that waits at a station and may not be passed over. -/
def Arrived (s : State) (st : Station) (i : Nat) : Prop := i ∈ waitingAt s st ∧ (s.cmd i).phase ≠ .queued ∧ passedOver s (s.cmd i) = false

theorem firstArrived_eq {s : State} {st : Station} {id : Nat} (here : Arrived s st id)
    (first : ∀ j, Arrived s st j → j ≠ id → (s.cmd id).order < (s.cmd j).order) : firstArrived s st = some id := by
  have mem (j : Nat) : j ∈ (waitingAt s st).filter (fun i => (s.cmd i).phase != .queued && !passedOver s (s.cmd i)) ↔ Arrived s st j := by
    simp [Arrived]
  exact @foldl_foldMin (fun i => (s.cmd i).order) _ _ ((mem id).mpr here) (fun j hj => first j ((mem j).mp hj)) none (fun _ h => nomatch h)

theorem startOk_eq_false {s : State} {c : Cmd}
    (h : c.phase ≠ .accepted ∨ s.cmds.any (fun x => sameStation c x.2 && x.2.phase == .started && fresh x.2) = true) : startOk s c = false := by
  rcases h with h | h
  · simp [startOk, h]
  · simp [startOk, startedAt, h]

@[simp] theorem blockRequest_cmd (s : State) (id stack i : Nat) : (blockRequest s id stack).cmd i = s.cmd i := rfl
@[simp] theorem blockRequest_sends (s : State) (id stack : Nat) : (blockRequest s id stack).sends = s.sends := rfl

section
variable {s : State} {st : Station} {id : Nat} (hf : s.focus = .station st) (due : bindDue s st = none) (first : firstArrived s st = some id)
include hf due first

theorem commandStart_starts (ok : startOk s (s.cmd id) = true) :
    ∃ t, exec .commandStart s = .next t ∧ t.cmd id = { s.cmd id with phase := .started, order := s.sends } ∧ t.sends = s.sends + 1 := by
  change ∃ t, execCommandStart s = .next t ∧ _
  simp only [execCommandStart, hf, due, first, ok, if_true]
  refine ⟨_, rfl, ?_⟩
  split
  · exact ⟨State.setCmd_cmd_self .., rfl⟩
  · exact ⟨State.setCmd_cmd_self .., rfl⟩

theorem commandStart_waits (no : startOk s (s.cmd id) = false) : exec .commandStart s = .next s := by
  change execCommandStart s = _
  simp only [execCommandStart, hf, due, first, no, Bool.false_eq_true, if_false]

end

/-! ### Retirement (R29, R159 to R161) -/

section
variable {s : State} {l : Nat} (there : s.saved.get? l = none)
include there

theorem seqIn_of_not_saved (k : TileKey) : seqIn s l k = s.seq k := by simp [seqIn, there]
theorem setSeqIn_of_not_saved (k : TileKey) (q : Seq) : setSeqIn s l k q = s.setSeq k q := by simp [setSeqIn, there]

/-- The oldest failure is raised at a sequencer that runs. -/
theorem seqFail_raises {k : TileKey} {f : BitVec 32 × BitVec 32} {fs : List (BitVec 32 × BitVec 32)} (fails : (s.seq k).fails = f :: fs)
    (goes : (s.seq k).stopped = false) :
    seqFail s l k = raiseSeq (s.setSeq k { s.seq k with fails := fs }) k causeCmdFail (failDetail f.2 f.1.toNat) := by
  have has : s.saved.has l = false := by simp [Map.has, there]
  have go : (s.saved.has l || (s.seq k).stopped) = false := by rw [has, goes]; rfl
  simp only [seqFail, fails, go, Bool.false_eq_true, if_false]

end

/-- A payload of three words and zeros above them. -/
theorem lane_three (a b c : Nat) :
    let p : Payload := BitVec.ofNat 512 (a % 2 ^ 32 + 2 ^ 32 * (b % 2 ^ 32) + 2 ^ 64 * (c % 2 ^ 32))
    Word.lane p 0 = BitVec.ofNat 32 a ∧ Word.lane p 1 = BitVec.ofNat 32 b ∧ Word.lane p 2 = BitVec.ofNat 32 c ∧ ∀ j, 3 ≤ j → j < 16 → Word.lane p j = 0 := by
  intro p
  have value : p.toNat = a % 2 ^ 32 + 2 ^ 32 * (b % 2 ^ 32) + 2 ^ 64 * (c % 2 ^ 32) := by
    rw [BitVec.toNat_ofNat]; omega
  have lane (i : Nat) : (Word.lane p i).toNat = p.toNat / 2 ^ (32 * i) % 2 ^ 32 := toNat_lane p i
  refine ⟨?_, ?_, ?_, fun j low _ => ?_⟩ <;> apply BitVec.eq_of_toNat_eq <;> rw [lane, value]
  · rw [BitVec.toNat_ofNat]; omega
  · rw [BitVec.toNat_ofNat]; omega
  · rw [BitVec.toNat_ofNat]; omega
  · have big : 2 ^ 96 ≤ 2 ^ (32 * j) := Nat.pow_le_pow_right (by omega) (by omega)
    rw [Nat.div_eq_of_lt (by omega)]
    rfl

/-- The completion token of a command: its RID, its issue number, and its status and details. -/
theorem completionTok_spec (w : Word128) (issue : BitVec 32) (st d1 d2 : Nat) (hb : List Nat) :
    let x := (completionTok w issue st d1 d2).after hb
    x.tt = .control ∧ x.seq = issue.setWidth 8 ∧ (cmdCode w ≤ 5 → x.tag = (cmdRid w).setWidth 16) ∧ Word.lane x.pay 0 = BitVec.ofNat 32 st
      ∧ Word.lane x.pay 1 = BitVec.ofNat 32 d1 ∧ Word.lane x.pay 2 = BitVec.ofNat 32 d2 ∧ ∀ j, 3 ≤ j → j < 16 → Word.lane x.pay j = 0 :=
  ⟨rfl, rfl, fun h => if_pos h, lane_three st d1 d2⟩

/-- A command that neither moves a page nor gathers nor pairs scales has no effect at a unit when it ends. -/
theorem cmdEnd_eq {s : State} {id : Nat} {c : Cmd} (code : cmdCode c.word ∉ [0x02, 0x13, 0x19, 0x1A]) : cmdEnd s id c = (s, 0) := by
  simp only [List.mem_cons, List.not_mem_nil, or_false, not_or] at code
  obtain ⟨h02, h13, h19, h1A⟩ := code
  simp [cmdEnd, h02, h13, h19, h1A]

/-- The state in which a finished command has retired, but for what it says. -/
def cmdDone (s : State) (id : Nat) : State := s.setCmd id { s.cmd id with phase := .done, out := [] }

theorem release_performed {s : State} {id : Nat}
    (releases : (decodeHead (s.cmd id).word).rel = true → released (cmdDone s id) (s.cmd id).hb (decodeHead (s.cmd id).word).scope = true) :
    ((decodeHead (s.cmd id).word).rel && !released (cmdDone s id) (s.cmd id).hb (decodeHead (s.cmd id).word).scope) = false := by
  cases rel : (decodeHead (s.cmd id).word).rel
  · rfl
  · rw [releases rel]; rfl

section
variable {s : State} {id : Nat} {k : TileKey} {issue : BitVec 32} (hf : s.focus = .cmd id) (has : s.cmds.has id = true)
  (started : (s.cmd id).phase = .started) (live : cmdCode (s.cmd id).word = 0x28 → cmdLive s (s.cmd id) = true)
  (finished : cmdFinished s id (s.cmd id) = true) (origin : (s.cmd id).origin = .seq k issue) (code : cmdCode (s.cmd id).word ∉ [0x02, 0x13, 0x19, 0x1A])
include hf has started live finished origin code

/-- What the retirement of a finished command of a sequencer answers. -/
theorem commandRetire_eq : exec .commandRetire s =
    if (decodeHead (s.cmd id).word).rel && !released (cmdDone s id) (s.cmd id).hb (decodeHead (s.cmd id).word).scope then .next s
    else if (decodeHead (s.cmd id).word).gv then .next (offerCompletion (cmdDone s id) (s.cmd id).launch (s.cmd id).station k (decodeHead (s.cmd id).word).gvq.toNat
      ((completionTok (s.cmd id).word issue (cmdStatus (s.cmd id)) (cmdDetails s (s.cmd id)).1 (cmdDetails s (s.cmd id)).2).after (s.cmd id).hb))
    else if cmdStatus (s.cmd id) == 0 || cmdStatus (s.cmd id) == 2 then .next (cmdDone s id)
    else
      let q := seqIn (cmdDone s id) (s.cmd id).launch k
      .next (seqFail (setSeqIn (cmdDone s id) (s.cmd id).launch k { q with fails := q.fails ++ [(BitVec.ofNat 32 (cmdStatus (s.cmd id)), issue)] }) (s.cmd id).launch k) := by
  have ended : cmdEnd (cmdDone s id) id (s.cmd id) = (cmdDone s id, 0) := cmdEnd_eq code
  have going : ((s.cmd id).phase != .started || ((cmdCode (s.cmd id).word == 2 || cmdCode (s.cmd id).word == 0x28) && !cmdLive s (s.cmd id))
      || !cmdFinished s id (s.cmd id)) = false := by
    have h02 : cmdCode (s.cmd id).word ≠ 2 := fun h => code (by simp [h])
    by_cases h28 : cmdCode (s.cmd id).word = 0x28
    · simp [started, finished, live h28]
    · simp [started, finished, h02, h28]
  have h19 : (cmdCode (s.cmd id).word == 0x19) = false := by
    simp only [beq_eq_false_iff_ne]
    exact fun h => code (by simp [h])
  change execCommandRetire s = _
  simp only [execCommandRetire, hf, has, Bool.not_true, Bool.false_eq_true, if_false]
  rw [if_neg (by rw [going]; decide), ← cmdDone, ended]
  simp only [h19, origin, Bool.false_eq_true, if_false]

/-- A command whose release is not yet performed waits. -/
theorem commandRetire_unreleased (rel : (decodeHead (s.cmd id).word).rel = true)
    (unreleased : released (cmdDone s id) (s.cmd id).hb (decodeHead (s.cmd id).word).scope = false) : exec .commandRetire s = .next s := by
  rw [commandRetire_eq hf has started live finished origin code, rel, unreleased]
  rfl

variable (releases : (decodeHead (s.cmd id).word).rel = true → released (cmdDone s id) (s.cmd id).hb (decodeHead (s.cmd id).word).scope = true)
include releases

theorem commandRetire_completes (gv : (decodeHead (s.cmd id).word).gv = true) : exec .commandRetire s =
    .next (offerCompletion (cmdDone s id) (s.cmd id).launch (s.cmd id).station k (decodeHead (s.cmd id).word).gvq.toNat
      ((completionTok (s.cmd id).word issue (cmdStatus (s.cmd id)) (cmdDetails s (s.cmd id)).1 (cmdDetails s (s.cmd id)).2).after (s.cmd id).hb)) := by
  rw [commandRetire_eq hf has started live finished origin code, release_performed releases, gv]
  rfl

theorem commandRetire_silent (gv : (decodeHead (s.cmd id).word).gv = false) (fine : cmdStatus (s.cmd id) = 0 ∨ cmdStatus (s.cmd id) = 2) :
    exec .commandRetire s = .next (cmdDone s id) := by
  rw [commandRetire_eq hf has started live finished origin code, release_performed releases, gv,
    show (cmdStatus (s.cmd id) == 0 || cmdStatus (s.cmd id) == 2) = true by simpa using fine]
  rfl

/-- A failed command without a FIFO for its status traps its sequencer, if that runs and has no older failure to report. -/
theorem commandRetire_fails (gv : (decodeHead (s.cmd id).word).gv = false) (failed : cmdStatus (s.cmd id) ≠ 0) (notSlipped : cmdStatus (s.cmd id) ≠ 2)
    (fails : (s.seq k).fails = []) (goes : (s.seq k).stopped = false) (there : s.saved.get? (s.cmd id).launch = none) :
    ∃ t, exec .commandRetire s = .next t ∧ t.seq k = { s.seq k with stopped := true, cause := 0x26 } ∧ (t.cmd id).phase = .done := by
  have bad : (cmdStatus (s.cmd id) == 0 || cmdStatus (s.cmd id) == 2) = false := by simp [failed, notSlipped]
  have there : (cmdDone s id).saved.get? (s.cmd id).launch = none := there
  let st := BitVec.ofNat 32 (cmdStatus (s.cmd id))
  let noted := (cmdDone s id).setSeq k { s.seq k with fails := [(st, issue)] }
  have raises := @seqFail_raises noted _ there k (st, issue) [] (by rw [State.setSeq_seq_self]) (by rw [State.setSeq_seq_self]; exact goes)
  have answers : exec .commandRetire s = .next (seqFail noted (s.cmd id).launch k) := by
    rw [commandRetire_eq hf has started live finished origin code, release_performed releases, gv, bad]
    simp only [seqIn_of_not_saved there, setSeqIn_of_not_saved there]
    simp only [cmdDone, State.setCmd_seq, fails]
    rfl
  refine ⟨_, answers.trans (congrArg _ raises), ?_, ?_⟩
  · rw [raiseSeq_seq_self, State.setSeq_seq_self, State.setSeq_seq_self, ← fails]
    rfl
  · rw [raiseSeq_cmd, State.setSeq_cmd, State.setSeq_cmd, cmdDone, State.setCmd_cmd_self]

end

/-- Settles O37: issue, the verdict, the start and retirement, each by the equation of its instruction. -/
theorem commandIssueAndRetirement : Obligations.CommandIssueAndRetirement := by
  refine ⟨⟨?issue, ?verdict, ?start⟩, ?retire⟩
  case issue =>
    intro s k c here q w h
    refine ⟨cissue_delivers here, cissue_waits here, cissue_bad_completes here, fun bad gv => ⟨_, cissue_bad_traps here bad gv, ?_, raiseSeq_cmds ..⟩⟩
    rw [raiseSeq_seq_self, State.setSeq_seq_self]
    rfl
  case verdict =>
    intro s k id hf has runs stopped q c h
    have goes : ((s.seq k).stopped || s.regionStops (s.seq k).region) = false := by rw [stopped, runs]; rfl
    refine ⟨fun wait near accepted => ⟨_, cissueVerdict_accepted hf has goes wait near accepted, rfl, fun tk => ?_, fun tk => ?_⟩,
      fun st wait near refused gv => ⟨_, cissueVerdict_refused_traps hf has goes wait near refused gv, ?_, ?_⟩,
      fun st wait near => cissueVerdict_refused_completes hf has goes wait near,
      fun n x xs wait fifo => ⟨_, tkqTake_takes hf has goes wait fifo, State.setSeq_seq_self .., State.setCmd_cmd_self ..⟩⟩
    · rw [State.setSeq_seq_self, State.setSeq_cmd, tk]
      exact ⟨rfl, State.setCmd_cmd_self ..⟩
    · rw [State.setSeq_seq_self, State.setSeq_cmd, tk]
      exact ⟨rfl, State.setCmd_cmd_self ..⟩
    · rw [raiseSeq_seq_self, State.setSeq_seq_self]
      split <;> rfl
    · rw [raiseSeq_cmd, State.setSeq_cmd, State.setCmd_cmd_self]
  case start =>
    intro s st id hf due arrived here first
    have chosen : firstArrived s st = some id := firstArrived_eq here first
    exact ⟨commandStart_starts hf due chosen, commandStart_waits hf due chosen, startOk_eq_false⟩
  case retire =>
    intro s id k issue hf has c h st d e started live finished origin code
    refine ⟨commandRetire_unreleased hf has started live finished origin code, fun releases => ⟨fun gv => ?_, ?_, ?_⟩⟩
    · exact ⟨_, commandRetire_completes hf has started live finished origin code releases gv, completionTok_spec ..⟩
    · exact commandRetire_silent hf has started live finished origin code releases
    · exact commandRetire_fails hf has started live finished origin code releases

end Sys2Proof.Machine
end

section
/-! PROOF. Every step keeps the byte memories canonical (01 R11). Few operations write a memory; each of those writes it by a `Mem` operation that keeps `Mem.wf`, and the others leave it as it is.
So each function of the machine has one lemma: `(f s).memOk = s.memOk` where it writes no memory, and that it keeps `memOk` where it does. The headings are the machine's files, in the model's order. -/

namespace Sys2Proof.Machine

/-! ### The memories of a state -/

/-- A state is canonical when its five memories are. -/
@[simp] theorem memOk_mk (agenda focus fresh uet tiles seqs ports cmds nextCmd held sends regions launches kernels staging saved queues contexts landings bases dieCache links
    dram tags decayed poison scratch ecc shadow ram ramEcc accs nextAcc syncs host far dev) :
    (State.mk agenda focus fresh uet tiles seqs ports cmds nextCmd held sends regions launches kernels staging saved queues contexts landings bases dieCache links
      dram tags decayed poison scratch ecc shadow ram ramEcc accs nextAcc syncs host far dev).memOk
      = (Mem.wf dram && Mem.wf scratch && Mem.wf ram && Mem.wf host && Mem.wf far) := rfl

@[simp] theorem memOk_parts (s : State) : (Mem.wf s.dram && Mem.wf s.scratch && Mem.wf s.ram && Mem.wf s.host && Mem.wf s.far) = s.memOk := rfl

section
variable {s : State} (h : s.memOk = true)
include h

theorem memOk_wf : (((Mem.wf s.dram = true ∧ Mem.wf s.scratch = true) ∧ Mem.wf s.ram = true) ∧ Mem.wf s.host = true) ∧ Mem.wf s.far = true := by
  simpa only [State.memOk, Bool.and_eq_true] using h

@[simp] theorem dram_wf : Mem.wf s.dram = true := (memOk_wf h).1.1.1.1
@[simp] theorem scratch_wf : Mem.wf s.scratch = true := (memOk_wf h).1.1.1.2
@[simp] theorem ram_wf : Mem.wf s.ram = true := (memOk_wf h).1.1.2
@[simp] theorem host_wf : Mem.wf s.host = true := (memOk_wf h).1.2
@[simp] theorem far_wf : Mem.wf s.far = true := (memOk_wf h).2

end

/-- What keeps each memory canonical keeps the state so. -/
theorem memOk_change {s t : State} (h : s.memOk = true)
    (dram : Mem.wf s.dram = true → Mem.wf t.dram = true) (scratch : Mem.wf s.scratch = true → Mem.wf t.scratch = true)
    (ram : Mem.wf s.ram = true → Mem.wf t.ram = true) (host : Mem.wf s.host = true → Mem.wf t.host = true) (far : Mem.wf s.far = true → Mem.wf t.far = true) :
    t.memOk = true := by
  rw [← memOk_parts, dram (dram_wf h), scratch (scratch_wf h), ram (ram_wf h), host (host_wf h), far (far_wf h)]
  rfl

section
variable (s : State)

theorem memOk_cmds (m) : State.memOk { s with cmds := m } = s.memOk := rfl
theorem memOk_saved (m) : State.memOk { s with saved := m } = s.memOk := rfl
theorem memOk_poison (l) : State.memOk { s with poison := l } = s.memOk := rfl

end

theorem dropTiles_wf {m : List Host.Cell} {size : Nat} {gone : Nat → Bool} (h : Mem.wf m = true) : Mem.wf (dropTiles m size gone) = true := Mem.filter_wf _ m h

@[simp] theorem memOk_ite (c : Prop) [Decidable c] (a b : State) : (if c then a else b).memOk = if c then a.memOk else b.memOk := apply_ite ..

/-- Steps that each leave `memOk` leave it in a row. -/
theorem foldl_memOk {α : Type} {f : State → α → State} (h : ∀ s x, (f s x).memOk = s.memOk) (l : List α) (s : State) : (l.foldl f s).memOk = s.memOk := by
  induction l generalizing s with
  | nil => rfl
  | cons x l ih => rw [List.foldl_cons, ih, h]

theorem foldl_fst_memOk {α β : Type} {f : State × β → α → State × β} (h : ∀ x a, (f x a).1.memOk = x.1.memOk) (l : List α) (x : State × β) :
    (l.foldl f x).1.memOk = x.1.memOk := by
  induction l generalizing x with
  | nil => rfl
  | cons a l ih => rw [List.foldl_cons, ih, h]

/-- Steps that each keep the memories canonical keep them so in a row. -/
theorem foldl_memOk' {α : Type} {f : State → α → State} (hf : ∀ s x, s.memOk = true → (f s x).memOk = true) (l : List α) {s : State}
    (h : s.memOk = true) : (l.foldl f s).memOk = true := by
  induction l generalizing s with
  | nil => exact h
  | cons x l ih => exact ih (hf s x h)

theorem getD_memOk {o : Option State} {s : State} (h : s.memOk = true) (ho : ∀ t, o = some t → t.memOk = true) : (o.getD s).memOk = true := by
  cases o with
  | none => exact h
  | some t => exact ho t rfl

theorem orElse_memOk {o p : Option State} (ho : ∀ t, o = some t → t.memOk = true) (hp : ∀ t, p = some t → t.memOk = true) :
    ∀ t, (o.orElse fun _ => p) = some t → t.memOk = true := by
  cases o with
  | none => exact hp
  | some t => exact ho

/-- What an instruction answers is canonical: the next state, if there is one. -/
def outMemOk : Out → Bool
  | .next t => t.memOk
  | _ => true

@[simp] theorem outMemOk_next (t : State) : outMemOk (.next t) = t.memOk := rfl
@[simp] theorem outMemOk_fault (e : Fault) : outMemOk (.fault e) = true := rfl
@[simp] theorem outMemOk_refused (e : Refusal) : outMemOk (.refused e) = true := rfl
@[simp] theorem outMemOk_ite (c : Prop) [Decidable c] (a b : Out) : outMemOk (if c then a else b) = if c then outMemOk a else outMemOk b := apply_ite ..

/-! ### Machine/Ops -/

@[simp] theorem setTile_memOk (s k t) : (State.setTile s k t).memOk = s.memOk := rfl
@[simp] theorem setSlot_memOk (s k n sl) : (State.setSlot s k n sl).memOk = s.memOk := rfl
@[simp] theorem setSeq_memOk (s k q) : (State.setSeq s k q).memOk = s.memOk := rfl
@[simp] theorem setPort_memOk (s k p) : (State.setPort s k p).memOk = s.memOk := rfl
@[simp] theorem setRegion_memOk (s r x) : (State.setRegion s r x).memOk = s.memOk := rfl
@[simp] theorem setCtx_memOk (s c x) : (State.setCtx s c x).memOk = s.memOk := rfl
@[simp] theorem setQueue_memOk (s q x) : (State.setQueue s q x).memOk = s.memOk := rfl
@[simp] theorem setLaunch_memOk (s l x) : (State.setLaunch s l x).memOk = s.memOk := rfl
@[simp] theorem setCmd_memOk (s c x) : (State.setCmd s c x).memOk = s.memOk := rfl
@[simp] theorem setLanding_memOk (s pc x) : (State.setLanding s pc x).memOk = s.memOk := rfl
@[simp] theorem setBase_memOk (s n x) : (State.setBase s n x).memOk = s.memOk := rfl
@[simp] theorem setDev_memOk (s d) : (State.setDev s d).memOk = s.memOk := rfl
@[simp] theorem answer_memOk (s a) : (State.answer s a).memOk = s.memOk := rfl
@[simp] theorem bump_memOk (s) : (State.bump s).memOk = s.memOk := rfl

@[simp] theorem setSeqIn_memOk (s l k q) : (setSeqIn s l k q).memOk = s.memOk := by
  unfold setSeqIn
  split <;> simp

@[simp] theorem setPortIn_memOk (s l k p) : (setPortIn s l k p).memOk = s.memOk := by
  unfold setPortIn
  split <;> simp

@[simp] theorem setTileIn_memOk (s l k t) : (setTileIn s l k t).memOk = s.memOk := by
  unfold setTileIn
  split <;> simp

@[simp] theorem setPortAt_memOk (s c k p) : (setPortAt s c k p).memOk = s.memOk := by
  unfold setPortAt
  split <;> simp

@[simp] theorem setStopped_memOk (s a b) : (setStopped s a b).memOk = s.memOk := by
  unfold setStopped
  split <;> simp

@[simp] theorem closeLaunch_memOk (s l) : (closeLaunch s l).memOk = s.memOk := rfl

@[simp] theorem raiseTrap_memOk (s x cause detail) : (raiseTrap s x cause detail).memOk = s.memOk := by
  unfold raiseTrap
  split <;> simp

@[simp] theorem land_memOk (s k d x) : (land s k d x).memOk = s.memOk := by
  unfold land
  split <;> simp

@[simp] theorem openAcc_memOk (s k d x) : (openAcc s k d x).1.memOk = s.memOk := by
  unfold openAcc
  (repeat' split) <;> simp

@[simp] theorem accDone_memOk (s a) : (accDone s a).memOk = s.memOk := by
  unfold accDone
  split <;> simp

@[simp] theorem foldl_accDone_memOk (s l) : (List.foldl accDone s l).memOk = s.memOk := foldl_memOk accDone_memOk l s

@[simp] theorem accStamped_memOk (s a0) : (accStamped s a0).memOk = s.memOk := by
  unfold accStamped
  split <;> simp

@[simp] theorem deliver_memOk (s k d x) : (deliver s k d x).memOk = s.memOk := by simp [deliver]

@[simp] theorem deliverTok_memOk (s k d t) : (deliverTok s k d t).memOk = s.memOk := by
  unfold deliverTok
  split <;> simp

@[simp] theorem deliverPair_memOk (s k da db a b) : (deliverPair s k da db a b).memOk = s.memOk := by simp [deliverPair]

@[simp] theorem openTok_memOk (s k d a0) : (openTok s k d a0).1.memOk = s.memOk := by
  unfold openTok
  split <;> simp

@[simp] theorem deliver2_memOk (s k da db x) : (deliver2 s k da db x).memOk = s.memOk := by simp [deliver2]

@[simp] theorem sendBoth_memOk (s k n da db a b) : (sendBoth s k n da db a b).memOk = s.memOk := by
  unfold sendBoth
  split <;> simp

@[simp] theorem sendOne_memOk (s k n d x) : (sendOne s k n d x).memOk = s.memOk := by
  unfold sendOne
  split <;> simp

@[simp] theorem countTile_memOk (s k lanes) : (countTile s k lanes).memOk = s.memOk := by simp [countTile]
@[simp] theorem censusAdd_memOk (s r d) : (censusAdd s r d).memOk = s.memOk := by simp [censusAdd]

/-! ### Machine/Completion -/

@[simp] theorem completePacket_memOk {s q ticket c} (h : s.memOk = true) : (completePacket s q ticket c).memOk = true := by
  simp [completePacket, h, Mem.writeN_wf]

/-! ### Machine/Operands -/

@[simp] theorem consumeAt_memOk (s k n f) : (consumeAt s k n f).memOk = s.memOk := rfl

@[simp] theorem atSlot_memOk {s go} (h : s.memOk = true) (go_memOk : ∀ k n sl, outMemOk (go k n sl) = true) :
    outMemOk (atSlot s go) = true := by
  unfold atSlot
  (repeat' split) <;> simp [h, go_memOk]

@[simp] theorem noteMarker_memOk (s k n t) : (noteMarker s k n t).memOk = s.memOk := by
  unfold noteMarker
  split <;> simp

@[simp] theorem forwardBoth_memOk (s k n f t) : (forwardBoth s k n f t).memOk = s.memOk := by simp [forwardBoth]
@[simp] theorem fireTo_memOk (s k n f a b) : (fireTo s k n f a b).memOk = s.memOk := by simp [fireTo]

@[simp] theorem fireSlot_memOk {f s go} (h : s.memOk = true) (go_memOk : ∀ k n o, outMemOk (go k n o) = true) :
    outMemOk (fireSlot f s go) = true := by
  refine atSlot_memOk h fun k n sl => ?_
  split <;> simp [h, go_memOk]

@[simp] theorem fireCalc_memOk {f compute s} (h : s.memOk = true) : outMemOk (fireCalc f compute s) = true := fireSlot_memOk h fun k n o => by simp [h]

/-! ### Machine/Order -/

@[simp] theorem syncPut_memOk (s keys past) : (syncPut s keys past).memOk = s.memOk := by simp [syncPut]
@[simp] theorem syncEvent_memOk (s r) : (syncEvent s r).memOk = s.memOk := by simp [syncEvent]

/-! ### Machine/Images -/

@[simp] theorem loadTiles_memOk (s r b) : (loadTiles s r b).memOk = s.memOk := rfl

/-! ### Machine/Sweep -/

@[simp] theorem weirPut_memOk (s pc w) : (weirPut s pc w).memOk = s.memOk := rfl

/-! ### Machine/FlowNodes -/

@[simp] theorem fireMove_memOk {f s a b} (h : s.memOk = true) : outMemOk (fireMove f s a b) = true := fireSlot_memOk h fun k n o => by simp [h]
@[simp] theorem steerTo_memOk {f inv contTok s} (h : s.memOk = true) : outMemOk (steerTo f inv contTok s) = true := fireSlot_memOk h fun k n o => by simp [h]
theorem execLoop_memOk {w inv s} (h : s.memOk = true) : outMemOk (execLoop w inv s) = true := steerTo_memOk h

theorem execGate_memOk {w s} (h : s.memOk = true) : outMemOk (execGate w s) = true := by
  simp only [execGate]
  refine atSlot_memOk h fun k n sl => ?_
  split <;> simp [h]

@[simp] theorem withCensus_memOk {s k n d go} (h : s.memOk = true) : outMemOk (withCensus s k n d go) = true ↔
    (censusTrap (s.region (s.regionOf k)).census d = none → outMemOk (go (censusAdd s (s.regionOf k) d)) = true) := by
  simp only [withCensus]
  split <;> simp_all

@[simp] theorem fireCounted_memOk {f d s a b} (h : s.memOk = true) : outMemOk (fireCounted f d s a b) = true :=
  atSlot_memOk h fun k n sl => by split <;> simp [h]

theorem execSink_memOk {w s} (h : s.memOk = true) : outMemOk (execSink w s) = true := by
  simp only [execSink]
  refine atSlot_memOk h fun k n sl => ?_
  split <;> simp [h]

theorem execMerge_memOk {w alt s} (h : s.memOk = true) : outMemOk (execMerge w alt s) = true := by
  simp only [execMerge]
  refine atSlot_memOk h fun k n sl => ?_
  simp
  (repeat' split) <;> simp [h]

theorem execConst_memOk {w imm s} (h : s.memOk = true) : outMemOk (execConst w imm s) = true := fireCalc_memOk h

theorem execSeqgen_memOk {w fin s} (h : s.memOk = true) : outMemOk (execSeqgen w fin s) = true := by
  simp only [execSeqgen]
  refine atSlot_memOk h fun k n sl => ?_
  simp
  (repeat' split) <;> simp [h]

theorem execSeqgenToken_memOk {s} (h : s.memOk = true) : outMemOk (execSeqgenToken s) = true := atSlot_memOk h fun k n sl => by split <;> simp [h]
@[simp] theorem spawnAsk_memOk (s k n stands) : (spawnAsk s k n stands).memOk = s.memOk := rfl

theorem execSpawn_memOk {w s} (h : s.memOk = true) : outMemOk (execSpawn w s) = true := by
  simp only [execSpawn]
  refine atSlot_memOk h fun k n sl => ?_
  simp
  (repeat' split) <;> simp [h]

theorem execRetire_memOk {w free s} (h : s.memOk = true) : outMemOk (execRetire w free s) = true := by
  simp only [execRetire]
  refine atSlot_memOk h fun k n sl => ?_
  split <;> simp [h]

theorem execWidFld_memOk {w fld s} (h : s.memOk = true) : outMemOk (execWidFld w fld s) = true := by
  simp only [execWidFld]
  refine fireSlot_memOk h fun k n o => ?_
  simp [h]

theorem execWidLvl_memOk {w lvl s} (h : s.memOk = true) : outMemOk (execWidLvl w lvl s) = true := by
  simp only [execWidLvl]
  refine fireSlot_memOk h fun k n o => ?_
  simp [h]

@[simp] theorem ctlTake_memOk {f nch s} (h : s.memOk = true) : outMemOk (ctlTake f nch s) = true := atSlot_memOk h fun k n sl => by split <;> simp [h]
theorem execCtlPermit_memOk {s} (h : s.memOk = true) : outMemOk (execCtlPermit s) = true := atSlot_memOk h fun k n sl => by (repeat' split) <;> simp [h]

@[simp] theorem ctlDoneIn_memOk {s k n sl c l} (h : s.memOk = true) : outMemOk (ctlDoneIn s k n sl c l) = true := by
  unfold ctlDoneIn
  (repeat' split) <;> simp [h]

theorem execCtlDone_memOk {s} (h : s.memOk = true) : outMemOk (execCtlDone s) = true := by
  refine atSlot_memOk h fun k n sl => ?_
  simp
  (repeat' split) <;> simp [h]

theorem execJoin_memOk {w one vbase rbase nm1 s} (h : s.memOk = true) : outMemOk (execJoin w one vbase rbase nm1 s) = true :=
  atSlot_memOk h fun k n sl => by simp [h]

theorem execFenceSc_memOk {w scope s} (h : s.memOk = true) : outMemOk (execFenceSc w scope s) = true := by
  simp only [execFenceSc]
  refine fireSlot_memOk h fun k n o => ?_
  simp [h]

theorem execSluiceLocSnd_memOk {w scope pair dm1 s} (h : s.memOk = true) : outMemOk (execSluiceLocSnd w scope pair dm1 s) = true := by
  simp only [execSluiceLocSnd]
  refine atSlot_memOk h fun k n sl => ?_
  split <;> simp [h]

theorem execSluiceXrSnd_memOk {w scope pair dm1 s} (h : s.memOk = true) : outMemOk (execSluiceXrSnd w scope pair dm1 s) = true := by
  simp only [execSluiceXrSnd]
  refine atSlot_memOk h fun k n sl => ?_
  split <;> simp [h]

theorem execSluiceXrRcv_memOk {w scope pair dm1 s} (h : s.memOk = true) : outMemOk (execSluiceXrRcv w scope pair dm1 s) = true := by
  simp only [execSluiceXrRcv]
  refine atSlot_memOk h fun k n sl => ?_
  split <;> simp [h]

/-! ### Machine/Threads -/

@[simp] theorem spillPut_memOk (s r off vals) : (spillPut s r off vals).memOk = s.memOk := rfl

theorem spillMove_memOk {s r t} (h : s.memOk = true) (e : spillMove s r = some t) : t.memOk = true := by
  simp only [spillMove] at e
  (repeat' split at e) <;> simp at e <;> simp [← e, h]

@[simp] theorem carveWrite_memOk {s r a bs} (h : s.memOk = true) : (carveWrite s r a bs).memOk = true := by
  simp [carveWrite, h, Mem.writeN_wf]

@[simp] theorem linkEntry_memOk {s r prev p} (h : s.memOk = true) : (linkEntry s r prev p).memOk = true := by
  unfold linkEntry
  (repeat' split) <;> simp [h]

@[simp] theorem relinkEntry_memOk {s r prev next} (h : s.memOk = true) : (relinkEntry s r prev next).memOk = true := by
  unfold relinkEntry
  (repeat' split) <;> simp [h]

@[simp] theorem carvePut_memOk {s r prev p} (h : s.memOk = true) : (carvePut s r prev p).memOk = true := by simp [carvePut, h]
@[simp] theorem overflowPut_memOk {s r prev p} (h : s.memOk = true) : (overflowPut s r prev p).memOk = true := by simp [overflowPut, h]
@[simp] theorem overflowFree_memOk (s c off) : (overflowFree s c off).memOk = s.memOk := rfl

@[simp] theorem foldl_overflowFree_memOk (s c l) : (List.foldl (fun z o => overflowFree z c o) s l).memOk = s.memOk :=
  foldl_memOk (fun _ _ => overflowFree_memOk ..) l s

@[simp] theorem parkAt_memOk (s r p) : (parkAt s r p).memOk = s.memOk := rfl

@[simp] theorem entryAccept_memOk {s r p} (h : s.memOk = true) : (entryAccept s r p).memOk = true := by
  unfold entryAccept
  split <;> simp [h]

theorem execJump_memOk {w block entry s} (h : s.memOk = true) : outMemOk (execJump w block entry s) = true := by
  simp only [execJump]
  refine atSlot_memOk h fun k n sl => ?_
  simp
  (repeat' split) <;> simp [h]

@[simp] theorem entryPut_memOk (s r pt t gone) : (entryPut s r pt t gone).memOk = s.memOk := by
  simp only [entryPut]
  (repeat' split) <;> simp

theorem execJumpDelivery_memOk {s} (h : s.memOk = true) : outMemOk (execJumpDelivery s) = true := by
  unfold execJumpDelivery
  (repeat' split) <;> simp [h]

@[simp] theorem overflowAsk_memOk (s r b p) : (overflowAsk s r b p).memOk = s.memOk := by
  simp only [overflowAsk]
  (repeat' split) <;> simp

theorem execEntryDelivery_memOk {s} (h : s.memOk = true) : outMemOk (execEntryDelivery s) = true := by
  simp only [execEntryDelivery]
  split
  · split
    · simp
    split
    · simp [spillMove_memOk h ‹_›]
    · (repeat' split) <;> simp [h]
  · simp

theorem execPhaseEnd_memOk {s} (h : s.memOk = true) : outMemOk (execPhaseEnd s) = true := by
  unfold execPhaseEnd
  split <;> simp [h]

@[simp] theorem injectSeeds_memOk (s r ds) : (injectSeeds s r ds).memOk = s.memOk := by
  induction ds generalizing s with
  | nil => rfl
  | cons d ds ih =>
    simp only [injectSeeds]
    (repeat' split) <;> simp [ih]

@[simp] theorem startSeq_memOk (s r) : (startSeq s r).memOk = s.memOk := by
  unfold startSeq
  split <;> simp

@[simp] theorem unofferFabric_memOk (s r) : (unofferFabric s r).memOk = s.memOk := rfl

theorem execConfigurationComplete_memOk {s} (h : s.memOk = true) : outMemOk (execConfigurationComplete s) = true := by
  simp only [execConfigurationComplete]
  (repeat' split) <;> simp [h]

/-! ### Machine/SpNodes -/

@[simp] theorem spStore_memOk {s k a v} (h : s.memOk = true) : (spStore s k a v).memOk = true := by
  simp [spStore, h, Mem.store_wf]

@[simp] theorem shadowSet_memOk (s k t ws) : (shadowSet s k t ws).memOk = s.memOk := by simp [shadowSet]
@[simp] theorem syncIf_memOk (c s k) : (syncIf c s k).memOk = s.memOk := by simp [syncIf]
@[simp] theorem eccClear_memOk (s k ws) : (eccClear s k ws).memOk = s.memOk := by simp [eccClear]
@[simp] theorem leaveLines_memOk (s k n) : (leaveLines s k n).memOk = s.memOk := rfl

theorem execSpld_memOk {w ord blk scope s} (h : s.memOk = true) : outMemOk (execSpld w ord blk scope s) = true := by
  simp only [execSpld]
  refine fireSlot_memOk h fun k n o => ?_
  simp [h]
  (repeat' split) <;> simp [h]

@[simp] theorem storeWords_memOk {s k r ws} (h : s.memOk = true) : (storeWords s k r ws).memOk = true := foldl_memOk' (fun _ _ hs => spStore_memOk hs) ws h

theorem execSpst_memOk {w ord blk scope s} (h : s.memOk = true) : outMemOk (execSpst w ord blk scope s) = true := by
  simp only [execSpst]
  refine fireSlot_memOk h fun k n o => ?_
  simp [h]
  (repeat' split) <;> simp [h]

@[simp] theorem fireLater_memOk {f s ok go} (h : s.memOk = true) (go_memOk : ∀ k n o, outMemOk (go k n o) = true) :
    outMemOk (fireLater f s ok go) = true := by
  refine atSlot_memOk h fun k n sl => ?_
  split <;> simp [h, go_memOk]

theorem execSpatom_memOk {w ord scope atop s} (h : s.memOk = true) : outMemOk (execSpatom w ord scope atop s) = true := by
  simp only [execSpatom]
  refine fireLater_memOk h fun k n o => ?_
  split <;> simp [h]

@[simp] theorem ownSync_memOk (s k u) : (ownSync s k u).memOk = s.memOk := by simp [ownSync]
@[simp] theorem ownReply_memOk (s k u old) : (ownReply s k u old).memOk = s.memOk := by simp [ownReply]
@[simp] theorem ownBad_memOk (s k u a) : (ownBad s k u a).memOk = s.memOk := by simp [ownBad]

@[simp] theorem ownApply_memOk {s k u} (h : s.memOk = true) : (ownApply s k u).memOk = true := by
  unfold ownApply
  split <;> simp [h]

@[simp] theorem atTile_memOk {s kind go} (h : s.memOk = true) (go_memOk : ∀ k t, outMemOk (go k t) = true) :
    outMemOk (atTile s kind go) = true := by
  unfold atTile
  (repeat' split) <;> simp [h, go_memOk]

theorem execOwnerApply_memOk {s} (h : s.memOk = true) : outMemOk (execOwnerApply s) = true := atTile_memOk h fun k t => by split <;> simp [h]

theorem execTempoCommit_memOk {s} (h : s.memOk = true) : outMemOk (execTempoCommit s) = true := by
  refine atTile_memOk h fun k t => ?_
  split
  · exact foldl_memOk' (fun _ _ hs => ownApply_memOk hs) _ (by simp [h])
  · simp [h]

@[simp] theorem portTake_memOk (s k p) : (portTake s k p).memOk = s.memOk := rfl
@[simp] theorem portDrain_memOk (s k p t) : (portDrain s k p t).memOk = s.memOk := by simp [portDrain]

theorem execSpOwnUpdate_memOk {s} (h : s.memOk = true) : outMemOk (execSpOwnUpdate s) = true := by
  refine atTile_memOk h fun k t => ?_
  simp
  (repeat' split) <;> simp [h]

theorem execSpown_memOk {w s} (h : s.memOk = true) : outMemOk (execSpown w s) = true := by
  refine atSlot_memOk h fun k n _ => ?_
  simp
  (repeat' split) <;> simp [h]

theorem execSpQRequest_memOk {s} (h : s.memOk = true) : outMemOk (execSpQRequest s) = true := by
  refine atTile_memOk h fun k t => ?_
  simp
  (repeat' split) <;> simp [h]

@[simp] theorem settleLines_memOk (s) : (settleLines s).memOk = s.memOk := rfl

/-! ### Machine/Blocks -/

@[simp] theorem mapSet_memOk (s c v f) : (mapSet s c v f).memOk = s.memOk := rfl

@[simp] theorem atEngine_memOk {s go} (go_memOk : ∀ n i b, outMemOk (go n i b) = true) : outMemOk (atEngine s go) = true := by
  unfold atEngine
  (repeat' split) <;> simp [go_memOk]

@[simp] theorem slotResult_memOk (s l k slot t r) : (slotResult s l k slot t r).memOk = s.memOk := by
  simp only [slotResult]
  (repeat' split) <;> simp

@[simp] theorem setEngine_memOk {s n b} (h : s.memOk = true) : (setEngine s n b).memOk = true := by
  simp only [setEngine]
  split
  · simp [h]
  · exact memOk_change h (Mem.foldl_wf _ (fun m _ hm => Mem.foldl_wf _ (fun _ _ hm => Mem.writeN_wf _ _ _ hm) _ m hm) _ _) id id id id

@[simp] theorem beginRestore_memOk (s n sq) : (beginRestore s n sq).memOk = s.memOk := by simp [beginRestore]
@[simp] theorem endRestore_memOk (s n sq) : (endRestore s n sq).memOk = s.memOk := rfl

theorem execBlockEngineServe_memOk {s} (h : s.memOk = true) : outMemOk (execBlockEngineServe s) = true := by
  refine atEngine_memOk fun n i b => ?_
  simp [h]
  (repeat' split) <;> simp [h]

theorem execTableRestore_memOk {s} (h : s.memOk = true) : outMemOk (execTableRestore s) = true := by
  refine atEngine_memOk fun n sq b => ?_
  simp [h]
  split <;> simp [h]

/-! ### Machine/PortNodes -/

theorem execXlat_memOk {w acc s} (h : s.memOk = true) : outMemOk (execXlat w acc s) = true := by
  simp only [execXlat]
  refine fireLater_memOk h fun k n o => ?_
  simp [h]

@[simp] theorem fillPage_memOk (s k c v) : (fillPage s k c v).memOk = s.memOk := by
  unfold fillPage
  split <;> simp

theorem execTranslationFill_memOk {s} (h : s.memOk = true) : outMemOk (execTranslationFill s) = true := by
  simp only [execTranslationFill]
  (repeat' split) <;> simp [h]
  rw [foldl_memOk fun _ _ => by simp, h]

@[simp] theorem unmapPages_memOk (s c v n) : (unmapPages s c v n).memOk = s.memOk := rfl

@[simp] theorem settleUnmaps_memOk {s} (h : s.memOk = true) : (settleUnmaps s).memOk = true := by
  simp only [settleUnmaps]
  exact foldl_memOk' (fun _ _ hs => by simp [hs]) _ (by simp [h])

theorem execInvalidationComplete_memOk {s} (h : s.memOk = true) : outMemOk (execInvalidationComplete s) = true := by
  unfold execInvalidationComplete
  split <;> simp [h]

theorem execGaddr_memOk {w s} (h : s.memOk = true) : outMemOk (execGaddr w s) = true := by
  simp only [execGaddr]
  refine atSlot_memOk h fun k n sl => ?_
  split <;> simp [h]

theorem execResume_memOk {w s} (h : s.memOk = true) : outMemOk (execResume w s) = true := by
  simp only [execResume]
  refine fireSlot_memOk h fun k n o => ?_
  simp [h]

@[simp] theorem sendBlockMarks_memOk (s k n r) : (sendBlockMarks s k n r).memOk = s.memOk := foldl_memOk (fun _ _ => by simp) _ _

@[simp] theorem fireBlock_memOk {f s} (h : s.memOk = true) : outMemOk (fireBlock f s) = true := by
  refine atSlot_memOk h fun k n sl => ?_
  simp
  split <;> simp [h]

/-! ### Machine/Matrix -/

@[simp] theorem fireMop_memOk {f mop s} (h : s.memOk = true) : outMemOk (fireMop f mop s) = true := by simp [fireMop, h]
theorem execRowtag_memOk {w imm s} (h : s.memOk = true) : outMemOk (execRowtag w imm s) = true := by simp [execRowtag, h]

theorem execRprog_memOk {w s} (h : s.memOk = true) : outMemOk (execRprog w s) = true := by
  simp only [execRprog]
  refine fireSlot_memOk h fun k n o => ?_
  simp [h]

@[simp] theorem setMx_memOk (s k u) : (setMx s k u).memOk = s.memOk := rfl
@[simp] theorem mxBeginDrain_memOk (s k c past) : (mxBeginDrain s k c past).memOk = s.memOk := rfl

@[simp] theorem mxLine_memOk {s k r} (h : s.memOk = true) : outMemOk (mxLine s k r) = true := by
  simp only [mxLine]
  (repeat' split) <;> simp [h]

theorem mxArrival_memOk {s k t r u} (h : s.memOk = true) (e : mxArrival s k t r = some u) : u.memOk = true := by
  obtain ⟨p, -, e⟩ := Option.bind_eq_some_iff.mp e
  dsimp only at e
  (repeat' split at e) <;> simp at e <;> simp [← e, h]

@[simp] theorem mxTake_memOk {s k mop x} (h : s.memOk = true) : outMemOk (mxTake s k mop x) = true := by simp [mxTake, h]

theorem mxResume_memOk {s k t u} (h : s.memOk = true) (e : mxResume s k t = some u) : u.memOk = true := by
  obtain ⟨p, -, e⟩ := List.exists_of_findSome?_eq_some e
  obtain ⟨x, -, e⟩ := Option.bind_eq_some_iff.mp e
  split at e <;> simp at e
  simp [← e, h]

@[simp] theorem mxStep_memOk {mop s} (h : s.memOk = true) : outMemOk (mxStep mop s) = true := by
  refine atTile_memOk h fun k t => ?_
  split
  · simp [h]
  split
  · simp [mxResume_memOk h ‹_›]
  split
  · split
    · simp [mxArrival_memOk h ‹_›]
    · simp [h]
  · split <;> simp [h]

theorem execMxMarker_memOk {s} (h : s.memOk = true) : outMemOk (execMxMarker s) = true := by
  refine atTile_memOk h fun k t => ?_
  have arrival : ((t.mx.run.bind (mxArrival s k t)).getD s).memOk = true := by
    refine getD_memOk h fun u e => ?_
    obtain ⟨r, -, e⟩ := Option.bind_eq_some_iff.mp e
    exact mxArrival_memOk h e
  split
  · have e := ‹_ = some _›
    split at e
    · cases e
    · simp [mxResume_memOk h e]
  · simp [h]
  · simp [h, arrival]
    split <;> simp [h]

/-! ### Machine/Projection -/

@[simp] theorem setPj_memOk (s k u) : (setPj s k u).memOk = s.memOk := rfl
@[simp] theorem pjOther_memOk {s k port x} (h : s.memOk = true) : outMemOk (pjOther s k port x) = true := by simp [pjOther, h]

theorem execPjInToken_memOk {s} (h : s.memOk = true) : outMemOk (execPjInToken s) = true := by
  refine atTile_memOk h fun k t => ?_
  simp
  (repeat' split) <;> simp [h]

theorem execPjAdjToken_memOk {s} (h : s.memOk = true) : outMemOk (execPjAdjToken s) = true := by
  refine atTile_memOk h fun k t => ?_
  simp
  (repeat' split) <;> simp [h]

@[simp] theorem pjParams_memOk (s k) : (pjParams s k).memOk = s.memOk := by
  unfold pjParams
  split <;> simp

@[simp] theorem pjNext_memOk {s row go} (h : s.memOk = true) (go_memOk : ∀ u k t p, u.memOk = true → outMemOk (go u k t p) = true) :
    outMemOk (pjNext s row go) = true := by
  refine atTile_memOk h fun k t => ?_
  (repeat' split) <;> simp [h, go_memOk]

theorem execPjProject_memOk {s} (h : s.memOk = true) : outMemOk (execPjProject s) = true := pjNext_memOk h fun s1 k t p ht => by simp [ht]
theorem execPjAdjoint_memOk {s} (h : s.memOk = true) : outMemOk (execPjAdjoint s) = true := pjNext_memOk h fun s1 k t p ht => by simp [ht]

theorem pjMark_memOk {s k port u} (h : s.memOk = true) (e : pjMark s k port = some u) : u.memOk = true := by
  simp only [pjMark] at e
  (repeat' split at e) <;> simp at e
  simp [← e, h]

theorem execPjMarker_memOk {s} (h : s.memOk = true) : outMemOk (execPjMarker s) = true := by
  refine atTile_memOk h fun k t => ?_
  have two : ∀ u, ((pjMark s k 0x10).orElse fun _ => pjMark s k 0x12) = some u → u.memOk = true :=
    orElse_memOk (fun _ => pjMark_memOk h) (fun _ => pjMark_memOk h)
  split
  · simp [h]
  split
  · split
    · simp [h]
    · exact getD_memOk h (orElse_memOk (fun _ => pjMark_memOk h) two)
  · exact getD_memOk h two

@[simp] theorem firePort_memOk {f s fwd go} (h : s.memOk = true) : outMemOk (firePort f s fwd go) = true := atSlot_memOk h fun k n sl => by split <;> simp [h]
theorem execPj_memOk {w psel s} (h : s.memOk = true) : outMemOk (execPj w psel s) = true := firePort_memOk h
theorem execPjp_memOk {w s} (h : s.memOk = true) : outMemOk (execPjp w s) = true := firePort_memOk h
theorem execPja_memOk {w s} (h : s.memOk = true) : outMemOk (execPja w s) = true := firePort_memOk h

theorem execPjs_memOk {w aux s} (h : s.memOk = true) : outMemOk (execPjs w aux s) = true := by
  simp only [execPjs]
  refine fireSlot_memOk h fun k n o => ?_
  simp [h]

/-! ### Machine/Routes -/

@[simp] theorem hopMove_memOk (s k r h0) : (hopMove s k r h0).memOk = s.memOk := by
  simp only [hopMove]
  (repeat' split) <;> simp

@[simp] theorem chanMove_memOk (s k v) : (chanMove s k v).memOk = s.memOk := by
  simp only [chanMove]
  (repeat' split) <;> simp

@[simp] theorem slotMove_memOk (s k n) : (slotMove s k n).memOk = s.memOk := by
  simp only [slotMove]
  (repeat' split) <;> simp

@[simp] theorem copyMove_memOk (s k) : (copyMove s k).memOk = s.memOk := by
  simp only [copyMove]
  (repeat' split) <;> simp

@[simp] theorem mxMove_memOk (s k) : (mxMove s k).memOk = s.memOk := by
  simp only [mxMove]
  (repeat' split) <;> simp

@[simp] theorem pjMove_memOk (s k) : (pjMove s k).memOk = s.memOk := by
  simp only [pjMove]
  (repeat' split) <;> simp

@[simp] theorem rideMove_memOk (s id) : (rideMove s id).memOk = s.memOk := by
  simp only [rideMove]
  (repeat' split) <;> simp

@[simp] theorem sluiceMove_memOk (s r pair) : (sluiceMove s r pair).memOk = s.memOk := by
  unfold sluiceMove
  split <;> simp

theorem execTokenDeliver_memOk {s} (h : s.memOk = true) : outMemOk (execTokenDeliver s) = true := by
  unfold execTokenDeliver
  (repeat' split) <;> simp [h]

@[simp] theorem atChan_memOk {s go} (h : s.memOk = true) (go_memOk : ∀ k v t c, outMemOk (go k v t c) = true) :
    outMemOk (atChan s go) = true := by
  unfold atChan
  (repeat' split) <;> simp [h, go_memOk]

@[simp] theorem setChan_memOk (s k v c) : (setChan s k v c).memOk = s.memOk := rfl
theorem execChannelDecode_memOk {s} (h : s.memOk = true) : outMemOk (execChannelDecode s) = true := atChan_memOk h fun k v t c => by split <;> simp [h]
theorem execScaleToken_memOk {s} (h : s.memOk = true) : outMemOk (execScaleToken s) = true := atChan_memOk h fun k v _ c => by split <;> simp [h]

/-! ### Machine/Sequencer -/

@[simp] theorem raiseSeq_memOk (s k cause detail) : (raiseSeq s k cause detail).memOk = s.memOk := by simp [raiseSeq]

@[simp] theorem ramRead_memOk {s k a n go} (h : s.memOk = true) (go_memOk : outMemOk go = true) : outMemOk (ramRead s k a n go) = true := by
  unfold ramRead
  split <;> simp [h, go_memOk]

@[simp] theorem atSeq_memOk {s go} (h : s.memOk = true) (go_memOk : ∀ k q, outMemOk (go k q) = true) : outMemOk (atSeq s go) = true := by
  unfold atSeq
  (repeat' split) <;> simp [h, go_memOk]

@[simp] theorem seqAlu_memOk {s f} (h : s.memOk = true) : outMemOk (seqAlu s f) = true := atSeq_memOk h fun k q => by simp [h]
@[simp] theorem rWord_memOk {s d a b f} (h : s.memOk = true) : outMemOk (rWord s d a b f) = true := seqAlu_memOk h
theorem execSeqAdd_memOk {d a b s} (h : s.memOk = true) : outMemOk (execSeqAdd d a b s) = true := rWord_memOk h
theorem execSeqSub_memOk {d a b s} (h : s.memOk = true) : outMemOk (execSeqSub d a b s) = true := rWord_memOk h
theorem execSeqAnd_memOk {d a b s} (h : s.memOk = true) : outMemOk (execSeqAnd d a b s) = true := rWord_memOk h
theorem execSeqOr_memOk {d a b s} (h : s.memOk = true) : outMemOk (execSeqOr d a b s) = true := rWord_memOk h
theorem execSeqXor_memOk {d a b s} (h : s.memOk = true) : outMemOk (execSeqXor d a b s) = true := rWord_memOk h
theorem execSeqShl_memOk {d a b s} (h : s.memOk = true) : outMemOk (execSeqShl d a b s) = true := rWord_memOk h
theorem execSeqShr_memOk {d a b s} (h : s.memOk = true) : outMemOk (execSeqShr d a b s) = true := rWord_memOk h
theorem execSeqSra_memOk {d a b s} (h : s.memOk = true) : outMemOk (execSeqSra d a b s) = true := rWord_memOk h
theorem execSeqMul_memOk {d a b s} (h : s.memOk = true) : outMemOk (execSeqMul d a b s) = true := rWord_memOk h
theorem execSeqMulh_memOk {d a b s} (h : s.memOk = true) : outMemOk (execSeqMulh d a b s) = true := rWord_memOk h
theorem execSeqSlt_memOk {d a b s} (h : s.memOk = true) : outMemOk (execSeqSlt d a b s) = true := rWord_memOk h
theorem execSeqSltu_memOk {d a b s} (h : s.memOk = true) : outMemOk (execSeqSltu d a b s) = true := rWord_memOk h
theorem execSeqMin_memOk {d a b s} (h : s.memOk = true) : outMemOk (execSeqMin d a b s) = true := rWord_memOk h
theorem execSeqMax_memOk {d a b s} (h : s.memOk = true) : outMemOk (execSeqMax d a b s) = true := rWord_memOk h
theorem execSeqDiv_memOk {d a b s} (h : s.memOk = true) : outMemOk (execSeqDiv d a b s) = true := rWord_memOk h
theorem execSeqRem_memOk {d a b s} (h : s.memOk = true) : outMemOk (execSeqRem d a b s) = true := rWord_memOk h
@[simp] theorem iWord_memOk {s d a f} (h : s.memOk = true) : outMemOk (iWord s d a f) = true := seqAlu_memOk h
theorem execSeqAddi_memOk {d a imm s} (h : s.memOk = true) : outMemOk (execSeqAddi d a imm s) = true := iWord_memOk h
theorem execSeqAndi_memOk {d a imm s} (h : s.memOk = true) : outMemOk (execSeqAndi d a imm s) = true := iWord_memOk h
theorem execSeqOri_memOk {d a imm s} (h : s.memOk = true) : outMemOk (execSeqOri d a imm s) = true := iWord_memOk h
theorem execSeqXori_memOk {d a imm s} (h : s.memOk = true) : outMemOk (execSeqXori d a imm s) = true := iWord_memOk h
theorem execSeqShli_memOk {d a sh s} (h : s.memOk = true) : outMemOk (execSeqShli d a sh s) = true := iWord_memOk h
theorem execSeqShri_memOk {d a sh s} (h : s.memOk = true) : outMemOk (execSeqShri d a sh s) = true := iWord_memOk h
theorem execSeqSrai_memOk {d a sh s} (h : s.memOk = true) : outMemOk (execSeqSrai d a sh s) = true := iWord_memOk h
theorem execSeqSlti_memOk {d a imm s} (h : s.memOk = true) : outMemOk (execSeqSlti d a imm s) = true := iWord_memOk h
theorem execSeqInsh_memOk {d imm s} (h : s.memOk = true) : outMemOk (execSeqInsh d imm s) = true := iWord_memOk h

@[simp] theorem seqMem_memOk {s a imm n go} (h : s.memOk = true) (go_memOk : ∀ k q x, outMemOk (go k q x) = true) :
    outMemOk (seqMem s a imm n go) = true := by
  refine atSeq_memOk h fun k q => ?_
  simp [h, go_memOk]

theorem execSeqLd_memOk {d a imm s} (h : s.memOk = true) : outMemOk (execSeqLd d a imm s) = true := seqMem_memOk h fun k q x => by simp [h]
theorem execSeqLdw_memOk {d a imm s} (h : s.memOk = true) : outMemOk (execSeqLdw d a imm s) = true := seqMem_memOk h fun k q x => by simp [h]

theorem execSeqSt_memOk {d a imm s} (h : s.memOk = true) : outMemOk (execSeqSt d a imm s) = true :=
  seqMem_memOk h fun k q x => by simp [h, Mem.store_wf]

theorem execSeqStw_memOk {d a imm s} (h : s.memOk = true) : outMemOk (execSeqStw d a imm s) = true :=
  seqMem_memOk h fun k q x => by simp [h, Mem.store_wf]

@[simp] theorem seqJump_memOk {s k q target} (h : s.memOk = true) : outMemOk (seqJump s k q target) = true := by simp [seqJump, h]
@[simp] theorem seqBranch_memOk {s d a imm cond} (h : s.memOk = true) : outMemOk (seqBranch s d a imm cond) = true := atSeq_memOk h fun k q => by simp [h]
theorem execSeqBeq_memOk {d a imm s} (h : s.memOk = true) : outMemOk (execSeqBeq d a imm s) = true := seqBranch_memOk h
theorem execSeqBne_memOk {d a imm s} (h : s.memOk = true) : outMemOk (execSeqBne d a imm s) = true := seqBranch_memOk h
theorem execSeqBlt_memOk {d a imm s} (h : s.memOk = true) : outMemOk (execSeqBlt d a imm s) = true := seqBranch_memOk h
theorem execSeqBge_memOk {d a imm s} (h : s.memOk = true) : outMemOk (execSeqBge d a imm s) = true := seqBranch_memOk h
theorem execSeqBltu_memOk {d a imm s} (h : s.memOk = true) : outMemOk (execSeqBltu d a imm s) = true := seqBranch_memOk h
theorem execSeqBgeu_memOk {d a imm s} (h : s.memOk = true) : outMemOk (execSeqBgeu d a imm s) = true := seqBranch_memOk h
theorem execSeqJ_memOk {off s} (h : s.memOk = true) : outMemOk (execSeqJ off s) = true := atSeq_memOk h fun k q => by simp [h]
theorem execSeqJal_memOk {off s} (h : s.memOk = true) : outMemOk (execSeqJal off s) = true := atSeq_memOk h fun k q => by simp [h]
theorem execSeqJr_memOk {a s} (h : s.memOk = true) : outMemOk (execSeqJr a s) = true := atSeq_memOk h fun k q => by simp [h]
theorem execSeqSget_memOk {d n s} (h : s.memOk = true) : outMemOk (execSeqSget d n s) = true := atSeq_memOk h fun k q => by split <;> simp [h]
theorem execSeqSset_memOk {a n s} (h : s.memOk = true) : outMemOk (execSeqSset a n s) = true := atSeq_memOk h fun k q => by simp [h]

theorem execSeqCset_memOk {c pos wm1 a chk s} (h : s.memOk = true) : outMemOk (execSeqCset c pos wm1 a chk s) = true :=
  atSeq_memOk h fun k q => by simp [h]

theorem execSeqCget_memOk {c pos wm1 a sx s} (h : s.memOk = true) : outMemOk (execSeqCget c pos wm1 a sx s) = true := seqAlu_memOk h
theorem execSeqCclr_memOk {c pos wm1 s} (h : s.memOk = true) : outMemOk (execSeqCclr c pos wm1 s) = true := seqAlu_memOk h
theorem execSeqCclrAll_memOk {c s} (h : s.memOk = true) : outMemOk (execSeqCclrAll c s) = true := seqAlu_memOk h
@[simp] theorem giveCompletion_memOk (s l st k n t) : (giveCompletion s l st k n t).memOk = s.memOk := by simp [giveCompletion]
@[simp] theorem offerCompletion_memOk (s l st k q t) : (offerCompletion s l st k q t).memOk = s.memOk := by simp [offerCompletion]

@[simp] theorem offerNext_memOk (st n s) : (offerNext st n s).memOk = s.memOk := by
  induction n generalizing s with
  | zero => rfl
  | succ n ih =>
    simp only [offerNext]
    split
    · split
      · simp
      · simp [ih]
    · rfl

@[simp] theorem seqFail_memOk (s l k) : (seqFail s l k).memOk = s.memOk := by
  simp only [seqFail]
  (repeat' split) <;> simp

theorem execSeqCissue_memOk {c s} (h : s.memOk = true) : outMemOk (execSeqCissue c s) = true := atSeq_memOk h fun k q => by simp [h]

theorem execTkqTake_memOk {s} (h : s.memOk = true) : outMemOk (execTkqTake s) = true := by
  simp only [execTkqTake]
  (repeat' split) <;> simp [h]

theorem execSeqTokGive_memOk {a n s} (h : s.memOk = true) : outMemOk (execSeqTokGive a n s) = true := atSeq_memOk h fun k q => by simp [h]

theorem execSeqTokTake_memOk {d h0 n s} (h : s.memOk = true) : outMemOk (execSeqTokTake d h0 n s) = true :=
  atSeq_memOk h fun k q => by split <;> simp [h]

theorem execSeqTokPoll_memOk {d n s} (h : s.memOk = true) : outMemOk (execSeqTokPoll d n s) = true := seqAlu_memOk h

theorem execFifoTake_memOk {s} (h : s.memOk = true) : outMemOk (execFifoTake s) = true := by
  simp only [execFifoTake]
  (repeat' split) <;> simp [h]

theorem execSeqCfgLoad_memOk {a s} (h : s.memOk = true) : outMemOk (execSeqCfgLoad a s) = true := by
  refine atSeq_memOk h fun k q => ?_
  simp
  split <;> simp [h]

theorem execSeqCfgWait_memOk {d s} (h : s.memOk = true) : outMemOk (execSeqCfgWait d s) = true := atSeq_memOk h fun k q => by simp [h]

theorem execSeqSeed_memOk {d a s} (h : s.memOk = true) : outMemOk (execSeqSeed d a s) = true := by
  refine atSeq_memOk h fun k q => ?_
  simp [h]
  (repeat' split) <;> simp [h]

theorem execSeqCensusWait_memOk {d s} (h : s.memOk = true) : outMemOk (execSeqCensusWait d s) = true := atSeq_memOk h fun k q => by simp [h]
theorem execSeqLaunchTail_memOk {a s} (h : s.memOk = true) : outMemOk (execSeqLaunchTail a s) = true := atSeq_memOk h fun k q => by simp [h]
theorem execSeqWfe_memOk {d poll s} (h : s.memOk = true) : outMemOk (execSeqWfe d poll s) = true := atSeq_memOk h fun k q => by split <;> simp [h]
theorem execSeqFence_memOk {scope s} (h : s.memOk = true) : outMemOk (execSeqFence scope s) = true := atSeq_memOk h fun k q => by simp [h]
theorem execSeqTrap_memOk {code s} (h : s.memOk = true) : outMemOk (execSeqTrap code s) = true := atSeq_memOk h fun k _ => by simp [h]
theorem execSeqHalt_memOk {s} (h : s.memOk = true) : outMemOk (execSeqHalt s) = true := atSeq_memOk h fun k q => by simp [h]

theorem execEventEnqueue_memOk {s} (h : s.memOk = true) : outMemOk (execEventEnqueue s) = true := by
  unfold execEventEnqueue
  (repeat' split) <;> simp [h]

theorem execSeqIllegalFetch_memOk {s} (h : s.memOk = true) : outMemOk (execSeqIllegalFetch s) = true := by
  refine atSeq_memOk h fun k q => ?_
  simp [h]
  split <;> simp [h]

/-! ### Machine/Commands -/

@[simp] theorem arrive_memOk (s id p) : (arrive s id p).memOk = s.memOk := rfl

theorem execCissueVerdict_memOk {s} (h : s.memOk = true) : outMemOk (execCissueVerdict s) = true := by
  simp only [execCissueVerdict]
  (repeat' split) <;> simp [h]

@[simp] theorem blockRequest_memOk (s id stack) : (blockRequest s id stack).memOk = s.memOk := rfl

@[simp] theorem bindVerdict_memOk {s id} (h : s.memOk = true) : (bindVerdict s id).memOk = true := by
  simp only [bindVerdict]
  (repeat' split) <;> simp [h]

theorem execCommandStart_memOk {s} (h : s.memOk = true) : outMemOk (execCommandStart s) = true := by
  unfold execCommandStart
  (repeat' split) <;> simp [h]

@[simp] theorem atCmd_memOk {s go} (h : s.memOk = true) (go_memOk : ∀ id c, outMemOk (go id c) = true) : outMemOk (atCmd s go) = true := by
  unfold atCmd
  (repeat' split) <;> simp [h, go_memOk]

@[simp] theorem sendRide_memOk (s id c ms) : (sendRide s id c ms).memOk = s.memOk := rfl
theorem execBoardFlow_memOk {h0 o s} (h : s.memOk = true) : outMemOk (execBoardFlow h0 o s) = true := atCmd_memOk h fun id c => by simp [h]
theorem execBoardSnap_memOk {h0 o s} (h : s.memOk = true) : outMemOk (execBoardSnap h0 o s) = true := atCmd_memOk h fun id c => by simp [h]
theorem execSieve_memOk {h0 o s} (h : s.memOk = true) : outMemOk (execSieve h0 o s) = true := atCmd_memOk h fun id c => by simp [h]
theorem execFold_memOk {h0 o s} (h : s.memOk = true) : outMemOk (execFold h0 o s) = true := atCmd_memOk h fun id c => by simp [h]
theorem execGather_memOk {h0 rid ort s} (h : s.memOk = true) : outMemOk (execGather h0 rid ort s) = true := atCmd_memOk h fun id c => by simp [h]
theorem execKvride_memOk {h0 o s} (h : s.memOk = true) : outMemOk (execKvride h0 o s) = true := atCmd_memOk h fun id c => by simp [h]
@[simp] theorem dropRiders_memOk (s id) : (dropRiders s id).memOk = s.memOk := rfl
@[simp] theorem foldClose_memOk (s id) : (foldClose s id).memOk = s.memOk := by simp [foldClose]
theorem execAlight_memOk {h0 rid s} (h : s.memOk = true) : outMemOk (execAlight h0 rid s) = true := atCmd_memOk h fun id c => by split <;> simp [h]
@[simp] theorem updStart_memOk {s} (h : s.memOk = true) : outMemOk (updStart s) = true := atCmd_memOk h fun id c => by simp [h]
theorem execCopy_memOk {h0 o s} (h : s.memOk = true) : outMemOk (execCopy h0 o s) = true := atCmd_memOk h fun id c => by simp [h]

theorem execPagein_memOk {h0 o s} (h : s.memOk = true) : outMemOk (execPagein h0 o s) = true := by
  refine atCmd_memOk h fun id c => ?_
  simp
  split <;> simp [h]

theorem execPageout_memOk {h0 o s} (h : s.memOk = true) : outMemOk (execPageout h0 o s) = true := by
  refine atCmd_memOk h fun id c => ?_
  simp
  split <;> simp [h]

@[simp] theorem blockDone_memOk {s stack b id c st} (h : s.memOk = true) : outMemOk (blockDone s stack b id c st) = true := by simp [blockDone, h]

@[simp] theorem atBlockCmd_memOk {s stack seqid go} (h : s.memOk = true) (go_memOk : ∀ id c b, outMemOk (go id c b) = true) :
    outMemOk (atBlockCmd s stack seqid go) = true := by
  refine atCmd_memOk h fun id c => ?_
  dsimp only
  split <;> simp [h, go_memOk]

theorem execBseqNew_memOk {h0 o s} (h : s.memOk = true) : outMemOk (execBseqNew h0 o s) = true := by
  simp only [execBseqNew]
  refine atCmd_memOk h fun id c => ?_
  simp
  (repeat' split) <;> simp [h]

theorem execBseqRestore_memOk {h0 o s} (h : s.memOk = true) : outMemOk (execBseqRestore h0 o s) = true :=
  atBlockCmd_memOk h fun id c b => by split <;> simp [h]

theorem execBseqAddg_memOk {h0 o s} (h : s.memOk = true) : outMemOk (execBseqAddg h0 o s) = true :=
  atBlockCmd_memOk h fun id c b => by split <;> simp [h]

theorem execBdrop_memOk {h0 seqid stack s} (h : s.memOk = true) : outMemOk (execBdrop h0 seqid stack s) = true := by
  simp only [execBdrop]
  refine atBlockCmd_memOk h fun id c b => ?_
  simp
  (repeat' split) <;> simp [h]

@[simp] theorem bindFrom_memOk {s o start} (h : s.memOk = true) : outMemOk (bindFrom s o start) = true := atCmd_memOk h fun id c => by simp [h]

theorem execUnbind_memOk {h0 s} (h : s.memOk = true) : outMemOk (execUnbind h0 s) = true := by
  refine atCmd_memOk h fun id c => ?_
  simp
  split <;> simp [h]

theorem execEos_memOk {h0 ort tag s} (h : s.memOk = true) : outMemOk (execEos h0 ort tag s) = true := atCmd_memOk h fun id c => by simp [h]
theorem execTempo_memOk {h0 round m s} (h : s.memOk = true) : outMemOk (execTempo h0 round m s) = true := atCmd_memOk h fun id c => by simp [h]
theorem execDrainCmd_memOk {h0 m s} (h : s.memOk = true) : outMemOk (execDrainCmd h0 m s) = true := atCmd_memOk h fun id c => by simp [h]
theorem execFenceE_memOk {h0 eng s} (h : s.memOk = true) : outMemOk (execFenceE h0 eng s) = true := atCmd_memOk h fun id c => by simp [h]
theorem execCfgld_memOk {h0 block s} (h : s.memOk = true) : outMemOk (execCfgld h0 block s) = true := atCmd_memOk h fun id c => by split <;> simp [h]
@[simp] theorem statReset_memOk (s ts) : (statReset s ts).memOk = s.memOk := foldl_memOk (fun _ _ => by simp) _ _

theorem execStatc_memOk {h0 reach seg s} (h : s.memOk = true) : outMemOk (execStatc h0 reach seg s) = true :=
  atCmd_memOk h fun id c => by split <;> simp [h]

@[simp] theorem releasePage_memOk (s c vpn) : (releasePage s c vpn).1.memOk = s.memOk := rfl

@[simp] theorem cmdEnd_memOk (s id c) : (cmdEnd s id c).1.memOk = s.memOk := by
  simp only [cmdEnd]
  (repeat' split) <;> simp

@[simp] theorem settleLoads_memOk {s} (h : s.memOk = true) : (settleLoads s).memOk = true :=
  foldl_memOk' (fun _ _ hs => foldl_memOk' (fun _ _ hs => by simp [hs]) _ hs) _ h

theorem execCommandRetire_memOk {s} (h : s.memOk = true) : outMemOk (execCommandRetire s) = true := by
  simp only [execCommandRetire]
  (repeat' split) <;> simp [h]

/-! ### Machine/Rides -/

theorem execRideReserve_memOk {s} (h : s.memOk = true) : outMemOk (execRideReserve s) = true := by
  unfold execRideReserve
  split <;> simp [h]

theorem execRideCommit_memOk {s} (h : s.memOk = true) : outMemOk (execRideCommit s) = true := by
  unfold execRideCommit
  split <;> simp [h]

theorem execRiderBoard_memOk {s} (h : s.memOk = true) : outMemOk (execRiderBoard s) = true := by
  simp only [execRiderBoard]
  (repeat' split) <;> simp [h]

theorem copySegment_memOk {s id c m loc seg u} (h : s.memOk = true) (e : copySegment s id c m loc seg = some u) : u.memOk = true := by
  simp only [copySegment] at e
  (repeat' split at e) <;> simp at e <;> simp [← e, h]

@[simp] theorem pageSegment_memOk {s id c x m loc seg} (h : s.memOk = true) : (pageSegment s id c x m loc seg).memOk = true := by
  simp [pageSegment, h, Mem.writeN_wf]

theorem rideOffer_memOk {s id x m loc seg u} (h : s.memOk = true) (e : rideOffer s id x m loc seg = some u) : u.memOk = true := by
  simp only [rideOffer] at e
  split at e
  · exact copySegment_memOk h e
  split at e
  · cases e
    simp [h]
  split at e
  · cases e
    simp [h]
  split at e
  all_goals
    obtain ⟨c, -, rfl⟩ := Option.map_eq_some_iff.mp e
    simp [h]

@[simp] theorem raiseSeg_memOk (s id m loc seg) : (raiseSeg s id m loc seg).memOk = s.memOk := rfl

@[simp] theorem visitRide_memOk {s m loc r} (h : s.memOk = true) : (visitRide s m loc r).1.memOk = true := by
  have offered (u : State) (e : rideOffer s r.cmd (course s (s.cmd r.cmd)) m loc (Stripe.segAt (course s (s.cmd r.cmd)).ms (Reach.rank m.entry) loc) = some u) :
      u.memOk = true := rideOffer_memOk h e
  simp only [visitRide]
  generalize (if (r.left != 0) = true then _ else _) = due
  split
  · simp [h]
  split
  · simp [h]
  split
  · simp [h]
  split
  · exact offered _ ‹_›
  · simp [h]

/-! ### Machine/Gather -/

theorem addWants_memOk {s id kind pc ws u} (e : addWants s id kind pc ws = some u) : u.memOk = s.memOk := by
  simp only [addWants] at e
  (repeat' split at e) <;> simp at e <;> simp [← e]

@[simp] theorem getD_addWants_memOk (s id kind pc ws) : ((addWants s id kind pc ws).getD s).memOk = s.memOk := by
  cases e : addWants s id kind pc ws with
  | none => rfl
  | some u => exact addWants_memOk e

@[simp] theorem flushReplies_memOk (s k id n) : (flushReplies s k id n).memOk = s.memOk := by
  induction n generalizing s with
  | zero => rfl
  | succ n ih =>
    simp only [flushReplies]
    split <;> simp [ih]

@[simp] theorem finishReqs_memOk (s k id) : (finishReqs s k id).memOk = s.memOk := by
  simp only [finishReqs, flushReplies_memOk, setPortAt_memOk]
  exact foldl_memOk (fun _ _ => by simp) _ _

@[simp] theorem placeReq_memOk (s id r) : (placeReq s id r).memOk = s.memOk := by
  refine foldl_memOk (fun x i => ?_) _ _
  split
  · rfl
  · split <;> simp

@[simp] theorem foldl_placeReq_memOk (s id l) : (List.foldl (fun x r => placeReq x id r) s l).memOk = s.memOk := foldl_memOk (fun _ _ => placeReq_memOk ..) l s
@[simp] theorem acceptReq_memOk (s k id r) : (acceptReq s k id r).memOk = s.memOk := by simp [acceptReq]
@[simp] theorem fenceGather_memOk (s id) : (fenceGather s id).memOk = s.memOk := by simp [fenceGather]
@[simp] theorem portDrop_memOk (s k p t) : (portDrop s k p t).memOk = s.memOk := by simp [portDrop]

theorem execGatherRequest_memOk {s} (h : s.memOk = true) : outMemOk (execGatherRequest s) = true := by
  refine atTile_memOk h fun k t => ?_
  simp
  (repeat' split) <;> simp [h]

@[simp] theorem serveSegment_memOk (s id m loc) : (serveSegment s id m loc).memOk = s.memOk := by simp [serveSegment]

@[simp] theorem poisonGather_memOk (s id m loc) : (poisonGather s id m loc).memOk = s.memOk := by
  simp only [poisonGather]
  rw [foldl_memOk fun _ _ => by simp]
  simp

@[simp] theorem fetchOverflow_memOk (s here bytes) : (fetchOverflow s here bytes).memOk = s.memOk :=
  foldl_memOk (fun _ _ => foldl_overflowFree_memOk ..) _ _

@[simp] theorem serveOverflow_memOk (s m loc) : (serveOverflow s m loc).memOk = s.memOk := by simp [serveOverflow]
@[simp] theorem fenceOverflow_memOk (s pc) : (fenceOverflow s pc).memOk = s.memOk := by simp [fenceOverflow]
@[simp] theorem overflowUe_memOk (s m loc) : (overflowUe s m loc).memOk = s.memOk := foldl_memOk (fun _ _ => by simp) _ _

@[simp] theorem visitGather_memOk (s m loc r) : (visitGather s m loc r).1.memOk = s.memOk := by
  unfold visitGather
  (repeat' split) <;> simp

@[simp] theorem kvWantBlock_memOk (s id b) : (kvWantBlock s id b).memOk = s.memOk := by
  simp only [kvWantBlock]
  split
  · rfl
  · rw [setCmd_memOk, foldl_fst_memOk]
    intro x pc
    split
    · exact addWants_memOk ‹_›
    · rfl

@[simp] theorem kvWants_memOk (s id) : (kvWants s id).memOk = s.memOk := foldl_memOk (fun _ _ => by split <;> simp) _ _

theorem execKvrideAdmit_memOk {s} (h : s.memOk = true) : outMemOk (execKvrideAdmit s) = true := by
  simp only [execKvrideAdmit]
  (repeat' split) <;> simp [h]

@[simp] theorem poisonKv_memOk (s id m loc) : (poisonKv s id m loc).memOk = s.memOk := foldl_memOk (fun _ _ => by simp) _ _

@[simp] theorem visitKv_memOk (s m loc r) : (visitKv s m loc r).1.memOk = s.memOk := by
  simp only [visitKv]
  (repeat' split) <;> simp

@[simp] theorem eddyEvents_memOk (s k e x) : (eddyEvents s k e x).memOk = s.memOk := foldl_memOk (fun _ _ => by simp) _ _

theorem execEddyDivert_memOk {s} (h : s.memOk = true) : outMemOk (execEddyDivert s) = true := by
  refine atTile_memOk h fun k t => ?_
  simp
  (repeat' split) <;> simp [h]

theorem resumeEntry_memOk {s k i u} (h : s.memOk = true) (e : resumeEntry s k i = some u) : u.memOk = true := by
  rw [resumeEntry] at e
  cases hx : (s.port k).eddy.get? i with
  | none =>
    rw [hx] at e
    rwa [← Option.some.inj e]
  | some x =>
    rw [hx] at e
    simp -zeta only at e
    extract_lets +onlyGivenNames c at e
    cases hk : x.kv with
    | true =>
      rw [if_pos hk] at e
      extract_lets +onlyGivenNames v at e
      cases ho : xlatOne s c.ctx false (BitVec.ofNat 64 (v * 2 ^ 21)) with
      | ok _ =>
        rw [ho] at e
        simp -zeta only at e
        rw [← Option.some.inj e, kvWants_memOk, setCmd_memOk, setPort_memOk, h]
      | fail _ =>
        rw [ho] at e
        simp -zeta only at e
        rw [← Option.some.inj e, eddyEvents_memOk, setPort_memOk, h]
    | false =>
      rw [if_neg (by simp [hk])] at e
      extract_lets +onlyGivenNames body at e
      split at e
      · split at e
        · cases e
        · rw [← Option.some.inj e, acceptReq_memOk, setPort_memOk, h]
      · rw [← Option.some.inj e, eddyEvents_memOk, setPort_memOk, h]

theorem execResumeToken_memOk {s} (h : s.memOk = true) : outMemOk (execResumeToken s) = true := by
  refine atTile_memOk h fun k t => ?_
  dsimp only
  split
  · split
    · simp [h]
    split
    · simp [h]
    split
    · simp [h]
    · exact getD_memOk (by simp [h]) fun _ => resumeEntry_memOk (by simp [h])
  · split
    · simp [h]
    · exact getD_memOk h fun _ => resumeEntry_memOk (by simp [h])

theorem execFirmwareTierEvent_memOk {s} (h : s.memOk = true) : outMemOk (execFirmwareTierEvent s) = true := by
  simp only [execFirmwareTierEvent]
  (repeat' split) <;> simp [h]

/-! ### Machine/Queues -/

theorem execQres_memOk {s} (h : s.memOk = true) : outMemOk (execQres s) = true := by
  unfold execQres
  split <;> simp [h]

theorem execQcommit_memOk {s} (h : s.memOk = true) : outMemOk (execQcommit s) = true := by
  unfold execQcommit
  split <;> simp [h]

@[simp] theorem readReg_memOk {s ok v} (h : s.memOk = true) : outMemOk (readReg s ok v) = true := by simp [readReg, h]

theorem execRegisterWrite_memOk {s} (h : s.memOk = true) : outMemOk (execRegisterWrite s) = true := by
  unfold execRegisterWrite
  split <;> simp [h]

@[simp] theorem takePacket_memOk (s q p) : (takePacket s q p).2.memOk = s.memOk := rfl
@[simp] theorem refuse_memOk {s q o status} (h : s.memOk = true) : (refuse s q o status).memOk = true := by simp [refuse, h]
@[simp] theorem packetDone_memOk {s q o result} (h : s.memOk = true) : (packetDone s q o result).memOk = true := by simp [packetDone, h]

@[simp] theorem atPacket_memOk {p s go} (h : s.memOk = true) (go_memOk : ∀ q o t, t.memOk = true → outMemOk (go q o t) = true) :
    outMemOk (atPacket p s go) = true := by
  unfold atPacket
  split
  · split
    · simp [h]
    · exact go_memOk _ _ _ (by simp [h])
  · simp

@[simp] theorem atManagement_memOk {i s go} (h : s.memOk = true) (go_memOk : ∀ q o t, t.memOk = true → outMemOk (go q o t) = true) :
    outMemOk (atManagement i s go) = true := by
  refine atPacket_memOk h fun q o t ht => ?_
  split
  · exact go_memOk q o t ht
  · simp [ht]

/-! ### Machine/Visits -/

@[simp] theorem countUpd_memOk (s id done) : (countUpd s id done).memOk = s.memOk := by simp [countUpd]

@[simp] theorem applyWeir_memOk {s0 m w} (h : s0.memOk = true) : (applyWeir s0 m w).memOk = true := by
  have stored (f : Nat → Nat) (v : List Host.Cell → Nat → Lane) (l : List Nat) (d : List Host.Cell) (hd : Mem.wf d = true) :
      Mem.wf (l.foldl (fun d i => Mem.store d (f i) 4 (v d i)) d) = true := Mem.foldl_wf _ (fun _ _ hm => Mem.store_wf _ _ _ _ hm) l d hd
  simp only [applyWeir]
  split
  · simp [h]
  · rw [countUpd_memOk, memOk_mk, stored (fun i => segByte m w.seg (4 * (w.word + i))) _ _ _ (dram_wf (by simp [h]))]
    simp [h]

@[simp] theorem poisonSegment_memOk (s m loc) : (poisonSegment s m loc).memOk = s.memOk := by simp [poisonSegment]

@[simp] theorem applyUpdates_memOk {s m loc} (h : s.memOk = true) : (applyUpdates s m loc).memOk = true := by
  simp only [applyUpdates]
  split
  · exact h
  · exact foldl_memOk' (fun _ _ hs => applyWeir_memOk hs) _ (by simp [h])

@[simp] theorem visitTable_memOk (s m loc r) : (visitTable s m loc r).1.memOk = s.memOk := by
  simp only [visitTable]
  split
  · rfl
  split
  · exact foldl_memOk (fun _ _ => by split <;> simp) _ _
  · rfl

@[simp] theorem visitRestore_memOk (s m loc r) : (visitRestore s m loc r).1.memOk = s.memOk := by
  simp only [visitRestore]
  (repeat' split) <;> simp

@[simp] theorem visitRider_memOk {s m loc r} (h : s.memOk = true) : (visitRider s m loc r).1.memOk = true := by
  unfold visitRider
  (repeat' split) <;> simp [h]

@[simp] theorem visitRiders_memOk {s m loc rs} (h : s.memOk = true) : (visitRiders s m loc rs).1.memOk = true := by
  induction rs generalizing s with
  | nil => exact h
  | cons r rs ih => exact ih (visitRider_memOk h)

@[simp] theorem freePairs_memOk (s pc) : (freePairs s pc).memOk = s.memOk := by simp [freePairs]
@[simp] theorem cursorNext_memOk (s m loc lap) : (cursorNext s m loc lap).memOk = s.memOk := rfl

theorem execSegmentVisit_memOk {s} (h : s.memOk = true) : outMemOk (execSegmentVisit s) = true := by
  unfold execSegmentVisit
  split
  · extract_lets +onlyGivenNames ld
    split
    · rfl
    split
    · exact h
    extract_lets +onlyGivenNames m cur s0 s1 old v v0 ld2 s2 s3
    have h1 : s1.memOk = true := by simp [s1, s0, h]
    have hv : v.1.memOk = true := visitRiders_memOk (by rw [memOk_poison, h1])
    have h2 : s2.memOk = true := by rw [setLanding_memOk, memOk_poison, hv]
    have h3 : s3.memOk = s2.memOk := foldl_memOk (fun _ _ => by split <;> simp) _ _
    rw [outMemOk_next, cursorNext_memOk, h3, h2]
  · rfl

@[simp] theorem discardPost_memOk (s id) : (discardPost s id).memOk = s.memOk := rfl

theorem execPostingAccept_memOk {s} (h : s.memOk = true) : outMemOk (execPostingAccept s) = true := by
  simp only [execPostingAccept]
  (repeat' split) <;> simp [h]

theorem execUpdTokenTake_memOk {s} (h : s.memOk = true) : outMemOk (execUpdTokenTake s) = true := by
  refine atTile_memOk h fun k t => ?_
  simp
  (repeat' split) <;> simp [h]

theorem execRoundMark_memOk {s} (h : s.memOk = true) : outMemOk (execRoundMark s) = true := by
  unfold execRoundMark
  (repeat' split) <;> simp [h]

@[simp] theorem genStop_memOk (s k) : (genStop s k).memOk = s.memOk := by
  simp only [genStop]
  (repeat' split) <;> simp

theorem execAddressGenerate_memOk {s} (h : s.memOk = true) : outMemOk (execAddressGenerate s) = true := atTile_memOk h fun k t => by simp [h]

/-! ### Machine/Launches -/

@[simp] theorem queueLaunch_memOk {s q o} (h : s.memOk = true) : (queueLaunch s q o).memOk = true := by
  unfold queueLaunch
  split <;> simp [h]

@[simp] theorem issueBind_memOk {s q o l} (h : s.memOk = true) : (issueBind s q o l).memOk = true := by simp [issueBind, h]

@[simp] theorem settleBinds_memOk {s ticket l} (h : s.memOk = true) : (settleBinds s ticket l).memOk = true := by
  refine foldl_memOk' (fun z q hz => ?_) _ h
  dsimp only
  split
  · exact foldl_memOk' (fun _ _ hy => by split <;> simp [hy]) _ hz
  · exact hz

@[simp] theorem startRegion_memOk {s l p k index places} (h : s.memOk = true) : (startRegion s l p k index places).memOk = true := by
  refine memOk_change h id id (fun ram => ?_) id id
  simp only [startRegion]
  split
  · exact Mem.writeN_wf _ _ _ (dropTiles_wf ram)
  · exact dropTiles_wf ram

@[simp] theorem startLaunch_memOk {s q o places flags started} (h : s.memOk = true) : (startLaunch s q o places flags started).memOk = true :=
  settleBinds_memOk (foldl_memOk' (fun _ _ hs => startRegion_memOk hs) _ h)

@[simp] theorem settleUnload_memOk {s handle} (h : s.memOk = true) : (settleUnload s handle).memOk = true := by
  unfold settleUnload
  split
  · exact h
  split
  · exact h
  · exact foldl_memOk' (fun _ _ hs => completePacket_memOk hs) _ h

@[simp] theorem launchOver_memOk {s q ticket handles c} (h : s.memOk = true) : (launchOver s q ticket handles c).memOk = true := by
  simp only [launchOver]
  exact foldl_memOk' (fun _ _ hs => by simp [hs]) _ (by simp [h])

@[simp] theorem completeLaunch_memOk {s l status} (h : s.memOk = true) : (completeLaunch s l status).memOk = true := by simp [completeLaunch, h]
@[simp] theorem closeRegions_memOk (s l) : (closeRegions s l).memOk = s.memOk := rfl

@[simp] theorem tailStart_memOk {s l p} (h : s.memOk = true) : (tailStart s l p).memOk = true := by
  simp only [tailStart]
  (repeat' split) <;> simp [h]

theorem execKernelRetire_memOk {s} (h : s.memOk = true) : outMemOk (execKernelRetire s) = true := by
  unfold execKernelRetire
  (repeat' split) <;> simp [h]

@[simp] theorem fillPages_memOk {s c pages} (h : s.memOk = true) : (fillPages s c pages).memOk = true := by
  unfold fillPages
  split
  · exact h
  extract_lets +onlyGivenNames ms
  refine foldl_memOk' (fun z pg hz => ?_) _ h
  extract_lets +onlyGivenNames m gone
  have hm : Mem.wf m = true := by
    refine Mem.foldl_wf _ (fun m o hm => ?_) _ _ (dram_wf hz)
    extract_lets +onlyGivenNames a
    split
    · exact Mem.write_wf _ _ _ hm
    · exact hm
  clear_value m
  exact memOk_change hz (fun _ => hm) id id id id

@[simp] theorem clearKeys_memOk {s keys} (h : s.memOk = true) : (clearKeys s keys).memOk = true :=
  memOk_change h id dropTiles_wf dropTiles_wf id id

@[simp] theorem moveShadows_memOk {s keys} (h : s.memOk = true) : (moveShadows s keys).memOk = true := by
  simp only [moveShadows]
  exact foldl_memOk' (fun _ _ hs => by simp [hs]) _ (by simp [h])

@[simp] theorem saveLaunch_memOk {s l pages} (h : s.memOk = true) : (saveLaunch s l pages).memOk = true := by
  unfold saveLaunch
  rw [setQueue_memOk, setLaunch_memOk, memOk_cmds]
  exact clearKeys_memOk (by rw [memOk_saved, closeLaunch_memOk, moveShadows_memOk (fillPages_memOk h)])

@[simp] theorem abandonMove_memOk {s c} (h : s.memOk = true) : (abandonMove s c).memOk = true := by
  unfold abandonMove
  extract_lets +onlyGivenNames v moving
  split
  · exact h
  split
  · extract_lets +onlyGivenNames s1 m
    have hm : Mem.wf m = true := by
      refine Mem.foldl_wf _ (fun m g hm => ?_) _ _ (dram_wf h)
      split
      · split
        · exact Mem.writeN_wf _ _ _ hm
        · exact hm
      · exact hm
    have h1 : s1.memOk = true := by simp [s1, h]
    clear_value m
    exact memOk_change h1 (fun _ => hm) id id id id
  split
  · extract_lets +onlyGivenNames s1 m
    have hm : Mem.wf m = true := by
      refine Mem.foldl_wf _ (fun m g hm => ?_) _ _ (far_wf h)
      split
      · split
        · exact Mem.writeN_wf _ _ _ hm
        · exact hm
      · exact hm
    have h1 : s1.memOk = true := by simp [s1, h]
    clear_value m
    exact memOk_change h1 id id id id (fun _ => hm)
  · exact h

@[simp] theorem killUnits_memOk (s id c) : (killUnits s id c).memOk = s.memOk := by
  unfold killUnits
  split <;> simp

@[simp] theorem killCmd_memOk {s id c} (h : s.memOk = true) : (killCmd s id c).memOk = true := by
  unfold killCmd
  extract_lets +onlyGivenNames s1 s2 s3 gone n y drop
  have h1 : s1.memOk = true := by simp [s1, h]
  have h3 : s3.memOk = s1.memOk := foldl_memOk (fun _ _ => accDone_memOk ..) _ _
  have hd : drop.memOk = true := by
    simp only [drop]
    split
    · exact h3.trans h1
    · exact h3.trans h1
  split
  · exact completePacket_memOk hd
  · exact hd

@[simp] theorem killRecords_memOk (s l) : (killRecords s l).memOk = s.memOk := foldl_memOk (fun _ _ => by simp) _ _

@[simp] theorem settleKills_memOk {s c} (h : s.memOk = true) : (settleKills s c).memOk = true := by
  unfold settleKills
  dsimp only
  split
  · exact h
  · exact foldl_memOk' (fun _ _ hs => completePacket_memOk hs) _ h

@[simp] theorem dropRestore_memOk (s l) : (dropRestore s l).memOk = s.memOk := rfl

@[simp] theorem endKill_memOk {s l} (h : s.memOk = true) : (endKill s l).memOk = true := by
  unfold endKill
  extract_lets +onlyGivenNames x
  split
  · exact h
  extract_lets +onlyGivenNames s1 s2 s3 s4 q s5 s6
  have h2 : s2.memOk = true := foldl_memOk' (fun _ _ hs => by split <;> simp [hs]) _ h
  have h3 : s3.memOk = true := by simp [s3, h2]
  have h4 : s4.memOk = true := by
    simp only [s4]
    split
    · exact clearKeys_memOk h3
    · exact h3
  exact settleKills_memOk (completeLaunch_memOk h4)

@[simp] theorem killLaunch_memOk {s l} (h : s.memOk = true) : (killLaunch s l).memOk = true := by
  simp only [killLaunch]
  (repeat' split) <;> simp [h]

@[simp] theorem killContext_memOk {s c} (h : s.memOk = true) : (killContext s c).memOk = true := by
  unfold killContext
  extract_lets +onlyGivenNames s1
  have h1 : s1.memOk = true := foldl_memOk' (fun _ _ hs => by split <;> simp [hs]) _ h
  refine foldl_memOk' (fun z q hz => ?_) _ h1
  split
  · exact hz
  extract_lets +onlyGivenNames y z1 z2
  have h2 : z2.memOk = true := foldl_memOk' (fun _ _ hw => launchOver_memOk hw) _ hz
  split
  · exact launchOver_memOk h2
  · exact h2

@[simp] theorem answerAgent_memOk (s action t) : (answerAgent s action t).memOk = s.memOk := by
  unfold answerAgent
  extract_lets +onlyGivenNames cause
  split
  · extract_lets +onlyGivenNames s1 sl
    have h1 : s1.memOk = s.memOk := setStopped_memOk ..
    split
    · simp [h1]
    split
    · split
      · simp [Option.elim]
        split <;> simp [h1]
      · exact h1
    · exact h1
  · split <;> simp
  · simp
  · extract_lets +onlyGivenNames s1 q q1 s2
    have h1 : s1.memOk = s.memOk := setStopped_memOk ..
    have h2 : s2.memOk = s1.memOk := by
      simp only [s2]
      split
      · split <;> simp
      · rfl
    rw [seqFail_memOk, h2, h1]
  · simp

@[simp] theorem takeAnswer_memOk {s action t} (h : s.memOk = true) : (takeAnswer s action t).memOk = true := by simp [takeAnswer, h]

@[simp] theorem answerTrap_memOk {s action t} (h : s.memOk = true) : (answerTrap s action t).memOk = true := by
  unfold answerTrap
  split <;> simp [h]

theorem putCells_wf {m cs : List Host.Cell} (h : Mem.wf m = true) : Mem.wf (putCells m cs) = true := Mem.foldl_wf _ (fun _ _ hm => Mem.write_wf _ _ _ hm) cs m h

@[simp] theorem restoreLaunch_memOk {s l y} (h : s.memOk = true) : (restoreLaunch s l y).memOk = true := by
  have cleared : (clearKeys s (launchKeys (s.launch l))).memOk = true := clearKeys_memOk h
  exact memOk_change cleared id putCells_wf putCells_wf id id

@[simp] theorem resumeLaunch_memOk {s l} (h : s.memOk = true) : (resumeLaunch s l).memOk = true := by
  unfold resumeLaunch
  split
  · exact h
  extract_lets +onlyGivenNames s1 s2
  have h1 : s1.memOk = true := foldl_memOk' (fun _ _ hs => by simp [hs]) _ (restoreLaunch_memOk h)
  have h2 : s2.memOk = true := foldl_memOk' (fun _ _ hs => takeAnswer_memOk hs) _ h1
  split
  · exact foldl_memOk' (fun _ _ hs => by simp [hs]) _ h2
  · exact h2

@[simp] theorem beginResume_memOk (s l) : (beginResume s l).memOk = s.memOk := foldl_memOk (fun _ _ => by simp) _ _

theorem execPreempt_memOk {s} (h : s.memOk = true) : outMemOk (execPreempt s) = true := by
  simp only [execPreempt]
  (repeat' split) <;> simp [h]

@[simp] theorem freeze_memOk (s c) : (freeze s c).memOk = s.memOk := rfl

theorem execTrapRecordEnter_memOk {s} (h : s.memOk = true) : outMemOk (execTrapRecordEnter s) = true := by
  simp only [execTrapRecordEnter]
  (repeat' split) <;> simp [h]

@[simp] theorem tqAct_memOk {s action go} (h : s.memOk = true) (go_memOk : ∀ t u, u.memOk = true → (go t u).memOk = true) :
    outMemOk (tqAct s action go) = true := by
  unfold tqAct
  split
  · split
    · simp [h]
    extract_lets +onlyGivenNames x a k res
    have hr (u : State) (n : BitVec 32) (hu : u.memOk = true) : outMemOk (res u n) = true := hu
    split
    · exact hr _ _ h
    split
    · exact h
    split
    · exact hr _ _ h
    extract_lets no
    split
    · exact hr _ _ h
    split
    · exact hr _ _ h
    · exact hr _ _ (go_memOk _ _ h)
  · rfl

theorem execTqactResume_memOk {s} (h : s.memOk = true) : outMemOk (execTqactResume s) = true := tqAct_memOk h fun t s1 ht => by simp [ht]
theorem execTqactNext_memOk {s} (h : s.memOk = true) : outMemOk (execTqactNext s) = true := tqAct_memOk h fun t s1 ht => by simp [ht]
theorem execTqactKill_memOk {s} (h : s.memOk = true) : outMemOk (execTqactKill s) = true := tqAct_memOk h fun t s1 ht => by simp [ht]

/-! ### Machine/Admission -/

@[simp] theorem settleCands_memOk (s) : (settleCands s).memOk = s.memOk := rfl

theorem pullHead_memOk {s q u} (h : s.memOk = true) (e : pullHead s q = some u) : u.memOk = true := by
  obtain ⟨p, -, e⟩ := Option.bind_eq_some_iff.mp e
  split at e
  · cases e
  · split at e <;> simp [← Option.some.inj e, h]

@[simp] theorem pullNext_memOk {n q s} (h : s.memOk = true) : (dropQueue.pullNext n q s).memOk = true := by
  induction n generalizing s with
  | zero => exact h
  | succ n ih =>
    unfold dropQueue.pullNext
    split
    · have h1 := pullHead_memOk h ‹_›
      split
      · exact h1
      · exact ih h1
    · exact h

@[simp] theorem dropQueue_memOk {n q s} (h : s.memOk = true) : (dropQueue n q s).memOk = true := by
  induction n generalizing s with
  | zero => exact h
  | succ n ih =>
    unfold dropQueue
    split
    · exact h
    split
    · exact ih (pullNext_memOk (launchOver_memOk h))
    · exact h

@[simp] theorem dropLate_memOk {s} (h : s.memOk = true) : (dropLate s).memOk = true := by
  unfold dropLate
  split
  · exact h
  · exact foldl_memOk' (fun _ _ hs => by split <;> simp [hs]) _ h

@[simp] theorem admitCand_memOk {s c places} (h : s.memOk = true) : (admitCand s c places).memOk = true := by
  unfold admitCand
  split <;> simp [h]

@[simp] theorem bypassOne_memOk (s c) : (bypassOne s c).memOk = s.memOk := by
  unfold bypassOne
  split <;> simp

@[simp] theorem bypassed_memOk (s cs) : (bypassed s cs).memOk = s.memOk := foldl_memOk (fun _ _ => by simp) _ _
@[simp] theorem admitOver_memOk {s over_ c p} (h : s.memOk = true) : (admitOver s over_ c p).memOk = true := by simp [admitOver, h]

theorem execAdmissionDecision_memOk {s} (h : s.memOk = true) : outMemOk (execAdmissionDecision s) = true := by
  simp only [execAdmissionDecision]
  (repeat' split) <;> simp [h]

theorem execSliceExpiry_memOk {s} (h : s.memOk = true) : outMemOk (execSliceExpiry s) = true := by
  unfold execSliceExpiry
  split <;> simp [h]

@[simp] theorem passTime_memOk (s ns) : (passTime s ns).memOk = s.memOk := rfl

/-! ### Machine/CvtLaneNodes -/

theorem execCvt_memOk {w src dst s} (h : s.memOk = true) : outMemOk (execCvt w src dst s) = true := fireCalc_memOk h
theorem execPack_memOk {w sz s} (h : s.memOk = true) : outMemOk (execPack w sz s) = true := fireCalc_memOk h
theorem execUnpack_memOk {w ext sz s} (h : s.memOk = true) : outMemOk (execUnpack w ext sz s) = true := fireCalc_memOk h
theorem execBcast_memOk {w lane s} (h : s.memOk = true) : outMemOk (execBcast w lane s) = true := fireCalc_memOk h
theorem execRsum_memOk {w s} (h : s.memOk = true) : outMemOk (execRsum w s) = true := fireCalc_memOk h
theorem execRmin_memOk {w s} (h : s.memOk = true) : outMemOk (execRmin w s) = true := fireCalc_memOk h
theorem execRmax_memOk {w s} (h : s.memOk = true) : outMemOk (execRmax w s) = true := fireCalc_memOk h
theorem execPsum_memOk {w s} (h : s.memOk = true) : outMemOk (execPsum w s) = true := fireCalc_memOk h
theorem execPmin_memOk {w s} (h : s.memOk = true) : outMemOk (execPmin w s) = true := fireCalc_memOk h
theorem execPmax_memOk {w s} (h : s.memOk = true) : outMemOk (execPmax w s) = true := fireCalc_memOk h
theorem execLidx_memOk {w imm s} (h : s.memOk = true) : outMemOk (execLidx w imm s) = true := fireCalc_memOk h
theorem execMcount_memOk {w pfx s} (h : s.memOk = true) : outMemOk (execMcount w pfx s) = true := fireCalc_memOk h

/-! ### Machine/FloatNodes -/

theorem execFcmp_memOk {w cond s} (h : s.memOk = true) : outMemOk (execFcmp w cond s) = true := fireCalc_memOk h
theorem execFclass_memOk {w mask s} (h : s.memOk = true) : outMemOk (execFclass w mask s) = true := fireCalc_memOk h
theorem execRndi_memOk {w s} (h : s.memOk = true) : outMemOk (execRndi w s) = true := fireCalc_memOk h

/-! ### Machine/Loader -/

@[simp] theorem postReachData_memOk (s c f x) : (postReachData s c f x).memOk = s.memOk := rfl

@[simp] theorem loadObject_memOk {s q ticket start c f} (h : s.memOk = true) : (loadObject s q ticket start c f).memOk = true := by
  unfold loadObject
  extract_lets +onlyGivenNames done n ss
  have hd (st res : Nat) : (done s st res).memOk = true := completePacket_memOk h
  split
  · exact hd _ _
  split
  · exact hd _ _
  split
  · exact hd _ _
  extract_lets +onlyGivenNames d s1 ids
  have h1 : s1.memOk = true := foldl_memOk' (fun _ _ hs => by simp [hs]) _ h
  exact settleLoads_memOk h1

theorem execLoad_memOk {addr len ctx s} (h : s.memOk = true) : outMemOk (execLoad addr len ctx s) = true :=
  atPacket_memOk h fun q o s1 ht => by simp [ht]

@[simp] theorem loadAnswered_memOk {s q failed} (h : s.memOk = true) : (loadAnswered s q failed).memOk = true := by
  simp only [loadAnswered]
  (repeat' split) <;> simp [h]

@[simp] theorem askUnload_memOk {s q o handle} (h : s.memOk = true) : (askUnload s q o handle).memOk = true := by
  unfold askUnload
  split <;> simp [h]

/-! ### Machine/Hours -/

@[simp] theorem healthEvent_memOk {s kind unit sub detail} (h : s.memOk = true) : (healthEvent s kind unit sub detail).memOk = true := by
  simp only [healthEvent]
  split <;> simp [h, Mem.writeN_wf]

@[simp] theorem deviceEvent_memOk {s kind detail} (h : s.memOk = true) : (deviceEvent s kind detail).memOk = true := by simp [deviceEvent, h]
@[simp] theorem setLink_memOk (s stack dir x) : (setLink s stack dir x).memOk = s.memOk := rfl
@[simp] theorem fenceKv_memOk (s id pc) : (fenceKv s id pc).memOk = s.memOk := rfl

@[simp] theorem fenceRider_memOk (pc s r) : (fenceRider pc s r).memOk = s.memOk := by
  unfold fenceRider
  (repeat' split) <;> simp

@[simp] theorem fenceLanding_memOk (s pc) : (fenceLanding s pc).memOk = s.memOk := by
  unfold fenceLanding
  rw [fenceOverflow_memOk, foldl_memOk (fenceRider_memOk pc), setLanding_memOk]

@[simp] theorem fenceLink_memOk {s stack dir x} (h : s.memOk = true) : (fenceLink s stack dir x).memOk = true := by
  refine healthEvent_memOk ?_
  rw [foldl_memOk fenceLanding_memOk]
  exact h

@[simp] theorem replayFails_memOk {s stack dir lane flits} (h : s.memOk = true) : (replayFails s stack dir lane flits).memOk = true := by
  unfold replayFails
  simp [h]

theorem execLinkReplay_memOk {s} (h : s.memOk = true) : outMemOk (execLinkReplay s) = true := by
  unfold execLinkReplay
  split <;> simp [h]

theorem execLinkFenced_memOk {s} (h : s.memOk = true) : outMemOk (execLinkFenced s) = true := by
  unfold execLinkFenced
  split <;> simp [h]

theorem execRepairBoundary_memOk {s} (h : s.memOk = true) : outMemOk (execRepairBoundary s) = true := by
  simp only [execRepairBoundary]
  (repeat' split) <;> simp [h]

theorem execBankPark_memOk {s} (h : s.memOk = true) : outMemOk (execBankPark s) = true := by
  unfold execBankPark
  split <;> simp [h]

@[simp] theorem repairRow_memOk {s pc bank row} (h : s.memOk = true) : (repairRow s pc bank row).memOk = true := by
  simp only [repairRow]
  (repeat' split) <;> simp [h]

@[simp] theorem selfTest_memOk {s pc failing ended} (h : s.memOk = true) : (selfTest s pc failing ended).memOk = true := by
  unfold selfTest
  split
  · exact h
  · exact foldl_memOk' (fun _ _ hs => repairRow_memOk hs) _ h

theorem execBankTest_memOk {s} (h : s.memOk = true) : outMemOk (execBankTest s) = true := by
  unfold execBankTest
  split
  · simp [h]
  · dsimp only
    split
    · exact h
    split
    · exact h
    · exact foldl_memOk' (fun _ _ hs => repairRow_memOk hs) _ h
  · rfl

theorem execBankUnpark_memOk {s} (h : s.memOk = true) : outMemOk (execBankUnpark s) = true := by
  simp only [execBankUnpark]
  (repeat' split) <;> simp [h]

theorem execCfgScrub_memOk {s} (h : s.memOk = true) : outMemOk (execCfgScrub s) = true := by
  unfold execCfgScrub
  (repeat' split) <;> simp [h]

@[simp] theorem strike_memOk {s u} (h : s.memOk = true) : (strike s u).memOk = true := by
  cases u with
  | scratch w => exact h
  | ram w => exact h
  | granule a => exact h
  | sram stack memory entry => exact foldl_memOk' (fun _ _ hs => by simp [hs]) _ (healthEvent_memOk h)
  | corrected memory => exact h

theorem execPtpLock_memOk {s} (h : s.memOk = true) : outMemOk (execPtpLock s) = true := by
  unfold execPtpLock
  split <;> simp [h]

theorem execPtpLockLoss_memOk {s} (h : s.memOk = true) : outMemOk (execPtpLockLoss s) = true := by
  unfold execPtpLockLoss
  split <;> simp [h]

theorem execFeatureAccept_memOk {s} (h : s.memOk = true) : outMemOk (execFeatureAccept s) = true := by
  unfold execFeatureAccept
  split <;> simp [h]

theorem execGetMeasurements_memOk {s} (h : s.memOk = true) : outMemOk (execGetMeasurements s) = true := by
  unfold execGetMeasurements
  split <;> simp [h]

theorem execKeyExchange_memOk {s} (h : s.memOk = true) : outMemOk (execKeyExchange s) = true := by
  unfold execKeyExchange
  split <;> simp [h]

@[simp] theorem handOver_memOk (s qs canary) : (handOver s qs canary).memOk = s.memOk := foldl_memOk (fun _ _ => by simp) _ _

theorem execFirmwareImage_memOk {s} (h : s.memOk = true) : outMemOk (execFirmwareImage s) = true := by
  unfold execFirmwareImage
  split <;> simp [h]

@[simp] theorem canaryWatch_memOk (s) : (canaryWatch s).memOk = s.memOk := by
  unfold canaryWatch
  split <;> simp

@[simp] theorem endCanary_memOk (s c) : (endCanary s c).memOk = s.memOk := by simp [endCanary]

theorem execCanaryCommit_memOk {s} (h : s.memOk = true) : outMemOk (execCanaryCommit s) = true := by
  unfold execCanaryCommit
  (repeat' split) <;> simp [h]

theorem execCanaryRevert_memOk {s} (h : s.memOk = true) : outMemOk (execCanaryRevert s) = true := by
  unfold execCanaryRevert
  (repeat' split) <;> simp [h]

@[simp] theorem wipe_memOk {s} (h : s.memOk = true) : (wipe s).memOk = true :=
  memOk_change h (fun _ => rfl) (fun _ => rfl) (fun _ => rfl) id id

theorem execReset_memOk {s} (h : s.memOk = true) : outMemOk (execReset s) = true := by
  unfold execReset
  split <;> simp [h]

theorem execWipeComplete_memOk {s} (h : s.memOk = true) : outMemOk (execWipeComplete s) = true := by
  unfold execWipeComplete
  split <;> simp [h]

theorem execLcChange_memOk {s} (h : s.memOk = true) : outMemOk (execLcChange s) = true := by
  unfold execLcChange
  split <;> simp [h]

theorem execThermalTrip_memOk {s} (h : s.memOk = true) : outMemOk (execThermalTrip s) = true := by
  unfold execThermalTrip
  split <;> simp [h]

theorem execNetworkAcknowledgement_memOk {s} (h : s.memOk = true) : outMemOk (execNetworkAcknowledgement s) = true := by
  unfold execNetworkAcknowledgement
  split <;> simp [h]

/-! ### Machine/IntNodes -/

theorem execIcmp_memOk {w cond s} (h : s.memOk = true) : outMemOk (execIcmp w cond s) = true := fireCalc_memOk h

/-! ### Machine/Packets -/

theorem execLaunch_memOk {p s} (h : s.memOk = true) : outMemOk (execLaunch p s) = true := atPacket_memOk h fun q o s1 ht => by simp [ht]

theorem execBindPacket_memOk {tq ticket ops region tile s} (h : s.memOk = true) : outMemOk (execBindPacket tq ticket ops region tile s) = true := by
  refine atPacket_memOk h fun q o s1 ht => ?_
  simp [ht]
  split <;> simp [ht]

theorem execUnload_memOk {handle s} (h : s.memOk = true) : outMemOk (execUnload handle s) = true := atPacket_memOk h fun q o s1 ht => by simp [ht]

@[simp] theorem recheckQueue_memOk {s q} (h : s.memOk = true) : (recheckQueue s q).memOk = true := by
  unfold recheckQueue
  extract_lets +onlyGivenNames x s1
  have h1 : s1.memOk = true := foldl_memOk' (fun _ _ hs => by split <;> simp [hs]) _ h
  split
  · exact launchOver_memOk h1
  · exact h1

@[simp] theorem setQueueTo_memOk {s q ctx ring entries flags} (h : s.memOk = true) : (setQueueTo s q ctx ring entries flags).memOk = true :=
  by simp [setQueueTo, h]

theorem execQset_memOk {tq ctx ring entries flags s} (h : s.memOk = true) : outMemOk (execQset tq ctx ring entries flags s) = true :=
  atManagement_memOk h fun q o s1 ht => by simp [ht]

@[simp] theorem resetQueue_memOk {s q} (h : s.memOk = true) : (resetQueue s q).memOk = true := by
  unfold resetQueue
  extract_lets +onlyGivenNames x s1 s2 s3
  have h2 : s2.memOk = true := by
    simp only [s2]
    split
    · exact launchOver_memOk h
    · exact h
  have h3 : s3.memOk = true := foldl_memOk' (fun _ _ hs => completePacket_memOk hs) _ h2
  rw [setQueue_memOk, h3]

theorem execQsetReset_memOk {tq ctx ring entries flags s} (h : s.memOk = true) : outMemOk (execQsetReset tq ctx ring entries flags s) = true :=
  atManagement_memOk h fun q o s1 h1 => by
    split
    · simp [h1]
    · exact packetDone_memOk (setQueueTo_memOk (resetQueue_memOk h1))

theorem execCtxset_memOk {ctx slice rects s} (h : s.memOk = true) : outMemOk (execCtxset ctx slice rects s) = true :=
  atManagement_memOk h fun q o s1 ht => by simp [ht]

theorem execSched_memOk {policy s} (h : s.memOk = true) : outMemOk (execSched policy s) = true := atManagement_memOk h fun q o s1 ht => by simp [ht]
theorem execKill_memOk {ctx s} (h : s.memOk = true) : outMemOk (execKill ctx s) = true := atPacket_memOk h fun q o s1 ht => by simp [ht]

@[simp] theorem tablesAhead_memOk (s) : (tablesAhead s).memOk = s.memOk :=
  foldl_memOk (fun _ _ => foldl_memOk (fun _ _ => setLanding_memOk ..) _ _) _ _

theorem execReachsetStage_memOk {stack pc slot entry s} (h : s.memOk = true) : outMemOk (execReachsetStage stack pc slot entry s) = true :=
  atManagement_memOk h fun q o s1 ht => by simp [ht]

theorem execReachsetCommit_memOk {stack pc slot entry s} (h : s.memOk = true) : outMemOk (execReachsetCommit stack pc slot entry s) = true :=
  atManagement_memOk h fun q o s1 ht => by simp [ht]

@[simp] theorem zeroExtent_memOk {s pc e} (h : s.memOk = true) : (zeroExtent s pc e).memOk = true := memOk_change h (Mem.clear_wf _ _ _) id id id id
@[simp] theorem clearTags_memOk (s pc slot) : (clearTags s pc slot).memOk = s.memOk := rfl

@[simp] theorem rekeyExtent_memOk {s pc e changed} (h : s.memOk = true) : (rekeyExtent s pc e changed).memOk = true :=
  memOk_change h (Mem.foldl_wf _ (fun _ _ hm => Mem.store_wf _ _ _ _ hm) _ _) id id id id

@[simp] theorem rekeyEntered_memOk {before s x} (h : s.memOk = true) : (rekeyEntered before s x).memOk = true := by
  simp only [rekeyEntered]
  split <;> simp [h]

@[simp] theorem zeroFreed_memOk {before s x} (h : s.memOk = true) : (zeroFreed before s x).memOk = true := by
  simp only [zeroFreed]
  split <;> simp [h]

@[simp] theorem applyEntry_memOk (s x) : (applyEntry s x).memOk = s.memOk := rfl

@[simp] theorem applyCommit_memOk {s es} (h : s.memOk = true) : (applyCommit s es).memOk = true := by
  have freed : (es.foldl (zeroFreed s) s).memOk = true := foldl_memOk' (fun _ _ hs => zeroFreed_memOk hs) es h
  have entered : (es.foldl (rekeyEntered s) (es.foldl (zeroFreed s) s)).memOk = true := foldl_memOk' (fun _ _ hs => rekeyEntered_memOk hs) es freed
  unfold applyCommit
  rw [setDev_memOk, foldl_memOk applyEntry_memOk]
  exact entered

theorem execReachTableApply_memOk {s} (h : s.memOk = true) : outMemOk (execReachTableApply s) = true := by
  unfold execReachTableApply
  (repeat' split) <;> simp [h]

theorem execPoolsetCreate_memOk {ctx stack pool npages vpn s} (h : s.memOk = true) : outMemOk (execPoolsetCreate ctx stack pool npages vpn s) = true :=
  atManagement_memOk h fun q o s1 ht => by simp [ht]

theorem execPoolsetDestroy_memOk {ctx stack pool npages vpn s} (h : s.memOk = true) : outMemOk (execPoolsetDestroy ctx stack pool npages vpn s) = true := by
  refine atManagement_memOk h fun q o s1 ht => ?_
  simp
  split <;> simp [ht]

@[simp] theorem rekeySlot_memOk {s stack slot} (h : s.memOk = true) : (rekeySlot s stack slot).memOk = true := by
  unfold rekeySlot
  split
  · exact h
  · exact foldl_memOk' (fun _ _ hs => foldl_memOk' (fun _ _ hy => rekeyExtent_memOk hy) _ hs) _ h

theorem execKeysetLoad_memOk {ctx stack slot kref s} (h : s.memOk = true) : outMemOk (execKeysetLoad ctx stack slot kref s) = true :=
  atManagement_memOk h fun q o s1 h1 => by
    split
    · simp [h1]
    split
    · simp [h1]
    · exact packetDone_memOk (foldl_memOk' (fun _ _ hs => by simp [hs]) _ h1)

theorem execKeysetErase_memOk {ctx stack slot kref s} (h : s.memOk = true) : outMemOk (execKeysetErase ctx stack slot kref s) = true :=
  atManagement_memOk h fun q o s1 h1 => by
    split
    · simp [h1]
    · exact packetDone_memOk (foldl_memOk' (fun _ _ hs => by simp [hs]) _ h1)

theorem execKeysetPolicy_memOk {ctx stack slot kref s} (h : s.memOk = true) : outMemOk (execKeysetPolicy ctx stack slot kref s) = true :=
  atManagement_memOk h fun q o s1 ht => by simp [ht]

@[simp] theorem mapPage_memOk (s c v first crn flags i) : (mapPage s c v first crn flags i).memOk = s.memOk := by
  simp only [mapPage]
  split <;> simp

theorem execCtxreachMap_memOk {ctx vpn npages first ffirst fpool crn flags s} (h : s.memOk = true) :
    outMemOk (execCtxreachMap ctx vpn npages first ffirst fpool crn flags s) = true :=
  atManagement_memOk h fun q o s1 h1 => by
    extract_lets +onlyGivenNames c v
    split
    · simp [h1]
    extract_lets +onlyGivenNames s2
    have h2 : s2.memOk = true := foldl_memOk' (fun _ _ hs => by simp [hs]) _ h1
    exact packetDone_memOk h2

theorem execCtxreachUnmap_memOk {ctx vpn npages s} (h : s.memOk = true) : outMemOk (execCtxreachUnmap ctx vpn npages s) = true :=
  atManagement_memOk h fun q o s1 ht => by simp [ht]

theorem execCtxreachRole_memOk {ctx crn role s} (h : s.memOk = true) : outMemOk (execCtxreachRole ctx crn role s) = true :=
  atManagement_memOk h fun q o s1 ht => by simp [ht]

theorem execCtxreachFarpool_memOk {ctx fpool fpages fep fbase s} (h : s.memOk = true) : outMemOk (execCtxreachFarpool ctx fpool fpages fep fbase s) = true :=
  atManagement_memOk h fun q o s1 ht => by simp [ht]

/-! ### Machine/SysNodes -/

theorem execTrap_memOk {w code s} (h : s.memOk = true) : outMemOk (execTrap w code s) = true := fireSlot_memOk h fun k n o => by simp [h]
@[simp] theorem fireRead_memOk {f pay s} (h : s.memOk = true) : outMemOk (fireRead f pay s) = true := fireSlot_memOk h fun k n o => by simp [h]
theorem execDtime_memOk {w s} (h : s.memOk = true) : outMemOk (execDtime w s) = true := fireRead_memOk h
theorem execTileid_memOk {w s} (h : s.memOk = true) : outMemOk (execTileid w s) = true := fireRead_memOk h

theorem execStat_memOk {w s} (h : s.memOk = true) : outMemOk (execStat w s) = true := by
  simp only [execStat]
  refine atSlot_memOk h fun k n sl => ?_
  split <;> simp [h]

/-! ### Machine/Dispatch -/

/-- Every instruction keeps the memories canonical. -/
theorem exec_memOk {s : State} (h : s.memOk = true) : ∀ i : Instr, outMemOk (exec i s) = true
  | .add .. => fireCalc_memOk h
  | .sub .. => fireCalc_memOk h
  | .mul .. => fireCalc_memOk h
  | .mulh .. => fireCalc_memOk h
  | .madd .. => fireCalc_memOk h
  | .div .. => fireCalc_memOk h
  | .rem .. => fireCalc_memOk h
  | .neg .. => fireCalc_memOk h
  | .abs .. => fireCalc_memOk h
  | .min .. => fireCalc_memOk h
  | .max .. => fireCalc_memOk h
  | .icmp .. => execIcmp_memOk h
  | .and .. => fireCalc_memOk h
  | .or .. => fireCalc_memOk h
  | .xor .. => fireCalc_memOk h
  | .not .. => fireCalc_memOk h
  | .andn .. => fireCalc_memOk h
  | .shl .. => fireCalc_memOk h
  | .shr .. => fireCalc_memOk h
  | .sra .. => fireCalc_memOk h
  | .rotl .. => fireCalc_memOk h
  | .clz .. => fireCalc_memOk h
  | .popc .. => fireCalc_memOk h
  | .bfx .. => fireCalc_memOk h
  | .bfi .. => fireCalc_memOk h
  | .addi .. => fireCalc_memOk h
  | .fadd .. => fireCalc_memOk h
  | .fsub .. => fireCalc_memOk h
  | .fmul .. => fireCalc_memOk h
  | .fma .. => fireCalc_memOk h
  | .fms .. => fireCalc_memOk h
  | .fnma .. => fireCalc_memOk h
  | .fmin .. => fireCalc_memOk h
  | .fmax .. => fireCalc_memOk h
  | .fabs .. => fireCalc_memOk h
  | .fneg .. => fireCalc_memOk h
  | .fcpsgn .. => fireCalc_memOk h
  | .fcmp .. => execFcmp_memOk h
  | .fclass .. => execFclass_memOk h
  | .fdiv .. => fireCalc_memOk h
  | .fsqrt .. => fireCalc_memOk h
  | .frcp .. => fireCalc_memOk h
  | .frsqrt .. => fireCalc_memOk h
  | .exp2f .. => fireCalc_memOk h
  | .log2f .. => fireCalc_memOk h
  | .ldx .. => fireCalc_memOk h
  | .rndi .. => execRndi_memOk h
  | .cvt .. => execCvt_memOk h
  | .pack .. => execPack_memOk h
  | .unpack .. => execUnpack_memOk h
  | .perm .. => fireCalc_memOk h
  | .bcast .. => execBcast_memOk h
  | .rsum .. => execRsum_memOk h
  | .rmin .. => execRmin_memOk h
  | .rmax .. => execRmax_memOk h
  | .psum .. => execPsum_memOk h
  | .pmin .. => execPmin_memOk h
  | .pmax .. => execPmax_memOk h
  | .lidx .. => execLidx_memOk h
  | .mcount .. => execMcount_memOk h
  | .mov .. => fireMove_memOk h
  | .sel .. => fireMove_memOk h
  | .steer .. => steerTo_memOk h
  | .merge .. => execMerge_memOk h
  | .gate .. => execGate_memOk h
  | .dup .. => fireCounted_memOk h
  | .sink .. => execSink_memOk h
  | .const .. => execConst_memOk h
  | .seqgen .. => execSeqgen_memOk h
  | .tagGet .. => fireMove_memOk h
  | .tagSet .. => fireMove_memOk h
  | .spawn .. => execSpawn_memOk h
  | .jump .. => execJump_memOk h
  | .loop .. => execLoop_memOk h
  | .retire .. => execRetire_memOk h
  | .widFld .. => execWidFld_memOk h
  | .widLvl .. => execWidLvl_memOk h
  | .ctlS .. => ctlTake_memOk h
  | .ctlP .. => ctlTake_memOk h
  | .ctlQ .. => ctlTake_memOk h
  | .join .. => execJoin_memOk h
  | .fenceSc .. => execFenceSc_memOk h
  | .sluiceLocSnd .. => execSluiceLocSnd_memOk h
  | .sluiceXrSnd .. => execSluiceXrSnd_memOk h
  | .sluiceXrRcv .. => execSluiceXrRcv_memOk h
  | .censusUp .. => fireCounted_memOk h
  | .censusDn .. => fireCounted_memOk h
  | .spld .. => execSpld_memOk h
  | .spst .. => execSpst_memOk h
  | .spatom .. => execSpatom_memOk h
  | .spown .. => execSpown_memOk h
  | .xlat .. => execXlat_memOk h
  | .gaddr .. => execGaddr_memOk h
  | .resume .. => execResume_memOk h
  | .balloc .. => fireBlock_memOk h
  | .bfree .. => fireBlock_memOk h
  | .bappend .. => fireBlock_memOk h
  | .blook .. => fireBlock_memOk h
  | .btrim .. => fireBlock_memOk h
  | .mma .. => fireMop_memOk h
  | .mmaAcc .. => fireMop_memOk h
  | .loadw .. => fireMop_memOk h
  | .swapw .. => fireMop_memOk h
  | .drain .. => fireMop_memOk h
  | .zero .. => fireMop_memOk h
  | .rowtag .. => execRowtag_memOk h
  | .rprog .. => execRprog_memOk h
  | .pj .. => execPj_memOk h
  | .pjp .. => execPjp_memOk h
  | .pjs .. => execPjs_memOk h
  | .pja .. => execPja_memOk h
  | .trap .. => execTrap_memOk h
  | .dtime .. => execDtime_memOk h
  | .tileid .. => execTileid_memOk h
  | .stat .. => execStat_memOk h
  | .seqAdd .. => execSeqAdd_memOk h
  | .seqSub .. => execSeqSub_memOk h
  | .seqAnd .. => execSeqAnd_memOk h
  | .seqOr .. => execSeqOr_memOk h
  | .seqXor .. => execSeqXor_memOk h
  | .seqShl .. => execSeqShl_memOk h
  | .seqShr .. => execSeqShr_memOk h
  | .seqSra .. => execSeqSra_memOk h
  | .seqMul .. => execSeqMul_memOk h
  | .seqMulh .. => execSeqMulh_memOk h
  | .seqSlt .. => execSeqSlt_memOk h
  | .seqSltu .. => execSeqSltu_memOk h
  | .seqMin .. => execSeqMin_memOk h
  | .seqMax .. => execSeqMax_memOk h
  | .seqDiv .. => execSeqDiv_memOk h
  | .seqRem .. => execSeqRem_memOk h
  | .seqAddi .. => execSeqAddi_memOk h
  | .seqAndi .. => execSeqAndi_memOk h
  | .seqOri .. => execSeqOri_memOk h
  | .seqXori .. => execSeqXori_memOk h
  | .seqShli .. => execSeqShli_memOk h
  | .seqShri .. => execSeqShri_memOk h
  | .seqSrai .. => execSeqSrai_memOk h
  | .seqSlti .. => execSeqSlti_memOk h
  | .seqInsh .. => execSeqInsh_memOk h
  | .seqLd .. => execSeqLd_memOk h
  | .seqSt .. => execSeqSt_memOk h
  | .seqLdw .. => execSeqLdw_memOk h
  | .seqStw .. => execSeqStw_memOk h
  | .seqBeq .. => execSeqBeq_memOk h
  | .seqBne .. => execSeqBne_memOk h
  | .seqBlt .. => execSeqBlt_memOk h
  | .seqBge .. => execSeqBge_memOk h
  | .seqBltu .. => execSeqBltu_memOk h
  | .seqBgeu .. => execSeqBgeu_memOk h
  | .seqJ .. => execSeqJ_memOk h
  | .seqJal .. => execSeqJal_memOk h
  | .seqJr .. => execSeqJr_memOk h
  | .seqSget .. => execSeqSget_memOk h
  | .seqSset .. => execSeqSset_memOk h
  | .seqCset .. => execSeqCset_memOk h
  | .seqCget .. => execSeqCget_memOk h
  | .seqCclr .. => execSeqCclr_memOk h
  | .seqCclrAll .. => execSeqCclrAll_memOk h
  | .seqCissue .. => execSeqCissue_memOk h
  | .seqTokGive .. => execSeqTokGive_memOk h
  | .seqTokTake .. => execSeqTokTake_memOk h
  | .seqTokPoll .. => execSeqTokPoll_memOk h
  | .seqCfgLoad .. => execSeqCfgLoad_memOk h
  | .seqCfgWait .. => execSeqCfgWait_memOk h
  | .seqSeed .. => execSeqSeed_memOk h
  | .seqCensusWait .. => execSeqCensusWait_memOk h
  | .seqLaunchTail .. => execSeqLaunchTail_memOk h
  | .seqWfe .. => execSeqWfe_memOk h
  | .seqFence .. => execSeqFence_memOk h
  | .seqTrap .. => execSeqTrap_memOk h
  | .seqHalt => execSeqHalt_memOk h
  | .boardFlow hd o => @execBoardFlow_memOk hd o _ h
  | .boardSnap hd o => @execBoardSnap_memOk hd o _ h
  | .gather hd rid ort => @execGather_memOk hd rid ort _ h
  | .sieve hd o => @execSieve_memOk hd o _ h
  | .fold hd o => @execFold_memOk hd o _ h
  | .kvride hd o => @execKvride_memOk hd o _ h
  | .alight hd rid => @execAlight_memOk hd rid _ h
  | .updW .. => updStart_memOk h
  | .updAdd .. => updStart_memOk h
  | .updMax .. => updStart_memOk h
  | .updScadd .. => updStart_memOk h
  | .copy hd o => @execCopy_memOk hd o _ h
  | .pagein hd o => @execPagein_memOk hd o _ h
  | .pageout hd o => @execPageout_memOk hd o _ h
  | .bseqNew hd o => @execBseqNew_memOk hd o _ h
  | .bseqRestore hd o => @execBseqRestore_memOk hd o _ h
  | .bseqAddg hd o => @execBseqAddg_memOk hd o _ h
  | .bdrop hd seqid stack => @execBdrop_memOk hd seqid stack _ h
  | .bindStart .. => bindFrom_memOk h
  | .bindResume .. => bindFrom_memOk h
  | .unbind hd => @execUnbind_memOk hd _ h
  | .eos hd ort tag => @execEos_memOk hd ort tag _ h
  | .tempo hd round m => @execTempo_memOk hd round m _ h
  | .drainCmd hd m => @execDrainCmd_memOk hd m _ h
  | .fenceE hd eng => @execFenceE_memOk hd eng _ h
  | .cfgld .. => execCfgld_memOk h
  | .statc hd reach seg => @execStatc_memOk hd reach seg _ h
  | .launch .. => execLaunch_memOk h
  | .bindPacket .. => execBindPacket_memOk h
  | .load .. => execLoad_memOk h
  | .unload .. => execUnload_memOk h
  | .qset .. => execQset_memOk h
  | .qsetReset .. => execQsetReset_memOk h
  | .ctxset .. => execCtxset_memOk h
  | .reachsetStage .. => execReachsetStage_memOk h
  | .reachsetCommit .. => execReachsetCommit_memOk h
  | .sched .. => execSched_memOk h
  | .kill .. => execKill_memOk h
  | .poolsetCreate .. => execPoolsetCreate_memOk h
  | .poolsetDestroy .. => execPoolsetDestroy_memOk h
  | .keysetLoad .. => execKeysetLoad_memOk h
  | .keysetErase .. => execKeysetErase_memOk h
  | .keysetPolicy .. => execKeysetPolicy_memOk h
  | .ctxreachMap .. => execCtxreachMap_memOk h
  | .ctxreachUnmap .. => execCtxreachUnmap_memOk h
  | .ctxreachRole .. => execCtxreachRole_memOk h
  | .ctxreachFarpool .. => execCtxreachFarpool_memOk h
  | .seqgenToken => execSeqgenToken_memOk h
  | .ctlPermit => execCtlPermit_memOk h
  | .ctlDone => execCtlDone_memOk h
  | .ownerApply => execOwnerApply_memOk h
  | .spOwnUpdate => execSpOwnUpdate_memOk h
  | .spQRequest => execSpQRequest_memOk h
  | .translationFill => execTranslationFill_memOk h
  | .invalidationComplete => execInvalidationComplete_memOk h
  | .blockEngineServe => execBlockEngineServe_memOk h
  | .tableRestore => execTableRestore_memOk h
  | .mxMma => mxStep_memOk h
  | .mxMmaAcc => mxStep_memOk h
  | .mxLoadw => mxStep_memOk h
  | .mxSwapw => mxStep_memOk h
  | .mxDrain => mxStep_memOk h
  | .mxZero => mxStep_memOk h
  | .mxMarker => execMxMarker_memOk h
  | .pjInToken => execPjInToken_memOk h
  | .pjAdjToken => execPjAdjToken_memOk h
  | .pjProject => execPjProject_memOk h
  | .pjAdjoint => execPjAdjoint_memOk h
  | .pjMarker => execPjMarker_memOk h
  | .tokenDeliver => execTokenDeliver_memOk h
  | .channelDecode => execChannelDecode_memOk h
  | .scaleToken => execScaleToken_memOk h
  | .cissueVerdict => execCissueVerdict_memOk h
  | .tkqTake => execTkqTake_memOk h
  | .fifoTake => execFifoTake_memOk h
  | .eventEnqueue => execEventEnqueue_memOk h
  | .commandStart => execCommandStart_memOk h
  | .commandRetire => execCommandRetire_memOk h
  | .kvrideAdmit => execKvrideAdmit_memOk h
  | .updTokenTake => execUpdTokenTake_memOk h
  | .addressGenerate => execAddressGenerate_memOk h
  | .rideReserve => execRideReserve_memOk h
  | .rideCommit => execRideCommit_memOk h
  | .riderBoard => execRiderBoard_memOk h
  | .segmentVisit => execSegmentVisit_memOk h
  | .gatherRequest => execGatherRequest_memOk h
  | .postingAccept => execPostingAccept_memOk h
  | .eddyDivert => execEddyDivert_memOk h
  | .resumeToken => execResumeToken_memOk h
  | .firmwareTierEvent => execFirmwareTierEvent_memOk h
  | .roundMark => execRoundMark_memOk h
  | .tempoCommit => execTempoCommit_memOk h
  | .phaseEnd => execPhaseEnd_memOk h
  | .configurationComplete => execConfigurationComplete_memOk h
  | .entryDelivery => execEntryDelivery_memOk h
  | .jumpDelivery => execJumpDelivery_memOk h
  | .kernelRetire => execKernelRetire_memOk h
  | .admissionDecision => execAdmissionDecision_memOk h
  | .sliceExpiry => execSliceExpiry_memOk h
  | .preempt => execPreempt_memOk h
  | .trapRecordEnter => execTrapRecordEnter_memOk h
  | .reachTableApply => execReachTableApply_memOk h
  | .qres => execQres_memOk h
  | .qcommit => execQcommit_memOk h
  | .registerWrite => execRegisterWrite_memOk h
  | .tqactResume => execTqactResume_memOk h
  | .tqactNext => execTqactNext_memOk h
  | .tqactKill => execTqactKill_memOk h
  | .linkReplay => execLinkReplay_memOk h
  | .repairBoundary => execRepairBoundary_memOk h
  | .linkFenced => execLinkFenced_memOk h
  | .bankPark => execBankPark_memOk h
  | .bankTest => execBankTest_memOk h
  | .bankUnpark => execBankUnpark_memOk h
  | .cfgScrub => execCfgScrub_memOk h
  | .ptpLock => execPtpLock_memOk h
  | .ptpLockLoss => execPtpLockLoss_memOk h
  | .featureAccept => execFeatureAccept_memOk h
  | .getMeasurements => execGetMeasurements_memOk h
  | .keyExchange => execKeyExchange_memOk h
  | .firmwareImage => execFirmwareImage_memOk h
  | .canaryCommit => execCanaryCommit_memOk h
  | .canaryRevert => execCanaryRevert_memOk h
  | .lcChange => execLcChange_memOk h
  | .reset => execReset_memOk h
  | .wipeComplete => execWipeComplete_memOk h
  | .thermalTrip => execThermalTrip_memOk h
  | .seqIllegalFetch => execSeqIllegalFetch_memOk h
  | .networkAcknowledgement => execNetworkAcknowledgement_memOk h

/-! ### Machine/Fetch -/

@[simp] theorem turnAway_memOk {s q e} (h : s.memOk = true) : (turnAway s q e).memOk = true := by
  unfold turnAway
  split <;> simp [h]

@[simp] theorem turnAwayFocus_memOk {s e} (h : s.memOk = true) : (turnAwayFocus s e).memOk = true := by
  unfold turnAwayFocus
  split <;> simp [h]

@[simp] theorem clockPass_memOk (s ns) : (clockPass s ns).memOk = s.memOk := by simp [clockPass]
@[simp] theorem settleQuiet_memOk (s) : (settleQuiet s).memOk = s.memOk := rfl

/-! ### Machine/Step -/

theorem issueAt_memOk {s} (h : s.memOk = true) (a) : outMemOk (issueAt a s) = true := by
  have hf : State.memOk { s with focus := a } = true := h
  unfold issueAt
  split
  · exact exec_memOk hf _
  · exact turnAwayFocus_memOk hf
  · exact hf

theorem runMove_memOk {s} (h : s.memOk = true) (m : Move) : outMemOk (runMove m s) = true := by
  cases m with
  | issue a => exact issueAt_memOk h a
  | act a i =>
    have hf : State.memOk { s with focus := a } = true := h
    simp only [runMove]
    split
    · exact exec_memOk hf _
    · exact hf
  | clock ns => exact (clockPass_memOk s ns).trans h
  | upset u => exact strike_memOk h

theorem settled_memOk {o : Out} (h : outMemOk o = true) : outMemOk (settled o) = true := by
  cases o with
  | next s => exact (settleLines_memOk _).trans ((settleQuiet_memOk _).trans ((settleCands_memOk _).trans h))
  | fault e => rfl
  | refused e => rfl

/-- Every step keeps the memories canonical. -/
theorem step_memOk {s : State} (h : s.memOk = true) : outMemOk (step s) = true := by
  unfold step
  split
  case h_1 => exact h
  case h_2 m rest _ =>
    have hr : State.memOk { s with agenda := rest } = true := h
    exact settled_memOk (runMove_memOk hr m)

/-- Settles O54: every instruction keeps the memories canonical, and so do the other moves and what ends a step. -/
theorem memoryCanonical : Obligations.MemoryCanonical := by
  intro s t h e
  have ok := step_memOk h
  rwa [e] at ok

end Sys2Proof.Machine
end

section
/-! PROOF. Rounding to a format (02 R44): the pattern that `round` delivers lies at the exact magnitude or beside it, on the side that the mode names; beyond the format, the mode's overflow. -/

namespace Sys2Proof.Fp

/-! ### The magnitudes of patterns -/

/-- The magnitude of a pattern in units of 2^-K, the patterns after the largest finite one continuing the scale. -/
def mag (f : Fmt) (K p : Nat) : Nat :=
  (p % 2 ^ f.frac + (if p < 2 ^ f.frac then 0 else 2 ^ f.frac)) * 2 ^ ((f.emin + K).toNat + (max (p / 2 ^ f.frac) 1 - 1))

/-- A significand `n` at the scale `q`: with the carry out of the significand, it reads as the next power of two. -/
theorem mag_scaled (f : Fmt) (K q n : Nat) (normal : q = 0 ∨ 2 ^ f.frac ≤ n) (le : n ≤ 2 * 2 ^ f.frac) :
    mag f K (q * 2 ^ f.frac + n) = n * 2 ^ ((f.emin + K).toNat + q) := by
  have pos : 0 < 2 ^ f.frac := by positivity
  unfold mag
  generalize 2 ^ f.frac = F at *
  have split (a b : Nat) (h : q * F + n = a * F + b) (lt : b < F) : (q * F + n) / F = a ∧ (q * F + n) % F = b := by
    rw [h, Nat.mul_comm a, Nat.mul_add_div pos, Nat.mul_add_mod, Nat.div_eq_of_lt lt, Nat.mod_eq_of_lt lt]
    exact ⟨rfl, rfl⟩
  rcases lt_trichotomy n F with h | h | h
  · have q0 : q = 0 := normal.resolve_right (by omega)
    subst q0
    simp [Nat.mod_eq_of_lt h, h, Nat.div_eq_of_lt h]
  · obtain ⟨d, r⟩ := split (q + 1) 0 (by rw [h]; ring) pos
    rw [d, r, if_neg (by omega), h]
    simp
  · by_cases carry : n = 2 * F
    · obtain ⟨d, r⟩ := split (q + 2) 0 (by rw [carry]; ring) pos
      rw [d, r, if_neg (by omega), carry, show max (q + 2) 1 - 1 = q + 1 by omega, ← Nat.add_assoc, Nat.pow_succ]
      ring
    · obtain ⟨d, r⟩ := split (q + 1) (n - F) (by rw [Nat.add_mul, Nat.one_mul]; omega) (by omega)
      rw [d, r, if_neg (by omega), Nat.sub_add_cancel h.le]
      simp

/-- Every pattern is a significand at a scale. -/
theorem exists_scaled (f : Fmt) (p : Nat) : ∃ q n, p = q * 2 ^ f.frac + n ∧ (q = 0 ∨ 2 ^ f.frac ≤ n) ∧ n < 2 * 2 ^ f.frac := by
  have lt : p % 2 ^ f.frac < 2 ^ f.frac := Nat.mod_lt _ (by positivity)
  have div_mod := Nat.div_add_mod' p (2 ^ f.frac)
  cases h : p / 2 ^ f.frac with
  | zero => exact ⟨0, p % 2 ^ f.frac, by rw [h] at div_mod; exact div_mod.symm, .inl rfl, by omega⟩
  | succ q => exact ⟨q, 2 ^ f.frac + p % 2 ^ f.frac, by rw [h, Nat.add_mul] at div_mod; omega, .inr (by omega), by omega⟩

theorem mag_strictMono (f : Fmt) (K : Nat) : StrictMono (mag f K) := by
  refine strictMono_nat_of_lt_succ fun p => ?_
  obtain ⟨q, n, rfl, normal, lt⟩ := exists_scaled f p
  rw [mag_scaled f K q n normal lt.le, Nat.add_assoc, mag_scaled f K q (n + 1) (by omega) lt]
  exact Nat.mul_lt_mul_of_pos_right n.lt_succ_self (by positivity)

/-! ### What `round` computes -/

/-- A magnitude `v` in units of 2^-K cut at the last place that the format keeps: the significand `n` at the scale `q`, and the remainder `r` of `u` units of that place. -/
structure CutAt (f : Fmt) (K v q n r u : Nat) : Prop where
  normal : q = 0 ∨ 2 ^ f.frac ≤ n
  lt     : n < 2 * 2 ^ f.frac
  rem    : r < u
  value  : v * u = (n * u + r) * 2 ^ ((f.emin + K).toNat + q)

theorem bitLen_spec {m : Nat} (hm : m ≠ 0) : 2 ^ (bitLen m - 1) ≤ m ∧ m < 2 ^ bitLen m ∧ 1 ≤ bitLen m := by
  simp only [bitLen, beq_iff_eq, hm, if_false, Nat.add_sub_cancel]
  exact ⟨Nat.log2_self_le hm, Nat.lt_log2_self, by omega⟩

/-- `round` cuts the exact magnitude at the last place kept, steps to the next pattern when the remainder rounds up, and answers the mode's overflow from the pattern of infinity on. -/
theorem round_cut (f : Fmt) (mode : RMode) (neg : Bool) {m K : Nat} {e : Int} (hm : m ≠ 0) (he : 0 ≤ e + K) (hf : 0 ≤ f.emin + K) :
    ∃ q n r u, CutAt f K (m * 2 ^ (e + K).toNat) q n r u ∧
      (round f mode neg m e).bits =
        (let pat := q * 2 ^ f.frac + if roundUp mode neg n r u then n + 1 else n
         if f.infBits ≤ pat then overflow f mode neg else f.signed neg pat) := by
  obtain ⟨low, high, one⟩ := bitLen_spec hm
  generalize hL : bitLen m = L at *
  generalize ht : max (e + L - (f.frac + 1)) f.emin = t
  by_cases h : t ≤ e
  · refine ⟨(t - f.emin).toNat, m * 2 ^ (e - t).toNat, 0, 1, ⟨?_, ?_, Nat.one_pos, ?_⟩, ?_⟩
    · refine or_iff_not_imp_left.mpr fun above => ?_
      calc 2 ^ f.frac = 2 ^ (L - 1) * 2 ^ (e - t).toNat := by rw [← Nat.pow_add]; congr 1; omega
        _ ≤ m * 2 ^ (e - t).toNat := Nat.mul_le_mul_right _ low
    · calc m * 2 ^ (e - t).toNat < 2 ^ L * 2 ^ (e - t).toNat := Nat.mul_lt_mul_of_pos_right high (by positivity)
        _ = 2 ^ (L + (e - t).toNat) := (Nat.pow_add ..).symm
        _ ≤ 2 ^ (1 + f.frac) := Nat.pow_le_pow_right (by decide) (by omega)
        _ = 2 * 2 ^ f.frac := by rw [Nat.pow_add, Nat.pow_one]
    · rw [Nat.mul_one, Nat.mul_one, Nat.add_zero, Nat.mul_assoc, ← Nat.pow_add]
      congr 2
      omega
    · have down : roundUp mode neg (m * 2 ^ (e - t).toNat) 0 1 = false := by cases mode <;> simp [roundUp]
      simp only [round, beq_iff_eq, hm, if_false, hL, ht, h, if_true, down, Bool.false_eq_true]
      exact apply_ite Res.bits _ _ _
  · refine ⟨(t - f.emin).toNat, m / 2 ^ (t - e).toNat, m % 2 ^ (t - e).toNat, 2 ^ (t - e).toNat, ⟨?_, ?_, Nat.mod_lt _ (by positivity), ?_⟩, ?_⟩
    · refine or_iff_not_imp_left.mpr fun above => ?_
      rw [Nat.le_div_iff_mul_le (by positivity), ← Nat.pow_add]
      exact (Nat.pow_le_pow_right (by decide) (by omega)).trans low
    · rw [Nat.div_lt_iff_lt_mul (by positivity), Nat.mul_comm 2, ← Nat.pow_succ, ← Nat.pow_add]
      exact high.trans_le (Nat.pow_le_pow_right (by decide) (by omega))
    · rw [Nat.div_add_mod', Nat.mul_assoc, ← Nat.pow_add]
      congr 2
      omega
    · simp only [round, beq_iff_eq, hm, if_false, hL, ht, h]
      exact apply_ite Res.bits _ _ _

/-! ### Where the cut lies among the patterns -/

namespace CutAt

variable {f : Fmt} {K v q n r u : Nat} (h : CutAt f K v q n r u)
include h

theorem unit_pos : 0 < u := h.rem.pos

theorem mag_cut : mag f K (q * 2 ^ f.frac + n) = n * 2 ^ ((f.emin + K).toNat + q) := mag_scaled f K q n h.normal h.lt.le

theorem mag_next : mag f K (q * 2 ^ f.frac + n + 1) = (n + 1) * 2 ^ ((f.emin + K).toNat + q) :=
  mag_scaled f K q (n + 1) (by have := h.normal; omega) h.lt

/-- The exact magnitude times the units of a place, against the pattern cut off. -/
theorem scaled_eq : v * u = mag f K (q * 2 ^ f.frac + n) * u + r * 2 ^ ((f.emin + K).toNat + q) := by
  rw [h.value, h.mag_cut]; ring

theorem mag_cut_le : mag f K (q * 2 ^ f.frac + n) ≤ v :=
  Nat.le_of_mul_le_mul_right (h.scaled_eq ▸ Nat.le_add_right _ _) h.unit_pos

theorem lt_mag_next : v < mag f K (q * 2 ^ f.frac + n + 1) := by
  refine Nat.lt_of_mul_lt_mul_right (a := u) ?_
  rw [h.value, h.mag_next, Nat.mul_right_comm, Nat.add_mul n, Nat.one_mul]
  exact Nat.mul_lt_mul_of_pos_right (Nat.add_lt_add_left h.rem _) (by positivity)

/-- The cut is the largest pattern whose magnitude is at most the exact one. -/
theorem eq_cut {c : Nat} (le : mag f K c ≤ v) (lt : v < mag f K (c + 1)) : c = q * 2 ^ f.frac + n := by
  have below := (mag_strictMono f K).lt_iff_lt.mp (le.trans_lt h.lt_mag_next)
  have above := (mag_strictMono f K).lt_iff_lt.mp (h.mag_cut_le.trans_lt lt)
  omega

theorem exact_iff : v = mag f K (q * 2 ^ f.frac + n) ↔ r = 0 := by
  have pos := h.unit_pos
  have scale : 0 < 2 ^ ((f.emin + K).toNat + q) := by positivity
  rw [← Nat.mul_left_inj pos.ne', h.scaled_eq]
  simp

end CutAt

/-- A magnitude `v` between the pattern `c` and the next one rounds to the next one (R44). -/
def StepsUp (f : Fmt) (K : Nat) (mode : RMode) (neg : Bool) (c v : Nat) : Prop :=
  match mode with
  | .rn => mag f K c + mag f K (c + 1) < 2 * v ∨ (mag f K c + mag f K (c + 1) = 2 * v ∧ c % 2 = 1)
  | .rna => mag f K c + mag f K (c + 1) ≤ 2 * v
  | .rz => False
  | .ru => neg = false
  | .rd => neg = true

/-- The remainder against half a unit of the last place, as the magnitude against the middle of two patterns. -/
theorem CutAt.compare_half {f : Fmt} {K v q n r u : Nat} (h : CutAt f K v q n r u) :
    let c := q * 2 ^ f.frac + n
    (mag f K c + mag f K (c + 1) < 2 * v ↔ u < 2 * r) ∧ (mag f K c + mag f K (c + 1) = 2 * v ↔ 2 * r = u) := by
  intro c
  have P : 0 < 2 ^ ((f.emin + K).toNat + q) := by positivity
  have sum : (mag f K c + mag f K (c + 1)) * u = mag f K c * u * 2 + u * 2 ^ ((f.emin + K).toNat + q) := by
    rw [h.mag_cut, h.mag_next]; ring
  have twice : 2 * v * u = mag f K c * u * 2 + 2 * r * 2 ^ ((f.emin + K).toNat + q) := by
    rw [Nat.mul_assoc, h.scaled_eq]; ring
  rw [← Nat.mul_lt_mul_right h.unit_pos, ← Nat.mul_left_inj h.unit_pos.ne', sum, twice]
  constructor
  · rw [Nat.add_lt_add_iff_left, Nat.mul_lt_mul_right P]
  · rw [Nat.add_right_inj, Nat.mul_left_inj P.ne', eq_comm]

/-- An inexact cut rounds up exactly where the mode steps to the next pattern. -/
theorem CutAt.roundUp_iff {f : Fmt} {K v q n r u : Nat} (h : CutAt f K v q n r u) (frac : f.frac ≠ 0) (mode : RMode) (neg : Bool) (inexact : r ≠ 0) :
    roundUp mode neg n r u = true ↔ StepsUp f K mode neg (q * 2 ^ f.frac + n) v := by
  obtain ⟨beyondHalf, half⟩ := h.compare_half
  have parity : (q * 2 ^ f.frac + n) % 2 = n % 2 := by
    obtain ⟨k, hk⟩ := Nat.exists_eq_succ_of_ne_zero frac
    rw [hk, Nat.pow_succ, ← Nat.mul_assoc, Nat.mul_add_mod_self_right]
  cases mode with
  | rn => simp [roundUp, StepsUp, beyondHalf, half, parity]
  | rna =>
    simp only [StepsUp, Nat.le_iff_lt_or_eq, beyondHalf, half]
    simp [roundUp, inexact, Nat.le_iff_lt_or_eq, eq_comm (a := u)]
  | rz => simp [roundUp, StepsUp]
  | ru => simp [roundUp, StepsUp, inexact]
  | rd => simp [roundUp, StepsUp, inexact]

theorem CutAt.roundUp_exact {f : Fmt} {K v q n r u : Nat} (h : CutAt f K v q n r u) (mode : RMode) (neg : Bool) (whole : r = 0) :
    roundUp mode neg n r u = false := by
  have pos := h.unit_pos
  subst whole
  cases mode with
  | rn => simp [roundUp]; omega
  | rna | rz | ru | rd => simp [roundUp]

/-! ### R44 -/

/-- The modes whose overflow is an infinity. -/
theorem overflow_inf (f : Fmt) {mode : RMode} {neg : Bool} (h : mode = .rn ∨ mode = .rna ∨ (mode = .ru ∧ neg = false) ∨ (mode = .rd ∧ neg = true)) :
    overflow f mode neg = f.signed neg f.infBits := by
  obtain rfl | rfl | ⟨rfl, rfl⟩ | ⟨rfl, rfl⟩ := h <;> rfl

/-- A mode that steps up from the largest finite number overflows to the infinity. -/
theorem overflow_of_roundUp (f : Fmt) {mode : RMode} {neg : Bool} {n r u : Nat} (h : roundUp mode neg n r u = true) :
    overflow f mode neg = f.signed neg f.infBits := by
  apply overflow_inf
  cases mode <;> cases neg <;> simp [roundUp] at h ⊢

/-- `bits` is what R44 gives for the magnitude `v` in units of 2^-K: the pattern of that magnitude, the pattern below or above it as the mode says, or the mode's overflow. -/
structure RoundedOnce (f : Fmt) (K : Nat) (mode : RMode) (neg : Bool) (v bits : Nat) : Prop where
  exact  : ∀ c < f.infBits, v = mag f K c → bits = f.signed neg c
  up     : ∀ c < f.infBits, mag f K c < v → v < mag f K (c + 1) → StepsUp f K mode neg c v → bits = f.signed neg (c + 1)
  down   : ∀ c < f.infBits, mag f K c < v → v < mag f K (c + 1) → ¬StepsUp f K mode neg c v → bits = f.signed neg c
  beyond : mag f K f.infBits ≤ v → bits = overflow f mode neg

theorem roundedOnce_zero (f : Fmt) (K : Nat) (mode : RMode) (neg : Bool) : RoundedOnce f K mode neg 0 (f.signed neg 0) := by
  have mag_zero : mag f K 0 = 0 := by simp [mag]
  have inf_pos : 0 < f.infBits := by unfold Fmt.infBits; positivity
  refine ⟨fun c _ h => ?_, fun c _ h => absurd h (Nat.not_lt_zero _), fun c _ h => absurd h (Nat.not_lt_zero _), fun h => ?_⟩
  · rw [(mag_strictMono f K).injective (mag_zero.trans h)]
  · have := mag_strictMono f K inf_pos
    omega

theorem CutAt.roundedOnce {f : Fmt} {K v q n r u : Nat} (h : CutAt f K v q n r u) (frac : f.frac ≠ 0) (mode : RMode) (neg : Bool) {bits : Nat}
    (hb : bits = let pat := q * 2 ^ f.frac + if roundUp mode neg n r u then n + 1 else n
                 if f.infBits ≤ pat then overflow f mode neg else f.signed neg pat) :
    RoundedOnce f K mode neg v bits := by
  have stays (down : roundUp mode neg n r u = false) (fin : q * 2 ^ f.frac + n < f.infBits) : bits = f.signed neg (q * 2 ^ f.frac + n) := by
    simp [hb, down, Nat.not_le.mpr fin]
  have steps (up : roundUp mode neg n r u = true) (fin : q * 2 ^ f.frac + n < f.infBits) : bits = f.signed neg (q * 2 ^ f.frac + n + 1) := by
    simp only [hb, up, if_true, ← Nat.add_assoc]
    split
    next infinite => rw [overflow_of_roundUp f up, show f.infBits = q * 2 ^ f.frac + n + 1 by omega]
    next => rfl
  have inexact (lt : mag f K (q * 2 ^ f.frac + n) < v) : r ≠ 0 := fun zero => lt.ne' (h.exact_iff.mpr zero)
  constructor
  case exact =>
    intro c fin eq
    obtain rfl := h.eq_cut eq.ge (eq.trans_lt (mag_strictMono f K c.lt_succ_self))
    exact stays (h.roundUp_exact mode neg (h.exact_iff.mp eq)) fin
  case up =>
    intro c fin above below up
    obtain rfl := h.eq_cut above.le below
    exact steps ((h.roundUp_iff frac mode neg (inexact above)).mpr up) fin
  case down =>
    intro c fin above below down
    obtain rfl := h.eq_cut above.le below
    exact stays (Bool.eq_false_iff.mpr fun up => down ((h.roundUp_iff frac mode neg (inexact above)).mp up)) fin
  case beyond =>
    intro out
    have reached : f.infBits < q * 2 ^ f.frac + n + 1 := (mag_strictMono f K).lt_iff_lt.mp (out.trans_lt h.lt_mag_next)
    rw [hb]
    refine if_pos ?_
    split <;> omega

/-- `round` rounds an exact value once. -/
theorem round_roundedOnce {f : Fmt} (frac : f.frac ≠ 0) (mode : RMode) (neg : Bool) (m : Nat) {K : Nat} {e : Int} (he : 0 ≤ e + K) (hf : 0 ≤ f.emin + K) :
    RoundedOnce f K mode neg (m * 2 ^ (e + K).toNat) (round f mode neg m e).bits := by
  by_cases hm : m = 0
  · rw [hm, Nat.zero_mul]
    exact roundedOnce_zero f K mode neg
  · obtain ⟨q, n, r, u, cut, bits⟩ := round_cut f mode neg hm he hf
    exact cut.roundedOnce frac mode neg bits

end Sys2Proof.Fp
end

section
/-! PROOF. Sums, products and fused products of finite operands are formed exactly and rounded once (03 R71); and the statement O9, which asks for the exact result as a whole number. -/

namespace Sys2Proof.Fp

/-! ### Exact values -/

/-- An integer, negated where asked. -/
def negIf (b : Bool) (x : Int) : Int := if b then -x else x

/-- The exact value (-1)^neg * m * 2^e in units of 2^-K. -/
def units (K : Nat) (neg : Bool) (m : Nat) (e : Int) : Int := negIf neg (m * 2 ^ (e + K).toNat)

theorem units_xor (K : Nat) (b neg : Bool) (m : Nat) (e : Int) : units K (b ^^ neg) m e = negIf b (units K neg m e) := by
  cases b <;> cases neg <;> simp [units, negIf]

theorem units_not (K : Nat) (neg : Bool) (m : Nat) (e : Int) : units K (!neg) m e = -units K neg m e := by
  cases neg <;> simp [units, negIf]

/-- In finer units a value is a larger number of them. -/
theorem units_finer (K : Nat) (neg : Bool) (m : Nat) {e : Int} (he : 0 ≤ e + K) : units (K + K) neg m e = units K neg m e * 2 ^ K := by
  have exponent : (e + (K + K : Nat)).toNat = (e + K).toNat + K := by omega
  rw [units, exponent, pow_add]
  cases neg <;> simp [units, negIf] <;> ring

theorem units_mul (K : Nat) (a b : Bool) (m n : Nat) {e g : Int} (he : 0 ≤ e + K) (hg : 0 ≤ g + K) :
    units (K + K) (a != b) (m * n) (e + g) = units K a m e * units K b n g := by
  have exponent : (e + g + (K + K : Nat)).toNat = (e + K).toNat + (g + K).toNat := by omega
  rw [units, exponent, pow_add, Nat.cast_mul]
  cases a <;> cases b <;> simp [units, negIf] <;> ring

/-- An operand of a sum, brought down to the exponent of the sum. -/
theorem units_lowered (K : Nat) (a : Bool) (m : Nat) {e lo : Int} (le : lo ≤ e) (hlo : 0 ≤ lo + K) :
    negIf a (m * 2 ^ (e - lo).toNat) * 2 ^ (lo + K).toNat = units K a m e := by
  have exponent : (e + K).toNat = (e - lo).toNat + (lo + K).toNat := by omega
  rw [units, exponent, pow_add]
  cases a <;> simp [negIf] <;> ring

/-- A multiple of 2^lo as a sign, a magnitude and an exponent. -/
theorem units_natAbs (K : Nat) (s lo : Int) : units K (s < 0) s.natAbs lo = s * 2 ^ (lo + K).toNat := by
  by_cases h : s < 0
  · simp [units, negIf, h, abs_of_neg h]
  · simp [units, negIf, h, abs_of_nonneg (not_lt.mp h)]

/-- The sum formed before rounding is exact. -/
theorem addFin_exact (mode : RMode) (K : Nat) (a b : Bool) (m n : Nat) {e g : Int} (he : 0 ≤ e + K) (hg : 0 ≤ g + K) :
    let s := addFin mode a m e b n g
    0 ≤ s.2.2 + K ∧ units K s.1 s.2.1 s.2.2 = units K a m e + units K b n g := by
  have hlo : 0 ≤ min e g + K := by omega
  have formed : addFin mode a m e b n g =
      let sum := negIf a (m * 2 ^ (e - min e g).toNat) + negIf b (n * 2 ^ (g - min e g).toNat)
      if sum == 0 then (if a == b then a else mode == .rd, 0, min e g) else (sum < 0, sum.natAbs, min e g) := rfl
  rw [formed, ← units_lowered K a m (min_le_left e g) hlo, ← units_lowered K b n (min_le_right e g) hlo, ← add_mul]
  generalize negIf a (m * 2 ^ (e - min e g).toNat) + negIf b (n * 2 ^ (g - min e g).toNat) = sum
  by_cases zero : sum = 0
  · subst zero
    exact ⟨hlo, by simp [units, negIf]⟩
  · simp only [beq_iff_eq, zero, if_false]
    exact ⟨hlo, units_natAbs K sum _⟩

/-- A finite pattern is a multiple of the lowest subnormal. -/
theorem emin_le_of_read {f : Fmt} {l m : Nat} {n : Bool} {e : Int} (h : f.read l = .fin n m e) : f.emin ≤ e := by
  simp only [Fmt.read] at h
  split at h
  · split at h <;> cases h
  · split at h
    · cases h; exact le_rfl
    next _ sub =>
      have : l / 2 ^ f.frac % 256 ≠ 0 := by simpa using sub
      cases h
      omega

/-! ### One rounding (R71) -/

/-- The exact result `x`, in units of 2^-K, is rounded once; a zero may take either sign. -/
def RoundsExact (f : Fmt) (K : Nat) (mode : RMode) (x : Int) (res : Res) : Prop :=
  ∃ neg, x = negIf neg x.natAbs ∧ RoundedOnce f K mode neg x.natAbs res.bits

theorem round_roundsExact {f : Fmt} (frac : f.frac ≠ 0) (mode : RMode) (neg : Bool) (m : Nat) {K : Nat} {e x : Int} (he : 0 ≤ e + K) (hf : 0 ≤ f.emin + K)
    (hx : units K neg m e = x) : RoundsExact f K mode x (round f mode neg m e) := by
  subst hx
  have magnitude : (units K neg m e).natAbs = m * 2 ^ (e + K).toNat := by
    cases neg <;> simp [units, negIf, Int.natAbs_mul, Int.natAbs_pow]
  refine ⟨neg, ?_, magnitude ▸ round_roundedOnce frac mode neg m he hf⟩
  rw [magnitude]
  simp [units]

section
variable {f : Fmt} (frac : f.frac ≠ 0) (mode : RMode) {l r p m1 m2 m3 K : Nat} {n1 n2 n3 : Bool} {e1 e2 e3 : Int} (hf : 0 ≤ f.emin + K)
  (hl : f.read l = .fin n1 m1 e1) (hr : f.read r = .fin n2 m2 e2)
include frac hf hl hr

theorem add_roundsExact : RoundsExact f K mode (units K n1 m1 e1 + units K n2 m2 e2) (add f mode l r) := by
  have h1 := emin_le_of_read hl
  have h2 := emin_le_of_read hr
  obtain ⟨low, sum⟩ := addFin_exact mode K n1 n2 m1 m2 (e := e1) (g := e2) (by omega) (by omega)
  rw [add, hl, hr]
  exact round_roundsExact frac mode _ _ low hf sum

theorem sub_roundsExact : RoundsExact f K mode (units K n1 m1 e1 - units K n2 m2 e2) (sub f mode l r) := by
  have h1 := emin_le_of_read hl
  have h2 := emin_le_of_read hr
  obtain ⟨low, sum⟩ := addFin_exact mode K n1 (!n2) m1 m2 (e := e1) (g := e2) (by omega) (by omega)
  rw [units_not, ← sub_eq_add_neg] at sum
  rw [sub, hl, hr]
  exact round_roundsExact frac mode _ _ low hf sum

theorem mul_roundsExact : RoundsExact f (K + K) mode (units K n1 m1 e1 * units K n2 m2 e2) (mul f mode l r) := by
  have h1 := emin_le_of_read hl
  have h2 := emin_le_of_read hr
  rw [mul, hl, hr]
  exact round_roundsExact frac mode _ _ (by omega) (by omega) (units_mul K n1 n2 m1 m2 (by omega) (by omega))

theorem fused_roundsExact (hp : f.read p = .fin n3 m3 e3) (negProd negAdd : Bool) :
    RoundsExact f (K + K) mode (negIf negProd (units K n1 m1 e1 * units K n2 m2 e2) + negIf negAdd (units K n3 m3 e3 * 2 ^ K)) (fused f mode negProd negAdd l r p) := by
  have h1 := emin_le_of_read hl
  have h2 := emin_le_of_read hr
  have h3 := emin_le_of_read hp
  obtain ⟨low, sum⟩ := addFin_exact mode (K + K) (negProd ^^ (n1 != n2)) (negAdd ^^ n3) (m1 * m2) m3 (e := e1 + e2) (g := e3) (by omega) (by omega)
  rw [units_xor (K + K) negProd, units_xor (K + K) negAdd, units_mul K n1 n2 m1 m2 (by omega) (by omega), units_finer K n3 m3 (by omega)] at sum
  have formed : fused f mode negProd negAdd l r p = addV f mode (.fin (negProd ^^ (n1 != n2)) (m1 * m2) (e1 + e2)) (.fin (negAdd ^^ n3) m3 e3) := by
    rw [fused, hl, hr, hp]
    cases negProd <;> cases negAdd <;> simp [mulV, Val.neg]
  rw [formed]
  exact round_roundsExact frac mode _ _ low (by omega) sum

end

/-! ### O9 -/

/-- Refutes O9: in its clause on exact results the exponent is bound with type `Nat`, so that it says of each sum that it is a whole number. The least subnormal 2^-149, added to zero, is none. (What the clause is after holds, with an integer exponent: the exact result is formed and rounded once, by `add_roundsExact`, `sub_roundsExact`, `mul_roundsExact`, `fused_roundsExact`.) -/
theorem not_nodeFloatElements : ¬ Obligations.NodeFloatElements := by
  unfold Obligations.NodeFloatElements
  rintro ⟨-, exactResults, -⟩
  have least : f32.read 1 = .fin false 1 (-149) := rfl
  have zero : f32.read 0 = .fin false 0 (-149) := rfl
  obtain ⟨⟨neg, m, e, -, -, sum⟩, -⟩ := exactResults f32 .rn 1 0 0 1 0 0 149 false false false false false _ _ _ least zero zero (by decide) (by decide) (by decide)
  have even : (2 : Int) ∣ (if neg then -1 else 1) * (m : Int) * 2 ^ ((e : Int) + (149 : Nat)).toNat := (dvd_pow_self 2 (by omega)).mul_left _
  have one : (if neg then -1 else 1) * (m : Int) * 2 ^ ((e : Int) + (149 : Nat)).toNat = 1 := sum
  rw [one] at even
  exact absurd even (by decide)

end Sys2Proof.Fp
end

section
/-! PROOF. Integer arithmetic nodes (03 R64, R65): a firing of an arithmetic node sends what it computes, and an integer computation is its function of every element. -/

namespace Sys2Proof.Machine

/-! ### What an arithmetic node sends -/

section
variable {s : State} {k : TileKey} {n : Nat} {o : Opnds} {i : Instr} {c : Payload → Payload → Payload → Calc} {x : Calc} {a : Payload} {ls : List Nat}

theorem firesCounting_of_calc (e : exec i s = fireCalc (formOf i) c s) (hx : c o.l.pay o.r.pay o.p.pay = x) (h : NodeAt s k n (formOf i) o) :
    FiresCounting i s k n o x.tally x.a x.b := by rw [FiresCounting, e, fireCalc_of h, hx]

/-- A computation that counts nothing fires the same in every kind of tile. -/
theorem fires_of_calc (e : exec i s = fireCalc (formOf i) c s) (hx : c o.l.pay o.r.pay o.p.pay = x) (ht : x.tally = []) (h : NodeAt s k n (formOf i) o) :
    Fires i s k n o x.a x.b := by rw [Fires, e, fireCalc_of h, hx, ht, countTile_nil, ite_self]

theorem fires_of_both (e : exec i s = fireCalc (formOf i) c s) (hx : c o.l.pay o.r.pay o.p.pay = .both a) (h : NodeAt s k n (formOf i) o) :
    Fires i s k n o a a := fires_of_calc (x := .both a) e hx rfl h

theorem firesCounting_of_both (e : exec i s = fireCalc (formOf i) c s) (hx : c o.l.pay o.r.pay o.p.pay = .both a ls) (h : NodeAt s k n (formOf i) o) :
    FiresCounting i s k n o ls a a := firesCounting_of_calc (x := .both a ls) e hx h
end

/-! ### Integer instructions -/

/-- The elements of a result when each is `f` of the elements read, reduced to the width (R64). -/
def IntElements (w : NodeOp) (o : Opnds) (f : Int → Int → Int → Int) (a : Payload) : Prop :=
  let width := Ty.width w.ty
  let int := fun (p : Payload) (j : Nat) => readInt width (Ty.unsigned w.ty) (elemAt width p j)
  Elementwise w o width (fun j => reduceInt width (Ty.unsigned w.ty) w.sat (f (int o.l.pay j) (int o.r.pay j) (int o.p.pay j))) a

theorem intElements_intCalc (w : NodeOp) (o : Opnds) (f : Int → Int → Int → Int) : IntElements w o f (intCalc w f o.l.pay o.r.pay o.p.pay).a := by
  intro j hj
  have hw := width_cases w.ty
  simp only [intCalc, Calc.both, intLane, elemAt_predLanes _ hw _ _ _ _ j hj, ← elemAt_lane _ hw, Nat.mod_eq_of_lt (reduceInt_lt _ _ _ _)]

/-- An integer instruction fires with its function of every element; `f` is how the model writes it. -/
theorem fires_intElements {s : State} {k : TileKey} {n : Nat} {w : NodeOp} {o : Opnds} (i : Instr) (g : Int → Int → Int → Int) {f : Int → Int → Int → Int}
    (e : exec i s = fireCalc (formOf i) (intCalc w f) s) (fg : ∀ l r p, f l r p = g l r p) (h : NodeAt s k n (formOf i) o) :
    ∃ a, Fires i s k n o a a ∧ IntElements w o g a := by
  obtain rfl : f = g := funext fun l => funext fun r => funext (fg l r)
  exact ⟨_, fires_of_both e rfl h, intElements_intCalc w o f⟩

theorem divInt_eq (ty : Ty) (sat : Bool) (l r : Int) : divInt ty sat l r =
    if r = 0 then (if sat then (if 0 < l then (if ty = .u32 then 2 ^ 32 - 1 else 2 ^ 31 - 1) else if l < 0 then (if ty = .u32 then 0 else -2 ^ 31) else 0) else 0)
    else l.tdiv r := by
  cases sat <;> cases ty <;> simp [divInt, hiOf, loOf, Ty.unsigned]

theorem remInt_eq (l r : Int) : remInt l r = if r = 0 then l else l - l.tdiv r * r := by simp [remInt]

theorem immInt_eq (ty : Ty) (imm : BitVec 16) : immInt ty imm = if ty = .u32 then (imm.toNat : Int) else imm.toInt := by
  cases ty <;> simp [immInt, Ty.unsigned]

/-- Settles O7: each instruction is the firing of an integer computation, whose function is the one the statement names. -/
theorem nodeIntegerElements : Obligations.NodeIntegerElements := by
  unfold Obligations.NodeIntegerElements
  intro s k n w o imm
  refine ⟨?add, ?sub, ?mul, ?mulh, ?madd, ?div, ?rem, ?neg, ?abs, ?min, ?max, ?addi⟩
  case add => exact fires_intElements (.add w) (fun l r _ => l + r) rfl fun _ _ _ => rfl
  case sub => exact fires_intElements (.sub w) (fun l r _ => l - r) rfl fun _ _ _ => rfl
  case mul => exact fires_intElements (.mul w) (fun l r _ => l * r) rfl fun _ _ _ => rfl
  case mulh => exact fires_intElements (.mulh w) (fun l r _ => l * r / 2 ^ 32) rfl fun _ _ _ => rfl
  case madd => exact fires_intElements (.madd w) (fun l r p => l * r + p) rfl fun _ _ _ => rfl
  case div =>
    exact fires_intElements (.div w) (fun l r _ =>
      if r = 0 then (if w.sat then (if 0 < l then (if w.ty = .u32 then 2 ^ 32 - 1 else 2 ^ 31 - 1) else if l < 0 then (if w.ty = .u32 then 0 else -2 ^ 31) else 0) else 0)
      else l.tdiv r) rfl fun l r _ => divInt_eq w.ty w.sat l r
  case rem => exact fires_intElements (.rem w) (fun l r _ => if r = 0 then l else l - l.tdiv r * r) rfl fun l r _ => remInt_eq l r
  case neg => exact fires_intElements (.neg w) (fun l _ _ => -l) rfl fun _ _ _ => rfl
  case abs => exact fires_intElements (.abs w) (fun l _ _ => if l < 0 then -l else l) rfl fun l _ _ => by omega
  case min => exact fires_intElements (.min w) (fun l r _ => if l ≤ r then l else r) rfl fun l r _ => min_def l r
  case max => exact fires_intElements (.max w) (fun l r _ => if l ≤ r then r else l) rfl fun l r _ => max_def l r
  case addi => exact fires_intElements (.addi w imm) (fun l _ _ => l + (if w.ty = .u32 then (imm.toNat : Int) else imm.toInt)) rfl fun l _ _ => by rw [immInt_eq]

end Sys2Proof.Machine
end

section
/-! PROOF. Compare, logic, shift, count and bit-field nodes (03 R66 to R68). -/

namespace Sys2Proof.Machine

/-! ### Masks and lanes of results -/

theorem isMask_maskOf {f g : Nat → Bool} (h : ∀ j, j < 16 → f j = g j) : IsMask g (maskOf f) := by
  intro b hb
  rw [maskOf_getLsbD f b hb]
  by_cases hj : b < 16
  · simp [hj, h b hj]
  · simp [hj]

theorem lanewise_predLanes (w : NodeOp) (o : Opnds) (f : Nat → Lane) : Lanewise w o f (predLanes w o.l.pay o.p.pay f) := fun i hi => lane_predLanes _ _ _ _ i hi

theorem lane_getLsbD (p : Payload) (i : Nat) {b : Nat} (hb : b < 32) : (Word.lane p i).getLsbD b = p.getLsbD (32 * i + b) := by
  simp [Word.lane, hb]

/-! ### `icmp` and the logical instructions (R66) -/

theorem icmpHolds_eq {cond : BitVec 3} (h : cond < 6) (l r : Int) : icmpHolds cond l r =
    decide ((cond = 0 ∧ l = r) ∨ (cond = 1 ∧ l ≠ r) ∨ (cond = 2 ∧ l < r) ∨ (cond = 3 ∧ l ≤ r) ∨ (cond = 4 ∧ r < l) ∨ (cond = 5 ∧ r ≤ l)) := by
  obtain rfl | rfl | rfl | rfl | rfl | rfl : cond = 0 ∨ cond = 1 ∨ cond = 2 ∨ cond = 3 ∨ cond = 4 ∨ cond = 5 := by bv_omega
  all_goals rw [Bool.eq_iff_iff]; simp [icmpHolds]

/-- A bitwise operation `f` works on lanes, and typed PRED as `g` on the bits of a mask (R66). -/
theorem fires_logic {s : State} {k : TileKey} {n : Nat} {w : NodeOp} {o : Opnds} (i : Instr) (f : Lane → Lane → Lane) (g : Bool → Bool → Bool)
    (e : exec i s = fireCalc (formOf i) (logicCalc w f) s) (fg : ∀ l r b, b < 32 → (f l r).getLsbD b = g (l.getLsbD b) (r.getLsbD b)) (h : NodeAt s k n (formOf i) o) :
    ∃ a, Fires i s k n o a a
      ∧ (w.ty ≠ .pred → Lanewise w o (fun j => f (Word.lane o.l.pay j) (Word.lane o.r.pay j)) a)
      ∧ (w.ty = .pred → IsMask (fun j => if laneOn w o.p.pay j then g (o.l.pay.getLsbD j) (o.r.pay.getLsbD j) else o.l.pay.getLsbD j) a) := by
  by_cases pred : w.ty = .pred
  · refine ⟨_, fires_of_both e (by rw [logicCalc, if_pos (by simpa using pred)]) h, fun np => absurd pred np, fun _ => isMask_maskOf fun j hj => ?_⟩
    simp only [fg _ _ j (by omega), lane_getLsbD _ _ (show j < 32 by omega), Nat.mul_zero, Nat.zero_add]
  · exact ⟨_, fires_of_both e (by rw [logicCalc, if_neg (by simpa using pred)]) h, fun _ => lanewise_predLanes _ _ _, fun p => absurd p pred⟩

/-! ### Shifts, counts and fields (R67, R68) -/

/-- A lane instruction fires with a lane that its operation puts in place of each enabled one. -/
theorem fires_bitCalc {s : State} {k : TileKey} {n : Nat} {w : NodeOp} {o : Opnds} (i : Instr) (F : Lane → Lane → Lane → Prop) {f : Lane → Lane → Lane}
    (e : exec i s = fireCalc (formOf i) (bitCalc w f) s) (spec : ∀ l r, F l r (f l r)) (h : NodeAt s k n (formOf i) o) :
    ∃ a, Fires i s k n o a a
      ∧ ∀ j, j < 16 → if laneOn w o.p.pay j then F (Word.lane o.l.pay j) (Word.lane o.r.pay j) (Word.lane a j) else Word.lane a j = Word.lane o.l.pay j := by
  refine ⟨_, fires_of_both e rfl h, fun j hj => ?_⟩
  rw [lane_predLanes _ _ _ _ j hj]
  split
  · exact spec _ _
  · rfl

theorem sraLane_eq (l r : Lane) : sraLane l r = if r.toNat < 32 then l.sshiftRight r.toNat else if l.toInt < 0 then 0xFFFFFFFF else 0 := by
  simp [sraLane, BitVec.msb_eq_toInt]

theorem clzLane_spec (l : Lane) : (l = 0 ∧ clzLane l = 32)
    ∨ ((clzLane l).toNat < 32 ∧ l.getLsbD (31 - (clzLane l).toNat) = true ∧ ∀ b, 31 - (clzLane l).toNat < b → l.getLsbD b = false) := by
  by_cases h : l = 0
  · exact .inl ⟨h, by subst h; rfl⟩
  · have pos : l.toNat ≠ 0 := fun z => h (BitVec.eq_of_toNat_eq (by simpa using z))
    have lt : Nat.log2 l.toNat < 32 := (Nat.log2_lt pos).mpr l.isLt
    have top : 31 - (clzLane l).toNat = Nat.log2 l.toNat := by
      simp [clzLane, Fp.bitLen, pos]; omega
    refine .inr ⟨by simp [clzLane, Fp.bitLen, pos]; omega, ?_, fun b hb => ?_⟩
    · rw [top, BitVec.getLsbD, Nat.testBit_log2 pos]
    · rw [top] at hb
      exact Nat.testBit_lt_two_pow ((Nat.log2_lt pos).mp hb)

theorem popcLane_toNat (l : Lane) : (popcLane l).toNat = ((List.range 32).filter (fun b => l.getLsbD b)).length := by
  have := List.length_filter_le (fun b => l.getLsbD b) (List.range 32)
  simp only [List.length_range] at this
  simp only [popcLane, BitVec.toNat_ofNat]
  omega

/-- The top bit of a number that fits `n + 1` bits. -/
theorem two_pow_le_iff_testBit {x n : Nat} (h : x < 2 ^ (n + 1)) : 2 ^ n ≤ x ↔ x.testBit n = true := by
  refine ⟨fun le => ?_, Nat.ge_two_pow_of_testBit⟩
  have : x / 2 ^ n = 1 := by rw [Nat.div_eq_iff (by positivity)]; omega
  rw [Nat.testBit_eq_decide_div_mod_eq, this]; rfl

theorem bfxLane_getLsbD (sgn : Bool) (wm1 pos : BitVec 5) (l : Lane) {b : Nat} (hb : b < 32) :
    (bfxLane sgn wm1 pos l).getLsbD b = if b ≤ wm1.toNat then l.getLsbD (pos.toNat + b) else sgn && l.getLsbD (pos.toNat + wm1.toNat) := by
  have w_lt := wm1.isLt
  generalize hw : wm1.toNat = w at w_lt ⊢
  generalize hp : pos.toNat = p
  let x := l.toNat / 2 ^ p % 2 ^ (w + 1)
  have x_lt : x < 2 ^ (w + 1) := Nat.mod_lt _ (by positivity)
  have x_bit : ∀ j, x.testBit j = (decide (j < w + 1) && l.getLsbD (p + j)) := fun j => by
    simp [x, Nat.testBit_mod_two_pow, Nat.testBit_div_two_pow, BitVec.getLsbD, Nat.add_comm p j]
  have top : (2 ^ w ≤ x) = (l.getLsbD (p + w) = true) := propext (by rw [two_pow_le_iff_testBit x_lt, x_bit]; simp)
  have ext : x + 2 ^ 32 - 2 ^ (w + 1) = 2 ^ (w + 1) * (2 ^ (32 - (w + 1)) - 1) + x := by
    have : 2 ^ (w + 1) * 2 ^ (32 - (w + 1)) = 2 ^ 32 := by rw [← Nat.pow_add]; congr 1; omega
    rw [Nat.mul_sub, this]
    have := Nat.pow_le_pow_right (show 0 < 2 by decide) (show w + 1 ≤ 32 by omega)
    omega
  have split : bfxLane sgn wm1 pos l = if (sgn && l.getLsbD (p + w)) = true then BitVec.ofNat 32 (x + 2 ^ 32 - 2 ^ (w + 1)) else BitVec.ofNat 32 x := by
    simp only [bfxLane, hw, hp, Nat.add_sub_cancel, Bool.and_eq_true, decide_eq_true_eq]
    simp only [← top, x]
  rw [split]
  split_ifs with neg low low
  · rw [BitVec.getLsbD_ofNat, ext, Nat.testBit_two_pow_mul_add _ x_lt, if_pos (by omega), x_bit]
    simp [hb]; omega
  · rw [BitVec.getLsbD_ofNat, ext, Nat.testBit_two_pow_mul_add _ x_lt, if_neg (by omega), Nat.testBit_two_pow_sub_one, neg]
    simp [hb]; omega
  · rw [BitVec.getLsbD_ofNat, x_bit]
    simp [hb]; omega
  · rw [BitVec.getLsbD_ofNat, x_bit, eq_false_of_ne_true neg]
    simp; omega

theorem bfiLane_getLsbD (wm1 pos : BitVec 5) (l r : Lane) {b : Nat} (hb : b < 32) :
    (bfiLane wm1 pos l r).getLsbD b = if pos.toNat ≤ b ∧ b ≤ pos.toNat + wm1.toNat then r.getLsbD (b - pos.toNat) else l.getLsbD b := by
  have mask : (BitVec.ofNat 32 ((2 ^ (wm1.toNat + 1) - 1) * 2 ^ pos.toNat)).getLsbD b = decide (pos.toNat ≤ b ∧ b ≤ pos.toNat + wm1.toNat) := by
    rw [BitVec.getLsbD_ofNat, Nat.testBit_mul_two_pow, Nat.testBit_two_pow_sub_one, Bool.eq_iff_iff]
    simp [hb]; omega
  simp only [bfiLane, BitVec.getLsbD_or, BitVec.getLsbD_and, BitVec.getLsbD_not, BitVec.getLsbD_shiftLeft, mask, hb]
  by_cases field : pos.toNat ≤ b ∧ b ≤ pos.toNat + wm1.toNat
  · simp [field]
  · simp [field]

/-- Settles O8: `icmp` by its mask, the logical instructions bit by bit, the others by what each does to a lane. -/
theorem nodeLogicAndShifts : Obligations.NodeLogicAndShifts := by
  unfold Obligations.NodeLogicAndShifts
  constructor
  · intro s k n w o cond
    refine ⟨fun hc h => ⟨_, fires_of_both (i := .icmp w cond) (c := fun l r _ => icmpCalc w cond l r) rfl rfl h, isMask_maskOf fun j _ => icmpHolds_eq hc _ _⟩, ?and, ?or, ?xor, ?not, ?andn⟩
    case and => exact fires_logic (.and w) (fun l r => l &&& r) (fun l r => l && r) rfl fun l r b _ => BitVec.getLsbD_and
    case or => exact fires_logic (.or w) (fun l r => l ||| r) (fun l r => l || r) rfl fun l r b _ => BitVec.getLsbD_or
    case xor => exact fires_logic (.xor w) (fun l r => l ^^^ r) (fun l r => l ^^ r) rfl fun l r b _ => BitVec.getLsbD_xor
    case not => exact fires_logic (.not w) (fun l _ => ~~~l) (fun l _ => !l) rfl fun l r b hb => by simp [hb]
    case andn => exact fires_logic (.andn w) (fun l r => l &&& ~~~r) (fun l r => l && !r) rfl fun l r b hb => by simp [hb]
  · intro s k n w o sgn wm1 pos _
    refine ⟨?shl, ?shr, ?sra, ?rotl, ?clz, ?popc, ?bfx, ?bfi⟩
    case shl => exact fires_bitCalc (.shl w) (fun l r x => x = if r.toNat < 32 then l <<< r.toNat else 0) rfl fun _ _ => rfl
    case shr => exact fires_bitCalc (.shr w) (fun l r x => x = if r.toNat < 32 then l >>> r.toNat else 0) rfl fun _ _ => rfl
    case sra => exact fires_bitCalc (.sra w) (fun l r x => x = if r.toNat < 32 then l.sshiftRight r.toNat else if l.toInt < 0 then 0xFFFFFFFF else 0) rfl sraLane_eq
    case rotl => exact fires_bitCalc (.rotl w) (fun l r x => x = l.rotateLeft (r.toNat % 32)) rfl fun _ _ => rfl
    case clz =>
      exact fires_bitCalc (.clz w) (fun l _ x => (l = 0 ∧ x = 32) ∨ (x.toNat < 32 ∧ l.getLsbD (31 - x.toNat) = true ∧ ∀ b, 31 - x.toNat < b → l.getLsbD b = false))
        rfl fun l _ => clzLane_spec l
    case popc => exact fires_bitCalc (.popc w) (fun l _ x => x.toNat = ((List.range 32).filter (fun b => l.getLsbD b)).length) rfl fun l _ => popcLane_toNat l
    case bfx =>
      exact fires_bitCalc (.bfx w sgn wm1 pos) (fun l _ x => ∀ b, b < 32 → x.getLsbD b =
        if b ≤ wm1.toNat then l.getLsbD (pos.toNat + b) else sgn && l.getLsbD (pos.toNat + wm1.toNat)) rfl fun l _ _ => bfxLane_getLsbD sgn wm1 pos l
    case bfi =>
      exact fires_bitCalc (.bfi w wm1 pos) (fun l r x => ∀ b, b < 32 → x.getLsbD b =
        if pos.toNat ≤ b ∧ b ≤ pos.toNat + wm1.toNat then r.getLsbD (b - pos.toNat) else l.getLsbD b) rfl fun l r _ => bfiLane_getLsbD wm1 pos l r

end Sys2Proof.Machine
end

section
/-! PROOF. Pack, unpack, permute, broadcast, lane index and mask count (03 R82, R84, R87). -/

namespace Sys2Proof.Machine

/-! ### Elements of a payload built from elements -/

theorem div_foldr_digits (w : Nat) (f : Nat → Nat) (n : Nat) : ∀ s j, j < n →
    (List.range' s n).foldr (fun k acc => acc * 2 ^ w + f k % 2 ^ w) 0 / 2 ^ (w * j) % 2 ^ w = f (s + j) % 2 ^ w := by
  induction n with
  | zero => intro s j hj; omega
  | succ n ih =>
    intro s j hj
    have low : f s % 2 ^ w < 2 ^ w := Nat.mod_lt _ (by positivity)
    rw [List.range'_succ, List.foldr_cons]
    cases j with
    | zero => simp
    | succ j =>
      rw [Nat.mul_succ, Nat.add_comm (w * j), Nat.pow_add, ← Nat.div_div_eq_div_mul, Nat.mul_comm _ (2 ^ w), Nat.mul_add_div (Nat.two_pow_pos w), Nat.div_eq_of_lt low,
        Nat.add_zero, ih (s + 1) j (by omega), show s + 1 + j = s + (j + 1) by omega]

theorem elemAt_ofElems {w : Nat} (hw : w = 8 ∨ w = 16 ∨ w = 32) (f : Nat → Nat) {j : Nat} (hj : j < 512 / w) : elemAt w (ofElems w f) j = f j % 2 ^ w := by
  have fits : w * j + w ≤ 512 := by rcases hw with h | h | h <;> subst h <;> omega
  rw [elemAt, ofElems, BitVec.toNat_ofNat, mod_div_mod _ _ _ _ fits, List.range_eq_range', div_foldr_digits w f _ 0 j hj, Nat.zero_add]

theorem elemAt_lt (w : Nat) (p : Payload) (j : Nat) : elemAt w p j < 2 ^ w := Nat.mod_lt _ (by positivity)

theorem extElem_lt {w v x : Nat} (hx : x < 2 ^ w) (hv : w ≤ v) (ext : Bool) : extElem w v ext x < 2 ^ v := by
  have := Nat.pow_le_pow_right (show 0 < 2 by decide) hv
  unfold extElem
  split <;> omega

/-- An element of `unpack`'s results: an element extended to the wider width. -/
theorem elemAt_ofElems_extElem {w v : Nat} (hv : v = 8 ∨ v = 16 ∨ v = 32) (le : w ≤ v) (ext : Bool) (p : Payload) (g : Nat → Nat) {j : Nat} (hj : j < 512 / v) :
    elemAt v (ofElems v fun i => extElem w v ext (elemAt w p (g i))) j = extElem w v ext (elemAt w p (g j)) := by
  rw [elemAt_ofElems hv _ hj, Nat.mod_eq_of_lt (extElem_lt (elemAt_lt _ _ _) le ext)]

/-- An element of `pack`'s result: the low half of an element of `l`, or past them of `r`. -/
theorem elemAt_pack {w m : Nat} (hw : w = 8 ∨ w = 16 ∨ w = 32) (l r : Payload) (v : Nat) {j : Nat} (hj : j < 512 / w) (hm : j < m + m) :
    elemAt w (ofElems w fun k => if k < m then elemAt v l k else elemAt v r (k - m)) j = elemAt v (if j < m then l else r) (j % m) % 2 ^ w := by
  rw [elemAt_ofElems hw _ hj]
  split
  · rw [Nat.mod_eq_of_lt (a := j) ‹_›]
  · rw [Nat.mod_eq_sub_mod (a := j) (by omega), Nat.mod_eq_of_lt (a := j - m) (by omega)]

/-! ### Lanes that are moved, numbered or counted -/

theorem permLane_eq (w : NodeOp) (l r p : Payload) (j : Nat) :
    (let idx := (Word.lane r j).toInt
      if 0 ≤ idx && idx ≤ 15 then Word.lane l idx.toNat else if w.pd && 16 ≤ idx && idx ≤ 31 then Word.lane p (idx.toNat - 16) else 0)
    = let idx := (Word.lane r j).toInt
      if 0 ≤ idx ∧ idx ≤ 15 then Word.lane l idx.toNat else if w.pd = true ∧ 16 ≤ idx ∧ idx ≤ 31 then Word.lane p (idx - 16).toNat else 0 := by
  simp only [Bool.and_eq_true, decide_eq_true_eq, and_assoc]
  congr 2
  rw [show (Word.lane r j).toInt.toNat - 16 = ((Word.lane r j).toInt - 16).toNat by omega]

theorem lidxLane_eq (j : Nat) (imm : BitVec 16) : BitVec.ofNat 32 j + imm.signExtend 32 = BitVec.ofInt 32 ((j : Int) + imm.toInt) := by
  rw [BitVec.ofInt_add, BitVec.signExtend]
  rfl

theorem mcountLane_toNat (pfx : Bool) (l : Payload) {j : Nat} (hj : j < 16) :
    (BitVec.ofNat 32 ((List.range (if pfx then j + 1 else 16)).filter fun i => l.getLsbD i).length).toNat
      = ((List.range 16).filter fun i => l.getLsbD i && (!pfx || decide (i ≤ j))).length := by
  have upTo : (List.range 16).filter (fun i => !pfx || decide (i ≤ j)) = List.range (if pfx then j + 1 else 16) := by
    cases pfx
    · rfl
    · interval_cases j <;> rfl
  rw [← List.filter_filter, upTo, BitVec.toNat_ofNat, Nat.mod_eq_of_lt]
  exact lt_of_le_of_lt (List.length_filter_le _ _) (by rw [List.length_range]; split <;> omega)

/-- Settles O11, each instruction by the elements or lanes of its computation. -/
theorem nodeElementMoves : Obligations.NodeElementMoves := by
  unfold Obligations.NodeElementMoves
  intro s k n w o ext b lane imm
  refine ⟨fun h => ⟨_, fires_of_both (i := .pack w false) (c := fun l r _ => packCalc false l r) rfl rfl h, fun j hj => elemAt_pack (by decide) _ _ _ hj hj⟩,
    fun h => ⟨_, fires_of_both (i := .pack w true) (c := fun l r _ => packCalc true l r) rfl rfl h, fun j hj => elemAt_pack (by decide) _ _ _ hj hj⟩,
    fun h => ⟨_, _, fires_of_calc (i := .unpack w ext false) (c := fun l _ _ => unpackCalc ext false l) rfl rfl rfl h, fun j hj =>
      ⟨elemAt_ofElems_extElem (by decide) (by decide) ext _ _ hj, elemAt_ofElems_extElem (by decide) (by decide) ext _ _ hj⟩⟩,
    fun h => ⟨_, _, fires_of_calc (i := .unpack w ext true) (c := fun l _ _ => unpackCalc ext true l) rfl rfl rfl h, fun j hj =>
      ⟨elemAt_ofElems_extElem (by decide) (by decide) ext _ _ hj, elemAt_ofElems_extElem (by decide) (by decide) ext _ _ hj⟩⟩,
    ?perm, ?bcast, ?lidx, ?mcount⟩
  case perm =>
    exact fun h => ⟨_, fires_of_both (i := .perm w) (c := fun l r p => permCalc w l r p) rfl rfl h, fun j hj => by
      rw [lane_predLanes _ _ _ _ j hj]; simp only [permLane_eq]⟩
  case bcast => exact fun h => ⟨_, fires_of_both (i := .bcast w lane) (c := fun l _ p => bcastCalc w lane l p) rfl rfl h, lanewise_predLanes _ _ _⟩
  case lidx =>
    exact fun h => ⟨_, fires_of_both (i := .lidx w imm) (c := fun l _ p => lidxCalc w imm l p) rfl rfl h, fun j hj => by
      rw [lane_predLanes _ _ _ _ j hj]; simp only [lidxLane_eq]⟩
  case mcount =>
    exact fun h => ⟨_, fires_of_both (i := .mcount w b) (c := fun l _ _ => mcountCalc b l) rfl rfl h, fun j hj => by
      rw [lane_ofLanes _ _ hj, mcountLane_toNat b _ hj]⟩

end Sys2Proof.Machine
end

section
/-! PROOF. Reductions and prefixes over the lanes (03 R85, R86): the integer ones as folds, the F32 ones level by level of the tree and step by step of the scan. -/

namespace Sys2Proof.Machine

/-! ### Integer values -/

/-- The operation of an integer reduction on two values (R85). -/
def intOp : Red → Int → Int → Int
  | .sum => fun x y => x + y
  | .min => fun x y => if x ≤ y then x else y
  | .max => fun x y => if x ≤ y then y else x

theorem redI_cons (op : Red) (x : Int) (xs : List Int) : redI op (x :: xs) = xs.foldl (intOp op) x := by
  have hmin : (min : Int → Int → Int) = intOp .min := funext fun x => funext fun y => min_def x y
  have hmax : (max : Int → Int → Int) = intOp .max := funext fun x => funext fun y => max_def x y
  cases op
  · rfl
  · rw [← hmin]; rfl
  · rw [← hmax]; rfl

theorem redI_eq (op : Red) (xs : List Int) : redI op xs = xs.tail.foldl (intOp op) (xs.headD 0) := by
  cases xs with
  | nil => rfl
  | cons x xs => exact redI_cons op x xs

theorem laneInts_eq (ty : Ty) (p : Payload) : laneInts ty p = (List.range 16).map fun j => readInt 32 (Ty.unsigned ty) (Word.lane p j).toNat := by
  simp only [laneInts, laneNats, List.map_map]; rfl

/-! ### The tree of R85 -/

section
variable (op : Red) (rm : RMode)

/-- What the pair `j` of neighbours gives. -/
def pairAt (y : Nat → Nat) (j : Nat) : Fp.Res := redF op rm (y (2 * j)) (y (2 * j + 1))

/-- The counts of results, in their order. -/
def notesOf (r : Nat → Fp.Res) (js : List Nat) : List Nat := js.flatMap fun j => noteLanes (r j).note

theorem treeLevel_range' (y : Nat → Nat) (n : Nat) : ∀ a, treeLevel op rm ((List.range' (2 * a) (2 * n)).map y)
    = ((List.range' a n).map fun j => (pairAt op rm y j).bits, notesOf (pairAt op rm y) (List.range' a n)) := by
  induction n with
  | zero => intro a; rfl
  | succ n ih =>
    intro a
    rw [show 2 * (n + 1) = 2 * n + 1 + 1 by omega, List.range'_succ, List.range'_succ, List.range'_succ, List.map_cons, List.map_cons, treeLevel,
      show 2 * a + 1 + 1 = 2 * (a + 1) by omega, ih (a + 1)]
    rfl

/-- A level of the tree: the pairs of neighbours, in order, each counted. -/
theorem treeLevel_map (y : Nat → Nat) (n : Nat) : treeLevel op rm ((List.range (2 * n)).map y)
    = ((List.range n).map fun j => (pairAt op rm y j).bits, notesOf (pairAt op rm y) (List.range n)) := by
  simpa only [List.range_eq_range'] using treeLevel_range' op rm y n 0

/-- The four levels of the tree, at distances 1, 2, 4 and 8. -/
theorem treeF_map (y : Nat → Nat) :
    let t1 := pairAt op rm y
    let t2 := pairAt op rm fun j => (t1 j).bits
    let t4 := pairAt op rm fun j => (t2 j).bits
    let t8 := pairAt op rm fun j => (t4 j).bits
    treeF op rm ((List.range 16).map y)
      = ((t8 0).bits, notesOf t1 (List.range 8) ++ notesOf t2 (List.range 4) ++ notesOf t4 (List.range 2) ++ notesOf t8 (List.range 1)) := by
  intro t1 t2 t4 t8
  simp only [treeF, treeLevel_map op rm _ 8, treeLevel_map op rm _ 4, treeLevel_map op rm _ 2, treeLevel_map op rm _ 1]
  rfl

/-! ### The scan of R86 -/

/-- Lane `j` after the scan step at distance `d`. -/
def scanAt (d : Nat) (y : Nat → Nat) (j : Nat) : Fp.Res := if j < d then ⟨y j, {}⟩ else redF op rm (y (j - d)) (y j)

theorem getD_map_range (y : Nat → Nat) {n j : Nat} (hj : j < n) : ((List.range n).map y).getD j 0 = y j := by
  simp [List.getD, hj]

theorem scanStep_map (d : Nat) (y : Nat → Nat) : scanStep op rm d ((List.range 16).map y)
    = ((List.range 16).map fun j => (scanAt op rm d y j).bits, notesOf (scanAt op rm d y) (List.range 16)) := by
  have step : ((List.range 16).map fun i => if i < d then (⟨((List.range 16).map y).getD i 0, {}⟩ : Fp.Res)
      else redF op rm (((List.range 16).map y).getD (i - d) 0) (((List.range 16).map y).getD i 0)) = (List.range 16).map (scanAt op rm d y) := by
    refine List.map_congr_left fun j hj => ?_
    have lt : j < 16 := List.mem_range.mp hj
    rw [getD_map_range y lt, getD_map_range y (show j - d < 16 by omega), scanAt]
  simp only [scanStep, step, List.map_map, List.flatMap_map]
  rfl
end

/-! ### What the nodes send -/

theorem laneNats_eq (p : Payload) : laneNats p = (List.range 16).map fun j => (Word.lane p j).toNat := rfl

section
variable {s : State} {k : TileKey} {n : Nat} {w : NodeOp} {o : Opnds}

theorem fires_reduce (i : Instr) (op : Red) (e : exec i s = fireCalc (formOf i) (fun l _ _ => reduceCalc op w l) s) (h : NodeAt s k n (formOf i) o) :
    let ints := (List.range 16).map fun j => readInt 32 (Ty.unsigned w.ty) (Word.lane o.l.pay j).toNat
    let pat := fun (j : Nat) => (Word.lane o.l.pay j).toNat
    (w.ty ≠ .f32 → ∃ a, Fires i s k n o a a
      ∧ ∀ j, j < 16 → Word.lane a j = BitVec.ofNat 32 (reduceInt 32 (Ty.unsigned w.ty) w.sat (ints.tail.foldl (intOp op) (ints.headD 0))))
    ∧ (w.ty = .f32 →
        let t1 := pairAt op w.rm pat
        let t2 := pairAt op w.rm fun j => (t1 j).bits
        let t4 := pairAt op w.rm fun j => (t2 j).bits
        let t8 := pairAt op w.rm fun j => (t4 j).bits
        ∃ a, FiresCounting i s k n o (notesOf t1 (List.range 8) ++ notesOf t2 (List.range 4) ++ notesOf t4 (List.range 2) ++ notesOf t8 (List.range 1)) a a
          ∧ ∀ j, j < 16 → Word.lane a j = BitVec.ofNat 32 (t8 0).bits) := by
  intro ints pat
  refine ⟨fun ty => ?_, fun ty => ?_⟩
  · refine ⟨_, fires_of_both e (by rw [reduceCalc, if_neg (by simpa using ty)]) h, fun j hj => ?_⟩
    rw [Word.splat, lane_ofLanes _ _ hj, redI_eq, laneInts_eq]
  · have calc_eq : reduceCalc op w o.l.pay = .both (Word.splat (BitVec.ofNat 32 (treeF op w.rm (laneNats o.l.pay)).1)) (treeF op w.rm (laneNats o.l.pay)).2 := by
      rw [reduceCalc, if_pos (by simpa using ty)]
    rw [laneNats_eq, treeF_map] at calc_eq
    exact ⟨_, firesCounting_of_both e calc_eq h, fun j hj => lane_ofLanes _ _ hj⟩

theorem fires_prefix (i : Instr) (op : Red) (e : exec i s = fireCalc (formOf i) (fun l r _ => prefixCalc op w l r) s) (h : NodeAt s k n (formOf i) o) :
    let ints := (List.range 16).map fun j => readInt 32 (Ty.unsigned w.ty) (Word.lane o.l.pay j).toNat
    (w.ty ≠ .f32 → ∃ a, Fires i s k n o a a
      ∧ ∀ j, j < 16 → Word.lane a j = BitVec.ofNat 32 (reduceInt 32 (Ty.unsigned w.ty) w.sat
          ((ints.take (j + 1)).foldl (intOp op) (readInt 32 (Ty.unsigned w.ty) (Word.lane o.r.pay 15).toNat))))
    ∧ (w.ty = .f32 →
        let y1 := scanAt op w.rm 1 fun j => (Word.lane o.l.pay j).toNat
        let y2 := scanAt op w.rm 2 fun j => (y1 j).bits
        let y4 := scanAt op w.rm 4 fun j => (y2 j).bits
        let y8 := scanAt op w.rm 8 fun j => (y4 j).bits
        let out := fun j => redF op w.rm (Word.lane o.r.pay 15).toNat (y8 j).bits
        let all := List.range 16
        ∃ a, FiresCounting i s k n o (notesOf y1 all ++ notesOf y2 all ++ notesOf y4 all ++ notesOf y8 all ++ notesOf out all) a a
          ∧ ∀ j, j < 16 → Word.lane a j = BitVec.ofNat 32 (out j).bits) := by
  intro ints
  refine ⟨fun ty => ?_, fun ty => ?_⟩
  · refine ⟨_, fires_of_both e (by rw [prefixCalc, if_neg (by simpa using ty)]) h, fun j hj => ?_⟩
    rw [lane_ofLanes _ _ hj, redI_cons, laneInts_eq]
  · intro y1 y2 y4 y8 out all
    have calc_eq : prefixCalc op w o.l.pay o.r.pay = .both (Word.ofLanes fun j => BitVec.ofNat 32 (((List.range 16).map fun i => (out i).bits).getD j 0))
        (notesOf y1 all ++ notesOf y2 all ++ notesOf y4 all ++ notesOf y8 all ++ notesOf out all) := by
      rw [prefixCalc, if_pos (by simpa using ty)]
      simp only [laneNats_eq, scanStep_map, List.map_map, List.flatMap_map]
      rfl
    refine ⟨_, firesCounting_of_both e calc_eq h, fun j hj => ?_⟩
    rw [lane_ofLanes _ _ hj, getD_map_range _ hj]
end

/-- Settles O12, from what a reduction and a scan send. -/
theorem nodeReductions : Obligations.NodeReductions := by
  unfold Obligations.NodeReductions
  intro s k n w o
  exact ⟨fires_reduce (.rsum w) .sum rfl, fires_reduce (.rmin w) .min rfl, fires_reduce (.rmax w) .max rfl,
    fires_prefix (.psum w) .sum rfl, fires_prefix (.pmin w) .min rfl, fires_prefix (.pmax w) .max rfl⟩

end Sys2Proof.Machine
end

section
/-! PROOF. SX blocks (02 R48 to R50, R56): what an encoded block holds and counts, and the exact values of a decoded one. -/

namespace Sys2Proof.Machine

open Fp

/-! ### F32 patterns by their fields -/

/-- An F32 pattern read by its exponent and fraction fields (R44). -/
theorem read_f32 (x : Nat) : f32.read x =
    if x / 2 ^ 23 % 256 = 255 then (if x % 2 ^ 23 = 0 then .inf (decide (x / 2 ^ 31 % 2 = 1)) else .nan)
    else if x / 2 ^ 23 % 256 = 0 then .fin (decide (x / 2 ^ 31 % 2 = 1)) (x % 2 ^ 23) (-149)
    else .fin (decide (x / 2 ^ 31 % 2 = 1)) (2 ^ 23 + x % 2 ^ 23) ((x / 2 ^ 23 % 256 : Nat) - 150) := by
  have emin : f32.emin = -149 := rfl
  have frac : f32.frac = 23 := rfl
  have sign : f32.signBit = 2 ^ 31 := rfl
  have scale (n : Int) : -149 + (n - 1) = n - 150 := by omega
  simp only [Fmt.read, emin, frac, sign, scale, beq_eq_decide, decide_eq_true_eq]

theorem isNan_f32 (x : Nat) : isNan f32 x = decide (0x7F800000 < x % 2 ^ 31) := by
  rw [Bool.eq_iff_iff, decide_eq_true_eq, isNan, beq_iff_eq, read_f32]
  split_ifs <;> simp <;> omega

/-- The sign of a pattern is not part of its magnitude. -/
theorem magOf_mod (x : Nat) : magOf (x % 2 ^ 31) = magOf x := by
  have ex : x % 2 ^ 31 / 2 ^ 23 % 256 = x / 2 ^ 23 % 256 := by omega
  have fr : x % 2 ^ 31 % 2 ^ 23 = x % 2 ^ 23 := by omega
  simp only [magOf, read_f32, ex, fr]
  split_ifs <;> rfl

theorem magOf_lt (x : Nat) : magOf x < 2 ^ 277 := by
  have sig : x % 2 ^ 23 < 2 ^ 23 := Nat.mod_lt _ (by positivity)
  simp only [magOf, read_f32]
  split_ifs
  · positivity
  · positivity
  · calc x % 2 ^ 23 * 2 ^ (-149 + 149 : Int).toNat < 2 ^ 23 * 2 ^ 254 := by
          exact Nat.mul_lt_mul_of_lt_of_le sig (Nat.pow_le_pow_right (by decide) (by decide)) (by positivity)
      _ = 2 ^ 277 := by rw [← Nat.pow_add]
  · calc (2 ^ 23 + x % 2 ^ 23) * 2 ^ (((x / 2 ^ 23 % 256 : Nat) : Int) - 150 + 149).toNat < 2 ^ 24 * 2 ^ 253 :=
          Nat.mul_lt_mul_of_lt_of_le (by omega) (Nat.pow_le_pow_right (by decide) (by omega)) (by positivity)
      _ = 2 ^ 277 := by rw [← Nat.pow_add]

/-- A finite pattern with a sign, read back (R44). -/
theorem read_signed (neg : Bool) {p : Nat} (hp : p < f32.infBits) :
    ∃ m e, f32.read (f32.signed neg p) = .fin neg m e ∧ 0 ≤ e + 149 ∧ m * 2 ^ (e + 149).toNat = mag f32 149 p := by
  have bound : p < 255 * 2 ^ 23 := hp
  have signed : f32.signed neg p = (if neg then 2 ^ 31 else 0) + p := by cases neg <;> simp [Fmt.signed, Fmt.signBit, f32]
  have sign : decide (((if neg then 2 ^ 31 else 0) + p) / 2 ^ 31 % 2 = 1) = neg := by cases neg <;> simp <;> omega
  have ex : ((if neg then 2 ^ 31 else 0) + p) / 2 ^ 23 % 256 = p / 2 ^ 23 := by cases neg <;> simp <;> omega
  have fr : ((if neg then 2 ^ 31 else 0) + p) % 2 ^ 23 = p % 2 ^ 23 := by cases neg <;> simp <;> omega
  have scale : (f32.emin + (149 : Nat)).toNat = 0 := rfl
  rw [signed, read_f32, sign, ex, fr, if_neg (by omega), mag, scale, show f32.frac = 23 from rfl]
  split_ifs with sub lt lt
  · exact ⟨_, _, rfl, by decide, by rw [sub]; rfl⟩
  · omega
  · omega
  · refine ⟨_, _, rfl, by omega, ?_⟩
    rw [Nat.add_comm (2 ^ 23)]
    congr 2
    omega

/-- A magnitude of at most 24 significant bits is the magnitude of a pattern. -/
theorem exists_mag_eq {c : Nat} (hc : c < 2 ^ 24) (x : Nat) : ∃ p, mag f32 149 p = c * 2 ^ x := by
  have scaled : ∃ q n, (q = 0 ∨ 2 ^ 23 ≤ n) ∧ n < 2 ^ 24 ∧ n * 2 ^ q = c * 2 ^ x := by
    induction x with
    | zero => exact ⟨0, c, .inl rfl, hc, rfl⟩
    | succ x ih =>
      obtain ⟨q, n, normal, lt, eq⟩ := ih
      by_cases full : 2 ^ 23 ≤ n
      · exact ⟨q + 1, n, .inr full, lt, by rw [Nat.pow_succ, Nat.pow_succ, ← Nat.mul_assoc, ← Nat.mul_assoc, eq]⟩
      · obtain rfl : q = 0 := normal.resolve_right full
        exact ⟨0, 2 * n, .inl rfl, by omega, by rw [Nat.pow_succ, ← Nat.mul_assoc, ← eq]; omega⟩
  obtain ⟨q, n, normal, lt, eq⟩ := scaled
  refine ⟨q * 2 ^ 23 + n, ?_⟩
  rw [show (23 : Nat) = f32.frac from rfl, mag_scaled f32 149 q n normal (show n ≤ 2 * 2 ^ 23 by omega), ← eq]
  congr 2
  exact Nat.zero_add q

/-- A magnitude of at most 24 significant bits below the format's limit is delivered as it is (R49: decoding never rounds). -/
theorem read_round_exact (mode : RMode) (neg : Bool) {c : Nat} {e : Int} (hc : c < 2 ^ 24) (he : 0 ≤ e + 149) (fin : c * 2 ^ (e + 149).toNat < 2 ^ 277) :
    (round f32 mode neg c e).bits < 2 ^ 32 ∧
    ∃ m1 e1, f32.read (round f32 mode neg c e).bits = .fin neg m1 e1 ∧ 0 ≤ e1 + 149 ∧ m1 * 2 ^ (e1 + 149).toNat = c * 2 ^ (e + 149).toNat := by
  obtain ⟨p, hp⟩ := exists_mag_eq hc (e + 149).toNat
  have limit : mag f32 149 f32.infBits = 2 ^ 277 := by rw [mag]; decide +kernel
  have lt : p < f32.infBits := (mag_strictMono f32 149).lt_iff_lt.mp (by rw [hp, limit]; exact fin)
  have bits := (round_roundedOnce (f := f32) (K := 149) (by decide) mode neg c he (by decide)).exact p lt hp.symm
  have small : p < 2 ^ 31 := lt.trans (by decide)
  rw [bits, ← hp]
  refine ⟨?_, read_signed neg lt⟩
  cases neg <;> simp [Fmt.signed, Fmt.signBit, f32] <;> omega

/-! ### Decoding (R49) -/

theorem sxDecode_getD (m : Nat) (scale : BitVec 16) (codes : List Nat) {i : Nat} (hi : i < 16) :
    (sxDecode m scale codes).getD i 0 = if scale.toNat / 256 = 255 then 0x7FC00000
      else BitVec.ofNat 32 (round f32 .rn (decide (codes.getD i 0 / 2 ^ m % 2 = 1)) (codes.getD i 0 % 2 ^ m)
        (((scale.toNat / 256 : Nat) : Int) - 127 - (sxSigma scale (i / 4) : Int) - ((m : Int) - 1))).bits := by
  rw [sxDecode, List.getD_eq_getElem?_getD, List.getElem?_map, List.getElem?_range hi]
  simp only [Option.map_some, Option.getD_some, beq_eq_decide, decide_eq_true_eq]

/-- A block whose exponent is not that of NaN decodes exactly. -/
theorem sxDecode_exact {m : Nat} (hm : m ≤ 7) (scale : BitVec 16) (codes : List Nat) {i : Nat} (hi : i < 16) (finite : scale.toNat / 256 ≠ 255) :
    ∃ m1 e1, f32.read ((sxDecode m scale codes).getD i 0).toNat = .fin (decide (codes.getD i 0 / 2 ^ m % 2 = 1)) m1 e1 ∧ 0 ≤ e1 + 149
      ∧ m1 * 2 ^ (e1 + 149).toNat * 2 ^ (sxSigma scale (i / 4) + m) = codes.getD i 0 % 2 ^ m * 2 ^ (scale.toNat / 256 + 23) := by
  rw [sxDecode_getD m scale codes hi, if_neg finite]
  have expo : scale.toNat / 256 ≤ 254 := by omega
  have sigma : sxSigma scale (i / 4) ≤ 3 := by unfold sxSigma; omega
  have code : codes.getD i 0 % 2 ^ m < 2 ^ m := Nat.mod_lt _ (by positivity)
  generalize scale.toNat / 256 = E at *
  generalize sxSigma scale (i / 4) = S at *
  generalize codes.getD i 0 % 2 ^ m = c at *
  have unitE : ((E : Int) - 127 - S - (m - 1) + 149).toNat = E + 23 - (S + m) := by omega
  have c_lt : c < 2 ^ 24 := code.trans_le (Nat.pow_le_pow_right (by decide) (by omega))
  have fin : c * 2 ^ (E + 23 - (S + m)) < 2 ^ 277 :=
    calc c * 2 ^ (E + 23 - (S + m)) < 2 ^ m * 2 ^ (E + 23 - (S + m)) := Nat.mul_lt_mul_of_pos_right code (by positivity)
      _ = 2 ^ (m + (E + 23 - (S + m))) := (Nat.pow_add ..).symm
      _ ≤ 2 ^ 277 := Nat.pow_le_pow_right (by decide) (by omega)
  obtain ⟨lt, m1, e1, read, nonneg, value⟩ := read_round_exact .rn (decide (codes.getD i 0 / 2 ^ m % 2 = 1)) (e := (E : Int) - 127 - S - (m - 1)) c_lt (by omega) (by rw [unitE]; exact fin)
  rw [BitVec.toNat_ofNat, Nat.mod_eq_of_lt lt]
  refine ⟨m1, e1, read, nonneg, ?_⟩
  rw [value, unitE, Nat.mul_assoc, ← Nat.pow_add]
  congr 2
  omega

end Sys2Proof.Machine
end

section
/-! PROOF. SX blocks (02 R48, R50, R56): the parts of an encoded block, and what R50 says of each. -/

namespace Sys2Proof.Machine

open Fp

/-! ### The parts of an encoding -/

/-- An input as it is encoded: an infinity as the largest finite value of its sign (R50). -/
def sxClip (x : Nat) : Nat := if x % 2 ^ 31 == f32.infBits then x / 2 ^ 31 * 2 ^ 31 + f32.maxBits else x

/-- The magnitude of input `i`, in units of 2^-149. -/
def sxMag (xs : List Nat) (i : Nat) : Nat := ((xs.map sxClip).map fun x => magOf x).getD i 0

/-- The sign bit of input `i`. -/
def sxSign (xs : List Nat) (i : Nat) : Nat := (xs.map sxClip).getD i 0 / 2 ^ 31 % 2

/-- The largest magnitude of a block. -/
def sxPeak (xs : List Nat) : Nat := ((xs.map sxClip).map fun x => magOf x).foldl Nat.max 0

/-- The exponent of a block with the largest magnitude `a` (R50). -/
def sxExp (a : Nat) : Int := Word.clamp (-127) 127 ((bitLen a : Int) - 1 - 149)

/-- The largest magnitude of a group is below the limit of the shift `h` (R50). -/
@[reducible] def SxFits (m : Nat) (e : Int) (mag : Nat → Nat) (g h : Nat) : Prop :=
  ((List.range 4).map fun j => mag (4 * g + j)).foldl Nat.max 0 * 2 ^ m < 2 ^ (e - h + 1 + 149).toNat * (2 ^ m - 1)

/-- The shift of a group (R50). -/
def sxShift (m : Nat) (e : Int) (mag : Nat → Nat) (g : Nat) : Nat :=
  if SxFits m e mag g 3 then 3 else if SxFits m e mag g 2 then 2 else if SxFits m e mag g 1 then 1 else 0

/-- The magnitude code of an input before it is limited (R50). -/
def sxQuot (m : Nat) (e : Int) (mag : Nat → Nat) (i : Nat) : Nat :=
  toIntegral .rn false (mag i) (((m : Int) - 1) - (e - (sxShift m e mag (i / 4) : Int)) - 149)

/-- The counts of one lane of R56, one for each lane of a block that meets `p`. -/
def sxCounts (c : Nat) (p : Nat → Bool) : List Nat := ((List.range 16).filter p).map fun _ => c

section
variable (m : Nat) (xs : List Nat) (noNan : ∀ x ∈ xs, isNan f32 x = false)
include noNan

/-- A block of zeros keeps their signs. -/
theorem sxEncode_zeros (h : sxPeak xs = 0) :
    sxEncode m xs = (⟨0, (List.range 16).map fun i => sxSign xs i * 2 ^ m⟩, (xs.filter fun x => x % 2 ^ 31 == f32.infBits).map (fun _ => 3) ++ [4]) := by
  have nan : ¬ xs.any (fun x => isNan f32 x) = true := by simpa using noNan
  rw [sxEncode, if_neg nan]
  exact if_pos (by rw [beq_iff_eq]; exact h)

/-- Any other block, by its parts. -/
theorem sxEncode_values (h : sxPeak xs ≠ 0) :
    let e := sxExp (sxPeak xs)
    let shift := sxShift m e (sxMag xs)
    let q := sxQuot m e (sxMag xs)
    sxEncode m xs = (⟨BitVec.ofNat 16 ((e + 127).toNat * 256 + (shift 0 + 4 * shift 1 + 16 * shift 2 + 64 * shift 3)),
        (List.range 16).map fun i => sxSign xs i * 2 ^ m + min (q i) (2 ^ m - 1)⟩,
      (xs.filter fun x => x % 2 ^ 31 == f32.infBits).map (fun _ => 3) ++ sxCounts 0 (fun i => 2 ^ m - 1 < q i) ++ sxCounts 1 (fun i => q i == 0 && sxMag xs i != 0) ++ [4]) := by
  have nan : ¬ xs.any (fun x => isNan f32 x) = true := by simpa using noNan
  intro e shift q
  rw [sxEncode, if_neg nan]
  exact if_neg (by rw [beq_iff_eq]; exact h)
end

/-! ### Signs and magnitudes -/

/-- The magnitude that the statement names: an infinity's is that of the largest finite value. -/
theorem magOf_sxClip (x : Nat) : magOf (sxClip x) = magOf (if x % 2 ^ 31 = 0x7F800000 then 0x7F7FFFFF else x % 2 ^ 31) := by
  have inf : f32.infBits = 0x7F800000 := rfl
  have most : f32.maxBits = 0x7F7FFFFF := rfl
  rw [← magOf_mod (sxClip x), sxClip, inf, most]
  simp only [beq_iff_eq]
  split_ifs with h
  · rw [show (x / 2 ^ 31 * 2 ^ 31 + 0x7F7FFFFF) % 2 ^ 31 = 0x7F7FFFFF by omega]
  · rfl

theorem sxClip_sign {x : Nat} (hx : x < 2 ^ 32) : sxClip x / 2 ^ 31 % 2 = x / 2 ^ 31 := by
  have inf : f32.infBits = 0x7F800000 := rfl
  have most : f32.maxBits = 0x7F7FFFFF := rfl
  rw [sxClip, inf, most]
  simp only [beq_iff_eq]
  split_ifs <;> omega

section
variable {xs : List Nat} (len : xs.length = 16)

theorem sxMag_eq (i : Nat) : sxMag xs i = magOf (if xs.getD i 0 % 2 ^ 31 = 0x7F800000 then 0x7F7FFFFF else xs.getD i 0 % 2 ^ 31) := by
  rw [← magOf_sxClip, sxMag, List.map_map]
  cases h : xs[i]? <;> simp [List.getD, h]
  rfl

theorem sxSign_eq (small : ∀ x ∈ xs, x < 2 ^ 32) (i : Nat) : sxSign xs i = xs.getD i 0 / 2 ^ 31 := by
  cases h : xs[i]? with
  | none => simp [sxSign, List.getD, h]
  | some x => simpa [sxSign, List.getD, h] using sxClip_sign (small x (List.mem_of_getElem? h))

theorem sxMag_lt (i : Nat) : sxMag xs i < 2 ^ 277 := by rw [sxMag_eq]; exact magOf_lt _

/-- What holds of a greatest value exactly when it holds of both holds of the greatest of a list when it holds of each. -/
theorem foldl_max_iff {p : Nat → Prop} (hp : ∀ x y, p (Nat.max x y) ↔ p x ∧ p y) (ys : List Nat) : ∀ b, p (ys.foldl Nat.max b) ↔ p b ∧ ∀ y ∈ ys, p y := by
  induction ys with
  | nil => simp
  | cons y ys ih => intro b; rw [List.foldl_cons, ih, hp, List.forall_mem_cons, and_assoc]

theorem forall_mem_iff_getD {ys : List Nat} {n : Nat} (h : ys.length = n) {p : Nat → Prop} : (∀ y ∈ ys, p y) ↔ ∀ i, i < n → p (ys.getD i 0) := by
  subst h
  refine ⟨fun all i hi => ?_, fun all y hy => ?_⟩
  · rw [List.getD_eq_getElem _ _ hi]
    exact all _ (List.getElem_mem hi)
  · obtain ⟨i, hi, rfl⟩ := List.getElem_of_mem hy
    simpa only [List.getD_eq_getElem _ _ hi] using all i hi

include len

theorem sxPeak_le_iff (c : Nat) : sxPeak xs ≤ c ↔ ∀ i, i < 16 → sxMag xs i ≤ c := by
  rw [sxPeak, foldl_max_iff (p := (· ≤ c)) fun x y => max_le_iff, and_iff_right (Nat.zero_le c)]
  exact forall_mem_iff_getD (by simpa using len)

theorem sxPeak_eq {a : Nat} (reached : ∃ i, i < 16 ∧ sxMag xs i = a) (le : ∀ i, i < 16 → sxMag xs i ≤ a) : sxPeak xs = a := by
  obtain ⟨i, hi, rfl⟩ := reached
  exact le_antisymm ((sxPeak_le_iff len _).mpr le) ((sxPeak_le_iff len _).mp le_rfl i hi)

theorem sxPeak_lt : sxPeak xs < 2 ^ 277 := Nat.lt_of_le_pred (by positivity) ((sxPeak_le_iff len _).mpr fun i _ => Nat.le_pred_of_lt (sxMag_lt i))

/-- How many inputs of a block are infinities. -/
theorem length_filter_block (p : Nat → Bool) : (xs.filter p).length = ((List.range 16).filter fun i => p (xs.getD i 0)).length := by
  have block : xs = (List.range 16).map fun i => xs.getD i 0 := by
    refine List.ext_getElem (by simpa using len) fun i h _ => by simp [List.getD, h]
  conv_lhs => rw [block, List.filter_map, List.length_map]
  rfl
end

/-! ### The exponent (R50) -/

/-- The biased exponent of a block: 0 below the least normal magnitude, else the place of the leading bit of the largest. -/
theorem sxExp_spec {a : Nat} (h : a ≠ 0) (lt : a < 2 ^ 277) : ∃ E : Nat, sxExp a = E - 127 ∧ E ≤ 254 ∧ (a < 2 ^ 23 → E = 0) ∧ (2 ^ 23 ≤ a → 2 ^ (E + 22) ≤ a ∧ a < 2 ^ (E + 23)) := by
  unfold sxExp
  obtain ⟨low, high, pos⟩ := bitLen_spec h
  generalize bitLen a = L at *
  have L_le : L ≤ 277 := by
    by_contra big
    exact absurd (low.trans_lt lt) (Nat.not_lt.mpr (Nat.pow_le_pow_right (by decide) (by omega)))
  refine ⟨L - 23, ?_, by omega, fun sub => ?_, fun normal => ?_⟩
  · simp only [Word.clamp]
    split_ifs <;> omega
  · have := (Nat.pow_lt_pow_iff_right (a := 2) (by decide)).mp (low.trans_lt sub)
    omega
  · have := (Nat.pow_lt_pow_iff_right (a := 2) (by decide)).mp (normal.trans_lt high)
    rw [show L - 23 + 22 = L - 1 by omega, show L - 23 + 23 = L by omega]
    exact ⟨low, high⟩

/-! ### The group shifts (R50) -/

theorem sxFits_iff {m E g h : Nat} {mag : Nat → Nat} (hm : m ≠ 0) (hh : h ≤ 3) :
    SxFits m (E - 127) mag g h ↔ ∀ i, i / 4 = g → mag i * 2 ^ m < 2 ^ (E + 23 - h) * (2 ^ m - 1) := by
  have limit : 0 < 2 ^ (E + 23 - h) * (2 ^ m - 1) := Nat.mul_pos (by positivity) (Nat.sub_pos_of_lt (Nat.one_lt_two_pow hm))
  rw [SxFits, show ((E : Int) - 127 - h + 1 + 149).toNat = E + 23 - h by omega,
    foldl_max_iff (p := fun x => x * 2 ^ m < 2 ^ (E + 23 - h) * (2 ^ m - 1)) fun x y => by rw [← max_lt_iff, Nat.mul_max_mul_right]]
  rw [Nat.zero_mul, and_iff_right limit, List.forall_mem_map]
  refine ⟨fun all i hi => ?_, fun all j hj => all _ ?_⟩
  · have := all (i % 4) (List.mem_range.mpr (by omega))
    rwa [show 4 * g + i % 4 = i by omega] at this
  · have := List.mem_range.mp hj
    omega

theorem sxShift_le (m : Nat) (e : Int) (mag : Nat → Nat) (g : Nat) : sxShift m e mag g ≤ 3 := by
  unfold sxShift; split_ifs <;> omega

/-- The shift of a group is the largest whose limit its magnitudes are below, or none. -/
theorem sxShift_spec (m : Nat) (e : Int) (mag : Nat → Nat) (g : Nat) :
    (sxShift m e mag g ≠ 0 → SxFits m e mag g (sxShift m e mag g)) ∧ ∀ h, sxShift m e mag g < h → h ≤ 3 → ¬SxFits m e mag g h := by
  unfold sxShift
  split_ifs with h3 h2 h1
  · exact ⟨fun _ => h3, fun h _ _ => by omega⟩
  · exact ⟨fun _ => h2, fun h _ _ => by obtain rfl : h = 3 := by omega
                                        exact h3⟩
  · exact ⟨fun _ => h1, fun h _ _ => by obtain rfl | rfl : h = 2 ∨ h = 3 := by omega
                                        exacts [h2, h3]⟩
  · exact ⟨fun z => absurd rfl z, fun h _ _ => by obtain rfl | rfl | rfl : h = 1 ∨ h = 2 ∨ h = 3 := by omega
                                                  exacts [h1, h2, h3]⟩

/-! ### The codes (R50) -/

/-- `q` is `num / den` rounded to the nearest integer, a tie to the even one. -/
def NearestEven (num den q : Nat) : Prop :=
  2 * num ≤ (2 * q + 1) * den ∧ 2 * q * den ≤ 2 * num + den ∧ (2 * num = (2 * q + 1) * den ∨ 2 * q * den = 2 * num + den → q % 2 = 0)

theorem NearestEven.scale {num den q c : Nat} (h : NearestEven num den q) (hc : 0 < c) : NearestEven (num * c) (den * c) q := by
  obtain ⟨below, above, tie⟩ := h
  refine ⟨?_, ?_, fun t => tie ?_⟩
  · simpa only [Nat.mul_assoc] using Nat.mul_le_mul_right c below
  · simpa only [Nat.mul_assoc, Nat.add_mul] using Nat.mul_le_mul_right c above
  · simpa only [← Nat.mul_assoc, ← Nat.add_mul, Nat.mul_left_inj hc.ne'] using t

theorem nearestEven_exact (q : Nat) {den : Nat} (hd : 0 < den) : NearestEven (q * den) den q :=
  ⟨by rw [Nat.add_mul, Nat.mul_assoc]; omega, by rw [Nat.mul_assoc]; omega, by rw [Nat.add_mul, Nat.mul_assoc]; omega⟩

theorem nearestEven_roundUp (v : Nat) {u : Nat} (hu : 0 < u) : NearestEven v u (if roundUp .rn false (v / u) (v % u) u then v / u + 1 else v / u) := by
  have rem : v % u < u := Nat.mod_lt _ hu
  have cut : v = v / u * u + v % u := (Nat.div_add_mod' v u).symm
  generalize v / u = n at *
  generalize v % u = r at *
  have up : 2 * (n + 1) * u = 2 * (n * u) + 2 * u := by ring
  have down : 2 * n * u = 2 * (n * u) := by ring
  unfold NearestEven
  rw [Nat.add_mul]
  split <;> rename_i h <;> simp [roundUp] at h <;> simp only [up, down] <;> omega

/-- R50 rounds the magnitude code to nearest, a tie to even. -/
theorem toIntegral_rn (v p d : Nat) : NearestEven (v * 2 ^ p) (2 ^ d) (toIntegral .rn false v ((p : Int) - d)) := by
  by_cases h : d ≤ p
  · rw [toIntegral, if_pos (by omega), show ((p : Int) - d).toNat = p - d by omega]
    have : v * 2 ^ p = v * 2 ^ (p - d) * 2 ^ d := by rw [Nat.mul_assoc, ← Nat.pow_add, Nat.sub_add_cancel h]
    rw [this]
    exact nearestEven_exact _ (by positivity)
  · rw [toIntegral, if_neg (by omega), show (-((p : Int) - d)).toNat = d - p by omega]
    have : 2 ^ d = 2 ^ (d - p) * 2 ^ p := by rw [← Nat.pow_add, Nat.sub_add_cancel (Nat.le_of_not_le h)]
    rw [this]
    exact (nearestEven_roundUp v (by positivity)).scale (by positivity)

end Sys2Proof.Machine
end

section
/-! PROOF. SX blocks (02 R48, R50, R56): an encoded block as a whole, from its parts. -/

namespace Sys2Proof.Machine

open Fp

/-! ### The block -/

section
variable {m : Nat} {xs : List Nat}

theorem sxEncode_nan (h : ∃ x ∈ xs, isNan f32 x = true) : sxEncode m xs = (⟨0xFF00, List.replicate 16 0⟩, [2, 4]) := if_pos (by simpa using h)

/-- The magnitude codes are the exact quotients, rounded to nearest even. -/
theorem sxQuot_nearest (hm : m ≠ 0) (E : Nat) (mag : Nat → Nat) (i : Nat) :
    NearestEven (mag i * 2 ^ (m - 1 + sxShift m (E - 127) mag (i / 4))) (2 ^ (E + 22)) (sxQuot m (E - 127) mag i) := by
  have exponent : ((m : Int) - 1) - ((E : Int) - 127 - (sxShift m (E - 127) mag (i / 4) : Int)) - 149
      = ((m - 1 + sxShift m (E - 127) mag (i / 4) : Nat) : Int) - (E + 22 : Nat) := by omega
  rw [sxQuot, exponent]
  exact toIntegral_rn _ _ _

/-- The scale word of a block: 0 for zeros alone, else the exponent above the shifts of the groups (R48). -/
def sxScale (m : Nat) (xs : List Nat) : BitVec 16 :=
  let e := sxExp (sxPeak xs)
  let shift := sxShift m e (sxMag xs)
  if sxPeak xs = 0 then 0 else BitVec.ofNat 16 ((e + 127).toNat * 256 + (shift 0 + 4 * shift 1 + 16 * shift 2 + 64 * shift 3))

theorem sxQuot_of_zeros (h : ∀ i, sxMag xs i = 0) (e : Int) (i : Nat) : sxQuot m e (sxMag xs) i = 0 := by
  rw [sxQuot, h i, toIntegral]
  split
  · exact Nat.zero_mul _
  · simp [roundUp]

/-- An encoded block of numbers by its parts; zeros alone have zero codes (R50, R56). -/
theorem sxEncode_eq (len : xs.length = 16) (noNan : ∀ x ∈ xs, isNan f32 x = false) :
    let q := sxQuot m (sxExp (sxPeak xs)) (sxMag xs)
    sxEncode m xs = (⟨sxScale m xs, (List.range 16).map fun i => sxSign xs i * 2 ^ m + min (q i) (2 ^ m - 1)⟩,
      (xs.filter fun x => x % 2 ^ 31 == f32.infBits).map (fun _ => 3) ++ sxCounts 0 (fun i => 2 ^ m - 1 < q i) ++ sxCounts 1 (fun i => q i == 0 && sxMag xs i != 0) ++ [4]) := by
  intro q
  by_cases zeros : sxPeak xs = 0
  · have mag : ∀ i, sxMag xs i = 0 := fun i => by
      by_cases hi : i < 16
      · exact Nat.le_zero.mp ((sxPeak_le_iff len 0).mp zeros.le i hi)
      · simp [sxMag, List.getD, len, hi]
    have q_zero : q = fun _ => 0 := funext (sxQuot_of_zeros mag _)
    rw [sxEncode_zeros m xs noNan zeros, sxScale, if_pos zeros, q_zero]
    simp [sxCounts, mag]
  · rw [sxEncode_values m xs noNan zeros, sxScale, if_neg zeros]

end

/-! ### What the word and the counts hold -/

theorem sxScale_fields {E : Nat} {s : Nat → Nat} (hE : E ≤ 254) (hs : ∀ g, s g ≤ 3) :
    let w := BitVec.ofNat 16 (E * 256 + (s 0 + 4 * s 1 + 16 * s 2 + 64 * s 3))
    w.toNat / 256 = E ∧ ∀ g, g < 4 → w.toNat / 2 ^ (2 * g) % 4 = s g := by
  intro w
  have h0 := hs 0
  have h1 := hs 1
  have h2 := hs 2
  have h3 := hs 3
  have value : w.toNat = E * 256 + (s 0 + 4 * s 1 + 16 * s 2 + 64 * s 3) := by rw [BitVec.toNat_ofNat, Nat.mod_eq_of_lt (by omega)]
  rw [value]
  refine ⟨by omega, fun g hg => ?_⟩
  interval_cases g <;> omega

theorem length_filter_map_const {α : Type} (c lane : Nat) (ys : List α) :
    ((ys.map fun _ => c).filter fun z => z == lane).length = if c = lane then ys.length else 0 := by
  split
  next h => simp [h]
  next h => simp [h]

/-- The counts of an encoded block, lane by lane (R56). -/
theorem length_filter_tally {α : Type} (ys : List α) (p0 p1 : Nat → Bool) (lane : Nat) :
    ((ys.map (fun _ => 3) ++ sxCounts 0 p0 ++ sxCounts 1 p1 ++ [4]).filter fun z => z == lane).length
      = (if 3 = lane then ys.length else 0) + (if 0 = lane then ((List.range 16).filter p0).length else 0)
        + (if 1 = lane then ((List.range 16).filter p1).length else 0) + if 4 = lane then 1 else 0 := by
  have last : ([4].filter fun z => z == lane).length = if 4 = lane then 1 else 0 := length_filter_map_const 4 lane [()]
  simp only [List.filter_append, List.length_append, sxCounts, length_filter_map_const, last]

/-! ### R50 of a whole block -/

section
variable {m : Nat} {xs : List Nat} (len : xs.length = 16) (small : ∀ x ∈ xs, x < 2 ^ 32) (noNan : ∀ x ∈ xs, isNan f32 x = false)
include len small noNan

theorem sxEncode_signs : (sxEncode m xs).1.codes.length = 16 ∧ ∀ i, i < 16 → (sxEncode m xs).1.codes.getD i 0 / 2 ^ m = xs.getD i 0 / 2 ^ 31 := by
  rw [sxEncode_eq len noNan]
  refine ⟨by simp, fun i hi => ?_⟩
  have below : ∀ q, min q (2 ^ m - 1) < 2 ^ m := fun q => by have := Nat.two_pow_pos m; omega
  rw [getD_map_range _ hi, sxSign_eq small, Nat.mul_comm, Nat.mul_add_div (by positivity), Nat.div_eq_of_lt (below _), Nat.add_zero]

omit small in
theorem sxEncode_code {i : Nat} (hi : i < 16) :
    (sxEncode m xs).1.codes.getD i 0 % 2 ^ m = min (sxQuot m (sxExp (sxPeak xs)) (sxMag xs) i) (2 ^ m - 1) := by
  have below : ∀ q, min q (2 ^ m - 1) < 2 ^ m := fun q => by have := Nat.two_pow_pos m; omega
  rw [sxEncode_eq len noNan, getD_map_range _ hi, Nat.mul_comm, Nat.mul_add_mod, Nat.mod_eq_of_lt (below _)]

omit small in
theorem sxEncode_counts (lane : Nat) : ((sxEncode m xs).2.filter fun z => z == lane).length
    = (if 3 = lane then ((List.range 16).filter fun i => xs.getD i 0 % 2 ^ 31 == 0x7F800000).length else 0)
      + (if 0 = lane then ((List.range 16).filter fun i => decide (2 ^ m - 1 < sxQuot m (sxExp (sxPeak xs)) (sxMag xs) i)).length else 0)
      + (if 1 = lane then ((List.range 16).filter fun i => sxQuot m (sxExp (sxPeak xs)) (sxMag xs) i == 0 && sxMag xs i != 0).length else 0) + if 4 = lane then 1 else 0 := by
  rw [sxEncode_eq len noNan]
  rw [length_filter_tally, length_filter_block len]
  rfl
end

/-- What R50 asks of the magnitude codes and the group shifts of a block whose largest magnitude is `a`. -/
def SxRounded (m : Nat) (mag code shift : Nat → Nat) (counts : Nat → Nat → Prop) (expo a : Nat) : Prop :=
  (a < 2 ^ 23 → expo = 0) ∧ (2 ^ 23 ≤ a → 2 ^ (expo + 22) ≤ a ∧ a < 2 ^ (expo + 23))
  ∧ (∀ g, g < 4 →
      let fits := fun (h : Nat) => ∀ i, i / 4 = g → mag i * 2 ^ m < 2 ^ (expo + 23 - h) * (2 ^ m - 1)
      (shift g ≠ 0 → fits (shift g)) ∧ ∀ h, shift g < h → h ≤ 3 → ¬fits h)
  ∧ ∃ q : Nat → Nat, (∀ i, i < 16 → code i % 2 ^ m = min (q i) (2 ^ m - 1) ∧ NearestEven (mag i * 2 ^ (m - 1 + shift (i / 4))) (2 ^ (expo + 22)) (q i))
    ∧ counts 0 ((List.range 16).filter fun i => decide (2 ^ m - 1 < q i)).length ∧ counts 1 ((List.range 16).filter fun i => q i == 0 && mag i != 0).length

theorem sxEncode_rounded {m : Nat} {xs : List Nat} (hm : m ≠ 0) (len : xs.length = 16) (noNan : ∀ x ∈ xs, isNan f32 x = false) (h : sxPeak xs ≠ 0) :
    let r := sxEncode m xs
    SxRounded m (sxMag xs) (fun i => r.1.codes.getD i 0) (fun g => r.1.scale.toNat / 2 ^ (2 * g) % 4) (fun lane n => (r.2.filter fun z => z == lane).length = n)
      (r.1.scale.toNat / 256) (sxPeak xs) := by
  intro r
  obtain ⟨E, hE, le, sub, normal⟩ := sxExp_spec h (sxPeak_lt len)
  have scale : r.1.scale = BitVec.ofNat 16 (E * 256 + (sxShift m (E - 127) (sxMag xs) 0 + 4 * sxShift m (E - 127) (sxMag xs) 1
      + 16 * sxShift m (E - 127) (sxMag xs) 2 + 64 * sxShift m (E - 127) (sxMag xs) 3)) := by
    have unbiased : ((E : Int) - 127 + 127).toNat = E := by omega
    rw [show r = _ from sxEncode_eq len noNan, sxScale, if_neg h, hE, unbiased]
  obtain ⟨expo, shift⟩ := sxScale_fields le (sxShift_le m (E - 127) (sxMag xs))
  rw [← scale] at expo shift
  rw [expo]
  refine ⟨sub, normal, fun g hg => ?_, sxQuot m (E - 127) (sxMag xs), fun i hi => ⟨?_, ?_⟩, ?_, ?_⟩
  · obtain ⟨fits, largest⟩ := sxShift_spec m (E - 127) (sxMag xs) g
    simp only [shift g hg]
    exact ⟨fun ne => (sxFits_iff hm (sxShift_le ..)).mp (fits ne), fun h lt h3 ok => largest h lt h3 ((sxFits_iff hm h3).mpr ok)⟩
  · rw [← hE]
    exact sxEncode_code len noNan hi
  · simp only [shift (i / 4) (by omega)]
    exact sxQuot_nearest hm E _ i
  · simpa [← hE] using sxEncode_counts len noNan 0
  · simpa [← hE] using sxEncode_counts len noNan 1

theorem sxEncode_zeros_spec {m : Nat} {xs : List Nat} (len : xs.length = 16) (noNan : ∀ x ∈ xs, isNan f32 x = false) (h : ∀ i, i < 16 → sxMag xs i = 0) :
    let r := sxEncode m xs
    r.1.scale = 0 ∧ (∀ i, i < 16 → r.1.codes.getD i 0 % 2 ^ m = 0) ∧ (r.2.filter fun z => z == 0).length = 0 ∧ (r.2.filter fun z => z == 1).length = 0 := by
  have peak : sxPeak xs = 0 := Nat.le_zero.mp ((sxPeak_le_iff len 0).mpr fun i hi => (h i hi).le)
  intro r
  have e : r = _ := sxEncode_zeros m xs noNan peak
  rw [e]
  refine ⟨rfl, fun i hi => by rw [getD_map_range _ hi, Nat.mul_mod_left], ?_, ?_⟩
  · simp
  · simp

/-- What R48, R50 and R56 say of an encoded block. -/
theorem sxEncode_spec {m : Nat} {xs : List Nat} (hm : m ≠ 0) (len : xs.length = 16) (small : ∀ x ∈ xs, x < 2 ^ 32) :
    let r := sxEncode m xs
    let code := fun (i : Nat) => r.1.codes.getD i 0
    let counts := fun (lane n : Nat) => (r.2.filter (fun z => z == lane)).length = n
    ((∃ y ∈ xs, 0x7F800000 < y % 2 ^ 31) → r = (⟨0xFF00, List.replicate 16 0⟩, [2, 4]))
    ∧ ((∀ y ∈ xs, y % 2 ^ 31 ≤ 0x7F800000) →
        r.1.codes.length = 16 ∧ (∀ i, i < 16 → code i / 2 ^ m = xs.getD i 0 / 2 ^ 31)
        ∧ counts 2 0 ∧ counts 3 ((List.range 16).filter fun i => xs.getD i 0 % 2 ^ 31 == 0x7F800000).length ∧ counts 4 1
        ∧ ((∀ i, i < 16 → sxMag xs i = 0) → r.1.scale = 0 ∧ (∀ i, i < 16 → code i % 2 ^ m = 0) ∧ counts 0 0 ∧ counts 1 0)
        ∧ (∀ a, (∃ i, i < 16 ∧ sxMag xs i = a) → (∀ i, i < 16 → sxMag xs i ≤ a) → a ≠ 0 →
            SxRounded m (sxMag xs) code (fun g => r.1.scale.toNat / 2 ^ (2 * g) % 4) counts (r.1.scale.toNat / 256) a)) := by
  intro r code counts
  refine ⟨fun ⟨y, hy, nan⟩ => sxEncode_nan ⟨y, hy, by rw [isNan_f32]; exact decide_eq_true nan⟩, fun numbers => ?_⟩
  have noNan : ∀ x ∈ xs, isNan f32 x = false := fun x hx => by rw [isNan_f32]; exact decide_eq_false (Nat.not_lt.mpr (numbers x hx))
  obtain ⟨length, signs⟩ := sxEncode_signs (m := m) len small noNan
  refine ⟨length, signs, ?_, ?_, ?_, sxEncode_zeros_spec len noNan, fun a reached le pos => ?_⟩
  · exact (sxEncode_counts len noNan 2).trans (by simp)
  · exact (sxEncode_counts len noNan 3).trans (by simp)
  · exact (sxEncode_counts len noNan 4).trans (by simp)
  · obtain rfl := sxPeak_eq len reached le
    exact sxEncode_rounded hm len noNan pos

end Sys2Proof.Machine
end

section
/-! PROOF. Float compare, class, round to integral, and `cvt` of every pair (03 R73, R74, R78 to R81). -/

namespace Sys2Proof.Machine

/-! ### `fcmp` (R73) -/

theorem cmp_cases (f : Fp.Fmt) (l r : Nat) : Fp.cmp f l r = -1 ∨ Fp.cmp f l r = 0 ∨ Fp.cmp f l r = 1 := by
  simp only [Fp.cmp, Fp.cmpV]
  split
  case h_5 => simp
  all_goals split_ifs <;> simp

theorem fcmp_cond_eq {cond : BitVec 3} (h : cond < 7) (f : Fp.Fmt) (l r : Nat) :
    let un := Fp.isNan f l || Fp.isNan f r
    let c := Fp.cmp f l r
    Fp.cond f cond l r = decide ((cond = 0 ∧ un = false ∧ c = 0) ∨ (cond = 1 ∧ (un = true ∨ c ≠ 0)) ∨ (cond = 2 ∧ un = false ∧ c < 0)
      ∨ (cond = 3 ∧ un = false ∧ c ≤ 0) ∨ (cond = 4 ∧ un = false ∧ 0 < c) ∨ (cond = 5 ∧ un = false ∧ 0 ≤ c) ∨ (cond = 6 ∧ un = true)) := by
  intro un c
  have value : c = -1 ∨ c = 0 ∨ c = 1 := cmp_cases f l r
  have unfolded : Fp.cond f cond l r = match cond.toNat with
      | 0 => !un && c == 0 | 1 => un || c != 0 | 2 => !un && c == -1 | 3 => !un && c != 1 | 4 => !un && c == 1 | 5 => !un && c != -1 | _ => un := rfl
  rw [unfolded]
  generalize un = un at *
  generalize c = c at *
  obtain rfl | rfl | rfl | rfl | rfl | rfl | rfl : cond = 0 ∨ cond = 1 ∨ cond = 2 ∨ cond = 3 ∨ cond = 4 ∨ cond = 5 ∨ cond = 6 := by bv_omega
  all_goals obtain rfl | rfl | rfl := value <;> cases un <;> decide

/-! ### `cvt` between formats that are not SX (R79, R80) -/

/-- Width and signedness of an integer format, by its code (R79). -/
theorem cvtInt_eq (c : BitVec 4) :
    cvtInt c = if c = 0 then some (32, false) else if c = 1 then some (32, true) else if c = 4 then some (8, false) else if c = 9 then some (16, false) else none := by
  simp [cvtInt]

theorem sxBits_eq (c : BitVec 4) : sxBits c.toNat = if c = 5 then 2 else if c = 6 then 4 else 7 := by revert c; decide

/-- Whether a code names an SX format (R79). -/
def isSx (c : BitVec 4) : Bool := 5 ≤ c && c ≤ 7

theorem isSx_of_le {c : BitVec 4} (lo : 5 ≤ c) (hi : c ≤ 7) : isSx c = true := by rw [isSx, decide_eq_true lo, decide_eq_true hi]; rfl

theorem isSx_of_cvtInt {c : BitVec 4} {x : Nat × Bool} (h : cvtInt c = some x) : isSx c = false := by
  have : ∀ c : BitVec 4, (cvtInt c).isSome = true → isSx c = false := by decide
  exact this c (by simp [h])

section
variable {w : NodeOp} {src dst : BitVec 4}

theorem cvtCalc_eq (l : Payload) : cvtCalc w src dst l = if isSx dst then cvtToSx (sxBits dst.toNat) l else if isSx src then cvtOfSx (sxBits src.toNat) l
    else .both (Word.ofLanes fun i => cvtLane w src dst (Word.lane l i)) := rfl

theorem cvtCalc_lanes (hs : isSx src = false) (hd : isSx dst = false) (l : Payload) :
    cvtCalc w src dst l = .both (Word.ofLanes fun i => cvtLane w src dst (Word.lane l i)) := by simp [cvtCalc_eq, hs, hd]

/-- `cvt` between formats that are not SX works lane by lane, and counts nothing. -/
theorem fires_cvt_lanes {s : State} {k : TileKey} {n : Nat} {o : Opnds} (h : NodeAt s k n (formOf (.cvt w src dst)) o) (hs : isSx src = false) (hd : isSx dst = false) (f : Nat → Lane)
    (hf : ∀ x : Lane, cvtLane w src dst x = f x.toNat) :
    ∃ a, Fires (.cvt w src dst) s k n o a a ∧ ∀ j, j < 16 → Word.lane a j = f (Word.lane o.l.pay j).toNat :=
  ⟨_, fires_of_both (i := .cvt w src dst) (c := fun l _ _ => cvtCalc w src dst l) rfl (cvtCalc_lanes hs hd _) h, fun j hj => by rw [lane_ofLanes _ _ hj, hf]⟩

theorem cvtInt_f32 : cvtInt 2 = none := rfl

theorem cvtLane_narrow (x : Lane) : cvtLane w 2 3 x = BitVec.ofNat 32 (Fp.narrow w.rm x.toNat).bits := rfl

theorem cvtLane_widen (x : Lane) : cvtLane w 3 2 x = BitVec.ofNat 32 (x.toNat * 2 ^ 16) := by
  rw [show cvtLane w 3 2 x = x <<< 16 from rfl]
  exact BitVec.eq_of_toNat_eq (by simp [Nat.shiftLeft_eq])

theorem cvtLane_toInt {wd : Nat} {ud : Bool} (hd : cvtInt dst = some (wd, ud)) (x : Lane) :
    cvtLane w 2 dst x = BitVec.ofInt 32 (Fp.toInt w.rm (loOf wd ud) (hiOf wd ud) x.toNat) := by
  simp only [cvtLane, cvtInt_f32, hd]

theorem cvtLane_ofInt {ws : Nat} {us : Bool} (hs : cvtInt src = some (ws, us)) (x : Lane) :
    cvtLane w src 2 x = BitVec.ofNat 32 (Fp.ofInt w.rm (readInt ws us (x.toNat % 2 ^ ws))).bits := by
  simp only [cvtLane, cvtInt_f32, hs]

theorem cvtLane_int {ws wd : Nat} {us ud : Bool} (hs : cvtInt src = some (ws, us)) (hd : cvtInt dst = some (wd, ud)) (x : Lane) :
    cvtLane w src dst x = BitVec.ofInt 32 (readInt wd ud (reduceInt wd ud w.sat (readInt ws us (x.toNat % 2 ^ ws)))) := by
  simp only [cvtLane, hs, hd]

/-! ### `cvt` of SX blocks (R81) -/

theorem cvtCalc_toSx (h : isSx dst = true) (l : Payload) : cvtCalc w src dst l = cvtToSx (sxBits dst.toNat) l := by rw [cvtCalc_eq, if_pos h]

theorem cvtCalc_ofSx (h : isSx src = true) (l : Payload) :
    let scale : BitVec 16 := l.extractLsb' 0 16
    cvtCalc w src 2 l = .both (Word.ofLanes fun i => (sxDecode (sxBits src.toNat) scale (sxCodes (sxBits src.toNat) (l.toNat / 2 ^ 16))).getD i 0)
      (if scale.toNat / 256 = 255 then [2, 5] else [5]) := by
  intro scale
  rw [cvtCalc_eq, if_neg (by decide), if_pos h, cvtOfSx, sxDecodeTally]
  simp only [beq_iff_eq]
  rfl
end

/-! ### `rndi` (R78) -/

theorem fires_rndi {s : State} {k : TileKey} {n : Nat} {w : NodeOp} {o : Opnds} (h : NodeAt s k n (formOf (.rndi w)) o) : ∃ a b, Fires (.rndi w) s k n o a b
    ∧ (∀ j, j < 16 → Word.lane a j = BitVec.ofNat 32 (Fp.rndiF w.rm (Word.lane o.l.pay j).toNat))
    ∧ ∀ j, j < 16 → Word.lane b j = BitVec.ofInt 32 (Fp.toInt w.rm (-2 ^ 31) (2 ^ 31 - 1) (Word.lane o.l.pay j).toNat) := by
  have lo : loOf 32 false = -2 ^ 31 := by simp [loOf]
  have hi : hiOf 32 false = 2 ^ 31 - 1 := by simp [hiOf]
  refine ⟨_, _, fires_of_calc (i := .rndi w) (c := fun l _ _ => rndiCalc w l) (x := rndiCalc w o.l.pay) rfl rfl rfl h, fun j hj => ?_, fun j hj => ?_⟩
  · rw [rndiCalc, lane_ofLanes _ _ hj]
  · rw [rndiCalc, lane_ofLanes _ _ hj, lo, hi]

/-! ### O10 -/

/-- Settles O10: the tests by their masks, `rndi` and `cvt` by their lanes, an SX block by `sxEncode_spec` and `sxDecode_exact`. -/
theorem nodeFloatTestsAndConversions : Obligations.NodeFloatTestsAndConversions := by
  unfold Obligations.NodeFloatTestsAndConversions
  refine ⟨?tests, ?cvt, ?encode, ?decode⟩
  case tests =>
    intro s k n w o cond mask
    refine ⟨fun hc h => ?_,
      fun h => ⟨_, fires_of_both (i := .fclass w mask) (c := fun l _ _ => fclassCalc mask l) rfl rfl h, isMask_maskOf fun j _ => rfl⟩, fires_rndi⟩
    have fired := fires_of_both (i := .fcmp w cond) (c := fun l r _ => fcmpCalc cond l r) rfl rfl h
    refine ⟨_, fired, isMask_maskOf fun j _ => ?_⟩
    exact fcmp_cond_eq hc Fp.f32 _ _
  case cvt =>
    intro s k n w o src dst h
    simp only [← cvtInt_eq, ← sxBits_eq]
    have f32 : isSx 2 = false := rfl
    have bf16 : isSx 3 = false := rfl
    refine ⟨?narrow, ?widen, ?toInt, ?ofInt, ?int, ?toSx, ?ofSx⟩
    case narrow => rintro rfl rfl; exact fires_cvt_lanes h f32 bf16 (fun v => BitVec.ofNat 32 (Fp.narrow w.rm v).bits) cvtLane_narrow
    case widen => rintro rfl rfl; exact fires_cvt_lanes h bf16 f32 (fun v => BitVec.ofNat 32 (v * 2 ^ 16)) cvtLane_widen
    case toInt => rintro wd ud rfl hd; exact fires_cvt_lanes h f32 (isSx_of_cvtInt hd) (fun v => BitVec.ofInt 32 (Fp.toInt w.rm (loOf wd ud) (hiOf wd ud) v)) (cvtLane_toInt hd)
    case ofInt => rintro ws us hs rfl; exact fires_cvt_lanes h (isSx_of_cvtInt hs) f32 (fun v => BitVec.ofNat 32 (Fp.ofInt w.rm (readInt ws us (v % 2 ^ ws))).bits) (cvtLane_ofInt hs)
    case int =>
      intro ws us wd ud hs hd
      exact fires_cvt_lanes h (isSx_of_cvtInt hs) (isSx_of_cvtInt hd) (fun v => BitVec.ofInt 32 (readInt wd ud (reduceInt wd ud w.sat (readInt ws us (v % 2 ^ ws))))) (cvtLane_int hs hd)
    case toSx => intro _ lo hi; exact firesCounting_of_both (i := .cvt w src dst) (c := fun l _ _ => cvtCalc w src dst l) rfl (cvtCalc_toSx (isSx_of_le lo hi) _) h
    case ofSx =>
      rintro rfl lo hi
      refine ⟨_, firesCounting_of_both (i := .cvt w src 2) (c := fun l _ _ => cvtCalc w src 2 l) rfl (cvtCalc_ofSx (isSx_of_le lo hi) _) h, ?_⟩
      intro j hj
      exact lane_ofLanes _ _ hj
  case encode =>
    intro m xs hm len small r expo shift code x mag counts many
    have parts : mag = sxMag xs := funext fun i => (sxMag_eq i).symm
    clear_value mag
    subst parts
    exact sxEncode_spec (by omega) len small
  case decode =>
    intro m scale codes i hm hi
    exact ⟨fun nan => by rw [sxDecode_getD m scale codes hi, if_pos nan]; rfl, fun finite => sxDecode_exact (by omega) scale codes hi finite⟩

end Sys2Proof.Machine
end

section
/-! PROOF. Token types at arithmetic and moving slots (03 R60): what the latches make of a firing, and what the slot then does. -/

namespace Sys2Proof.Machine

/-! ### What the latches make of a firing -/

section
variable (f : NodeForm) (sl : Slot)

/-- The tokens in the enabled latches. -/
def heldToks : List Tok := (enabledPos f).filterMap sl.at_

/-- The tokens in the enabled latches that are not sticky. -/
def firmToks : List Tok := (firmPos f).filterMap sl.at_

theorem any_isNone_iff (ps : List Pos) : (ps.map sl.at_).any Option.isNone = true ↔ (ps.filterMap sl.at_).length < ps.length := by
  induction ps with
  | nil => simp
  | cons p ps ih =>
    have := List.length_filterMap_le sl.at_ ps
    cases h : sl.at_ p <;> simp_all

theorem gateOf_wait (h : (heldToks f sl).length < (enabledPos f).length) : gateOf f sl = .wait := by
  rw [gateOf, if_pos ((any_isNone_iff sl _).mpr h)]

variable {f sl}
variable (full : (heldToks f sl).length = (enabledPos f).length)
include full

/-- With every enabled latch full, the tokens in them decide. -/
theorem gateOf_full : gateOf f sl =
    if (heldToks f sl).any (fun t => t.tt == .resume) then .trap causeBadToken
    else match (heldToks f sl).find? (fun t => t.tt == .fault) with
      | some t => .forward t
      | none => match (firmToks f sl).find? (fun t => t.tt.isMarker) with
        | none => .go (opndsOf f sl)
        | some t => if (firmToks f sl).all (fun u => u.tt == t.tt) then .forward ((firmToks f sl).headD t) else .trap causeMarkSkew := by
  have h : ¬ ((enabledPos f).map sl.at_).any Option.isNone = true := by rw [any_isNone_iff]; exact full.not_lt
  have e : ((enabledPos f).map sl.at_).filterMap id = heldToks f sl := by simp [heldToks, List.filterMap_map]
  simp only [gateOf, if_neg h, e] <;> rfl

theorem gateOf_resume (h : ∃ t ∈ heldToks f sl, t.tt = .resume) : gateOf f sl = .trap 0x02 := by
  rw [gateOf_full full, if_pos (by simpa using h)]

variable (noResume : ∀ t ∈ heldToks f sl, t.tt ≠ .resume)
include noResume

theorem gateOf_fault (h : ∃ t ∈ heldToks f sl, t.tt = .fault) :
    ∃ t, gateOf f sl = .forward t ∧ (heldToks f sl).find? (fun x => x.tt == .fault) = some t := by
  obtain ⟨t, ht⟩ := Option.isSome_iff_exists.mp (List.find?_isSome (p := fun x : Tok => x.tt == .fault) (xs := heldToks f sl) |>.mpr (by simpa using h))
  refine ⟨t, ?_, ht⟩
  rw [gateOf_full full, if_neg (by simpa using noResume), ht]

variable (noFault : ∀ t ∈ heldToks f sl, t.tt ≠ .fault)
include noFault

/-- With neither a resume nor a fault token, the latches that are not sticky decide. -/
theorem gateOf_firm : gateOf f sl = match (firmToks f sl).find? (fun t => t.tt.isMarker) with
    | none => .go (opndsOf f sl)
    | some t => if (firmToks f sl).all (fun u => u.tt == t.tt) then .forward ((firmToks f sl).headD t) else .trap causeMarkSkew := by
  have h : (heldToks f sl).find? (fun t => t.tt == .fault) = none := by simpa using noFault
  rw [gateOf_full full, if_neg (by simpa using noResume), h]

theorem gateOf_data (h : ∀ t ∈ firmToks f sl, t.tt.isMarker = false) : gateOf f sl = .go (opndsOf f sl) := by
  have : (firmToks f sl).find? (fun t => t.tt.isMarker) = none := by simpa using h
  rw [gateOf_firm full noResume noFault, this]

theorem gateOf_markers {m : Tok} {rest : List Tok} (hm : firmToks f sl = m :: rest) (marker : m.tt.isMarker = true) (same : ∀ t ∈ rest, t.tt = m.tt) :
    gateOf f sl = .forward m := by
  simpa [gateOf_firm full noResume noFault, hm, marker] using same

theorem gateOf_skew (marker : ∃ t ∈ firmToks f sl, t.tt.isMarker = true) (skew : ∃ t ∈ firmToks f sl, ∃ u ∈ firmToks f sl, t.tt ≠ u.tt) :
    gateOf f sl = .trap 0x01 := by
  obtain ⟨x, hx⟩ := Option.isSome_iff_exists.mp (List.find?_isSome (p := fun t : Tok => t.tt.isMarker) (xs := firmToks f sl) |>.mpr (by simpa using marker))
  obtain ⟨t, ht, u, hu, ne⟩ := skew
  have notAll : ¬ (firmToks f sl).all (fun v => v.tt == x.tt) = true := fun all => by
    have eq : ∀ v ∈ firmToks f sl, v.tt = x.tt := by simpa using all
    exact ne ((eq t ht).trans (eq u hu).symm)
  rw [gateOf_firm full noResume noFault, hx]
  simp only [if_neg notAll]
end

/-- Settles O14, case by case of the table of R60. -/
theorem nodeTokenTypes : Obligations.NodeTokenTypes := by
  unfold Obligations.NodeTokenTypes
  intro f sl
  refine ⟨gateOf_wait f sl, fun full => ⟨gateOf_resume full, gateOf_fault full, fun plain => ?_⟩⟩
  have noResume : ∀ t ∈ heldToks f sl, t.tt ≠ .resume := fun t ht => (plain t ht).1
  have noFault : ∀ t ∈ heldToks f sl, t.tt ≠ .fault := fun t ht => (plain t ht).2
  exact ⟨gateOf_data full noResume noFault, fun m rest => gateOf_markers full noResume noFault, gateOf_skew full noResume noFault⟩

/-! ### What the slot does -/

/-- An instruction whose firing follows R60 and, on data, waits until both targets are free. -/
def FiresWhenFree (i : Instr) (s : State) : Prop :=
  ∃ out : TileKey → Nat → Opnds → Out, exec i s = fireSlot (formOf i) s fun k n o => if bothFree s k n (formOf i) then out k n o else .next s

section
variable {f : NodeForm} {s : State} {k : TileKey} {n : Nat} (h : SlotAt s k n) (go : TileKey → Nat → Opnds → Out)
include h

theorem fireSlot_wait (g : gateOf f (s.slot k n) = .wait) : fireSlot f s go = .next s := by simp [fireSlot, atSlot_of h, g]

theorem fireSlot_trap {c : BitVec 8} (g : gateOf f (s.slot k n) = .trap c) : fireSlot f s go = .next (raiseTrap s (slotSite s k n) c 0) := by
  simp [fireSlot, atSlot_of h, g]

theorem fireSlot_forward {t : Tok} (g : gateOf f (s.slot k n) = .forward t) :
    fireSlot f s go = if bothFree s k n f then .next (forwardBoth s k n f t) else .next s := by simp [fireSlot, atSlot_of h, g]

theorem fireSlot_go {o : Opnds} (g : gateOf f (s.slot k n) = .go o) : fireSlot f s go = go k n o := by simp [fireSlot, atSlot_of h, g]
end

section
variable {i : Instr} {s : State} {k : TileKey} {n : Nat} (e : FiresWhenFree i s) (h : SlotAt s k n)
include e h

theorem exec_forwards {t : Tok} (g : gateOf (formOf i) (s.slot k n) = .forward t) (free : bothFree s k n (formOf i) = true) :
    exec i s = .next (forwardBoth s k n (formOf i) t) := by
  obtain ⟨out, e⟩ := e
  rw [e, fireSlot_forward h _ g, if_pos free]

theorem exec_traps {cause : BitVec 8} (g : gateOf (formOf i) (s.slot k n) = .trap cause) : exec i s = .next (raiseTrap s (slotSite s k n) cause 0) := by
  obtain ⟨out, e⟩ := e
  rw [e, fireSlot_trap h _ g]

theorem exec_waits_of_busy (busy : bothFree s k n (formOf i) = false) (noTrap : ∀ cause, gateOf (formOf i) (s.slot k n) ≠ .trap cause) : exec i s = .next s := by
  obtain ⟨out, e⟩ := e
  rw [e]
  cases g : gateOf (formOf i) (s.slot k n) with
  | wait => exact fireSlot_wait h _ g
  | trap c => exact absurd g (noTrap c)
  | forward t => rw [fireSlot_forward h _ g, busy, if_neg Bool.false_ne_true]
  | go o => rw [fireSlot_go h _ g, busy, if_neg Bool.false_ne_true]

theorem exec_waits (g : gateOf (formOf i) (s.slot k n) = .wait ∨ bothFree s k n (formOf i) = false ∧ ∀ cause, gateOf (formOf i) (s.slot k n) ≠ .trap cause) :
    exec i s = .next s := by
  obtain wait | ⟨busy, noTrap⟩ := g
  · obtain ⟨out, e⟩ := e
    rw [e, fireSlot_wait h _ wait]
  · exact exec_waits_of_busy e h busy noTrap
end

/-- Settles O15: each of the instructions fires under R60 when both targets are free, which says the rest. -/
theorem nodeMarkersAndTraps : Obligations.NodeMarkersAndTraps := by
  unfold Obligations.NodeMarkersAndTraps
  intro s k n w imm c p q x y m b d i hi h
  have e : FiresWhenFree i s := by fin_cases hi <;> exact ⟨_, rfl⟩
  exact ⟨fun t => exec_forwards e h, fun cause => exec_traps e h, exec_waits e h⟩

end Sys2Proof.Machine
end

section
/-! PROOF. What a node leaves unchanged (03 R58; 05 R142; 10 R243): what each shared operation of the nodes keeps, once, as rewriting rules. -/

namespace Sys2Proof.Machine

/-! ### What a node at a tile keeps -/

/-- The registers of two states of a sequencer agree; what is offered to its FIFOs may differ. -/
def SameRegs (q r : Seq) : Prop := r.s = q.s ∧ r.c = q.c ∧ r.pc = q.pc ∧ r.cause = q.cause ∧ r.q = q.q

/-- `t` is `s` in all that a node at tile `k` leaves alone: the other tiles, the registers of every sequencer, memory, commands, queues and kernels; the scratchpads are as `R` allows. -/
structure Keeps (R : List Host.Cell → List Host.Cell → Prop) (k : TileKey) (s t : State) : Prop where
  tiles   : ∀ j, j ≠ k → t.tile j = s.tile j
  seqs    : ∀ j, SameRegs (s.seq j) (t.seq j)
  dram    : t.dram = s.dram
  ram     : t.ram = s.ram
  host    : t.host = s.host
  far     : t.far = s.far
  cmds    : t.cmds = s.cmds
  queues  : t.queues = s.queues
  kernels : t.kernels = s.kernels
  scratch : R s.scratch t.scratch

section
variable {R : List Host.Cell → List Host.Cell → Prop} {k : TileKey} {s t u : State}

theorem Keeps.refl (h : ∀ m, R m m) (s : State) : Keeps R k s s := ⟨fun _ _ => rfl, fun _ => ⟨rfl, rfl, rfl, rfl, rfl⟩, rfl, rfl, rfl, rfl, rfl, rfl, rfl, h _⟩

theorem SameRegs.symm {q r : Seq} (h : SameRegs q r) : SameRegs r q := by
  obtain ⟨h1, h2, h3, h4, h5⟩ := h
  exact ⟨h1.symm, h2.symm, h3.symm, h4.symm, h5.symm⟩

theorem SameRegs.trans {p q r : Seq} (h : SameRegs p q) (g : SameRegs q r) : SameRegs p r := by
  obtain ⟨h1, h2, h3, h4, h5⟩ := h
  obtain ⟨g1, g2, g3, g4, g5⟩ := g
  exact ⟨g1.trans h1, g2.trans h2, g3.trans h3, g4.trans h4, g5.trans h5⟩

theorem Keeps.symm (h : Keeps Eq k s t) : Keeps Eq k t s :=
  ⟨fun j hj => (h.tiles j hj).symm, fun j => (h.seqs j).symm, h.dram.symm, h.ram.symm, h.host.symm, h.far.symm, h.cmds.symm, h.queues.symm, h.kernels.symm, h.scratch.symm⟩

theorem Keeps.trans (h : Keeps R k s t) (g : Keeps Eq k t u) : Keeps R k s u :=
  ⟨fun j hj => (g.tiles j hj).trans (h.tiles j hj), fun j => (h.seqs j).trans (g.seqs j), g.dram.trans h.dram, g.ram.trans h.ram, g.host.trans h.host,
    g.far.trans h.far, g.cmds.trans h.cmds, g.queues.trans h.queues, g.kernels.trans h.kernels, g.scratch ▸ h.scratch⟩

/-- After an operation that keeps all this, the same is kept as before it: the form in which the operations rewrite. -/
theorem Keeps.after_iff (h : Keeps Eq k t u) : Keeps R k s u ↔ Keeps R k s t := ⟨fun g => g.trans h.symm, fun g => g.trans h⟩

/-- What is sent from a tile changes that tile and what its sequencer is offered. -/
theorem SentFrom.keeps (h : SentFrom k s t) : Keeps Eq k s t := by
  have regs : ∀ j, SameRegs (s.seq j) (t.seq j) := fun j => by
    by_cases hj : j = k
    · subst hj
      rw [h.seq]
      exact ⟨rfl, rfl, rfl, rfl, rfl⟩
    · rw [h.seqs j hj]
      exact ⟨rfl, rfl, rfl, rfl, rfl⟩
  refine ⟨h.tiles, regs, ?_, ?_, ?_, ?_, ?_, ?_, ?_, ?_⟩
  all_goals rw [h.rest]

/-- The parts of a state that `Keeps` reads. -/
def keptParts (s : State) := (s.tiles, s.seqs, s.dram, s.ram, s.host, s.far, s.cmds, s.queues, s.kernels, s.scratch)

theorem keeps_of_parts (h : keptParts t = keptParts s) : Keeps Eq k s t := by
  simp only [keptParts, Prod.mk.injEq] at h
  obtain ⟨tiles, seqs, dram, ram, host, far, cmds, queues, kernels, scratch⟩ := h
  exact ⟨fun j _ => by rw [State.tile, tiles, State.tile], fun j => by rw [State.seq, State.seq, seqs]; exact ⟨rfl, rfl, rfl, rfl, rfl⟩,
    dram, ram, host, far, cmds, queues, kernels, scratch.symm⟩

theorem keeps_iff_of_parts (h : keptParts u = keptParts t) : Keeps R k s u ↔ Keeps R k s t := (keeps_of_parts h).after_iff
end

/-! ### The operations -/

section
variable {R : List Host.Cell → List Host.Cell → Prop} {k : TileKey} (s t : State)

@[simp] theorem keeps_setTile (x : Tile) : Keeps R k s (t.setTile k x) ↔ Keeps R k s t := (sentFrom_setTile t k x).keeps.after_iff
@[simp] theorem keeps_setSlot (n : Nat) (x : Slot) : Keeps R k s (t.setSlot k n x) ↔ Keeps R k s t := (sentFrom_setSlot t k n x).keeps.after_iff
@[simp] theorem keeps_setRegion (r : Nat) (x : Region) : Keeps R k s (t.setRegion r x) ↔ Keeps R k s t := keeps_iff_of_parts rfl
@[simp] theorem keeps_setCtx (c : Nat) (x : Context) : Keeps R k s (t.setCtx c x) ↔ Keeps R k s t := keeps_iff_of_parts rfl
@[simp] theorem keeps_setLaunch (l : Nat) (x : Launch) : Keeps R k s (t.setLaunch l x) ↔ Keeps R k s t := keeps_iff_of_parts rfl
@[simp] theorem keeps_setBase (n : Nat) (x : Stack) : Keeps R k s (t.setBase n x) ↔ Keeps R k s t := keeps_iff_of_parts rfl
@[simp] theorem keeps_sends (n : Nat) : Keeps R k s { t with sends := n } ↔ Keeps R k s t := keeps_iff_of_parts rfl
@[simp] theorem keeps_consumeAt (n : Nat) (f : NodeForm) : Keeps R k s (consumeAt t k n f) ↔ Keeps R k s t := (sentFrom_consumeAt t k n f).keeps.after_iff
@[simp] theorem keeps_noteMarker (n : Nat) (x : Tok) : Keeps R k s (noteMarker t k n x) ↔ Keeps R k s t := (sentFrom_noteMarker t k n x).keeps.after_iff
@[simp] theorem keeps_fireTo (n : Nat) (f : NodeForm) (a b : Option Tok) : Keeps R k s (fireTo t k n f a b) ↔ Keeps R k s t := (sentFrom_fireTo t k n f a b).keeps.after_iff
@[simp] theorem keeps_forwardBoth (n : Nat) (f : NodeForm) (x : Tok) : Keeps R k s (forwardBoth t k n f x) ↔ Keeps R k s t := (sentFrom_forwardBoth t k n f x).keeps.after_iff
@[simp] theorem keeps_sendBoth (n : Nat) (da db : Tgt) (a b : Option Tok) : Keeps R k s (sendBoth t k n da db a b) ↔ Keeps R k s t :=
  (sentFrom_sendBoth t k n da db a b).keeps.after_iff
@[simp] theorem keeps_sendOne (n : Nat) (d : Tgt) (x : Parcel) : Keeps R k s (sendOne t k n d x) ↔ Keeps R k s t := (sentFrom_sendOne t k n d x).keeps.after_iff
@[simp] theorem keeps_deliverTok (d : Tgt) (x : Option Tok) : Keeps R k s (deliverTok t k d x) ↔ Keeps R k s t := (sentFrom_deliverTok t k d x).keeps.after_iff

@[simp] theorem keeps_countTile (lanes : List Nat) : Keeps R k s (countTile t k lanes) ↔ Keeps R k s t := by unfold countTile; split <;> simp
@[simp] theorem keeps_leaveLines (n : Nat) : Keeps R k s (leaveLines t k n) ↔ Keeps R k s t := keeps_setTile s t _
@[simp] theorem keeps_censusAdd (r : Nat) (d : Int) : Keeps R k s (censusAdd t r d) ↔ Keeps R k s t := by unfold censusAdd; split <;> simp
@[simp] theorem keeps_spawnAsk (j : TileKey) (n : Nat) (b : Bool) : Keeps R k s (spawnAsk t j n b) ↔ Keeps R k s t := keeps_setRegion s t _ _
@[simp] theorem keeps_syncEvent (r : Nat) : Keeps R k s (syncEvent t r) ↔ Keeps R k s t := by unfold syncEvent; split <;> simp
@[simp] theorem keeps_syncIf (c : Bool) (j : TileKey) : Keeps R k s (syncIf c t j) ↔ Keeps R k s t := by unfold syncIf; split <;> simp
@[simp] theorem keeps_syncPut (keys past : List Nat) : Keeps R k s (syncPut t keys past) ↔ Keeps R k s t := by
  unfold syncPut
  split
  · exact Iff.rfl
  · exact keeps_iff_of_parts rfl
@[simp] theorem keeps_shadowSet (j : TileKey) (g : Tag) (ws : List (Nat × Lane)) : Keeps R k s (shadowSet t j g ws) ↔ Keeps R k s t := by
  unfold shadowSet
  split
  · exact Iff.rfl
  · exact keeps_iff_of_parts rfl
@[simp] theorem keeps_eccClear (j : TileKey) (ws : List (Nat × Lane)) : Keeps R k s (eccClear t j ws) ↔ Keeps R k s t := by
  unfold eccClear
  split
  · exact Iff.rfl
  · exact keeps_iff_of_parts rfl
@[simp] theorem keeps_closeLaunch (l : Nat) : Keeps R k s (closeLaunch t l) ↔ Keeps R k s t := keeps_iff_of_parts rfl

/-- A trap at a slot of the tile stops that slot; its record stands at the context and the launch. -/
@[simp] theorem keeps_raiseTrap (u : State) (n : Nat) (c : BitVec 8) (d : BitVec 64) : Keeps R k s (raiseTrap t (slotSite u k n) c d) ↔ Keeps R k s t := by
  simp only [raiseTrap, slotSite, setStopped]
  split <;> simp

/-- A fold of an operation that keeps all this keeps it. -/
theorem keeps_foldl {α : Type} (op : State → α → State) (h : ∀ t x, Keeps R k s (op t x) ↔ Keeps R k s t) (xs : List α) :
    Keeps R k s (xs.foldl op t) ↔ Keeps R k s t := by
  induction xs generalizing t with
  | nil => rfl
  | cons x xs ih => rw [List.foldl_cons, ih, h]

@[simp] theorem keeps_sendBlockMarks (j : TileKey) (n r : Nat) : Keeps R k s (sendBlockMarks t j n r) ↔ Keeps R k s t :=
  keeps_foldl s t _ (fun _ _ => keeps_setBase ..) _
end

end Sys2Proof.Machine
end

section
/-! PROOF. What a node leaves unchanged: the shared firing forms, then the nodes that have a meaning of their own. -/

namespace Sys2Proof.Machine

/-- Whatever state an outcome leads to keeps what a node at tile `k` leaves alone. -/
def Frames (R : List Host.Cell → List Host.Cell → Prop) (k : TileKey) (s : State) (o : Out) : Prop := ∀ t, o = .next t → Keeps R k s t

section
variable {R : List Host.Cell → List Host.Cell → Prop} {k : TileKey} {s t : State} {n : Nat}

@[simp] theorem frames_next : Frames R k s (.next t) ↔ Keeps R k s t := ⟨fun h => h t rfl, fun h u e => by cases e; exact h⟩
@[simp] theorem frames_fault (e : Fault) : Frames R k s (.fault e) := fun _ h => nomatch h
@[simp] theorem keeps_self : Keeps Eq k s s := Keeps.refl (fun _ => rfl) s

theorem keeps_ite {c : Prop} [Decidable c] {a b : State} (ha : Keeps R k s a) (hb : Keeps R k s b) : Keeps R k s (if c then a else b) := by
  split
  · exact ha
  · exact hb

theorem frames_ite {c : Prop} [Decidable c] {a b : Out} (ha : Frames R k s a) (hb : Frames R k s b) : Frames R k s (if c then a else b) := by
  split
  · exact ha
  · exact hb

variable (focus : s.focus = .slot k n ∨ s.focus = .pipe k n)
include focus

theorem frames_atSlot (hR : ∀ m, R m m) (go : TileKey → Nat → Slot → Out) (h : Frames R k s (go k n (s.slot k n))) : Frames R k s (atSlot s go) := by
  have stays : Frames R k s (.next s) := frames_next.mpr (Keeps.refl hR s)
  unfold atSlot
  obtain e | e := focus
  · rw [e]
    exact frames_ite (frames_ite h stays) (frames_fault _)
  · rw [e]
    exact frames_ite (frames_ite h stays) (frames_fault _)

theorem frames_fireSlot (hR : ∀ m, R m m) (f : NodeForm) (go : TileKey → Nat → Opnds → Out) (h : ∀ o, Frames R k s (go k n o)) :
    Frames R k s (fireSlot f s go) := by
  refine frames_atSlot focus hR _ ?_
  have stays := Keeps.refl (k := k) hR s
  split
  · simpa using stays
  · simpa using stays
  · split_ifs <;> simpa using stays
  · exact h _

/-! ### Shared forms of firing -/

theorem frames_fireCalc (f : NodeForm) (compute : Payload → Payload → Payload → Calc) : Frames Eq k s (fireCalc f compute s) :=
  frames_fireSlot focus (fun _ => rfl) f _ fun _ => frames_ite (by split <;> simp) (by simp)

theorem frames_fireMove (f : NodeForm) (a b : Opnds → Option Tok) : Frames Eq k s (fireMove f s a b) :=
  frames_fireSlot focus (fun _ => rfl) f _ fun _ => frames_ite (by simp) (by simp)

theorem frames_fireMop (f : NodeForm) (mop : BitVec 6) : Frames Eq k s (fireMop f mop s) := frames_fireMove focus f _ _

theorem frames_fireRead (f : NodeForm) (pay : State → TileKey → Payload) : Frames Eq k s (fireRead f pay s) :=
  frames_fireSlot focus (fun _ => rfl) f _ fun _ => frames_ite (by simp) (by simp)

theorem frames_steerTo (f : NodeForm) (inv : Bool) (contTok : Tok → Tok) : Frames Eq k s (steerTo f inv contTok s) :=
  frames_fireSlot focus (fun _ => rfl) f _ fun _ => frames_ite (frames_ite (by simp) (by simp)) (frames_ite (by simp) (by simp))

omit focus in
theorem frames_withCensus {u : State} (h : Keeps Eq k s u) (d : Int) (go : State → Out) (hgo : Frames Eq k s (go (censusAdd u (u.regionOf k) d))) :
    Frames Eq k s (withCensus u k n d go) := by
  unfold withCensus
  extract_lets r
  split
  · simpa using h
  · exact hgo

theorem frames_fireCounted (f : NodeForm) (d : Int) (a b : Tok → Option Tok) : Frames Eq k s (fireCounted f d s a b) := by
  refine frames_atSlot focus (fun _ => rfl) _ ?_
  split
  · simp
  · refine frames_ite (by simp) <| frames_ite (by simp) <| frames_ite (by simp) <| frames_withCensus keeps_self _ _ ?_
    exact frames_ite (by simp) (by simp)

theorem frames_fireLater (f : NodeForm) (ok : State → TileKey → Nat → Tok → Bool) (go : TileKey → Nat → Opnds → Out) (h : ∀ o, Frames Eq k s (go k n o)) :
    Frames Eq k s (fireLater f s ok go) := by
  refine frames_atSlot focus (fun _ => rfl) _ ?_
  split
  · simp
  · simp
  · exact frames_ite (by simp) (by simp)
  · exact h _

theorem frames_fireBlock (f : NodeForm) : Frames Eq k s (fireBlock f s) := by
  refine frames_atSlot focus (fun _ => rfl) _ ?_
  split
  · simp
  · simp
  · exact frames_ite (by simp) (frames_ite (by simp) (by simp))
  · exact frames_ite (by simp) (frames_ite (by simp) (by simp))

theorem frames_firePort (f : NodeForm) (fwd : Parcel → Parcel) (go : Opnds → Parcel) : Frames Eq k s (firePort f s fwd go) := by
  refine frames_atSlot focus (fun _ => rfl) _ ?_
  split
  · simp
  · simp
  · exact frames_ite (by simp) (by simp)
  · exact frames_ite (by simp) (by simp)

theorem frames_ctlTake (f : NodeForm) (children : Nat) : Frames Eq k s (ctlTake f children s) := by
  refine frames_atSlot focus (fun _ => rfl) _ ?_
  split
  · simp
  · simp
  · refine frames_ite (by simp) <| frames_ite (frames_ite (by simp) (by simp)) <| frames_ite (frames_ite (by simp) (by simp)) (by simp)

/-! ### Flow nodes -/

theorem frames_execGate (w : NodeOp) : Frames Eq k s (execGate w s) := by
  unfold execGate
  extract_lets f
  refine frames_atSlot focus (fun _ => rfl) _ ?_
  split
  · exact frames_ite (by simp) (frames_ite (by simp) (by simp))
  · simp

theorem frames_execSink (w : NodeOp) : Frames Eq k s (execSink w s) := by
  unfold execSink
  extract_lets f
  refine frames_atSlot focus (fun _ => rfl) _ ?_
  split
  · simp
  · exact frames_ite (by simp) <| frames_ite (by simp) <| frames_ite (by simp) <| frames_withCensus keeps_self _ _ (by simp)

theorem frames_execMerge (w : NodeOp) (alt : Bool) : Frames Eq k s (execMerge w alt s) := by
  unfold execMerge
  extract_lets f
  refine frames_atSlot focus (fun _ => rfl) _ ?_
  extract_lets take
  have hTake : ∀ p, Frames Eq k s (take p) := fun p => by
    simp only [take]
    split
    · simp
    · exact frames_ite (by simp) (by simp)
  split
  · simp
  · simp
  · exact hTake .left
  · exact hTake .right
  · exact frames_ite (by simp) (by simp)

theorem frames_execSeqgen (w : NodeOp) (fin : Bool) : Frames Eq k s (execSeqgen w fin s) := by
  unfold execSeqgen
  extract_lets f
  refine frames_atSlot focus (fun _ => rfl) _ ?_
  split
  · simp
  · split
    · simp
    · simp
    · exact frames_ite (by simp) (by simp)
    · exact frames_ite (frames_withCensus keeps_self _ _ (by simp)) (by simp)

theorem frames_execSpawn (w : NodeOp) : Frames Eq k s (execSpawn w s) := by
  unfold execSpawn
  extract_lets f
  refine frames_atSlot focus (fun _ => rfl) _ ?_
  split
  · simp
  · refine frames_ite (by simp) <| frames_ite (by simp) <| frames_ite (by simp) <| frames_ite (frames_withCensus keeps_self _ _ (by simp)) ?_
    extract_lets r
    split
    · simp
    · exact frames_withCensus (by simp) _ _ (by simp)

theorem frames_execRetire (w : NodeOp) (free : Bool) : Frames Eq k s (execRetire w free s) := by
  unfold execRetire
  extract_lets f
  refine frames_atSlot focus (fun _ => rfl) _ ?_
  split
  · simp
  · refine frames_ite (by simp) <| frames_ite (by simp) <| frames_ite (by simp) <| frames_ite (by simp) <| frames_withCensus keeps_self _ _ ?_
    cases free <;> simp

theorem frames_execWidFld (w : NodeOp) (fld : BitVec 3) : Frames Eq k s (execWidFld w fld s) :=
  frames_fireSlot focus (fun _ => rfl) _ _ fun _ => frames_ite (by simp) (by simp)

theorem frames_execWidLvl (w : NodeOp) (lvl : BitVec 3) : Frames Eq k s (execWidLvl w lvl s) :=
  frames_fireSlot focus (fun _ => rfl) _ _ fun _ => frames_ite (by simp) (by simp)

theorem frames_execJoin (w : NodeOp) (one : Bool) (vbase : BitVec 5) (rbase nm1 : BitVec 4) : Frames Eq k s (execJoin w one vbase rbase nm1 s) := by
  refine frames_atSlot focus (fun _ => rfl) _ ?_
  refine frames_ite (frames_ite (by simp) <| frames_ite (by simp) <| frames_withCensus keeps_self _ _ ?_) (by simp)
  exact frames_next.mpr ((keeps_syncEvent ..).mpr (keeps_ite (by simp) (by simp)))

theorem frames_execFenceSc (w : NodeOp) (scope : BitVec 3) : Frames Eq k s (execFenceSc w scope s) :=
  frames_fireSlot focus (fun _ => rfl) _ _ fun _ => frames_ite (by simp) (by simp)

theorem frames_execSluiceLocSnd (w : NodeOp) (scope : BitVec 3) (pair : BitVec 7) (dm1 : BitVec 4) : Frames Eq k s (execSluiceLocSnd w scope pair dm1 s) := by
  unfold execSluiceLocSnd
  extract_lets f
  refine frames_atSlot focus (fun _ => rfl) _ ?_
  split
  · simp
  · exact frames_ite (by simp) (frames_ite (by simp) (by simp))

theorem frames_execSluiceXrSnd (w : NodeOp) (scope : BitVec 3) (pair : BitVec 7) (dm1 : BitVec 4) : Frames Eq k s (execSluiceXrSnd w scope pair dm1 s) := by
  unfold execSluiceXrSnd
  extract_lets f
  refine frames_atSlot focus (fun _ => rfl) _ ?_
  split
  · simp
  · exact frames_ite (by simp) (frames_ite (by simp) (by simp))

theorem frames_execSluiceXrRcv (w : NodeOp) (scope : BitVec 3) (pair : BitVec 7) (dm1 : BitVec 4) : Frames Eq k s (execSluiceXrRcv w scope pair dm1 s) := by
  unfold execSluiceXrRcv
  extract_lets f
  refine frames_atSlot focus (fun _ => rfl) _ ?_
  split
  · simp
  · exact frames_ite (by simp) (by simp)

/-! ### Scratchpad and port nodes -/

theorem frames_execSpld (w : NodeOp) (ord : BitVec 2) (blk : Bool) (scope : BitVec 3) : Frames Eq k s (execSpld w ord blk scope s) := by
  refine frames_fireSlot focus (fun _ => rfl) _ _ fun _ => frames_ite (by simp) ?_
  split
  · simp
  · split
    · simp
    · split <;> simp

theorem frames_execSpatom (w : NodeOp) (ord : BitVec 2) (scope atop : BitVec 3) : Frames Eq k s (execSpatom w ord scope atop s) := by
  unfold execSpatom
  extract_lets f
  refine frames_fireLater focus _ _ _ fun o => ?_
  dsimp only
  split
  · simp
  · exact frames_ite (by simp) (frames_next.mpr ((keeps_sends s _ _).mpr (by simp)))

theorem frames_execSpown (w : NodeOp) : Frames Eq k s (execSpown w s) := by
  refine frames_atSlot focus (fun _ => rfl) _ ?_
  extract_lets t
  split
  · simp
  · split
    · simp
    · exact frames_ite (by simp) (by simp)

theorem frames_execXlat (w : NodeOp) (acc : Bool) : Frames Eq k s (execXlat w acc s) := by
  unfold execXlat
  extract_lets f
  exact frames_fireLater focus _ _ _ fun _ => by simp

theorem frames_execGaddr (w : NodeOp) : Frames Eq k s (execGaddr w s) := by
  unfold execGaddr
  extract_lets f
  refine frames_atSlot focus (fun _ => rfl) _ ?_
  split
  · simp
  · simp
  · exact frames_ite (by simp) (by simp)
  · exact frames_ite (by simp) (by simp)

theorem frames_execResume (w : NodeOp) : Frames Eq k s (execResume w s) :=
  frames_fireSlot focus (fun _ => rfl) _ _ fun _ => frames_ite (by simp) (by simp)

theorem frames_execRprog (w : NodeOp) : Frames Eq k s (execRprog w s) :=
  frames_fireSlot focus (fun _ => rfl) _ _ fun _ => frames_ite (by simp) (by simp)

theorem frames_execPjs (w : NodeOp) (aux : Bool) : Frames Eq k s (execPjs w aux s) :=
  frames_fireSlot focus (fun _ => rfl) _ _ fun _ => frames_ite (by simp) (frames_next.mpr ((keeps_setSlot ..).mpr ((keeps_fireTo ..).mpr keeps_self)))

theorem frames_execTrap (w : NodeOp) (code : BitVec 16) : Frames Eq k s (execTrap w code s) :=
  frames_fireSlot focus (fun _ => rfl) _ _ fun _ => frames_ite (by simp) (by simp)

theorem frames_execStat (w : NodeOp) : Frames Eq k s (execStat w s) := by
  unfold execStat
  extract_lets f
  refine frames_atSlot focus (fun _ => rfl) _ ?_
  split
  · simp
  · exact frames_ite (by simp) <| frames_ite (by simp) <| frames_ite (by simp) (by simp)

end

end Sys2Proof.Machine
end

section
/-! PROOF. What a node leaves unchanged: the two nodes that write a scratchpad. `spst` writes its own tile's, `jump` the carve-out of its block's region. -/

namespace Sys2Proof.Machine

/-- Two memories hold the same bytes at the addresses that satisfy `P`. -/
def AgreeAt (P : Nat → Prop) (m m' : List Host.Cell) : Prop := ∀ a, P a → Mem.read m' a = Mem.read m a

theorem AgreeAt.refl (P : Nat → Prop) (m : List Host.Cell) : AgreeAt P m m := fun _ _ => rfl

section
variable {P : Nat → Prop} {k : TileKey} {s t : State}

/-- A write of bytes outside `P` keeps the bytes in `P`. -/
theorem keeps_writeN (h : Keeps (AgreeAt P) k s t) {a : Nat} {bs : List Byte} (out : ∀ x, P x → x < a ∨ a + bs.length ≤ x) :
    Keeps (AgreeAt P) k s { t with scratch := Mem.writeN t.scratch a bs } :=
  { h with scratch := fun x hx => (Mem.read_writeN_out bs _ _ _ (out x hx)).trans (h.scratch x hx) }

/-! ### `spst` -/

/-- The bytes of the scratchpads of other tiles. -/
def OtherPads (k : TileKey) (a : Nat) : Prop := a / 524288 ≠ k

theorem keeps_spStore (h : Keeps (AgreeAt (OtherPads k)) k s t) {a : Nat} (ha : a + 4 ≤ 524288) (v : Lane) :
    Keeps (AgreeAt (OtherPads k)) k s (spStore t k a v) := by
  refine keeps_writeN h fun x hx => ?_
  have len : (Word.toBytes 4 v).length = 4 := by simp [Word.toBytes]
  simp only [OtherPads] at hx
  simp only [spKey, len]
  omega

theorem keeps_storeWords (r : Payload) {ws : List (Nat × Lane)} (inPad : ∀ x ∈ ws, x.2.toNat + 4 ≤ 524288) (h : Keeps (AgreeAt (OtherPads k)) k s t) :
    Keeps (AgreeAt (OtherPads k)) k s (storeWords t k r ws) := by
  unfold storeWords
  induction ws generalizing t with
  | nil => exact h
  | cons x xs ih => exact ih (fun y hy => inPad y (List.mem_cons_of_mem _ hy)) (keeps_spStore h (inPad x List.mem_cons_self) _)

theorem spLimit_le (s : State) (k : TileKey) : spLimit s k ≤ 524288 := by
  unfold spLimit
  split <;> omega

/-- An access that does not trap stays in its tile's scratchpad. -/
theorem inPad_of_accessTrap {store blk : Bool} {l : Payload} {ws : List (Nat × Lane)} (h : accessTrap s k store blk l ws = none) :
    ∀ x ∈ ws, x.2.toNat + 4 ≤ 524288 := by
  intro x hx
  have noTrap : spTrap s k store ws = none := by
    unfold accessTrap at h
    split at h
    · cases h
    · exact h
  have word := List.findSome?_eq_none_iff.mp noTrap x hx
  have := spLimit_le s k
  simp only [spWordTrap] at word
  split at word
  · cases word
  · rename_i ok
    simp at ok
    omega

theorem frames_execSpst {n : Nat} (focus : s.focus = .slot k n ∨ s.focus = .pipe k n) (w : NodeOp) (ord : BitVec 2) (blk : Bool) (scope : BitVec 3) :
    Frames (AgreeAt (OtherPads k)) k s (execSpst w ord blk scope s) := by
  have self : Keeps (AgreeAt (OtherPads k)) k s s := Keeps.refl (AgreeAt.refl _) s
  refine frames_fireSlot focus (AgreeAt.refl _) _ _ fun o => frames_ite (by simpa using self) ?_
  split
  · simpa using self
  · rename_i ok
    split
    · simpa using self
    · simp only [frames_next, keeps_fireTo, keeps_syncIf, keeps_shadowSet, keeps_eccClear]
      exact keeps_storeWords _ (inPad_of_accessTrap ok) (keeps_ite (by simpa using self) (by simpa using self))

/-! ### `jump` -/

@[simp] theorem keeps_spillPut (r off : Nat) (vals : List Lane) : Keeps (AgreeAt P) k s (spillPut t r off vals) ↔ Keeps (AgreeAt P) k s t := keeps_setRegion s t _ _
@[simp] theorem keeps_parkAt (r : Nat) (p : Parked) : Keeps (AgreeAt P) k s (parkAt t r p) ↔ Keeps (AgreeAt P) k s t := keeps_setRegion s t _ _

/-- The first byte of the scratchpad that holds a region's carve-out. -/
def carveBase (s : State) (r : Nat) : Nat := regionTile (s.region r) 65 * 524288

theorem carveBase_spillPut (r off : Nat) (vals : List Lane) : carveBase (spillPut t r off vals) r = carveBase t r := by simp [carveBase, spillPut, regionTile]

theorem carveBase_carveWrite (r r' a : Nat) (bs : List Byte) : carveBase (carveWrite t r a bs) r' = carveBase t r' := rfl

theorem keeps_carveWrite (h : Keeps (AgreeAt P) k s t) (r : Nat) {a : Nat} {bs : List Byte}
    (out : ∀ x, P x → x < carveBase t r + a ∨ carveBase t r + a + bs.length ≤ x) : Keeps (AgreeAt P) k s (carveWrite t r a bs) :=
  keeps_writeN h out

/-- Linking an entry writes at most the eight bytes of the link of the entry before it. -/
theorem keeps_linkEntry (h : Keeps (AgreeAt P) k s t) (r : Nat) {prev : Option Parked} (p : Parked)
    (out : ∀ x, prev = some x → ∀ a, P a → a < carveBase t r + x.carve + 8 ∨ carveBase t r + x.carve + 16 ≤ a) :
    Keeps (AgreeAt P) k s (linkEntry t r prev p) := by
  unfold linkEntry
  split
  · exact h
  · rename_i x
    split
    · exact keeps_ite h (by simpa using h)
    · refine keeps_carveWrite h r fun a ha => ?_
      have len : (Word.toBytes 8 (parkedNext p)).length = 8 := by simp [Word.toBytes]
      have := out x rfl a ha
      rw [len]
      generalize carveBase t r = base at this ⊢
      omega

/-- What the entry machinery leaves of the scratchpads when it accepts a token: all but the new entry's bytes and the link of the entry before it. -/
theorem keeps_entryAccept (h : Keeps (AgreeAt P) k s t) (r : Nat) (p : Parked)
    (entry : ∀ a, P a → a < carveBase t r + carveFree t r ∨ carveBase t r + carveFree t r + 128 ≤ a)
    (link : ∀ x, (blockQueue (t.region r) p.block).getLast? = some x → ∀ a, P a → a < carveBase t r + x.carve + 8 ∨ carveBase t r + x.carve + 16 ≤ a) :
    Keeps (AgreeAt P) k s (entryAccept t r p) := by
  unfold entryAccept
  extract_lets rg prev
  split
  · simpa using h
  · rw [keeps_parkAt, carvePut]
    refine keeps_linkEntry (keeps_carveWrite h r fun a ha => ?_) r _ (by rw [carveBase_carveWrite]; exact link)
    rw [parkedBytes_length]
    exact entry a ha
  · rw [keeps_parkAt, overflowPut, keeps_setCtx]
    refine keeps_linkEntry (by simpa using h) r _ ?_
    rw [carveBase_spillPut, carveBase_spillPut]
    exact link
  · exact h

theorem censusAdd_region (s : State) (r : Nat) (d : Int) (o : Nat) :
    (censusAdd s r d).region o = { s.region o with census := ((censusAdd s r d).region o).census } := by
  by_cases h : o = r
  · subst h
    unfold censusAdd
    split <;> simp
  · unfold censusAdd
    split <;> simp [State.setRegion_region_ne _ _ _ _ h]

/-- What `jump` consumes and counts before the entry machinery accepts its token changes of a region only the census, and no launch. -/
def CensusOnly (s t : State) : Prop := (∀ o, t.region o = { s.region o with census := (t.region o).census }) ∧ t.launches = s.launches

theorem censusOnly_of_sentFrom {r : Nat} {d : Int} (h : SentFrom k (censusAdd s r d) t) : CensusOnly s t := by
  have regions : t.regions = (censusAdd s r d).regions := by rw [h.rest]
  have launches : t.launches = (censusAdd s r d).launches := by rw [h.rest]
  refine ⟨fun o => ?_, launches.trans ?_⟩
  · have : t.region o = (censusAdd s r d).region o := by rw [State.region, regions, State.region]
    rw [this]
    exact censusAdd_region s r d o
  · unfold censusAdd
    split <;> rfl

theorem CensusOnly.carveFree (h : CensusOnly s t) (o : Nat) : carveFree t o = carveFree s o := by
  obtain ⟨region, launches⟩ := h
  have launch : t.launch = s.launch := funext fun l => by rw [State.launch, State.launch, launches]
  unfold Machine.carveFree carveEnd carveKiB State.launchFlag
  rw [region o, launch]

theorem CensusOnly.carveBase (h : CensusOnly s t) (o : Nat) : carveBase t o = carveBase s o := by
  unfold Machine.carveBase
  rw [h.1 o]
  rfl

theorem CensusOnly.queue (h : CensusOnly s t) (o b : Nat) : blockQueue (t.region o) b = blockQueue (s.region o) b := by
  rw [h.1 o]
  rfl

/-- The bytes that `jump` to block `b` may not change: those outside its token's entry and outside the link of the last entry in the block's queue (R243). -/
def OutsideEntry (s : State) (k : TileKey) (b a : Nat) : Prop :=
  ∀ o, ownerRegion s (s.launchOf k) b = some o →
    (a < carveBase s o + carveFree s o ∨ carveBase s o + carveFree s o + 128 ≤ a)
    ∧ ∀ p, (blockQueue (s.region o) b).getLast? = some p → a < carveBase s o + p.carve + 8 ∨ carveBase s o + p.carve + 16 ≤ a

theorem frames_execJump {n : Nat} (focus : s.focus = .slot k n ∨ s.focus = .pipe k n) (w : NodeOp) (block : BitVec 12) (entry : BitVec 4) :
    Frames (AgreeAt (OutsideEntry s k block.toNat)) k s (execJump w block entry s) := by
  have self : Keeps (AgreeAt (OutsideEntry s k block.toNat)) k s s := Keeps.refl (AgreeAt.refl _) s
  unfold execJump
  extract_lets f
  refine frames_atSlot focus (AgreeAt.refl _) _ ?_
  split
  · simpa using self
  · rename_i l _
    refine frames_ite (by simpa using self) ?_
    split
    · simpa using self
    · rename_i o owner
      extract_lets p fate d
      split
      · simpa using self
      · refine frames_ite (by simpa using self) (frames_next.mpr ?_)
        have only : CensusOnly s (noteMarker (consumeAt (censusAdd s (s.regionOf k) d) k n f) k n l) :=
          censusOnly_of_sentFrom ((sentFrom_consumeAt _ k n f).trans (sentFrom_noteMarker _ k n l))
        refine keeps_entryAccept (by simpa using self) o p ?_ ?_
        · rw [only.carveBase, only.carveFree]
          exact fun a ha => (ha o owner).1
        · rw [only.carveBase, only.queue]
          exact fun x hx a ha => (ha o owner).2 x hx
end

end Sys2Proof.Machine
end

section
/-! PROOF. What a node leaves unchanged: every node instruction, by the form of its firing. -/

namespace Sys2Proof.Machine

/-- Every node but `spst` and `jump` keeps all scratchpads as they are. -/
theorem frames_exec {k : TileKey} {s : State} {n : Nat} (focus : s.focus = .slot k n ∨ s.focus = .pipe k n) {i : Instr} (layer : i.layer = .node)
    (noJump : ∀ w b e, i ≠ .jump w b e) (noSpst : ∀ w ord blk scope, i ≠ .spst w ord blk scope) : Frames Eq k s (exec i s) := by
  cases i
  case jump w b e => exact absurd rfl (noJump w b e)
  case spst w ord blk scope => exact absurd rfl (noSpst w ord blk scope)
  case add | sub | mul | mulh | madd | div | rem | neg | abs | min | max | and | or | xor | not | andn | shl | shr | sra | rotl | clz | popc | bfx | bfi | addi =>
    exact frames_fireCalc focus _ _
  case fadd | fsub | fmul | fma | fms | fnma | fmin | fmax | fabs | fneg | fcpsgn | fdiv | fsqrt | frcp | frsqrt | exp2f | log2f | ldx | perm =>
    exact frames_fireCalc focus _ _
  case icmp | fcmp | fclass | rndi | cvt | pack | unpack | mcount | const =>
    unfold exec
    simp only [execIcmp, execFcmp, execFclass, execRndi, execCvt, execPack, execUnpack, execMcount, execConst]
    exact frames_fireCalc focus _ _
  case bcast | lidx | rsum | rmin | rmax | psum | pmin | pmax =>
    unfold exec
    simp only [execBcast, execLidx, execRsum, execRmin, execRmax, execPsum, execPmin, execPmax]
    exact frames_fireCalc focus _ _
  case mov | sel | tagGet | tagSet | rowtag =>
    unfold exec
    simp only [execMov, execSel, execTagGet, execTagSet, execRowtag]
    exact frames_fireMove focus _ _ _
  case mma | mmaAcc | loadw | swapw | drain | zero => exact frames_fireMop focus _ _
  case steer | loop =>
    unfold exec
    simp only [execSteer, execLoop]
    exact frames_steerTo focus _ _ _
  case merge => exact frames_execMerge focus _ _
  case gate => exact frames_execGate focus _
  case dup | censusUp | censusDn => exact frames_fireCounted focus _ _ _ _
  case sink => exact frames_execSink focus _
  case seqgen => exact frames_execSeqgen focus _ _
  case spawn => exact frames_execSpawn focus _
  case retire => exact frames_execRetire focus _ _
  case widFld => exact frames_execWidFld focus _ _
  case widLvl => exact frames_execWidLvl focus _ _
  case ctlS | ctlP | ctlQ => exact frames_ctlTake focus _ _
  case join => exact frames_execJoin focus _ _ _ _ _
  case fenceSc => exact frames_execFenceSc focus _ _
  case sluiceLocSnd => exact frames_execSluiceLocSnd focus _ _ _ _
  case sluiceXrSnd => exact frames_execSluiceXrSnd focus _ _ _ _
  case sluiceXrRcv => exact frames_execSluiceXrRcv focus _ _ _ _
  case spld => exact frames_execSpld focus _ _ _ _
  case spatom => exact frames_execSpatom focus _ _ _ _
  case spown => exact frames_execSpown focus _
  case xlat => exact frames_execXlat focus _ _
  case gaddr => exact frames_execGaddr focus _
  case resume => exact frames_execResume focus _
  case balloc | bfree | bappend | blook | btrim => exact frames_fireBlock focus _
  case rprog => exact frames_execRprog focus _
  case pj | pjp | pja =>
    unfold exec
    simp only [execPj, execPjp, execPja]
    exact frames_firePort focus _ _ _
  case pjs => exact frames_execPjs focus _ _
  case trap => exact frames_execTrap focus _ _
  case dtime | tileid =>
    unfold exec
    simp only [execDtime, execTileid]
    exact frames_fireRead focus _ _
  case stat => exact frames_execStat focus _
  all_goals cases layer

/-- What every node keeps, with the bytes of the scratchpads that it leaves alone. -/
theorem exec_keeps {k : TileKey} {s t : State} {n : Nat} (focus : s.focus = .slot k n ∨ s.focus = .pipe k n) {i : Instr} (layer : i.layer = .node)
    (run : exec i s = .next t) : ∃ R, Keeps R k s t := by
  by_cases jump : ∃ w b e, i = .jump w b e
  · obtain ⟨w, b, e, rfl⟩ := jump
    exact ⟨_, frames_execJump focus w b e t run⟩
  by_cases spst : ∃ w ord blk scope, i = .spst w ord blk scope
  · obtain ⟨w, ord, blk, scope, rfl⟩ := spst
    exact ⟨_, frames_execSpst focus w ord blk scope t run⟩
  exact ⟨_, frames_exec focus layer (fun w b e h => jump ⟨w, b, e, h⟩) (fun w ord blk scope h => spst ⟨w, ord, blk, scope, h⟩) t run⟩

/-- Settles O52: `frames_exec` for most nodes, `frames_execSpst` and `frames_execJump` for the two that write a scratchpad. -/
theorem nodeFrame : Obligations.NodeFrame := by
  unfold Obligations.NodeFrame
  intro i s t k n layer focus run
  obtain ⟨R, kept⟩ := exec_keeps focus layer run
  have same (noJump : ∀ w b e, i ≠ .jump w b e) (noSpst : ∀ w ord blk scope, i ≠ .spst w ord blk scope) : t.scratch = s.scratch :=
    (frames_exec focus layer noJump noSpst t run).scratch.symm
  refine ⟨kept.dram, kept.ram, kept.host, kept.far, fun noJump => ⟨fun a ha => ?_, same noJump⟩, fun w b e o isJump owner => ?_,
    kept.tiles, kept.seqs, kept.cmds, kept.queues, kept.kernels⟩
  · by_cases spst : ∃ w ord blk scope, i = .spst w ord blk scope
    · obtain ⟨w, ord, blk, scope, rfl⟩ := spst
      exact (frames_execSpst focus w ord blk scope t run).scratch a ha
    · rw [same noJump fun w ord blk scope h => spst ⟨w, ord, blk, scope, h⟩]
  · subst isJump
    intro base entry a outside link
    refine (frames_execJump focus w b e t run).scratch a fun o' owner' => ?_
    cases owner.symm.trans owner'
    exact ⟨outside, link⟩

end Sys2Proof.Machine
end

section
/-! PROOF. The units of a tile (04): what taking a token, noting a marker, counting and changing a unit leave of the tile, and what lists of writes leave in a map of lanes. -/

namespace Sys2Proof.Machine

/-! ### The unit in focus -/

/-- A unit that may act runs its step. -/
theorem atTile_of {s : State} {k : TileKey} {kind : Kind} (h : UnitAt s k kind) (go : TileKey → Tile → Out) : atTile s kind go = go k (s.tile k) := by
  obtain ⟨focus, there, isKind, runs⟩ := h
  simp [atTile, focus, there, isKind, runs]

section
variable (s : State) (k : TileKey)

@[simp] theorem portTake_tile (p : Nat) : (portTake s k p).tile k = { s.tile k with ports := (s.tile k).ports.del p } := State.setTile_tile_self _ _ _

@[simp] theorem portDrain_tile (p : Nat) (t : Tok) :
    (portDrain s k p t).tile k = { s.tile k with drained := if t.tt == .drain then p :: (s.tile k).drained else (s.tile k).drained } := by
  unfold portDrain
  split <;> simp

@[simp] theorem countTile_tile (lanes : List Nat) : (countTile s k lanes).tile k = { s.tile k with counts := countLanes (s.tile k).counts lanes } := by
  cases lanes with
  | nil => rfl
  | cons l ls => exact State.setTile_tile_self _ _ _

@[simp] theorem setMx_tile (u : MxUnit) : (setMx s k u).tile k = { s.tile k with mx := u } := State.setTile_tile_self _ _ _

@[simp] theorem setPj_tile (u : PjUnit) : (setPj s k u).tile k = { s.tile k with pj := u } := State.setTile_tile_self _ _ _
end

/-! ### Maps of lanes -/

namespace Map

@[simp] theorem getD_keep {α : Type} (m : Map α) (p : Nat → Bool) (i : Nat) (d : α) : (keep m fun j _ => p j).getD i d = if p i then m.getD i d else d := by
  induction m with
  | nil => simp [keep, getD, get?]
  | cons kv m ih =>
    obtain ⟨j, v⟩ := kv
    simp only [keep, getD] at ih ⊢
    by_cases hj : j = i
    · subst hj
      cases hp : p j <;> simp [hp, get?, ih]
    · cases hp : p j <;> simp [hp, get?, ih, hj]

theorem mem_of_get? {α : Type} {m : Map α} {i : Nat} {v : α} (h : m.get? i = some v) : (i, v) ∈ m := by
  induction m with
  | nil => cases h
  | cons kv m ih =>
    obtain ⟨j, w⟩ := kv
    simp only [get?] at h
    split at h
    case isTrue eq =>
      obtain rfl : j = i := by simpa using eq
      cases h
      exact List.mem_cons_self
    case isFalse => exact List.mem_cons_of_mem _ (ih h)

/-- A list of writes under which every write to a key writes the same value. -/
theorem get?_foldl_put {α : Type} {i : Nat} {v : α} (es : List (Nat × α)) (agree : ∀ e ∈ es, e.1 = i → e.2 = v) (m : Map α) :
    get? (es.foldl (fun (m : Map α) e => m.put e.1 e.2) m) i = if ∃ e ∈ es, e.1 = i then some v else get? m i := by
  induction es generalizing m with
  | nil => simp
  | cons e es ih =>
    rw [List.foldl_cons, ih fun e' h => agree e' (List.mem_cons_of_mem e h)]
    by_cases later : ∃ e' ∈ es, e'.1 = i
    · rw [if_pos later, if_pos (later.imp fun _ h => ⟨List.mem_cons_of_mem e h.1, h.2⟩)]
    rw [if_neg later]
    by_cases now : e.1 = i
    · rw [if_pos ⟨e, List.mem_cons_self, now⟩, now, get?_put_self, agree e List.mem_cons_self now]
    · rw [get?_put_ne _ _ _ _ (Ne.symm now), if_neg (by simpa [now] using later)]

end Map

theorem getD_lanePut (m : Map Lane) (i j : Nat) (v : Lane) : (lanePut m i v).getD j 0 = if j = i then v else m.getD j 0 := by
  unfold lanePut
  split
  case isTrue zero =>
    obtain rfl : v = 0 := by simpa using zero
    by_cases h : j = i
    · subst h; simp [Map.getD, Map.get?_del_self]
    · simp [Map.getD, Map.get?_del_ne _ _ _ h, h]
  case isFalse =>
    by_cases h : j = i
    · subst h; simp
    · rw [Map.getD_put_ne _ _ _ _ _ h, if_neg h]

/-- A list of writes of lanes under which every write to a key writes the same value. -/
theorem getD_foldl_lanePut {i : Nat} {v : Lane} (es : List (Nat × Lane)) (agree : ∀ e ∈ es, e.1 = i → e.2 = v) (m : Map Lane) :
    (es.foldl (fun (m : Map Lane) e => lanePut m e.1 e.2) m).getD i 0 = if ∃ e ∈ es, e.1 = i then v else m.getD i 0 := by
  induction es generalizing m with
  | nil => simp
  | cons e es ih =>
    rw [List.foldl_cons, ih fun e' h => agree e' (List.mem_cons_of_mem e h), getD_lanePut]
    by_cases later : ∃ e' ∈ es, e'.1 = i
    · rw [if_pos later, if_pos (later.imp fun _ h => ⟨List.mem_cons_of_mem e h.1, h.2⟩)]
    rw [if_neg later]
    by_cases now : e.1 = i
    · rw [if_pos now.symm, if_pos ⟨e, List.mem_cons_self, now⟩, agree e List.mem_cons_self now]
    · rw [if_neg (Ne.symm now), if_neg (by simpa [now] using later)]

end Sys2Proof.Machine
end

section
/-! PROOF. The matrix unit's nodes, and the control words that the unit takes (04 R92, R96, R97, R99, R100). -/

namespace Sys2Proof.Machine

/-! ### Nodes (R100) -/

theorem setField_getLsbD {w : Nat} (p : Payload) (lo : Nat) (v : BitVec w) {b : Nat} (hb : b < 512) :
    (Word.setField p lo v).getLsbD b = if lo ≤ b ∧ b < lo + w then v.getLsbD (b - lo) else p.getLsbD b := by
  simp only [Word.setField, BitVec.getLsbD_or, BitVec.getLsbD_and, BitVec.getLsbD_not, BitVec.getLsbD_shiftLeft, BitVec.getLsbD_setWidth, BitVec.getLsbD_allOnes, hb,
    decide_true, Bool.true_and, show b - lo < 512 by omega]
  by_cases low : b < lo
  · simp [low, show ¬(lo ≤ b) by omega]
  · by_cases high : b - lo < w
    · simp [low, high, show lo ≤ b ∧ b < lo + w by omega]
    · simp [low, high, show ¬(lo ≤ b ∧ b < lo + w) by omega, BitVec.getLsbD_of_ge v (b - lo) (by omega)]

section
variable {s : State} {k : TileKey} {n : Nat} {o : Opnds}

/-- What a matrix node sends: its left token as a control token, with a field of its payload replaced. -/
theorem fireMove_stamps {i : Instr} {lo len v : Nat} {x : BitVec len} (hx : ∀ b, x.getLsbD b = v.testBit b)
    (e : exec i s = fireMove (formOf i) s (fun o => some { resultTok o (Word.setField o.l.pay lo x) with tt := TT.control })
      (fun o => some { resultTok o (Word.setField o.l.pay lo x) with tt := TT.control })) (h : NodeAt s k n (formOf i) o) :
    ∃ p, exec i s = .next (fireTo s k n (formOf i) (some { tt := .control, seq := o.head.seq, tag := o.head.tag, pay := p })
        (some { tt := .control, seq := o.head.seq, tag := o.head.tag, pay := p }))
      ∧ ∀ b, b < 512 → p.getLsbD b = if lo ≤ b ∧ b < lo + len then v.testBit (b - lo) else o.l.pay.getLsbD b := by
  refine ⟨Word.setField o.l.pay lo x, by rw [e, fireMove_of h]; rfl, fun b hb => ?_⟩
  rw [setField_getLsbD _ _ _ hb, hx]

theorem fireMop_stamps {i : Instr} {m : Nat} (hm : m < 64) (e : exec i s = fireMop (formOf i) (BitVec.ofNat 6 m) s) (h : NodeAt s k n (formOf i) o) :
    ∃ p, exec i s = .next (fireTo s k n (formOf i) (some { tt := .control, seq := o.head.seq, tag := o.head.tag, pay := p })
        (some { tt := .control, seq := o.head.seq, tag := o.head.tag, pay := p }))
      ∧ ∀ b, b < 512 → p.getLsbD b = if 58 ≤ b ∧ b < 58 + 6 then m.testBit (b - 58) else o.l.pay.getLsbD b :=
  fireMove_stamps (fun b => by rw [BitVec.getLsbD, BitVec.toNat_ofNat, Nat.mod_eq_of_lt hm]) e h

theorem execRowtag_stamps {w : NodeOp} {imm : BitVec 16} (h : NodeAt s k n (formOf (.rowtag w imm)) o) :
    ∃ p, exec (.rowtag w imm) s = .next (fireTo s k n (formOf (.rowtag w imm)) (some { tt := .control, seq := o.head.seq, tag := o.head.tag, pay := p })
        (some { tt := .control, seq := o.head.seq, tag := o.head.tag, pay := p }))
      ∧ ∀ b, b < 512 → p.getLsbD b
          = if 0 ≤ b ∧ b < 0 + 16 then (((Word.lane o.r.pay 0).toNat % 2 ^ 16 + imm.toNat) % 2 ^ 16).testBit (b - 0) else o.l.pay.getLsbD b := by
  refine ⟨Word.setField o.l.pay 0 (Word.field o.r.pay 0 16 + imm), (fireMove_of h _ _).trans rfl, fun b hb => ?_⟩
  have sum : (Word.field o.r.pay 0 16 + imm).toNat = ((Word.lane o.r.pay 0).toNat % 2 ^ 16 + imm.toNat) % 2 ^ 16 := by
    simp [Word.field, Word.lane]
  rw [setField_getLsbD _ _ _ hb, BitVec.getLsbD, sum]

theorem execRprog_fires {w : NodeOp} (h : NodeAt s k n (formOf (.rprog w)) o) :
    Fires (.rprog w) s k n o (Word.splat ((s.tile k).mx.rprog.setWidth 32)) (Word.splat ((s.tile k).mx.rprog.setWidth 32)) := by
  show execRprog w s = _
  simp [execRprog, fireSlot_of h, h.2.2]

end

/-! ### Control words (R92) -/

/-- The unit's steps for control words, by MOP. -/
def mxOps : List (Nat × Instr) := [(0, .mxMma), (1, .mxMmaAcc), (2, .mxLoadw), (3, .mxSwapw), (4, .mxDrain), (5, .mxZero)]

theorem exec_mxOp {m : Nat} {i : Instr} (h : (m, i) ∈ mxOps) (s : State) : exec i s = mxStep m s := by
  simp only [mxOps, List.mem_cons, Prod.mk.injEq, List.not_mem_nil, or_false] at h
  rcases h with ⟨rfl, rfl⟩ | ⟨rfl, rfl⟩ | ⟨rfl, rfl⟩ | ⟨rfl, rfl⟩ | ⟨rfl, rfl⟩ | ⟨rfl, rfl⟩ <;> rfl

theorem mxOps_lt {m : Nat} {i : Instr} (h : (m, i) ∈ mxOps) : m < 6 := by
  simp only [mxOps, List.mem_cons, Prod.mk.injEq, List.not_mem_nil, or_false] at h
  omega

/-- No resume token stands at a port. -/
def NoResume (t : Tile) (q : Nat) : Prop := ∀ y, t.ports.get? q = some y → y.tok.tt ≠ .resume

theorem mop_eq (c : Word64) : MxCtl.mop c = c.toNat / 2 ^ 58 := by
  have := c.isLt
  rw [MxCtl.mop, Word.field, BitVec.extractLsb'_toNat, Nat.shiftRight_eq_div_pow]
  omega

theorem wsel_lt (c : Word64) : MxCtl.wsel c < 4 := (Word.field c 40 2).isLt
theorem asel_lt (c : Word64) : MxCtl.asel c < 2 := (Word.field c 39 1).isLt

section
variable {s : State} {k : TileKey} {m : Nat}

/-- What one port adds to the search for a resume token. -/
theorem bind_resume_none {t : Tile} {q : Nat} (h : NoResume t q) (f : Parcel → State) :
    ((t.ports.get? q).bind fun x => if x.tok.tt == .resume then some (f x) else none) = none := by
  cases e : t.ports.get? q with
  | none => rfl
  | some y => simp [h y e]

theorem mxResume_none (h0 : NoResume (s.tile k) 0) (h1 : NoResume (s.tile k) 1) : mxResume s k (s.tile k) = none := by
  simp only [mxResume, List.findSome?_cons, List.findSome?_nil, bind_resume_none h0, bind_resume_none h1]

theorem mxResume_some {q : Nat} {x : Parcel} (hq : q < 2) (port : (s.tile k).ports.get? q = some x) (resume : x.tok.tt = .resume)
    (before : ∀ y, y < q → NoResume (s.tile k) y) :
    mxResume s k (s.tile k) = some (raiseTrap s (unitSite s k q (((s.tile k).mx.run.map (·.ctl)).getD 0) (some x.tok)) causeBadToken 0) := by
  have word : (s.tile k).mx.run.elim 0 (fun r => r.ctl) = ((s.tile k).mx.run.map (·.ctl)).getD 0 := by
    cases (s.tile k).mx.run <;> rfl
  simp only [mxResume, List.findSome?_cons, word]
  obtain rfl | rfl : q = 0 ∨ q = 1 := by omega
  · simp [port, resume]
  · rw [bind_resume_none (before 0 Nat.one_pos)]
    simp [port, resume]

variable (unit : UnitAt s k .mx) (going : (s.tile k).mx.stopped = false)
include unit going

/-- A resume token at an operand port stops the unit (R99). -/
theorem mxStep_resume {t : State} (resume : mxResume s k (s.tile k) = some t) : mxStep m s = .next t := by
  simp [mxStep, atTile_of unit, going, resume]

/-- With no word running, the unit takes the token at `mx.c` (R92). -/
theorem mxStep_takes {p : Parcel} (noResume : mxResume s k (s.tile k) = none) (idle : (s.tile k).mx.run = none) (port : (s.tile k).ports.get? 2 = some p) :
    mxStep m s = mxTake s k m p.tok := by
  simp [mxStep, atTile_of unit, going, noResume, idle, port]

omit unit going

variable {x : Tok} {c : Word64} (ctl : x.tt = .data ∨ x.tt = .control) (word : x.pay.extractLsb' 0 64 = c)
include ctl word

theorem mxTake_refuses (bad : MxCtl.ok (s.tile k) c = false) : mxTake s k m x = .next (raiseTrap s (unitSite s k 2 c (some x)) causeMxBadCtl 0) := by
  subst word
  rcases ctl with h | h <;> simp [mxTake, h, TT.isMarker, Word.field, bad]

/-- What taking a control word of each MOP does. -/
theorem mxTake_begins (ok : MxCtl.ok (s.tile k) c = true) (mop : MxCtl.mop c = m) : mxTake s k m x =
    if m < 3 then .next (setMx (portTake s k 2) k { (s.tile k).mx with run := some { ctl := c, hb := pastOf s [x] } })
    else if m = 3 then .next (setMx (portTake s k 2) k { (s.tile k).mx with w := swapBuffers (s.tile k).mx.w (MxCtl.wsel c) (MxCtl.wsel c ^^^ 1) })
    else if m = 4 then .next (mxBeginDrain (portTake s k 2) k c (pastOf s [x]))
    else .next (setMx (portTake s k 2) k { (s.tile k).mx with acc := (s.tile k).mx.acc.keep fun i _ => i / 1024 != MxCtl.asel c }) := by
  subst word
  rcases ctl with h | h <;> simp [mxTake, h, TT.isMarker, Word.field, ok, mop]

end

/-- The two writes of each step of an exchange of buffers. -/
def swapWrites (w : Map Lane) (a b : Nat) : List (Nat × Lane) :=
  (List.range 1024).flatMap fun i => [(a * 1024 + i, w.getD (b * 1024 + i) 0), (b * 1024 + i, w.getD (a * 1024 + i) 0)]

theorem swapBuffers_eq (w : Map Lane) (a b : Nat) : swapBuffers w a b = (swapWrites w a b).foldl (fun (m : Map Lane) e => lanePut m e.1 e.2) w := by
  rw [swapWrites, List.foldl_flatMap]
  rfl

theorem mem_swapWrites {w : Map Lane} {a b x : Nat} {v : Lane} :
    (x, v) ∈ swapWrites w a b ↔ ∃ i, i < 1024 ∧ ((x = a * 1024 + i ∧ v = w.getD (b * 1024 + i) 0) ∨ (x = b * 1024 + i ∧ v = w.getD (a * 1024 + i) 0)) := by
  simp [swapWrites]

/-- Each buffer of an exchange holds what the other held (R96). -/
theorem getD_swapBuffers (w : Map Lane) {a b : Nat} (ne : a ≠ b) (c : Nat) {e : Nat} (he : e < 1024) :
    (swapBuffers w a b).getD (c * 1024 + e) 0 = w.getD ((if c = a then b else if c = b then a else c) * 1024 + e) 0 := by
  rw [swapBuffers_eq, getD_foldl_lanePut (v := w.getD ((if c = a then b else a) * 1024 + e) 0)]
  case agree =>
    rintro ⟨x, v⟩ mem rfl
    obtain ⟨i, hi, ⟨key, rfl⟩ | ⟨key, rfl⟩⟩ := mem_swapWrites.mp mem
    · obtain ⟨rfl, rfl⟩ : c = a ∧ e = i := by omega
      rw [if_pos rfl]
    · obtain ⟨rfl, rfl⟩ : c = b ∧ e = i := by omega
      rw [if_neg ne.symm]
  have touched : (∃ e' ∈ swapWrites w a b, e'.1 = c * 1024 + e) ↔ c = a ∨ c = b := by
    constructor
    · rintro ⟨⟨x, v⟩, mem, rfl⟩
      obtain ⟨i, hi, ⟨key, -⟩ | ⟨key, -⟩⟩ := mem_swapWrites.mp mem <;> omega
    · rintro (rfl | rfl)
      · exact ⟨_, mem_swapWrites.mpr ⟨e, he, .inl ⟨rfl, rfl⟩⟩, rfl⟩
      · exact ⟨_, mem_swapWrites.mpr ⟨e, he, .inr ⟨rfl, rfl⟩⟩, rfl⟩
  simp only [touched]
  by_cases ha : c = a
  · simp [ha]
  · by_cases hb : c = b <;> simp [ha, hb]

theorem wsel_ne_pair (c : Word64) : MxCtl.wsel c ≠ MxCtl.wsel c ^^^ 1 := by
  intro h
  have := congrArg (· ^^^ MxCtl.wsel c) h
  simp [Nat.xor_comm] at this

end Sys2Proof.Machine
end

section
/-! PROOF. O29, from the steps of the matrix unit's control words. -/

namespace Sys2Proof.Machine

/-- The tokens of a drain depend on the accumulators and the unit's words alone. -/
theorem drainEmits_congr {t u : Tile} (units : t.units = u.units) (acc : t.mx.acc = u.mx.acc) (c : Word64) : drainEmits t c = drainEmits u c := by
  simp only [drainEmits, drainRow, unit0, units, acc]

/-- A list of tokens with what happens before them. -/
def emitsAfter (past : List Nat) (es : List Emit) : List Emit := es.map fun e => { e with parcel := { e.parcel with tok := e.parcel.tok.after past } }

theorem mxBeginDrain_mx (s : State) (k : TileKey) (c : Word64) (past : List Nat) : ((mxBeginDrain s k c past).tile k).mx =
    { (s.tile k).mx with run := some { ctl := c, hb := past, out := emitsAfter past (drainEmits (s.tile k) c), drains := true }, lastRoute := some (MxCtl.drt c) } := by
  rw [mxBeginDrain, setMx_tile]
  rfl

theorem mxBeginDrain_ports (s : State) (k : TileKey) (c : Word64) (past : List Nat) : ((mxBeginDrain s k c past).tile k).ports = (s.tile k).ports := by
  rw [mxBeginDrain, setMx_tile]

section
variable {s : State} {k : TileKey} {x : Tok} {c : Word64} {m : Nat} (ctl : x.tt = .data ∨ x.tt = .control) (word : x.pay.extractLsb' 0 64 = c)
  (ok : MxCtl.ok (s.tile k) c = true) (lt : m < 6) (mop : MxCtl.mop c = m)
include ctl word ok lt mop

/-- What each control word does when the unit takes it (R92, R96, R97). -/
theorem mxTake_effects : ∃ s', mxTake s k m x = .next s' ∧ (s'.tile k).ports.get? 2 = none ∧ (s'.tile k).mx.rprog = (s.tile k).mx.rprog
    ∧ (m < 3 → (s'.tile k).mx = { (s.tile k).mx with run := some { ctl := c, hb := pastOf s [x] } })
    ∧ (m = 3 → (s'.tile k).mx = { (s.tile k).mx with w := swapBuffers (s.tile k).mx.w (MxCtl.wsel c) (MxCtl.wsel c ^^^ 1) })
    ∧ (m = 4 → (s'.tile k).mx = { (s.tile k).mx with
        run := some { ctl := c, hb := pastOf s [x], out := emitsAfter (pastOf s [x]) (drainEmits (s.tile k) c), drains := true }
        lastRoute := some (MxCtl.drt c) })
    ∧ (m = 5 → (s'.tile k).mx = { (s.tile k).mx with acc := (s.tile k).mx.acc.keep fun i _ => i / 1024 != MxCtl.asel c }) := by
  have taken : ((portTake s k 2).tile k).ports.get? 2 = none := by rw [portTake_tile]; exact Map.get?_del_self _ _
  have emits : drainEmits ((portTake s k 2).tile k) c = drainEmits (s.tile k) c := by
    rw [portTake_tile]
    exact drainEmits_congr rfl rfl c
  rw [mxTake_begins ctl word ok mop]
  by_cases reads : m < 3
  · rw [if_pos reads]
    exact ⟨_, rfl, by rw [setMx_tile]; exact taken, by rw [setMx_tile], fun _ => by rw [setMx_tile], by omega, by omega, by omega⟩
  rw [if_neg reads]
  by_cases swaps : m = 3
  · rw [if_pos swaps]
    exact ⟨_, rfl, by rw [setMx_tile]; exact taken, by rw [setMx_tile], by omega, fun _ => by rw [setMx_tile], by omega, by omega⟩
  rw [if_neg swaps]
  by_cases drains : m = 4
  · rw [if_pos drains]
    refine ⟨_, rfl, by rw [mxBeginDrain_ports]; exact taken, by rw [mxBeginDrain_mx, portTake_tile], by omega, by omega, fun _ => ?_, by omega⟩
    rw [mxBeginDrain_mx, emits, portTake_tile]
  · rw [if_neg drains]
    exact ⟨_, rfl, by rw [setMx_tile]; exact taken, by rw [setMx_tile], by omega, by omega, by omega, fun _ => by rw [setMx_tile]⟩

end

/-- Settles O29: the nodes are moves that replace a field of the payload; each control word by `mxTake_effects`. -/
theorem matrixNodesAndControlWords : Obligations.MatrixNodesAndControlWords := by
  unfold Obligations.MatrixNodesAndControlWords
  refine ⟨fun s k n w o imm => ?_, fun s k p => ?_⟩
  · intro stamps
    exact ⟨fireMop_stamps (m := 0) (by decide) rfl, fireMop_stamps (m := 1) (by decide) rfl, fireMop_stamps (m := 2) (by decide) rfl, fireMop_stamps (m := 3) (by decide) rfl,
      fireMop_stamps (m := 4) (by decide) rfl, fireMop_stamps (m := 5) (by decide) rfl, execRowtag_stamps, fun h => ⟨_, execRprog_fires h, fun j hj => lane_ofLanes _ _ hj⟩⟩
  · intro t u c after mops lines focus there kind runs going
    have unit : UnitAt s k .mx := ⟨focus, there, kind, runs⟩
    refine ⟨fun q x m i hq port resume before op => ?_, fun h0 h1 idle port ctl => ?_⟩
    · rw [exec_mxOp op, mxStep_resume unit going (mxResume_some hq port resume before)]
    have takes {m i} (op : (m, i) ∈ mops) : exec i s = mxTake s k m p.tok := by
      rw [exec_mxOp op, mxStep_takes unit going (mxResume_none h0 h1) idle port]
    refine ⟨fun bad m i op => by rw [takes op, mxTake_refuses ctl rfl bad], fun ok m i op hm => ?_⟩
    obtain ⟨s', run, gone, rprog, reads, swaps, drains, zeroes⟩ := mxTake_effects (c := c) ctl rfl ok (mxOps_lt op) ((mop_eq _).trans hm.symm)
    refine ⟨s', (takes op).trans run, gone, rprog, reads, fun is => ?_, fun is => ?_, fun is => ?_⟩
    · have w := congrArg MxUnit.w (swaps is)
      dsimp only at w
      refine ⟨by rw [swaps is], by rw [swaps is]; exact idle, fun b e he => ?_⟩
      rw [w, getD_swapBuffers _ (wsel_ne_pair c) b he]
    · rw [drains is]
      exact ⟨rfl, rfl, rfl, rfl⟩
    · rw [zeroes is]
      refine ⟨rfl, idle, fun x => ?_⟩
      rw [Map.getD_keep _ fun i => i / 1024 != MxCtl.asel c]
      by_cases h : x / 1024 = MxCtl.asel c <;> simp [h, u, c, t]

end Sys2Proof.Machine
end

section
/-! PROOF. Lines of a running control word (04 R93 to R95, R99). -/

namespace Sys2Proof.Machine

/-! ### What a line writes (R93, R95) -/

theorem or32_le (x : BitVec 5) : MxCtl.or32 x ≤ 32 := by
  have := x.isLt
  unfold MxCtl.or32
  split <;> omega

theorem accKey_inj {a b i j i' j' : Nat} (hi : i < 32) (hj : j < 32) (hi' : i' < 32) (hj' : j' < 32) :
    accKey a i j = accKey b i' j' ↔ a = b ∧ i = i' ∧ j = j' := by
  unfold accKey
  omega

/-- The writes of a line of an MMA: one for each output of the line. -/
def mmaWrites (u : MxUnit) (smode : Bool) (c : Word64) (q : Nat) (xs : List Lane) : List (Nat × Lane) :=
  (List.range (if smode then MxCtl.m c else MxCtl.n c)).map fun o =>
    let key := accKey (MxCtl.asel c) (if smode then o else q) (if smode then q else o)
    (key, accumulate (if MxCtl.acc c then u.acc.getD key 0 else 0)
      ((List.range (MxCtl.k c)).map fun e => (xs.getD e 0, u.w.getD (wKey (MxCtl.wsel c) o e) 0)))

theorem mmaLine_eq (u : MxUnit) (smode : Bool) (c : Word64) (q : Nat) (xs : List Lane) :
    mmaLine u smode c q xs = (mmaWrites u smode c q xs).foldl (fun (m : Map Lane) e => lanePut m e.1 e.2) u.acc := by
  rw [mmaWrites, List.foldl_map]
  rfl

/-- The accumulators after a line of an MMA: an output of the line has its sum, every other entry its old value. -/
theorem getD_mmaLine (u : MxUnit) (smode : Bool) (c : Word64) {q : Nat} (xs : List Lane) (hq : q < 32) (a : Nat) {i j : Nat} (hi : i < 32) (hj : j < 32) :
    (mmaLine u smode c q xs).getD (accKey a i j) 0 =
      if a = MxCtl.asel c ∧ (if smode then j = q ∧ i < MxCtl.m c else i = q ∧ j < MxCtl.n c) then
        accumulate (if MxCtl.acc c then u.acc.getD (accKey a i j) 0 else 0)
          ((List.range (MxCtl.k c)).map fun e => (xs.getD e 0, u.w.getD (wKey (MxCtl.wsel c) (if smode then i else j) e) 0))
      else u.acc.getD (accKey a i j) 0 := by
  have rows : MxCtl.m c ≤ 32 := or32_le _
  have columns : MxCtl.n c ≤ 32 := or32_le _
  let out (o : Nat) := accKey (MxCtl.asel c) (if smode then o else q) (if smode then q else o)
  have here (o : Nat) (ho : o < if smode then MxCtl.m c else MxCtl.n c) :
      out o = accKey a i j ↔ a = MxCtl.asel c ∧ o = (if smode then i else j) ∧ (if smode then j else i) = q := by
    cases smode <;> simp only [out, accKey, reduceIte, Bool.false_eq_true] at ho ⊢ <;> omega
  rw [mmaLine_eq, getD_foldl_lanePut (v := accumulate (if MxCtl.acc c then u.acc.getD (accKey a i j) 0 else 0)
    ((List.range (MxCtl.k c)).map fun e => (xs.getD e 0, u.w.getD (wKey (MxCtl.wsel c) (if smode then i else j) e) 0)))]
  case agree =>
    rintro ⟨key, v⟩ mem rfl
    obtain ⟨o, ho, pair⟩ := List.mem_map.mp mem
    obtain ⟨isKey, rfl⟩ := Prod.mk.inj pair
    have keyOut : out o = accKey a i j := isKey
    obtain ⟨-, rfl, -⟩ := (here o (List.mem_range.mp ho)).mp keyOut
    simp only [out] at keyOut
    simp only [keyOut]
  refine if_congr ⟨?_, fun line => ?_⟩ rfl rfl
  · rintro ⟨⟨key, v⟩, mem, rfl⟩
    obtain ⟨o, ho, pair⟩ := List.mem_map.mp mem
    have lt := List.mem_range.mp ho
    obtain ⟨rfl, rfl, rfl⟩ := (here o lt).mp (Prod.mk.inj pair).1
    cases smode <;> simpa using lt
  · obtain ⟨rfl, line⟩ := line
    have lt : (if smode then i else j) < if smode then MxCtl.m c else MxCtl.n c := by
      cases smode <;> simp only [Bool.false_eq_true, if_false, if_true] at line ⊢ <;> exact line.2
    have at_q : (if smode then j else i) = q := by
      cases smode <;> simp only [Bool.false_eq_true, if_false, if_true] at line ⊢ <;> exact line.1
    exact ⟨_, List.mem_map.mpr ⟨_, List.mem_range.mpr lt, rfl⟩, (here _ lt).mpr ⟨rfl, rfl, at_q⟩⟩

/-- The buffers after a line of a LOADW: the elements of the line, and elsewhere the old values. -/
theorem getD_loadLine (u : MxUnit) (c : Word64) {line : Nat} (xs : List Lane) (hl : line < 32) (b : Nat) {q e : Nat} (hq : q < 32) (he : e < 32) :
    (loadLine u c line xs).getD (wKey b q e) 0 = if b = MxCtl.wsel c ∧ q = line ∧ e < MxCtl.k c then xs.getD e 0 else u.w.getD (wKey b q e) 0 := by
  have width : MxCtl.k c ≤ 32 := or32_le _
  have here (o : Nat) (ho : o < MxCtl.k c) : wKey (MxCtl.wsel c) line o = wKey b q e ↔ b = MxCtl.wsel c ∧ q = line ∧ o = e := by
    unfold wKey
    omega
  have writes : loadLine u c line xs =
      (((List.range (MxCtl.k c)).map fun o => (wKey (MxCtl.wsel c) line o, xs.getD o 0)).foldl (fun (m : Map Lane) e => lanePut m e.1 e.2) u.w) := by
    rw [List.foldl_map]
    rfl
  rw [writes, getD_foldl_lanePut (v := xs.getD e 0)]
  case agree =>
    rintro ⟨key, v⟩ mem isKey
    obtain ⟨o, ho, pair⟩ := List.mem_map.mp mem
    obtain ⟨rfl, rfl⟩ := Prod.mk.inj pair
    rw [((here o (List.mem_range.mp ho)).mp isKey).2.2]
  refine if_congr ⟨?_, fun ⟨buffer, line, lt⟩ => ?_⟩ rfl rfl
  · rintro ⟨⟨key, v⟩, mem, isKey⟩
    obtain ⟨o, ho, pair⟩ := List.mem_map.mp mem
    have lt := List.mem_range.mp ho
    obtain ⟨buffer, line, rfl⟩ := (here o lt).mp ((Prod.mk.inj pair).1.trans isKey)
    exact ⟨buffer, line, lt⟩
  · exact ⟨_, List.mem_map.mpr ⟨e, List.mem_range.mpr lt, rfl⟩, (here e lt).mpr ⟨buffer, line, rfl⟩⟩

/-! ### One line -/

/-- What happens before a line: what happens before the run, and with a token taken, before the token. -/
def linePast (s : State) (k : TileKey) (r : MxRun) (x : LineRead) : List Nat :=
  if x.take then hbJoin r.hb (pastOf s ((((s.tile k).ports.get? (mxPort (s.tile k) r.ctl)).map (·.tok)).toList)) else r.hb

/-- The unit with a line of its word done. -/
def lineUnit (t : Tile) (r : MxRun) (x : LineRead) : MxUnit :=
  if MxCtl.mop r.ctl == 2 then { t.mx with w := loadLine t.mx r.ctl r.line x.xs }
  else { t.mx with acc := mmaLine t.mx (mxSmode t) r.ctl r.line x.xs, rprog := MxCtl.rowtag r.ctl + BitVec.ofNat 16 r.line }

section
variable {s : State} {k : TileKey} {r : MxRun}

theorem mxArrival_fault {y : Parcel} (port : (s.tile k).ports.get? 2 = some y) (fault : y.tok.tt = .fault) (reads : r.drains = false) :
    mxArrival s k (s.tile k) r =
      some (raiseTrap s (unitSite s k 2 (y.tok.pay.extractLsb' 0 64) (some y.tok)) causeMxFaultIn (BitVec.ofNat 64 r.line)) := by
  simp [mxArrival, port, fault, mxReached, reads, Word.field]

theorem mxArrival_quiet (quiet : ∀ y, (s.tile k).ports.get? 2 = some y → y.tok.tt ≠ .fault ∧ y.tok.tt ≠ .resume) : mxArrival s k (s.tile k) r = none := by
  unfold mxArrival
  cases port : (s.tile k).ports.get? 2 with
  | none => rfl
  | some y => simp [quiet y port]

section
variable {m : Nat} (unit : UnitAt s k .mx) (going : (s.tile k).mx.stopped = false) (noResume : mxResume s k (s.tile k) = none) (running : (s.tile k).mx.run = some r)
include unit going noResume running

theorem mxStep_arrival {t : State} (arrival : mxArrival s k (s.tile k) r = some t) : mxStep m s = .next t := by
  simp [mxStep, atTile_of unit, going, noResume, running, arrival]

theorem mxStep_line (quiet : mxArrival s k (s.tile k) r = none) (mop : MxCtl.mop r.ctl = m) (reads : r.drains = false) : mxStep m s = mxLine s k r := by
  simp [mxStep, atTile_of unit, going, noResume, running, quiet, mop, reads]

end

section
variable {x : LineRead} (ctl : ∀ y, (s.tile k).ports.get? (mxPort (s.tile k) r.ctl) = some y → y.tok.tt = .data ∨ y.tok.tt = .control)
  (read : readLine (s.tile k) (MxCtl.k r.ctl) r.blocks ((s.tile k).ports.get? (mxPort (s.tile k) r.ctl)) = some x)
include ctl read

/-- A line that can be read is done: the next line follows it, or the word ends, and MMA.ACC begins to drain. -/
theorem mxLine_eq : ∃ s1, (s1.tile k).mx = (s.tile k).mx ∧ (s1.tile k).units = (s.tile k).units
    ∧ (s1.tile k).ports = (if x.take then (s.tile k).ports.del (mxPort (s.tile k) r.ctl) else (s.tile k).ports)
    ∧ mxLine s k r =
      if r.line + 1 < mxLines (s.tile k) r.ctl then
        .next (setMx s1 k { lineUnit (s.tile k) r x with run := some { r with line := r.line + 1, blocks := x.blocks, hb := linePast s k r x } })
      else if MxCtl.mop r.ctl = 1 then .next (mxBeginDrain (setMx s1 k { lineUnit (s.tile k) r x with run := none }) k r.ctl (linePast s k r x))
      else .next (setMx s1 k { lineUnit (s.tile k) r x with run := none }) := by
  have s1_tile : (countTile (if x.take then portTake s k (mxPort (s.tile k) r.ctl) else s) k x.tally).tile k =
      { s.tile k with ports := if x.take then (s.tile k).ports.del (mxPort (s.tile k) r.ctl) else (s.tile k).ports
                      counts := countLanes (s.tile k).counts x.tally } := by
    rw [countTile_tile]
    cases x.take <;> simp
  refine ⟨countTile (if x.take then portTake s k (mxPort (s.tile k) r.ctl) else s) k x.tally, by rw [s1_tile], by rw [s1_tile], by rw [s1_tile], ?_⟩
  unfold mxLine
  simp only [read]
  split
  next cause d stop =>
    exfalso
    obtain ⟨tok, bad, stop⟩ := Option.bind_eq_some_iff.mp stop
    have plain : tok.tt = .data ∨ tok.tt = .control := by
      split at bad
      · obtain ⟨y, port, rfl⟩ := Option.map_eq_some_iff.mp bad
        exact ctl y port
      · cases bad
    rcases plain with h | h <;> simp [h, TT.isMarker] at stop
  · generalize countTile (if x.take then portTake s k (mxPort (s.tile k) r.ctl) else s) k x.tally = s1 at s1_tile
    have mx : (s1.tile k).mx = (s.tile k).mx := by rw [s1_tile]
    rw [mx]
    by_cases more : r.line + 1 < mxLines (s.tile k) r.ctl
    · rw [if_pos more, if_pos more]
      rfl
    rw [if_neg more, if_neg more]
    by_cases drains : MxCtl.mop r.ctl = 1
    · rw [if_pos drains, if_pos (beq_iff_eq.mpr drains)]
      rfl
    · rw [if_neg drains, if_neg (by simpa using drains)]
      rfl

end

end

theorem mxBeginDrain_emits (s : State) (k : TileKey) (c d : Word64) (past : List Nat) : drainEmits ((mxBeginDrain s k c past).tile k) d = drainEmits (s.tile k) d := by
  refine drainEmits_congr ?_ ?_ d <;> rw [mxBeginDrain, setMx_tile]

end Sys2Proof.Machine
end

section
/-! PROOF. The tokens of a drain, and the marker at `mx.c` (04 R97, R99). -/

namespace Sys2Proof.Machine

/-! ### A drained row (R97) -/

/-- The selector token before a drained row. -/
def drainSelector (c : Word64) (i : Nat) : List Tok :=
  if MxCtl.psel c == 0 then []
  else [{ tt := .control, tag := MxCtl.rowtag c + BitVec.ofNat 16 i, seq := (MxCtl.cbi c).setWidth 8, pay := (MxCtl.psel c).setWidth 512 }]

/-- Half `h` of a row drained as F32. -/
def drainF32 (t : Tile) (c : Word64) (i h : Nat) : Tok :=
  { tag := MxCtl.rowtag c + BitVec.ofNat 16 i, seq := 2 * (MxCtl.cbi c).setWidth 8 + BitVec.ofNat 8 h
    pay := Word.ofLanes fun l => if 16 * h + l < MxCtl.n c then t.mx.acc.getD (accKey (MxCtl.asel c) i (16 * h + l)) 0 else 0 }

/-- A row drained as BF16. -/
def drainBf16 (t : Tile) (c : Word64) (i : Nat) : Tok :=
  { tag := MxCtl.rowtag c + BitVec.ofNat 16 i, seq := 2 * (MxCtl.cbi c).setWidth 8
    pay := ofElems 16 fun j =>
      if j < MxCtl.n c then
        (Fp.narrow ((RMode.ofCode (Word.field (unit0 t) 48 3)).getD .rn) (t.mx.acc.getD (accKey (MxCtl.asel c) i j) 0).toNat).bits
      else 0 }

/-- The data tokens of a drained row. -/
def drainBody (t : Tile) (c : Word64) (i : Nat) : List Tok :=
  if Word.field (unit0 t) 51 4 == (2 : BitVec 4) then (List.range (Word.ceilDiv (MxCtl.n c) 16)).map (drainF32 t c i) else [drainBf16 t c i]

theorem drainRow_eq (t : Tile) (c : Word64) (i : Nat) : drainRow t c i = drainSelector c i ++ drainBody t c i := by
  unfold drainRow drainBody
  dsimp only
  split <;> rfl

theorem drainRow_body (t : Tile) (c : Word64) (i : Nat) : (if MxCtl.psel c = 0 then drainRow t c i else (drainRow t c i).tail) = drainBody t c i := by
  rw [drainRow_eq, drainSelector]
  by_cases h : MxCtl.psel c = 0
  · rw [if_pos h, if_pos (beq_iff_eq.mpr h), List.nil_append]
  · rw [if_neg h, if_neg (by simpa using h)]
    rfl

theorem drainRow_head (t : Tile) {c : Word64} (h : MxCtl.psel c ≠ 0) (i : Nat) : (drainRow t c i).head? =
    some { tt := .control, tag := MxCtl.rowtag c + BitVec.ofNat 16 i, seq := (MxCtl.cbi c).setWidth 8, pay := (MxCtl.psel c).setWidth 512 } := by
  rw [drainRow_eq, drainSelector, if_neg (by simpa using h)]
  rfl

theorem drain_seq (c : Word64) (h : Nat) : 2 * (MxCtl.cbi c).setWidth 8 + BitVec.ofNat 8 h = BitVec.ofNat 8 (2 * (MxCtl.cbi c).toNat + h) := by
  apply BitVec.eq_of_toNat_eq
  simp

theorem drainBody_f32 (t : Tile) (c : Word64) (i : Nat) (f32 : Word.field (unit0 t) 51 4 = (2 : BitVec 4)) :
    (drainBody t c i).length = (MxCtl.n c + 15) / 16 ∧ ∀ h x, (drainBody t c i)[h]? = some x →
      x.tt = .data ∧ x.tag = MxCtl.rowtag c + BitVec.ofNat 16 i ∧ x.seq = BitVec.ofNat 8 (2 * (MxCtl.cbi c).toNat + h)
      ∧ ∀ l, l < 16 → Word.lane x.pay l = if 16 * h + l < MxCtl.n c then t.mx.acc.getD ((MxCtl.asel c * 32 + i) * 32 + 16 * h + l) 0 else 0 := by
  rw [drainBody, if_pos (beq_iff_eq.mpr f32)]
  refine ⟨by rw [List.length_map, List.length_range]; rfl, fun h x at_h => ?_⟩
  obtain ⟨j, range, rfl⟩ := List.getElem?_map ▸ at_h |> Option.map_eq_some_iff.mp
  obtain rfl : h = j := by simpa using (List.getElem?_eq_some_iff.mp range).2
  refine ⟨rfl, rfl, drain_seq c h, fun l hl => ?_⟩
  rw [drainF32, lane_ofLanes _ _ hl, accKey, Nat.add_assoc]

theorem drainBody_bf16 (t : Tile) (c : Word64) (i : Nat) (bf16 : Word.field (unit0 t) 51 4 ≠ (2 : BitVec 4)) :
    (drainBody t c i).length = 1 ∧ ∀ x, (drainBody t c i)[0]? = some x →
      x.tt = .data ∧ x.tag = MxCtl.rowtag c + BitVec.ofNat 16 i ∧ x.seq = BitVec.ofNat 8 (2 * (MxCtl.cbi c).toNat + 0)
      ∧ ∀ j, j < 32 → elemAt 16 x.pay j = if j < MxCtl.n c then
          (Fp.narrow ((RMode.ofCode ((unit0 t).extractLsb' 48 3)).getD .rn) (t.mx.acc.getD ((MxCtl.asel c * 32 + i) * 32 + j) 0).toNat).bits % 2 ^ 16 else 0 := by
  rw [drainBody, if_neg (fun h => bf16 (beq_iff_eq.mp h))]
  refine ⟨rfl, fun x only => ?_⟩
  obtain rfl : drainBf16 t c i = x := by simpa using only
  refine ⟨rfl, rfl, by rw [← drain_seq]; simp [drainBf16], fun j hj => ?_⟩
  rw [drainBf16, elemAt_ofElems (by omega) _ (by omega)]
  split <;> rfl

/-! ### The marker at `mx.c` (R99) -/

section
variable {s : State} {k : TileKey} {p : Parcel} (unit : UnitAt s k .mx) (going : (s.tile k).mx.stopped = false) (noResume : mxResume s k (s.tile k) = none)
  (idle : (s.tile k).mx.run = none) (noSpill : (s.tile k).mx.spill = []) (port : (s.tile k).ports.get? 2 = some p) (marker : p.tok.tt.isMarker = true)
include unit going noResume idle noSpill port marker

/-- An idle unit takes a marker, which goes where the last drain went. -/
theorem execMxMarker_takes : ∃ s1, (s1.tile k).ports.get? 2 = none ∧ (s1.tile k).mx.acc = (s.tile k).mx.acc ∧ (s1.tile k).mx.w = (s.tile k).mx.w
    ∧ (s1.tile k).routes = (s.tile k).routes
    ∧ (∀ r, (s.tile k).mx.lastRoute = some r → routeFree (s.tile k) r.toNat = true → execMxMarker s = .next (deliver s1 k (.route r) { tok := p.tok }))
    ∧ ((s.tile k).mx.lastRoute = none → execMxMarker s = .next s1) := by
  let drained := portDrain (portTake s k 2) k 2 p.tok
  have drained_tile : drained.tile k = { s.tile k with
      ports := (s.tile k).ports.del 2
      drained := if p.tok.tt == .drain then 2 :: (s.tile k).drained else (s.tile k).drained } := by
    simp only [drained, portDrain_tile, portTake_tile]
  have gone : ((s.tile k).ports.del 2).get? 2 = none := Map.get?_del_self _ _
  let s1 := if p.tok.tt == .tempo then setMx drained k { (drained.tile k).mx with rounds := (drained.tile k).mx.rounds + 1 } else drained
  have s1_tile : (s1.tile k).ports = (s.tile k).ports.del 2 ∧ (s1.tile k).mx.acc = (s.tile k).mx.acc ∧ (s1.tile k).mx.w = (s.tile k).mx.w
      ∧ (s1.tile k).routes = (s.tile k).routes := by
    by_cases tempo : p.tok.tt == .tempo
    · simp only [s1, tempo, if_true, setMx_tile, drained_tile, and_self]
    · simp only [s1, tempo, Bool.false_eq_true, if_false, drained_tile, and_self]
  obtain ⟨ports, acc, w, routes⟩ := s1_tile
  refine ⟨s1, ports ▸ gone, acc, w, routes, fun r last free => ?_, fun last => ?_⟩
  · simp [execMxMarker, atTile_of unit, going, noResume, port, idle, noSpill, marker, last, free, s1, drained]
  · simp [execMxMarker, atTile_of unit, going, noResume, port, idle, noSpill, marker, last, s1, drained]

end

end Sys2Proof.Machine
end

section
/-! PROOF. Sums of products (02 R55): a block of up to 16 is one exact sum, with its NaNs, infinities and signed zero. -/

namespace Sys2Proof.Machine

open Fp

/-- The product of a pair of F32 patterns. -/
def prodOf (p : Lane × Lane) : Option Val := mulV (f32.read p.1.toNat) (f32.read p.2.toNat)

/-! ### Blocks -/

theorem accumulate_block (a0 : Lane) {ps : List (Lane × Lane)} (nonempty : ps ≠ []) (block : ps.length ≤ 16) :
    accumulate a0 ps = BitVec.ofNat 32 (addV f32 .rn (f32.read a0.toNat) (dotBlock ps)).bits := by
  have chunks : chunks16 2 ps = [ps] := by
    simp [chunks16, nonempty, List.take_of_length_le block, List.drop_of_length_le block]
  rw [accumulate, chunks]
  rfl

theorem accumulate_split (a0 : Lane) {ps : List (Lane × Lane)} (long : 16 < ps.length) (short : ps.length ≤ 32) :
    accumulate a0 ps = accumulate (accumulate a0 (ps.take 16)) (ps.drop 16) := by
  have first : ps.take 16 ≠ [] := List.ne_nil_of_length_pos (by rw [List.length_take]; omega)
  have second : ps.drop 16 ≠ [] := List.ne_nil_of_length_pos (by rw [List.length_drop]; omega)
  have rest : (ps.drop 16).length ≤ 16 := by rw [List.length_drop]; omega
  have chunks : chunks16 2 ps = [ps.take 16, ps.drop 16] := by
    have whole : ps ≠ [] := fun h => by simp [h] at long
    simp [chunks16, whole, second, List.take_of_length_le rest]
  rw [accumulate_block _ second rest, accumulate_block _ first (List.length_take_le _ _), accumulate, chunks]
  rfl

/-! ### NaNs and infinities -/

theorem dotBlock_cons (p : Lane × Lane) (ps : List (Lane × Lane)) :
    dotBlock (p :: ps) = match prodOf p with
      | none => .nan
      | some v => dotAdd v (dotBlock ps) := rfl

theorem dotAdd_nan_right (v : Val) : dotAdd v .nan = .nan := by cases v <;> rfl

theorem dotBlock_nan {ps : List (Lane × Lane)} (h : ∃ p ∈ ps, prodOf p = none ∨ prodOf p = some .nan) : dotBlock ps = .nan := by
  induction ps with
  | nil => obtain ⟨p, mem, -⟩ := h; cases mem
  | cons p ps ih =>
    rw [dotBlock_cons]
    obtain ⟨p', mem, bad⟩ := h
    rcases List.mem_cons.mp mem with rfl | mem
    · rcases bad with bad | bad <;> rw [bad]
      rfl
    · rw [ih ⟨p', mem, bad⟩]
      cases prodOf p with
      | none => rfl
      | some v => exact dotAdd_nan_right v

theorem dotAdd_inf_left (b : Bool) (v : Val) : dotAdd (.inf b) v = .inf b ∨ dotAdd (.inf b) v = .nan := by
  cases v with
  | nan => exact .inr rfl
  | inf c => cases b <;> cases c <;> simp [dotAdd]
  | fin n m e => exact .inl rfl

theorem dotAdd_inf_right (v : Val) (b : Bool) : dotAdd v (.inf b) = .inf b ∨ dotAdd v (.inf b) = .nan := by
  cases v with
  | nan => exact .inr rfl
  | inf c => cases b <;> cases c <;> simp [dotAdd]
  | fin n m e => exact .inl rfl

/-- A sum with an infinite product is that infinity, or no number. -/
theorem dotBlock_inf_or_nan {b : Bool} {ps : List (Lane × Lane)} (h : ∃ p ∈ ps, prodOf p = some (.inf b)) : dotBlock ps = .inf b ∨ dotBlock ps = .nan := by
  induction ps with
  | nil => obtain ⟨p, mem, -⟩ := h; cases mem
  | cons p ps ih =>
    rw [dotBlock_cons]
    obtain ⟨p', mem, inf⟩ := h
    rcases List.mem_cons.mp mem with rfl | mem
    · rw [inf]
      exact dotAdd_inf_left b _
    cases prodOf p with
    | none => exact .inr rfl
    | some v =>
      rcases ih ⟨p', mem, inf⟩ with rest | rest <;> rw [rest]
      · exact dotAdd_inf_right v b
      · exact .inr (dotAdd_nan_right v)

theorem dotBlock_of_both_infs {ps : List (Lane × Lane)} (pos : ∃ p ∈ ps, prodOf p = some (.inf false)) (neg : ∃ p ∈ ps, prodOf p = some (.inf true)) :
    dotBlock ps = .nan := by
  rcases dotBlock_inf_or_nan pos with h | h
  · rcases dotBlock_inf_or_nan neg with g | g
    · rw [h] at g; cases g
    · exact g
  · exact h

theorem dotBlock_ne_nan {b : Bool} {ps : List (Lane × Lane)} (h : ∀ p ∈ ps, prodOf p = some (.inf b) ∨ ∃ n m e, prodOf p = some (.fin n m e)) :
    dotBlock ps = .inf b ∨ ∃ n m e, dotBlock ps = .fin n m e := by
  induction ps with
  | nil => exact .inr ⟨_, _, _, rfl⟩
  | cons p ps ih =>
    rw [dotBlock_cons]
    rcases h p List.mem_cons_self with head | ⟨n, m, e, head⟩ <;> rw [head]
    · rcases ih fun q hq => h q (List.mem_cons_of_mem p hq) with rest | ⟨n, m, e, rest⟩ <;> rw [rest]
      · exact .inl (by simp [dotAdd])
      · exact .inl rfl
    · rcases ih fun q hq => h q (List.mem_cons_of_mem p hq) with rest | ⟨n', m', e', rest⟩ <;> rw [rest]
      · exact .inl rfl
      · exact .inr ⟨_, _, _, rfl⟩

/-! ### Finite products -/

/-- Only finite operands have a finite product. -/
theorem mulV_eq_fin {x y : Val} {n : Bool} {m : Nat} {e : Int} (h : mulV x y = some (.fin n m e)) :
    ∃ a m1 e1 b m2 e2, x = .fin a m1 e1 ∧ y = .fin b m2 e2 ∧ e = e1 + e2 := by
  unfold mulV at h
  split at h
  case h_6 =>
    cases h
    exact ⟨_, _, _, _, _, _, rfl, rfl, rfl⟩
  case h_1 | h_2 | h_3 => cases h
  case h_4 | h_5 => split at h <;> cases h

theorem prodOf_fin_exponent {p : Lane × Lane} {n : Bool} {m : Nat} {e : Int} (h : prodOf p = some (.fin n m e)) : 0 ≤ e + 298 := by
  have low : f32.emin = -149 := rfl
  obtain ⟨_, _, e1, _, _, e2, hx, hy, rfl⟩ := mulV_eq_fin h
  have := emin_le_of_read hx
  have := emin_le_of_read hy
  omega

/-- An exact sum is a negative zero only if both operands are. -/
theorem addFin_negZero (a b : Bool) (m n : Nat) (e g : Int) :
    (addFin .rn a m e b n g).1 = true ∧ (addFin .rn a m e b n g).2.1 = 0 ↔ (a = true ∧ m = 0) ∧ (b = true ∧ n = 0) := by
  have p1 : (0 : Int) < 2 ^ (e - min e g).toNat := by positivity
  have p2 : (0 : Int) < 2 ^ (g - min e g).toNat := by positivity
  have formed : addFin .rn a m e b n g =
      let sum := negIf a (m * 2 ^ (e - min e g).toNat) + negIf b (n * 2 ^ (g - min e g).toNat)
      if sum == 0 then (if a == b then a else false, 0, min e g) else (sum < 0, sum.natAbs, min e g) := rfl
  have nonneg (x : Nat) (y : Int) (hy : 0 < y) : 0 ≤ x * y ∧ (x * y = 0 ↔ x = 0) := by
    refine ⟨by positivity, ?_⟩
    rw [mul_eq_zero, or_iff_left hy.ne', Int.natCast_eq_zero]
  obtain ⟨x0, xz⟩ := nonneg m _ p1
  obtain ⟨y0, yz⟩ := nonneg n _ p2
  rw [formed, ← xz, ← yz]
  generalize (m : Int) * 2 ^ (e - min e g).toNat = x at *
  generalize (n : Int) * 2 ^ (g - min e g).toNat = y at *
  dsimp only
  by_cases zero : negIf a x + negIf b y = 0
  · rw [if_pos (beq_iff_eq.mpr zero)]
    cases a <;> cases b <;> (simp only [negIf, Bool.false_eq_true, if_false, if_true] at zero ⊢; simp <;> omega)
  · rw [if_neg (by simpa using zero)]
    cases a <;> cases b <;> simp [negIf] at zero ⊢ <;> omega

/-- The exact sum of a block of finite products, and the sign of its zero. -/
theorem dotBlock_fin {ps : List (Lane × Lane)} (h : ∀ p ∈ ps, ∃ n m e, prodOf p = some (.fin n m e)) :
    ∃ n m e, dotBlock ps = .fin n m e ∧ 0 ≤ e + 298
      ∧ units 298 n m e = (ps.map fun p => match prodOf p with
          | some (.fin n m e) => units 298 n m e
          | _ => 0).sum
      ∧ (n = true ∧ m = 0 ↔ ∀ p ∈ ps, ∃ e, prodOf p = some (.fin true 0 e)) := by
  induction ps with
  | nil => exact ⟨true, 0, 0, rfl, by decide, by rw [units, Nat.cast_zero, zero_mul]; rfl, by simp⟩
  | cons p ps ih =>
    obtain ⟨n1, m1, e1, head⟩ := h p List.mem_cons_self
    obtain ⟨n2, m2, e2, rest, low, sum, sign⟩ := ih fun q hq => h q (List.mem_cons_of_mem p hq)
    obtain ⟨low', exact⟩ := addFin_exact .rn 298 n1 n2 m1 m2 (prodOf_fin_exponent head) low
    refine ⟨_, _, _, by rw [dotBlock_cons, head, rest]; rfl, low', ?_, ?_⟩
    · rw [exact, sum, List.map_cons, List.sum_cons, head]
    · rw [addFin_negZero, sign, List.forall_mem_cons, head]
      refine and_congr_left fun _ => ?_
      constructor
      · rintro ⟨rfl, rfl⟩
        exact ⟨_, rfl⟩
      · rintro ⟨e, eq⟩
        cases eq
        exact ⟨rfl, rfl⟩

theorem units_eq_signed (neg : Bool) (m : Nat) (e : Int) : units 298 neg m e = (if neg then -1 else 1) * (m : Int) * 2 ^ (e + 298).toNat := by
  cases neg <;> simp [units, negIf]

theorem accumulate_nan (a0 : Lane) {ps : List (Lane × Lane)} (nonempty : ps ≠ []) (block : ps.length ≤ 16) (nan : dotBlock ps = .nan) :
    accumulate a0 ps = 0x7FC00000 := by
  rw [accumulate_block a0 nonempty block, nan]
  cases f32.read a0.toNat <;> rfl

end Sys2Proof.Machine
end

section
/-! PROOF. O30, from the lines of a word, the tokens of a drain and the sums of products. -/

namespace Sys2Proof.Machine

theorem mxLines_eq (t : Tile) (c : Word64) : mxLines t c = if MxCtl.mop c = 2 ∨ mxSmode t = false then MxCtl.m c else MxCtl.n c := by
  simp [mxLines]

section
variable {s : State} {k : TileKey} {r : MxRun} {x : LineRead} (ctl : ∀ y, (s.tile k).ports.get? (mxPort (s.tile k) r.ctl) = some y → y.tok.tt = .data ∨ y.tok.tt = .control)
  (read : readLine (s.tile k) (MxCtl.k r.ctl) r.blocks ((s.tile k).ports.get? (mxPort (s.tile k) r.ctl)) = some x)
include ctl read

/-- What a line changes: the token it takes, the unit, and what the unit does next. -/
theorem mxLine_effects : ∃ s', mxLine s k r = .next s'
    ∧ (x.take = true → (s'.tile k).ports.get? (mxPort (s.tile k) r.ctl) = none)
    ∧ ((s'.tile k).mx.w = (lineUnit (s.tile k) r x).w ∧ (s'.tile k).mx.acc = (lineUnit (s.tile k) r x).acc ∧ (s'.tile k).mx.rprog = (lineUnit (s.tile k) r x).rprog)
    ∧ (r.line + 1 < mxLines (s.tile k) r.ctl → (s'.tile k).mx.run = some { r with line := r.line + 1, blocks := x.blocks, hb := linePast s k r x })
    ∧ (mxLines (s.tile k) r.ctl ≤ r.line + 1 → MxCtl.mop r.ctl ≠ 1 → (s'.tile k).mx.run = none)
    ∧ (mxLines (s.tile k) r.ctl ≤ r.line + 1 → MxCtl.mop r.ctl = 1 →
        (s'.tile k).mx.run = some { ctl := r.ctl, hb := linePast s k r x, out := emitsAfter (linePast s k r x) (drainEmits (s'.tile k) r.ctl), drains := true }
        ∧ (s'.tile k).mx.lastRoute = some (MxCtl.drt r.ctl)) := by
  obtain ⟨s1, mx, units, ports, eq⟩ := mxLine_eq ctl read
  have taken (took : x.take = true) : (s1.tile k).ports.get? (mxPort (s.tile k) r.ctl) = none := by
    rw [ports, if_pos took]
    exact Map.get?_del_self _ _
  rw [eq]
  by_cases more : r.line + 1 < mxLines (s.tile k) r.ctl
  · rw [if_pos more]
    exact ⟨_, rfl, fun took => by rw [setMx_tile]; exact taken took, by simp only [setMx_tile, and_self], fun _ => by rw [setMx_tile],
      fun last => absurd more (by omega), fun last => absurd more (by omega)⟩
  rw [if_neg more]
  by_cases drains : MxCtl.mop r.ctl = 1
  · rw [if_pos drains]
    refine ⟨_, rfl, fun took => ?_, ?_, fun h => absurd h more, fun _ ne => absurd drains ne, fun _ _ => ?_⟩
    · rw [mxBeginDrain_ports, setMx_tile]
      exact taken took
    · simp only [mxBeginDrain_mx, setMx_tile, and_self]
    · rw [mxBeginDrain_emits, mxBeginDrain_mx]
      exact ⟨rfl, rfl⟩
  · rw [if_neg drains]
    exact ⟨_, rfl, fun took => by rw [setMx_tile]; exact taken took, by simp only [setMx_tile, and_self], fun h => absurd h more, fun _ _ => by rw [setMx_tile],
      fun _ is => absurd is drains⟩

end

theorem lineUnit_of_mma {t : Tile} {r : MxRun} {x : LineRead} (mma : MxCtl.mop r.ctl < 2) : lineUnit t r x =
    { t.mx with acc := mmaLine t.mx (mxSmode t) r.ctl r.line x.xs, rprog := MxCtl.rowtag r.ctl + BitVec.ofNat 16 r.line } :=
  if_neg fun h => by rw [beq_iff_eq.mp h] at mma; omega

theorem lineUnit_of_loadw {t : Tile} {r : MxRun} {x : LineRead} (loadw : MxCtl.mop r.ctl = 2) : lineUnit t r x =
    { t.mx with w := loadLine t.mx r.ctl r.line x.xs } := if_pos (beq_iff_eq.mpr loadw)

theorem mem_mxOps_of_line {m : Nat} {i : Instr} (h : (m = 0 ∧ i = Instr.mxMma) ∨ (m = 1 ∧ i = .mxMmaAcc) ∨ (m = 2 ∧ i = .mxLoadw)) : (m, i) ∈ mxOps := by
  rcases h with ⟨rfl, rfl⟩ | ⟨rfl, rfl⟩ | ⟨rfl, rfl⟩ <;> simp [mxOps]

/-- Settles O30: a line by `mxLine_effects`, a drain row by row, a sum of products by `dotBlock`. -/
theorem matrixLinesAndDrains : Obligations.MatrixLinesAndDrains := by
  unfold Obligations.MatrixLinesAndDrains
  refine ⟨fun s k r x => ?_, fun t c i => ?_, fun a0 ps nonempty short => ?_⟩
  · intro t u c m p lines past after quiet resume focus there kind runs going running reads ctl read line i op
    have unit : UnitAt s k .mx := ⟨focus, there, kind, runs⟩
    have noResume : mxResume s k (s.tile k) = none := mxResume_none (fun y => resume 0 y (by omega)) (fun y => resume 1 y (by omega))
    have step := exec_mxOp (mem_mxOps_of_line op) s
    refine ⟨fun y port fault => ?_, fun isQuiet => ?_⟩
    · rw [step, mxStep_arrival unit going noResume running (mxArrival_fault port fault reads)]
    obtain ⟨s', run, take, ⟨w, acc, rprog⟩, more, last, drains⟩ := mxLine_effects ctl read
    rw [mxLines_eq] at more last drains
    refine ⟨s', ?_, take, more, last, drains, fun mma => ?_, fun loadw => ?_⟩
    · rw [step, mxStep_line unit going noResume running (mxArrival_quiet isQuiet) rfl reads, run]
    · rw [w, acc, rprog, lineUnit_of_mma mma]
      exact ⟨rfl, rfl, fun a ii jj _ hi hj => getD_mmaLine _ _ _ _ line a hi hj⟩
    · rw [w, acc, rprog, lineUnit_of_loadw loadw]
      exact ⟨rfl, rfl, fun b q e hq he => getD_loadLine _ _ _ line b hq he⟩
  · intro u tag seq data body
    have isBody : body = drainBody t c i := drainRow_body t c i
    rw [isBody]
    refine ⟨rfl, fun h => drainRow_head t h i, drainBody_f32 t c i, drainBody_bf16 t c i, ?_⟩
    intro s k p focus there at_k kind runs going idle noSpill port marker resume
    subst at_k
    have noResume : mxResume s k (s.tile k) = none := mxResume_none (fun y => resume 0 y (by omega)) (fun y => resume 1 y (by omega))
    obtain ⟨s1, gone, acc, w, routes, forwards, discards⟩ := execMxMarker_takes ⟨focus, there, kind, runs⟩ going noResume idle noSpill port marker
    exact ⟨fun r last free => ⟨s1, forwards r last free, gone, acc, w⟩, fun last => ⟨s1, discards last, gone, routes⟩⟩
  · intro prod val adds
    refine ⟨fun long => accumulate_split a0 long short, fun block => ?_⟩
    have sum := accumulate_block a0 nonempty block
    refine ⟨fun nan => ?_, fun pos neg => ?_, fun neg inf only => ?_, fun fin => ?_⟩
    · exact accumulate_nan a0 nonempty block (dotBlock_nan nan)
    · exact accumulate_nan a0 nonempty block (dotBlock_of_both_infs pos neg)
    · show accumulate a0 ps = _
      rcases dotBlock_inf_or_nan inf with h | h
      · rw [sum, h]
      · rcases dotBlock_ne_nan only with g | ⟨_, _, _, g⟩ <;> rw [h] at g <;> cases g
    · obtain ⟨n, m, e, isSum, low, exact, sign⟩ := dotBlock_fin fin
      refine ⟨n, m, e, by show accumulate a0 ps = _; rw [sum, isSum], low, ?_, fun zero => ?_⟩
      · show (if n then -1 else 1) * (m : Int) * 2 ^ (e + 298).toNat = _
        rw [← units_eq_signed, exact]
        refine congrArg List.sum (List.map_congr_left fun p mem => ?_)
        obtain ⟨n, m, e, isFin⟩ := fin p mem
        simp only [prod] at isFin ⊢
        rw [prodOf, isFin]
        exact units_eq_signed n m e
      · exact (and_iff_left zero).symm.trans sign

end Sys2Proof.Machine
end

section
/-! PROOF. The projection engine's nodes, and the markers at its ports (04 R114, R116). -/

namespace Sys2Proof.Machine

/-! ### What a firing leaves in its slot's pipe (R58, R61) -/

theorem Slot.put_out (sl : Slot) (p : Pos) (t : Option Tok) : (sl.put p t).out = sl.out := by cases p <;> rfl

theorem Slot.arrive_out (sl : Slot) (p : Pos) (t : Tok) : (sl.arrive p t).out = sl.out := by
  unfold Slot.arrive
  split
  · rfl
  · exact Slot.put_out _ _ _

theorem consume_out (f : NodeForm) (sl : Slot) : (consume f sl).out = sl.out := by
  unfold consume
  generalize firmPos f = ps
  induction ps generalizing sl with
  | nil => rfl
  | cons p ps ih => rw [List.foldl_cons, ih, Slot.put_out]

section
variable (s : State) (k : TileKey) (n : Nat)

theorem setTile_slot_of_slots {t : Tile} (h : t.slots = (s.tile k).slots) : (s.setTile k t).slot k n = s.slot k n := by
  rw [State.setTile_slot_self, h]
  rfl

theorem land_slot_out (d : Tgt) (x : Parcel) : ((land s k d x).slot k n).out = (s.slot k n).out := by
  cases d with
  | none => rfl
  | latch p m =>
    by_cases h : n = m.toNat
    · subst h
      simp only [land, State.setSlot_slot_self, Slot.arrive_out]
    · simp only [land, State.setSlot_slot_ne _ _ _ _ _ h]
  | route r =>
    rw [land, setTile_slot_of_slots]
    unfold routePut
    dsimp only
    split <;> rfl
  | port p =>
    unfold land
    dsimp only
    split
    · rw [State.setSeq_slot, setTile_slot_of_slots]
      rfl
    · rw [setTile_slot_of_slots]
      rfl

theorem deliver_slot_out (d : Tgt) (x : Parcel) : ((deliver s k d x).slot k n).out = (s.slot k n).out := by
  rw [deliver, land_slot_out, openAcc_slot]

theorem deliverTok_slot_out (d : Tgt) (x : Option Tok) : ((deliverTok s k d x).slot k n).out = (s.slot k n).out := by
  cases x with
  | none => rfl
  | some t => exact deliver_slot_out s k n d _

theorem deliverPair_slot_out (da db : Tgt) (a b : Option Tok) : ((deliverPair s k da db a b).slot k n).out = (s.slot k n).out := by
  unfold deliverPair
  split <;> rw [deliverTok_slot_out, deliverTok_slot_out]

theorem fireTo_slot_out {s : State} (focus : s.focus = .slot k n) (f : NodeForm) (a b : Option Tok) : ((fireTo s k n f a b).slot k n).out = (s.slot k n).out := by
  have outside : ¬Piped s := fun ⟨j, m, h⟩ => by rw [focus] at h; cases h
  rw [fireTo_of_not_piped _ _ _ _ _ _ outside, deliverPair_slot_out, fireOpen_slot, consumeAt_slot, consume_out]

end

/-! ### Nodes (R114) -/

section
variable {s : State} {k : TileKey} {n : Nat} {o : Opnds}

/-- A node that feeds a port of the engine sends one parcel, to TGA alone. -/
theorem firePort_sends {f : NodeForm} (slot : SlotAt s k n) (gate : gateOf f (s.slot k n) = .go o) (free : freeAfter s k n f f.op.tga = true)
    (fwd : Parcel → Parcel) (go : Opnds → Parcel) :
    firePort f s fwd go = .next (deliver (consumeAt s k n f) k f.op.tga { go o with tok := (go o).tok.after (slotPast s k n f) }) := by
  simp [firePort, atSlot_of slot, gate, free, sendOne, slot.1]

/-- The payload that `pjp` sends. -/
def pjpPayload (o : Opnds) : Payload := Word.ofLanes fun i => if i == 0 then Word.lane o.r.pay 0 else if i == 1 then Word.lane o.l.pay 0 else 0

theorem pjpPayload_lanes (o : Opnds) :
    Word.lane (pjpPayload o) 0 = Word.lane o.r.pay 0 ∧ Word.lane (pjpPayload o) 1 = Word.lane o.l.pay 0 ∧ ∀ j, 2 ≤ j → j < 16 → Word.lane (pjpPayload o) j = 0 := by
  refine ⟨lane_ofLanes _ _ (by omega), lane_ofLanes _ _ (by omega), fun j two hj => ?_⟩
  rw [pjpPayload, lane_ofLanes _ _ hj, if_neg (by simp; omega), if_neg (by simp; omega)]

/-- Whether a support record is that of a row's tag. -/
def recordHit (r : Support) (tag : Tag) : Bool := r.valid && r.tag == tag

theorem recordHit_iff (r : Support) (tag : Tag) : recordHit r tag = true ↔ r.valid = true ∧ r.tag = tag := by simp [recordHit]

/-- Part `i` of the mask that `pjs` sends. -/
def pjsPart (r : Support) (tag : Tag) (aux : Bool) (i : Nat) : Payload :=
  Word.field (if !recordHit r tag then 0 else if aux then r.aux else r.mask : BitVec 4096) (512 * i) 512

/-- The scalars of a support record, lane by lane. -/
def supportLane (r : Support) : Nat → Lane
  | 0 => r.scalar
  | 1 => r.size.setWidth 32
  | 2 => r.len.setWidth 32
  | 3 => r.psel.setWidth 32
  | 4 => r.tag.setWidth 32
  | 5 => (1 : Lane) + (if r.inside then 2 else 0)
  | _ => 0

/-- The scalars that `pjs` sends. -/
def pjsInfo (r : Support) (tag : Tag) : Payload := if !recordHit r tag then 0 else Word.ofLanes (supportLane r)

theorem pjsPart_getLsbD (r : Support) (tag : Tag) (aux : Bool) {i b : Nat} (hb : b < 512) : (pjsPart r tag aux i).getLsbD b =
    decide ((r.valid = true ∧ r.tag = tag) ∧ (if aux then r.aux else r.mask).getLsbD (512 * i + b) = true) := by
  rw [pjsPart, Word.field, BitVec.getLsbD_extractLsb']
  by_cases hit : r.valid = true ∧ r.tag = tag
  · simp [hb, hit, (recordHit_iff r tag).mpr hit]
  · have miss : recordHit r tag = false := by rwa [← Bool.not_eq_true, recordHit_iff]
    simp only [miss, hit, false_and, decide_false, Bool.not_false, if_true]
    simp

theorem pjsInfo_of_miss {r : Support} {tag : Tag} (miss : ¬(r.valid = true ∧ r.tag = tag)) : pjsInfo r tag = 0 := by
  rw [← recordHit_iff, Bool.not_eq_true] at miss
  rw [pjsInfo, miss]
  rfl

theorem pjsInfo_of_hit {r : Support} {tag : Tag} (hit : r.valid = true ∧ r.tag = tag) :
    Word.lane (pjsInfo r tag) 0 = r.scalar ∧ (Word.lane (pjsInfo r tag) 1).toNat = r.size.toNat ∧ (Word.lane (pjsInfo r tag) 2).toNat = r.len.toNat
    ∧ (Word.lane (pjsInfo r tag) 3).toNat = r.psel.toNat ∧ (Word.lane (pjsInfo r tag) 4).toNat = r.tag.toNat
    ∧ Word.lane (pjsInfo r tag) 5 = (if r.inside then 3 else 1) ∧ ∀ j, 6 ≤ j → j < 16 → Word.lane (pjsInfo r tag) j = 0 := by
  have lanes (i : Nat) (hi : i < 16) : Word.lane (pjsInfo r tag) i = supportLane r i := by
    rw [pjsInfo, (recordHit_iff r tag).mpr hit]
    exact lane_ofLanes _ _ hi
  have widen {w : Nat} (x : BitVec w) (hw : w ≤ 32) : (x.setWidth 32).toNat = x.toNat := BitVec.toNat_setWidth_of_le hw
  refine ⟨lanes 0 (by omega), ?_, ?_, ?_, ?_, ?_, fun j six hj => ?_⟩
  · rw [lanes 1 (by omega)]; exact widen _ (by omega)
  · rw [lanes 2 (by omega)]; exact widen _ (by omega)
  · rw [lanes 3 (by omega)]; exact widen _ (by omega)
  · rw [lanes 4 (by omega)]; exact widen _ (by omega)
  · rw [lanes 5 (by omega)]
    cases h : r.inside <;> simp [supportLane, h]
  · obtain ⟨i, rfl⟩ := Nat.exists_eq_add_of_le' six
    exact lanes _ hj

/-- The node `pjs` sends the first part of the mask with the record's scalars, and the other parts follow it. -/
theorem execPjs_sends {w : NodeOp} {aux : Bool} (ready : NodeAt s k n (formOf (.pjs w aux)) o) :
    let r := (s.tile k).pj.sup.getD (o.l.tag.toNat % 8) {}
    let h := slotPast s k n (formOf (.pjs w aux))
    let u := fireTo s k n (formOf (.pjs w aux)) (some { resultTok o (pjsPart r o.l.tag aux 0) with seq := 0, hb := h }) (some (resultTok o (pjsInfo r o.l.tag)))
    execPjs w aux s = .next (u.setSlot k n { u.slot k n with
      out := (List.range 7).map fun i => Emit.mk w.tga { tok := { resultTok o (pjsPart r o.l.tag aux (i + 1)) with seq := BitVec.ofNat 8 (i + 1), hb := h } } }) := by
  intro r h u
  have empty : (u.slot k n).out = [] := (fireTo_slot_out k n ready.1.1 _ _ _).trans ready.1.2.2.2.2
  have run : execPjs w aux s = .next (u.setSlot k n { u.slot k n with
      out := (u.slot k n).out ++ (List.range 7).map fun i => Emit.mk w.tga { tok := { resultTok o (pjsPart r o.l.tag aux (i + 1)) with seq := BitVec.ofNat 8 (i + 1), hb := h } } }) := by
    rw [execPjs, fireSlot_of ready, ready.2.2]
    rfl
  rw [run, empty]
  rfl

end

end Sys2Proof.Machine
end

section
/-! PROOF. Markers and fault tokens at the ports of the projection engine (04 R116); and O31. -/

namespace Sys2Proof.Machine

/-- A marker or fault token that arrives at a port of the engine waits for the places that are COMPLETE then. -/
theorem deliver_holds (u : State) (k : TileKey) {p : BitVec 8} (low : 0x10 ≤ p.toNat) (high : p.toNat ≤ 0x12) {y : Parcel}
    (held : y.tok.tt.isMarker = true ∨ y.tok.tt = .fault) :
    ((deliver u k (.port p) y).tile k).pj.held.get? p.toNat = some (u.tile k).pj.ready.length := by
  have sameType : (openAcc u k (.port p) y.tok).2.tt = y.tok.tt := (openAcc_like u k (.port p) y.tok).1
  have hold (w : PjUnit) {x : Tok} (hx : x.tt.isMarker = true ∨ x.tt = .fault) : (pjHold w p.toNat x).held.get? p.toNat = some w.ready.length := by
    rw [pjHold, if_pos (by simpa [low, high] using hx)]
    exact Map.get?_put_self _ _ _
  have notSeq : ¬(0x40 ≤ p && p ≤ 0x47) = true := by simp [BitVec.le_def]; omega
  rw [deliver, land]
  dsimp only
  rw [if_neg notSeq, State.setTile_tile_self, openAcc_tile]
  exact hold _ (by rwa [sameType])

section
variable {s : State} {k : TileKey} {port : Nat} {x : Parcel}

theorem pjMark_none (empty : (s.tile k).ports.get? port = none) : pjMark s k port = none := by
  simp [pjMark, empty]

variable (here : (s.tile k).ports.get? port = some x)
include here

theorem pjMark_waits {j : Nat} (before : (s.tile k).pj.held.get? port = some (j + 1)) : pjMark s k port = none := by
  simp [pjMark, here, Map.getD, before]

/-- Once no place is before it, the token goes on to its targets. -/
theorem pjMark_passes (held : x.tok.tt.isMarker = true ∨ x.tok.tt = .fault) (turn : (s.tile k).pj.held.get? port = some 0) (freeA : targetFree (s.tile k) (pjMarkerTgts (s.tile k) port x).1 = true)
    (freeB : targetFree (s.tile k) (pjMarkerTgts (s.tile k) port x).2 = true) :
    ∃ s1, pjMark s k port = some (deliver2 s1 k (pjMarkerTgts (s.tile k) port x).1 (pjMarkerTgts (s.tile k) port x).2 x.tok)
      ∧ (s1.tile k).ports.get? port = none ∧ (s1.tile k).pj.held.get? port = none ∧ (s1.tile k).slots = (s.tile k).slots := by
  have isHeld : (x.tok.tt.isMarker || x.tok.tt == .fault) = true := by simpa using held
  refine ⟨setPj (portDrain (portTake s k port) k port x.tok) k
    { ((portDrain (portTake s k port) k port x.tok).tile k).pj with held := ((portDrain (portTake s k port) k port x.tok).tile k).pj.held.del port }, ?_, ?_, ?_, ?_⟩
  · simp [pjMark, here, isHeld, Map.getD, turn, freeA, freeB]
  · rw [setPj_tile, portDrain_tile, portTake_tile]
    exact Map.get?_del_self _ _
  · rw [setPj_tile]
    exact Map.get?_del_self _ _
  · rw [setPj_tile, portDrain_tile, portTake_tile]

end

section
variable {s : State} {k : TileKey} {port : Nat} (unit : UnitAt s k .vx) (going : (s.tile k).pj.stopped = false)
include unit going

/-- With one token at the engine's ports, the marker's step is that of its port. -/
theorem execPjMarker_eq {x : Parcel} (isPort : port ∈ [0x10, 0x11, 0x12]) (here : (s.tile k).ports.get? port = some x)
    (alone : ∀ y ∈ [0x10, 0x11, 0x12].filter (· != port), (s.tile k).ports.get? y = none) (noResume : x.tok.tt ≠ .resume) :
    execPjMarker s = .next ((pjMark s k port).getD s) := by
  have other {y : Nat} (isPort : y ∈ [0x10, 0x11, 0x12]) (ne : y ≠ port) : (s.tile k).ports.get? y = none :=
    alone y (List.mem_filter.mpr ⟨isPort, by simpa using ne⟩)
  simp only [List.mem_cons, List.not_mem_nil, or_false] at isPort
  rcases isPort with rfl | rfl | rfl
  · simp [execPjMarker, atTile_of unit, going, other (y := 0x11), pjMark_none (other (y := 0x12) (by decide) (by decide))]
  · simp [execPjMarker, atTile_of unit, going, here, noResume, pjMark_none (other (y := 0x10) (by decide) (by decide)), pjMark_none (other (y := 0x12) (by decide) (by decide))]
  · simp [execPjMarker, atTile_of unit, going, other (y := 0x11), pjMark_none (other (y := 0x10) (by decide) (by decide))]

omit going in
/-- While the turn of a held token has come, no row begins. -/
theorem pjNext_waits (turn : (s.tile k).pj.held.get? port = some 0) (row : Bool) (go : State → TileKey → Tile → PjPlace → Out) : pjNext s row go = .next s := by
  have any : (s.tile k).pj.held.any (fun h => h.2 == 0) = true := List.any_eq_true.mpr ⟨(port, 0), Map.mem_of_get? turn, rfl⟩
  simp [pjNext, atTile_of unit, any]

end

/-- Settles O31: the nodes by `firePort_sends` and the record that `pjs` reads; a held token by `pjMark`. -/
theorem projectionNodesAndMarkers : Obligations.ProjectionNodesAndMarkers := by
  unfold Obligations.ProjectionNodesAndMarkers
  refine ⟨fun s k n w o psel aux => ?_, fun s k port x => ?_⟩
  · intro sends
    refine ⟨fun slot gate free => firePort_sends slot gate free _ _, ⟨pjpPayload o, fun slot gate free => firePort_sends slot gate free _ _, pjpPayload_lanes o⟩,
      fun slot gate free => firePort_sends slot gate free (fun p => { p with via := w.tgb }) fun o => { tok := resultTok o o.l.pay, aux := some o.r.pay, via := w.tgb },
      fun ready => ?_⟩
    intro r hit
    exact ⟨pjsPart r o.l.tag aux, pjsInfo r o.l.tag, _, execPjs_sends ready, rfl, fun i b _ hb => pjsPart_getLsbD r _ aux hb, pjsInfo_of_miss, pjsInfo_of_hit⟩
  · intro t others d isPort focus there kind runs going here held alone
    have unit : UnitAt s k .vx := ⟨focus, there, kind, runs⟩
    have noResume : x.tok.tt ≠ .resume := by
      rintro resume
      rw [resume] at held
      simp [TT.isMarker] at held
    have marks := execPjMarker_eq unit going isPort here alone noResume
    have range : 0x10 ≤ port ∧ port ≤ 0x12 := by
      simp only [List.mem_cons, List.not_mem_nil, or_false] at isPort
      omega
    have name : (BitVec.ofNat 8 port).toNat = port := by rw [BitVec.toNat_ofNat]; omega
    have targets : d = pjMarkerTgts t port x := by
      simp only [d, pjMarkerTgts, beq_iff_eq]
    refine ⟨fun u y isHeld => ?_, fun j before => ?_, fun turn => ?_, fun turn freeA freeB => ?_⟩
    · have holds := deliver_holds u k (p := BitVec.ofNat 8 port) (by omega) (by omega) isHeld
      rwa [name] at holds
    · exact marks.trans (by rw [pjMark_waits here before]; rfl)
    · show execPjProject s = _ ∧ execPjAdjoint s = _
      exact ⟨pjNext_waits unit turn true _, pjNext_waits unit turn false _⟩
    · rw [targets] at freeA freeB ⊢
      obtain ⟨s1, passes, gone, released, slots⟩ := pjMark_passes here held turn freeA freeB
      exact ⟨s1, marks.trans (by rw [passes]; rfl), gone, released, slots⟩

end Sys2Proof.Machine
end

section
/-! PROOF. Tokens at `pj.in` and `pj.adj` (04 R102, R103, R112): the elements they bring, and the place that takes them. -/

namespace Sys2Proof.Machine

/-! ### The elements of a token (R103) -/

theorem pjLen_pos (t : Tile) : 0 < pjLen t := Nat.succ_pos _

theorem pjLen_le (t : Tile) : pjLen t ≤ 4096 := (Word.field (t.units.getD 1 0) 52 12).isLt

theorem pjPlaces_pos (t : Tile) : 0 < pjPlaces t := Nat.div_pos (pjLen_le t) (pjLen_pos t)

theorem mem_pjElems {t : Tile} {x : Tok} {p : Payload} {i : Nat} {v : Lane} :
    (i, v) ∈ pjElems t x p ↔ ∃ l, l < 16 ∧ i = 16 * x.seq.toNat + l ∧ i < pjLen t ∧ v = Word.lane p l := by
  simp only [pjElems, List.mem_filterMap, List.mem_range]
  refine exists_congr fun l => and_congr_right fun _ => ?_
  by_cases h : 16 * x.seq.toNat + l < pjLen t
  · rw [if_pos h, Option.some_inj, Prod.mk.injEq]
    constructor
    · rintro ⟨rfl, rfl⟩
      exact ⟨rfl, h, rfl⟩
    · rintro ⟨rfl, -, rfl⟩
      exact ⟨rfl, rfl⟩
  · rw [if_neg h]
    constructor
    · intro eq
      cases eq
    · rintro ⟨rfl, lt, -⟩
      exact absurd lt h

theorem pjElems_has {t : Tile} {x : Tok} (p : Payload) (brings : 16 * x.seq.toNat < pjLen t) : (16 * x.seq.toNat, Word.lane p 0) ∈ pjElems t x p :=
  mem_pjElems.mpr ⟨0, by omega, rfl, brings, rfl⟩

theorem pjElems_isEmpty {t : Tile} {x : Tok} (p : Payload) (brings : 16 * x.seq.toNat < pjLen t) : (pjElems t x p).isEmpty = false :=
  List.isEmpty_eq_false_iff_exists_mem.mpr ⟨_, pjElems_has p brings⟩

/-- A place with a token's elements: those positions of the token that the row has hold its lanes. -/
theorem get?_pjWrite (t : Tile) (p : PjPlace) (x : Tok) (pay : Payload) (i : Nat) : (pjWrite p x (pjElems t x pay)).elems.get? i =
    if 16 * x.seq.toNat ≤ i ∧ i < 16 * x.seq.toNat + 16 ∧ i < pjLen t then some (Word.lane pay (i - 16 * x.seq.toNat)) else p.elems.get? i := by
  rw [pjWrite, Map.get?_foldl_put (v := Word.lane pay (i - 16 * x.seq.toNat))]
  case agree =>
    rintro ⟨j, v⟩ mem rfl
    obtain ⟨l, -, isAt, -, rfl⟩ := mem_pjElems.mp mem
    rw [show j - 16 * x.seq.toNat = l by omega]
  refine if_congr ⟨?_, fun ⟨low, high, lt⟩ => ?_⟩ rfl rfl
  · rintro ⟨⟨j, v⟩, mem, rfl⟩
    obtain ⟨l, hl, isAt, lt, -⟩ := mem_pjElems.mp mem
    exact ⟨by omega, by omega, lt⟩
  · exact ⟨_, mem_pjElems.mpr ⟨i - 16 * x.seq.toNat, by omega, by omega, lt, rfl⟩, rfl⟩

theorem any_has_false {t : Tile} {x : Tok} {pay : Payload} {m : Map Lane} (fresh : ∀ l, l < 16 → 16 * x.seq.toNat + l < pjLen t → m.has (16 * x.seq.toNat + l) = false) :
    (pjElems t x pay).any (fun e => m.has e.1) = false := by
  rw [List.any_eq_false]
  rintro ⟨i, v⟩ mem
  obtain ⟨l, hl, rfl, lt, -⟩ := mem_pjElems.mp mem
  rw [fresh l hl lt]
  exact Bool.false_ne_true

theorem any_has_true {t : Tile} {x : Tok} {pay : Payload} {m : Map Lane} (brings : 16 * x.seq.toNat < pjLen t) (there : m.has (16 * x.seq.toNat) = true) :
    (pjElems t x pay).any (fun e => m.has e.1) = true :=
  List.any_eq_true.mpr ⟨_, pjElems_has pay brings, there⟩

/-! ### Filling a place (R103, R104) -/

/-- A place becomes COMPLETE once it has all its positions. -/
def settledPlace (t : Tile) (p : PjPlace) : PjPlace := { p with complete := p.elems.length == pjLen t }

theorem settledPlace_complete_iff (t : Tile) (p : PjPlace) : (settledPlace t p).complete = true ↔ (settledPlace t p).elems.length = pjLen t := beq_iff_eq

/-- The state after a token at a port of the engine is taken, with the places it leaves; the place that it names may become COMPLETE. -/
def pjFilled (s : State) (k : TileKey) (port q : Nat) (places : Map PjPlace) : State :=
  setPj (portTake s k port) k (pjSettle ((portTake s k port).tile k) { (s.tile k).pj with places := places } q)

section
variable {s : State} {k : TileKey} {port q : Nat} {places : Map PjPlace} {z : PjPlace}

theorem pjFilled_port : ((pjFilled s k port q places).tile k).ports.get? port = none := by
  rw [pjFilled, setPj_tile, portTake_tile]
  exact Map.get?_del_self _ _

theorem pjSettle_of_incomplete {t : Tile} {u : PjUnit} (place : u.places.get? q = some z) (incomplete : z.complete = false) : pjSettle t u q =
    if z.elems.length == pjLen t then { u with places := u.places.put q (settledPlace t z), ready := u.ready ++ [q] } else u := by
  unfold pjSettle
  simp only [place, incomplete, Bool.not_false, Bool.and_true]
  by_cases full : z.elems.length == pjLen t
  · rw [if_pos full, if_pos full, settledPlace, full]
  · rw [if_neg full, if_neg full]

variable (place : places.get? q = some z) (incomplete : z.complete = false)
include place incomplete

theorem pjFilled_pj : ((pjFilled s k port q places).tile k).pj =
    if z.elems.length == pjLen (s.tile k) then
      { (s.tile k).pj with places := places.put q (settledPlace (s.tile k) z), ready := (s.tile k).pj.ready ++ [q] }
    else { (s.tile k).pj with places := places } := by
  rw [pjFilled, setPj_tile, pjSettle_of_incomplete place incomplete, portTake_tile]
  rfl

/-- What filling a place leaves of the engine. -/
theorem pjFilled_spec : ((pjFilled s k port q places).tile k).pj.places.get? q = some (settledPlace (s.tile k) z)
    ∧ ((pjFilled s k port q places).tile k).pj.ready = (if (settledPlace (s.tile k) z).complete then (s.tile k).pj.ready ++ [q] else (s.tile k).pj.ready)
    ∧ ((pjFilled s k port q places).tile k).pj.sup = (s.tile k).pj.sup ∧ ((pjFilled s k port q places).tile k).pj.out = (s.tile k).pj.out
    ∧ ∀ j, j ≠ q → ((pjFilled s k port q places).tile k).pj.places.get? j = places.get? j := by
  rw [pjFilled_pj place incomplete]
  by_cases full : z.elems.length == pjLen (s.tile k)
  · rw [if_pos full]
    exact ⟨Map.get?_put_self _ _ _, (if_pos full).symm, rfl, rfl, fun j ne => Map.get?_put_ne _ _ _ _ ne⟩
  · have same : settledPlace (s.tile k) z = z := by
      cases z
      simp only [settledPlace, PjPlace.mk.injEq, and_true]
      exact ((Bool.not_eq_true _).mp full).trans incomplete.symm
    rw [if_neg full]
    exact ⟨same ▸ place, (if_neg full).symm, rfl, rfl, fun _ _ => rfl⟩

end

/-! ### Tokens at `pj.in` (R103) -/

/-- The token selects: it names the selector of its row and brings no element. -/
def isSelector (x : Parcel) : Bool := x.tok.tt == .control && x.psel.isNone

/-- The selector that a token names. -/
def ownSelector (x : Parcel) : Option (BitVec 3) := if isSelector x then some (Word.field x.tok.pay 0 3) else x.psel

/-- The elements that a token at `pj.in` brings. -/
def rowElems (t : Tile) (x : Parcel) : List (Nat × Lane) := if isSelector x then [] else pjElems t x.tok x.tok.pay

/-- The place that a token names. -/
def placeOf (t : Tile) (x : Parcel) : Nat := x.tok.tag.toNat % pjPlaces t

section
variable {s : State} {k : TileKey} {x : Parcel} (unit : UnitAt s k .vx) (going : (s.tile k).pj.stopped = false) (here : (s.tile k).ports.get? 0x10 = some x)
  (plain : x.tok.tt = .data ∨ x.tok.tt = .control) (brings : isSelector x = true ∨ (rowElems (s.tile k) x).isEmpty = false)
include unit going here plain brings

/-- A token with something for a row does what its place allows. -/
theorem execPjInToken_eq : execPjInToken s =
    (let bad := Host.Outcome.next (raiseTrap s (unitSite s k 0x10 0 (some x.tok)) causePjRow (BitVec.ofNat 64 (placeOf (s.tile k) x)))
     let put := fun (p : PjPlace) =>
       Host.Outcome.next (pjFilled s k 0x10 (placeOf (s.tile k) x) ((s.tile k).pj.places.put (placeOf (s.tile k) x) (pjWrite p x.tok (rowElems (s.tile k) x))))
     ((s.tile k).pj.places.get? (placeOf (s.tile k) x)).elim ((ownSelector x).elim bad fun psel => put { tag := x.tok.tag, kind := .row, psel := psel })
       fun p => if p.complete then .next s
         else if p.tag != x.tok.tag || p.kind != .row || (ownSelector x).any (fun ps => ps != p.psel) || (rowElems (s.tile k) x).any (fun e => p.elems.has e.1) then bad
         else put p) := by
  have useful : (!isSelector x && (rowElems (s.tile k) x).isEmpty) = false := by
    rcases brings with h | h <;> simp [h]
  have notSpecial : (x.tok.tt == .resume || x.tok.tt == .fault || x.tok.tt.isMarker) = false := by
    rcases plain with h | h <;> rw [h] <;> rfl
  have taken : ((portTake s k 0x10).tile k).pj = (s.tile k).pj := by rw [portTake_tile]
  rw [execPjInToken, atTile_of unit]
  simp only [here, going, notSpecial, Bool.false_eq_true, if_false]
  rw [← isSelector, ← rowElems, ← ownSelector, useful, if_neg Bool.false_ne_true, ← placeOf, taken]
  cases (s.tile k).pj.places.get? (placeOf (s.tile k) x) with
  | none => cases ownSelector x <;> rfl
  | some p => rfl

theorem pjIn_unnamed (free : (s.tile k).pj.places.get? (placeOf (s.tile k) x) = none) (unnamed : ownSelector x = none) :
    execPjInToken s = .next (raiseTrap s (unitSite s k 0x10 0 (some x.tok)) causePjRow (BitVec.ofNat 64 (placeOf (s.tile k) x))) := by
  rw [execPjInToken_eq unit going here plain brings, free, unnamed]
  rfl

theorem pjIn_waits {p : PjPlace} (place : (s.tile k).pj.places.get? (placeOf (s.tile k) x) = some p) (complete : p.complete = true) : execPjInToken s = .next s := by
  rw [execPjInToken_eq unit going here plain brings, place]
  exact if_pos complete

theorem pjIn_clashes {p : PjPlace} (place : (s.tile k).pj.places.get? (placeOf (s.tile k) x) = some p) (assembling : p.complete = false)
    (clash : p.tag ≠ x.tok.tag ∨ p.kind ≠ .row ∨ (∃ e, ownSelector x = some e ∧ e ≠ p.psel) ∨ (rowElems (s.tile k) x).any (fun e => p.elems.has e.1) = true) :
    execPjInToken s = .next (raiseTrap s (unitSite s k 0x10 0 (some x.tok)) causePjRow (BitVec.ofNat 64 (placeOf (s.tile k) x))) := by
  rw [execPjInToken_eq unit going here plain brings, place]
  refine (if_neg (by rw [assembling]; exact Bool.false_ne_true)).trans (if_pos ?_)
  simp only [Bool.or_eq_true, bne_iff_ne, or_assoc]
  refine clash.imp_right (Or.imp_right (Or.imp_left ?_))
  rintro ⟨e, named, ne⟩
  simpa [named] using ne

/-- A token that its place can take: it opens the place, or brings the row there something new. -/
theorem pjIn_takes {p : PjPlace} (takes : ((s.tile k).pj.places.get? (placeOf (s.tile k) x) = none ∧ ∃ psel, ownSelector x = some psel ∧ p = { tag := x.tok.tag, kind := .row, psel := psel })
      ∨ ((s.tile k).pj.places.get? (placeOf (s.tile k) x) = some p ∧ p.complete = false ∧ p.tag = x.tok.tag ∧ p.kind = .row ∧ (ownSelector x = none ∨ ownSelector x = some p.psel)
        ∧ (rowElems (s.tile k) x).any (fun e => p.elems.has e.1) = false)) :
    execPjInToken s =
      .next (pjFilled s k 0x10 (placeOf (s.tile k) x) ((s.tile k).pj.places.put (placeOf (s.tile k) x) (pjWrite p x.tok (rowElems (s.tile k) x)))) := by
  rw [execPjInToken_eq unit going here plain brings]
  rcases takes with ⟨free, psel, named, rfl⟩ | ⟨place, assembling, tag, kind, selector, fresh⟩
  · rw [free, named]
    rfl
  · rw [place]
    refine (if_neg (by rw [assembling]; exact Bool.false_ne_true)).trans (if_neg ?_)
    rcases selector with named | named <;> simp [tag, kind, named, fresh]

end

/-! ### Tokens at `pj.adj` (R112) -/

/-- The place of the p elements of an adjoint row. -/
def secondPlaceOf (t : Tile) (x : Parcel) : Nat := (x.tok.tag.toNat + 1) % pjPlaces t

/-- The record of a token's tag. -/
def recordOf (t : Tile) (x : Parcel) : Support := t.pj.sup.getD (x.tok.tag.toNat % 8) {}

/-- The place that the first token of an adjoint row opens. -/
def adjointPlace (t : Tile) (x : Parcel) : PjPlace := { tag := x.tok.tag, kind := .adjoint, psel := (recordOf t x).psel, found := recordOf t x, via := x.via }

/-- The first elements of an adjoint row. -/
def adjointFirst (t : Tile) (x : Parcel) : PjPlace := pjWrite (adjointPlace t x) x.tok (pjElems t x.tok x.tok.pay)

/-- The first p elements of an adjoint row. -/
def adjointSecond (t : Tile) (x : Parcel) : PjPlace :=
  settledPlace t (pjWrite { tag := x.tok.tag, kind := .second, psel := (recordOf t x).psel } x.tok (pjElems t x.tok (x.aux.getD 0)))

theorem secondPlaceOf_ne {t : Tile} {x : Parcel} (several : pjPlaces t ≠ 1) : secondPlaceOf t x ≠ placeOf t x := by
  have pos := pjPlaces_pos t
  unfold secondPlaceOf placeOf
  intro same
  have : (x.tok.tag.toNat + 1) ≡ x.tok.tag.toNat [MOD pjPlaces t] := same
  have := (Nat.modEq_iff_dvd' (Nat.le_succ _)).mp this.symm
  rw [Nat.succ_sub (le_refl _), Nat.sub_self] at this
  exact several (Nat.dvd_one.mp this)

section
variable {s : State} {k : TileKey} {x : Parcel} (unit : UnitAt s k .vx) (going : (s.tile k).pj.stopped = false) (here : (s.tile k).ports.get? 0x12 = some x)
  (data : x.tok.tt = .data) (brings : 16 * x.tok.seq.toNat < pjLen (s.tile k)) (free : (s.tile k).pj.places.get? (placeOf (s.tile k) x) = none)
include unit going here data brings free

/-- What the first token of an adjoint row does, by the record that it finds. -/
theorem execPjAdjToken_eq : execPjAdjToken s =
    (let row := fun (n : Nat) => Host.Outcome.next (raiseTrap s (unitSite s k 0x12 0 (some x.tok)) causePjRow (BitVec.ofNat 64 n))
     let first := (s.tile k).pj.places.put (placeOf (s.tile k) x) (adjointFirst (s.tile k) x)
     let put := fun (places : Map PjPlace) => Host.Outcome.next (pjFilled s k 0x12 (placeOf (s.tile k) x) places)
     if !(recordOf (s.tile k) x).valid || (recordOf (s.tile k) x).tag != x.tok.tag then
       .next (raiseTrap s (unitSite s k 0x12 0 (some x.tok)) causePjNoRec (x.tok.tag.setWidth 64))
     else if !(recordOf (s.tile k) x).twoPlaces then put first
     else if pjPlaces (s.tile k) == 1 then row (placeOf (s.tile k) x)
     else ((s.tile k).pj.places.get? (secondPlaceOf (s.tile k) x)).elim (put (first.put (secondPlaceOf (s.tile k) x) (adjointSecond (s.tile k) x)))
       fun y => if y.complete then .next s else row (secondPlaceOf (s.tile k) x)) := by
  have notSpecial : (x.tok.tt == .resume || x.tok.tt == .fault || x.tok.tt.isMarker) = false := by rw [data]; rfl
  have taken : ((portTake s k 0x12).tile k).pj = (s.tile k).pj := by rw [portTake_tile]
  have useful : (pjElems (s.tile k) x.tok x.tok.pay).isEmpty = false := pjElems_isEmpty _ brings
  rw [execPjAdjToken, atTile_of unit]
  simp only [here, going, notSpecial, useful, Bool.false_eq_true, if_false]
  rw [← placeOf, free, taken, ← recordOf, ← secondPlaceOf]
  cases (s.tile k).pj.places.get? (secondPlaceOf (s.tile k) x) <;> rfl

theorem pjAdj_noRecord (missing : (recordOf (s.tile k) x).valid = false ∨ (recordOf (s.tile k) x).tag ≠ x.tok.tag) :
    execPjAdjToken s = .next (raiseTrap s (unitSite s k 0x12 0 (some x.tok)) causePjNoRec (x.tok.tag.setWidth 64)) := by
  rw [execPjAdjToken_eq unit going here data brings free]
  exact if_pos (by simpa using missing)

section
variable (valid : (recordOf (s.tile k) x).valid = true) (tag : (recordOf (s.tile k) x).tag = x.tok.tag)
include valid tag

theorem pjAdj_opens (one : (recordOf (s.tile k) x).twoPlaces = false) :
    execPjAdjToken s = .next (pjFilled s k 0x12 (placeOf (s.tile k) x) ((s.tile k).pj.places.put (placeOf (s.tile k) x) (adjointFirst (s.tile k) x))) := by
  rw [execPjAdjToken_eq unit going here data brings free]
  simp [valid, tag, one]

variable (two : (recordOf (s.tile k) x).twoPlaces = true)
include two

theorem pjAdj_noRoom (single : pjPlaces (s.tile k) = 1) :
    execPjAdjToken s = .next (raiseTrap s (unitSite s k 0x12 0 (some x.tok)) causePjRow (BitVec.ofNat 64 (placeOf (s.tile k) x))) := by
  rw [execPjAdjToken_eq unit going here data brings free]
  simp [valid, tag, two, single]

variable (several : pjPlaces (s.tile k) ≠ 1)
include several

theorem pjAdj_opensTwo (room : (s.tile k).pj.places.get? (secondPlaceOf (s.tile k) x) = none) :
    execPjAdjToken s = .next (pjFilled s k 0x12 (placeOf (s.tile k) x)
      (((s.tile k).pj.places.put (placeOf (s.tile k) x) (adjointFirst (s.tile k) x)).put (secondPlaceOf (s.tile k) x) (adjointSecond (s.tile k) x))) := by
  rw [execPjAdjToken_eq unit going here data brings free]
  simp [valid, tag, two, several, room]

theorem pjAdj_secondTaken {y : PjPlace} (taken : (s.tile k).pj.places.get? (secondPlaceOf (s.tile k) x) = some y) :
    execPjAdjToken s = if y.complete then .next s else .next (raiseTrap s (unitSite s k 0x12 0 (some x.tok)) causePjRow (BitVec.ofNat 64 (secondPlaceOf (s.tile k) x))) := by
  rw [execPjAdjToken_eq unit going here data brings free]
  simp [valid, tag, two, several, taken]

end
end

end Sys2Proof.Machine
end

section
/-! PROOF. What the tokens of rows do, as O32 asks: data tokens, selector tokens, the first token of an adjoint row. -/

namespace Sys2Proof.Machine

/-! ### Data tokens at `pj.in` -/

/-- A place holds what it held, with the elements of a token's payload. -/
def FilledFrom (t : Tile) (x : Tok) (pay : Payload) (p p' : PjPlace) : Prop :=
  p'.tag = x.tag ∧ p'.kind = p.kind ∧ p'.psel = p.psel ∧ p'.found = p.found
  ∧ ∀ i, p'.elems.get? i =
      if 16 * x.seq.toNat ≤ i ∧ i < 16 * x.seq.toNat + 16 ∧ i < pjLen t then some (Word.lane pay (i - 16 * x.seq.toNat)) else p.elems.get? i

theorem filledFrom_settled {t : Tile} {x : Tok} (pay : Payload) {p : PjPlace} (tag : p.tag = x.tag) :
    FilledFrom t x pay p (settledPlace t (pjWrite p x (pjElems t x pay))) := ⟨tag, rfl, rfl, rfl, get?_pjWrite t p x pay⟩

theorem ownSelector_of_data {x : Parcel} (data : x.tok.tt = .data) : ownSelector x = x.psel := by simp [ownSelector, isSelector, data]

theorem rowElems_of_data {x : Parcel} (data : x.tok.tt = .data) (t : Tile) : rowElems t x = pjElems t x.tok x.tok.pay := by simp [rowElems, isSelector, data]

section
variable {s : State} {k : TileKey} {x : Parcel} {p : PjPlace} (unit : UnitAt s k .vx) (going : (s.tile k).pj.stopped = false) (here : (s.tile k).ports.get? 0x10 = some x)
include unit going here

section
variable (data : x.tok.tt = .data) (brings : 16 * x.tok.seq.toNat < pjLen (s.tile k))
include data brings

theorem pjIn_data_unnamed (free : (s.tile k).pj.places.get? (placeOf (s.tile k) x) = none) (unnamed : x.psel = none) :
    execPjInToken s = .next (raiseTrap s (unitSite s k 0x10 0 (some x.tok)) causePjRow (BitVec.ofNat 64 (placeOf (s.tile k) x))) :=
  pjIn_unnamed unit going here (.inl data) (.inr (by rw [rowElems_of_data data]; exact pjElems_isEmpty _ brings)) free ((ownSelector_of_data data).trans unnamed)

theorem pjIn_data_waits (place : (s.tile k).pj.places.get? (placeOf (s.tile k) x) = some p) (complete : p.complete = true) : execPjInToken s = .next s :=
  pjIn_waits unit going here (.inl data) (.inr (by rw [rowElems_of_data data]; exact pjElems_isEmpty _ brings)) place complete

theorem pjIn_data_clashes (place : (s.tile k).pj.places.get? (placeOf (s.tile k) x) = some p) (assembling : p.complete = false)
    (clash : p.tag ≠ x.tok.tag ∨ p.kind ≠ .row ∨ (∃ e, x.psel = some e ∧ e ≠ p.psel) ∨ p.elems.has (16 * x.tok.seq.toNat) = true) :
    execPjInToken s = .next (raiseTrap s (unitSite s k 0x10 0 (some x.tok)) causePjRow (BitVec.ofNat 64 (placeOf (s.tile k) x))) := by
  refine pjIn_clashes unit going here (.inl data) (.inr (by rw [rowElems_of_data data]; exact pjElems_isEmpty _ brings)) place assembling ?_
  rw [ownSelector_of_data data, rowElems_of_data data]
  exact clash.imp_right (Or.imp_right (Or.imp_right (any_has_true brings)))

theorem pjIn_data_takes {sel : BitVec 3} (takes :
    ((s.tile k).pj.places.get? (placeOf (s.tile k) x) = none ∧ x.psel = some sel ∧ p = { tag := x.tok.tag, kind := .row, psel := sel })
    ∨ ((s.tile k).pj.places.get? (placeOf (s.tile k) x) = some p ∧ p.complete = false ∧ p.tag = x.tok.tag ∧ p.kind = .row ∧ (x.psel = none ∨ x.psel = some p.psel)
      ∧ ∀ l, l < 16 → 16 * x.tok.seq.toNat + l < pjLen (s.tile k) → p.elems.has (16 * x.tok.seq.toNat + l) = false)) :
    ∃ s' p', execPjInToken s = .next s' ∧ (s'.tile k).ports.get? 0x10 = none ∧ (s'.tile k).pj.places.get? (placeOf (s.tile k) x) = some p'
      ∧ FilledFrom (s.tile k) x.tok x.tok.pay p p' ∧ (p'.complete = true ↔ p'.elems.length = pjLen (s.tile k))
      ∧ (s'.tile k).pj.ready = (if p'.complete then (s.tile k).pj.ready ++ [placeOf (s.tile k) x] else (s.tile k).pj.ready)
      ∧ (s'.tile k).pj.sup = (s.tile k).pj.sup ∧ (s'.tile k).pj.out = (s.tile k).pj.out := by
  have run := pjIn_takes unit going here (.inl data) (.inr (by rw [rowElems_of_data data]; exact pjElems_isEmpty _ brings)) (p := p) (by
    rw [ownSelector_of_data data, rowElems_of_data data]
    exact takes.imp (fun ⟨free, named, isNew⟩ => ⟨free, sel, named, isNew⟩)
      (fun ⟨place, assembling, tag, kind, named, fresh⟩ => ⟨place, assembling, tag, kind, named, any_has_false fresh⟩))
  rw [rowElems_of_data data] at run
  have assembling : p.complete = false ∧ p.tag = x.tok.tag := by
    rcases takes with ⟨-, -, rfl⟩ | ⟨-, assembling, tag, -⟩
    · exact ⟨rfl, rfl⟩
    · exact ⟨assembling, tag⟩
  obtain ⟨place, ready, sup, out, -⟩ := pjFilled_spec (s := s) (k := k) (port := 0x10)
    (Map.get?_put_self (s.tile k).pj.places (placeOf (s.tile k) x) (pjWrite p x.tok (pjElems (s.tile k) x.tok x.tok.pay))) assembling.1
  exact ⟨_, _, run, pjFilled_port, place, filledFrom_settled _ assembling.2, settledPlace_complete_iff _ _, ready, sup, out⟩

end

/-! ### Selector tokens at `pj.in` -/

section
variable (control : x.tok.tt = .control) (unnamed : x.psel = none)
include control unnamed

omit unit going here in
theorem isSelector_of_control : isSelector x = true := by simp [isSelector, control, unnamed]

omit unit going here in
theorem ownSelector_of_control : ownSelector x = some (x.tok.pay.extractLsb' 0 3) := if_pos (isSelector_of_control control unnamed)

omit unit going here in
theorem rowElems_of_control (t : Tile) : rowElems t x = [] := if_pos (isSelector_of_control control unnamed)

theorem pjIn_selector_waits (place : (s.tile k).pj.places.get? (placeOf (s.tile k) x) = some p) (complete : p.complete = true) : execPjInToken s = .next s :=
  pjIn_waits unit going here (.inr control) (.inl (isSelector_of_control control unnamed)) place complete

theorem pjIn_selector_clashes (place : (s.tile k).pj.places.get? (placeOf (s.tile k) x) = some p) (assembling : p.complete = false)
    (clash : p.tag ≠ x.tok.tag ∨ p.kind ≠ .row ∨ p.psel ≠ x.tok.pay.extractLsb' 0 3) :
    execPjInToken s = .next (raiseTrap s (unitSite s k 0x10 0 (some x.tok)) causePjRow (BitVec.ofNat 64 (placeOf (s.tile k) x))) := by
  refine pjIn_clashes unit going here (.inr control) (.inl (isSelector_of_control control unnamed)) place assembling ?_
  rw [ownSelector_of_control control unnamed]
  exact clash.imp_right (Or.imp_right fun ne => .inl ⟨_, rfl, ne.symm⟩)

theorem pjIn_selector_takes (takes :
    ((s.tile k).pj.places.get? (placeOf (s.tile k) x) = none ∧ p = { tag := x.tok.tag, kind := .row, psel := x.tok.pay.extractLsb' 0 3 })
    ∨ ((s.tile k).pj.places.get? (placeOf (s.tile k) x) = some p ∧ p.complete = false ∧ p.elems.length ≠ pjLen (s.tile k) ∧ p.tag = x.tok.tag ∧ p.kind = .row
      ∧ p.psel = x.tok.pay.extractLsb' 0 3)) :
    ∃ s' p', execPjInToken s = .next s' ∧ (s'.tile k).ports.get? 0x10 = none ∧ (s'.tile k).pj.places.get? (placeOf (s.tile k) x) = some p' ∧ p'.tag = p.tag
      ∧ p'.kind = .row ∧ p'.psel = x.tok.pay.extractLsb' 0 3 ∧ p'.elems = p.elems ∧ p'.complete = false ∧ (s'.tile k).pj.ready = (s.tile k).pj.ready := by
  have run := pjIn_takes unit going here (.inr control) (.inl (isSelector_of_control control unnamed)) (p := p) (by
    rw [ownSelector_of_control control unnamed, rowElems_of_control control unnamed]
    exact takes.imp (fun ⟨free, isNew⟩ => ⟨free, _, rfl, isNew⟩)
      (fun ⟨place, assembling, _, tag, kind, psel⟩ => ⟨place, assembling, tag, kind, .inr (by rw [psel]), rfl⟩))
  rw [rowElems_of_control control unnamed] at run
  obtain ⟨assembling, short, kind, psel⟩ : p.complete = false ∧ p.elems.length ≠ pjLen (s.tile k) ∧ p.kind = .row ∧ p.psel = x.tok.pay.extractLsb' 0 3 := by
    rcases takes with ⟨-, rfl⟩ | ⟨-, assembling, short, -, kind, psel⟩
    · exact ⟨rfl, (pjLen_pos _).ne, rfl, rfl⟩
    · exact ⟨assembling, short, kind, psel⟩
  obtain ⟨place, ready, -⟩ := pjFilled_spec (s := s) (k := k) (port := 0x10)
    (Map.get?_put_self (s.tile k).pj.places (placeOf (s.tile k) x) (pjWrite p x.tok [])) assembling
  have stays : (settledPlace (s.tile k) (pjWrite p x.tok [])).complete = false := by
    rw [Bool.eq_false_iff]
    exact fun full => short ((settledPlace_complete_iff _ _).mp full)
  rw [stays] at ready
  exact ⟨_, _, run, pjFilled_port, place, rfl, kind, psel, rfl, stays, ready⟩

end

end

/-! ### The first token of an adjoint row -/

section
variable {s : State} {k : TileKey} {x : Parcel} (unit : UnitAt s k .vx) (going : (s.tile k).pj.stopped = false) (here : (s.tile k).ports.get? 0x12 = some x)
  (data : x.tok.tt = .data) (brings : 16 * x.tok.seq.toNat < pjLen (s.tile k)) (free : (s.tile k).pj.places.get? (placeOf (s.tile k) x) = none)
  (valid : (recordOf (s.tile k) x).valid = true) (tag : (recordOf (s.tile k) x).tag = x.tok.tag)
include unit going here data brings free valid tag

theorem pjAdj_first (one : (recordOf (s.tile k) x).twoPlaces = false) :
    ∃ s' p', execPjAdjToken s = .next s' ∧ (s'.tile k).ports.get? 0x12 = none ∧ (s'.tile k).pj.places.get? (placeOf (s.tile k) x) = some p' ∧ p'.via = x.via
      ∧ FilledFrom (s.tile k) x.tok x.tok.pay (adjointPlace (s.tile k) x) p' := by
  obtain ⟨place, -⟩ := pjFilled_spec (s := s) (k := k) (port := 0x12)
    (Map.get?_put_self (s.tile k).pj.places (placeOf (s.tile k) x) (adjointFirst (s.tile k) x)) rfl
  exact ⟨_, _, pjAdj_opens unit going here data brings free valid tag one, pjFilled_port, place, rfl, filledFrom_settled _ rfl⟩

theorem pjAdj_firstOfTwo (two : (recordOf (s.tile k) x).twoPlaces = true) (several : pjPlaces (s.tile k) ≠ 1)
    (room : (s.tile k).pj.places.get? (secondPlaceOf (s.tile k) x) = none) :
    ∃ s' p' p2, execPjAdjToken s = .next s' ∧ (s'.tile k).ports.get? 0x12 = none ∧ (s'.tile k).pj.places.get? (placeOf (s.tile k) x) = some p'
      ∧ (s'.tile k).pj.places.get? (secondPlaceOf (s.tile k) x) = some p2 ∧ FilledFrom (s.tile k) x.tok x.tok.pay (adjointPlace (s.tile k) x) p'
      ∧ p2.tag = x.tok.tag ∧ p2.kind = .second
      ∧ ∀ i, p2.elems.get? i = if 16 * x.tok.seq.toNat ≤ i ∧ i < 16 * x.tok.seq.toNat + 16 ∧ i < pjLen (s.tile k) then
          some (Word.lane (x.aux.getD 0) (i - 16 * x.tok.seq.toNat)) else none := by
  have ne : secondPlaceOf (s.tile k) x ≠ placeOf (s.tile k) x := secondPlaceOf_ne several
  obtain ⟨place, -, -, -, others⟩ := pjFilled_spec (s := s) (k := k) (port := 0x12) (q := placeOf (s.tile k) x)
    (places := ((s.tile k).pj.places.put (placeOf (s.tile k) x) (adjointFirst (s.tile k) x)).put (secondPlaceOf (s.tile k) x) (adjointSecond (s.tile k) x))
    (z := adjointFirst (s.tile k) x) (by rw [Map.get?_put_ne _ _ _ _ ne.symm, Map.get?_put_self]) rfl
  have second := (others _ ne).trans (Map.get?_put_self _ _ _)
  exact ⟨_, _, _, pjAdj_opensTwo unit going here data brings free valid tag two several room, pjFilled_port, place, second, filledFrom_settled _ rfl, rfl, rfl,
    get?_pjWrite _ _ _ _⟩

end

end Sys2Proof.Machine
end

section
/-! PROOF. The steps of the projection engine that process a row (04 R104), and the element-wise sets (R109). -/

namespace Sys2Proof.Machine

/-! ### The tokens of an output row -/

/-- The tokens carry the row's values in order, 16 to a token, with the row's tag. -/
def IsRow (p : PjPlace) (xs : List Lane) (d : Tgt) (es : List Emit) : Prop :=
  es.length = (xs.length + 15) / 16 ∧ ∀ j e, es[j]? = some e →
    e.dst = d ∧ e.parcel.tok.tt = .data ∧ e.parcel.tok.tag = p.tag ∧ e.parcel.tok.seq = BitVec.ofNat 8 j ∧ ∀ l, l < 16 → Word.lane e.parcel.tok.pay l = xs.getD (16 * j + l) 0

theorem isRow_rowEmits (p : PjPlace) (xs : List Lane) (d : Tgt) : IsRow p xs d (rowEmits p xs d) := by
  refine ⟨by rw [rowEmits, List.length_map, List.length_range]; rfl, fun j e at_j => ?_⟩
  rw [rowEmits, List.getElem?_map] at at_j
  obtain ⟨i, at_i, is⟩ := Option.map_eq_some_iff.mp at_j
  obtain ⟨lt, isIndex⟩ := List.getElem?_eq_some_iff.mp at_i
  rw [List.getElem_range] at isIndex
  rw [← is, isIndex]
  refine ⟨rfl, rfl, rfl, rfl, fun l hl => ?_⟩
  exact lane_ofLanes (fun l => xs.getD (16 * i + l) 0) l hl

/-! ### The steps -/

/-- The engine of a tile may begin the place at the head of its queue. -/
structure MayBegin (s : State) (k : TileKey) (q : Nat) (rest : List Nat) (p : PjPlace) : Prop where
  unit : UnitAt s k .vx
  going : (s.tile k).pj.stopped = false
  idle : (s.tile k).pj.out = []
  turn : (s.tile k).pj.ready = q :: rest
  place : (s.tile k).pj.places.get? q = some p
  noParams : (s.tile k).ports.get? 0x11 = none
  noHeld : ∀ h ∈ (s.tile k).pj.held, h.2 ≠ 0

section
variable {s : State} {k : TileKey} {q : Nat} {rest : List Nat} {p : PjPlace}

theorem pjNext_begins (begins : MayBegin s k q rest p) {row : Bool} (kind : (p.kind == .row) = row) (go : State → TileKey → Tile → PjPlace → Out) :
    pjNext s row go = go s k (s.tile k) p := by
  have noTurn : (s.tile k).pj.held.any (fun h => h.2 == 0) = false := by simpa using begins.noHeld
  have same : pjParams s k = s := by rw [pjParams, begins.noParams]
  simp [pjNext, atTile_of begins.unit, begins.going, begins.idle, noTurn, begins.turn, begins.place, kind, same]

/-- The record, the outputs and the support size of the projection row in a place. -/
def rowResult (t : Tile) (p : PjPlace) : Pj.Result := Pj.project p.tag p.psel t.pj.a t.pj.b (placeRow (pjLen t) p)

theorem execPjProject_begins (begins : MayBegin s k q rest p) (kind : p.kind = .row) :
    ∃ s' es z, execPjProject s = .next s'
      ∧ (s'.tile k).pj = { (s.tile k).pj with sup := (s.tile k).pj.sup.put (p.tag.toNat % 8) (rowResult (s.tile k) p).sup, out := es ++ [z] }
      ∧ IsRow p (rowResult (s.tile k) p).p (pjPtgt (s.tile k)) es
      ∧ z.dst = pjStgt (s.tile k) ∧ z.parcel.tok.tag = p.tag ∧ ∀ l, l < 16 → Word.lane z.parcel.tok.pay l = BitVec.ofNat 32 (rowResult (s.tile k) p).size := by
  refine ⟨_, rowEmits p (rowResult (s.tile k) p).p (pjPtgt (s.tile k)),
    { dst := pjStgt (s.tile k), parcel := { tok := { tag := p.tag, pay := Word.splat (BitVec.ofNat 32 (rowResult (s.tile k) p).size), hb := p.hb } } },
    pjNext_begins begins (by rw [kind]; rfl) _, ?_, isRow_rowEmits _ _ _, rfl, rfl, fun l hl => ?_⟩
  · rw [countTile_tile, setPj_tile]
    rfl
  · exact lane_ofLanes (fun _ => BitVec.ofNat 32 (rowResult (s.tile k) p).size) l hl

/-- The p elements of an adjoint row: those of the place after its own. -/
def secondRow (t : Tile) (p : PjPlace) : List Lane :=
  match t.pj.places.get? ((p.tag.toNat + 1) % pjPlaces t) with
  | some y => placeRow (pjLen t) y
  | none => []

/-- The outputs of the adjoint row in a place. -/
def adjointResult (t : Tile) (p : PjPlace) : List Lane × List Nat := Pj.adjoint p.found (placeRow (pjLen t) p) (secondRow t p)

theorem execPjAdjoint_begins (begins : MayBegin s k q rest p) (kind : p.kind ≠ .row) :
    ∃ s' es, execPjAdjoint s = .next s' ∧ (s'.tile k).pj = { (s.tile k).pj with out := es } ∧ IsRow p (adjointResult (s.tile k) p).1 p.via es := by
  refine ⟨_, rowEmits p (adjointResult (s.tile k) p).1 p.via, pjNext_begins begins (by simpa using kind) _, ?_, isRow_rowEmits _ _ _⟩
  rw [countTile_tile, setPj_tile]
  rfl

end

end Sys2Proof.Machine
end

section
/-! PROOF. Projection rows, part by part (04 R105, R109): records and outputs that every selector gives, and the element-wise sets. -/

namespace Sys2Proof.Machine.Pj

/-! ### Masks -/

theorem foldr_bits_testBit (l : List Bool) (i : Nat) : (l.foldr (fun (b : Bool) acc => 2 * acc + b.toNat) 0).testBit i = l.getD i false := by
  induction l generalizing i with
  | nil => simp
  | cons x l ih =>
    have half : (2 * l.foldr (fun (b : Bool) acc => 2 * acc + b.toNat) 0 + x.toNat) / 2 = l.foldr (fun (b : Bool) acc => 2 * acc + b.toNat) 0 := by
      have := Bool.toNat_lt x
      omega
    cases i with
    | zero => cases x <;> simp [Nat.testBit_zero, Nat.add_mod, Nat.mul_mod_right]
    | succ i => rw [List.foldr_cons, Nat.testBit_succ, half, ih, List.getD_cons_succ]

/-- The bits of a mask, up to 4096. -/
theorem maskFrom_getLsbD {l : List Bool} (i : Nat) (short : l.length ≤ 4096) : (maskFrom l).getLsbD i = l.getD i false := by
  rw [maskFrom, BitVec.getLsbD_ofNat, foldr_bits_testBit]
  by_cases h : i < 4096
  · simp [h]
  · rw [List.getD_eq_default _ _ (by omega), Bool.and_false]

theorem maskFrom_map_range {n i : Nat} (f : Nat → Bool) (hi : i < n) (short : n ≤ 4096) : (maskFrom ((List.range n).map f)).getLsbD i = f i := by
  rw [maskFrom_getLsbD i (by simpa using short), List.getD_eq_getElem _ _ (by simpa using hi)]
  simp

theorem maskAll_toNat {n : Nat} (short : n ≤ 4096) : (maskAll n).toNat = 2 ^ n - 1 := by
  have le := Nat.pow_le_pow_right (show 0 < 2 by decide) short
  rw [maskAll, BitVec.toNat_ofNat, Nat.mod_eq_of_lt]
  have : 0 < 2 ^ n := Nat.two_pow_pos n
  omega

theorem toNat_ofNat13 {n : Nat} (short : n ≤ 4096) : (BitVec.ofNat 13 n).toNat = n := by
  rw [BitVec.toNat_ofNat]
  exact Nat.mod_eq_of_lt (by omega)

/-! ### Selectors -/

/-- A selector of a set that R105 gives as a whole. -/
def Bulk (psel : BitVec 3) : Prop := psel ∈ [(1 : BitVec 3), 2, 3, 5, 6]

/-- A row with valid parameters and finite elements. -/
def Good (psel : BitVec 3) (a b : Lane) (xs : List Lane) : Prop := valid psel a b = true ∧ ∀ x ∈ xs, finite x = true

section
variable {tag : Tag} {psel : BitVec 3} {a b : Lane} {xs : List Lane}

/-- What a row gives that has no projection. -/
def badResult (tag : Tag) (psel : BitVec 3) (a b : Lane) (xs : List Lane) : Result :=
  { p := xs.map (fun _ => nan), size := 0, sup := { base tag psel a xs.length with mask := 0, scalar := nan, size := 0 }
    tally := if (xs ++ params psel a b).any isNan then [] else xs.map (fun _ => 7) }

/-- What an element-wise set gives. -/
def elementResult (tag : Tag) (psel : BitVec 3) (a b : Lane) (xs : List Lane) : Result :=
  { p := (xs.map (element psel a b)).map Prod.fst, size := ((xs.map (element psel a b)).filter Prod.snd).length
    sup := { base tag psel a xs.length with mask := maskFrom ((xs.map (element psel a b)).map Prod.snd), size := BitVec.ofNat 13 ((xs.map (element psel a b)).filter Prod.snd).length } }

theorem project_bad (bad : Bulk psel ∧ ¬Good psel a b xs ∨ valid psel a b = false) : project tag psel a b xs = badResult tag psel a b xs := by
  refine if_pos ?_
  rcases bad with ⟨bulk, bad⟩ | invalid
  · simp only [Bulk, List.mem_cons, List.not_mem_nil, or_false] at bulk
    by_cases isValid : valid psel a b = true
    · have notAll : ¬xs.all finite = true := fun all => bad ⟨isValid, by simpa using all⟩
      rcases bulk with rfl | rfl | rfl | rfl | rfl <;> simp [notAll]
    · simp [isValid]
  · simp [invalid]

/-- A row that has a projection passes the test for one. -/
theorem Good.passes (good : Good psel a b xs) :
    (!valid psel a b || ((psel == 1 || psel == 2 || psel == 3 || psel == 5 || psel == 6) && !xs.all finite)) = false := by
  have all : xs.all finite = true := by simpa using good.2
  rw [good.1, all]
  simp

theorem project_simplex (good : Good 1 a b xs) : project tag 1 a b xs =
    { p := (simplex xs a).1.map Prod.fst, size := (simplex xs a).2.1.length, tally := (simplex xs a).1.flatMap Prod.snd
      sup := { base tag 1 a xs.length with
        mask := maskFrom ((List.range xs.length).map (fun i => (simplex xs a).2.1.contains i)), scalar := (simplex xs a).2.2, size := BitVec.ofNat 13 (simplex xs a).2.1.length } } :=
  if_neg (by rw [good.passes]; exact Bool.false_ne_true)

/-- The sum of the magnitudes of a row. -/
def norm1 (xs : List Lane) : Int := xs.foldl (fun acc x => acc + (magOf x.toNat : Int)) 0

theorem project_l1 (good : Good 2 a b xs) : project tag 2 a b xs =
    (let signs := maskFrom (xs.map (fun x => x.msb))
     let rec0 := base tag 2 a xs.length
     if norm1 xs ≤ units a then { p := xs, size := xs.length, sup := { rec0 with inside := true } }
     else if units a == 0 then { p := xs.map (fun x => x &&& 0x80000000), size := 0, sup := { rec0 with mask := 0, aux := signs, scalar := 0x7F800000, size := 0 } }
     else
       let r := simplex (xs.map (fun x => x &&& 0x7FFFFFFF)) a
       { p := List.zipWith (fun (q : Lane × List Nat) x => q.1 ||| (x &&& 0x80000000)) r.1 xs, size := r.2.1.length, tally := r.1.flatMap Prod.snd
         sup := { rec0 with mask := maskFrom ((List.range xs.length).map (fun i => r.2.1.contains i)), aux := signs, scalar := r.2.2, size := BitVec.ofNat 13 r.2.1.length } }) :=
  if_neg (by rw [good.passes]; exact Bool.false_ne_true)

/-- The sum of the squared magnitudes of a row. -/
def norm2 (xs : List Lane) : Nat := xs.foldl (fun acc x => acc + magOf x.toNat * magOf x.toNat) 0

theorem project_l2 (good : Good 3 a b xs) : project tag 3 a b xs =
    (let rec0 := base tag 3 a xs.length
     let a2 := magOf a.toNat * magOf a.toNat
     if norm2 xs ≤ a2 then { p := xs, size := 0, sup := { rec0 with inside := true, scalar := 0x3F800000, size := 0 } }
     else
       let sc : Lane := BitVec.ofNat 32 (Fp.roundSqrt Fp.f32 .rn a2 (norm2 xs)).bits
       let out := xs.map (fun x => Fp.mul Fp.f32 .rn x.toNat sc.toNat)
       { p := out.map (fun r => BitVec.ofNat 32 r.bits), size := 1, tally := out.flatMap (fun r => noteLanes r.note), sup := { rec0 with scalar := sc, size := 1 } }) :=
  if_neg (by rw [good.passes]; exact Bool.false_ne_true)

theorem project_pools (monotone : psel = 5 ∨ psel = 6) (good : Good psel a b xs) : project tag psel a b xs =
    (let ps := pools (psel == 5) xs
     let out := ps.flatMap (fun x => List.replicate x.count (Fp.roundRatio Fp.f32 .rn (x.sum < 0) x.sum.natAbs (x.count * 2 ^ 149)))
     { p := out.map (fun r => BitVec.ofNat 32 r.bits), size := ps.length, tally := out.flatMap (fun r => noteLanes r.note)
       sup := { base tag psel a xs.length with
         aux := maskFrom ((List.range xs.length).map (fun i => ps.any (fun x => x.start == i))), size := BitVec.ofNat 13 ps.length } }) := by
  refine (if_neg (by rw [good.passes]; exact Bool.false_ne_true)).trans ?_
  rcases monotone with rfl | rfl <;> rfl

theorem project_element (each : psel = 0 ∨ psel = 4 ∨ psel = 7) (isValid : valid psel a b = true) : project tag psel a b xs = elementResult tag psel a b xs := by
  have passes : ¬(!valid psel a b || ((psel == 1 || psel == 2 || psel == 3 || psel == 5 || psel == 6) && !xs.all finite)) = true := by
    rw [isValid]
    rcases each with rfl | rfl | rfl <;> simp
  refine (if_neg passes).trans ?_
  rcases each with rfl | rfl | rfl <;> rfl

/-! ### The element-wise sets -/

theorem project_element_getElem? (each : psel = 0 ∨ psel = 4 ∨ psel = 7) (isValid : valid psel a b = true) {i : Nat} {x : Lane} (at_i : xs[i]? = some x) :
    (project tag psel a b xs).p[i]? = some (element psel a b x).1 := by
  rw [project_element each isValid, elementResult]
  simp [at_i]

theorem element_all (x : Lane) : element 0 a b x = (x, true) := rfl

theorem element_positive {x : Lane} (number : isNan x = false) : (element 7 a b x).1 = if less 0 x then x else 0 := by
  simp only [element, number]
  cases less 0 x <;> rfl

theorem element_box {x : Lane} (number : isNan x = false) : (element 4 a b x).1 = if less x a then a else if less b x then b else x := by
  simp only [element, number]
  cases less x a <;> cases less b x <;> rfl

end

end Sys2Proof.Machine.Pj
end

section
/-! PROOF. The threshold search (04 R106), and the simplex, L1 and L2 rows that it and the norms give (R106 to R108). -/

namespace Sys2Proof.Machine.Pj

/-! ### The search -/

theorem foldl_add_eq_sum {α : Type} (f : α → Int) (l : List α) (z : Int) : l.foldl (fun acc x => acc + f x) z = z + (l.map f).sum := by
  induction l generalizing z with
  | nil => simp
  | cons x l ih => rw [List.foldl_cons, ih, List.map_cons, List.sum_cons, Int.add_assoc]

section
variable (xs : List Lane) (a : Lane)

/-- The threshold of a set of positions. -/
def tau (S : List Nat) : Lane := quot ((S.map fun i => units (xs.getD i 0)).sum - units a) (S.length * 2 ^ 149)

/-- The positions of a set that lie above its threshold. -/
def narrowed (S : List Nat) : List Nat := S.filter (fun i => less (tau xs a S) (xs.getD i 0))

theorem search_succ (m : Nat) (S : List Nat) : search xs a (m + 1) S =
    if ((narrowed xs a S).length == S.length || (narrowed xs a S).isEmpty) = true then (tau xs a S, S) else search xs a m (narrowed xs a S) := by
  rw [search, foldl_add_eq_sum, Int.zero_add]
  rfl

theorem narrowed_length_eq_iff (S : List Nat) : (narrowed xs a S).length = S.length ↔ narrowed xs a S = S :=
  List.filter_sublist.length_eq

variable {xs a}

theorem search_stops (m : Nat) {S : List Nat} (stops : narrowed xs a S = S ∨ narrowed xs a S = []) : search xs a (m + 1) S = (tau xs a S, S) := by
  rw [search_succ, if_pos]
  rcases stops with same | empty
  · simp [same]
  · simp [empty]

theorem search_narrows (m : Nat) {S : List Nat} (fewer : narrowed xs a S ≠ S) (remain : narrowed xs a S ≠ []) :
    search xs a (m + 1) S = search xs a m (narrowed xs a S) := by
  rw [search_succ, if_neg]
  simpa [narrowed_length_eq_iff] using ⟨fewer, remain⟩

/-- More fuel than the set has positions changes nothing. -/
theorem search_fuel {m : Nat} {S : List Nat} (enough : S.length < m) : search xs a (m + 1) S = search xs a m S := by
  induction m generalizing S with
  | zero => omega
  | succ m ih =>
    by_cases stops : narrowed xs a S = S ∨ narrowed xs a S = []
    · rw [search_stops (m + 1) stops, search_stops m stops]
    · obtain ⟨fewer, remain⟩ := not_or.mp stops
      have shorter : (narrowed xs a S).length < S.length :=
        lt_of_le_of_ne (List.length_filter_le _ _) (mt (narrowed_length_eq_iff xs a S).mp fewer)
      rw [search_narrows (m + 1) fewer remain, search_narrows m fewer remain, ih (by omega)]

theorem search_sublist (m : Nat) (S : List Nat) : (search xs a m S).2.Sublist S := by
  induction m generalizing S with
  | zero => exact List.Sublist.refl S
  | succ m ih =>
    rw [search_succ]
    split_ifs
    · exact List.Sublist.refl S
    · exact (ih _).trans List.filter_sublist

end

/-! ### The simplex (R106) -/

/-- The outputs of the simplex: the positions of the support above the threshold, and zero elsewhere. -/
def IsSimplex (xs : List Lane) (a : Lane) (n : Nat) (S : List Nat) (tau : Lane) (out : Nat → Lane) : Prop :=
  (tau, S) = search xs a (n + 1) (List.range n)
  ∧ (∀ i x, xs[i]? = some x → i ∈ S → out i = if (sub x tau).1.msb then 0 else (sub x tau).1)
  ∧ (∀ i, i < n → i ∉ S → out i = 0)

/-- The outputs of the simplex as a row. -/
def simplexRow (xs : List Lane) (a : Lane) : List Lane := (simplex xs a).1.map Prod.fst

theorem above_fst (x tau : Lane) : (above x tau).1 = if (sub x tau).1.msb then 0 else (sub x tau).1 := by
  simp only [above]
  split_ifs <;> rfl

section
variable (xs : List Lane) (a : Lane)

theorem simplexRow_length : (simplexRow xs a).length = xs.length := by simp [simplexRow, simplex]

theorem simplex_support_length : (simplex xs a).2.1.length ≤ xs.length := by
  have sub := (search_sublist (xs := xs) (a := a) (xs.length + 1) (List.range xs.length)).length_le
  rwa [List.length_range] at sub

theorem simplexRow_getD {i : Nat} (hi : i < xs.length) (short : xs.length ≤ 4096) : (simplexRow xs a).getD i 0 =
    if i ∈ (simplex xs a).2.1 then (above (xs.getD i 0) (simplex xs a).2.2).1 else 0 := by
  rw [List.getD_eq_getElem _ _ (by rwa [simplexRow_length])]
  simp only [simplexRow, simplex, List.getElem_map, List.getElem_range, maskFrom_map_range _ hi short, List.contains_iff_mem]
  exact apply_ite Prod.fst _ _ _

theorem isSimplex_simplex (short : xs.length ≤ 4096) :
    IsSimplex xs a xs.length (simplex xs a).2.1 (simplex xs a).2.2 (fun i => (simplexRow xs a).getD i 0) := by
  refine ⟨rfl, fun i x at_i mem => ?_, fun i hi out => ?_⟩
  · obtain ⟨hi, is⟩ := List.getElem?_eq_some_iff.mp at_i
    dsimp only
    rw [simplexRow_getD xs a hi short, if_pos mem, above_fst, List.getD_eq_getElem _ _ hi, is]
  · dsimp only
    rw [simplexRow_getD xs a hi short, if_neg out]

end

/-- The bits of a mask of positions. -/
theorem maskFrom_contains {n i : Nat} (S : List Nat) (hi : i < n) (short : n ≤ 4096) :
    (maskFrom ((List.range n).map (fun i => S.contains i))).getLsbD i = decide (i ∈ S) := by
  rw [maskFrom_map_range _ hi short, List.contains_eq_mem]

/-! ### Magnitudes -/

theorem units_abs (x : Lane) : units (x &&& 0x7FFFFFFF) = magOf x.toNat := by
  have positive : (x &&& 0x7FFFFFFF : Lane).msb = false := by
    rw [BitVec.msb_and]
    exact Bool.and_false _
  have low : (x &&& 0x7FFFFFFF : Lane).toNat = x.toNat % 2 ^ 31 := by
    rw [BitVec.toNat_and]
    exact Nat.and_two_pow_sub_one_eq_mod x.toNat 31
  rw [units, positive, if_neg Bool.false_ne_true, low, magOf_mod]

theorem units_mul_self (x : Lane) : units x * units x = ((magOf x.toNat * magOf x.toNat : Nat) : Int) := by
  rw [units]
  split_ifs <;> push_cast
  · exact neg_mul_neg _ _
  · rfl

theorem units_eq_zero_iff (x : Lane) : units x = 0 ↔ magOf x.toNat = 0 := by
  rw [units]
  split_ifs <;> omega

theorem norm1_eq (xs : List Lane) : norm1 xs = (xs.map fun x => units (x &&& 0x7FFFFFFF)).sum := by
  simp only [units_abs]
  rw [norm1, foldl_add_eq_sum, Int.zero_add]

theorem norm2_eq (xs : List Lane) : (norm2 xs : Int) = (xs.map fun x => units x * units x).sum := by
  have start (z : Nat) : ((xs.foldl (fun acc x => acc + magOf x.toNat * magOf x.toNat) z : Nat) : Int) = z + (xs.map fun x => units x * units x).sum := by
    induction xs generalizing z with
    | nil => simp
    | cons x xs ih => rw [List.foldl_cons, ih, List.map_cons, List.sum_cons, units_mul_self, Nat.cast_add, Int.add_assoc]
  rw [norm2, start, Nat.cast_zero, Int.zero_add]

end Sys2Proof.Machine.Pj
end

section
/-! PROOF. The pools of a monotone row (04 R110): what the merge keeps, and the outputs that the pools give. -/

namespace Sys2Proof.Machine.Pj

/-- The exact sum of a stretch of a row. -/
def segSum (xs : List Lane) (start count : Nat) : Int := (((xs.drop start).take count).map units).sum

/-- A pool is a stretch of a row with its sum. -/
def IsPool (xs : List Lane) (u : Pool) : Prop := 0 < u.count ∧ u.sum = segSum xs u.start u.count

/-- Two means in the order of the set: the first is no higher, or for the other direction no lower. -/
def InOrder (up : Bool) (u v : Pool) : Prop := if up then u.sum * v.count ≤ v.sum * u.count else v.sum * u.count ≤ u.sum * v.count

/-- A pool is followed by one that begins where it ends and is in order. -/
def Follows (up : Bool) (u v : Pool) : Prop := v.start = u.start + u.count ∧ InOrder up u v

/-- A stack of pools, the last first, that covers a row's first `m` elements, all in order. -/
def IsStack (up : Bool) (xs : List Lane) : Nat → List Pool → Prop
  | m, [] => m = 0
  | m, u :: st => IsPool xs u ∧ u.start + u.count = m ∧ (∀ w ∈ st.head?, InOrder up w u) ∧ IsStack up xs u.start st

section
variable {up : Bool} {xs : List Lane}

theorem segSum_add (start i j : Nat) : segSum xs start (i + j) = segSum xs start i + segSum xs (start + i) j := by
  rw [segSum, segSum, segSum, ← List.sum_append, ← List.map_append, List.take_add, List.drop_drop]

theorem isPool_single {i : Nat} (hi : i < xs.length) : IsPool xs ⟨i, units (xs.getD i 0), 1⟩ := by
  refine ⟨Nat.one_pos, ?_⟩
  rw [segSum, List.drop_eq_getElem_cons hi, List.getD_eq_getElem _ _ hi]
  exact (Int.add_zero _).symm

theorem isPool_merge {u v : Pool} (hu : IsPool xs u) (hv : IsPool xs v) (next : v.start = u.start + u.count) :
    IsPool xs ⟨u.start, u.sum + v.sum, u.count + v.count⟩ := by
  refine ⟨Nat.add_pos_left hu.1 _, ?_⟩
  simp only [segSum_add]
  rw [hu.2, hv.2, next]

theorem IsStack.follows {m : Nat} {u v : Pool} {st : List Pool} (stack : IsStack up xs m (v :: u :: st)) : Follows up u v := by
  obtain ⟨-, -, order, -, ends, -⟩ := stack
  exact ⟨ends.symm, order u rfl⟩

theorem IsStack.length_le {m : Nat} {st : List Pool} (stack : IsStack up xs m st) : st.length ≤ m := by
  induction st generalizing m with
  | nil => exact Nat.zero_le _
  | cons u st ih =>
    obtain ⟨⟨pos, -⟩, ends, -, below⟩ := stack
    have := ih below
    rw [List.length_cons]
    omega

/-! ### The merge -/

/-- Whether the merge takes a pool into the one before it. -/
theorem settle_cons (fuel : Nat) (v u : Pool) (st : List Pool) :
    (InOrder up u v ∧ settle up (fuel + 1) v (u :: st) = v :: u :: st)
    ∨ settle up (fuel + 1) v (u :: st) = settle up fuel ⟨u.start, u.sum + v.sum, u.count + v.count⟩ st := by
  by_cases order : InOrder up u v
  · refine .inl ⟨order, ?_⟩
    unfold InOrder at order
    cases up <;> simp_all [settle]
  · refine .inr ?_
    unfold InOrder at order
    cases up <;> simp_all [settle]

theorem isStack_settle {fuel m : Nat} {v : Pool} {st : List Pool} (enough : st.length < fuel) (pool : IsPool xs v) (ends : v.start + v.count = m)
    (stack : IsStack up xs v.start st) : IsStack up xs m (settle up fuel v st) := by
  induction fuel generalizing v st with
  | zero => omega
  | succ fuel ih =>
    cases st with
    | nil => exact ⟨pool, ends, by simp, stack⟩
    | cons u st =>
      rcases settle_cons (up := up) fuel v u st with ⟨order, stays⟩ | merges
      · rw [stays]
        exact ⟨pool, ends, fun w hw => by cases hw; exact order, stack⟩
      · rw [merges]
        obtain ⟨hu, next, -, below⟩ := stack
        refine ih (by simpa using enough) (isPool_merge hu pool next.symm) ?_ below
        dsimp only
        omega

theorem isStack_foldl {n : Nat} (le : n ≤ xs.length) :
    IsStack up xs n ((List.range n).foldl (fun st i => settle up (i + 1) ⟨i, units (xs.getD i 0), 1⟩ st) []) := by
  induction n with
  | zero => exact rfl
  | succ n ih =>
    have below := ih (by omega)
    rw [List.range_succ, List.foldl_append, List.foldl_cons, List.foldl_nil]
    exact isStack_settle (Nat.lt_succ_of_le below.length_le) (isPool_single (by omega)) rfl below

/-- The pools of a row, the last first, are such a stack. -/
theorem isStack_pools (up : Bool) (xs : List Lane) : IsStack up xs xs.length (pools up xs).reverse := by
  rw [pools, List.reverse_reverse]
  exact isStack_foldl (le_refl _)

/-! ### What the pools of a row are -/

section
variable {m : Nat} {st : List Pool} (stack : IsStack up xs m st)
include stack

theorem IsStack.isPool {u : Pool} (mem : u ∈ st) : IsPool xs u := by
  induction st generalizing m with
  | nil => cases mem
  | cons w st ih =>
    obtain ⟨pool, -, -, below⟩ := stack
    cases mem with
    | head => exact pool
    | tail _ mem => exact ih below mem

theorem IsStack.sum_counts : (st.map (·.count)).sum = m := by
  induction st generalizing m with
  | nil => exact stack.symm
  | cons u st ih =>
    obtain ⟨-, ends, -, below⟩ := stack
    rw [List.map_cons, List.sum_cons, ih below]
    omega

theorem IsStack.isChain : st.IsChain (fun v u => Follows up u v) := by
  induction st generalizing m with
  | nil => exact .nil
  | cons v st ih =>
    refine List.isChain_cons.mpr ⟨fun u hu => ?_, ih stack.2.2.2⟩
    cases st with
    | nil => cases hu
    | cons w st =>
      cases hu
      exact stack.follows

/-- One value for each position of each pool. -/
theorem IsStack.outputs {α : Type} (f : Pool → α) : (st.reverse.flatMap fun u => List.replicate u.count (f u)).length = m
    ∧ ∀ u ∈ st, ∀ i, u.start ≤ i → i < u.start + u.count → (st.reverse.flatMap fun u => List.replicate u.count (f u))[i]? = some (f u) := by
  induction st generalizing m with
  | nil => exact ⟨stack.symm, fun u hu => by cases hu⟩
  | cons w st ih =>
    obtain ⟨-, ends, -, below⟩ := stack
    obtain ⟨length, each⟩ := ih below
    have split : (w :: st).reverse.flatMap (fun u => List.replicate u.count (f u)) =
        (st.reverse.flatMap fun u => List.replicate u.count (f u)) ++ List.replicate w.count (f w) := by simp
    rw [split]
    refine ⟨by rw [List.length_append, length, List.length_replicate, ends], fun u mem i low high => ?_⟩
    cases mem with
    | head => rw [List.getElem?_append_right (by omega), length, List.getElem?_replicate, if_pos (by omega)]
    | tail _ mem =>
      have := each u mem i low high
      rwa [List.getElem?_append_left (List.getElem?_eq_some_iff.mp this).1]

end
end

section
variable (up : Bool) (xs : List Lane)

theorem pools_length_le : (pools up xs).length ≤ xs.length := by
  simpa using (isStack_pools up xs).length_le

theorem pools_sum_counts : ((pools up xs).map (·.count)).sum = xs.length := by
  have total := (isStack_pools up xs).sum_counts
  rwa [List.map_reverse, List.sum_reverse] at total

theorem pools_isPool {u : Pool} (mem : u ∈ pools up xs) : IsPool xs u := (isStack_pools up xs).isPool (List.mem_reverse.mpr mem)

theorem pools_follow {j : Nat} {u v : Pool} (at_j : (pools up xs)[j]? = some u) (next : (pools up xs)[j + 1]? = some v) : Follows up u v := by
  obtain ⟨_, rfl⟩ := List.getElem?_eq_some_iff.mp at_j
  obtain ⟨hj, rfl⟩ := List.getElem?_eq_some_iff.mp next
  exact (List.isChain_reverse.mp (isStack_pools up xs).isChain).getElem j hj

theorem pools_outputs {α : Type} (f : Pool → α) : ((pools up xs).flatMap fun u => List.replicate u.count (f u)).length = xs.length
    ∧ ∀ u ∈ pools up xs, ∀ i, u.start ≤ i → i < u.start + u.count → ((pools up xs).flatMap fun u => List.replicate u.count (f u))[i]? = some (f u) := by
  have outputs := (isStack_pools up xs).outputs f
  rw [List.reverse_reverse] at outputs
  exact ⟨outputs.1, fun u mem => outputs.2 u (List.mem_reverse.mpr mem)⟩

end

end Sys2Proof.Machine.Pj
end

section
/-! PROOF. What a projection gives for each set (04 R105 to R110). -/

namespace Sys2Proof.Machine.Pj

section
variable {tag : Tag} {psel : BitVec 3} {a b : Lane} {xs : List Lane}

/-! ### Every row -/

/-- What a record says of its row, whatever the set. -/
def RecordOf (tag : Tag) (psel : BitVec 3) (a : Lane) (n : Nat) (r : Result) : Prop :=
  r.sup.valid = true ∧ r.sup.tag = tag ∧ r.sup.psel = psel ∧ r.sup.param = a ∧ r.sup.len.toNat = n ∧ r.sup.size.toNat = r.size ∧ r.p.length = n

/-- The selectors, and for each whether the row has a projection. -/
theorem selector_cases (psel : BitVec 3) (a b : Lane) (xs : List Lane) :
    (Bulk psel ∧ ¬Good psel a b xs ∨ valid psel a b = false) ∨ (psel = 1 ∨ psel = 2 ∨ psel = 3 ∨ psel = 5 ∨ psel = 6) ∧ Good psel a b xs
    ∨ (psel = 0 ∨ psel = 4 ∨ psel = 7) ∧ valid psel a b = true := by
  have each : (psel = 1 ∨ psel = 2 ∨ psel = 3 ∨ psel = 5 ∨ psel = 6) ∨ psel = 0 ∨ psel = 4 ∨ psel = 7 := by decide +revert
  by_cases good : Good psel a b xs
  · exact .inr (each.imp (fun bulk => ⟨bulk, good⟩) (fun single => ⟨single, good.1⟩))
  · by_cases isValid : valid psel a b = true
    · rcases each with bulk | single
      · exact .inl (.inl ⟨by simpa [Bulk] using bulk, good⟩)
      · exact .inr (.inr ⟨single, isValid⟩)
    · exact .inl (.inr (by simpa using isValid))

variable (short : xs.length ≤ 4096)
include short

theorem recordOf_project : RecordOf tag psel a xs.length (project tag psel a b xs) := by
  have len := toNat_ofNat13 short
  have simplexSize (ys : List Lane) (same : ys.length = xs.length) : (BitVec.ofNat 13 (simplex ys a).2.1.length).toNat = (simplex ys a).2.1.length :=
    toNat_ofNat13 ((simplex_support_length ys a).trans (same.trans_le short))
  rcases selector_cases psel a b xs with bad | ⟨rfl | rfl | rfl | monotone, good⟩ | ⟨single, isValid⟩
  · rw [project_bad bad]
    exact ⟨rfl, rfl, rfl, rfl, len, rfl, List.length_map _⟩
  · rw [project_simplex good]
    exact ⟨rfl, rfl, rfl, rfl, len, simplexSize xs rfl, simplexRow_length xs a⟩
  · rw [project_l1 good]
    dsimp only
    split_ifs
    · exact ⟨rfl, rfl, rfl, rfl, len, len, rfl⟩
    · exact ⟨rfl, rfl, rfl, rfl, len, rfl, List.length_map _⟩
    · refine ⟨rfl, rfl, rfl, rfl, len, simplexSize _ (List.length_map _), ?_⟩
      have length := simplexRow_length (xs.map (fun x => x &&& 0x7FFFFFFF)) a
      rw [simplexRow, List.length_map, List.length_map] at length
      rw [List.length_zipWith, length, Nat.min_self]
  · rw [project_l2 good]
    dsimp only
    split_ifs
    · exact ⟨rfl, rfl, rfl, rfl, len, rfl, rfl⟩
    · exact ⟨rfl, rfl, rfl, rfl, len, rfl, by rw [List.length_map, List.length_map]⟩
  · rw [project_pools monotone good]
    exact ⟨rfl, rfl, rfl, rfl, len, toNat_ofNat13 ((pools_length_le _ xs).trans short), by rw [List.length_map]; exact (pools_outputs _ xs _).1⟩
  · rw [project_element single isValid]
    refine ⟨rfl, rfl, rfl, rfl, len, toNat_ofNat13 (((List.length_filter_le _ _).trans_eq (List.length_map _)).trans short), ?_⟩
    exact (List.length_map _).trans (List.length_map _)

omit short in
theorem project_of_bad (bad : Bulk psel ∧ ¬Good psel a b xs ∨ psel = 4 ∧ valid psel a b = false) :
    (∀ x ∈ (project tag psel a b xs).p, x = nan) ∧ (project tag psel a b xs).size = 0 ∧ (project tag psel a b xs).sup.mask = 0
    ∧ (project tag psel a b xs).sup.aux = 0 ∧ (project tag psel a b xs).sup.scalar = nan := by
  rw [project_bad (bad.imp_right And.right)]
  refine ⟨fun x mem => ?_, rfl, rfl, rfl, rfl⟩
  obtain ⟨_, -, rfl⟩ := List.mem_map.mp mem
  rfl

/-! ### The simplex and the L1 ball (R106, R107) -/

theorem project_simplex_spec (good : Good 1 a b xs) :
    ∃ S, IsSimplex xs a xs.length S (project tag 1 a b xs).sup.scalar (fun i => (project tag 1 a b xs).p.getD i 0) ∧ (project tag 1 a b xs).size = S.length
      ∧ (project tag 1 a b xs).sup.inside = false ∧ ∀ i, i < xs.length → (project tag 1 a b xs).sup.mask.getLsbD i = decide (i ∈ S) := by
  rw [project_simplex good]
  exact ⟨_, isSimplex_simplex xs a short, rfl, rfl, fun i hi => maskFrom_contains _ hi short⟩

omit short in
theorem project_l1_inside (good : Good 2 a b xs) (inside : (xs.map fun x => units (x &&& 0x7FFFFFFF)).sum ≤ units a) :
    project tag 2 a b xs = { p := xs, size := xs.length, sup := { base tag 2 a xs.length with inside := true } } := by
  rw [project_l1 good]
  exact if_pos (by rwa [norm1_eq])

section
variable (good : Good 2 a b xs) (outside : units a < (xs.map fun x => units (x &&& 0x7FFFFFFF)).sum)
include good outside

theorem project_l1_outside : (project tag 2 a b xs).sup.inside = false ∧ ∀ i x, xs[i]? = some x → (project tag 2 a b xs).sup.aux.getLsbD i = x.msb := by
  have signs {i : Nat} {x : Lane} (at_i : xs[i]? = some x) : (maskFrom (xs.map (fun x => x.msb))).getLsbD i = x.msb := by
    rw [maskFrom_getLsbD i (by rwa [List.length_map]), List.getD_eq_getElem?_getD, List.getElem?_map, at_i]
    rfl
  rw [← norm1_eq] at outside
  rw [project_l1 good]
  dsimp only
  rw [if_neg (not_le.mpr outside)]
  split_ifs
  · exact ⟨rfl, fun i x => signs⟩
  · exact ⟨rfl, fun i x => signs⟩

omit short in
theorem project_l1_zero (zero : units a = 0) :
    (project tag 2 a b xs).p = xs.map (fun x => 0 ||| (x &&& 0x80000000)) ∧ (project tag 2 a b xs).size = 0 ∧ (project tag 2 a b xs).sup.mask = 0
    ∧ (project tag 2 a b xs).sup.scalar = 0x7F800000 := by
  rw [← norm1_eq] at outside
  rw [project_l1 good]
  dsimp only
  rw [if_neg (not_le.mpr outside), if_pos (by rw [zero]; rfl)]
  refine ⟨?_, rfl, rfl, rfl⟩
  exact List.map_congr_left fun x _ => (BitVec.zero_or (x := x &&& 0x80000000)).symm

theorem project_l1_simplex (nonzero : units a ≠ 0) :
    ∃ (S : List Nat) (out : Nat → Lane), IsSimplex (xs.map (fun x => x &&& 0x7FFFFFFF)) a xs.length S (project tag 2 a b xs).sup.scalar out
      ∧ (project tag 2 a b xs).size = S.length ∧ (∀ i, i < xs.length → (project tag 2 a b xs).sup.mask.getLsbD i = decide (i ∈ S))
      ∧ ∀ i x, xs[i]? = some x → (project tag 2 a b xs).p[i]? = some (out i ||| (x &&& 0x80000000)) := by
  have isSimplex := isSimplex_simplex (xs.map (fun x => x &&& 0x7FFFFFFF)) a (by rwa [List.length_map])
  have length := simplexRow_length (xs.map (fun x => x &&& 0x7FFFFFFF)) a
  rw [List.length_map] at isSimplex length
  rw [← norm1_eq] at outside
  rw [project_l1 good]
  dsimp only
  rw [if_neg (not_le.mpr outside), if_neg (by simpa using nonzero)]
  refine ⟨_, _, isSimplex, rfl, fun i hi => maskFrom_contains _ hi short, fun i x at_i => ?_⟩
  have hi : i < xs.length := (List.getElem?_eq_some_iff.mp at_i).1
  have row : (simplex (xs.map (fun x => x &&& 0x7FFFFFFF)) a).1.map Prod.fst = simplexRow (xs.map (fun x => x &&& 0x7FFFFFFF)) a := rfl
  rw [List.getD_eq_getElem _ _ (by rwa [length])]
  simp only [simplexRow, List.getElem_map]
  rw [List.getElem?_zipWith, at_i, List.getElem?_eq_getElem (by rw [← row, List.length_map] at length; rwa [length])]

end

/-! ### The L2 ball (R108) -/

section
variable (good : Good 3 a b xs)
include good

omit short good in
theorem norm2_le_iff : norm2 xs ≤ magOf a.toNat * magOf a.toNat ↔ (xs.map fun x => units x * units x).sum ≤ units a * units a := by
  rw [units_mul_self, ← norm2_eq]
  exact Nat.cast_le.symm

theorem project_l2_mask : (project tag 3 a b xs).sup.mask.toNat = 2 ^ xs.length - 1 := by
  rw [project_l2 good]
  dsimp only
  split_ifs
  · exact maskAll_toNat short
  · exact maskAll_toNat short

omit short in
theorem project_l2_inside (inside : (xs.map fun x => units x * units x).sum ≤ units a * units a) :
    (project tag 3 a b xs).p = xs ∧ (project tag 3 a b xs).size = 0 ∧ (project tag 3 a b xs).sup.inside = true ∧ (project tag 3 a b xs).sup.scalar = 0x3F800000 := by
  rw [project_l2 good]
  dsimp only
  rw [if_pos ((norm2_le_iff).mpr inside)]
  exact ⟨rfl, rfl, rfl, rfl⟩

omit short in
theorem project_l2_outside (outside : units a * units a < (xs.map fun x => units x * units x).sum) :
    (project tag 3 a b xs).size = 1 ∧ (project tag 3 a b xs).sup.inside = false
    ∧ (project tag 3 a b xs).sup.scalar =
        BitVec.ofNat 32 (Fp.roundSqrt Fp.f32 .rn (units a * units a).toNat (xs.map fun x => units x * units x).sum.toNat).bits
    ∧ ∀ (i : Nat) (x : Lane), xs[i]? = some x →
        (project tag 3 a b xs).p[i]? = some (BitVec.ofNat 32 (Fp.mul Fp.f32 .rn x.toNat (project tag 3 a b xs).sup.scalar.toNat).bits) := by
  have notInside : ¬norm2 xs ≤ magOf a.toNat * magOf a.toNat := mt (norm2_le_iff).mp (not_le.mpr outside)
  rw [project_l2 good, units_mul_self, ← norm2_eq, Int.toNat_natCast, Int.toNat_natCast]
  dsimp only
  rw [if_neg notInside]
  refine ⟨rfl, rfl, rfl, fun i x at_i => ?_⟩
  rw [List.getElem?_map, List.getElem?_map, at_i]
  rfl

end

/-! ### Monotone rows (R110) -/

theorem project_pools_spec (monotone : psel = 5 ∨ psel = 6) (good : Good psel a b xs) :
    (project tag psel a b xs).size = (pools (psel == 5) xs).length ∧ (project tag psel a b xs).sup.mask.toNat = 2 ^ xs.length - 1
    ∧ (∀ i, i < xs.length → (project tag psel a b xs).sup.aux.getLsbD i = (pools (psel == 5) xs).any (fun u => u.start == i))
    ∧ ∀ u ∈ pools (psel == 5) xs, ∀ i, u.start ≤ i → i < u.start + u.count → (project tag psel a b xs).p[i]? = some (quot u.sum (u.count * 2 ^ 149)) := by
  rw [project_pools monotone good]
  refine ⟨rfl, maskAll_toNat short, fun i hi => maskFrom_map_range _ hi short, fun u mem i low high => ?_⟩
  rw [List.getElem?_map, (pools_outputs (psel == 5) xs _).2 u mem i low high]
  rfl

end

end Sys2Proof.Machine.Pj
end

section
/-! PROOF. The outputs of adjoint rows (04 R113). -/

namespace Sys2Proof.Machine.Pj

/-- The value of a pattern. -/
abbrev value (x : Lane) : Fp.Val := Fp.f32.read x.toNat

/-- Whether a quotient's operands held a NaN changes what is counted for it, never its pattern. -/
theorem divR_bits (anyNan : Bool) (v : Fp.Val) (num den : Nat) : BitVec.ofNat 32 (divR anyNan v num den).bits = divV v num den := by
  cases v <;> rfl

/-! ### The equations of an adjoint -/

section
variable {r : Support} {vs ps : List Lane} (number : r.scalar ≠ 0x7FC00000)
include number

theorem scalar_ne_nan : ¬r.scalar = 0x7FC00000#32 := number

theorem adjoint_same (same : r.psel = 0 ∨ (r.psel = 2 ∨ r.psel = 3) ∧ r.inside = true) : (adjoint r vs ps).1 = vs := by
  simp only [adjoint, beq_iff_eq, Bool.or_eq_true, Bool.and_eq_true]
  rw [if_neg number, if_pos same]

theorem adjoint_masked (each : r.psel = 4 ∨ r.psel = 7) {i : Nat} {v : Lane} (at_i : vs[i]? = some v) :
    (adjoint r vs ps).1[i]? = some (if r.mask.getLsbD i then v else 0) := by
  obtain ⟨hi, is⟩ := List.getElem?_eq_some_iff.mp at_i
  have getD : vs.getD i 0 = v := by rw [List.getD_eq_getElem _ _ hi, is]
  have row : (adjoint r vs ps).1 = (List.range vs.length).map (fun i => if r.mask.getLsbD i then vs.getD i 0 else 0) := by
    rcases each with psel | psel <;> simp [adjoint, scalar_ne_nan number, psel]
  rw [row, List.getElem?_map, List.getElem?_range hi, Option.map_some, getD]

theorem adjoint_pools (monotone : r.psel = 5 ∨ r.psel = 6) :
    (adjoint r vs ps).1 = (poolMeans ((List.range vs.length).map (fun i => r.aux.getLsbD i)) vs).map (fun x => BitVec.ofNat 32 x.bits) := by
  rcases monotone with psel | psel <;> simp [adjoint, scalar_ne_nan number, psel]

/-! ### An L2 row outside the ball -/

section
variable (l2 : r.psel = 3) (outside : r.inside = false)
include l2 outside

theorem adjoint_l2_zero (zero : units r.param = 0) {i : Nat} (hi : i < vs.length) : (adjoint r vs ps).1[i]? = some 0 := by
  have row : (adjoint r vs ps).1 = vs.map (fun _ => 0) := by simp [adjoint, scalar_ne_nan number, l2, outside, (units_eq_zero_iff _).mp zero]
  rw [row, List.getElem?_map, List.getElem?_eq_getElem hi]
  rfl

/-- The quotient by the squared radius that an L2 row outside the ball takes its p elements with. -/
def l2Factor (r : Support) (vs ps : List Lane) : Lane :=
  divV (sumV (List.zipWith (fun p v => (Fp.mulV (value p) (value v)).getD .nan) ps vs)) (units r.param * units r.param).toNat (2 ^ 298)

theorem adjoint_l2 (nonzero : units r.param ≠ 0) {i : Nat} {p v : Lane} (at_p : ps[i]? = some p) (at_v : vs[i]? = some v) :
    (adjoint r vs ps).1[i]? = some (BitVec.ofNat 32 (scaled r.scalar v p (l2Factor r vs ps)).bits) := by
  have others : ¬(r.psel = 0 ∨ (r.psel = 2 ∨ r.psel = 3) ∧ r.inside = true) ∧ ¬(r.psel = 4 ∨ r.psel = 7) ∧ ¬(r.psel = 5 ∨ r.psel = 6) := by simp [l2, outside]
  obtain ⟨notSame, notMasked, notPools⟩ := others
  simp only [adjoint, beq_iff_eq, Bool.or_eq_true, Bool.and_eq_true]
  rw [if_neg number, if_neg notSame, if_neg notMasked, if_neg notPools, if_pos l2, if_neg (mt (units_eq_zero_iff _).mpr nonzero)]
  rw [List.getElem?_map, List.getElem?_zipWith, at_p, at_v, l2Factor, units_mul_self, Int.toNat_natCast]
  rfl

end

/-! ### Rows of the simplex, and L1 rows outside the ball -/

section
variable (threshold : r.psel = 1 ∨ r.psel = 2 ∧ r.inside = false)
include threshold

theorem adjoint_support_empty (empty : (List.range vs.length).filter (fun i => r.mask.getLsbD i) = []) {i : Nat} (hi : i < vs.length) :
    (adjoint r vs ps).1[i]? = some 0 := by
  have row : (adjoint r vs ps).1 = vs.map (fun _ => 0) := by
    rcases threshold with psel | ⟨psel, outside⟩
    · simp [adjoint, scalar_ne_nan number, psel, empty]
    · simp [adjoint, scalar_ne_nan number, psel, outside, empty]
  rw [row, List.getElem?_map, List.getElem?_eq_getElem hi]
  rfl

/-- The mean of a support's elements, those with a minus sign negated. -/
def supportMean (vs : List Lane) (S : List Nat) (sg : Nat → Bool) : Lane :=
  divV (sumV (S.map fun i => if sg i then (value (vs.getD i 0)).neg else value (vs.getD i 0))) S.length 1

theorem adjoint_support {S : List Nat} (isSupport : S = (List.range vs.length).filter (fun i => r.mask.getLsbD i)) (nonempty : S ≠ []) {sg : Nat → Bool}
    (minus : ∀ i, sg i = true ↔ r.psel = 2 ∧ r.aux.getLsbD i = true) {i : Nat} {v : Lane} (at_i : vs[i]? = some v) :
    (adjoint r vs ps).1[i]? = some (if r.mask.getLsbD i then
      BitVec.ofNat 32 (if sg i then Fp.add Fp.f32 .rn v.toNat (supportMean vs S sg).toNat else Fp.sub Fp.f32 .rn v.toNat (supportMean vs S sg).toNat).bits else 0) := by
  obtain ⟨hi, is⟩ := List.getElem?_eq_some_iff.mp at_i
  have getD : vs.getD i 0 = v := by rw [List.getD_eq_getElem _ _ hi, is]
  have signs : sg = fun i => r.psel == 2 && r.aux.getLsbD i := by
    funext i
    rw [Bool.eq_iff_iff, minus]
    simp
  subst isSupport signs
  have others : ¬(r.psel = 0 ∨ (r.psel = 2 ∨ r.psel = 3) ∧ r.inside = true) ∧ ¬(r.psel = 4 ∨ r.psel = 7) ∧ ¬(r.psel = 5 ∨ r.psel = 6) ∧ ¬r.psel = 3 := by
    rcases threshold with psel | ⟨psel, outside⟩
    · simp [psel]
    · simp [psel, outside]
  obtain ⟨notSame, notMasked, notPools, notL2⟩ := others
  simp only [adjoint, beq_iff_eq, Bool.or_eq_true, Bool.and_eq_true, List.isEmpty_iff]
  rw [if_neg number, if_neg notSame, if_neg notMasked, if_neg notPools, if_neg notL2, if_neg nonempty]
  rw [List.getElem?_map, List.getElem?_map, List.getElem?_range hi, Option.map_some, Option.map_some, apply_ite Prod.fst, getD]
  simp only [supportMean, value, Bool.and_eq_true, beq_iff_eq]

end
end

end Sys2Proof.Machine.Pj
end

section
/-! PROOF. The outputs of an adjoint row of a monotone set: the mean of each stretch between starts (04 R113). -/

namespace Sys2Proof.Machine.Pj

/-- One more element of a row: at a start, and in an empty row, it begins a group, and else it joins the last one. -/
def groupStep (starts : List Bool) (vs : List Lane) (acc : List (List Lane)) (i : Nat) : List (List Lane) :=
  if starts.getD i false || acc.isEmpty then [vs.getD i 0] :: acc
  else match acc with
    | h :: t => (vs.getD i 0 :: h) :: t
    | [] => [[vs.getD i 0]]

/-- The groups of a row's first `m` elements, the last group and its last element first. -/
def groups (starts : List Bool) (vs : List Lane) (m : Nat) : List (List Lane) := (List.range m).foldl (groupStep starts vs) []

/-- The mean of a group. -/
def groupMean (g : List Lane) : Fp.Res := divR (g.any isNan) (sumV (g.map value)) g.length 1

theorem poolMeans_eq (starts : List Bool) (vs : List Lane) :
    poolMeans starts vs = (groups starts vs vs.length).reverse.flatMap fun g => List.replicate g.length (groupMean g) := rfl

section
variable {starts : List Bool} {vs : List Lane}

theorem groups_succ (m : Nat) : groups starts vs (m + 1) = groupStep starts vs (groups starts vs m) m := by
  rw [groups, List.range_succ, List.foldl_append]
  rfl

theorem groupStep_start {i : Nat} (start : starts.getD i false = true) (acc : List (List Lane)) : groupStep starts vs acc i = [vs.getD i 0] :: acc :=
  if_pos (by rw [start]; rfl)

theorem groupStep_nil (i : Nat) : groupStep starts vs [] i = [[vs.getD i 0]] := if_pos (Bool.or_true _)

theorem groupStep_joins {i : Nat} (inside : starts.getD i false = false) (g : List Lane) (acc : List (List Lane)) :
    groupStep starts vs (g :: acc) i = (vs.getD i 0 :: g) :: acc := if_neg (by rw [inside]; exact Bool.false_ne_true)

/-- The groups hold the row's elements in reverse order. -/
theorem groups_flatten {m : Nat} (le : m ≤ vs.length) : (groups starts vs m).flatten = (vs.take m).reverse := by
  induction m with
  | zero => rfl
  | succ m ih =>
    have before := ih (by omega)
    have last : (vs.take (m + 1)).reverse = vs.getD m 0 :: (vs.take m).reverse := by
      rw [List.take_add_one, List.getElem?_eq_getElem (by omega), List.getD_eq_getElem _ _ (by omega), List.reverse_append]
      rfl
    rw [groups_succ, last, ← before]
    by_cases start : starts.getD m false = true
    · rw [groupStep_start start]
      rfl
    · cases groups starts vs m with
      | nil => rw [groupStep_nil]; rfl
      | cons g acc => rw [groupStep_joins (by simpa using start)]; rfl

/-- From a start until the next one, the elements are a group. -/
theorem groups_stretch {lo n : Nat} (start : lo = 0 ∨ starts.getD lo false = true) (inside : ∀ j, lo < j → j < lo + (n + 1) → starts.getD j false = false)
    (le : lo + (n + 1) ≤ vs.length) : groups starts vs (lo + (n + 1)) = ((vs.drop lo).take (n + 1)).reverse :: groups starts vs lo := by
  induction n with
  | zero =>
    have single : ((vs.drop lo).take (0 + 1)).reverse = [vs.getD lo 0] := by
      rw [List.drop_eq_getElem_cons (by omega), List.getD_eq_getElem _ _ (by omega)]
      rfl
    rw [single]
    refine (groups_succ lo).trans ?_
    rcases start with rfl | start
    · exact groupStep_nil 0
    · exact groupStep_start start _
  | succ n ih =>
    have before := ih (fun j low high => inside j low (by omega)) (by omega)
    have last : ((vs.drop lo).take (n + 1 + 1)).reverse = vs.getD (lo + (n + 1)) 0 :: ((vs.drop lo).take (n + 1)).reverse := by
      rw [List.take_add_one, List.getElem?_drop, List.getElem?_eq_getElem (by omega), List.getD_eq_getElem _ _ (by omega), List.reverse_append]
      rfl
    rw [last]
    refine (groups_succ (lo + (n + 1))).trans ?_
    rw [before]
    exact groupStep_joins (inside _ (by omega) (by omega)) _ _

/-- After a start no group before it changes. -/
theorem groups_after {hi : Nat} (start : starts.getD hi false = true) (n : Nat) :
    ∃ g later, groups starts vs (hi + (n + 1)) = g :: later ++ groups starts vs hi := by
  induction n with
  | zero => exact ⟨_, [], (groups_succ hi).trans (groupStep_start start _)⟩
  | succ n ih =>
    obtain ⟨g, later, before⟩ := ih
    have next := groups_succ (starts := starts) (vs := vs) (hi + (n + 1))
    rw [before] at next
    by_cases begins : starts.getD (hi + (n + 1)) false = true
    · exact ⟨_, g :: later, next.trans (groupStep_start begins _)⟩
    · exact ⟨_, later, next.trans (groupStep_joins (by simpa using begins) _ _)⟩

/-- A stretch between starts is one of the row's groups, after those of the elements before it. -/
theorem groups_between {lo hi : Nat} (lt : lo < hi) (le : hi ≤ vs.length) (start : lo = 0 ∨ starts.getD lo false = true)
    (ends : hi = vs.length ∨ starts.getD hi false = true) (inside : ∀ j, lo < j → j < hi → starts.getD j false = false) :
    ∃ later, groups starts vs vs.length = later ++ ((vs.drop lo).take (hi - lo)).reverse :: groups starts vs lo := by
  obtain ⟨n, rfl⟩ := Nat.exists_eq_add_of_lt lt
  have stretch : groups starts vs (lo + n + 1) = ((vs.drop lo).take (lo + n + 1 - lo)).reverse :: groups starts vs lo := by
    rw [show lo + n + 1 - lo = n + 1 by omega]
    exact groups_stretch start inside le
  rw [← stretch]
  rcases ends with isEnd | next
  · exact ⟨[], by rw [isEnd]; rfl⟩
  · rcases Nat.eq_or_lt_of_le le with isEnd | more
    · exact ⟨[], by rw [isEnd]; rfl⟩
    · obtain ⟨m, isLength⟩ := Nat.exists_eq_add_of_lt more
      obtain ⟨g, later, is⟩ := groups_after (vs := vs) next m
      exact ⟨g :: later, by rw [isLength]; exact is⟩

theorem flatMap_replicate_length {α β : Type} (f : List α → β) (gs : List (List α)) :
    (gs.reverse.flatMap fun g => List.replicate g.length (f g)).length = gs.flatten.length := by
  induction gs with
  | nil => rfl
  | cons g gs ih =>
    rw [List.reverse_cons, List.flatMap_append, List.length_append, ih, List.flatten_cons, List.length_append, Nat.add_comm]
    simp

/-- The mean of a stretch between starts stands at each of its positions. -/
theorem poolMeans_between {lo hi : Nat} (lt : lo < hi) (le : hi ≤ vs.length) (start : lo = 0 ∨ starts.getD lo false = true)
    (ends : hi = vs.length ∨ starts.getD hi false = true) (inside : ∀ j, lo < j → j < hi → starts.getD j false = false) {i : Nat} (low : lo ≤ i) (high : i < hi) :
    (poolMeans starts vs)[i]? = some (groupMean ((vs.drop lo).take (hi - lo)).reverse) := by
  obtain ⟨later, split⟩ := groups_between lt le start ends inside
  have before : ((groups starts vs lo).reverse.flatMap fun g => List.replicate g.length (groupMean g)).length = lo := by
    rw [flatMap_replicate_length, groups_flatten (by omega), List.length_reverse, List.length_take, Nat.min_eq_left (by omega)]
  have length : ((vs.drop lo).take (hi - lo)).reverse.length = hi - lo := by
    rw [List.length_reverse, List.length_take, List.length_drop, Nat.min_eq_left (by omega)]
  rw [poolMeans_eq, split, List.reverse_append, List.reverse_cons, List.flatMap_append, List.flatMap_append,
    List.getElem?_append_left (by rw [List.length_append, before]; simp [length]; omega), List.getElem?_append_right (by rw [before]; exact low), before]
  rw [List.flatMap_cons, List.flatMap_nil, List.append_nil, List.getElem?_replicate, length, if_pos (by omega)]

end

theorem adjoint_pools_between {r : Support} {vs ps : List Lane} (number : r.scalar ≠ 0x7FC00000) (monotone : r.psel = 5 ∨ r.psel = 6) {lo hi : Nat}
    (lt : lo < hi) (le : hi ≤ vs.length) (start : lo = 0 ∨ r.aux.getLsbD lo = true) (ends : hi = vs.length ∨ r.aux.getLsbD hi = true)
    (inside : ∀ j, lo < j → j < hi → r.aux.getLsbD j = false) :
    ∃ seg : List Lane, seg.Perm ((vs.drop lo).take (hi - lo))
      ∧ ∀ i, lo ≤ i → i < hi → (adjoint r vs ps).1[i]? = some (divV (sumV (seg.map value)) (hi - lo) 1) := by
  have flag {j : Nat} (hj : j < vs.length) : ((List.range vs.length).map (fun i => r.aux.getLsbD i)).getD j false = r.aux.getLsbD j := by
    rw [List.getD_eq_getElem _ _ (by simpa using hj), List.getElem_map, List.getElem_range]
  refine ⟨_, List.reverse_perm _, fun i low high => ?_⟩
  have ends' : hi = vs.length ∨ ((List.range vs.length).map (fun i => r.aux.getLsbD i)).getD hi false = true := by
    rcases Nat.eq_or_lt_of_le le with isEnd | more
    · exact .inl isEnd
    · exact ends.imp_right fun isStart => (flag more).trans isStart
  rw [adjoint_pools number monotone, List.getElem?_map, poolMeans_between lt le (start.imp_right fun isStart => (flag (by omega)).trans isStart) ends'
    (fun j low high => (flag (by omega)).trans (inside j low high)) low high, Option.map_some, groupMean, divR_bits]
  rw [List.length_reverse, List.length_take, List.length_drop, Nat.min_eq_left (by omega)]

end Sys2Proof.Machine.Pj
end

section
/-! PROOF. O32: tokens of rows, the steps that process them, and what the sets and the adjoints give. -/

namespace Sys2Proof.Machine

/-- Settles O32: the tokens by the place that takes them, the rows by `pjNext_begins`, the sets and the adjoints by their equations in `Pj`. -/
theorem projectionRowsAndResults : Obligations.ProjectionRowsAndResults := by
  unfold Obligations.ProjectionRowsAndResults
  refine ⟨fun s k x sel => ?_, fun s k x => ?_, fun s k q rest p => ?_, fun tag psel a b xs fits => ?_, fun xs a m S => ?_, fun r vs ps number same => ?_⟩
  case refine_1 =>
    intro t u q mine fills fresh focus there kind runs going data brings
    have unit : UnitAt s k .vx := ⟨focus, there, kind, runs⟩
    refine ⟨fun here => ?_, fun here free => ?_⟩
    · exact ⟨fun p takes => pjIn_data_takes unit going here data brings takes,
        fun p place assembling clash => pjIn_data_clashes unit going here data brings place assembling clash,
        fun p place complete => pjIn_data_waits unit going here data brings place complete,
        fun free unnamed => pjIn_data_unnamed unit going here data brings free unnamed⟩
    · intro r
      refine ⟨fun missing => pjAdj_noRecord unit going here data brings free missing, fun valid tag one => pjAdj_first unit going here data brings free valid tag one,
        fun valid tag two => ?_⟩
      intro np q2
      refine ⟨fun single => pjAdj_noRoom unit going here data brings free valid tag two single,
        fun several room => pjAdj_firstOfTwo unit going here data brings free valid tag two several room, fun y several taken => ?_⟩
      have run := pjAdj_secondTaken unit going here data brings free valid tag two several taken
      exact ⟨fun complete => run.trans (if_pos complete), fun assembling => run.trans (if_neg (by rw [assembling]; exact Bool.false_ne_true))⟩
  case refine_2 =>
    intro t u q sel focus there kind runs going here control unnamed
    have unit : UnitAt s k .vx := ⟨focus, there, kind, runs⟩
    exact ⟨fun p takes => pjIn_selector_takes unit going here control unnamed takes,
      fun p place assembling clash => pjIn_selector_clashes unit going here control unnamed place assembling clash,
      fun p place complete => pjIn_selector_waits unit going here control unnamed place complete⟩
  case refine_3 =>
    intro t u row isRow focus there kind runs going idle turn place noParams noHeld
    have begins : MayBegin s k q rest p := ⟨⟨focus, there, kind, runs⟩, going, idle, turn, place, noParams, noHeld⟩
    refine ⟨fun isProjection => execPjProject_begins begins isProjection, fun isAdjoint => execPjAdjoint_begins begins isAdjoint, fun tag a b xs i x at_i => ?_,
      fun r vs ps i v at_i number => ?_⟩
    · refine ⟨Pj.project_element_getElem? (.inl rfl) rfl at_i, fun isNumber => ?_, fun isNumber isValid => ?_⟩
      · rw [Pj.project_element_getElem? (.inr (.inr rfl)) rfl at_i, Pj.element_positive isNumber]
      · rw [Pj.project_element_getElem? (.inr (.inl rfl)) isValid at_i, Pj.element_box isNumber]
    · exact ⟨fun same => by rw [Pj.adjoint_same number (.inl same), at_i], fun masked => Pj.adjoint_masked number masked at_i⟩
  case refine_4 =>
    intro n r bulk good abs signed simplex
    obtain ⟨isValid, isTag, isSel, isParam, len, size, length⟩ := Pj.recordOf_project (tag := tag) (psel := psel) (a := a) (b := b) fits
    refine ⟨isValid, isTag, isSel, isParam, len, size, length, Pj.project_of_bad, ?_, ?_, ?_, fun monotone isGood => ?_⟩
    · rintro rfl isGood
      exact Pj.project_simplex_spec fits isGood
    · rintro rfl isGood
      refine ⟨fun inside => ?_, Pj.project_l1_outside fits isGood, Pj.project_l1_zero isGood, Pj.project_l1_simplex fits isGood⟩
      have is : r = _ := Pj.project_l1_inside isGood inside
      rw [is]
      exact ⟨rfl, rfl, rfl, Pj.maskAll_toNat fits, rfl, rfl⟩
    · rintro rfl isGood
      exact ⟨Pj.project_l2_mask fits isGood, Pj.project_l2_inside isGood, Pj.project_l2_outside isGood⟩
    · obtain ⟨count, mask, starts, outputs⟩ := Pj.project_pools_spec (tag := tag) fits monotone isGood
      refine ⟨count, mask, starts, Pj.pools_sum_counts _ xs, fun u mem => Pj.pools_isPool _ xs mem, fun j u v at_j next => ?_, outputs⟩
      obtain ⟨adjacent, order⟩ := Pj.pools_follow _ xs at_j next
      refine ⟨adjacent, ?_, ?_⟩
      · rintro rfl
        exact order
      · rintro rfl
        exact order
  case refine_5 =>
    exact ⟨Pj.search_stops m, Pj.search_narrows m, Pj.search_fuel⟩
  case refine_6 =>
    intro n out val S minus
    refine ⟨fun l inside => Pj.adjoint_same number (.inr ⟨l, inside⟩),
      fun threshold => ⟨fun empty i => Pj.adjoint_support_empty number threshold empty, fun nonempty sg signs => ?_⟩,
      fun l2 outside => ⟨fun zero i => Pj.adjoint_l2_zero number l2 outside zero, fun nonzero => ?_⟩,
      fun monotone lo hi lt le => Pj.adjoint_pools_between number monotone lt le⟩
    · exact fun i v at_i => Pj.adjoint_support number threshold rfl nonempty signs at_i
    · exact fun i p v at_p at_v => Pj.adjoint_l2 number l2 outside nonzero at_p at_v

end Sys2Proof.Machine
end

section
/-! PROOF. Flow, memory and block nodes (05), shared facts: a part of the state written twice, what a census change answers, and what consuming, noting a marker and sending leave of a slot and of the regions. -/

namespace Sys2Proof.Machine

/-! ### Kinds of tokens (R41, R60) -/

theorem TT.ne_of_isMarker {t : TT} (h : t.isMarker = true) : t ≠ .resume ∧ t ≠ .fault := by
  constructor <;> (rintro rfl; cases h)

theorem TT.ne_of_data {t : TT} (h : t = .data ∨ t = .control) : t ≠ .resume ∧ t ≠ .fault ∧ t.isMarker = false := by
  obtain rfl | rfl := h <;> decide

/-! ### A part of the state written twice -/

theorem Map.put_put {α : Type} (m : Map α) (i : Nat) (x y : α) : Map.put (Map.put m i x) i y = Map.put m i y := by
  induction m with
  | nil => simp [Map.put]
  | cons kv m ih =>
    obtain ⟨k, v⟩ := kv
    by_cases lt : i < k
    · simp [Map.put, lt]
    · by_cases eq : k = i
      · simp [Map.put, eq]
      · simp [Map.put, lt, eq, ih]

@[simp] theorem State.setTile_setTile (s : State) (k : TileKey) (t u : Tile) : (s.setTile k t).setTile k u = s.setTile k u := by
  simp [State.setTile, Map.put_put]

@[simp] theorem State.setSlot_setSlot (s : State) (k : TileKey) (n : Nat) (x y : Slot) : (s.setSlot k n x).setSlot k n y = s.setSlot k n y := by
  simp [State.setSlot, Map.put_put]

@[simp] theorem State.setRegion_setRegion (s : State) (r : Nat) (x y : Region) : (s.setRegion r x).setRegion r y = s.setRegion r y := by
  simp [State.setRegion, Map.put_put]

/-! ### The census (R120, R251) -/

section
variable {s : State} {k : TileKey} {n : Nat} {d : Int} (go : State → Out)

theorem withCensus_takes (lo : 0 ≤ (s.region (s.regionOf k)).census + d) (hi : (s.region (s.regionOf k)).census + d ≤ 2147483647) :
    withCensus s k n d go = go (censusAdd s (s.regionOf k) d) := by
  simp [withCensus, censusTrap, lo.not_gt, hi.not_gt]

theorem withCensus_below (h : (s.region (s.regionOf k)).census + d < 0) :
    withCensus s k n d go = .next (raiseTrap s (slotSite s k n) 0x07 (BitVec.ofInt 64 (s.region (s.regionOf k)).census)) := by
  simp [withCensus, censusTrap, h]

theorem withCensus_above (h : 2147483647 < (s.region (s.regionOf k)).census + d) :
    withCensus s k n d go = .next (raiseTrap s (slotSite s k n) 0x08 (BitVec.ofInt 64 (s.region (s.regionOf k)).census)) := by
  have lo : ¬(s.region (s.regionOf k)).census + d < 0 := by omega
  simp [withCensus, censusTrap, lo, h]

theorem censusAdd_of_ne {r : Nat} (h : d ≠ 0) : censusAdd s r d = s.setRegion r { s.region r with census := (s.region r).census + d } := by
  simp [censusAdd, h]

theorem censusAdd_census (s : State) (r : Nat) (d : Int) : ((censusAdd s r d).region r).census = (s.region r).census + d := by
  by_cases h : d = 0
  · simp [censusAdd, h]
  · simp [censusAdd_of_ne h]

theorem censusAdd_tiles (s : State) (r : Nat) (d : Int) : (censusAdd s r d).tiles = s.tiles := by
  unfold censusAdd
  split <;> rfl

theorem censusAdd_tile (s : State) (r : Nat) (d : Int) (j : TileKey) : (censusAdd s r d).tile j = s.tile j := by
  simp only [State.tile, censusAdd_tiles]

theorem censusAdd_slot (s : State) (r : Nat) (d : Int) (j : TileKey) (m : Nat) : (censusAdd s r d).slot j m = s.slot j m := by
  simp only [State.slot, censusAdd_tile]
end

/-! ### What stays of a slot when its latches are filled and emptied (R17, R58) -/

/-- `y` is the slot `x` but for what its latches hold and which of two waiting tokens came first. -/
def LatchesOnly (x y : Slot) : Prop := y = { x with left := y.left, right := y.right, pred := y.pred, leftFirst := y.leftFirst }

namespace LatchesOnly
variable {x y z : Slot}

theorem refl (x : Slot) : LatchesOnly x x := rfl

theorem trans (h : LatchesOnly x y) (g : LatchesOnly y z) : LatchesOnly x z := by
  unfold LatchesOnly at *
  rw [g, h]

theorem run (h : LatchesOnly x y) : y.run = x.run := by rw [h]
theorem pend (h : LatchesOnly x y) : y.pend = x.pend := by rw [h]
end LatchesOnly

theorem latchesOnly_put (sl : Slot) (p : Pos) (t : Option Tok) : LatchesOnly sl (sl.put p t) := by cases p <;> rfl

theorem latchesOnly_arrive (sl : Slot) (p : Pos) (t : Tok) : LatchesOnly sl (sl.arrive p t) := by
  unfold Slot.arrive
  split
  · exact .refl sl
  · exact latchesOnly_put sl p _

theorem latchesOnly_consume (f : NodeForm) (sl : Slot) : LatchesOnly sl (consume f sl) := by
  unfold consume
  generalize firmPos f = ps
  induction ps generalizing sl with
  | nil => exact .refl sl
  | cons p ps ih => exact (latchesOnly_put sl p none).trans (ih _)

section
variable (s : State) (k : TileKey) (n : Nat)

theorem latchesOnly_land (d : Tgt) (x : Parcel) : LatchesOnly (s.slot k n) ((land s k d x).slot k n) := by
  have same : ∀ t : State, t.slot k n = s.slot k n → LatchesOnly (s.slot k n) (t.slot k n) := fun t e => e ▸ .refl _
  cases d with
  | none => exact .refl _
  | latch p m =>
    by_cases h : n = m.toNat
    · subst h
      simp only [land, State.setSlot_slot_self]
      exact latchesOnly_arrive _ _ _
    · exact same _ (State.setSlot_slot_ne _ _ _ _ _ h)
  | route r =>
    refine same _ (setTile_slot_of_slots s k n ?_)
    unfold routePut
    dsimp only
    split <;> rfl
  | port p =>
    refine same _ ?_
    unfold land
    dsimp only
    split
    · exact (State.setSeq_slot _ _ _ _ _).trans (setTile_slot_of_slots s k n rfl)
    · exact setTile_slot_of_slots s k n rfl

theorem latchesOnly_deliverTok (d : Tgt) (x : Option Tok) : LatchesOnly (s.slot k n) ((deliverTok s k d x).slot k n) := by
  cases x with
  | none => exact .refl _
  | some t =>
    rw [← openAcc_slot s k d t k n]
    exact latchesOnly_land _ _ _ _ _

/-- The lowest latch of a node that enables it is emptied by a firing, unless it is sticky. -/
theorem consume_left {f : NodeForm} (left : f.left = true) (sl : Slot) : (consume f sl).left = if f.op.lk then sl.left else none := by
  have firm : Pos.left ∈ firmPos f ↔ f.op.lk = false := by
    simp only [firmPos, enabledPos, left, List.mem_filter]
    simp [stickyPos]
  have e := at_consume f sl .left
  simp only [Slot.at_] at e
  rw [e]
  cases lk : f.op.lk <;> simp [firm, lk]

/-! ### Noting a marker (R179, R300, R304) -/

/-- Noting a marker changes of its slot the three counts alone. -/
theorem noteMarker_slot (t : Tok) : (noteMarker s k n t).slot k n = { s.slot k n with
    rounds := ((noteMarker s k n t).slot k n).rounds, drained := ((noteMarker s k n t).slot k n).drained, eoses := ((noteMarker s k n t).slot k n).eoses } := by
  unfold noteMarker
  split <;> simp

theorem noteMarker_left (t : Tok) : ((noteMarker s k n t).slot k n).left = (s.slot k n).left := by rw [noteMarker_slot]
theorem noteMarker_run (t : Tok) : ((noteMarker s k n t).slot k n).run = (s.slot k n).run := by rw [noteMarker_slot]
theorem noteMarker_out (t : Tok) : ((noteMarker s k n t).slot k n).out = (s.slot k n).out := by rw [noteMarker_slot]

/-- A token that is no marker has nothing to note. -/
theorem noteMarker_of_not_marker {t : Tok} (h : t.tt.isMarker = false) : noteMarker s k n t = s := by
  unfold noteMarker
  split
  case h_1 e | h_2 e | h_3 e => rw [e] at h; cases h
  case h_4 => rfl
end

/-! ### Regions -/

theorem SentFrom.regions {k : TileKey} {s t : State} (h : SentFrom k s t) : t.regions = s.regions := by rw [h.rest]

theorem SentFrom.region {k : TileKey} {s t : State} (h : SentFrom k s t) (r : Nat) : t.region r = s.region r := by simp only [State.region, h.regions]

/-- A token that is no marker is forwarded as a firing sends it. -/
theorem forwardBoth_eq_fireTo {t : Tok} (h : t.tt.isMarker = false) (s : State) (k : TileKey) (n : Nat) (f : NodeForm) :
    forwardBoth s k n f t = fireTo s k n f (some t) (some t) := by
  rw [forwardBoth, noteMarker_of_not_marker _ _ _ h]
  rfl

end Sys2Proof.Machine
end

section
/-! PROOF. Moving, constant, tag, work-id and reading nodes; steer and loop (05 R122, R125, R129, R131, R155). -/

namespace Sys2Proof.Machine

/-! ### A64 elements of payloads built from them (R42) -/

theorem foldr_a64_getLsbD (f : Nat → BitVec 64) (l : List Nat) {b : Nat} (hb : b < 512) :
    (l.foldr (fun i acc => ((f i).setWidth 512 <<< (64 * i)) ||| acc) (0 : Payload)).getLsbD b = l.any (fun i => decide (64 * i ≤ b) && (f i).getLsbD (b - 64 * i)) := by
  induction l with
  | nil => simp
  | cons x xs ih =>
    have here : ((f x).setWidth 512 <<< (64 * x)).getLsbD b = (decide (64 * x ≤ b) && (f x).getLsbD (b - 64 * x)) := by
      by_cases h : b < 64 * x
      · simp [h, h.not_ge]
      · simp [h, hb, not_lt.mp h]
    rw [List.foldr_cons, List.any_cons, BitVec.getLsbD_or, ih, here]

/-- An A64 element of a payload built element by element. -/
@[simp] theorem a64_ofA64 (f : Nat → BitVec 64) {i : Nat} (hi : i < 8) : Word.a64 (Word.ofA64 f) i = f i := by
  apply BitVec.eq_of_getLsbD_eq
  intro b hb
  simp only [Word.a64, BitVec.getLsbD_extractLsb', hb, decide_true, Bool.true_and, Word.ofA64]
  rw [foldr_a64_getLsbD f _ (by omega), Bool.eq_iff_iff, List.any_eq_true]
  constructor
  · rintro ⟨j, -, h⟩
    obtain ⟨le, bit⟩ := Bool.and_eq_true_iff.mp h
    have le := of_decide_eq_true le
    have lt := BitVec.lt_of_getLsbD bit
    obtain rfl : j = i := by omega
    rwa [Nat.add_sub_cancel_left] at bit
  · intro bit
    exact ⟨i, List.mem_range.mpr hi, by simpa using bit⟩

/-! ### What the nodes send -/

section
variable {s : State} {k : TileKey} {n : Nat} {o : Opnds}

theorem lane_splat (x : Lane) {j : Nat} (hj : j < 16) : Word.lane (Word.splat x) j = x := lane_ofLanes _ _ hj

theorem fires_const {w : NodeOp} {imm : BitVec 16} (h : NodeAt s k n (formOf (.const w imm)) o) {x : Lane} (hx : constLane w.ty imm = x) :
    ∃ a, Fires (.const w imm) s k n o a a ∧ ∀ j, j < 16 → Word.lane a j = x :=
  ⟨_, fires_of_both (i := .const w imm) (c := fun _ _ _ => .both (Word.splat (constLane w.ty imm))) rfl rfl h, fun _ hj => by rw [lane_splat _ hj, hx]⟩

/-- A node that reads the state at its firing sends what it reads (R155). -/
theorem fires_read {i : Instr} {pay : State → TileKey → Payload} (e : exec i s = fireRead (formOf i) pay s) (h : NodeAt s k n (formOf i) o) :
    Fires i s k n o (pay s k) (pay s k) := by
  rw [Fires, e, fireRead, fireSlot_of h, if_pos h.2.2]

/-- The lanes of `tileid` (R155). -/
theorem tileidPay_lanes (s : State) (k : TileKey) :
    Word.lane (tileidPay s k) 0 = BitVec.ofNat 32 (k % 2048) ∧ Word.lane (tileidPay s k) 1 = BitVec.ofNat 32 (k / 2048) ∧ Word.lane (tileidPay s k) 2 = BitVec.ofNat 32 (s.tile k).rel
      ∧ Word.lane (tileidPay s k) 3 = BitVec.ofNat 32 ((s.region (s.regionOf k)).qy * 65536 + (s.region (s.regionOf k)).qx)
      ∧ Word.lane (tileidPay s k) 4 = BitVec.ofNat 32 (s.ctxOf k) ∧ Word.lane (tileidPay s k) 5 = BitVec.ofNat 32 (Kind.code (s.tile k).kind)
      ∧ ∀ j, 6 ≤ j → j < 16 → Word.lane (tileidPay s k) j = 0 := by
  unfold tileidPay
  refine ⟨lane_ofLanes _ _ (by decide), lane_ofLanes _ _ (by decide), lane_ofLanes _ _ (by decide), lane_ofLanes _ _ (by decide), lane_ofLanes _ _ (by decide),
    lane_ofLanes _ _ (by decide), fun j six hj => ?_⟩
  rw [lane_ofLanes _ _ hj]
  match j, six with
  | j + 6, _ => rfl

theorem fires_widFld {w : NodeOp} {fld : BitVec 3} (h : NodeAt s k n (formOf (.widFld w fld)) o) :
    Fires (.widFld w fld) s k n o
      (Word.splat (BitVec.ofNat 32 ((Word.a64 o.l.pay 0).toNat / 2 ^ widStart s (s.launchOf k) fld.toNat % 2 ^ widWidth s (s.launchOf k) fld.toNat)))
      (Word.splat (BitVec.ofNat 32 ((Word.a64 o.l.pay 0).toNat / 2 ^ widStart s (s.launchOf k) fld.toNat % 2 ^ widWidth s (s.launchOf k) fld.toNat))) := by
  change execWidFld w fld s = _
  rw [execWidFld, fireSlot_of h, if_pos h.2.2]

theorem fires_widLvl {w : NodeOp} {lvl : BitVec 3} (h : NodeAt s k n (formOf (.widLvl w lvl)) o) :
    ∃ a, Fires (.widLvl w lvl) s k n o a a ∧ ∀ e, e < 8 → Word.a64 a e =
      BitVec.ofNat 64 ((Word.a64 o.l.pay 0).toNat / 2 ^ widStart s (s.launchOf k) lvl.toNat * 2 ^ widStart s (s.launchOf k) lvl.toNat) := by
  refine ⟨Word.ofA64 fun _ => _, ?_, fun e he => a64_ofA64 _ he⟩
  change execWidLvl w lvl s = _
  rw [execWidLvl, fireSlot_of h, if_pos h.2.2]

/-- Clearing the bits of a work-id below a field (R131). -/
theorem clearBelow_getLsbD (x : BitVec 64) (start : Nat) {b : Nat} (hb : b < 64) :
    (BitVec.ofNat 64 (x.toNat / 2 ^ start * 2 ^ start)).getLsbD b = (decide (start ≤ b) && x.getLsbD b) := by
  simp only [BitVec.getLsbD_ofNat, hb, decide_true, Bool.true_and, Nat.testBit_mul_two_pow, Nat.testBit_div_two_pow, BitVec.testBit_toNat]
  by_cases le : start ≤ b
  · simp [le, Nat.sub_add_cancel le]
  · simp [le]

/-- The token of `loop` on its continue path (R129). -/
def loopTok (t : Tok) : Tok := { t with seq := t.seq + 1 }

/-- Steering asks the chosen target alone (R122, R129). -/
theorem steerTo_continues {f : NodeForm} (h : SlotAt s k n) (g : gateOf f (s.slot k n) = .go o) {inv : Bool} (taken : o.r.pay.getLsbD 0 ≠ inv)
    (free : freeAfter s k n f f.op.tga = true) (contTok : Tok → Tok) : steerTo f inv contTok s = .next (fireTo s k n f (some (contTok o.l)) none) := by
  rw [steerTo, fireSlot_go h _ g, if_pos (by simpa using taken), if_pos free]

theorem steerTo_leaves {f : NodeForm} (h : SlotAt s k n) (g : gateOf f (s.slot k n) = .go o) {inv : Bool} (left : o.r.pay.getLsbD 0 = inv)
    (free : freeAfter s k n f f.op.tgb = true) (contTok : Tok → Tok) : steerTo f inv contTok s = .next (fireTo s k n f none (some o.l)) := by
  rw [steerTo, fireSlot_go h _ g, if_neg (by simpa using left), if_pos free]
end

/-- Settles O16, node by node: each is a firing whose tokens are read off its operands or the state. -/
theorem nodeMovesAndSteering : Obligations.NodeMovesAndSteering := by
  unfold Obligations.NodeMovesAndSteering
  refine ⟨fun s k n w o imm fld => ⟨?mov, ?sel, ?tagSet, ?constI, ?constU, ?constF, ?tagGet, ?widFld, ?widLvl, ?dtime, ?tileid⟩, fun s k n w o inv => ⟨?steer, ?loop⟩⟩
  case mov => exact fun h => fireMove_of h _ _
  case sel => exact fun h => ⟨selPay o.l.pay o.r.pay o.p.pay, fireMove_of h _ _, fun j hj => lane_ofLanes _ _ hj⟩
  case tagSet => exact fun h => fireMove_of h _ _
  case constI => exact fun ty h => fires_const h (by rw [ty]; rfl)
  case constU => exact fun ty h => fires_const h (by rw [ty]; rfl)
  case constF => exact fun ty h => fires_const h (by rw [ty]; rfl)
  case tagGet => exact fun h => ⟨predLanes w o.l.pay o.p.pay fun _ => o.l.tag.setWidth 32, fireMove_of h _ _, lanewise_predLanes _ _ _⟩
  case widFld => exact fun h => ⟨_, fires_widFld h, fun _ hj => lane_splat _ hj⟩
  case widLvl =>
    intro h
    obtain ⟨a, fires, elem⟩ := fires_widLvl h
    exact ⟨a, fires, fun e he b hb => by rw [elem e he, clearBelow_getLsbD _ _ hb]⟩
  case dtime => exact fun h => ⟨_, fires_read (i := .dtime w) (pay := fun s _ => Word.ofA64 fun _ => s.dev.dtime) rfl h, fun _ he => a64_ofA64 _ he⟩
  case tileid => exact fun h => ⟨_, fires_read (i := .tileid w) (pay := tileidPay) rfl h, tileidPay_lanes s k⟩
  case steer => exact fun h g => ⟨fun taken free => steerTo_continues h g taken free id, fun left free => steerTo_leaves h g left free id⟩
  case loop => exact fun h g => ⟨fun taken free => steerTo_continues h g taken free loopTok, fun left free => steerTo_leaves h g left free loopTok⟩

end Sys2Proof.Machine
end

section
/-! PROOF. `gate`, `stat` and `trap`; the nodes that change the census (05 R120, R122, R139, R155). -/

namespace Sys2Proof.Machine

section
variable {s : State} {k : TileKey} {n : Nat} (h : SlotAt s k n)
include h

/-! ### `trap` (R155) -/

theorem execTrap_raises {w : NodeOp} {code : BitVec 16} {o : Opnds} (g : gateOf (formOf (.trap w code)) (s.slot k n) = .go o)
    (on : w.pe = false ∨ ∃ j, j < 16 ∧ laneOn w o.p.pay j = true) : execTrap w code s = .next (raiseTrap s (slotSite s k n) 0x11 (code.setWidth 64)) := by
  have any : (List.range 16).any (laneOn w o.p.pay) = true := by
    rw [List.any_eq_true]
    obtain bare | ⟨j, hj, on⟩ := on
    · exact ⟨0, by simp, by simp [laneOn, bare]⟩
    · exact ⟨j, List.mem_range.mpr hj, on⟩
  rw [execTrap, fireSlot_go h _ g, if_pos any]

theorem execTrap_passes {w : NodeOp} {code : BitVec 16} {o : Opnds} (g : gateOf (formOf (.trap w code)) (s.slot k n) = .go o)
    (off : ∀ j, j < 16 → laneOn w o.p.pay j = false) : execTrap w code s = .next (consumeAt s k n (formOf (.trap w code))) := by
  have noneOn : ¬(List.range 16).any (laneOn w o.p.pay) = true := by
    rw [List.any_eq_true]
    rintro ⟨j, hj, on⟩
    rw [off j (List.mem_range.mp hj)] at on
    cases on
  rw [execTrap, fireSlot_go h _ g, if_neg noneOn]

variable {l : Tok} (left : (s.slot k n).left = some l)
include left

/-! ### `gate` (R122) -/

theorem execGate_passes {w : NodeOp} {r : Tok} (right : (s.slot k n).right = some r) (plainL : l.tt ≠ .resume) (plainR : r.tt ≠ .resume)
    (free : bothFree s k n (formOf (.gate w)) = true) : execGate w s = .next (forwardBoth s k n (formOf (.gate w)) l) := by
  simp [execGate, atSlot_of h, left, right, plainL, plainR, free]

/-! ### `stat` (R56, R155) -/

/-- The tile after its counters have been read out. -/
theorem execStat_reads {w : NodeOp} (kind : l.tt = .data ∨ l.tt = .control ∨ l.tt = .drain ∨ l.tt = .eos) (free : bothFree s k n (formOf (.stat w)) = true) :
    let t := fireTo (noteMarker s k n l) k n (formOf (.stat w)) (some { tt := .data, seq := l.seq, tag := l.tag, pay := countPayload (s.tile k).counts })
      (if l.tt.isMarker then some l else none)
    execStat w s = .next (t.setTile k { t.tile k with counts := [] }) := by
  have plain : l.tt ≠ .resume ∧ l.tt ≠ .tempo ∧ l.tt ≠ .fault := by obtain e | e | e | e := kind <;> simp [e]
  obtain ⟨noResume, noTempo, noFault⟩ := plain
  simp [execStat, atSlot_of h, left, free, noResume, noTempo, noFault]

theorem execStat_passes {w : NodeOp} (kind : l.tt = .tempo ∨ l.tt = .fault) (free : bothFree s k n (formOf (.stat w)) = true) :
    execStat w s = .next (forwardBoth s k n (formOf (.stat w)) l) := by
  have noResume : l.tt ≠ .resume := by obtain e | e := kind <;> simp [e]
  simp [execStat, atSlot_of h, left, free, noResume, kind]

/-! ### Nodes that count (R120) -/

section
variable (noResume : l.tt ≠ .resume)
include noResume

theorem fireCounted_marker {f : NodeForm} (free : bothFree s k n f = true) (marker : l.tt.isMarker = true) (d : Int) (a b : Tok → Option Tok) :
    fireCounted f d s a b = .next (forwardBoth s k n f l) := by
  simp [fireCounted, atSlot_of h, left, noResume, free, marker]

/-- Every other token counts, a fault token as data does (log 14). -/
theorem fireCounted_counts {f : NodeForm} (free : bothFree s k n f = true) (marker : l.tt.isMarker = false) (d : Int) :
    fireCounted f d s some some = withCensus s k n d fun s1 => .next (fireTo s1 k n f (some l) (some l)) := by
  simp [fireCounted, atSlot_of h, left, noResume, free, marker, forwardBoth_eq_fireTo marker]

/-- What a node that changes the census by `d` does with its token (R120, R251). -/
theorem counted_spec {i : Instr} {d : Int} (e : exec i s = fireCounted (formOf i) d s some some) (change : d ≠ 0) (free : bothFree s k n (formOf i) = true) :
    let r := s.regionOf k
    let c := (s.region r).census
    (l.tt.isMarker = true → exec i s = .next (forwardBoth s k n (formOf i) l))
    ∧ (l.tt.isMarker = false → 0 ≤ c + d → c + d ≤ 2147483647 →
        exec i s = .next (fireTo (s.setRegion r { s.region r with census := c + d }) k n (formOf i) (some l) (some l)))
    ∧ (l.tt.isMarker = false → c + d < 0 → exec i s = .next (raiseTrap s (slotSite s k n) 0x07 (BitVec.ofInt 64 c)))
    ∧ (l.tt.isMarker = false → 2147483647 < c + d → exec i s = .next (raiseTrap s (slotSite s k n) 0x08 (BitVec.ofInt 64 c))) := by
  refine ⟨fun marker => ?_, fun marker lo hi => ?_, fun marker below => ?_, fun marker above => ?_⟩
  · rw [e, fireCounted_marker h left noResume free marker]
  · rw [e, fireCounted_counts h left noResume free marker, withCensus_takes _ lo hi, censusAdd_of_ne change]
  · rw [e, fireCounted_counts h left noResume free marker, withCensus_below _ below]
  · rw [e, fireCounted_counts h left noResume free marker, withCensus_above _ above]
end

/-! ### `sink` (R120, R122) -/

theorem execSink_data {w : NodeOp} (kind : l.tt = .data ∨ l.tt = .control) :
    execSink w s = withCensus s k n (-1) fun s1 => .next (consumeAt s1 k n (formOf (.sink w))) := by
  obtain ⟨noResume, noFault, noMarker⟩ := TT.ne_of_data kind
  simp [execSink, atSlot_of h, left, noResume, noFault, noMarker]

theorem execSink_marker {w : NodeOp} (marker : l.tt.isMarker = true) : execSink w s = .next (noteMarker (consumeAt s k n (formOf (.sink w))) k n l) := by
  obtain ⟨noResume, noFault⟩ := TT.ne_of_isMarker marker
  simp [execSink, atSlot_of h, left, noResume, noFault, marker]

theorem execSink_fault {w : NodeOp} (fault : l.tt = .fault) : execSink w s = .next (raiseTrap s (slotSite s k n) 0x0A 0) := by
  simp [execSink, atSlot_of h, left, fault]
end

/-- Settles O17, node by node. -/
theorem nodeGateStatAndCensus : Obligations.NodeGateStatAndCensus := by
  unfold Obligations.NodeGateStatAndCensus
  refine ⟨fun s k n w l r h left => ⟨?gate, ?stat, ?statPasses, ?trap⟩, fun s k n w imm l h left noResume => ⟨?dup, ?up, ?down, ?sink, ?below, ?marker, ?fault⟩⟩
  case gate => exact fun right plainL plainR free => execGate_passes h left right plainL plainR free
  case stat => exact fun kind free => ⟨_, _, execStat_reads h left kind free, rfl, fun _ hj => lane_ofLanes _ _ hj⟩
  case statPasses => exact fun kind free => execStat_passes h left kind free
  case trap => exact fun o code g => ⟨execTrap_raises h g, fun _ off => execTrap_passes h g off⟩
  case dup => exact counted_spec h left noResume (i := .dup w) rfl (by decide)
  case up => exact fun nz => counted_spec h left noResume (i := .censusUp w imm) rfl (by simpa [← BitVec.toNat_inj] using nz)
  case down => exact fun nz => counted_spec h left noResume (i := .censusDn w imm) rfl (by simpa [← BitVec.toNat_inj] using nz)
  case sink =>
    intro kind lo hi
    refine (execSink_data h left kind).trans ?_
    rw [withCensus_takes _ (by omega) (by omega), censusAdd_of_ne (by decide)]
  case below =>
    intro kind lo
    refine (execSink_data h left kind).trans ?_
    rw [withCensus_below _ (by omega)]
  case marker =>
    intro marker firm
    refine ⟨_, execSink_marker h left marker, ?_, ?_⟩
    · rw [noteMarker_left, consumeAt_slot, consume_left rfl]
      exact if_neg (by rw [show (formOf (.sink w)).op.lk = w.lk from rfl, firm]; decide)
    · exact (sentFrom_noteMarker _ k n l).regions
  case fault => exact execSink_fault h left

end Sys2Proof.Machine
end

section
/-! PROOF. Threads and generated streams (05 R120, R126, R128, R130): the pool of tags, `spawn`, `retire`, `seqgen` and its tokens. -/

namespace Sys2Proof.Machine

/-! ### The lowest free tag (R128) -/

theorem lowestTag_eq_some {used : List Nat} {x : Nat} (free : x ∉ used) {n t : Nat} (lo : t ≤ x) (hi : x < t + n) (below : ∀ u, t ≤ u → u < x → u ∈ used) :
    lowestTag used n t = some x := by
  induction n generalizing t with
  | zero => omega
  | succ n ih =>
    by_cases eq : t = x
    · subst eq
      simp [lowestTag, free]
    · have taken : used.contains t = true := by simpa using below t le_rfl (by omega)
      rw [lowestTag, if_pos taken]
      exact ih (by omega) (by omega) fun u hu => below u (by omega)

theorem lowestTag_eq_none {used : List Nat} {n t : Nat} (all : ∀ u, t ≤ u → u < t + n → u ∈ used) : lowestTag used n t = none := by
  induction n generalizing t with
  | zero => rfl
  | succ n ih =>
    have taken : used.contains t = true := by simpa using all t le_rfl (by omega)
    rw [lowestTag, if_pos taken]
    exact ih fun u lo hi => all u (by omega) (by omega)

section
variable {s : State} {k : TileKey} {n : Nat} (h : SlotAt s k n)

/-! ### `spawn` (R120, R128) -/

/-- Whether no waiting `spawn` comes before a slot. -/
theorem spawnTurn_iff : spawnTurn s k n = true ↔ ∀ m ∈ (s.region (s.regionOf k)).asked, (s.tile k).rel * 32 + n ≤ m := by
  simp only [spawnTurn, List.all_eq_true, decide_eq_true_eq]
  rfl

section
variable {w : NodeOp} {l : Tok} (left : (s.slot k n).left = some l)
include h left

section
variable (kind : l.tt = .data ∨ l.tt = .control) (free : bothFree s k n (formOf (.spawn w)) = true)
include kind free

/-- With no tag to be had, the request stands at the pool. -/
theorem execSpawn_asks (noTag : (if spawnTurn s k n then lowestTag (s.region (s.regionOf k)).used 65279 0x0100 else none) = none) :
    execSpawn w s = .next (spawnAsk s k n true) := by
  obtain ⟨noResume, noFault, noMarker⟩ := TT.ne_of_data kind
  simp [execSpawn, atSlot_of h, left, free, noResume, noFault, noMarker, noTag]

theorem execSpawn_counts {t : Nat} (tag : (if spawnTurn s k n then lowestTag (s.region (s.regionOf k)).used 65279 0x0100 else none) = some t) :
    execSpawn w s = withCensus (spawnAsk s k n false) k n 1 fun s1 =>
      .next (fireTo (s1.setRegion (s.regionOf k) { s1.region (s.regionOf k) with used := t :: (s1.region (s.regionOf k)).used }) k n (formOf (.spawn w))
        (some { l with tag := BitVec.ofNat 16 t }) (some { tt := .control, seq := l.seq, tag := l.tag, pay := BitVec.ofNat 512 t })) := by
  obtain ⟨noResume, noFault, noMarker⟩ := TT.ne_of_data kind
  simp [execSpawn, atSlot_of h, left, free, noResume, noFault, noMarker, tag]

/-- A `spawn` that none comes before takes the lowest free tag. -/
theorem execSpawn_takes {t : Nat} (lo : 0x0100 ≤ t) (hi : t ≤ 0xFFFE) (unused : t ∉ (s.region (s.regionOf k)).used)
    (below : ∀ u, 0x0100 ≤ u → u < t → u ∈ (s.region (s.regionOf k)).used) (turn : ∀ m ∈ (s.region (s.regionOf k)).asked, (s.tile k).rel * 32 + n ≤ m)
    (nonneg : 0 ≤ (s.region (s.regionOf k)).census) (room : (s.region (s.regionOf k)).census < 2147483647) :
    execSpawn w s = .next (fireTo
      (s.setRegion (s.regionOf k) { s.region (s.regionOf k) with
        census := (s.region (s.regionOf k)).census + 1
        used := t :: (s.region (s.regionOf k)).used
        asked := (s.region (s.regionOf k)).asked.filter (· != (s.tile k).rel * 32 + n) }) k n (formOf (.spawn w))
      (some { l with tag := BitVec.ofNat 16 t }) (some { tt := .control, seq := l.seq, tag := l.tag, pay := BitVec.ofNat 512 t })) := by
  have tag : (if spawnTurn s k n then lowestTag (s.region (s.regionOf k)).used 65279 0x0100 else none) = some t := by
    rw [if_pos (spawnTurn_iff.mpr turn), lowestTag_eq_some unused lo (by omega) below]
  have asked : (spawnAsk s k n false).region ((spawnAsk s k n false).regionOf k) =
      { s.region (s.regionOf k) with asked := (s.region (s.regionOf k)).asked.filter (· != (s.tile k).rel * 32 + n) } := State.setRegion_region_self _ _ _
  have same : (spawnAsk s k n false).regionOf k = s.regionOf k := rfl
  rw [execSpawn_counts h left kind free tag, withCensus_takes _ (by rw [asked]; dsimp only; omega) (by rw [asked]; dsimp only; omega), censusAdd_of_ne (by decide), asked, same,
    State.setRegion_region_self, State.setRegion_setRegion, spawnAsk, State.setRegion_setRegion]

theorem execSpawn_waits (before : (∀ u, 0x0100 ≤ u → u ≤ 0xFFFE → u ∈ (s.region (s.regionOf k)).used)
      ∨ ∃ m ∈ (s.region (s.regionOf k)).asked, m < (s.tile k).rel * 32 + n) : execSpawn w s = .next (spawnAsk s k n true) := by
  refine execSpawn_asks h left kind free ?_
  obtain all | ⟨m, mem, lt⟩ := before
  · rw [lowestTag_eq_none fun u lo hi => all u lo (by omega), ite_self]
  · rw [if_neg fun turn => absurd (spawnTurn_iff.mp turn m mem) (by omega)]
end

/-! ### `retire` (R120, R130) -/

/-- What `retire` makes of the pool: with F the token's tag is free again. -/
def poolAfter (free : Bool) (l : Tok) (used : List Nat) : List Nat := if free then used.filter (· != l.tag.toNat) else used

theorem execRetire_takes {free : Bool} (kind : l.tt = .data ∨ l.tt = .control) (inUse : free = true → l.tag.toNat ∈ (s.region (s.regionOf k)).used)
    (lo : 1 ≤ (s.region (s.regionOf k)).census) (hi : (s.region (s.regionOf k)).census ≤ 2147483648) :
    execRetire w free s = .next (consumeAt (s.setRegion (s.regionOf k) { s.region (s.regionOf k) with
      census := (s.region (s.regionOf k)).census - 1, used := poolAfter free l (s.region (s.regionOf k)).used }) k n (formOf (.retire w free))) := by
  have counted : execRetire w free s = withCensus s k n (-1) fun s1 => .next (consumeAt
      (if free then s1.setRegion (s.regionOf k) { s1.region (s.regionOf k) with used := (s1.region (s.regionOf k)).used.filter (· != l.tag.toNat) } else s1)
      k n (formOf (.retire w free))) := by
    have pool : (free && !(s.region (s.regionOf k)).used.contains l.tag.toNat) = false := by
      cases free
      · rfl
      · simpa using inUse rfl
    rw [execRetire, atSlot_of h]
    simp only [left, pool]
    obtain e | e := kind <;> rw [e] <;> rfl
  rw [counted, withCensus_takes _ (by omega) (by omega), censusAdd_of_ne (by decide)]
  cases free
  · rfl
  · rw [if_pos rfl, State.setRegion_setRegion, State.setRegion_region_self]
    rfl

theorem execRetire_notInUse (kind : l.tt = .data ∨ l.tt = .control) (notInUse : l.tag.toNat ∉ (s.region (s.regionOf k)).used) :
    execRetire w true s = .next (raiseTrap s (slotSite s k n) 0x09 (l.tag.setWidth 64)) := by
  obtain ⟨noResume, noFault, noMarker⟩ := TT.ne_of_data kind
  simp [execRetire, atSlot_of h, left, noResume, noFault, noMarker, notInUse]

theorem execRetire_fault {free : Bool} (fault : l.tt = .fault) : execRetire w free s = .next (raiseTrap s (slotSite s k n) 0x0A 0) := by
  simp [execRetire, atSlot_of h, left, fault]
end

/-! ### `seqgen` (R120, R126) -/

section
variable {w : NodeOp} {fin : Bool} {o : Opnds} (idle : ∀ x p, (s.slot k n).run ≠ .seqgen x p) (g : gateOf (formOf (.seqgen w fin)) (s.slot k n) = .go o)
include h idle g

/-- A trigger that has something to send starts a run. -/
theorem execSeqgen_starts (some_ : seqgenSteps (seqgenN o.l) fin (w.tgb != .none) ≠ 0) :
    execSeqgen w fin s = .next (s.setSlot k n { consume (formOf (.seqgen w fin)) (s.slot k n) with run := .seqgen o.l 0 }) := by
  have begins : execSeqgen w fin s = .next ((consumeAt s k n (formOf (.seqgen w fin))).setSlot k n
      { (consumeAt s k n (formOf (.seqgen w fin))).slot k n with run := .seqgen o.l 0 }) := by
    rw [execSeqgen, atSlot_of h]
    split
    · exact absurd ‹_› (idle _ _)
    · simp [g, some_]
  rw [begins, consumeAt_slot, consumeAt, State.setSlot_setSlot]

theorem execSeqgen_nothing (none_ : seqgenSteps (seqgenN o.l) fin (w.tgb != .none) = 0) :
    execSeqgen w fin s = withCensus s k n (-1) fun s1 => .next (consumeAt s1 k n (formOf (.seqgen w fin))) := by
  rw [execSeqgen, atSlot_of h]
  split
  · exact absurd ‹_› (idle _ _)
  · simp [g, none_]
end

/-! ### SEQGEN_TOKEN (R120, R126) -/

section
variable {w : NodeOp} {fin : Bool} {t : Tok} {pos : Nat}

theorem seqgenTok_data (lt : pos < seqgenN t) : seqgenTok w fin t pos =
    (w.tga, { t with tt := .data, seq := BitVec.ofNat 8 pos, pay := Word.ofLanes fun i => Word.lane t.pay 0 + BitVec.ofNat 32 (16 * pos + i) * Word.lane t.pay 2 }) := by
  simp [seqgenTok, lt]

theorem seqgenTok_end (eq : pos = seqgenN t) : seqgenTok w true t pos = (w.tga, { t with tt := .eos, seq := BitVec.ofNat 8 (seqgenN t), pay := 0 }) := by
  simp [seqgenTok, eq]

theorem seqgenTok_done (eq : pos = seqgenN t + (if fin then 1 else 0)) : seqgenTok w fin t pos = (w.tgb, { t with tt := .control, pay := BitVec.ofNat 512 (seqgenN t) }) := by
  cases fin <;> simp [seqgenTok, eq]

variable (run : (s.slot k n).run = .seqgen t pos) (word : decodeNode (s.slot k n).word = .ok (.seqgen w fin))
  (free : targetFree (s.tile k) (seqgenTok w fin t pos).1 = true)
include h run word free

theorem execSeqgenToken_goesOn (more : pos + 1 ≠ seqgenSteps (seqgenN t) fin (w.tgb != .none)) :
    execSeqgenToken s = .next (deliverTok (s.setSlot k n { s.slot k n with run := .seqgen t (pos + 1) }) k (seqgenTok w fin t pos).1 (some (seqgenTok w fin t pos).2)) := by
  simp [execSeqgenToken, atSlot_of h, run, word, free, more]

/-- The state in which the last token of a run leaves: the run has ended, and the census is changed. -/
def seqgenEnded (s : State) (k : TileKey) (n : Nat) (d : Int) : State :=
  (censusAdd s (s.regionOf k) d).setSlot k n { s.slot k n with run := .idle }

theorem execSeqgenToken_ends (last : pos + 1 = seqgenSteps (seqgenN t) fin (w.tgb != .none))
    (lo : 0 ≤ (s.region (s.regionOf k)).census + seqgenCount (seqgenN t) fin (w.tgb != .none))
    (hi : (s.region (s.regionOf k)).census + seqgenCount (seqgenN t) fin (w.tgb != .none) ≤ 2147483647) :
    execSeqgenToken s = .next (deliverTok (seqgenEnded s k n (seqgenCount (seqgenN t) fin (w.tgb != .none))) k (seqgenTok w fin t pos).1 (some (seqgenTok w fin t pos).2)) := by
  have counted : execSeqgenToken s = withCensus s k n (seqgenCount (seqgenN t) fin (w.tgb != .none)) fun s1 =>
      .next (deliverTok (s1.setSlot k n { s1.slot k n with run := .idle }) k (seqgenTok w fin t pos).1 (some (seqgenTok w fin t pos).2)) := by
    simp [execSeqgenToken, atSlot_of h, run, word, free, last]
  rw [counted, withCensus_takes _ lo hi, censusAdd_slot, seqgenEnded]
end
end

theorem seqgenEnded_run (s : State) (k : TileKey) (n : Nat) (d : Int) : ((seqgenEnded s k n d).slot k n).run = .idle := by
  rw [seqgenEnded, State.setSlot_slot_self]

theorem seqgenEnded_census (s : State) (k : TileKey) (n : Nat) (d : Int) :
    ((seqgenEnded s k n d).region (s.regionOf k)).census = (s.region (s.regionOf k)).census + d := by
  rw [seqgenEnded, State.setSlot_region, censusAdd_census]

/-- What a token of a run does, when it is `x` and leaves for `tgt` (R126). -/
theorem seqgenToken_sends {s : State} {k : TileKey} {n : Nat} (h : SlotAt s k n) {w : NodeOp} {fin : Bool} {t : Tok} {pos : Nat}
    (run : (s.slot k n).run = .seqgen t pos) (word : decodeNode (s.slot k n).word = .ok (.seqgen w fin)) {tgt : Tgt} {x : Tok} (is : seqgenTok w fin t pos = (tgt, x))
    (free : targetFree (s.tile k) tgt = true) :
    let hasB := decide (w.tgb ≠ .none)
    let steps := seqgenN t + (if fin then 1 else 0) + (if hasB then 1 else 0)
    let c := (s.region (s.regionOf k)).census
    let d : Int := seqgenN t - 1 + (if fin then 1 else 0) + (if hasB then 1 else 0)
    (pos + 1 < steps → execSeqgenToken s = .next (deliverTok (s.setSlot k n { s.slot k n with run := .seqgen t (pos + 1) }) k tgt (some x)))
    ∧ (pos + 1 = steps → 0 ≤ c + d → c + d ≤ 2147483647 → ∃ t', execSeqgenToken s = .next (deliverTok t' k tgt (some x))
        ∧ (t'.slot k n).run = .idle ∧ (t'.region (s.regionOf k)).census = c + d) := by
  have hasB : (w.tgb != .none) = decide (w.tgb ≠ .none) := by rw [Bool.eq_iff_iff]; simp
  have free' : targetFree (s.tile k) (seqgenTok w fin t pos).1 = true := by rw [is]; exact free
  refine ⟨fun more => ?_, fun last lo hi => ⟨seqgenEnded s k n _, ?_, seqgenEnded_run _ _ _ _, seqgenEnded_census _ _ _ _⟩⟩
  · rw [execSeqgenToken_goesOn h run word free' (by rw [hasB]; exact more.ne), is]
  · rw [execSeqgenToken_ends h run word free' (by rw [hasB]; exact last) (by rw [hasB]; exact lo) (by rw [hasB]; exact hi), is, hasB]
    rfl

/-- Settles O18: what `spawn`, `retire` and `seqgen` do in each case, and each token of a run by its place in it. -/
theorem nodeThreadsAndSeqgen : Obligations.NodeThreadsAndSeqgen := by
  unfold Obligations.NodeThreadsAndSeqgen
  refine ⟨fun s k n w l free h left kind => ⟨?takes, ?waits, ?ends, ?frees, ?notInUse⟩, fun s k n w l free h left fault => execRetire_fault h left fault,
    fun s k n w fin h => ⟨?trigger, ?token⟩⟩
  case takes => exact fun t lo hi unused below turn bothFree nonneg room => execSpawn_takes h left kind bothFree lo hi unused below turn nonneg room
  case waits => exact fun before bothFree => execSpawn_waits h left kind bothFree before
  case ends =>
    rintro rfl lo hi
    exact execRetire_takes h left kind (fun e => nomatch e) lo hi
  case frees =>
    rintro rfl inUse lo hi
    exact execRetire_takes h left kind (fun _ => inUse) lo hi
  case notInUse =>
    rintro rfl notInUse
    exact execRetire_notInUse h left kind notInUse
  case trigger =>
    intro o idle g sends firm
    have steps : seqgenSteps (seqgenN o.l) fin (w.tgb != .none) ≠ 0 := by
      obtain data | rfl | hasB := sends
      · have : seqgenN o.l ≠ 0 := fun e => data (BitVec.eq_of_toNat_eq e)
        simp only [seqgenSteps]
        omega
      · simp [seqgenSteps]
      · have := of_decide_eq_true hasB
        simp [seqgenSteps, this]
    refine ⟨_, execSeqgen_starts h (fun x p e => by rw [idle] at e; cases e) g steps, ?_, by rw [State.setSlot_slot_self]⟩
    rw [State.setSlot_slot_self]
    dsimp only
    rw [consume_left rfl, show (formOf (.seqgen w fin)).op.lk = w.lk from rfl, firm, if_neg Bool.false_ne_true]
  case token =>
    refine fun t pos run word => ⟨fun lt => ⟨_, fun free => seqgenToken_sends h run word (seqgenTok_data lt) free, fun j hj => lane_ofLanes _ _ hj⟩, ?eos, ?done⟩
    case eos =>
      rintro eq rfl free
      exact seqgenToken_sends h run word (seqgenTok_end eq) free
    case done => exact fun eq _ free => seqgenToken_sends h run word (seqgenTok_done eq) free

end Sys2Proof.Machine
end

section
/-! PROOF. Where `spawn`, `retire`, `seqgen` and SEQGEN_TOKEN complete (05 R120, R126, R128, R130), and what they leave of the census, the pool and the run. -/

namespace Sys2Proof.Machine

/-- Where some tag of the pool is free, one is the lowest. -/
theorem exists_lowestTag {used : List Nat} {x : Nat} (lo : 0x0100 ≤ x) (free : x ∉ used) :
    ∃ t, 0x0100 ≤ t ∧ t ≤ x ∧ t ∉ used ∧ ∀ u, 0x0100 ≤ u → u < t → u ∈ used := by
  have ex : ∃ u, 0x0100 ≤ u ∧ u ∉ used := ⟨x, lo, free⟩
  refine ⟨Nat.find ex, (Nat.find_spec ex).1, Nat.find_min' ex ⟨lo, free⟩, (Nat.find_spec ex).2, fun u hu lt => ?_⟩
  by_contra unused
  exact Nat.find_min ex lt ⟨hu, unused⟩

/-- Settles O19: each node's step, read off at the census, the pool and the slot. -/
theorem threadNodesComplete : Obligations.ThreadNodesComplete := by
  unfold Obligations.ThreadNodesComplete
  refine fun s k n w l h => ⟨?spawn, ?retire, fun fin o idle g => ⟨?starts, ?nothing⟩, fun fin x p run word free => ⟨?goesOn, ?ends⟩⟩
  case spawn =>
    rintro x ⟨left, kind⟩ bothFree nonneg room lo hi unused turn
    obtain ⟨t, tlo, le, tUnused, below⟩ := exists_lowestTag lo unused
    refine ⟨_, t, execSpawn_takes h left kind bothFree tlo (by omega) tUnused below turn nonneg room, ?_, tlo, le, tUnused, ?_⟩
    all_goals rw [(sentFrom_fireTo _ _ _ _ _ _).region, State.setRegion_region_self]
  case retire =>
    rintro free ⟨left, kind⟩ lo hi inUse
    refine ⟨_, execRetire_takes h left kind inUse lo hi, ?_, ?_, ?_⟩
    · rw [(sentFrom_consumeAt _ _ _ _).region, State.setRegion_region_self]
    · rw [consumeAt_slot, consume_left rfl, State.setRegion_slot, left]
      rfl
    · rw [(sentFrom_consumeAt _ _ _ _).region, State.setRegion_region_self]
      rfl
  case starts => exact fun some_ => ⟨_, execSeqgen_starts h idle g some_, by rw [State.setSlot_slot_self], rfl⟩
  case nothing =>
    intro none_ lo hi
    refine ⟨_, (execSeqgen_nothing h idle g none_).trans (withCensus_takes _ (by omega) (by omega)), ?_, ?_⟩
    · rw [consumeAt_slot, (latchesOnly_consume _ _).run, censusAdd_slot]
    · rw [(sentFrom_consumeAt _ _ _ _).region, censusAdd_census, Int.sub_eq_add_neg]
  case goesOn =>
    refine fun more => ⟨_, execSeqgenToken_goesOn h run word free more, ?_, (sentFrom_deliverTok _ _ _ _).regions⟩
    rw [(latchesOnly_deliverTok _ _ _ _ _).run, State.setSlot_slot_self]
  case ends =>
    refine fun last lo hi => ⟨_, execSeqgenToken_ends h run word free last lo hi, ?_, ?_⟩
    · rw [(latchesOnly_deliverTok _ _ _ _ _).run, seqgenEnded_run]
    · rw [(sentFrom_deliverTok _ _ _ _).region, seqgenEnded_census]

end Sys2Proof.Machine
end

section
/-! PROOF. `merge` (05 R123): what it picks under `any` and `alt`, and what the slot then does. -/

namespace Sys2Proof.Machine

/-- A latch that holds no resume token. -/
def HoldsNoResume (x : Option Tok) : Prop := ∀ t, x = some t → t.tt ≠ .resume

/-! ### The pick (R123) -/

@[simp] theorem holdsMarker_none : holdsMarker none = false := rfl
@[simp] theorem holdsMarker_some (t : Tok) : holdsMarker (some t) = t.tt.isMarker := rfl

section
variable {l r : Option Tok} {alt due first : Bool} (plainL : HoldsNoResume l) (plainR : HoldsNoResume r)
include plainL plainR

/-- With no resume token, markers at both latches meet; else the mode decides. -/
theorem mergePick_plain : mergePick alt due first l r =
    if holdsMarker l && holdsMarker r then (if l.map (·.tt) == r.map (·.tt) then .pair else .trap causeMarkSkew)
    else if alt then
      if (if due then r else l).isNone then .wait
      else if holdsMarker (if due then r else l) then (if (if due then l else r).isSome then .trap causeMarkSkew else .wait)
      else if due then .right else .left
    else if (l.isSome && !holdsMarker l) && (r.isSome && !holdsMarker r) then (if first then .left else .right)
    else if l.isSome && !holdsMarker l then .left else if r.isSome && !holdsMarker r then .right else .wait := by
  have noL : l.any (fun t => t.tt == .resume) = false := by
    cases l with
    | none => rfl
    | some t => simpa using plainL t rfl
  have noR : r.any (fun t => t.tt == .resume) = false := by
    cases r with
    | none => rfl
    | some t => simpa using plainR t rfl
  rw [mergePick, noL, noR]
  rfl

/-- Under `any` data at the left goes first where it came first, and past a marker. -/
theorem mergePick_any_left {t : Tok} (held : l = some t) (data : t.tt.isMarker = false) (next : r = none ∨ holdsMarker r = true ∨ first = true) :
    mergePick false due first l r = .left := by
  rw [mergePick_plain plainL plainR]
  obtain rfl | marker | rfl := next
  · simp [held, data]
  · simp [held, data, marker]
  · simp [held, data]

theorem mergePick_any_right {t : Tok} (held : r = some t) (data : t.tt.isMarker = false) (next : l = none ∨ holdsMarker l = true ∨ first = false) :
    mergePick false due first l r = .right := by
  rw [mergePick_plain plainL plainR]
  obtain rfl | marker | rfl := next
  · simp [held, data]
  · simp [held, data, marker]
  · simp [held, data]

/-- Under `alt` data at the side that is due goes. -/
theorem mergePick_alt_due {t : Tok} (held : (if due then r else l) = some t) (data : t.tt.isMarker = false) :
    mergePick true due first l r = if due then .right else .left := by
  rw [mergePick_plain plainL plainR]
  cases due <;> simp_all

theorem mergePick_alt_waits (empty : (if due then r else l) = none) : mergePick true due first l r = .wait := by
  rw [mergePick_plain plainL plainR]
  cases due <;> simp_all

theorem mergePick_alt_skew {t u : Tok} (held : (if due then r else l) = some t) (other : (if due then l else r) = some u) (marker : t.tt.isMarker = true)
    (data : u.tt.isMarker = false) : mergePick true due first l r = .trap 0x01 := by
  rw [mergePick_plain plainL plainR]
  cases due <;> simp_all

/-- Two markers leave as one when they are of one type. -/
theorem mergePick_markers {t u : Tok} (left : l = some t) (right : r = some u) (markerL : t.tt.isMarker = true) (markerR : u.tt.isMarker = true) :
    mergePick alt due first l r = if t.tt = u.tt then .pair else .trap 0x01 := by
  rw [mergePick_plain plainL plainR]
  simp [left, right, markerL, markerR]
end

/-! ### The slot -/

section
variable {s : State} {k : TileKey} {n : Nat} (h : SlotAt s k n) {w : NodeOp} {alt : Bool}
include h

/-- What the merge slot picks now. -/
def mergeNow (s : State) (k : TileKey) (n : Nat) (alt : Bool) : MergePick :=
  mergePick alt (rightDueOf (s.slot k n).run) (s.slot k n).leftFirst (s.slot k n).left (s.slot k n).right

theorem execMerge_waits (pick : mergeNow s k n alt = .wait) : execMerge w alt s = .next s := by
  rw [mergeNow] at pick
  simp only [execMerge, atSlot_of h, pick]

theorem execMerge_traps {c : BitVec 8} (pick : mergeNow s k n alt = .trap c) : execMerge w alt s = .next (raiseTrap s (slotSite s k n) c 0) := by
  rw [mergeNow] at pick
  simp only [execMerge, atSlot_of h, pick]

theorem execMerge_pair (pick : mergeNow s k n alt = .pair) {t : Tok} (left : (s.slot k n).left = some t) (free : bothFree s k n (formOf (.merge w alt)) = true) :
    execMerge w alt s = .next (forwardBoth s k n (formOf (.merge w alt)) t) := by
  rw [mergeNow] at pick
  simp only [execMerge, atSlot_of h, pick]
  rw [if_pos free, left]
  rfl

/-- The state in which a merged token leaves: its latch is empty, and `alt` waits for the other side. -/
def mergeTaken (s : State) (k : TileKey) (n : Nat) (alt : Bool) (p : Pos) : State :=
  s.setSlot k n { (s.slot k n).put p none with run := if alt then .alt (p == .left) else (s.slot k n).run }

/-- Whether both targets take the merged token. -/
def mergeFree (s : State) (k : TileKey) (w : NodeOp) : Bool := targetFree (s.tile k) w.tga && targetFree (s.tile k) w.tgb

theorem execMerge_takes {p : Pos} {t : Tok} (pick : (p = .left ∧ mergeNow s k n alt = .left) ∨ (p = .right ∧ mergeNow s k n alt = .right))
    (held : (s.slot k n).at_ p = some t) (free : mergeFree (mergeTaken s k n alt p) k w = true) :
    execMerge w alt s = .next (sendBoth (mergeTaken s k n alt p) k n w.tga w.tgb (some t) (some t)) := by
  rw [mergeFree, mergeTaken] at free
  obtain ⟨rfl, pick⟩ | ⟨rfl, pick⟩ := pick
  all_goals
    rw [mergeNow] at pick
    simp only [execMerge, atSlot_of h, pick, held]
    exact if_pos free
end

/-- Settles O20: each clause is one pick of R123. -/
theorem nodeMerge : Obligations.NodeMerge := by
  unfold Obligations.NodeMerge
  refine fun s k n w alt h plainL plainR => ⟨?anyLeft, ?anyRight, ?altLeft, ?altRight, ?waits, fun t u left right markerL markerR => ⟨?pair, ?skew⟩, ?altSkew⟩
  case anyLeft =>
    rintro t rfl held data next s1 free
    exact execMerge_takes h (.inl ⟨rfl, mergePick_any_left plainL plainR held data next⟩) held free
  case anyRight =>
    rintro t rfl held data next s1 free
    exact execMerge_takes h (.inr ⟨rfl, mergePick_any_right plainL plainR held data next⟩) held free
  case altLeft =>
    rintro t rfl due held data s1 free
    refine execMerge_takes h (.inl ⟨rfl, (mergePick_alt_due plainL plainR ?_ data).trans ?_⟩) held free
    · rw [due]; exact held
    · rw [due]; rfl
  case altRight =>
    rintro t rfl due held data s1 free
    refine execMerge_takes h (.inr ⟨rfl, (mergePick_alt_due plainL plainR ?_ data).trans ?_⟩) held free
    · rw [due]; exact held
    · rw [due]; rfl
  case waits =>
    rintro rfl empty
    exact execMerge_waits h (mergePick_alt_waits plainL plainR empty)
  case pair =>
    exact fun same free => execMerge_pair h ((mergePick_markers plainL plainR left right markerL markerR).trans (if_pos same)) left free
  case skew => exact fun ne => execMerge_traps h ((mergePick_markers plainL plainR left right markerL markerR).trans (if_neg ne))
  case altSkew =>
    rintro t u rfl held other marker data
    exact execMerge_traps h (mergePick_alt_skew plainL plainR held other marker data)

end Sys2Proof.Machine
end

section
/-! PROOF. Controllers (05 R132 to R134): the go token, the permits that each kind's schedule names, the dones, and the marker phase. -/

namespace Sys2Proof.Machine

/-! ### The schedules (R133) -/

section
variable {m own : BitVec 3} {pm1 : BitVec 4} {w : NodeOp} {word : Word64}

theorem ctlForm_s (h : decodeNode word = .ok (.ctlS w m own)) : ctlForm word = some ⟨.s, m.toNat + 1, 1, own.toNat, w⟩ := by rw [ctlForm, h]
theorem ctlForm_p (h : decodeNode word = .ok (.ctlP w m pm1 own)) : ctlForm word = some ⟨.p, m.toNat + 1, pm1.toNat + 1, own.toNat, w⟩ := by rw [ctlForm, h]
theorem ctlForm_q (h : decodeNode word = .ok (.ctlQ w m own)) : ctlForm word = some ⟨.q, m.toNat + 1, 1, own.toNat, w⟩ := by rw [ctlForm, h]

/-- The controller that any of the three words gives. -/
theorem ctlForm_any (h : decodeNode word = .ok (.ctlS w m own) ∨ decodeNode word = .ok (.ctlP w m pm1 own) ∨ decodeNode word = .ok (.ctlQ w m own)) :
    ∃ kind permit, ctlForm word = some ⟨kind, m.toNat + 1, permit, own.toNat, w⟩ := by
  obtain h | h | h := h
  · exact ⟨_, _, ctlForm_s h⟩
  · exact ⟨_, _, ctlForm_p h⟩
  · exact ⟨_, _, ctlForm_q h⟩
end

section
variable {f : CtlForm} {r : CtlRun} (going : r.marker = false)

section
variable {c it : Nat}
include going

/-- `ctl.s` lets one child run at a time, iteration by iteration. -/
theorem ctlNext_s (kind : f.kind = .s) (same : r.issued.sum = r.fin.sum) (more : r.issued.sum < goCount r.go * f.nch) :
    ctlNext f r = some (r.issued.sum % f.nch, r.issued.sum / f.nch) := by
  have some_ : goCount r.go ≠ 0 := fun e => by rw [e, Nat.zero_mul] at more; exact absurd more (Nat.not_lt_zero _)
  simp [ctlNext, some_, going, kind, ← same, more]

/-- `ctl.p` permits the first child that has an iteration left, holds fewer permits than it may, and is behind the child before it. -/
theorem ctlNext_p (kind : f.kind = .p) (child : c < f.nch)
    (first : ∀ x, x ≤ c → (x = c ↔ r.issued.getD x 0 < goCount r.go ∧ r.issued.getD x 0 - r.fin.getD x 0 < f.permit ∧ (x = 0 ∨ r.issued.getD x 0 < r.fin.getD (x - 1) 0))) :
    ctlNext f r = some (c, r.issued.getD c 0) := by
  have may : ∀ x, x ≤ c → ((decide (r.issued.getD x 0 < goCount r.go) && decide (r.issued.getD x 0 - r.fin.getD x 0 < f.permit)
      && (x == 0 || decide (r.issued.getD x 0 < r.fin.getD (x - 1) 0))) = true ↔ x = c) := fun x hx => by
    rw [first x hx]
    simp [and_assoc]
  have some_ : goCount r.go ≠ 0 := fun e => by
    have := ((first c le_rfl).mp rfl).1
    omega
  have found := List.find?_range_eq_some.mpr ⟨(may c le_rfl).mpr rfl, List.mem_range.mpr child, fun x lt => by
    rw [Bool.not_eq_true', ← Bool.not_eq_true, may x lt.le]
    exact lt.ne⟩
  simp only [ctlNext, going, kind, beq_eq_false_iff_ne.mpr some_, Bool.or_false, Bool.false_eq_true, if_false, found, Option.map_some]

/-- `ctl.q` permits each child once. -/
theorem ctlNext_q (kind : f.kind = .q) (some_ : goCount r.go ≠ 0) (child : c < f.nch) (first : ∀ x, x ≤ c → (x = c ↔ r.issued.getD x 0 = 0)) :
    ctlNext f r = some (c, goCount r.go) := by
  have found : (List.range f.nch).find? (fun i => r.issued.getD i 0 == 0) = some c := List.find?_range_eq_some.mpr
    ⟨by simpa using (first c le_rfl).mp rfl, List.mem_range.mpr child, fun x lt => by simpa using fun e => lt.ne ((first x lt.le).mpr e)⟩
  simp only [ctlNext, going, kind, beq_eq_false_iff_ne.mpr some_, Bool.or_false, Bool.false_eq_true, if_false, found, Option.map_some]
end

theorem ctlFinished_of_none (h : goCount r.go = 0) : ctlFinished f r = true := by simp [ctlFinished, h]

theorem ctlFinished_s (kind : f.kind = .s) (h : r.fin.sum = goCount r.go * f.nch) : ctlFinished f r = true := by simp [ctlFinished, kind, h]

theorem ctlFinished_p (kind : f.kind = .p) (h : goCount r.go ≤ r.fin.getD (f.nch - 1) 0) : ctlFinished f r = true := by
  simp only [ctlFinished, kind, decide_eq_true h, ite_self]

theorem ctlFinished_q (kind : f.kind = .q) (h : ∀ x, x < f.nch → r.fin.getD x 0 = 1) : ctlFinished f r = true := by
  have all : (List.range f.nch).all (fun i => r.fin.getD i 0 == 1) = true := List.all_eq_true.mpr fun x hx => beq_iff_eq.mpr (h x (List.mem_range.mp hx))
  simp only [ctlFinished, kind, all, ite_self]
end

section
variable {s : State} {k : TileKey} {n : Nat} (h : SlotAt s k n)
include h

/-! ### An idle controller (R133, R134) -/

section
variable {f : NodeForm} {g : Tok} (idle : (s.slot k n).run = .idle) (right : (s.slot k n).right = some g) (nch : Nat)
include idle right

theorem ctlTake_go (kind : g.tt = .data ∨ g.tt = .control) :
    ctlTake f nch s = .next (s.setSlot k n { s.slot k n with run := .ctl { go := g, issued := List.replicate nch 0, fin := List.replicate nch 0 } }) := by
  obtain ⟨noResume, noFault, noMarker⟩ := TT.ne_of_data kind
  simp [ctlTake, atSlot_of h, idle, right, noResume, noFault, noMarker]

theorem ctlTake_marker (marker : g.tt.isMarker = true) (free : targetFree ((s.setSlot k n ((s.slot k n).put .right none)).tile k) f.op.tga = true) :
    ctlTake f nch s = .next (deliverTok ((s.setSlot k n ((s.slot k n).put .right none)).setSlot k n
      { (s.slot k n).put .right none with run := .ctl { go := g, marker := true } }) k f.op.tga (some g)) := by
  obtain ⟨noResume, noFault⟩ := TT.ne_of_isMarker marker
  simp [ctlTake, atSlot_of h, idle, right, noResume, noFault, marker, free]
end

/-! ### CTL_PERMIT (R132, R133) -/

section
variable {c : CtlForm} (form : ctlForm (s.slot k n).word = some c)
include form

theorem execCtlPermit_sends {r : CtlRun} {ch it : Nat} (run : (s.slot k n).run = .ctl r) (next : ctlNext c r = some (ch, it))
    (free : targetFree (s.tile k) c.w.tga = true) :
    execCtlPermit s = .next (deliverTok (s.setSlot k n { s.slot k n with run := .ctl { r with issued := r.issued.set ch (r.issued.getD ch 0 + 1) } }) k c.w.tga
      (some { tt := .control, tag := r.go.tag, pay := BitVec.ofNat 512 (ch + 2 ^ 32 * (it % 2 ^ 32)), hb := pastOf s [r.go] })) := by
  simp only [execCtlPermit, atSlot_of h, run, form, next, free, if_true]

/-! ### CTL_DONE (R132 to R134) -/

/-- With every done come, the done of the go token leaves. -/
theorem execCtlDone_finishes {r : CtlRun} (left : (s.slot k n).left = none) (run : (s.slot k n).run = .ctl r) (going : r.marker = false)
    (finished : ctlFinished c r = true) (free : targetFree ((s.setSlot k n { (s.slot k n).put .right none with run := .idle }).tile k) c.w.tgb = true) :
    execCtlDone s = .next (deliverTok (s.setSlot k n { (s.slot k n).put .right none with run := .idle }) k c.w.tgb
      (some { tt := .control, tag := r.go.tag, pay := BitVec.ofNat 512 c.own, hb := pastOf s [r.go] })) := by
  simp only [execCtlDone, atSlot_of h, form, left, run, going, finished, free, Bool.not_false, Bool.and_self, if_true]

variable {l : Tok} (left : (s.slot k n).left = some l)
include left

theorem execCtlDone_left : execCtlDone s = ctlDoneIn s k n (s.slot k n) c l := by simp only [execCtlDone, atSlot_of h, form, left]

section
variable (marker : l.tt.isMarker = true)
include marker

theorem execCtlDone_skew (skew : ∀ r, (s.slot k n).run = .ctl r → r.marker = false ∨ l.tt ≠ r.go.tt) :
    execCtlDone s = .next (raiseTrap s (slotSite s k n) 0x01 0) := by
  obtain ⟨noResume, noFault⟩ := TT.ne_of_isMarker marker
  rw [execCtlDone_left h form left]
  simp only [ctlDoneIn, beq_eq_false_iff_ne.mpr noResume, beq_eq_false_iff_ne.mpr noFault, marker, if_true, Bool.false_eq_true, if_false]
  split
  · rename_i r run
    have out : ¬(r.marker && r.go.tt == l.tt) = true := by
      obtain e | e := skew r run
      · simp [e]
      · simp [e.symm]
    rw [if_neg out]
  · rfl

variable {r : CtlRun} (run : (s.slot k n).run = .ctl r) (phase : r.marker = true) (same : l.tt = r.go.tt)
include run phase same

/-- A marker that comes back in the marker phase, with more to come or as the last. -/
theorem execCtlDone_marker : execCtlDone s =
    if r.back + 1 < c.nch then .next (s.setSlot k n { (s.slot k n).put .left none with run := .ctl { r with back := r.back + 1 } })
    else if targetFree ((s.setSlot k n ((s.slot k n).put .left none)).tile k) c.w.tgb then
      .next (deliverTok (noteMarker (s.setSlot k n { (s.slot k n).put .left none with run := .idle }) k n l) k c.w.tgb (some l))
    else .next s := by
  obtain ⟨noResume, noFault⟩ := TT.ne_of_isMarker marker
  rw [execCtlDone_left h form left]
  simp only [ctlDoneIn, beq_eq_false_iff_ne.mpr noResume, beq_eq_false_iff_ne.mpr noFault, marker, run, phase, beq_iff_eq.mpr same.symm, if_true, Bool.false_eq_true, if_false,
    Bool.and_self, State.setSlot_slot_self, State.setSlot_setSlot]
end

section
variable (kind : l.tt = .data ∨ l.tt = .control)
include kind

/-- A done of a child that owes none, at a controller that waits for none. -/
theorem execCtlDone_proto (owes : ∀ r, (s.slot k n).run = .ctl r → r.marker = true ∨ c.nch ≤ (Word.lane l.pay 0).toNat
      ∨ r.issued.getD (Word.lane l.pay 0).toNat 0 ≤ r.fin.getD (Word.lane l.pay 0).toNat 0) :
    execCtlDone s = .next (raiseTrap s (slotSite s k n) 0x0B ((Word.lane l.pay 0).setWidth 64)) := by
  rw [execCtlDone_left h form left, ctlDoneIn]
  obtain ⟨noResume, noFault, noMarker⟩ := TT.ne_of_data kind
  simp only [beq_eq_false_iff_ne.mpr noResume, beq_eq_false_iff_ne.mpr noFault, noMarker, Bool.false_eq_true, if_false]
  split
  · rename_i r run
    exact if_pos (by simpa [or_assoc] using owes r run)
  · rfl

theorem execCtlDone_takes {r : CtlRun} (run : (s.slot k n).run = .ctl r) (going : r.marker = false) (child : (Word.lane l.pay 0).toNat < c.nch)
    (owes : r.fin.getD (Word.lane l.pay 0).toNat 0 < r.issued.getD (Word.lane l.pay 0).toNat 0) :
    execCtlDone s = .next (s.setSlot k n { (s.slot k n).put .left none with
      run := .ctl { r with fin := r.fin.set (Word.lane l.pay 0).toNat (r.fin.getD (Word.lane l.pay 0).toNat 0 + 1), go := r.go.after (pastOf s [l]) } }) := by
  rw [execCtlDone_left h form left, ctlDoneIn]
  obtain ⟨noResume, noFault, noMarker⟩ := TT.ne_of_data kind
  have takes : ¬(r.marker || decide (c.nch ≤ (Word.lane l.pay 0).toNat)
      || decide (r.issued.getD (Word.lane l.pay 0).toNat 0 ≤ r.fin.getD (Word.lane l.pay 0).toNat 0)) = true := by
    simp only [going, Bool.false_or, Bool.or_eq_true, decide_eq_true_eq]
    omega
  simp only [beq_eq_false_iff_ne.mpr noResume, beq_eq_false_iff_ne.mpr noFault, noMarker, Bool.false_eq_true, if_false, run]
  rw [if_neg takes, State.setSlot_slot_self, State.setSlot_setSlot]
end
end
end

/-- The three controllers take their tokens in one way. -/
theorem exec_ctl {s : State} {w : NodeOp} {m own : BitVec 3} {pm1 : BitVec 4} {i : Instr} (hi : i ∈ [Instr.ctlS w m own, .ctlP w m pm1 own, .ctlQ w m own]) :
    exec i s = ctlTake (formOf i) (m.toNat + 1) s ∧ (formOf i).op = w := by
  fin_cases hi <;> exact ⟨rfl, rfl⟩

/-- Settles O21: the go token and the marker of an idle controller, the permits by kind, the dones, and the marker phase. -/
theorem nodeControllers : Obligations.NodeControllers := by
  unfold Obligations.NodeControllers
  refine fun s k n w m own pm1 h => ⟨?go, ?marker, ?back, ?idleDone, ?permit, fun r l word run going => ⟨?done, ?finish⟩⟩
  case go =>
    intro i g hi idle right kind
    rw [(exec_ctl hi).1, ctlTake_go h idle right _ kind]
  case marker =>
    intro i g hi idle right marker s1 free
    obtain ⟨e, op⟩ := exec_ctl (s := s) hi
    rw [e, ctlTake_marker h idle right _ marker (by rw [op]; exact free), op]
  case back =>
    intro r l word run left marker s1
    obtain ⟨kind, permit, form⟩ := ctlForm_any word
    refine ⟨fun phase same more => ?_, fun phase same last free => ?_, fun skew => ?_⟩
    · exact (execCtlDone_marker h form left marker run phase same).trans (if_pos more)
    · have sameSlot : ({ (s.slot k n).put .left none with run := .ctl r } : Slot) = (s.slot k n).put .left none := by
        rw [← run]
        rfl
      refine (execCtlDone_marker h form left marker run phase same).trans ((if_neg last.not_gt).trans (if_pos ?_))
      rw [← sameSlot]
      exact free
    · exact execCtlDone_skew h form left marker fun r' run' => by
        obtain rfl : r' = r := by
          rw [run] at run'
          cases run'
          rfl
        exact skew
  case idleDone =>
    intro l word waits left kind
    obtain ⟨_, _, form⟩ := ctlForm_any word
    refine execCtlDone_proto h form left kind fun r run => .inl ?_
    obtain idle | ⟨r', run', phase⟩ := waits
    · rw [idle] at run
      cases run
    · rw [run'] at run
      cases run
      exact phase
  case permit =>
    rintro r c it ch run going count schedule rfl free
    obtain ⟨word, same, more, rfl, rfl⟩ | ⟨word, child, rfl, first⟩ | ⟨word, some_, child, rfl, first⟩ := schedule
    · exact execCtlPermit_sends h (ctlForm_s word) run (ctlNext_s going rfl same more) free
    · exact execCtlPermit_sends h (ctlForm_p word) run (ctlNext_p going rfl child first) free
    · exact execCtlPermit_sends h (ctlForm_q word) run (ctlNext_q going rfl some_ child first) free
  case done =>
    intro left kind
    obtain ⟨_, _, form⟩ := ctlForm_any word
    refine ⟨fun child owes => ⟨_, execCtlDone_takes h form left kind run going child owes, ?_, ?_, ?_⟩, fun proto => execCtlDone_proto h form left kind fun r' run' => ?_⟩
    · rw [State.setSlot_slot_self]
      rfl
    · rw [State.setSlot_slot_self]
      rfl
    · rw [State.setSlot_slot_self]
    · rw [run] at run'
      cases run'
      exact .inr proto
  case finish =>
    intro left finished s1 free
    obtain none_ | ⟨word, all⟩ | ⟨word, all⟩ | ⟨word, all⟩ := finished
    · obtain ⟨_, _, form⟩ := ctlForm_any word
      exact execCtlDone_finishes h form left run going (ctlFinished_of_none none_) free
    · exact execCtlDone_finishes h (ctlForm_s word) left run going (ctlFinished_s rfl all) free
    · exact execCtlDone_finishes h (ctlForm_p word) left run going (ctlFinished_p rfl all) free
    · exact execCtlDone_finishes h (ctlForm_q word) left run going (ctlFinished_q rfl all) free

end Sys2Proof.Machine
end

section
/-! PROOF. `join` (05 R136, R120): when it fires, and what its releases are. -/

namespace Sys2Proof.Machine

/-! ### Sync events (R307) -/

theorem syncEvent_slot (s : State) (r : Nat) (k : TileKey) (n : Nat) : (syncEvent s r).slot k n = s.slot k n := by
  unfold syncEvent
  split <;> rfl

theorem syncEvent_census (s : State) (r o : Nat) : ((syncEvent s r).region o).census = (s.region o).census := by
  unfold syncEvent
  split
  · by_cases h : o = r
    · subst h
      rw [State.setRegion_region_self]
    · rw [State.setRegion_region_ne _ _ _ _ h]
  · rfl

/-! ### The releases (R136) -/

theorem arcOut_eq (t : Tok) : arcOut t = if t.tt = .fault ∨ t.tt.isMarker = true then t else { t with tt := .control } := by simp [arcOut]

/-- What happened before the tokens that a join consumes together (12 R291). -/
def joinPast (toks : List Tok) : List Nat := toks.foldl (fun a t => hbJoin a t.hb) []

/-- The releases of a join that is not `one`: each arc's on a route of its own. -/
theorem joinOut_arcs (rbase : Nat) (toks : List Tok) : (joinOut false rbase toks).length = toks.length
    ∧ ∀ (i : Nat) (x : Tok), toks[i]? = some x → ∃ y, (joinOut false rbase toks)[i]? = some (Emit.mk (.route (BitVec.ofNat 4 (rbase + i))) { tok := y }) ∧ y.Like (arcOut x) := by
  refine ⟨by simp [joinOut], fun i x at_i => ?_⟩
  obtain ⟨lt, -⟩ := List.getElem?_eq_some_iff.mp at_i
  refine ⟨_, ?_, Tok.after_like (arcOut x) (joinPast toks)⟩
  simp only [joinOut, Bool.false_eq_true, if_false, List.getElem?_map, List.getElem?_range lt, Option.map_some, List.getD_eq_getElem?_getD, at_i, Option.getD_some, joinPast]

/-- The release of a join that is `one`: a fault token, or else arc 0's. -/
theorem joinOut_one (rbase : BitVec 4) (toks : List Tok) :
    ∃ y, joinOut true rbase.toNat toks = [{ dst := .route rbase, parcel := { tok := y } }] ∧ y.Like (arcOut ((toks.find? (fun x => x.tt == .fault)).getD (toks.headD {}))) := by
  refine ⟨_, ?_, Tok.after_like (arcOut ((toks.find? (fun x => x.tt == .fault)).getD (toks.headD {}))) (joinPast toks)⟩
  rw [joinOut, if_pos rfl, BitVec.ofNat_toNat, BitVec.setWidth_eq]
  rfl

/-! ### The firing -/

/-- The state after a join has consumed its arcs' tokens: its releases wait in the slot. -/
def joinFired (s : State) (k : TileKey) (n : Nat) (one : Bool) (rbase nm1 : BitVec 4) (toks : List Tok) (r : Nat) : State :=
  let s2 := s.setSlot k n { s.slot k n with run := .join (List.replicate (nm1.toNat + 1) none), out := joinOut one rbase.toNat toks }
  syncEvent (if toks.any (fun t => t.tt.isMarker) then noteMarker s2 k n (toks.headD {}) else s2) r

section
variable (s : State) (k : TileKey) (n : Nat) (one : Bool) (rbase nm1 : BitVec 4) (toks : List Tok) (r : Nat)

theorem joinFired_run : ((joinFired s k n one rbase nm1 toks r).slot k n).run = .join (List.replicate (nm1.toNat + 1) none) := by
  simp only [joinFired, syncEvent_slot]
  split
  · rw [noteMarker_run, State.setSlot_slot_self]
  · rw [State.setSlot_slot_self]

theorem joinFired_out : ((joinFired s k n one rbase nm1 toks r).slot k n).out = joinOut one rbase.toNat toks := by
  simp only [joinFired, syncEvent_slot]
  split
  · rw [noteMarker_out, State.setSlot_slot_self]
  · rw [State.setSlot_slot_self]

theorem joinFired_census (o : Nat) : ((joinFired s k n one rbase nm1 toks r).region o).census = (s.region o).census := by
  simp only [joinFired, syncEvent_census]
  split
  · rw [(sentFrom_noteMarker _ _ _ _).region, State.setSlot_region]
  · rw [State.setSlot_region]
end

section
variable {s : State} {k : TileKey} {n : Nat} (h : SlotAt s k n) {w : NodeOp} {one : Bool} {vbase : BitVec 5} {rbase nm1 : BitVec 4} {toks : List Tok}
  (run : (s.slot k n).run = .join (toks.map some)) (len : toks.length = nm1.toNat + 1) (fits : vbase.toNat + nm1.toNat + 1 ≤ 32) (noTarget : w.tga = .none)
  (noResume : ∀ t ∈ toks, t.tt ≠ .resume)
include h run len fits noTarget noResume

/-- A join whose arcs all hold a token that is no resume token: markers beside other tokens trap, and else it fires. -/
theorem execJoin_full : execJoin w one vbase rbase nm1 s =
    if toks.any (fun t => t.tt.isMarker) && !(toks.all (fun t => t.tt == (toks.headD {}).tt)) then .next (raiseTrap s (slotSite s k n) 0x01 0)
    else withCensus s k n (if one && !toks.any (fun t => t.tt.isMarker) then -(nm1.toNat : Int) else 0) fun s1 =>
      .next (joinFired s1 k n one rbase nm1 toks (s.regionOf k)) := by
  have full : (arcsOf (nm1.toNat + 1) (s.slot k n).run).filterMap id = toks := by simp [run, arcsOf]
  have may : (decide (vbase.toNat + nm1.toNat < 32) && w.tga == .none && toks.length == nm1.toNat + 1) = true := by
    simp only [noTarget, len, beq_self_eq_true, Bool.and_true, decide_eq_true_eq]
    omega
  have plain : toks.any (fun t => t.tt == .resume) = false := by simpa using noResume
  rw [execJoin, atSlot_of h]
  simp only [full, may, plain, if_true, Bool.false_eq_true, if_false]
  rfl

theorem execJoin_skew (marker : ∃ t ∈ toks, t.tt.isMarker = true) (mixed : ∃ t ∈ toks, ∃ u ∈ toks, t.tt ≠ u.tt) :
    execJoin w one vbase rbase nm1 s = .next (raiseTrap s (slotSite s k n) 0x01 0) := by
  rw [execJoin_full h run len fits noTarget noResume, if_pos]
  have some_ : toks.any (fun t => t.tt.isMarker) = true := by simpa using marker
  rw [some_, Bool.true_and, Bool.not_eq_true', ← Bool.not_eq_true, List.all_eq_true]
  obtain ⟨t, ht, u, hu, ne⟩ := mixed
  exact fun all => ne ((beq_iff_eq.mp (all t ht)).trans (beq_iff_eq.mp (all u hu)).symm)

/-- What a join's firing takes from the census: `one` makes one token of its arcs', unless they are markers. -/
def joinChange (one : Bool) (nm1 : BitVec 4) (toks : List Tok) : Int := if one && !toks.any (fun t => t.tt.isMarker) then -(nm1.toNat : Int) else 0

theorem execJoin_fires (plain : (∀ t ∈ toks, t.tt.isMarker = false) ∨ ∀ t ∈ toks, ∀ u ∈ toks, t.tt = u.tt)
    (lo : 0 ≤ (s.region (s.regionOf k)).census + joinChange one nm1 toks) (hi : (s.region (s.regionOf k)).census + joinChange one nm1 toks ≤ 2147483647) :
    execJoin w one vbase rbase nm1 s = .next (joinFired (censusAdd s (s.regionOf k) (joinChange one nm1 toks)) k n one rbase nm1 toks (s.regionOf k)) := by
  rw [execJoin_full h run len fits noTarget noResume, if_neg, ← joinChange, withCensus_takes _ lo hi]
  rw [Bool.and_eq_true, Bool.not_eq_true', ← Bool.not_eq_true, List.all_eq_true, List.any_eq_true]
  rintro ⟨⟨t, ht, marker⟩, mixed⟩
  obtain noMarker | same := plain
  · rw [noMarker t ht] at marker
    cases marker
  · refine mixed fun u hu => beq_iff_eq.mpr (same u hu _ ?_)
    cases toks with
    | nil => cases ht
    | cons x xs => exact List.mem_cons_self
end

end Sys2Proof.Machine
end

section
/-! PROOF. `fence.sc` and the sluices (05 R137, R138); and O22. -/

namespace Sys2Proof.Machine

/-! ### The word of a node that decodes (01 R15, R36) -/

/-- A word that decodes is the word of its instruction's row, and the row's rules hold. -/
theorem decodeNode_ok {word : Word64} {i : Instr} (h : decodeNode word = .ok i) : ∃ f, i.nodeForm = some f ∧ f.word = word ∧ f.ok = true := by
  unfold decodeNode at h
  split at h
  · cases h
  · split at h
    · cases h
    · split at h
      · cases h
      · split at h
        · cases h
        · rename_i f row
          split at h
          · cases h
          · rename_i same
            split at h
            · rename_i ok
              cases h
              exact ⟨f, row, by simpa using same, ok⟩
            · cases h

section
variable (f : NodeForm)

theorem nodeWord_tga : Word.field f.word 40 12 = f.op.tga.code := by simp (disch := omega) [NodeForm.word, field_append_high, field_append_low, -Nat.reduceAdd]
theorem nodeWord_tgb : Word.field f.word 28 12 = f.op.tgb.code := by simp (disch := omega) [NodeForm.word, field_append_high, field_append_low, -Nat.reduceAdd]
theorem nodeWord_low_field {lo w : Nat} (h : lo + w ≤ 19) : Word.field f.word lo w = Word.field f.low lo w := field_append_low _ _ _ _ h
theorem nodeWord_low_bit {i : Nat} (h : i < 19) : Word.bit f.word i = Word.bit f.low i := bit_append_low _ _ _ h

/-- The targets of a row's word are the row's. -/
theorem wordTgts_word (ok : f.ok = true) : wordTgts f.word = (f.op.tga, f.op.tgb) := by
  rw [wordTgts, nodeWord_tga f, nodeWord_tgb f, Tgt.ofCode_code _ (NodeForm.ok_tga ok), Tgt.ofCode_code _ (NodeForm.ok_tgb ok)]
  rfl
end

/-- What TOKEN_DELIVER reads in the word of a `sluice.loc`. -/
theorem sluiceLoc_word {word : Word64} {w : NodeOp} {scope : BitVec 3} {pair : BitVec 7} {dm1 : BitVec 4} (h : decodeNode word = .ok (.sluiceLocSnd w scope pair dm1)) :
    wordTgts word = (w.tga, w.tgb) ∧ Word.field word 56 8 = (0x92 : BitVec 8) ∧ Word.bit word 12 = false ∧ Word.field word 13 3 = scope := by
  obtain ⟨f, row, rfl, ok⟩ := decodeNode_ok h
  cases row
  refine ⟨wordTgts_word _ ok, NodeForm.word_opc _, ?_, ?_⟩
  · rw [nodeWord_low_bit _ (by decide)]
    simp (disch := omega) [low19_bit_low, bit_append_high, bit_append_low, -Nat.reduceAdd]
  · rw [nodeWord_low_field _ (by decide)]
    simp (disch := omega) [low19_field_low, field_append_high, -Nat.reduceAdd]

/-! ### The nodes -/

/-- A tile whose slots may act is there. -/
theorem tileThere_of_runs {s : State} {k : TileKey} (h : s.tileRuns k = true) : s.tileThere k = true := by
  unfold State.tileRuns at h
  unfold State.tileThere
  split at h
  · rename_i r region
    exact (Bool.and_eq_true_iff.mp h).1
  · cases h

section
variable {s : State} {k : TileKey} {n : Nat} {w : NodeOp} {scope : BitVec 3} {pair : BitVec 7} {dm1 : BitVec 4} {l : Tok}

theorem execFenceSc_eq {o : Opnds} (h : NodeAt s k n (formOf (.fenceSc w scope)) o) : execFenceSc w scope s =
    if released s (slotPast s k n (formOf (.fenceSc w scope))) scope then
      .next (syncEvent (fireTo s k n (formOf (.fenceSc w scope)) (some o.l) (some o.l)) (s.regionOf k))
    else .next s := by
  rw [execFenceSc, fireSlot_of h, h.2.2, Bool.true_and]

section
variable (h : SlotAt s k n) (noResume : l.tt ≠ .resume) (left : (s.slot k n).left = some l)
include h noResume left

/-- `sluice.loc` takes a token while its buffer has room. -/
theorem execSluiceLocSnd_eq : execSluiceLocSnd w scope pair dm1 s =
    if (sluiceBuf (s.slot k n).run).length ≤ dm1.toNat then
      .next (noteMarker (s.setSlot k n { consume (formOf (.sluiceLocSnd w scope pair dm1)) (s.slot k n) with run := .sluice (sluiceBuf (s.slot k n).run ++ [l]) }) k n l)
    else .next s := by
  simp only [execSluiceLocSnd, atSlot_of h, left, beq_eq_false_iff_ne.mpr noResume, Bool.false_eq_true, if_false]

/-- What `sluice.xr.snd` consumes and notes before the token enters the window. -/
def sluiceSent (s : State) (k : TileKey) (n : Nat) (f : NodeForm) (l : Tok) : State := noteMarker (consumeAt s k n f) k n l

theorem execSluiceXrSnd_eq : execSluiceXrSnd w scope pair dm1 s =
    if decide (((s.region (s.regionOf k)).windows.getD pair.toNat []).length ≤ dm1.toNat) && released s (pastOf s [l]) scope then
      let s1 := sluiceSent s k n (formOf (.sluiceXrSnd w scope pair dm1)) l
      .next (s1.setRegion (s.regionOf k) { s1.region (s.regionOf k) with
        windows := (s1.region (s.regionOf k)).windows.put pair.toNat ((s.region (s.regionOf k)).windows.getD pair.toNat [] ++ [l]) })
    else .next s := by
  simp only [execSluiceXrSnd, atSlot_of h, left, beq_eq_false_iff_ne.mpr noResume, Bool.false_eq_true, if_false]
  rfl

omit h noResume left in
theorem sluiceSent_left {f : NodeForm} (hasLeft : f.left = true) : ((sluiceSent s k n f l).slot k n).left = if f.op.lk then (s.slot k n).left else none := by
  rw [sluiceSent, noteMarker_left, consumeAt_slot, consume_left hasLeft]
end

theorem execSluiceXrRcv_sends (h : SlotAt s k n) {ts : List Tok} (run : (s.slot k n).run = .sluice (l :: ts)) (freeA : targetFree (s.tile k) w.tga = true)
    (freeB : targetFree (s.tile k) w.tgb = true) :
    execSluiceXrRcv w scope pair dm1 s =
      .next (sendBoth (noteMarker (s.setSlot k n { s.slot k n with run := .sluice ts }) k n l) k n w.tga w.tgb (some l) (some l)) := by
  have free : (targetFree (s.tile k) (formOf (.sluiceXrRcv w scope pair dm1)).op.tga && targetFree (s.tile k) (formOf (.sluiceXrRcv w scope pair dm1)).op.tgb) = true := by
    rw [Bool.and_eq_true]
    exact ⟨freeA, freeB⟩
  simp only [execSluiceXrRcv, atSlot_of h, run, sluiceBuf]
  exact if_pos free

/-- The oldest token of a `sluice.loc` leaves to both targets once its release is done. -/
theorem slotMove_sluiceLoc {ts : List Tok} (runs : s.tileRuns k = true) (word : decodeNode (s.slot k n).word = .ok (.sluiceLocSnd w scope pair dm1))
    (going : (s.slot k n).stopped = false) (noOut : (s.slot k n).out = []) (noPend : (s.slot k n).pend = []) (run : (s.slot k n).run = .sluice (l :: ts))
    (freeA : targetFree (s.tile k) w.tga = true) (freeB : targetFree (s.tile k) w.tgb = true) : slotMove s k n =
      if released s (pastOf s [l]) scope then sendBoth (s.setSlot k n { s.slot k n with run := .sluice ts }) k n w.tga w.tgb (some l) (some l) else s := by
  obtain ⟨tgts, opc, local_, scopeField⟩ := sluiceLoc_word word
  simp only [slotMove, noOut, runs, noPend, run, going, tgts, opc, local_, scopeField, freeA, freeB, Bool.not_true, Bool.not_false, Bool.false_eq_true, if_false, beq_self_eq_true,
    Bool.and_true, Bool.true_and]
end

/-- Settles O22: the join by its arcs' tokens, the fence by its release, and each sluice by its buffer. -/
theorem nodeJoinFenceAndSluice : Obligations.NodeJoinFenceAndSluice := by
  unfold Obligations.NodeJoinFenceAndSluice
  refine ⟨fun s k n w one vbase rbase nm1 toks h run len fits noTarget => ⟨?skew, ?joins⟩,
    fun s k n w o scope pair dm1 l ts => ⟨?fence, ?loc, ?snd, ?rcv, ?deliver⟩⟩
  case skew => exact fun noResume marker mixed => execJoin_skew h run len fits noTarget noResume marker mixed
  case joins =>
    intro plain room lo hi
    have noResume : ∀ t ∈ toks, t.tt ≠ .resume := by
      intro t ht e
      obtain kinds | ⟨⟨u, hu, marker⟩, same⟩ := plain
      · have := kinds t ht
        simp [e] at this
      · rw [← same t ht u hu, e] at marker
        cases marker
    have fires : (∀ t ∈ toks, t.tt.isMarker = false) ∨ ∀ t ∈ toks, ∀ u ∈ toks, t.tt = u.tt := by
      obtain kinds | ⟨-, same⟩ := plain
      · refine .inl fun t ht => ?_
        obtain e | e | e := kinds t ht <;> rw [e] <;> rfl
      · exact .inr same
    have isMarker : toks.any (fun t => t.tt.isMarker) = true ↔ ∃ t ∈ toks, t.tt.isMarker = true := List.any_eq_true
    have change : joinChange one nm1 toks = if one = true ∧ ¬∃ t ∈ toks, t.tt.isMarker = true then -(nm1.toNat : Int) else 0 := by
      simp only [joinChange, Bool.and_eq_true, Bool.not_eq_true', ← Bool.not_eq_true, isMarker]
    have counted : one = true → (¬∃ t ∈ toks, t.tt.isMarker = true) → joinChange one nm1 toks = -(nm1.toNat : Int) := fun e noMarker => by rw [change, if_pos ⟨e, noMarker⟩]
    have uncounted : one = false ∨ (∃ t ∈ toks, t.tt.isMarker = true) → joinChange one nm1 toks = 0 := fun e => by
      rw [change, if_neg]
      rintro ⟨isOne, noMarker⟩
      obtain e | e := e
      · rw [isOne] at e
        cases e
      · exact noMarker e
    have range : 0 ≤ (s.region (s.regionOf k)).census + joinChange one nm1 toks ∧ (s.region (s.regionOf k)).census + joinChange one nm1 toks ≤ 2147483647 := by
      by_cases takes : one = true ∧ ¬∃ t ∈ toks, t.tt.isMarker = true
      · have := room takes.1 takes.2
        rw [counted takes.1 takes.2]
        omega
      · rw [change, if_neg takes]
        omega
    refine ⟨_, execJoin_fires h run len fits noTarget noResume fires range.1 range.2, joinFired_run _ _ _ _ _ _ _ _, fun e noMarker => ?_, fun e => ?_, fun e => ?_, fun e => ?_⟩
    · rw [joinFired_census, censusAdd_census, counted e noMarker, Int.sub_eq_add_neg]
    · rw [joinFired_census, censusAdd_census, uncounted e, Int.add_zero]
    · subst e
      rw [joinFired_out, (joinOut_arcs rbase.toNat toks).1, len]
      refine ⟨rfl, fun i x at_i => ?_⟩
      obtain ⟨y, out, like⟩ := (joinOut_arcs rbase.toNat toks).2 i x at_i
      exact ⟨y, out, (arcOut_eq x).subst (motive := y.Like) like⟩
    · subst e
      rw [joinFired_out]
      obtain ⟨y, out, like⟩ := joinOut_one rbase toks
      exact ⟨y, out, (arcOut_eq _).subst (motive := y.Like) like⟩
  case fence =>
    exact fun at_ => ⟨fun done => (execFenceSc_eq at_).trans (if_pos done), fun waits => (execFenceSc_eq at_).trans (if_neg (by rw [waits]; decide))⟩
  case loc =>
    intro h noResume sl i left run
    have buf : sluiceBuf (s.slot k n).run = ts := by
      obtain run | ⟨run, rfl⟩ := run
      · simp only [sl] at run
        rw [run]
        rfl
      · simp only [sl] at run
        rw [run]
        rfl
    have step := execSluiceLocSnd_eq (w := w) (scope := scope) (pair := pair) (dm1 := dm1) h noResume left
    rw [buf] at step
    refine ⟨fun room => ⟨_, step.trans (if_pos room), ?_, ?_⟩, fun full => step.trans (if_neg full.not_ge)⟩
    · rw [noteMarker_left, State.setSlot_slot_self]
      exact (consume_left rfl _).trans (by rw [left]; rfl)
    · rw [noteMarker_run, State.setSlot_slot_self]
  case snd =>
    intro h noResume i left window
    have step := execSluiceXrSnd_eq (w := w) (scope := scope) (pair := pair) (dm1 := dm1) h noResume left
    rw [window] at step
    refine ⟨fun room done => ⟨_, step.trans (if_pos (by simp [room, done])), ?_, ?_⟩, fun waits => step.trans (if_neg ?_)⟩
    · rw [State.setRegion_slot, sluiceSent_left rfl, left]
      rfl
    · rw [State.setRegion_region_self, Map.getD_put_self]
    · rw [Bool.and_eq_true, decide_eq_true_eq]
      rintro ⟨room, done⟩
      obtain full | undone := waits
      · omega
      · rw [undone] at done
        cases done
  case rcv =>
    intro h run s1 freeA freeB
    exact execSluiceXrRcv_sends h run freeA freeB
  case deliver =>
    intro focus runs sl s1 word going noOut noPend run freeA freeB
    have step := (exec_slot focus (tileThere_of_runs runs)).trans (congrArg Host.Outcome.next (slotMove_sluiceLoc runs word going noOut noPend run freeA freeB))
    exact ⟨fun done => step.trans (by rw [if_pos done]), fun waits => step.trans (by rw [waits]; rfl)⟩

end Sys2Proof.Machine
end

section
/-! PROOF. What the block engine does for each request (05 R151, R152; 15 R344); and O28. -/

namespace Sys2Proof.Machine

/-! ### Pools (R344) -/

/-- The lowest free block is looked for as the lowest free tag is. -/
theorem lowestBlock_eq_lowestTag (used : List Nat) (n i : Nat) : lowestBlock used n i = lowestTag used n i := by
  induction n generalizing i with
  | zero => rfl
  | succ n ih => rw [lowestBlock, lowestTag, ih]

theorem poolFree_eq_some {x : Pool} {id : Nat} (lt : id < 32 * x.npages) (free : id ∉ x.used) (below : ∀ y, y < id → y ∈ x.used) : poolFree x = some id := by
  rw [poolFree, lowestBlock_eq_lowestTag]
  exact lowestTag_eq_some free (Nat.zero_le _) (by omega) fun u _ lt => below u lt

theorem poolFree_eq_none {x : Pool} (all : ∀ y, y < 32 * x.npages → y ∈ x.used) : poolFree x = none := by
  rw [poolFree, lowestBlock_eq_lowestTag]
  exact lowestTag_eq_none fun u _ lt => all u (by omega)

theorem poolMark_of_pool {b : Stack} {pool : Nat} {x : Pool} (h : b.pools.get? pool = some x) (id : Nat) (use : Bool) :
    poolMark b pool id use = { b with pools := b.pools.put pool { x with used := if use then id :: x.used else x.used.filter (· != id) } } := by
  rw [poolMark, h]

theorem poolMark_get?_self (b : Stack) (pool id : Nat) :
    (poolMark b pool id false).pools.get? pool = (b.pools.get? pool).map fun x => { x with used := x.used.filter (· != id) } := by
  unfold poolMark
  split
  · rename_i x found
    rw [found]
    exact Map.get?_put_self _ _ _
  · rename_i found
    rw [found]
    rfl

theorem poolMark_get?_ne (b : Stack) {pool n : Nat} (ne : n ≠ pool) (id : Nat) (use : Bool) : (poolMark b pool id use).pools.get? n = b.pools.get? n := by
  unfold poolMark
  split
  · exact Map.get?_put_ne _ _ _ _ ne
  · rfl

/-! ### The blocks that a trim takes -/

/-- Every block of a leaf made free in a pool. -/
def freeBlocks (b : Stack) (pool : Nat) (ids : List (BitVec 32)) : Stack := ids.foldl (fun b id => poolMark b pool id.toNat false) b

theorem freeBlocks_tables (b : Stack) (pool : Nat) (ids : List (BitVec 32)) :
    (freeBlocks b pool ids).seqs = b.seqs ∧ (freeBlocks b pool ids).evicted = b.evicted := by
  induction ids generalizing b with
  | nil => exact ⟨rfl, rfl⟩
  | cons id ids ih => exact ih (poolMark b pool id.toNat false)

theorem freeBlocks_get?_ne (b : Stack) {pool n : Nat} (ne : n ≠ pool) (ids : List (BitVec 32)) : (freeBlocks b pool ids).pools.get? n = b.pools.get? n := by
  induction ids generalizing b with
  | nil => rfl
  | cons id ids ih => exact (ih _).trans (poolMark_get?_ne b ne _ _)

/-- The pool keeps the used blocks that are none of those. -/
theorem freeBlocks_get?_self {b : Stack} {pool : Nat} {x : Pool} (h : b.pools.get? pool = some x) (ids : List (BitVec 32)) :
    ∃ z, (freeBlocks b pool ids).pools.get? pool = some z ∧ z.ctx = x.ctx ∧ z.vpn = x.vpn ∧ z.npages = x.npages
      ∧ ∀ id, id ∈ z.used ↔ id ∈ x.used ∧ ∀ l ∈ ids, l.toNat ≠ id := by
  induction ids generalizing b x with
  | nil => exact ⟨x, h, rfl, rfl, rfl, fun id => by simp⟩
  | cons i ids ih =>
    obtain ⟨z, found, ctx, vpn, npages, used⟩ := ih (b := poolMark b pool i.toNat false) (x := { x with used := x.used.filter (· != i.toNat) }) (by rw [poolMark_get?_self, h, Option.map_some])
    refine ⟨z, found, ctx, vpn, npages, fun id => ?_⟩
    rw [used id, List.forall_mem_cons, List.mem_filter, bne_iff_ne, and_assoc, ne_comm (a := id)]

/-! ### The requests -/

section
variable {b : Stack} {c q g i : Nat} {t : SeqTable} {x : Group}

/-- `groupPut` puts the group back in its table, and that in its stack. -/
theorem groupPut_get? (b : Stack) (q : Nat) (t d : SeqTable) (g : Nat) (y : Group) : (((groupPut b q t g y).seqs.getD q d).groups.get? g) = some y := by
  rw [groupPut, Map.getD_put_self, Map.get?_put_self]

/-! A request that fails changes nothing. -/

theorem serveAlloc_done_or (b : Stack) (c pool : Nat) : (serveAlloc b c pool).2.status = 0 ∨ (serveAlloc b c pool).1 = b := by
  unfold serveAlloc
  split
  · exact .inr rfl
  · split
    · exact .inr rfl
    · split
      · exact .inr rfl
      · exact .inl rfl

theorem serveFree_done_or (b : Stack) (c pool id : Nat) : (serveFree b c pool id).2.status = 0 ∨ (serveFree b c pool id).1 = b := by
  unfold serveFree
  split
  · exact .inr rfl
  · split
    · exact .inr rfl
    · split
      · exact .inr rfl
      · split
        · exact .inl rfl
        · exact .inr rfl

theorem serveAppend_done_or (b : Stack) (c q g : Nat) : (serveAppend b c q g).2.status = 0 ∨ (serveAppend b c q g).1 = b := by
  unfold serveAppend
  split
  · exact .inr rfl
  · split
    · exact .inr rfl
    · split
      · exact .inr rfl
      · split
        · exact .inr rfl
        · split
          · exact .inr rfl
          · exact .inl rfl

theorem serveLook_done_or (b : Stack) (c q g i : Nat) : (serveLook b c q g i).2.status = 0 ∨ (serveLook b c q g i).1 = b := by
  unfold serveLook
  split
  · exact .inr rfl
  · split
    · exact .inr rfl
    · exact .inl rfl

theorem serveTrim_done_or (b : Stack) (c q g i : Nat) : (serveTrim b c q g i).2.status = 0 ∨ (serveTrim b c q g i).1 = b := by
  unfold serveTrim
  split
  · exact .inr rfl
  · split
    · exact .inr rfl
    · exact .inl rfl

theorem serveReq_done_or (b : Stack) (c : Nat) (opc : BitVec 8) (p : Payload) : (serveReq b c opc p).2.status = 0 ∨ (serveReq b c opc p).1 = b := by
  unfold serveReq
  split
  · exact serveAlloc_done_or _ _ _
  · split
    · exact serveFree_done_or _ _ _ _
    · split
      · exact serveAppend_done_or _ _ _ _
      · split
        · exact serveLook_done_or _ _ _ _ _
        · exact serveTrim_done_or _ _ _ _ _

/-! What each request does. -/

section
variable {pool id : Nat} {x : Pool} (found : b.pools.get? pool = some x) (own : x.ctx = c)
include found own

theorem serveAlloc_takes {id : Nat} (free : poolFree x = some id) : serveAlloc b c pool = (poolMark b pool id true, ⟨0, id, 0, 0⟩) := by
  simp only [serveAlloc, found, own, free, bne_self_eq_false, Bool.false_eq_true, if_false]

theorem serveAlloc_full (full : poolFree x = none) : serveAlloc b c pool = (b, ⟨2, 0, 0, 0⟩) := by
  simp only [serveAlloc, found, own, full, bne_self_eq_false, Bool.false_eq_true, if_false]

theorem serveFree_eq (lt : id < 32 * x.npages) :
    serveFree b c pool id = if x.used.contains id then (poolMark b pool id false, ⟨0, id, 0, 0⟩) else (b, ⟨6, 0, 0, 0⟩) := by
  have inPool : ¬x.npages ≤ id / 32 := by omega
  simp only [serveFree, found, own, bne_self_eq_false, Bool.false_eq_true, if_false, inPool]
end

/-- Without a pool of the context's own, `balloc` and `bfree` answer NOPOOL. -/
theorem serve_noPool {pool : Nat} (foreign : ∀ x, b.pools.get? pool = some x → x.ctx ≠ c) (id : Nat) :
    (serveAlloc b c pool).2.status = 5 ∧ (serveFree b c pool id).2.status = 5 := by
  unfold serveAlloc serveFree
  split
  · exact ⟨rfl, rfl⟩
  · rename_i x found
    rw [if_pos (bne_iff_ne.mpr (foreign x found)), if_pos (bne_iff_ne.mpr (foreign x found))]
    exact ⟨rfl, rfl⟩

theorem serve_noGroup (h : groupOf b c q g = none) (i : Nat) :
    (serveAppend b c q g).2.status = 3 ∧ (serveLook b c q g i).2.status = 3 ∧ (serveTrim b c q g i).2.status = 3 := by
  simp only [serveAppend, serveLook, serveTrim, h, and_self]

section
variable (group : groupOf b c q g = some (t, x))
include group

theorem serveAppend_noPool (foreign : ∀ p, b.pools.get? t.pool = some p → p.ctx ≠ c) : (serveAppend b c q g).2.status = 5 := by
  have noPool : (b.pools.get? t.pool).any (fun p => p.ctx == c) = false := by
    rw [← Bool.not_eq_true, Option.any_eq_true]
    rintro ⟨p, found, own⟩
    exact foreign p found (beq_iff_eq.mp own)
  simp only [serveAppend, group, noPool, Bool.not_false, if_true]

section
variable {p : Pool} (found : b.pools.get? t.pool = some p) (own : p.ctx = c)
include found own

theorem serveAppend_full (full : 4096 ≤ x.leaf.length) : (serveAppend b c q g).2.status = 1 := by
  simp only [serveAppend, group, found, Option.any_some, own, beq_self_eq_true, Bool.not_true, Bool.false_eq_true, if_false, full, if_true]

/-- A block for a leaf that has a frame already: no table has to leave. -/
theorem serveAppend_grows {id : Nat} (nonempty : x.leaf ≠ []) (room : x.leaf.length < 4096) (free : poolFree p = some id) :
    serveAppend b c q g = (groupPut (poolMark b t.pool id true) q t g { x with leaf := x.leaf ++ [BitVec.ofNat 32 id] }, ⟨0, id, x.leaf.length, x.leaf.length + 1⟩) := by
  have fits : ¬4096 ≤ x.leaf.length := by omega
  have framed : x.leaf.isEmpty = false := by simpa using nonempty
  simp only [serveAppend, group, found, Option.any_some, own, beq_self_eq_true, Bool.not_true, Bool.false_eq_true, if_false, fits, framed, Option.bind_some, free]
end

theorem serveLook_finds {id : BitVec 32} (at_i : x.leaf[i]? = some id) : serveLook b c q g i = (groupPut b q t g x, ⟨0, id.toNat, i, x.leaf.length⟩) := by
  simp only [serveLook, group, at_i]

theorem serveLook_end (past : x.leaf.length ≤ i) : serveLook b c q g i = (b, ⟨4, 0, 0, 0⟩) := by
  simp only [serveLook, group, List.getElem?_eq_none past]

theorem serveTrim_eq : serveTrim b c q g i = if x.leaf.length < i then (b, ⟨4, 0, 0, 0⟩) else
    (groupPut (freeBlocks b t.pool (x.leaf.drop i)) q t g { x with leaf := x.leaf.take i, frame := if i == 0 then 0x7FF else x.frame }, ⟨0, x.leaf.length - i, i, i⟩) := by
  simp only [serveTrim, group]
  rfl
end
end

/-- Settles O28: each request by its own function, a trim by an induction over the blocks it takes. -/
theorem blockRequests : Obligations.BlockRequests := by
  unfold Obligations.BlockRequests
  intro b c p a lowest res st
  refine ⟨fun opc fails => (serveReq_done_or b c opc p).resolve_left fails, ?alloc, ?allocFull, serve_noPool (id := a 1), ?free, serve_noGroup (i := a 2), fun t g group => ⟨?noPool, ?full, ?append, ?look, ?lookEnd, ?trimEnd, ?trim⟩⟩
  case alloc =>
    rintro x id found own ⟨lt, free, below⟩
    have step := serveAlloc_takes found own (poolFree_eq_some lt free below)
    rw [poolMark_of_pool found] at step
    exact ⟨congrArg Prod.snd step, congrArg Prod.fst step⟩
  case allocFull =>
    intro x found own all
    exact congrArg (fun r => r.2.status) (serveAlloc_full found own (poolFree_eq_none all))
  case free =>
    intro x found own lt
    have step := serveFree_eq found own lt
    refine ⟨fun used => ?_, fun unused => ?_⟩
    · rw [if_pos (List.contains_iff_mem.mpr used), poolMark_of_pool found] at step
      exact ⟨congrArg Prod.snd step, congrArg Prod.fst step⟩
    · rw [if_neg (mt List.contains_iff_mem.mp unused)] at step
      exact congrArg (fun r => r.2.status) step
  case noPool => exact serveAppend_noPool group
  case full => exact fun x found own full => serveAppend_full group found own full
  case append =>
    rintro x id nonempty room found own ⟨lt, free, below⟩
    have step := serveAppend_grows group found own nonempty room (poolFree_eq_some lt free below)
    rw [poolMark_of_pool found] at step
    refine ⟨congrArg Prod.snd step, congrArg (fun r => r.1.pools) step, ?_⟩
    exact (congrArg (fun r => (r.1.seqs.getD (a 0) t).groups.get? (a 1)) step).trans (groupPut_get? _ _ _ _ _ _)
  case look =>
    intro id at_i
    have step := serveLook_finds group at_i
    exact ⟨congrArg Prod.snd step, congrArg (fun r => r.1.pools) step⟩
  case lookEnd =>
    intro past
    exact congrArg (fun r => r.2.status) (serveLook_end group past)
  case trimEnd =>
    intro past
    have step := serveTrim_eq (i := a 2) group
    rw [if_pos past] at step
    exact congrArg (fun r => r.2.status) step
  case trim =>
    intro le
    have step := serveTrim_eq (i := a 2) group
    rw [if_neg (by omega)] at step
    obtain ⟨seqs, evicted⟩ := freeBlocks_tables b t.pool (g.leaf.drop (a 2))
    have state := congrArg Prod.fst step
    change st 0xBC = _ at state
    rw [state]
    refine ⟨congrArg Prod.snd step, ⟨_, groupPut_get? _ _ _ _ _ _, rfl, rfl⟩, fun x found => freeBlocks_get?_self found _, fun n ne => freeBlocks_get?_ne b ne _, fun q ne => ?_, fun n ne => ?_, evicted⟩
    · rw [groupPut, Map.get?_put_ne _ _ _ _ ne, seqs]
    · rw [groupPut, Map.getD_put_self, Map.get?_put_ne _ _ _ _ ne]

end Sys2Proof.Machine
end

section
/-! PROOF. Block nodes and the engine that serves them (05 R150, R153; 11 R270; 15 R346); and O27. -/

namespace Sys2Proof.Machine

/-! ### The nodes (R150) -/

/-- A result of a malformed request: ARG in lane 0, and every other lane zero. -/
theorem blockPay_arg : Word.lane (blockPay ⟨7, 0, 0, 0⟩) 0 = 7 ∧ ∀ j, j < 16 → 1 ≤ j → Word.lane (blockPay ⟨7, 0, 0, 0⟩) j = 0 := by
  obtain ⟨status, one, two, above⟩ := lane_three 7 0 0
  refine ⟨status, fun j hi lo => ?_⟩
  by_cases high : 3 ≤ j
  · exact above j high hi
  · obtain rfl | rfl : j = 1 ∨ j = 2 := by omega
    · exact one
    · exact two

theorem blockArgsOk_stack {opc : BitVec 8} {p : Payload} (h : blockArgsOk opc p = true) : (Word.lane p 15).toNat < 24 := by
  unfold blockArgsOk at h
  simpa using (Bool.and_eq_true_iff.mp h).1

section
variable {s : State} {k : TileKey} {n : Nat} {f : NodeForm} {o : Opnds} (h : SlotAt s k n) (gate : gateOf f (s.slot k n) = .go o)
include h gate

/-- The request token of a block node. -/
def blockTok (s : State) (k : TileKey) (n : Nat) (f : NodeForm) (o : Opnds) : Tok := (resultTok o o.l.pay).after (slotPast s k n f)

/-- A block node's operands consumed, its slot with one more outstanding request. -/
def blockSent (s : State) (k : TileKey) (n : Nat) (f : NodeForm) (p : Pend) : State :=
  (consumeAt s k n f).setSlot k n { (consumeAt s k n f).slot k n with pend := ((consumeAt s k n f).slot k n).pend ++ [p] }

omit h gate in
theorem blockSent_pend (p : Pend) : ((blockSent s k n f p).slot k n).pend = (s.slot k n).pend ++ [p] := by
  rw [blockSent, State.setSlot_slot_self, consumeAt_slot, (latchesOnly_consume f _).pend]

theorem fireBlock_eq : fireBlock f s =
    if 16 ≤ (s.slot k n).pend.length then .next s
    else if blockArgsOk f.opc o.l.pay then
      let e := (Word.lane o.l.pay 15).toNat
      .next ((blockSent s k n f { tok := blockTok s k n f o }).setBase e { s.base e with
        reqs := (s.base e).reqs ++ [.node k n (s.launchOf k) (s.ctxOf k) ((s.slot k n).rounds + 1) f.opc (blockTok s k n f o)] })
    else .next (blockSent s k n f { tok := blockTok s k n f o, done := some { blockTok s k n f o with pay := blockPay ⟨7, 0, 0, 0⟩ } }) := by
  rw [fireBlock, atSlot_of h, gate]
  rfl

theorem fireBlock_full (full : 16 ≤ (s.slot k n).pend.length) : fireBlock f s = .next s := (fireBlock_eq h gate).trans (if_pos full)

section
variable (room : (s.slot k n).pend.length < 16)
include room

/-- A well-made request goes to its engine. -/
theorem fireBlock_sends (ok : blockArgsOk f.opc o.l.pay = true) : ∃ t, fireBlock f s = .next t
    ∧ (t.slot k n).pend = (s.slot k n).pend ++ [{ tok := blockTok s k n f o }]
    ∧ (t.base (Word.lane o.l.pay 15).toNat).reqs = (s.base (Word.lane o.l.pay 15).toNat).reqs
      ++ [.node k n (s.launchOf k) (s.ctxOf k) ((s.slot k n).rounds + 1) f.opc (blockTok s k n f o)] := by
  refine ⟨_, (fireBlock_eq h gate).trans ((if_neg (by omega)).trans (if_pos ok)), ?_, ?_⟩
  · rw [State.setBase_slot, blockSent_pend]
  · rw [State.setBase_base_self]

/-- A malformed one has its result at once. -/
theorem fireBlock_arg (bad : blockArgsOk f.opc o.l.pay = false) : ∃ t, fireBlock f s = .next t
    ∧ (t.slot k n).pend = (s.slot k n).pend ++ [{ tok := blockTok s k n f o, done := some { blockTok s k n f o with pay := blockPay ⟨7, 0, 0, 0⟩ } }]
    ∧ t.bases = s.bases :=
  ⟨_, (fireBlock_eq h gate).trans ((if_neg (by omega)).trans (if_neg (by rw [bad]; decide))), blockSent_pend _, rfl⟩
end
end

/-- The block nodes all fire as one. -/
theorem exec_block {w : NodeOp} {i : Instr} (h : i ∈ [Instr.balloc w, .bfree w, .bappend w, .blook w, .btrim w]) (s : State) : exec i s = fireBlock (formOf i) s := by
  simp only [List.mem_cons, List.not_mem_nil, or_false] at h
  obtain rfl | rfl | rfl | rfl | rfl := h <;> rfl

/-! ### The table that a restore gives back (R346) -/

/-- One group of a table back in it: one with blocks takes the lowest free frame. -/
def regroup (acc : Map Group × List Nat) (g : Nat × Group) : Map Group × List Nat :=
  if g.2.leaf.isEmpty then (acc.1.put g.1 g.2, acc.2)
  else
    let fr := (lowestBlock acc.2 Config.leafFrames 0).getD 0x7FF
    (acc.1.put g.1 { g.2 with frame := fr }, fr :: acc.2)

theorem regroup_put (acc : Map Group × List Nat) (g : Nat × Group) : ∃ z, (regroup acc g).1 = acc.1.put g.1 z ∧ z.leaf = g.2.leaf ∧ z.policy = g.2.policy := by
  unfold regroup
  split
  · exact ⟨g.2, rfl, rfl, rfl⟩
  · exact ⟨_, rfl, rfl, rfl⟩

theorem regroups_get?_ne (gs : Map Group) {g : Nat} (notIn : g ∉ gs.map Prod.fst) (acc : Map Group × List Nat) : (gs.foldl regroup acc).1.get? g = acc.1.get? g := by
  induction gs generalizing acc with
  | nil => rfl
  | cons x gs ih =>
    rw [List.map_cons, List.mem_cons, not_or] at notIn
    obtain ⟨z, put, -, -⟩ := regroup_put acc x
    rw [List.foldl_cons, ih notIn.2, put, Map.get?_put_ne _ _ _ _ notIn.1]

/-- Every group of a table comes back with its leaf and its policy. -/
theorem regroups_get? {gs : Map Group} {g : Nat} {y : Group} (isIn : (g, y) ∈ gs) (nodup : (gs.map Prod.fst).Nodup) (acc : Map Group × List Nat) :
    ∃ z, (gs.foldl regroup acc).1.get? g = some z ∧ z.leaf = y.leaf ∧ z.policy = y.policy := by
  induction gs generalizing acc with
  | nil => cases isIn
  | cons x gs ih =>
    rw [List.map_cons, List.nodup_cons] at nodup
    rw [List.foldl_cons]
    obtain rfl | isIn := List.mem_cons.mp isIn
    · obtain ⟨z, put, leaf, policy⟩ := regroup_put acc (g, y)
      exact ⟨z, by rw [regroups_get?_ne gs nodup.1, put, Map.get?_put_self], leaf, policy⟩
    · exact ih isIn nodup.2 _

theorem restoreTable_spec {b b1 : Stack} {q : Nat} {t : SeqTable} (evicted : b.evicted.get? q = some t) (h : restoreTable b q = some b1) :
    q ∉ b1.restoring ∧ ∃ used fr, b1.seqs.get? q = some { t with groups := (t.groups.foldl regroup ([], fr)).1, used := used, places := [] } := by
  simp only [restoreTable, evicted] at h
  split at h
  · cases h
  · rename_i b2 room
    cases h
    refine ⟨by simp, b2.uses, framesUsed b2, ?_⟩
    exact Map.get?_put_self _ _ _

/-! ### The engine -/

section
variable {s : State} {n i : Nat} (stack : n < 24) (focus : s.focus = .engine n i)
include stack focus

theorem atEngine_of (go : Nat → Nat → Stack → Out) : atEngine s go = go n i (s.base n) := by
  rw [atEngine, focus]
  exact if_pos stack

section
variable {k : TileKey} {slot l c round : Nat} {opc : BitVec 8} {t : Tok} (req : (s.base n).reqs[i]? = some (.node k slot l c round opc t)) (turn : reqTurn s (s.base n) i = true)
include req turn

/-- The engine serves a request whose table, if it names one, is there. -/
theorem execBlockEngineServe_serves (noRestore : needsRestore s (s.base n) (.node k slot l c round opc t) = none) : execBlockEngineServe s =
    let r := serveReq { s.base n with reqs := (s.base n).reqs.eraseIdx i } c opc t.pay
    .next (slotResult (setEngine s n r.1) l k slot t r.2) := by
  simp only [execBlockEngineServe, atEngine_of stack focus, turn, req, noRestore, Bool.not_true, Bool.false_eq_true, if_false]

theorem execBlockEngineServe_restores {q : Nat} (restore : needsRestore s (s.base n) (.node k slot l c round opc t) = some q) (room : (restoreTable (s.base n) q).isSome = true) :
    execBlockEngineServe s = .next (beginRestore s n q) := by
  simp only [execBlockEngineServe, atEngine_of stack focus, turn, req, restore, room, Bool.not_true, Bool.false_eq_true, if_false, if_true]
end

theorem execTableRestore_unread (unread : tableRead s n i = false) : execTableRestore s = .next s := by
  simp only [execTableRestore, atEngine_of stack focus, unread, Bool.not_false, Bool.or_true, if_true]

theorem execTableRestore_read {b1 : Stack} (waits : i ∈ (s.base n).restoring) (read : tableRead s n i = true) (restored : restoreTable (s.base n) i = some b1) :
    execTableRestore s = .next (endRestore (setEngine s n b1) n i) := by
  simp only [execTableRestore, atEngine_of stack focus, read, List.contains_iff_mem.mpr waits, restored, Bool.not_true, Bool.or_self, Bool.false_eq_true, if_false]
end

/-- A restore that begins takes one more rider entry at the table reach's landing. -/
theorem beginRestore_rides {s : State} {n : Nat} (room : (s.landing (n * 64 + 63)).riders.length < 64) (q : Nat) :
    (beginRestore s n q).base n = { s.base n with restoring := q :: (s.base n).restoring }
      ∧ ((beginRestore s n q).landing (n * 64 + 63)).riders.length = (s.landing (n * 64 + 63)).riders.length + 1 ∧ (beginRestore s n q).tiles = s.tiles := by
  rw [beginRestore, tableLanding, if_neg (by omega)]
  refine ⟨?_, ?_, rfl⟩
  · rw [State.setLanding_base, State.setBase_base_self]
  · rw [State.setLanding_landing_self, List.length_append]
    rfl

/-- A rider that still wants a unit of a table, or is dead, keeps it unread. -/
theorem tableRead_eq_false {s : State} {n q : Nat} (rides : ∃ r ∈ (s.landing (n * 64 + 63)).riders, r.kind = .table ∧ r.start = q ∧ (r.want ≠ [] ∨ r.dead = true)) :
    tableRead s n q = false := by
  obtain ⟨r, isIn, kind, start, wants⟩ := rides
  rw [tableRead, List.all_eq_false]
  refine ⟨r, isIn, ?_⟩
  rw [kind, start]
  obtain wants | dead := wants
  · simp [wants]
  · simp [dead]

/-- Settles O27: the five nodes by their one firing, the engine by whether a table must be restored first. -/
theorem blockNodesAndEngine : Obligations.BlockNodesAndEngine := by
  unfold Obligations.BlockNodesAndEngine
  refine ⟨fun s k n w o i node h gate => ?nodes, fun s n i stack => ⟨?serve, ?restore, fun focus rides => execTableRestore_unread stack focus (tableRead_eq_false rides)⟩⟩
  case nodes =>
    rw [exec_block node]
    refine ⟨fun room ok => ?_, fun room bad => ?_, fun high => ?_, fireBlock_full h gate⟩
    · obtain ⟨t, step, pend, reqs⟩ := fireBlock_sends h gate room ok
      exact ⟨t, step, blockArgsOk_stack ok, pend, reqs⟩
    · obtain ⟨t, step, pend, bases⟩ := fireBlock_arg h gate room bad
      exact ⟨t, _, step, pend, bases, blockPay_arg.1, fun j lo hi => blockPay_arg.2 j hi lo⟩
    · exact Bool.eq_false_iff.mpr fun ok => absurd (blockArgsOk_stack ok) (by omega)
  case serve =>
    intro k slot l c round opc t focus req turn
    refine ⟨execBlockEngineServe_serves stack focus req turn, fun q restore room entry => ?_⟩
    exact ⟨_, execBlockEngineServe_restores stack focus req turn restore room, beginRestore_rides entry q⟩
  case restore =>
    intro t b1 focus waits read evicted restored
    obtain ⟨done, used, fr, seqs⟩ := restoreTable_spec evicted restored
    exact ⟨execTableRestore_read stack focus waits read restored, _, seqs, rfl, rfl, done, fun g y found nodup => regroups_get? (Map.mem_of_get? found) nodup _⟩

end Sys2Proof.Machine
end

section
/-! PROOF. Translation and the nodes of a port (05 R148, R149; 15 R336); and O26. -/

namespace Sys2Proof.Machine

/-! ### What a translation answers (R148, R336) -/

/-- The class with which an element fails, if it does (R148). -/
def xlatCause (acc : Bool) (v : BitVec 64) (e : Option (BitVec 128)) : Option (BitVec 4) :=
  if v.toNat / 2 ^ 56 ≠ 0 then some 1
  else match e with
  | none => some 1
  | some e =>
      if (acc = false ∧ MapEntry.r e = false) ∨ (acc = true ∧ MapEntry.w e = false) then some 2
      else if MapEntry.far e = true ∨ MapEntry.transit e = true then some 3 else none

/-- The top byte of an element is zero where the element is below 2^56. -/
theorem field_top_eq_zero (v : BitVec 64) : Word.field v 56 8 = (0 : BitVec 8) ↔ v.toNat / 2 ^ 56 = 0 := by
  have top : (Word.field v 56 8).toNat = v.toNat / 2 ^ 56 % 2 ^ 8 := by rw [Word.field, BitVec.extractLsb'_toNat, Nat.shiftRight_eq_div_pow]
  have lt := v.isLt
  rw [← BitVec.toNat_inj, top]
  change _ = 0 ↔ _
  omega

theorem topByte (v : BitVec 64) : (Word.field v 56 8 != (0 : BitVec 8)) = decide (v.toNat / 2 ^ 56 ≠ 0) := by
  rw [Bool.eq_iff_iff, bne_iff_ne, decide_eq_true_iff, Ne, field_top_eq_zero]

/-- A translation fails with the class of the element, or gives the physical address from the entry. -/
theorem xlatWith_eq (acc : Bool) (v : BitVec 64) (e : Option (BitVec 128)) :
    xlatWith acc v e = match xlatCause acc v e with
      | some x => .fail x
      | none => .ok (e.elim 0 fun e => paOf (MapEntry.crn e) (MapEntry.page e * 2 ^ 21 + v.toNat % 2 ^ 21)) := by
  have off : (Word.field v 0 21).toNat = v.toNat % 2 ^ 21 := by simp [Word.field]
  simp only [xlatWith, xlatCause, topByte, decide_eq_true_eq]
  by_cases top : v.toNat / 2 ^ 56 ≠ 0
  · rw [if_pos top, if_pos top]
  rw [if_neg top, if_neg top]
  cases e with
  | none => rfl
  | some e =>
    simp only [Bool.or_eq_true, Bool.and_eq_true, Bool.not_eq_true', Option.elim_some, off]
    by_cases denied : (acc = false ∧ MapEntry.r e = false) ∨ (acc = true ∧ MapEntry.w e = false)
    · rw [if_pos denied, if_pos denied]
    rw [if_neg denied, if_neg denied]
    by_cases away : MapEntry.far e = true ∨ MapEntry.transit e = true
    · rw [if_pos away, if_pos away]
    · rw [if_neg away, if_neg away]

/-- The class with which element `j` of a payload fails, by a way of finding entries. -/
def elemCause (find : Nat → Option (BitVec 128)) (acc : Bool) (p : Payload) (j : Nat) : Option (BitVec 4) := xlatCause acc (Word.a64 p j) (find (vaVpn (Word.a64 p j)))

section
variable (find : Nat → Option (BitVec 128)) (acc : Bool) (l : Tok)

theorem xlatToken_tt : (xlatToken find acc l).tt = if (List.range 8).any (fun j => (elemCause find acc l.pay j).isSome) then .fault else .data := by
  have bad : (fun j => (elemCause find acc l.pay j).isSome) = fun j => match xlatWith acc (Word.a64 l.pay j) (find (vaVpn (Word.a64 l.pay j))) with
      | .ok _ => false
      | .fail _ => true := by
    funext j
    rw [xlatWith_eq, elemCause]
    cases xlatCause acc (Word.a64 l.pay j) (find (vaVpn (Word.a64 l.pay j))) <;> rfl
  rw [bad]
  rfl

theorem xlatToken_elem {j : Nat} (hj : j < 8) : Word.a64 (xlatToken find acc l).pay j =
    xlatElem (Word.a64 l.pay j) (xlatWith acc (Word.a64 l.pay j) (find (vaVpn (Word.a64 l.pay j)))) := by
  have pay : (xlatToken find acc l).pay = Word.ofA64 fun i => xlatElem (Word.a64 l.pay i) (xlatWith acc (Word.a64 l.pay i) (find (vaVpn (Word.a64 l.pay i)))) := rfl
  rw [pay, a64_ofA64 _ hj]

theorem xlatToken_failed {j : Nat} (hj : j < 8) {x : BitVec 4} (fails : elemCause find acc l.pay j = some x) :
    Word.a64 (xlatToken find acc l).pay j = x ++ (0 : BitVec 4) ++ ((Word.a64 l.pay j).setWidth 56) := by
  rw [elemCause] at fails
  rw [xlatToken_elem find acc l hj, xlatWith_eq, fails]
  rw [BitVec.setWidth_eq_extractLsb' (by decide)]
  rfl

theorem xlatToken_ok {j : Nat} (hj : j < 8) (ok : elemCause find acc l.pay j = none) {e : BitVec 128} (found : find (vaVpn (Word.a64 l.pay j)) = some e) :
    Word.a64 (xlatToken find acc l).pay j = paOf (MapEntry.crn e) (MapEntry.page e * 2 ^ 21 + (Word.a64 l.pay j).toNat % 2 ^ 21) := by
  rw [elemCause] at ok
  rw [xlatToken_elem find acc l hj, xlatWith_eq, ok, found]
  rfl

/-- The result of a translation: a data token of addresses, or a fault token in which a failed element carries its class. -/
theorem xlatToken_answers :
    ((xlatToken find acc l).tt = .data ↔ ∀ j, j < 8 → elemCause find acc l.pay j = none) ∧ ((xlatToken find acc l).tt = .data ∨ (xlatToken find acc l).tt = .fault)
      ∧ ∀ j, j < 8 → (∀ x, elemCause find acc l.pay j = some x → Word.a64 (xlatToken find acc l).pay j = x ++ (0 : BitVec 4) ++ ((Word.a64 l.pay j).setWidth 56))
        ∧ (∀ e, elemCause find acc l.pay j = none → find (vaVpn (Word.a64 l.pay j)) = some e →
          Word.a64 (xlatToken find acc l).pay j = paOf (MapEntry.crn e) (MapEntry.page e * 2 ^ 21 + (Word.a64 l.pay j).toNat % 2 ^ 21)) := by
  refine ⟨?_, ?_, fun j hj => ⟨fun x => xlatToken_failed find acc l hj, fun e ok found => xlatToken_ok find acc l hj ok found⟩⟩
  · have all : (List.range 8).any (fun j => (elemCause find acc l.pay j).isSome) = false ↔ ∀ j, j < 8 → elemCause find acc l.pay j = none := by simp
    rw [xlatToken_tt, ← all, ite_eq_right_iff]
    simp
  · rw [xlatToken_tt]
    split
    · exact .inr rfl
    · exact .inl rfl
end

/-! ### `xlat` and TRANSLATION_FILL (R148) -/

section
variable {s : State} {k : TileKey} {n : Nat} {w : NodeOp} {acc : Bool} {o : Opnds}

/-- The operand of an `xlat`, as its result will have its header and elements. -/
def xlatOperand (s : State) (k : TileKey) (n : Nat) (f : NodeForm) (o : Opnds) : Tok := (resultTok o o.l.pay).after (slotPast s k n f)

/-- What the caches answer at once, if they hold every page. -/
def xlatAtOnce (s : State) (k : TileKey) (acc : Bool) (l : Tok) : Option Tok :=
  if (List.range 8).all (fun i => cacheHit s k (s.ctxOf k) (Word.a64 l.pay i)) then some (xlatToken (cacheFind s k (s.ctxOf k)) acc l) else none

theorem execXlat_queues (h : SlotAt s k n) (gate : gateOf (formOf (.xlat w acc)) (s.slot k n) = .go o) :
    ∃ t, execXlat w acc s = .next t ∧ (t.slot k n).pend = (s.slot k n).pend
      ++ [{ tok := xlatOperand s k n (formOf (.xlat w acc)) o, done := xlatAtOnce s k acc (xlatOperand s k n (formOf (.xlat w acc)) o) }] := by
  rw [execXlat, fireLater, atSlot_of h, gate]
  refine ⟨_, rfl, ?_⟩
  rw [State.setSlot_slot_self, consumeAt_slot]
  exact congrArg (· ++ _) (latchesOnly_consume _ _).pend

theorem xlatAtOnce_isSome {l : Tok} : (xlatAtOnce s k acc l).isSome = true ↔
    ∀ j, j < 8 → (Word.a64 l.pay j).toNat / 2 ^ 56 ≠ 0 ∨ (cacheFind s k (s.ctxOf k) (vaVpn (Word.a64 l.pay j))).isSome = true := by
  have hit : (List.range 8).all (fun i => cacheHit s k (s.ctxOf k) (Word.a64 l.pay i)) = true ↔
      ∀ j, j < 8 → (Word.a64 l.pay j).toNat / 2 ^ 56 ≠ 0 ∨ (cacheFind s k (s.ctxOf k) (vaVpn (Word.a64 l.pay j))).isSome = true := by
    simp only [List.all_eq_true, List.mem_range, cacheHit, Bool.or_eq_true, topByte, decide_eq_true_eq]
  rw [← hit, xlatAtOnce]
  split
  case isTrue all => simp [all]
  case isFalse some_ => simp [some_]

theorem xlatAtOnce_eq_some {l x : Tok} (h : xlatAtOnce s k acc l = some x) : x = xlatToken (cacheFind s k (s.ctxOf k)) acc l := by
  unfold xlatAtOnce at h
  split at h
  · exact (Option.some.inj h).symm
  · cases h

theorem takeFirst_append {α : Type} {p : α → Bool} {xs : List α} (fail : ∀ x ∈ xs, p x = false) {y : α} (hit : p y = true) (ys : List α) :
    takeFirst p (xs ++ y :: ys) = some (y, xs ++ ys) := by
  induction xs with
  | nil => exact if_pos hit
  | cons x xs ih =>
    rw [List.forall_mem_cons] at fail
    rw [List.cons_append, takeFirst, if_neg (by rw [fail.1]; decide), ih fail.2]
    rfl

theorem execTranslationFill_answers {ready rest : List Pend} {p : Pend} (focus : s.focus = .slot k n) (there : (s.tile k).slots.has n = true)
    (word : decodeNode (s.slot k n).word = .ok (.xlat w acc)) (pend : (s.slot k n).pend = ready ++ p :: rest) (known : ∀ x ∈ ready, x.done.isSome = true)
    (unknown : p.done = none) :
    ∃ t, execTranslationFill s = .next t
      ∧ (t.slot k n).pend = ready ++ { p with done := some (xlatToken (fun v => (mapFind s (s.ctxOf k) v).map Prod.snd) acc p.tok) } :: rest := by
  have oldest : takeFirst (fun (p : Pend) => p.done.isNone) (ready ++ p :: rest) = some (p, ready ++ rest) :=
    takeFirst_append (fun x hx => by simpa [Option.isSome_iff_ne_none] using known x hx) (by rw [unknown]; rfl) rest
  have before : (ready ++ p :: rest).takeWhile (fun p => p.done.isSome) = ready := by
    rw [List.takeWhile_append_of_pos known, List.takeWhile_cons_of_neg (by rw [unknown]; decide), List.append_nil]
  refine ⟨_, by simp only [execTranslationFill, focus, there, word, pend, oldest, before, Bool.not_true, Bool.false_eq_true, if_false]; rfl, ?_⟩
  rw [State.setSlot_slot_self]
  simp

/-! ### `gaddr` and `resume` (R149) -/

theorem execGaddr_fires (h : NodeAt s k n (formOf (.gaddr w)) o) :
    execGaddr w s = .next (fireTo (s.setSlot k n { s.slot k n with run := .gaddr (gaddrCount (s.slot k n).run + 1) }) k n (formOf (.gaddr w))
      (some { o.l with seq := BitVec.ofNat 8 (gaddrCount (s.slot k n).run) }) none) := by
  obtain ⟨at_, gate, free⟩ := h
  rw [execGaddr, atSlot_of at_, gate]
  exact if_pos free

theorem execResume_fires (h : NodeAt s k n (formOf (.resume w)) o) :
    execResume w s = .next (fireTo s k n (formOf (.resume w)) (some { tt := .resume, seq := o.l.seq, tag := o.l.tag, pay := (Word.lane o.l.pay 0).setWidth 512 }) none) := by
  rw [execResume, fireSlot_of h]
  exact if_pos h.2.2
end

/-- One lane alone in a payload. -/
theorem lane_setWidth (x : Lane) : Word.lane (x.setWidth 512 : Payload) 0 = x ∧ ∀ j, 1 ≤ j → j < 16 → Word.lane (x.setWidth 512 : Payload) j = 0 := by
  refine ⟨BitVec.eq_of_getLsbD_eq fun b hb => ?_, fun j lo hi => BitVec.eq_of_getLsbD_eq fun b hb => ?_⟩
  · rw [lane_getLsbD _ _ hb, BitVec.getLsbD_setWidth, Nat.mul_zero, Nat.zero_add, decide_eq_true (by omega), Bool.true_and]
  · rw [lane_getLsbD _ _ hb, BitVec.getLsbD_setWidth, BitVec.getLsbD_of_ge x _ (by omega), Bool.and_false]
    exact BitVec.getLsbD_zero.symm

/-! ### INVALIDATION_COMPLETE (R336) -/

/-- What becomes of one UNMAP: it takes effect, unless a cache still holds one of its pages. -/
def settleUnmap (z : State) (u : Nat × BitVec 64 × Nat × Nat × Nat) : State :=
  if anyCached z u.2.2.1 u.2.2.2.1 u.2.2.2.2 then z
  else
    let z1 := unmapPages z u.2.2.1 u.2.2.2.1 u.2.2.2.2
    completePacket (z1.setDev { z1.dev with unmaps := z1.dev.unmaps.filter (· != u) }) u.1 u.2.1
      { status := Status.ok, start := ((z.queue u.1).opens.find? (fun o => o.ticket == u.2.1)).elim 0 (fun o => o.started) }

theorem completePacket_caches (s : State) (q : Nat) (t : BitVec 64) (c : Completion) :
    (completePacket s q t c).ports = s.ports ∧ (completePacket s q t c).dieCache = s.dieCache := ⟨rfl, rfl⟩

theorem unmapPages_caches (s : State) (c v n : Nat) : (unmapPages s c v n).ports = s.ports ∧ (unmapPages s c v n).dieCache = s.dieCache := ⟨rfl, rfl⟩

theorem settleUnmap_caches (z : State) (u : Nat × BitVec 64 × Nat × Nat × Nat) : (settleUnmap z u).ports = z.ports ∧ (settleUnmap z u).dieCache = z.dieCache := by
  unfold settleUnmap
  split
  · exact ⟨rfl, rfl⟩
  · simp only [completePacket_caches, State.setDev_ports, State.setDev_dieCache, unmapPages_caches, and_self]

/-- UNMAPs that take effect leave the caches. -/
theorem settleUnmaps_caches (s : State) : (settleUnmaps s).ports = s.ports ∧ (settleUnmaps s).dieCache = s.dieCache := by
  change (s.dev.unmaps.foldl settleUnmap s).ports = s.ports ∧ (s.dev.unmaps.foldl settleUnmap s).dieCache = s.dieCache
  generalize s.dev.unmaps = us
  induction us generalizing s with
  | nil => exact ⟨rfl, rfl⟩
  | cons u us ih =>
    obtain ⟨ports, dieCache⟩ := settleUnmap_caches s u
    exact ⟨(ih _).1.trans ports, (ih _).2.trans dieCache⟩

theorem execInvalidationComplete_caches {s : State} {x v : Nat} (focus : s.focus = .page x v) : ∃ t, execInvalidationComplete s = .next t
    ∧ (∀ i e, e ∈ (t.port i).cache ↔ e ∈ (s.port i).cache ∧ entryFor x v e = false)
    ∧ (∀ i e, e ∈ t.dieCache.getD i [] ↔ e ∈ s.dieCache.getD i [] ∧ entryFor x v e = false) := by
  rw [execInvalidationComplete, focus]
  refine ⟨_, rfl, fun i e => ?_, fun i e => ?_⟩
  · rw [State.port, (settleUnmaps_caches _).1, Map.getD_mapV _ _ _ _ rfl, List.mem_filter, Bool.not_eq_true']
    rfl
  · rw [(settleUnmaps_caches _).2, Map.getD_mapV _ _ _ _ rfl, List.mem_filter, Bool.not_eq_true']

/-- Settles O26: the operand and its answer for `xlat` and the fill, one firing each for the others, and the caches' filters for the invalidation. -/
theorem portNodes : Obligations.PortNodes := by
  unfold Obligations.PortNodes
  intro s k n w o acc c sl va elem answers
  have ans : ∀ find (l : Tok), answers l.pay find (xlatToken find acc l) := fun find l => xlatToken_answers find acc l
  refine ⟨fun h gate => ?xlat, fun ready p rest focus there word pend known unknown => ?fill, execGaddr_fires, fun h => ⟨_, execResume_fires h, lane_setWidth _⟩,
    fun x v => execInvalidationComplete_caches⟩
  case xlat =>
    obtain ⟨t, step, pend⟩ := execXlat_queues h gate
    refine ⟨t, _, step, pend, xlatAtOnce_isSome, fun x done => ?_⟩
    rw [xlatAtOnce_eq_some done]
    exact ⟨ans _ _, rfl, rfl⟩
  case fill =>
    obtain ⟨t, step, filled⟩ := execTranslationFill_answers focus there word pend known unknown
    exact ⟨t, _, step, filled, ans _ _, rfl, rfl⟩

end Sys2Proof.Machine
end

section
/-! PROOF. Words in memory (01 R11): what a word reads after stores to it and to others; and the words of a scratchpad access (05 R141 to R143). -/

namespace Sys2Proof.Machine

/-! ### Little-endian words -/

/-- A bit of a word lies in the byte that holds it. -/
theorem ofBytes_getLsbD (w : Nat) (bs : List Byte) {i : Nat} (hi : i < w) : (Word.ofBytes w bs).getLsbD i = (bs.getD (i / 8) 0).getLsbD (i % 8) := by
  induction bs generalizing i with
  | nil => simp [Word.ofBytes]
  | cons b bs ih =>
    have shift : Word.ofBytes w (b :: bs) = (Word.ofBytes w bs <<< 8) ||| b.setWidth w := rfl
    rw [shift, BitVec.getLsbD_or, BitVec.getLsbD_shiftLeft, BitVec.getLsbD_setWidth]
    by_cases low : i < 8
    · simp [low, hi, Nat.div_eq_of_lt low, Nat.mod_eq_of_lt low]
    · have next : i / 8 = (i - 8) / 8 + 1 := by omega
      have same : i % 8 = (i - 8) % 8 := by omega
      rw [next, same, List.getD_cons_succ, ← ih (by omega)]
      simp [low, hi, BitVec.getLsbD_of_ge b i (by omega)]

theorem ofBytes_toBytes (v : Lane) : Word.ofBytes 32 (Word.toBytes 4 v) = v := by
  apply BitVec.eq_of_getLsbD_eq
  intro i hi
  have lt : i / 8 < 4 := by omega
  have pos : 8 * (i / 8) + i % 8 = i := Nat.div_add_mod i 8
  rw [ofBytes_getLsbD 32 _ hi, Word.toBytes, List.getD_eq_getElem?_getD, List.getElem?_map, List.getElem?_range lt]
  simp [pos, Nat.mod_lt]

theorem toBytes_length {w : Nat} (n : Nat) (v : BitVec w) : (Word.toBytes n v).length = n := by simp [Word.toBytes]

namespace Mem

theorem readN_writeN_self {m : List Host.Cell} (h : wf m = true) (a : Nat) (bs : List Byte) : readN (writeN m a bs) a bs.length = bs := by
  refine List.ext_getElem (by simp [readN]) fun i _ hi => ?_
  simp only [readN, List.getElem_map, List.getElem_range]
  exact read_writeN_in bs m a i h hi

theorem load_store_self {m : List Host.Cell} (h : wf m = true) (a : Nat) (v : Lane) : (load (store m a 4 v) a 4 32 : Lane) = v := by
  have bytes := readN_writeN_self h a (Word.toBytes 4 v)
  rw [toBytes_length] at bytes
  rw [load, store, bytes, ofBytes_toBytes]

theorem read_store_out (m : List Host.Cell) {a x : Nat} (v : Lane) (out : x < a ∨ a + 4 ≤ x) : read (store m a 4 v) x = read m x :=
  read_writeN_out _ m a x (by rwa [toBytes_length])

/-- A word whose bytes are kept reads the same. -/
theorem load_congr {m m' : List Host.Cell} {a : Nat} (same : ∀ x, a ≤ x → x < a + 4 → read m x = read m' x) : (load m a 4 32 : Lane) = load m' a 4 32 := by
  rw [load, load, readN, readN, List.map_congr_left fun i hi => same (a + i) (by omega) (by have := List.mem_range.mp hi; omega)]

end Mem

/-! ### The lanes of an access -/

/-- A lane among the enabled ones stands after the lower and before the higher ones. -/
theorem exists_lanes_around {on : Nat → Bool} {j : Nat} (hj : j < 16) (isOn : on j = true) : ∃ pre post, (List.range 16).filter on = pre ++ j :: post
    ∧ (∀ x ∈ pre, x < j ∧ on x = true) ∧ ∀ x ∈ post, j < x ∧ x < 16 ∧ on x = true := by
  obtain ⟨pre, post, split⟩ := List.append_of_mem (List.mem_filter.mpr ⟨List.mem_range.mpr hj, isOn⟩)
  have sorted : (pre ++ j :: post).Pairwise (· < ·) := split ▸ List.pairwise_lt_range.filter on
  have isIn : ∀ x, x ∈ pre ++ j :: post → x < 16 ∧ on x = true := fun x hx => by
    rw [← split] at hx
    simpa using hx
  rw [List.pairwise_append, List.pairwise_cons] at sorted
  obtain ⟨-, ⟨above, -⟩, below⟩ := sorted
  exact ⟨pre, post, split, fun x hx => ⟨below x hx j List.mem_cons_self, (isIn x (by simp [hx])).2⟩, fun x hx => ⟨above x hx, isIn x (by simp [hx])⟩⟩

/-- The first hit of a search. -/
theorem findSome?_first {α β : Type} {g : α → Option β} {pre : List α} (before : ∀ x ∈ pre, g x = none) {a : α} {y : β} (hit : g a = some y) (post : List α) :
    (pre ++ a :: post).findSome? g = some y := by
  rw [List.findSome?_append, List.findSome?_eq_none_iff.mpr before, List.findSome?_cons, hit]
  rfl

/-- The lowest enabled lane that hits. -/
theorem findSome?_lane {β : Type} {on : Nat → Bool} {g : Nat → Option β} {j : Nat} (hj : j < 16) (isOn : on j = true) {y : β} (hit : g j = some y)
    (before : ∀ x, x < j → on x = true → g x = none) : ((List.range 16).filter on).findSome? g = some y := by
  obtain ⟨pre, post, split, below, -⟩ := exists_lanes_around hj isOn
  rw [split]
  exact findSome?_first (fun x hx => before x (below x hx).1 (below x hx).2) hit post

theorem findSome?_lane_none {β : Type} {on : Nat → Bool} {g : Nat → Option β} (all : ∀ x, x < 16 → on x = true → g x = none) :
    ((List.range 16).filter on).findSome? g = none := by
  refine List.findSome?_eq_none_iff.mpr fun x hx => ?_
  obtain ⟨lt, isOn⟩ := List.mem_filter.mp hx
  exact all x (List.mem_range.mp lt) isOn

/-! ### What the memory node's bookkeeping leaves unchanged -/

section
variable (s : State) (k : TileKey)

theorem syncIf_slot (c : Bool) (j : TileKey) (n : Nat) : (syncIf c s k).slot j n = s.slot j n := by
  unfold syncIf
  split
  · exact syncEvent_slot s _ j n
  · rfl

/-- A sync event is kept in its region alone. -/
theorem syncIf_rest (c : Bool) : syncIf c s k = { s with regions := (syncIf c s k).regions } := by
  unfold syncIf syncEvent
  split
  · split
    · rfl
    · rfl
  · rfl

theorem syncIf_tile (c : Bool) (j : TileKey) : (syncIf c s k).tile j = s.tile j := by rw [syncIf_rest]; rfl
theorem syncIf_scratch (c : Bool) : (syncIf c s k).scratch = s.scratch := by rw [syncIf_rest]

theorem leaveLines_slot (n m : Nat) : (leaveLines s k n).slot k m = s.slot k m := setTile_slot_of_slots _ _ _ rfl
end

end Sys2Proof.Machine
end

section
/-! PROOF. The owner node (05 R143, R144; 12 R296): `spatom`, an update that is applied, and one whose word is in error; and O24. -/

namespace Sys2Proof.Machine

/-! ### Where an atomic traps (R143) -/

/-- Why an update of the owner node is refused. -/
def OwnBadAt (s : State) (k : TileKey) (a : Lane) : Prop := a.toNat % 4 ≠ 0 ∨ spLimit s k < a.toNat + 4 ∨ inOwner (s.tile k) a.toNat = false

theorem ownTrap_of_bad {s : State} {k : TileKey} {a : Lane} (bad : OwnBadAt s k a) (j : Nat) : ownTrap s k j a = some (0x0C, spDetail j a) := by
  rw [ownTrap, if_pos]
  simpa [OwnBadAt, or_assoc] using bad

theorem ownTrap_of_good {s : State} {k : TileKey} {a : Lane} (good : ¬OwnBadAt s k a) (j : Nat) : ownTrap s k j a = none := by
  rw [ownTrap, if_neg]
  simpa [OwnBadAt, or_assoc] using good

/-! ### `spatom` (R144) -/

/-- The first trap among the sixteen lanes of an atomic. -/
def atomTrap (s : State) (k : TileKey) (l : Payload) : Option (BitVec 8 × BitVec 64) :=
  ((List.range 16).map (fun i => (i, Word.lane l i))).findSome? (fun x => ownTrap s k x.1 x.2)

theorem atomTrap_eq (s : State) (k : TileKey) (l : Payload) :
    atomTrap s k l = ((List.range 16).filter fun _ => true).findSome? (fun i => ownTrap s k i (Word.lane l i)) := by
  rw [atomTrap, List.findSome?_map, List.filter_true]
  rfl

/-- The state after an atomic has consumed its operands: its result is held back. -/
def atomHeld (s : State) (k : TileKey) (n : Nat) (f : NodeForm) (acq : Bool) (o : Opnds) : State :=
  let s1 := syncIf acq (consumeAt (leaveLines s k n) k n f) k
  s1.setSlot k n { s1.slot k n with pend := (s1.slot k n).pend ++ [{ tok := (resultTok o 0).after (slotPast s k n f), no := s.sends }] }

/-- The state after the owner node has taken an atomic: its lanes are queued. -/
def atomTaken (s : State) (k : TileKey) (n : Nat) (f : NodeForm) (acq : Bool) (o : Opnds) (us : List OwnUpd) : State :=
  let s2 := atomHeld s k n f acq o
  { s2.setTile k { s2.tile k with own := { (s2.tile k).own with queue := (s2.tile k).own.queue ++ us } } with sends := s.sends + 1 }

section
variable (s : State) (k : TileKey) (n : Nat) (f : NodeForm) (acq : Bool) (o : Opnds) (us : List OwnUpd)

theorem atomHeld_own : ((atomHeld s k n f acq o).tile k).own.queue = (s.tile k).own.queue := by
  rw [atomHeld, State.setSlot_tile_self, syncIf_tile, consumeAt, State.setSlot_tile_self, leaveLines, State.setTile_tile_self]

theorem atomTaken_tile : (atomTaken s k n f acq o us).tile k =
    { (atomHeld s k n f acq o).tile k with own := { ((atomHeld s k n f acq o).tile k).own with queue := (s.tile k).own.queue ++ us } } := by
  rw [← atomHeld_own s k n f acq o]
  exact State.setTile_tile_self _ _ _

theorem atomTaken_queue : ((atomTaken s k n f acq o us).tile k).own.queue = (s.tile k).own.queue ++ us := by rw [atomTaken_tile]

theorem atomTaken_pend : ((atomTaken s k n f acq o us).slot k n).pend = (s.slot k n).pend ++ [{ tok := (resultTok o 0).after (slotPast s k n f), no := s.sends }] := by
  rw [State.slot, atomTaken_tile]
  change ((atomHeld s k n f acq o).slot k n).pend = _
  rw [atomHeld, State.setSlot_slot_self, syncIf_slot, consumeAt_slot, (latchesOnly_consume f _).pend, leaveLines_slot]

theorem atomTaken_scratch : (atomTaken s k n f acq o us).scratch = s.scratch := by
  change (syncIf acq (consumeAt (leaveLines s k n) k n f) k).scratch = _
  rw [syncIf_scratch]
  rfl
end

section
variable {s : State} {k : TileKey} {n : Nat} {w : NodeOp} {o : Opnds} {ord : BitVec 2} {scope atop : BitVec 3}
  (h : SlotAt s k n) (gate : gateOf (formOf (.spatom w ord scope atop)) (s.slot k n) = .go o)
include h gate

theorem execSpatom_of_trap {c : BitVec 8} {d : BitVec 64} (trap : atomTrap s k o.l.pay = some (c, d)) :
    execSpatom w ord scope atop s = .next (raiseTrap s (slotSite s k n) c d) := by
  unfold atomTrap at trap
  simp only [execSpatom, fireLater, atSlot_of h, gate, trap]

theorem execSpatom_of_noTrap (noTrap : atomTrap s k o.l.pay = none) (free : acqHeld (s.tile k) = false) (turn : ownTurn s k n = true)
    (rel : relOpen s k n (formOf (.spatom w ord scope atop)) ord scope = true) : execSpatom w ord scope atop s =
      .next (atomTaken s k n (formOf (.spatom w ord scope atop)) (ordAcq ord) o (atomUpds n s.sends (ownTy w.ty) atop ((s.slot k n).rounds + 1) o)) := by
  have may : (acqHeld (s.tile k) || !relOpen s k n (formOf (.spatom w ord scope atop)) ord scope || !ownTurn s k n) = false := by rw [free, rel, turn]; rfl
  unfold atomTrap at noTrap
  simp only [execSpatom, fireLater, atSlot_of h, gate, noTrap, may, Bool.false_eq_true, if_false, atomTaken, atomHeld]

theorem execSpatom_traps {j : Nat} (hj : j < 16) (bad : OwnBadAt s k (Word.lane o.l.pay j)) (before : ∀ x, x < j → ¬OwnBadAt s k (Word.lane o.l.pay x)) :
    execSpatom w ord scope atop s = .next (raiseTrap s (slotSite s k n) 0x0C (spDetail j (Word.lane o.l.pay j))) := by
  have trap : atomTrap s k o.l.pay = some (0x0C, spDetail j (Word.lane o.l.pay j)) := by
    rw [atomTrap_eq]
    exact findSome?_lane hj rfl (ownTrap_of_bad bad j) fun x lt _ => ownTrap_of_good (before x lt) x
  exact execSpatom_of_trap h gate trap

theorem execSpatom_queues (good : ∀ j, j < 16 → ¬OwnBadAt s k (Word.lane o.l.pay j)) (free : acqHeld (s.tile k) = false) (turn : ownTurn s k n = true)
    (rel : ordRel ord = true → released s (slotPast s k n (formOf (.spatom w ord scope atop))) scope = true) :
    execSpatom w ord scope atop s =
      .next (atomTaken s k n (formOf (.spatom w ord scope atop)) (ordAcq ord) o (atomUpds n s.sends (ownTy w.ty) atop ((s.slot k n).rounds + 1) o)) := by
  have noTrap : atomTrap s k o.l.pay = none := by
    rw [atomTrap_eq]
    exact findSome?_lane_none fun x hx _ => ownTrap_of_good (good x hx) x
  have relOk : relOpen s k n (formOf (.spatom w ord scope atop)) ord scope = true := by
    rw [relOpen, Bool.or_eq_true, Bool.not_eq_true']
    exact or_iff_not_imp_left.mpr fun releases => rel (by simpa using releases)
  exact execSpatom_of_noTrap h gate noTrap free turn relOk
end

/-! ### One update (R144) -/

/-- The word that an update leaves, by its operation. -/
theorem ownNew_value (u : OwnUpd) (old : Lane) :
    (u.atop = 0 → (ownNew u old).1 = old + u.v)
      ∧ (u.atop = 1 → (ownNew u old).1 = if (if u.ty = 0 then u.v.slt old else u.v.ult old) then u.v else old)
      ∧ (u.atop = 2 → (ownNew u old).1 = if (if u.ty = 0 then old.slt u.v else old.ult u.v) then u.v else old)
      ∧ (u.atop = 3 → (ownNew u old).1 = u.v) ∧ (u.atop = 4 → (ownNew u old).1 = if old = u.cmp then u.v else old)
      ∧ (u.atop = 5 → (ownNew u old).1 = BitVec.ofNat 32 (Fp.add Fp.f32 .rn old.toNat u.v.toNat).bits) := by
  refine ⟨fun e => ?_, fun e => ?_, fun e => ?_, fun e => ?_, fun e => ?_, fun e => ?_⟩ <;> simp [ownNew, e]

/-- Waiting requests whose tokens are changed in what they carry of the past only. -/
theorem allLike_map {g : Pend → Pend} (like : ∀ p, (g p).Like p) (ps : List Pend) : Pend.AllLike (ps.map g) ps := by
  refine ⟨by simp, fun i p q at_g at_ => ?_⟩
  rw [List.getElem?_map, at_, Option.map_some, Option.some.injEq] at at_g
  exact at_g ▸ like q

theorem Pend.Like.refl (p : Pend) : p.Like p := ⟨.refl _, rfl, rfl, rfl, rfl, fun x y ex ey => by rw [ex] at ey; cases ey; exact .refl x⟩

theorem pend_after_like (p : Pend) (past : List Nat) : Pend.Like { p with tok := p.tok.after past, done := p.done.map (·.after past) } p := by
  refine ⟨Tok.after_like _ _, rfl, rfl, rfl, by simp, fun x y ex ey => ?_⟩
  rw [ey, Option.map_some, Option.some.injEq] at ex
  exact ex ▸ Tok.after_like y past

section
variable (s : State) (k : TileKey) (u : OwnUpd)

theorem syncPut_rest (keys past : List Nat) : syncPut s keys past = { s with syncs := (syncPut s keys past).syncs } := by
  unfold syncPut
  split
  · rfl
  · rfl

/-- The synchronisation of an update: what its source's waiting requests carry of the past, and the sync records. -/
theorem ownSync_spec : ∃ ps, Pend.AllLike ps (s.slot k u.src).pend ∧ ((ownSync s k u).slot k u.src).pend = ps
    ∧ (ownSync s k u).scratch = s.scratch ∧ ((ownSync s k u).tile k).own = (s.tile k).own := by
  have same : Pend.AllLike (s.slot k u.src).pend (s.slot k u.src).pend := by simpa using allLike_map (g := id) Pend.Like.refl (s.slot k u.src).pend
  have putRest (t : State) : t = s ∨ (∃ keys past, t = syncPut s keys past) → t.slot k u.src = s.slot k u.src ∧ t.scratch = s.scratch ∧ t.tile k = s.tile k := by
    rintro (rfl | ⟨keys, past, rfl⟩)
    · exact ⟨rfl, rfl, rfl⟩
    · rw [syncPut_rest]
      exact ⟨rfl, rfl, rfl⟩
  unfold ownSync
  dsimp only
  split
  · generalize keep : (if ordRel (slotOrd (s.slot k u.src)) then syncPut s [spKey k u.addr.toNat] (pastOf s (((s.slot k u.src).pend.filter (fun p => p.no == u.no)).map (·.tok))) else s) = s1
    obtain ⟨slot, scratch, tile⟩ := putRest s1 (by
      rw [← keep]
      split
      · exact .inr ⟨_, _, rfl⟩
      · exact .inl rfl)
    split
    · refine ⟨_, ?_, by rw [State.setSlot_slot_self], scratch, by rw [State.setSlot_tile_self, tile]⟩
      refine allLike_map (fun p => ?_) _
      split
      · exact pend_after_like p _
      · exact .refl p
    · exact ⟨_, same, by rw [slot], scratch, by rw [tile]⟩
  · exact ⟨_, same, rfl, rfl, rfl⟩

theorem accDone_rest (a : Option Nat) : accDone s a = { s with accs := (accDone s a).accs } := by cases a <;> rfl

theorem countTile_scratch (lanes : List Nat) : (countTile s k lanes).scratch = s.scratch := by
  unfold countTile
  split <;> rfl

theorem countTile_slot (lanes : List Nat) (n : Nat) : (countTile s k lanes).slot k n = s.slot k n := by
  rw [State.slot, countTile_tile]
  rfl

theorem ownReply_scratch (old : Lane) : (ownReply s k u old).scratch = s.scratch := by
  unfold ownReply
  split
  · exact syncIf_scratch _ _ _
  · rfl

theorem ownReply_queue (old : Lane) : ((ownReply s k u old).tile k).own.queue = (s.tile k).own.queue := by
  unfold ownReply
  split
  · rw [syncIf_tile, State.setSlot_tile_self]
  · rw [State.setTile_tile_self]

/-- The old value goes to the slot of the source's number. -/
theorem ownReply_pend (slot : u.src < 16) (old : Lane) : ((ownReply s k u old).slot k u.src).pend = pendLane (s.slot k u.src).pend u.no u.lane old := by
  rw [ownReply, if_pos slot, syncIf_slot, State.setSlot_slot_self]

/-- Or it becomes the reply that `spown` sends. -/
theorem ownReply_replies (port : u.src = 16) (old : Lane) :
    ((ownReply s k u old).tile k).own.replies = pendKnown (s.tile k).own.replies u.no (fun x => { x with pay := old.setWidth 512 }) := by
  rw [ownReply, if_neg (by omega), State.setTile_tile_self]

/-- The state in which an update has found its old value, and has not yet given it to its source. -/
def ownWritten : State :=
  countTile (spStore (ownSync (accDone s u.acc) k u) k u.addr.toNat (ownNew u (spWord s k u.addr.toNat)).1) k (ownNew u (spWord s k u.addr.toNat)).2

theorem ownApply_of_noError (ok : eccHit s k [(u.lane, u.addr)] = none) : ownApply s k u = ownReply (ownWritten s k u) k u (spWord s k u.addr.toNat) := by
  rw [ownApply, ok]
  rfl

theorem ownWritten_spec : (ownWritten s k u).scratch = Mem.store s.scratch (k * 524288 + u.addr.toNat) 4 (ownNew u (spWord s k u.addr.toNat)).1
    ∧ ((ownWritten s k u).tile k).own = (s.tile k).own ∧ Pend.AllLike ((ownWritten s k u).slot k u.src).pend (s.slot k u.src).pend := by
  obtain ⟨ps, like, pend, scratch, own⟩ := ownSync_spec (accDone s u.acc) k u
  have scratch0 : (accDone s u.acc).scratch = s.scratch := by rw [accDone_rest]
  have tile0 : (accDone s u.acc).tile k = s.tile k := by rw [accDone_rest]; rfl
  have slot0 : (accDone s u.acc).slot k u.src = s.slot k u.src := by rw [accDone_rest]; rfl
  rw [slot0] at like
  rw [scratch0] at scratch
  rw [tile0] at own
  refine ⟨?_, ?_, ?_⟩
  · rw [ownWritten, countTile_scratch, spStore, scratch]
    rfl
  · rw [ownWritten, countTile_tile]
    exact own
  · rw [ownWritten, countTile_slot]
    change Pend.AllLike ((ownSync (accDone s u.acc) k u).slot k u.src).pend _
    rwa [pend]

/-! ### A word in error (R143) -/

/-- The state in which a trap has been recorded, and its agent not yet stopped. -/
def trapNoted (s : State) (x : Site) (c : BitVec 8) (d : BitVec 64) : State :=
  let l := s.launch x.launch
  let y := s.ctx l.ctx
  (s.setCtx l.ctx { y with offered := y.offered ++ [{ bits := trapRecord s x c d, agent := x.agent, fatal := causeFatal c, launch := x.launch }], trapNo := y.trapNo + 1 }).setLaunch
    x.launch { l with records := l.records + 1, trapTimes := s.dev.dtime :: l.trapTimes }

/-- A trap of an agent that is no sequencer is recorded, and stops it. -/
theorem raiseTrap_eq {x : Site} (agent : (∃ m, x.agent = .slot k m) ∨ x.agent = .port k 0x21) (c : BitVec 8) (d : BitVec 64) : raiseTrap s x c d =
    if causeFatal c then closeLaunch (setStopped (trapNoted s x c d) x.agent true) x.launch else setStopped (trapNoted s x c d) x.agent true := by
  obtain ⟨m, agent⟩ | agent := agent
  · rw [raiseTrap, trapNoted, agent]
  · rw [raiseTrap, trapNoted, agent]

/-- A fatal trap closes regions, which hold no slot and no word. -/
theorem closeLaunch_kept (t : State) (l : Nat) : (closeLaunch t l).scratch = t.scratch ∧ (closeLaunch t l).accs = t.accs ∧ (closeLaunch t l).tile k = t.tile k :=
  ⟨rfl, rfl, rfl⟩

theorem trapNoted_kept (x : Site) (c : BitVec 8) (d : BitVec 64) :
    (trapNoted s x c d).scratch = s.scratch ∧ (trapNoted s x c d).accs = s.accs ∧ (trapNoted s x c d).tile k = s.tile k := ⟨rfl, rfl, rfl⟩

/-- What a trap leaves besides its record is its agent stopped. -/
theorem raiseTrap_kept {x : Site} (agent : (∃ m, x.agent = .slot k m) ∨ x.agent = .port k 0x21) (c : BitVec 8) (d : BitVec 64) :
    (raiseTrap s x c d).scratch = (setStopped (trapNoted s x c d) x.agent true).scratch ∧ (raiseTrap s x c d).accs = (setStopped (trapNoted s x c d) x.agent true).accs
      ∧ (raiseTrap s x c d).tile k = (setStopped (trapNoted s x c d) x.agent true).tile k := by
  rw [raiseTrap_eq s k agent]
  split
  · exact closeLaunch_kept k _ _
  · exact ⟨rfl, rfl, rfl⟩

/-- A trap at a slot stops the slot. -/
theorem raiseTrap_slot {x : Site} {m : Nat} (agent : x.agent = .slot k m) (c : BitVec 8) (d : BitVec 64) :
    (raiseTrap s x c d).scratch = s.scratch ∧ (raiseTrap s x c d).accs = s.accs ∧ ((raiseTrap s x c d).tile k).own = (s.tile k).own
      ∧ ((raiseTrap s x c d).slot k m).stopped = true := by
  obtain ⟨scratch, accs, tile⟩ := raiseTrap_kept s k (.inl ⟨m, agent⟩) c d
  obtain ⟨scratch0, accs0, tile0⟩ := trapNoted_kept s k x c d
  rw [agent, setStopped] at scratch accs tile
  refine ⟨scratch.trans scratch0, accs.trans accs0, ?_, ?_⟩
  · rw [tile, State.setSlot_tile_self, tile0]
  · rw [State.slot, tile]
    exact congrArg (·.stopped) (State.setSlot_slot_self _ k m _)

/-- A trap at `sp.own` stops the owner's port. -/
theorem raiseTrap_owner {x : Site} (agent : x.agent = .port k 0x21) (c : BitVec 8) (d : BitVec 64) :
    (raiseTrap s x c d).scratch = s.scratch ∧ (raiseTrap s x c d).accs = s.accs ∧ ((raiseTrap s x c d).tile k).own = { (s.tile k).own with stopped := true } := by
  have stops (t : State) : setStopped t (.port k 0x21) true = t.setTile k { t.tile k with own := { (t.tile k).own with stopped := true } } := rfl
  obtain ⟨scratch, accs, tile⟩ := raiseTrap_kept s k (.inr agent) c d
  obtain ⟨scratch0, accs0, tile0⟩ := trapNoted_kept s k x c d
  rw [agent, stops] at scratch accs tile
  refine ⟨scratch.trans scratch0, accs.trans accs0, ?_⟩
  rw [tile, State.setTile_tile_self, tile0]

/-- An update whose word is in error changes no word and performs no access; its source stops. -/
theorem ownBad_spec (a : Nat) : (ownBad s k u a).scratch = s.scratch ∧ (ownBad s k u a).accs = s.accs ∧ ((ownBad s k u a).tile k).own.queue = (s.tile k).own.queue
    ∧ (u.src < 16 → ((ownBad s k u a).slot k u.src).stopped = true) ∧ (16 ≤ u.src → ((ownBad s k u a).tile k).own.stopped = true) := by
  unfold ownBad
  split
  case isTrue slot =>
    obtain ⟨scratch, accs, own, stopped⟩ := raiseTrap_slot (s.setSlot k u.src _) k (x := slotSite s k u.src) rfl causeSpEcc (BitVec.ofNat 64 a)
    exact ⟨scratch, accs, by rw [own, State.setSlot_tile_self], fun _ => stopped, fun port => absurd slot (by omega)⟩
  case isFalse port =>
    obtain ⟨scratch, accs, own⟩ := raiseTrap_owner (s.setTile k _) k (x := unitSite s k 0x21 0 none) rfl causeSpEcc (BitVec.ofNat 64 a)
    exact ⟨scratch, accs, by rw [own, State.setTile_tile_self], fun slot => absurd slot port, fun _ => by rw [own]⟩
end

/-! ### OWNER_APPLY -/

/-- The state in which the owner has taken its oldest update off its queue. -/
def ownTaken (s : State) (k : TileKey) (us : List OwnUpd) : State := s.setTile k { s.tile k with own := { (s.tile k).own with queue := us } }

theorem execOwnerApply_eq {s : State} {k : TileKey} {u : OwnUpd} {us : List OwnUpd} (h : UnitAt s k .sp) (noTempo : s.tempo k = false)
    (queue : (s.tile k).own.queue = u :: us) : execOwnerApply s = .next (ownApply (ownTaken s k us) k u) := by
  simp only [execOwnerApply, atTile_of h, queue, noTempo, Bool.false_eq_true, if_false]
  rfl

/-- Settles O24: the atomic by its first bad lane or its queue, the owner's step by the word it writes and the reply it gives, or by the error it meets. -/
theorem ownerNode : Obligations.OwnerNode := by
  unfold Obligations.OwnerNode
  intro s k n w o ord scope atop past bad
  refine ⟨fun h gate free turn rel => ⟨fun good => ?queues, fun j hj isBad before => execSpatom_traps h gate hj isBad before⟩,
    fun u us focus there kind runs noTempo queue ok wf => ?applies, fun u us a focus there kind runs noTempo queue ecc => ?errs⟩
  case queues =>
    exact ⟨_, execSpatom_queues h gate good free turn rel, atomTaken_queue _ _ _ _ _ _ _, atomTaken_pend _ _ _ _ _ _ _, atomTaken_scratch _ _ _ _ _ _ _⟩
  case applies =>
    intro word old
    have step := execOwnerApply_eq ⟨focus, there, kind, runs⟩ noTempo queue
    obtain ⟨scratch, own, like⟩ := ownWritten_spec (ownTaken s k us) k u
    have slots : (ownTaken s k us).slot k u.src = s.slot k u.src := setTile_slot_of_slots _ _ _ rfl
    have tile : ((ownTaken s k us).tile k).own = { (s.tile k).own with queue := us } := congrArg (·.own) (State.setTile_tile_self _ _ _)
    rw [slots] at like
    rw [tile] at own
    rw [ownApply_of_noError _ _ _ (show eccHit (ownTaken s k us) k [(u.lane, u.addr)] = none from ok)] at step
    have written : (ownReply (ownWritten (ownTaken s k us) k u) k u old).scratch = Mem.store s.scratch (k * 524288 + u.addr.toNat) 4 (ownNew u old).1 :=
      (ownReply_scratch _ _ _ _).trans scratch
    have value : word (ownReply (ownWritten (ownTaken s k us) k u) k u old) = (ownNew u old).1 := by
      change Mem.load _ _ 4 32 = _
      rw [written, Mem.load_store_self wf]
    obtain ⟨add, min, max, swap, cas, fadd⟩ := ownNew_value u old
    refine ⟨_, step, ?_, fun x out => ?_, fun e => value.trans (add e), fun e => value.trans (min e), fun e => value.trans (max e), fun e => value.trans (swap e),
      fun e => value.trans (cas e), fun e => value.trans (fadd e), fun slot => ⟨_, like, ownReply_pend _ _ _ slot old⟩, fun port => ?_⟩
    · rw [ownReply_queue, own]
    · exact (congrArg (Mem.read · x) written).trans (Mem.read_store_out _ _ out)
    · exact (ownReply_replies _ _ _ port old).trans (by rw [own])
  case errs =>
    have step := execOwnerApply_eq ⟨focus, there, kind, runs⟩ noTempo queue
    have bad : ownApply (ownTaken s k us) k u = ownBad (ownTaken s k us) k u a := by
      rw [ownApply, show eccHit (ownTaken s k us) k [(u.lane, u.addr)] = some a from ecc]
    rw [bad] at step
    obtain ⟨scratch, accs, kept, slot, port⟩ := ownBad_spec (ownTaken s k us) k u a
    exact ⟨_, step, kept.trans (congrArg (·.own.queue) (State.setTile_tile_self _ _ _)), scratch, accs, slot, port⟩

end Sys2Proof.Machine
end

section
/-! PROOF. The words of a scratchpad access, and where one traps (05 R141 to R143). -/

namespace Sys2Proof.Machine

/-! ### The words of an access -/

/-- Whether an access touches a word for a lane. -/
def accessOn (w : NodeOp) (blk : Bool) (p : Payload) (j : Nat) : Bool := blk || laneOn w p j

/-- The address of a lane's word. -/
def accessLane (blk : Bool) (l : Payload) (j : Nat) : Lane := if blk then Word.lane l 0 + BitVec.ofNat 32 (4 * j) else Word.lane l j

theorem accessWords_eq (w : NodeOp) (blk : Bool) (l p : Payload) :
    accessWords w blk l p = ((List.range 16).filter (accessOn w blk p)).map fun j => (j, accessLane blk l j) := by
  cases blk with
  | true =>
    have all : accessOn w true p = fun _ => true := rfl
    rw [all, List.filter_true]
    rfl
  | false => rfl

theorem mem_accessWords {w : NodeOp} {blk : Bool} {l p : Payload} {x : Nat × Lane} :
    x ∈ accessWords w blk l p ↔ ∃ j, j < 16 ∧ accessOn w blk p j = true ∧ x = (j, accessLane blk l j) := by
  simp only [accessWords_eq, List.mem_map, List.mem_filter, List.mem_range, and_assoc, eq_comm]

/-- A search among the words of an access is a search among its lanes. -/
theorem findSome?_accessWords {β : Type} (w : NodeOp) (blk : Bool) (l p : Payload) (g : Nat × Lane → Option β) :
    (accessWords w blk l p).findSome? g = ((List.range 16).filter (accessOn w blk p)).findSome? fun j => g (j, accessLane blk l j) := by
  rw [accessWords_eq, List.findSome?_map]
  rfl

/-- The words of a `blk` access that stays in a scratchpad follow each other. -/
theorem accessLane_blk {l : Payload} (low : (Word.lane l 0).toNat ≤ 524224) {j : Nat} (hj : j < 16) : (accessLane true l j).toNat = (Word.lane l 0).toNat + 4 * j := by
  rw [accessLane, if_pos rfl, BitVec.toNat_add, BitVec.toNat_ofNat]
  omega

/-! ### Where an access traps (R143) -/

section
variable {s : State} {k : TileKey}

/-- Whether a word's address is one of the usable scratchpad. -/
def PadAt (s : State) (k : TileKey) (a : Nat) : Prop := a % 4 = 0 ∧ a + 4 ≤ spLimit s k

theorem spWordTrap_of_bad {a : Lane} (bad : ¬PadAt s k a.toNat) (store : Bool) (j : Nat) : spWordTrap s k store j a = some (0x0C, spDetail j a) := by
  rw [spWordTrap, if_pos]
  rw [PadAt, not_and_or, not_le] at bad
  simpa using bad

theorem spWordTrap_of_pad {a : Lane} (pad : PadAt s k a.toNat) (store : Bool) (j : Nat) :
    spWordTrap s k store j a = if store && inOwner (s.tile k) a.toNat then some (0x0D, spDetail j a) else none := by
  obtain ⟨aligned, fits⟩ := pad
  rw [spWordTrap, if_neg]
  simp [aligned, fits]

theorem spWordTrap_of_ok {a : Lane} {store : Bool} (pad : PadAt s k a.toNat) (free : store = true → inOwner (s.tile k) a.toNat = false) (j : Nat) :
    spWordTrap s k store j a = none := by
  rw [spWordTrap_of_pad pad, if_neg]
  rw [Bool.and_eq_true]
  rintro ⟨stores, owned⟩
  rw [free stores] at owned
  cases owned

theorem spWordTrap_of_owned {a : Lane} (pad : PadAt s k a.toNat) (owned : inOwner (s.tile k) a.toNat = true) (j : Nat) :
    spWordTrap s k true j a = some (0x0D, spDetail j a) := by
  rw [spWordTrap_of_pad pad, owned]
  rfl

/-- The usable scratchpad ends at a multiple of 64 bytes. -/
theorem spLimit_aligned (s : State) (k : TileKey) : spLimit s k % 64 = 0 := by
  unfold spLimit
  split <;> split <;> omega

/-- Where a `blk` access may begin. -/
def BlkAt (s : State) (k : TileKey) (l : Payload) : Prop := (Word.lane l 0).toNat % 64 = 0 ∧ (Word.lane l 0).toNat + 64 ≤ spLimit s k

variable {w : NodeOp} {blk : Bool} {l p : Payload} {store : Bool}

theorem accessTrap_of_blkAt (start : blk = true → BlkAt s k l) : accessTrap s k store blk l (accessWords w blk l p) =
    ((List.range 16).filter (accessOn w blk p)).findSome? fun j => spWordTrap s k store j (accessLane blk l j) := by
  rw [accessTrap, if_neg, spTrap, findSome?_accessWords]
  rw [Bool.and_eq_true]
  rintro ⟨isBlk, bad⟩
  obtain ⟨aligned, fits⟩ := start isBlk
  have := spLimit_le s k
  simp [aligned] at bad
  omega

/-- The lowest lane whose word traps gives the trap of the access. -/
theorem accessTrap_lane (start : blk = true → BlkAt s k l) {j : Nat} (hj : j < 16) (isOn : accessOn w blk p j = true) {x : BitVec 8 × BitVec 64}
    (hit : spWordTrap s k store j (accessLane blk l j) = some x)
    (before : ∀ i, i < j → accessOn w blk p i = true → spWordTrap s k store i (accessLane blk l i) = none) :
    accessTrap s k store blk l (accessWords w blk l p) = some x := by
  rw [accessTrap_of_blkAt start]
  exact findSome?_lane hj isOn hit before

theorem accessTrap_none (start : blk = true → BlkAt s k l)
    (ok : ∀ j, j < 16 → accessOn w blk p j = true → PadAt s k (accessLane blk l j).toNat ∧ (store = true → inOwner (s.tile k) (accessLane blk l j).toNat = false)) :
    accessTrap s k store blk l (accessWords w blk l p) = none := by
  rw [accessTrap_of_blkAt start]
  exact findSome?_lane_none fun j hj isOn => spWordTrap_of_ok (ok j hj isOn).1 (ok j hj isOn).2 j

/-- A `blk` access that may not begin where it does traps with lane 0: past the end of the usable scratchpad, its first word is. -/
theorem accessTrap_blk (bad : ¬BlkAt s k l) : accessTrap s k store true l (accessWords w true l p) = some (0x0C, spDetail 0 (Word.lane l 0)) := by
  have first : accessLane true l 0 = Word.lane l 0 := by simp [accessLane]
  rw [BlkAt, not_and_or, not_le] at bad
  rw [accessTrap]
  split
  case isTrue => rfl
  case isFalse start =>
    have past : ¬PadAt s k (Word.lane l 0).toNat := by
      have := spLimit_aligned s k
      rintro ⟨-, fits⟩
      simp at start
      omega
    rw [spTrap, findSome?_accessWords]
    refine findSome?_lane (j := 0) (by decide) rfl ?_ fun i lt => absurd lt (Nat.not_lt_zero i)
    rw [first]
    exact spWordTrap_of_bad past store 0
end

end Sys2Proof.Machine
end

section
/-! PROOF. The race check (12 R307, R308). -/

namespace Sys2Proof.Machine

section
variable (s : State) (k : TileKey)

/-- Whether an access to a word races: it was last written by another TAG in the same sync phase, outside the owner range. -/
def RacesAt (t : Tag) (a : Nat) : Prop :=
  inOwner (s.tile k) a = false ∧ (shadowOf s k a).extractLsb' 8 16 ≠ 0xFFFF ∧ (shadowOf s k a).extractLsb' 8 16 ≠ t ∧ (shadowOf s k a).extractLsb' 0 8 = sphOf s k

/-- The race of one word. -/
def raceAt (t : Tag) (a : Nat) : Option (BitVec 64) :=
  if !inOwner (s.tile k) a && Word.field (shadowOf s k a) 8 16 != (0xFFFF : Tag) && Word.field (shadowOf s k a) 8 16 != t && Word.field (shadowOf s k a) 0 8 == sphOf s k then
    some (raceDetail s k a t) else none

variable {s k}

theorem raceAt_of_races {t : Tag} {a : Nat} (races : RacesAt s k t a) : raceAt s k t a = some (raceDetail s k a t) := by
  rw [raceAt, if_pos]
  simpa [RacesAt, Word.field, and_assoc] using races

theorem raceAt_of_not {t : Tag} {a : Nat} (quiet : ¬RacesAt s k t a) : raceAt s k t a = none := by
  rw [raceAt, if_neg]
  simpa [RacesAt, Word.field, and_assoc] using quiet

theorem raceHit_of_race (race : s.race k = true) (t : Tag) (ws : List (Nat × Lane)) : raceHit s k t ws = ws.findSome? fun x => raceAt s k t x.2.toNat := by
  rw [raceHit, race]
  rfl

theorem raceHit_of_noRace (noRace : s.race k = false) (t : Tag) (ws : List (Nat × Lane)) : raceHit s k t ws = none := by
  rw [raceHit, noRace]
  rfl

/-- An access none of whose words races. -/
theorem raceHit_none {t : Tag} {ws : List (Nat × Lane)} (quiet : s.race k = false ∨ ∀ x ∈ ws, ¬RacesAt s k t x.2.toNat) : raceHit s k t ws = none := by
  cases race : s.race k with
  | false => exact raceHit_of_noRace race t ws
  | true =>
    rw [race] at quiet
    rw [raceHit_of_race race]
    exact List.findSome?_eq_none_iff.mpr fun x hx => raceAt_of_not (quiet.resolve_left (by decide) x hx)

/-! ### The sync phase of an acquiring access (R307) -/

variable (s k)

theorem setRegion_regionOf (r : Nat) (x : Region) : (s.setRegion r x).regionOf k = s.regionOf k := rfl

theorem syncIf_race (c : Bool) : (syncIf c s k).race k = s.race k := by
  unfold syncIf syncEvent
  split
  · split
    · rw [State.race, State.launchOf, setRegion_regionOf, State.setRegion_region_self]
      rfl
    · rfl
  · rfl

/-- With the race check on, an acquiring access moves its region's sync phase on. -/
theorem syncIf_sphOf (race : s.race k = true) (c : Bool) : sphOf (syncIf c s k) k = sphOf s k + (if c then 1 else 0) := by
  unfold syncIf syncEvent
  cases c with
  | false => exact (BitVec.add_zero _).symm
  | true =>
    rw [if_pos rfl, if_pos (show s.launchFlag (s.region (s.regionOf k)).launch 2 = true from race), if_pos rfl, sphOf, setRegion_regionOf, State.setRegion_region_self]
    rfl

theorem syncIf_shadowOf (c : Bool) (a : Nat) : shadowOf (syncIf c s k) k a = shadowOf s k a := by
  rw [syncIf_rest]
  rfl
end

end Sys2Proof.Machine
end

section
/-! PROOF. `spld` (05 R141, R142). -/

namespace Sys2Proof.Machine

section
variable {s : State} {k : TileKey} {n : Nat} {w : NodeOp} {o : Opnds} {ord : BitVec 2} {blk : Bool} {scope : BitVec 3}

/-- What a load gathers. -/
def loadPay (s : State) (k : TileKey) (w : NodeOp) (blk : Bool) (l p : Payload) : Payload :=
  if blk then Word.ofLanes (fun i => spWord s k ((Word.lane l 0).toNat + 4 * i)) else predLanes w l p (fun i => spWord s k (Word.lane l i).toNat)

/-- The token of a load. -/
def loadTok (s : State) (k : TileKey) (w : NodeOp) (blk : Bool) (o : Opnds) (ord : BitVec 2) (scope : BitVec 3) : Tok :=
  (resultTok o (loadPay s k w blk o.l.pay o.p.pay)).after
    (if ordAcq ord && wideScope scope then syncPast s (wordKeys k (accessWords w blk o.l.pay o.p.pay)) else [])

section
variable (h : NodeAt s k n (formOf (.spld w ord blk scope)) o) (free : acqHeld (s.tile k) = false)
  (open_ : ownerOpen s k (s.slot k n).rounds (accessWords w blk o.l.pay o.p.pay) = true) (turn : memTurn s k n = true)
include h free open_ turn

theorem loadServed : (!loadOpen s k n (formOf (.spld w ord blk scope)) (accessWords w blk o.l.pay o.p.pay) || !memTurn s k n) = false := by
  rw [loadOpen, h.2.2, free, open_, turn]
  rfl

theorem execSpld_traps {c : BitVec 8} {d : BitVec 64} (trap : accessTrap s k false blk o.l.pay (accessWords w blk o.l.pay o.p.pay) = some (c, d)) :
    execSpld w ord blk scope s = .next (raiseTrap s (slotSite s k n) c d) := by
  simp only [execSpld, fireSlot_of h, loadServed h free open_ turn, Bool.false_eq_true, if_false, trap]

section
variable (noTrap : accessTrap s k false blk o.l.pay (accessWords w blk o.l.pay o.p.pay) = none)
include noTrap

theorem execSpld_races (unresumed : (s.slot k n).once = false) {d : BitVec 64}
    (race : raceHit (syncIf (ordAcq ord) s k) k o.l.tag (accessWords w blk o.l.pay o.p.pay) = some d) :
    execSpld w ord blk scope s = .next (raiseTrap s (slotSite s k n) 0x10 d) := by
  simp only [execSpld, fireSlot_of h, loadServed h free open_ turn, Bool.false_eq_true, if_false, noTrap, unresumed, race]

theorem execSpld_loads (quiet : (s.slot k n).once = true ∨ raceHit (syncIf (ordAcq ord) s k) k o.l.tag (accessWords w blk o.l.pay o.p.pay) = none)
    (noEcc : eccHit s k (accessWords w blk o.l.pay o.p.pay) = none) : execSpld w ord blk scope s =
      .next (fireTo (leaveLines ((syncIf (ordAcq ord) s k).setSlot k n { s.slot k n with once := false }) k n) k n (formOf (.spld w ord blk scope))
        (some (loadTok s k w blk o ord scope)) (some (loadTok s k w blk o ord scope))) := by
  have noRace : (if (s.slot k n).once then none else raceHit (syncIf (ordAcq ord) s k) k o.l.tag (accessWords w blk o.l.pay o.p.pay)) = none := by
    obtain resumed | noRace := quiet
    · rw [if_pos resumed]
    · rw [noRace, ite_self]
  simp only [execSpld, fireSlot_of h, loadServed h free open_ turn, Bool.false_eq_true, if_false, noTrap, noRace, noEcc, syncIf_slot, loadTok, loadPay]
end
end
end

end Sys2Proof.Machine
end

section
/-! PROOF. `spst` (05 R141, R142; 12 R308); and O23. -/

namespace Sys2Proof.Machine

/-! ### The words that a store writes (R141) -/

section
variable (s : State) (k : TileKey) (r : Payload)

theorem storeWords_rest (ws : List (Nat × Lane)) : storeWords s k r ws = { s with scratch := (storeWords s k r ws).scratch } := by
  induction ws generalizing s with
  | nil => rfl
  | cons x xs ih => exact ih (spStore s k x.2.toNat (Word.lane r x.1))

theorem storeWords_scratch_wf {s : State} (h : Mem.wf s.scratch = true) (ws : List (Nat × Lane)) : Mem.wf (storeWords s k r ws).scratch = true := by
  induction ws generalizing s with
  | nil => exact h
  | cons x xs ih => exact ih (s := spStore s k x.2.toNat (Word.lane r x.1)) (Mem.store_wf _ _ _ _ h)

/-- A store depends on the state by the words alone. -/
theorem storeWords_scratch_congr {s t : State} (same : t.scratch = s.scratch) (ws : List (Nat × Lane)) :
    (storeWords t k r ws).scratch = (storeWords s k r ws).scratch := by
  induction ws generalizing s t with
  | nil => exact same
  | cons x xs ih => exact ih (s := spStore s k x.2.toNat (Word.lane r x.1)) (t := spStore t k x.2.toNat (Word.lane r x.1)) (by rw [spStore, spStore, same])

/-- A byte outside every word of a store keeps its value. -/
theorem read_storeWords_out {ws : List (Nat × Lane)} {a : Nat} (out : ∀ x ∈ ws, a < spKey k x.2.toNat ∨ spKey k x.2.toNat + 4 ≤ a) :
    Mem.read (storeWords s k r ws).scratch a = Mem.read s.scratch a := by
  induction ws generalizing s with
  | nil => rfl
  | cons x xs ih =>
    rw [List.forall_mem_cons] at out
    exact (ih (spStore s k x.2.toNat (Word.lane r x.1)) out.2).trans (Mem.read_store_out _ _ out.1)

/-- A word reads what the last lane that stores to it stores. -/
theorem load_storeWords {s : State} (h : Mem.wf s.scratch = true) {pre post : List (Nat × Lane)} {x : Nat × Lane}
    (apart : ∀ y ∈ post, y.2.toNat + 4 ≤ x.2.toNat ∨ x.2.toNat + 4 ≤ y.2.toNat) :
    spWord (storeWords s k r (pre ++ x :: post)) k x.2.toNat = Word.lane r x.1 := by
  have split : storeWords s k r (pre ++ x :: post) = storeWords (spStore (storeWords s k r pre) k x.2.toNat (Word.lane r x.1)) k r post := List.foldl_append
  rw [split, spWord, Mem.load_congr fun a lo hi => read_storeWords_out _ k r fun y hy => ?_]
  · exact Mem.load_store_self (storeWords_scratch_wf k r h pre) _ _
  · have := apart y hy
    simp only [spKey] at lo hi ⊢
    omega
end

/-! ### The shadows that a store gives (R308) -/

section
variable {s : State} {k : TileKey} {t : Tag} {ws : List (Nat × Lane)}

theorem shadowSet_rest : shadowSet s k t ws = { s with shadow := (shadowSet s k t ws).shadow } := by
  unfold shadowSet
  split <;> rfl

/-- The shadows after a store outside the owner range are those before it with its words put in. -/
theorem shadowSet_puts (race : s.race k = true) (free : ∀ x ∈ ws, inOwner (s.tile k) x.2.toNat = false) :
    (shadowSet s k t ws).shadow = (ws.map fun x => (spKey k x.2.toNat, t ++ sphOf s k)).foldl (fun m e => m.put e.1 e.2) s.shadow := by
  rw [shadowSet, race, List.foldl_map]
  exact List.foldl_ext _ _ _ fun m x hx => by rw [free x hx]; rfl

theorem shadowSet_get? (race : s.race k = true) (free : ∀ x ∈ ws, inOwner (s.tile k) x.2.toNat = false) (a : Nat) :
    ((∃ x ∈ ws, x.2.toNat = a) → (shadowSet s k t ws).shadow.get? (spKey k a) = some (t ++ sphOf s k))
      ∧ ((¬∃ x ∈ ws, x.2.toNat = a) → (shadowSet s k t ws).shadow.get? (spKey k a) = s.shadow.get? (spKey k a)) := by
  have agree : ∀ e ∈ ws.map fun x => (spKey k x.2.toNat, t ++ sphOf s k), e.1 = spKey k a → e.2 = t ++ sphOf s k := by
    rintro e he -
    obtain ⟨x, -, rfl⟩ := List.mem_map.mp he
    rfl
  have written : (∃ e ∈ ws.map fun x => (spKey k x.2.toNat, t ++ sphOf s k), e.1 = spKey k a) ↔ ∃ x ∈ ws, x.2.toNat = a := by
    simp [spKey]
  rw [shadowSet_puts race free, Map.get?_foldl_put _ agree]
  exact ⟨fun isIn => if_pos (written.mpr isIn), fun notIn => if_neg (mt written.mp notIn)⟩

/-- Outside the owner range, a word of a store gets its TAG and its sync phase. -/
theorem shadowSet_shadowOf_in (race : s.race k = true) (free : ∀ x ∈ ws, inOwner (s.tile k) x.2.toNat = false) {a : Nat} (isIn : ∃ x ∈ ws, x.2.toNat = a) :
    shadowOf (shadowSet s k t ws) k a = t ++ sphOf s k := by
  rw [shadowOf, Map.getD, (shadowSet_get? race free a).1 isIn]
  rfl

/-- Every other word keeps its shadow. -/
theorem shadowSet_shadowOf_out (race : s.race k = true) (free : ∀ x ∈ ws, inOwner (s.tile k) x.2.toNat = false) {a : Nat} (notIn : ¬∃ x ∈ ws, x.2.toNat = a) :
    shadowOf (shadowSet s k t ws) k a = shadowOf s k a := by
  rw [shadowOf, Map.getD, (shadowSet_get? race free a).2 notIn]
  rfl
end

/-! ### The state that a store leaves -/

/-- `t` is `s` for the race check and the owner range of tile `k`: its region, the launches, the shadows and its unit section. -/
structure SamePad (k : TileKey) (s t : State) : Prop where
  region : (t.tile k).region = (s.tile k).region
  units : (t.tile k).units = (s.tile k).units
  regions : t.regions = s.regions
  launches : t.launches = s.launches
  shadow : t.shadow = s.shadow

namespace SamePad
variable {k : TileKey} {s t u : State}

theorem trans (h : SamePad k s t) (g : SamePad k t u) : SamePad k s u :=
  ⟨g.region.trans h.region, g.units.trans h.units, g.regions.trans h.regions, g.launches.trans h.launches, g.shadow.trans h.shadow⟩

theorem regionOf_eq (h : SamePad k s t) : t.regionOf k = s.regionOf k := by rw [State.regionOf, h.region, State.regionOf]

theorem race (h : SamePad k s t) : t.race k = s.race k := by
  have launchOf : t.launchOf k = s.launchOf k := by rw [State.launchOf, State.region, h.regions, h.regionOf_eq]; rfl
  rw [State.race, State.launchFlag, State.launch, h.launches, launchOf]
  rfl

theorem sphOf_eq (h : SamePad k s t) : sphOf t k = sphOf s k := by rw [sphOf, State.region, h.regions, h.regionOf_eq]; rfl

theorem inOwner_eq (h : SamePad k s t) (a : Nat) : inOwner (t.tile k) a = inOwner (s.tile k) a := by rw [inOwner, unit0, h.units]; rfl

theorem shadowOf_eq (h : SamePad k s t) (a : Nat) : shadowOf t k a = shadowOf s k a := by rw [shadowOf, h.shadow]; rfl

theorem of_eq_syncs (m : Map (List Nat)) : SamePad k s { s with syncs := m } := ⟨rfl, rfl, rfl, rfl, rfl⟩
theorem of_eq_scratch (m : List Host.Cell) : SamePad k s { s with scratch := m } := ⟨rfl, rfl, rfl, rfl, rfl⟩
theorem of_eq_ecc (m : List Nat) : SamePad k s { s with ecc := m } := ⟨rfl, rfl, rfl, rfl, rfl⟩
end SamePad

section
variable (s : State) (k : TileKey) (n : Nat) (f : NodeForm) (ord : BitVec 2) (scope : BitVec 3) (r : Payload) (t : Tag) (ws : List (Nat × Lane))

/-- The state in which a store leaves its lines and passes on its past. -/
def storeBegun : State :=
  let s0 := leaveLines (s.setSlot k n { s.slot k n with once := false }) k n
  if ordRel ord && wideScope scope then syncPut s0 (wordKeys k ws) (slotPast s k n f) else s0

/-- The state in which a store has written its words. -/
def storeWritten : State := eccClear (storeWords (storeBegun s k n f ord scope ws) k r ws) k ws

/-- The state that a store leaves before its completion token. -/
def storeDone : State := syncIf (ordRel ord) (shadowSet (storeWritten s k n f ord scope r ws) k t ws) k

theorem storeBegun_pad : SamePad k s (storeBegun s k n f ord scope ws) := by
  have left : SamePad k s (leaveLines (s.setSlot k n { s.slot k n with once := false }) k n) :=
    ⟨by rw [leaveLines, State.setTile_tile_self, State.setSlot_tile_self], by rw [leaveLines, State.setTile_tile_self, State.setSlot_tile_self], rfl, rfl, rfl⟩
  unfold storeBegun
  dsimp only
  split
  · rw [syncPut_rest]
    exact left.trans (.of_eq_syncs _)
  · exact left

theorem storeBegun_scratch : (storeBegun s k n f ord scope ws).scratch = s.scratch := by
  unfold storeBegun
  dsimp only
  split
  · rw [syncPut_rest]
    rfl
  · rfl

theorem eccClear_rest : eccClear s k ws = { s with ecc := (eccClear s k ws).ecc } := by
  unfold eccClear
  split <;> rfl

theorem storeWritten_pad : SamePad k s (storeWritten s k n f ord scope r ws) := by
  rw [storeWritten, eccClear_rest, storeWords_rest]
  exact ((storeBegun_pad s k n f ord scope ws).trans (.of_eq_scratch _)).trans (.of_eq_ecc _)

theorem storeDone_scratch : (storeDone s k n f ord scope r t ws).scratch = (storeWords s k r ws).scratch := by
  rw [storeDone, syncIf_scratch, shadowSet_rest]
  change (storeWritten s k n f ord scope r ws).scratch = _
  rw [storeWritten, eccClear_rest]
  exact storeWords_scratch_congr k r (storeBegun_scratch s k n f ord scope ws) ws

theorem storeDone_shadowOf (race : s.race k = true) (free : ∀ x ∈ ws, inOwner (s.tile k) x.2.toNat = false) (a : Nat) :
    ((∃ x ∈ ws, x.2.toNat = a) → shadowOf (storeDone s k n f ord scope r t ws) k a = t ++ sphOf s k)
      ∧ ((¬∃ x ∈ ws, x.2.toNat = a) → shadowOf (storeDone s k n f ord scope r t ws) k a = shadowOf s k a) := by
  have pad := storeWritten_pad s k n f ord scope r ws
  have raceW := pad.race.trans race
  have freeW : ∀ x ∈ ws, inOwner ((storeWritten s k n f ord scope r ws).tile k) x.2.toNat = false := fun x hx => (pad.inOwner_eq _).trans (free x hx)
  rw [storeDone, syncIf_shadowOf, ← pad.sphOf_eq, ← pad.shadowOf_eq]
  exact ⟨shadowSet_shadowOf_in raceW freeW, shadowSet_shadowOf_out raceW freeW⟩
end

/-! ### The store (R141, R142) -/

section
variable {s : State} {k : TileKey} {n : Nat} {w : NodeOp} {o : Opnds} {ord : BitVec 2} {blk : Bool} {scope : BitVec 3}

/-- The completion token of a store. -/
def storeTok (o : Opnds) : Tok := { tt := .control, seq := o.l.seq, tag := o.l.tag }

section
variable (h : NodeAt s k n (formOf (.spst w ord blk scope)) o) (turn : memTurn s k n = true) (free : acqHeld (s.tile k) = false)
  (rel : ordRel ord = true → relHeld s k = false ∧ released s (slotPast s k n (formOf (.spst w ord blk scope))) scope = true)
include h turn free rel

theorem storeServed : (!storeOpen s k n (formOf (.spst w ord blk scope)) ord scope || !memTurn s k n) = false := by
  rw [storeOpen, relOpen, h.2.2, free, turn]
  cases releases : ordRel ord with
  | false => rfl
  | true =>
    obtain ⟨held, done⟩ := rel releases
    rw [held, done]
    rfl

theorem execSpst_traps {c : BitVec 8} {d : BitVec 64} (trap : accessTrap s k true blk o.l.pay (accessWords w blk o.l.pay o.p.pay) = some (c, d)) :
    execSpst w ord blk scope s = .next (raiseTrap s (slotSite s k n) c d) := by
  simp only [execSpst, fireSlot_of h, storeServed h turn free rel, Bool.false_eq_true, if_false, trap]

section
variable (noTrap : accessTrap s k true blk o.l.pay (accessWords w blk o.l.pay o.p.pay) = none)
include noTrap

theorem execSpst_races (unresumed : (s.slot k n).once = false) {d : BitVec 64} (race : raceHit s k o.l.tag (accessWords w blk o.l.pay o.p.pay) = some d) :
    execSpst w ord blk scope s = .next (raiseTrap s (slotSite s k n) 0x10 d) := by
  simp only [execSpst, fireSlot_of h, storeServed h turn free rel, Bool.false_eq_true, if_false, noTrap, unresumed, race]

theorem execSpst_stores (quiet : (s.slot k n).once = true ∨ raceHit s k o.l.tag (accessWords w blk o.l.pay o.p.pay) = none) : execSpst w ord blk scope s =
    .next (fireTo (storeDone s k n (formOf (.spst w ord blk scope)) ord scope o.r.pay o.l.tag (accessWords w blk o.l.pay o.p.pay)) k n (formOf (.spst w ord blk scope))
      (some (storeTok o)) (some (storeTok o))) := by
  have noRace : (if (s.slot k n).once then none else raceHit s k o.l.tag (accessWords w blk o.l.pay o.p.pay)) = none := by
    obtain resumed | noRace := quiet
    · rw [if_pos resumed]
    · rw [noRace, ite_self]
  simp only [execSpst, fireSlot_of h, storeServed h turn free rel, Bool.false_eq_true, if_false, noTrap, noRace, storeDone, storeWritten, storeBegun, storeTok]
end
end
end

end Sys2Proof.Machine
end

section
/-! PROOF. Scratchpad loads and stores by their lanes (05 R141 to R143; 12 R307, R308): O23. -/

namespace Sys2Proof.Machine

/-! ### The lanes of an access and their addresses -/

section
variable {s : State} {k : TileKey} {w : NodeOp} {blk : Bool} {l p : Payload}

/-- The byte that a lane's word begins at. -/
def accessAt (blk : Bool) (l : Payload) (j : Nat) : Nat := if blk then (Word.lane l 0).toNat + 4 * j else (Word.lane l j).toNat

theorem accessOn_iff {j : Nat} : accessOn w blk p j = true ↔ blk = true ∨ laneOn w p j = true := by rw [accessOn, Bool.or_eq_true]

/-- A `blk` access that begins in place has its addresses without wrapping. -/
theorem accessLane_toNat (start : blk = true → BlkAt s k l) {j : Nat} (hj : j < 16) : (accessLane blk l j).toNat = accessAt blk l j := by
  cases blk with
  | false => rfl
  | true =>
    have := (start rfl).2
    have := spLimit_le s k
    exact accessLane_blk (by omega) hj

theorem padAt_of_blkAt (start : BlkAt s k l) {j : Nat} (hj : j < 16) : PadAt s k (accessAt true l j) := by
  obtain ⟨aligned, fits⟩ := start
  simp only [PadAt, accessAt, if_true]
  omega

/-- Where each lane is in place, the access is. -/
theorem loadPlaced (place : ∀ j, j < 16 → (blk = true ∧ j = 0 ∧ (Word.lane l 0).toNat % 64 = 0 ∧ (Word.lane l 0).toNat + 64 ≤ spLimit s k) ∨ (blk = true ∧ j ≠ 0)
      ∨ (blk = false ∧ (laneOn w p j = true → (Word.lane l j).toNat % 4 = 0 ∧ (Word.lane l j).toNat + 4 ≤ spLimit s k))) :
    (blk = true → BlkAt s k l) ∧ ∀ j, j < 16 → accessOn w blk p j = true → PadAt s k (accessLane blk l j).toNat := by
  cases blk with
  | true =>
    have start : BlkAt s k l := by simpa [BlkAt] using place 0 (by decide)
    exact ⟨fun _ => start, fun j hj _ => by rw [accessLane_toNat (fun _ => start) hj]; exact padAt_of_blkAt start hj⟩
  | false =>
    refine ⟨fun isBlk => absurd isBlk Bool.false_ne_true, fun j hj isOn => ?_⟩
    obtain ⟨isBlk, -⟩ | ⟨isBlk, -⟩ | ⟨-, ok⟩ := place j hj
    · cases isBlk
    · cases isBlk
    · exact ok isOn

/-- A `blk` access of aligned words that all lie in the scratchpad, and begin at a multiple of 64, begins in place. -/
theorem blkAt_of_words (isBlk : blk = true) (aligned : accessAt blk l 0 % 64 = 0) (last : PadAt s k (accessAt blk l 15)) : BlkAt s k l := by
  subst isBlk
  obtain ⟨-, fits⟩ := last
  simp only [accessAt, if_true] at aligned fits
  exact ⟨by omega, by omega⟩

/-- The words of an access are those of its lanes. -/
theorem exists_word_iff (start : blk = true → BlkAt s k l) (P : Nat → Prop) :
    (∃ x ∈ accessWords w blk l p, P x.2.toNat) ↔ ∃ j, j < 16 ∧ accessOn w blk p j = true ∧ P (accessAt blk l j) := by
  constructor
  · rintro ⟨x, hx, hP⟩
    obtain ⟨j, hj, isOn, rfl⟩ := mem_accessWords.mp hx
    exact ⟨j, hj, isOn, accessLane_toNat start hj ▸ hP⟩
  · rintro ⟨j, hj, isOn, hP⟩
    exact ⟨_, mem_accessWords.mpr ⟨j, hj, isOn, rfl⟩, by rwa [accessLane_toNat start hj]⟩

theorem forall_word_iff (start : blk = true → BlkAt s k l) (P : Nat → Prop) :
    (∀ x ∈ accessWords w blk l p, P x.2.toNat) ↔ ∀ j, j < 16 → accessOn w blk p j = true → P (accessAt blk l j) := by
  have := not_congr (exists_word_iff (w := w) (p := p) start fun a => ¬P a)
  simpa using this

/-! ### The race of an acquiring load -/

theorem racesAt_syncIf (race : s.race k = true) (c : Bool) (t : Tag) (a : Nat) : RacesAt (syncIf c s k) k t a ↔
    inOwner (s.tile k) a = false ∧ (shadowOf s k a).extractLsb' 8 16 ≠ 0xFFFF ∧ (shadowOf s k a).extractLsb' 8 16 ≠ t
      ∧ (shadowOf s k a).extractLsb' 0 8 = sphOf s k + (if c then 1 else 0) := by
  rw [RacesAt, syncIf_tile, syncIf_shadowOf, syncIf_sphOf s k race]

theorem raceDetail_syncIf (race : s.race k = true) (c : Bool) (t : Tag) (a : Nat) : raceDetail (syncIf c s k) k a t =
    t ++ (shadowOf s k a).extractLsb' 8 16 ++ (sphOf s k + (if c then 1 else 0)) ++ (0 : BitVec 5) ++ BitVec.ofNat 19 a := by
  rw [raceDetail, syncIf_shadowOf, syncIf_sphOf s k race]
  rfl

theorem raceHit_syncIf_none {c : Bool} {t : Tag} {ws : List (Nat × Lane)}
    (quiet : s.race k = false ∨ ∀ x ∈ ws, ¬(inOwner (s.tile k) x.2.toNat = false ∧ (shadowOf s k x.2.toNat).extractLsb' 8 16 ≠ 0xFFFF
      ∧ (shadowOf s k x.2.toNat).extractLsb' 8 16 ≠ t ∧ (shadowOf s k x.2.toNat).extractLsb' 0 8 = sphOf s k + (if c then 1 else 0))) :
    raceHit (syncIf c s k) k t ws = none := by
  cases race : s.race k with
  | false => exact raceHit_of_noRace ((syncIf_race s k c).trans race) t ws
  | true =>
    refine raceHit_none (.inr fun x hx => ?_)
    rw [racesAt_syncIf race]
    exact quiet.resolve_left (by rw [race]; decide) x hx

/-- The lowest lane that races gives the race of a store. -/
theorem raceHit_lane (start : blk = true → BlkAt s k l) (race : s.race k = true) {t : Tag} {j : Nat} (hj : j < 16) (isOn : accessOn w blk p j = true)
    (races : RacesAt s k t (accessAt blk l j)) (before : ∀ x, x < j → accessOn w blk p x = true → ¬RacesAt s k t (accessAt blk l x)) :
    raceHit s k t (accessWords w blk l p) = some (raceDetail s k (accessAt blk l j) t) := by
  rw [raceHit_of_race race, findSome?_accessWords]
  refine findSome?_lane hj isOn ?_ fun x lt xOn => raceAt_of_not ?_
  · rw [accessLane_toNat start hj]
    exact raceAt_of_races races
  · rw [accessLane_toNat start (lt.trans hj)]
    exact before x lt xOn

/-! ### What a store leaves in its words -/

/-- A lane's word reads what the lane stores, if no higher lane stores there. -/
theorem load_storeWords_lane {r : Payload} (wf : Mem.wf s.scratch = true) (start : blk = true → BlkAt s k l) {j : Nat} (hj : j < 16) (isOn : accessOn w blk p j = true)
    (pads : ∀ x, x < 16 → accessOn w blk p x = true → PadAt s k (accessAt blk l x))
    (last : ∀ x, x < 16 → accessOn w blk p x = true → j < x → accessAt blk l x ≠ accessAt blk l j) :
    spWord (storeWords s k r (accessWords w blk l p)) k (accessAt blk l j) = Word.lane r j := by
  obtain ⟨pre, post, split, -, above⟩ := exists_lanes_around hj isOn
  rw [accessWords_eq, split, List.map_append, List.map_cons, ← accessLane_toNat start hj]
  refine load_storeWords k r wf (x := (j, accessLane blk l j)) fun y hy => ?_
  obtain ⟨x, hx, rfl⟩ := List.mem_map.mp hy
  obtain ⟨lt, hi, xOn⟩ := above x hx
  have ne := last x hi xOn lt
  have xAt := (pads x hi xOn).1
  have jAt := (pads j hj isOn).1
  rw [accessLane_toNat start hj, accessLane_toNat start hi]
  omega

theorem read_storeWords_lanes (start : blk = true → BlkAt s k l) (r : Payload) {a : Nat}
    (out : ∀ j, j < 16 → accessOn w blk p j = true → a < k * 524288 + accessAt blk l j ∨ k * 524288 + accessAt blk l j + 4 ≤ a) :
    Mem.read (storeWords s k r (accessWords w blk l p)).scratch a = Mem.read s.scratch a :=
  read_storeWords_out s k r ((forall_word_iff start fun x => a < k * 524288 + x ∨ k * 524288 + x + 4 ≤ a).mpr out)
end

/-! ### `spld` by its lanes -/

section
variable {s : State} {k : TileKey} {n : Nat} {w : NodeOp} {o : Opnds} {ord : BitVec 2} {blk : Bool} {scope : BitVec 3}

section
variable (h : NodeAt s k n (formOf (.spld w ord blk scope)) o) (free : acqHeld (s.tile k) = false)
  (open_ : ownerOpen s k (s.slot k n).rounds (accessWords w blk o.l.pay o.p.pay) = true) (turn : memTurn s k n = true)
include h free open_ turn

theorem execSpld_badLane (isLanes : blk = false) {j : Nat} (hj : j < 16) (isOn : laneOn w o.p.pay j = true) (bad : ¬PadAt s k (Word.lane o.l.pay j).toNat)
    (before : ∀ x, x < j → laneOn w o.p.pay x = true → PadAt s k (Word.lane o.l.pay x).toNat) :
    execSpld w ord blk scope s = .next (raiseTrap s (slotSite s k n) 0x0C (spDetail j (Word.lane o.l.pay j))) := by
  subst isLanes
  exact execSpld_traps h free open_ turn (accessTrap_lane (w := w) (p := o.p.pay) (blk := false) (fun e => absurd e Bool.false_ne_true) hj isOn
    (spWordTrap_of_bad bad false j) fun x lt xOn => spWordTrap_of_ok (before x lt xOn) (fun e => absurd e Bool.false_ne_true) x)

theorem execSpld_badBlk (isBlk : blk = true) (bad : ¬BlkAt s k o.l.pay) :
    execSpld w ord blk scope s = .next (raiseTrap s (slotSite s k n) 0x0C (spDetail 0 (Word.lane o.l.pay 0))) := by
  subst isBlk
  exact execSpld_traps h free open_ turn (accessTrap_blk bad)

section
variable (start : blk = true → BlkAt s k o.l.pay) (ok : ∀ j, j < 16 → accessOn w blk o.p.pay j = true → PadAt s k (accessLane blk o.l.pay j).toNat)
include start ok

omit h free open_ turn in
theorem loadTrap_none : accessTrap s k false blk o.l.pay (accessWords w blk o.l.pay o.p.pay) = none :=
  accessTrap_none start fun j hj isOn => ⟨ok j hj isOn, fun e => absurd e Bool.false_ne_true⟩

/-- The first word of a load that races, in the sync phase the load has moved on to. -/
theorem execSpld_raceAt (unresumed : (s.slot k n).once = false) (race : s.race k = true) {pre post : List (Nat × Lane)} {x : Nat × Lane}
    (split : accessWords w blk o.l.pay o.p.pay = pre ++ x :: post) (hit : RacesAt (syncIf (ordAcq ord) s k) k o.l.tag x.2.toNat)
    (before : ∀ y ∈ pre, ¬RacesAt (syncIf (ordAcq ord) s k) k o.l.tag y.2.toNat) :
    execSpld w ord blk scope s = .next (raiseTrap s (slotSite s k n) 0x10 (raceDetail (syncIf (ordAcq ord) s k) k x.2.toNat o.l.tag)) := by
  refine execSpld_races h free open_ turn (loadTrap_none start ok) unresumed ?_
  rw [raceHit_of_race ((syncIf_race s k _).trans race), split]
  exact findSome?_first (fun y hy => raceAt_of_not (before y hy)) (raceAt_of_races hit) post
end
end

/-- The lanes that a load gathers. -/
theorem loadPay_lanes : (blk = true → ∀ j, j < 16 → Word.lane (loadPay s k w blk o.l.pay o.p.pay) j = spWord s k ((Word.lane o.l.pay 0).toNat + 4 * j))
    ∧ (blk = false → Lanewise w o (fun j => spWord s k (Word.lane o.l.pay j).toNat) (loadPay s k w blk o.l.pay o.p.pay)) := by
  refine ⟨fun isBlk j hj => ?_, fun isLanes => ?_⟩
  · rw [loadPay, if_pos isBlk]
    exact lane_ofLanes _ _ hj
  · rw [loadPay, if_neg (by rw [isLanes]; decide)]
    exact lanewise_predLanes w o _

/-! ### `spst` by its lanes -/

section
variable (h : NodeAt s k n (formOf (.spst w ord blk scope)) o) (turn : memTurn s k n = true) (free : acqHeld (s.tile k) = false)
  (rel : ordRel ord = true → relHeld s k = false ∧ released s (slotPast s k n (formOf (.spst w ord blk scope))) scope = true)
include h turn free rel

theorem execSpst_badLane (isLanes : blk = false) {j : Nat} (hj : j < 16) (isOn : accessOn w blk o.p.pay j = true) (bad : ¬PadAt s k (accessAt blk o.l.pay j))
    (before : ∀ x, x < j → accessOn w blk o.p.pay x = true → PadAt s k (accessAt blk o.l.pay x) ∧ inOwner (s.tile k) (accessAt blk o.l.pay x) = false) :
    execSpst w ord blk scope s = .next (raiseTrap s (slotSite s k n) 0x0C (BitVec.ofNat 64 (j * 2 ^ 32 + accessAt blk o.l.pay j))) := by
  subst isLanes
  exact execSpst_traps h turn free rel (accessTrap_lane (w := w) (p := o.p.pay) (blk := false) (fun e => absurd e Bool.false_ne_true) hj isOn
    (spWordTrap_of_bad bad true j) fun x lt xOn => spWordTrap_of_ok (before x lt xOn).1 (fun _ => (before x lt xOn).2) x)

theorem execSpst_badBlk (isBlk : blk = true) (bad : ¬BlkAt s k o.l.pay) :
    execSpst w ord blk scope s = .next (raiseTrap s (slotSite s k n) 0x0C (spDetail 0 (Word.lane o.l.pay 0))) := by
  subst isBlk
  exact execSpst_traps h turn free rel (accessTrap_blk bad)

section
variable (start : blk = true → BlkAt s k o.l.pay) (pads : ∀ j, j < 16 → accessOn w blk o.p.pay j = true → PadAt s k (accessAt blk o.l.pay j))
include start pads

theorem execSpst_owned {j : Nat} (hj : j < 16) (isOn : accessOn w blk o.p.pay j = true) (owned : inOwner (s.tile k) (accessAt blk o.l.pay j) = true)
    (before : ∀ x, x < j → accessOn w blk o.p.pay x = true → inOwner (s.tile k) (accessAt blk o.l.pay x) = false) :
    execSpst w ord blk scope s = .next (raiseTrap s (slotSite s k n) 0x0D (BitVec.ofNat 64 (j * 2 ^ 32 + accessAt blk o.l.pay j))) := by
  have lane {x : Nat} (hx : x < 16) : (accessLane blk o.l.pay x).toNat = accessAt blk o.l.pay x := accessLane_toNat start hx
  have pad {x : Nat} (hx : x < 16) (xOn : accessOn w blk o.p.pay x = true) : PadAt s k (accessLane blk o.l.pay x).toNat := by rw [lane hx]; exact pads x hx xOn
  rw [← lane hj] at owned ⊢
  refine execSpst_traps h turn free rel (accessTrap_lane start hj isOn (spWordTrap_of_owned (pad hj isOn) owned j) fun x lt xOn => ?_)
  exact spWordTrap_of_ok (pad (lt.trans hj) xOn) (fun _ => by rw [lane (lt.trans hj)]; exact before x lt xOn) x

section
variable (unowned : ∀ j, j < 16 → accessOn w blk o.p.pay j = true → inOwner (s.tile k) (accessAt blk o.l.pay j) = false)
include unowned

omit h turn free rel in
theorem storeTrap_none : accessTrap s k true blk o.l.pay (accessWords w blk o.l.pay o.p.pay) = none :=
  accessTrap_none start fun j hj isOn => by
    rw [accessLane_toNat start hj]
    exact ⟨pads j hj isOn, fun _ => unowned j hj isOn⟩

theorem execSpst_raceAt (unresumed : (s.slot k n).once = false) (race : s.race k = true) {j : Nat} (hj : j < 16) (isOn : accessOn w blk o.p.pay j = true)
    (hit : RacesAt s k o.l.tag (accessAt blk o.l.pay j)) (before : ∀ x, x < j → accessOn w blk o.p.pay x = true → ¬RacesAt s k o.l.tag (accessAt blk o.l.pay x)) :
    execSpst w ord blk scope s = .next (raiseTrap s (slotSite s k n) 0x10 (raceDetail s k (accessAt blk o.l.pay j) o.l.tag)) :=
  execSpst_races h turn free rel (storeTrap_none start pads unowned) unresumed (raceHit_lane start race hj isOn hit before)

/-- The state that a store leaves, its completion token sent. -/
def stored (s : State) (k : TileKey) (n : Nat) (w : NodeOp) (ord : BitVec 2) (blk : Bool) (scope : BitVec 3) (o : Opnds) : State :=
  fireTo (storeDone s k n (formOf (.spst w ord blk scope)) ord scope o.r.pay o.l.tag (accessWords w blk o.l.pay o.p.pay)) k n (formOf (.spst w ord blk scope))
    (some (storeTok o)) (some (storeTok o))

theorem execSpst_stored (quiet : (s.slot k n).once = true ∨ s.race k = false ∨ ∀ j, j < 16 → accessOn w blk o.p.pay j = true → ¬RacesAt s k o.l.tag (accessAt blk o.l.pay j)) :
    execSpst w ord blk scope s = .next (stored s k n w ord blk scope o) :=
  execSpst_stores h turn free rel (storeTrap_none start pads unowned) (quiet.imp_right fun q => raceHit_none (q.imp_right (forall_word_iff start fun a => ¬RacesAt s k o.l.tag a).mpr))
end
end
end

/-- Sending a token changes no word and no shadow. -/
theorem SentFrom.pads {t : State} (h : SentFrom k s t) : t.scratch = s.scratch ∧ t.shadow = s.shadow := by
  rw [h.rest]
  exact ⟨rfl, rfl⟩

theorem stored_scratch : (stored s k n w ord blk scope o).scratch = (storeWords s k o.r.pay (accessWords w blk o.l.pay o.p.pay)).scratch :=
  (sentFrom_fireTo _ _ _ _ _ _).pads.1.trans (storeDone_scratch _ _ _ _ _ _ _ _ _)

/-- A store outside the owner range gives its words their shadow, and no other word. -/
theorem stored_shadowOf (start : blk = true → BlkAt s k o.l.pay) (race : s.race k = true)
    (unowned : ∀ j, j < 16 → accessOn w blk o.p.pay j = true → inOwner (s.tile k) (accessAt blk o.l.pay j) = false) (a : Nat) :
    ((∃ j, j < 16 ∧ accessOn w blk o.p.pay j = true ∧ accessAt blk o.l.pay j = a) → shadowOf (stored s k n w ord blk scope o) k a = o.l.tag ++ sphOf s k)
      ∧ ((¬∃ j, j < 16 ∧ accessOn w blk o.p.pay j = true ∧ accessAt blk o.l.pay j = a) → shadowOf (stored s k n w ord blk scope o) k a = shadowOf s k a) := by
  have shadow : shadowOf (stored s k n w ord blk scope o) k a
      = shadowOf (storeDone s k n (formOf (.spst w ord blk scope)) ord scope o.r.pay o.l.tag (accessWords w blk o.l.pay o.p.pay)) k a :=
    congrArg (Map.getD · (spKey k a) 0xFFFF00) (sentFrom_fireTo _ _ _ _ _ _).pads.2
  rw [shadow, ← exists_word_iff start (· = a)]
  exact storeDone_shadowOf s k n _ ord scope _ _ _ race ((forall_word_iff start fun a => inOwner (s.tile k) a = false).mpr unowned) a
end

/-- Settles O23: the first lane that traps, then the first word that races, else the words read or written. -/
theorem scratchLoadAndStore : Obligations.ScratchLoadAndStore := by
  unfold Obligations.ScratchLoadAndStore
  refine ⟨fun s k n w o ord blk scope => ?load, fun s k n w o ord blk scope => ?store⟩
  case load =>
    intro i addr ws word past shadow sph races h free open_ turn
    refine ⟨fun place => ⟨fun unresumed race pre x post split hit before => ?race, fun noEcc quiet => ?loads⟩, fun j isLanes hj isOn bad before => ?lane, fun isBlk bad => ?blk⟩
    case race =>
      obtain ⟨start, ok⟩ := loadPlaced place
      have step := execSpld_raceAt h free open_ turn start ok unresumed race split ((racesAt_syncIf race _ _ _).mpr hit)
        fun y hy => mt (racesAt_syncIf race _ _ _).mp (before y hy)
      rwa [raceDetail_syncIf race] at step
    case loads =>
      obtain ⟨start, ok⟩ := loadPlaced place
      exact ⟨loadPay s k w blk o.l.pay o.p.pay, execSpld_loads h free open_ turn (loadTrap_none start ok) (quiet.imp_right raceHit_syncIf_none) noEcc, loadPay_lanes⟩
    case lane => exact execSpld_badLane h free open_ turn isLanes hj isOn (by rw [PadAt, not_and_or, not_le]; exact bad) before
    case blk =>
      have step := execSpld_badBlk h free open_ turn isBlk (by rw [BlkAt, not_and_or, not_le]; exact bad)
      rwa [spDetail, Nat.zero_mul, Nat.zero_add] at step
  case store =>
    intro i at_ on good shadow sph races quiet inside h turn free rel
    have isOn : ∀ {j}, on j ↔ j < 16 ∧ accessOn w blk o.p.pay j = true := fun {j} => and_congr_right fun _ => accessOn_iff.symm
    have forLanes {P : Nat → Prop} (all : ∀ j, on j → P j) (j : Nat) (hj : j < 16) (jOn : accessOn w blk o.p.pay j = true) : P j := all j (isOn.mpr ⟨hj, jOn⟩)
    have startOf : inside → blk = true → BlkAt s k o.l.pay := fun ⟨aligned, pads⟩ isBlk => blkAt_of_words isBlk (aligned isBlk) (pads 15 ⟨by decide, .inl isBlk⟩)
    refine ⟨fun ins unowned wf isQuiet => ?stores, fun ins unowned race unresumed j jOn hit before => ?storeRaces, fun ins j jOn owned before => ?owned,
      fun j isLanes jOn bad before => ?badLane, fun isBlk bad => ?badBlk⟩
    case stores =>
      have start := startOf ins
      have step := execSpst_stored h turn free rel start (forLanes ins.2) (forLanes unowned) (isQuiet.imp_right (.imp_right forLanes))
      have kept := frames_execSpst (.inl h.1.1) w ord blk scope _ step
      refine ⟨_, _, step, rfl, fun j jOn last => ?_, fun a out => ?_, fun race => ⟨fun j jOn => ?_, fun a notIn => ?_⟩, kept.dram, kept.ram, kept.host, kept.far⟩
      · obtain ⟨hj, jOn⟩ := isOn.mp jOn
        rw [stored_scratch]
        exact load_storeWords_lane wf start hj jOn (forLanes ins.2) (forLanes last)
      · rw [stored_scratch]
        exact read_storeWords_lanes start _ (forLanes out)
      · exact (stored_shadowOf start race (forLanes unowned) (at_ j)).1 ⟨j, (isOn.mp jOn).1, (isOn.mp jOn).2, rfl⟩
      · exact (stored_shadowOf start race (forLanes unowned) a).2 fun ⟨j, hj, jOn, e⟩ => notIn j (isOn.mpr ⟨hj, jOn⟩) e.symm
    case storeRaces =>
      obtain ⟨hj, jOn⟩ := isOn.mp jOn
      exact execSpst_raceAt h turn free rel (startOf ins) (forLanes ins.2) (forLanes unowned) unresumed race hj jOn hit
        fun x lt xOn => before x (isOn.mpr ⟨lt.trans hj, xOn⟩) lt
    case owned =>
      obtain ⟨hj, jOn⟩ := isOn.mp jOn
      exact execSpst_owned h turn free rel (startOf ins) (forLanes ins.2) hj jOn owned fun x lt xOn => before x (isOn.mpr ⟨lt.trans hj, xOn⟩) lt
    case badLane =>
      obtain ⟨hj, jOn⟩ := isOn.mp jOn
      exact execSpst_badLane h turn free rel isLanes hj jOn bad fun x lt xOn => before x (isOn.mpr ⟨lt.trans hj, xOn⟩) lt
    case badBlk =>
      have step := execSpst_badBlk h turn free rel isBlk (by
        subst isBlk
        rw [BlkAt, not_and_or, not_le]
        exact bad)
      subst isBlk
      rwa [spDetail, Nat.zero_mul, Nat.zero_add] at step

end Sys2Proof.Machine
end

section
/-! PROOF. ALU and immediate words of a sequencer (06 R189, R190): which word names each, and what it puts into D. -/

namespace Sys2Proof

/-- A word that encodes an instruction with its range rules decodes to it. -/
theorem decodeSeq_of_encodeSeq {i : Instr} {w : BitVec 32} (he : encodeSeq i = some w) (ok : i.seqOk = true) : decodeSeq w = .ok i :=
  decodeSeq_of_seqOfOp he (seqOfOp_of_encodeSeq he) ok

/-- A word whose OP or FN is reserved is refused. -/
theorem decodeSeq_reserved {w : BitVec 32} (h : seqOfOp w = none) : ∃ e, decodeSeq w = .error e :=
  ⟨.reservedOp, by simp [decodeSeq, h]⟩

/-- A word that is not the encoding of the instruction it names is refused. -/
theorem decodeSeq_nonzero {w : BitVec 32} {i : Instr} (h : seqOfOp w = some i) (ne : encodeSeq i ≠ some w) : ∃ e, decodeSeq w = .error e :=
  ⟨.nonzeroBit, by simp [decodeSeq, h, ne]⟩

/-- FN of 16 or more names no operation (R189). -/
theorem seqOfOp_fn_reserved (d a b : BitVec 5) {fn : BitVec 11} (h : 16 ≤ fn.toNat) : seqOfOp (rForm 0x01 d a b fn) = none := by
  simp only [seqOfOp, rForm_op, rForm_fn, BitVec.reduceToNat]
  split
  case h_17 => rfl
  all_goals omega

/-- Two I-form words differ where their immediates do. -/
theorem iForm_ne_imm (op : BitVec 6) (d a : BitVec 5) {x y : BitVec 16} (ne : x ≠ y) : iForm op d a x ≠ iForm op d a y := fun e =>
  ne (by rw [← iForm_imm op d a x, e, iForm_imm])

/-- An immediate of 64 or more is no 6-bit shift amount. -/
theorem shiftImm_ne {imm : BitVec 16} (wide : 64 ≤ imm.toNat) (sh : BitVec 6) : (0 : BitVec 10) ++ sh ≠ imm := fun e => by
  have low : ((0 : BitVec 10) ++ sh).toNat = sh.toNat := by rw [BitVec.toNat_append]; exact Nat.zero_or ..
  have : sh.toNat < 64 := sh.isLt
  rw [← e, low] at wide
  omega

theorem shiftWord_eq (op : BitVec 6) (d a : BitVec 5) (sh : BitVec 6) : op ++ d ++ a ++ (0 : BitVec 10) ++ sh = iForm op d a ((0 : BitVec 10) ++ sh) := by
  rw [BitVec.append_assoc]
  rfl

section
variable (d a : BitVec 5) (imm : BitVec 16)

theorem seqOfOp_shli : seqOfOp (iForm 0x06 d a imm) = some (.seqShli d a (Word.field imm 0 6)) := by simp [seqOfOp, iForm_field]
theorem seqOfOp_shri : seqOfOp (iForm 0x07 d a imm) = some (.seqShri d a (Word.field imm 0 6)) := by simp [seqOfOp, iForm_field]
theorem seqOfOp_srai : seqOfOp (iForm 0x08 d a imm) = some (.seqSrai d a (Word.field imm 0 6)) := by simp [seqOfOp, iForm_field]
theorem seqOfOp_insh : seqOfOp (iForm 0x0A d a imm) = some (.seqInsh d imm) := by simp [seqOfOp]
end

namespace Machine

section
variable {s : State} {k : TileKey} (h : SeqAt s k)
include h

/-- A word that only writes registers goes on to the next word. -/
theorem seqAlu_of (f : Seq → Seq) : seqAlu s f = seqNext s k (f (s.seq k)) := atSeq_of h _

theorem rWord_of (d a b : BitVec 5) (f : BitVec 64 → BitVec 64 → BitVec 64) :
    rWord s d a b f = seqNext s k ((s.seq k).put d (f ((s.seq k).reg a) ((s.seq k).reg b))) := seqAlu_of h _

theorem iWord_of (d a : BitVec 5) (f : BitVec 64 → BitVec 64) : iWord s d a f = seqNext s k ((s.seq k).put d (f ((s.seq k).reg a))) := seqAlu_of h _
end

theorem flag64_decide (p : Prop) [Decidable p] : flag64 (decide p) = if p then 1 else 0 := by
  simp only [flag64, decide_eq_true_eq]

theorem mul_eq_ofInt (x y : BitVec 64) : x * y = BitVec.ofInt 64 (x.toInt * y.toInt) := by
  rw [BitVec.ofInt_mul, BitVec.ofInt_toInt, BitVec.ofInt_toInt]

end Machine
end Sys2Proof

namespace Sys2Proof.Machine

/-- Settles O1: FN by the encodings, each result by the value that its word writes. -/
theorem seqAluResult : Obligations.SeqAluResult := by
  unfold Obligations.SeqAluResult
  refine ⟨fun d a b fn => ⟨fun i named => ?fn, fun h => decodeSeq_reserved (seqOfOp_fn_reserved d a b h)⟩, fun s k d a b h => ?value⟩
  case fn =>
    have few : fn.toNat < 16 := (List.getElem?_eq_some_iff.mp named).1
    obtain ⟨n, rfl⟩ : ∃ n : Fin 16, fn = BitVec.ofNat 11 n := ⟨⟨fn.toNat, few⟩, by simp⟩
    refine decodeSeq_of_encodeSeq ?_ ?_
    · fin_cases n <;> cases named <;> rfl
    · fin_cases n <;> cases named <;> rfl
  case value =>
    change execSeqAdd d a b s = _ ∧ execSeqSub d a b s = _ ∧ execSeqAnd d a b s = _ ∧ execSeqOr d a b s = _ ∧ execSeqXor d a b s = _ ∧ execSeqShl d a b s = _ ∧ execSeqShr d a b s = _ ∧ execSeqSra d a b s = _ ∧ execSeqMul d a b s = _ ∧ execSeqMulh d a b s = _ ∧ execSeqSlt d a b s = _ ∧ execSeqSltu d a b s = _ ∧ execSeqMin d a b s = _ ∧ execSeqMax d a b s = _ ∧ execSeqDiv d a b s = _ ∧ execSeqRem d a b s = _
    simp only [execSeqAdd, execSeqSub, execSeqAnd, execSeqOr, execSeqXor, execSeqShl, execSeqShr, execSeqSra, execSeqMul, execSeqMulh, execSeqSlt, execSeqSltu, execSeqMin, execSeqMax, execSeqDiv, execSeqRem, rWord_of h, shBy, signFill,
      flag64_decide, mul_eq_ofInt, BitVec.slt, BitVec.ult, decide_eq_true_eq, beq_iff_eq, and_self]

/-- Settles O2: the OP by the encodings, each result by the value that its word writes. -/
theorem seqImmediateResult : Obligations.SeqImmediateResult := by
  unfold Obligations.SeqImmediateResult
  refine ⟨fun d a imm sh => ⟨?_, ?_, ?_, ?_, ?_, ?shl, ?shr, ?sra, fun wide => ?wide, fun zero => zero ▸ decodeSeq_of_encodeSeq rfl rfl, fun nonzero => ?nonzero⟩,
    fun s k d a imm sh h => ?value⟩
  case wide =>
    have ne (op : BitVec 6) (x : BitVec 6) : some (iForm op d a ((0 : BitVec 10) ++ x)) ≠ some (iForm op d a imm) :=
      fun e => iForm_ne_imm op d a (shiftImm_ne wide x) (Option.some.inj e)
    exact ⟨decodeSeq_nonzero (seqOfOp_shli d a imm) (ne _ _), decodeSeq_nonzero (seqOfOp_shri d a imm) (ne _ _), decodeSeq_nonzero (seqOfOp_srai d a imm) (ne _ _)⟩
  case nonzero =>
    have ne : some (iForm 0x0A d 0 imm) ≠ some (iForm 0x0A d a imm) := fun e =>
      nonzero (by rw [← iForm_a 0x0A d a imm, ← Option.some.inj e, iForm_a])
    exact decodeSeq_nonzero (seqOfOp_insh d a imm) ne
  case value =>
    change execSeqAddi d a imm s = _ ∧ execSeqAndi d a imm s = _ ∧ execSeqOri d a imm s = _ ∧ execSeqXori d a imm s = _ ∧ execSeqShli d a sh s = _
      ∧ execSeqShri d a sh s = _ ∧ execSeqSrai d a sh s = _ ∧ execSeqSlti d a imm s = _ ∧ execSeqInsh d imm s = _
    simp only [execSeqAddi, execSeqAndi, execSeqOri, execSeqXori, execSeqShli, execSeqShri, execSeqSrai, execSeqSlti, execSeqInsh, iWord_of h, flag64_decide, BitVec.slt,
      BitVec.toInt_signExtend_of_le (show 16 ≤ 64 by decide), and_self]
  case shl | shr | sra =>
    change decodeSeq _ = _
    rw [shiftWord_eq]
    exact decodeSeq_of_encodeSeq rfl rfl
  all_goals exact decodeSeq_of_encodeSeq rfl rfl

end Sys2Proof.Machine
end

section
/-! PROOF. What a trap of a sequencer leaves (06 R203; 18 R358, R361), and the loads, stores, branches and jumps (06 R191, R192). -/

namespace Sys2Proof.Machine

/-! ### A sequencer's trap -/

section
variable (s : State) (k : TileKey) (cause : BitVec 8) (detail : BitVec 64)

/-- The parts of the state that a trap of a sequencer may change. -/
theorem raiseSeq_rest : raiseSeq s k cause detail =
    { s with seqs := (raiseSeq s k cause detail).seqs, regions := (raiseSeq s k cause detail).regions
             launches := (raiseSeq s k cause detail).launches, contexts := (raiseSeq s k cause detail).contexts } := by
  unfold raiseSeq raiseTrap
  dsimp only [seqSite, setStopped]
  split <;> rfl

@[simp] theorem raiseSeq_tiles : (raiseSeq s k cause detail).tiles = s.tiles := by rw [raiseSeq_rest]
@[simp] theorem raiseSeq_ram : (raiseSeq s k cause detail).ram = s.ram := by rw [raiseSeq_rest]

theorem raiseSeq_seq_ne {j : TileKey} (ne : j ≠ k) : (raiseSeq s k cause detail).seq j = s.seq j := by
  have closed (u : State) (l : Nat) : (closeLaunch u l).seq j = u.seq j := rfl
  unfold raiseSeq raiseTrap
  dsimp only [seqSite, setStopped]
  split
  · rw [closed, State.setSeq_seq_ne _ _ _ _ ne, State.setSeq_seq_ne _ _ _ _ ne]
    rfl
  · rw [State.setSeq_seq_ne _ _ _ _ ne, State.setSeq_seq_ne _ _ _ _ ne]
    rfl

/-- The record is offered to the trap queue of the launch's context (R358). -/
theorem raiseSeq_offered : ((raiseSeq s k cause detail).ctx (s.ctxOf k)).offered = (s.ctx (s.ctxOf k)).offered ++
    [{ bits := trapRecord s (seqSite s k (seqWord s k)) cause detail, agent := .seq k, fatal := causeFatal cause, launch := s.launchOf k }] := by
  have kept (u : State) (x : Launch) : ((u.setLaunch (s.launchOf k) x).setSeq k (s.seq k)).contexts = u.contexts := rfl
  unfold raiseSeq raiseTrap
  dsimp only [seqSite, setStopped]
  split
  · exact congrArg (·.offered) (State.setCtx_ctx_self s (s.ctxOf k) _)
  · exact congrArg (·.offered) (State.setCtx_ctx_self s (s.ctxOf k) _)

variable {cause}

theorem raiseSeq_regions (replayable : causeFatal cause = false) : (raiseSeq s k cause detail).regions = s.regions := by
  unfold raiseSeq raiseTrap
  simp only [seqSite, setStopped, replayable]
  rfl
end

/-- A word that raises a replayable cause traps. -/
theorem seqTraps_of {i : Instr} {s : State} {k : TileKey} {cause : BitVec 8} {detail : BitVec 64} (replayable : causeFatal cause = false)
    (raises : exec i s = .next (raiseSeq s k cause detail)) : SeqTraps i s k cause detail :=
  ⟨_, raises, raiseSeq_seq_self .., raiseSeq_tiles .., raiseSeq_regions _ _ _ replayable, raiseSeq_ram .., raiseSeq_cmds ..,
    by rw [raiseSeq_offered, replayable]⟩

/-! ### Memory (R191) -/

section
variable {s : State} {k : TileKey} (h : SeqAt s k) (a : BitVec 5) (imm : BitVec 16) (n : Nat) (go : TileKey → Seq → Nat → Out)
include h

theorem seqMem_of (aligned : ((s.seq k).reg a + imm.signExtend 64).toNat % n = 0) (inside : ((s.seq k).reg a + imm.signExtend 64).toNat < 65536) :
    seqMem s a imm n go = go k (s.seq k) ((s.seq k).reg a + imm.signExtend 64).toNat := by
  simp only [seqMem, atSeq_of h, aligned, bne_self_eq_false, Bool.false_or, decide_eq_true_eq, if_neg (Nat.not_le.mpr inside)]

theorem seqMem_traps (bad : ((s.seq k).reg a + imm.signExtend 64).toNat % n ≠ 0 ∨ 65536 ≤ ((s.seq k).reg a + imm.signExtend 64).toNat) :
    seqMem s a imm n go = .next (raiseSeq s k causeSeqAddr ((s.seq k).reg a + imm.signExtend 64)) := by
  have : (((s.seq k).reg a + imm.signExtend 64).toNat % n != 0 || decide (65536 ≤ ((s.seq k).reg a + imm.signExtend 64).toNat)) = true := by simpa using bad
  simp only [seqMem, atSeq_of h, this, if_true]
end

theorem ramRead_of {s : State} {k : TileKey} {a n : Nat} (ok : ramBad s k a n = none) (go : Out) : ramRead s k a n go = go := by rw [ramRead, ok]

/-- Settles O3: an access in its place, or the trap of one that is not. -/
theorem seqMemory : Obligations.SeqMemory := by
  unfold Obligations.SeqMemory
  refine ⟨fun d a imm => ⟨decodeSeq_of_encodeSeq rfl rfl, decodeSeq_of_encodeSeq rfl rfl, decodeSeq_of_encodeSeq rfl rfl, decodeSeq_of_encodeSeq rfl rfl⟩,
    fun s k d a imm h => ⟨fun aligned inside ok => ?ld, fun aligned inside ok => ?ldw, fun aligned inside => ?st, fun aligned inside => ?stw, fun i n access bad => ?traps⟩⟩
  case ld =>
    change execSeqLd d a imm s = _
    rw [execSeqLd, seqMem_of h a imm 8 _ aligned inside, ramRead_of ok]
    rfl
  case ldw =>
    change execSeqLdw d a imm s = _
    rw [execSeqLdw, seqMem_of h a imm 4 _ aligned inside, ramRead_of ok]
    rfl
  case st =>
    change ∃ t, execSeqSt d a imm s = .next t ∧ _
    rw [execSeqSt, seqMem_of h a imm 8 _ aligned inside]
    exact ⟨_, rfl, State.setSeq_seq_self .., rfl⟩
  case stw =>
    change ∃ t, execSeqStw d a imm s = .next t ∧ _
    rw [execSeqStw, seqMem_of h a imm 4 _ aligned inside]
    exact ⟨_, rfl, State.setSeq_seq_self .., rfl⟩
  case traps =>
    have raises : exec i s = .next (raiseSeq s k causeSeqAddr ((s.seq k).reg a + imm.signExtend 64)) := by
      obtain e | e | e | e := access <;> cases e
      · exact (show execSeqLd d a imm s = _ from seqMem_traps h a imm 8 _ bad)
      · exact (show execSeqSt d a imm s = _ from seqMem_traps h a imm 8 _ bad)
      · exact (show execSeqLdw d a imm s = _ from seqMem_traps h a imm 4 _ bad)
      · exact (show execSeqStw d a imm s = _ from seqMem_traps h a imm 4 _ bad)
    have stopped := raiseSeq_seq_self s k causeSeqAddr ((s.seq k).reg a + imm.signExtend 64)
    exact ⟨_, raises, raiseSeq_ram .., congrArg (·.s) stopped, congrArg (·.pc) stopped, congrArg (·.stopped) stopped, congrArg (·.cause) stopped⟩

/-! ### Branches and jumps (R192) -/

/-- A target that a branch or jump may have. -/
def SeqTarget (t : Int) : Prop := 0 ≤ t ∧ t < 65536 ∧ t % 4 = 0

section
variable {s : State} {k : TileKey}

theorem seqJump_goes (q : Seq) {t : Int} (ok : SeqTarget t) : seqJump s k q t = .next (s.setSeq k { q with pc := BitVec.ofInt 32 t }) := by
  obtain ⟨low, high, aligned⟩ := ok
  simp only [seqJump, aligned, decide_eq_false (not_lt.mpr low), decide_eq_false (not_le.mpr high)]
  rfl

theorem seqJump_traps (q : Seq) {t : Int} (bad : ¬SeqTarget t) : seqJump s k q t = .next (raiseSeq s k causeSeqIllegal 0) := by
  have : (decide (t < 0) || decide (65536 ≤ t) || t % 4 != 0) = true := by
    rw [SeqTarget] at bad
    simp only [Bool.or_eq_true, decide_eq_true_eq, bne_iff_ne]
    omega
  rw [seqJump, if_pos this]

end

/-- What control transferred to a target answers: the next state, or the trap at the word. -/
def SeqGoes (s : State) (k : TileKey) (o : Out) (r : Seq) (t : Int) : Prop :=
  (SeqTarget t → o = .next (s.setSeq k { r with pc := BitVec.ofInt 32 t }))
  ∧ (¬SeqTarget t → ∃ u, o = .next u ∧ (u.seq k).stopped = true ∧ (u.seq k).cause = 0x20 ∧ (u.seq k).pc = (s.seq k).pc ∧ (u.seq k).s = (s.seq k).s)

section
variable {s : State} {k : TileKey}

/-- An illegal transfer leaves the word's registers and PC. -/
theorem seqIllegal_stops (detail : BitVec 64) : ∃ u, (Host.Outcome.next (raiseSeq s k causeSeqIllegal detail) : Out) = .next u ∧ (u.seq k).stopped = true
    ∧ (u.seq k).cause = 0x20 ∧ (u.seq k).pc = (s.seq k).pc ∧ (u.seq k).s = (s.seq k).s := by
  refine ⟨_, rfl, ?_⟩
  rw [raiseSeq_seq_self]
  exact ⟨rfl, rfl, rfl, rfl⟩

theorem seqJump_spec (q : Seq) (t : Int) : SeqGoes s k (seqJump s k q t) q t :=
  ⟨seqJump_goes q, fun bad => seqJump_traps q bad ▸ seqIllegal_stops 0⟩

variable (h : SeqAt s k) (d a : BitVec 5) (imm : BitVec 16)
include h

theorem seqBranch_of (cond : BitVec 64 → BitVec 64 → Bool) (p : Prop) (means : cond ((s.seq k).reg d) ((s.seq k).reg a) = true ↔ p) :
    (p → SeqGoes s k (seqBranch s d a imm cond) (s.seq k) ((s.seq k).pc.toNat + 4 * imm.toInt)) ∧ (¬p → seqBranch s d a imm cond = seqNext s k (s.seq k)) := by
  rw [seqBranch, atSeq_of h]
  refine ⟨fun taken => ?_, fun not => if_neg (mt means.mp not)⟩
  rw [if_pos (means.mpr taken)]
  exact seqJump_spec _ _

/-- `jal` checks what `j` checks, since a word's PC and four times its offset are aligned. -/
theorem execSeqJal_spec (off : BitVec 26) (aligned : (s.seq k).pc.toNat % 4 = 0) :
    SeqGoes s k (execSeqJal off s) ((s.seq k).put 31 (((s.seq k).pc + 4).setWidth 64)) ((s.seq k).pc.toNat + 4 * off.toInt) := by
  simp only [execSeqJal, atSeq_of h]
  by_cases ok : SeqTarget ((s.seq k).pc.toNat + 4 * off.toInt)
  · obtain ⟨low, high, -⟩ := ok
    refine ⟨fun _ => ?_, fun bad => absurd ⟨low, high, by omega⟩ bad⟩
    rw [decide_eq_false (not_lt.mpr low), decide_eq_false (not_le.mpr high)]
    rfl
  · refine ⟨fun good => absurd good ok, fun _ => ?_⟩
    have : (decide ((s.seq k).pc.toNat + 4 * off.toInt < 0) || decide (65536 ≤ (s.seq k).pc.toNat + 4 * off.toInt)) = true := by
      rw [SeqTarget] at ok
      simp only [Bool.or_eq_true, decide_eq_true_eq]
      omega
    rw [if_pos this]
    exact seqIllegal_stops 0
end

/-- Settles O4: each branch by its condition, each jump by its target. -/
theorem seqControlFlow : Obligations.SeqControlFlow := by
  unfold Obligations.SeqControlFlow
  refine ⟨fun d a b imm off fn => ?words, fun s k d a imm off h => ?runs⟩
  case words =>
    have jr : seqOfOp (rForm 0x18 d a b fn) = some (.seqJr a) := by simp [seqOfOp]
    refine ⟨?_, ?_, ?_, ?_, ?_, ?_, decodeSeq_of_encodeSeq rfl rfl, decodeSeq_of_encodeSeq rfl rfl, fun ⟨hd, hb, hfn⟩ => ?_, fun nonzero => decodeSeq_nonzero jr fun e => nonzero ?_⟩
    case refine_7 =>
      subst hd hb hfn
      exact decodeSeq_of_encodeSeq rfl rfl
    case refine_8 =>
      have e : rForm 0x18 0 a 0 0 = rForm 0x18 d a b fn := Option.some.inj e
      exact ⟨by rw [← rForm_d 0x18 d a b fn, ← e, rForm_d], by rw [← rForm_b 0x18 d a b fn, ← e, rForm_b], by rw [← rForm_fn 0x18 d a b fn, ← e, rForm_fn]⟩
    all_goals exact decodeSeq_of_encodeSeq rfl rfl
  case runs =>
    refine ⟨?_, ?_, ?_, ?_, ?_, ?_, fun aligned => ?_, fun aligned => ?_, ?_⟩
    · exact seqBranch_of h d a imm (fun x y => x == y) _ beq_iff_eq
    · exact seqBranch_of h d a imm (fun x y => x != y) _ bne_iff_ne
    · exact seqBranch_of h d a imm (fun x y => x.slt y) _ decide_eq_true_iff
    · exact seqBranch_of h d a imm (fun x y => !x.slt y) _ (by simp [BitVec.slt])
    · exact seqBranch_of h d a imm (fun x y => x.ult y) _ decide_eq_true_iff
    · exact seqBranch_of h d a imm (fun x y => !x.ult y) _ (by simp [BitVec.ult])
    · change SeqGoes s k (execSeqJ off s) _ _
      rw [execSeqJ, atSeq_of h]
      exact seqJump_spec _ _
    · exact execSeqJal_spec h off aligned
    · change SeqGoes s k (execSeqJr a s) _ _
      rw [execSeqJr, atSeq_of h]
      exact seqJump_spec _ _

end Sys2Proof.Machine
end

section
/-! PROOF. Special registers and command registers of a sequencer (06 R193, R194; 12 R300, R305). -/

namespace Sys2Proof.Machine

/-! ### Special registers -/

section
variable {s : State} {k : TileKey} (h : SeqAt s k)
include h

/-- `sget` of a register of the table. -/
theorem execSeqSget_of (d : BitVec 5) (n : BitVec 16) {v : BitVec 64} (known : sregRead s (s.seq k) n.toNat = some v) :
    execSeqSget d n s = seqNext s k ((s.seq k).put d v) := by
  rw [execSeqSget, atSeq_of h, known]
  rfl

theorem execSeqSget_unknown (d : BitVec 5) (n : BitVec 16) (unknown : sregRead s (s.seq k) n.toNat = none) :
    execSeqSget d n s = .next (raiseSeq s k causeSeqIllegal 0) := by
  rw [execSeqSget, atSeq_of h, unknown]
end

/-- The numbers outside the table of R193. -/
theorem sregRead_none (s : State) (q : Seq) {n : Nat} (out : (9 < n ∧ n < 16) ∨ 23 < n) : sregRead s q n = none := by
  simp only [sregRead, beq_iff_eq, Bool.and_eq_true, decide_eq_true_eq]
  repeat rw [if_neg (by omega)]

/-- ARG0 to ARG7, the registers 16 to 23. -/
theorem sregRead_arg (s : State) (q : Seq) {i : Nat} (arg : i < 8) :
    sregRead s q (16 + i) = some ((pk (s.launch (s.region q.region).launch).packet (0x60 + 4 * i) 4).setWidth 64) := by
  simp only [sregRead, beq_iff_eq, Bool.and_eq_true, decide_eq_true_eq]
  rw [if_neg (by omega), if_neg (by omega), if_neg (by omega), if_neg (by omega), if_neg (by omega), if_neg (by omega), if_neg (by omega), if_neg (by omega), if_neg (by omega), if_neg (by omega),
    if_pos (by omega), Nat.add_sub_cancel_left]

theorem widReg_eq (p : Packet) : widReg p = if (pk p 0x13 1 : BitVec 8) = 0 then 0 else pk p 0x40 8 := by
  have : (pk p 0x13 1 : BitVec 8).toNat = 0 ↔ (pk p 0x13 1 : BitVec 8) = 0 := by bv_omega
  simp only [widReg, nseed, beq_iff_eq, this]

/-- What an element of a region has closed (R300, R305). -/
theorem mem_closedRounds (s : State) (r x : Nat) : x ∈ closedRounds s r ↔ ∃ i t, (i, t) ∈ s.tiles ∧ t.region = some r
    ∧ ((t.kind = .pt ∧ x = (s.port i).cr - 1) ∨ (t.kind = .mx ∧ 0x02 ∈ portsFed t ∧ x = t.mx.rounds)
      ∨ (t.kind = .sp ∧ ((∃ n y, (n, y) ∈ t.slots ∧ y.word.extractLsb' 56 8 = 0xA2) ∨ 0x21 ∈ portsFed t) ∧ x = t.own.closed)) := by
  have each (i : TileKey) (t : Tile) : x ∈ (match t.kind with
      | .pt => [(s.port i).cr - 1]
      | .mx => if portFed t 0x02 then [t.mx.rounds] else []
      | .sp => if t.slots.any (fun x => Word.field x.2.word 56 8 == (0xA2 : BitVec 8)) || portFed t 0x21 then [t.own.closed] else []
      | _ => []) ↔ ((t.kind = .pt ∧ x = (s.port i).cr - 1) ∨ (t.kind = .mx ∧ 0x02 ∈ portsFed t ∧ x = t.mx.rounds)
      ∨ (t.kind = .sp ∧ ((∃ n y, (n, y) ∈ t.slots ∧ y.word.extractLsb' 56 8 = 0xA2) ∨ 0x21 ∈ portsFed t) ∧ x = t.own.closed)) := by
    cases t.kind with
    | sp =>
      have feeds : (t.slots.any (fun x => Word.field x.2.word 56 8 == (0xA2 : BitVec 8)) || portFed t 0x21) = true
          ↔ (∃ n y, (n, y) ∈ t.slots ∧ y.word.extractLsb' 56 8 = 0xA2) ∨ 0x21 ∈ portsFed t := by
        simp [portFed, Word.field]
      simp only [reduceCtorEq, false_and, true_and, false_or]
      rw [← feeds, List.mem_ite_nil_right, List.mem_singleton]
    | _ => simp [portFed]
  constructor
  · intro mem
    obtain ⟨⟨i, t⟩, tile, closed⟩ := List.mem_flatMap.mp mem
    obtain ⟨mem, own⟩ := List.mem_filter.mp tile
    exact ⟨i, t, mem, by simpa using own, (each i t).mp closed⟩
  · rintro ⟨i, t, mem, own, closed⟩
    exact List.mem_flatMap.mpr ⟨(i, t), List.mem_filter.mpr ⟨mem, by simpa using own⟩, (each i t).mpr closed⟩

theorem tempoReg_eq_min (s : State) (r : Nat) : tempoReg s r = (closedRounds s r).min?.getD 0 := by
  unfold tempoReg
  cases closedRounds s r <;> rfl

/-- TEMPO is the least of the rounds closed. -/
theorem tempoReg_least {s : State} {r x : Nat} (mem : x ∈ closedRounds s r) (least : ∀ y ∈ closedRounds s r, x ≤ y) : tempoReg s r = x := by
  rw [tempoReg_eq_min, List.min?_eq_some_iff.mpr ⟨mem, least⟩]
  rfl

theorem tempoReg_none {s : State} {r : Nat} (none : ∀ x, x ∉ closedRounds s r) : tempoReg s r = 0 := by
  rw [tempoReg_eq_min, List.eq_nil_iff_forall_not_mem.mpr none]
  rfl

/-- A value without reserved bits of EVMASK. -/
theorem lt_two_iff (x : BitVec 64) : x < 2 ↔ x = 0 ∨ x = 1 := by bv_omega

/-- Settles O5: the table entry by entry, and the trap of what it does not have. -/
theorem seqSpecialRegisters : Obligations.SeqSpecialRegisters := by
  unfold Obligations.SeqSpecialRegisters
  intro s k d a n h
  have get (n : BitVec 16) {v : BitVec 64} (known : sregRead s (s.seq k) n.toNat = some v) : exec (.seqSget d n) s = seqNext s k ((s.seq k).put d v) :=
    execSeqSget_of h d n known
  refine ⟨fun x closes least => ?least, fun none => ?none, ?wid, get 1 rfl, get 2 rfl, get 3 rfl, get 4 rfl, get 5 rfl, get 6 rfl, get 7 rfl, get 8 rfl, get 9 rfl,
    fun i arg => ?arg, fun zero => ?cause, fun known => ?evmask, fun out => ?unknown, fun notCause notMask => ?illegal⟩
  case least =>
    have := tempoReg_least ((mem_closedRounds ..).mpr closes) fun y mem => least y ((mem_closedRounds ..).mp mem)
    exact this ▸ get 7 rfl
  case none =>
    have := tempoReg_none fun x mem => none x ((mem_closedRounds ..).mp mem)
    have step := get 7 rfl
    rwa [this] at step
  case wid =>
    rw [get 0 rfl, widReg_eq]
  case arg =>
    refine get _ ?_
    rw [BitVec.toNat_ofNat, Nat.mod_eq_of_lt (by omega)]
    exact sregRead_arg _ _ arg
  case cause =>
    change execSeqSset a 5 s = _
    simp only [execSeqSset, atSeq_of h, zero]
    rfl
  case evmask =>
    change execSeqSset a 9 s = _
    have : (s.seq k).reg a < 2 := (lt_two_iff _).mpr known
    simp only [execSeqSset, atSeq_of h, this]
    rfl
  case unknown =>
    have raises : exec (.seqSget d n) s = .next (raiseSeq s k causeSeqIllegal 0) := execSeqSget_unknown h d n (sregRead_none _ _ out)
    refine ⟨_, raises, ?_⟩
    rw [raiseSeq_seq_self]
    exact ⟨rfl, rfl, rfl⟩
  case illegal =>
    have raises : execSeqSset a n s = .next (raiseSeq s k causeSeqIllegal 0) := by
      rw [← lt_two_iff] at notMask
      simp only [execSeqSset, atSeq_of h, Bool.and_eq_true, beq_iff_eq, decide_eq_true_eq, if_neg notCause, if_neg notMask]
    refine ⟨_, raises, ?_⟩
    rw [raiseSeq_seq_self]
    exact ⟨rfl, rfl, rfl⟩

/-! ### Command registers -/

/-- A value put into bits [pos + n - 1 : pos], bit by bit. -/
theorem getLsbD_cregPut (c : Word128) (pos n : Nat) (v : BitVec 64) {i : Nat} (small : i < 128) :
    (cregPut c pos n v).getLsbD i = if pos ≤ i ∧ i < pos + n then v.getLsbD (i - pos) else c.getLsbD i := by
  have mask : (BitVec.ofNat 128 (2 ^ n - 1) <<< pos).getLsbD i = decide (pos ≤ i ∧ i < pos + n) := by
    rw [Bool.eq_iff_iff]
    simp only [BitVec.getLsbD_shiftLeft, BitVec.getLsbD_ofNat, Nat.testBit_two_pow_sub_one, Bool.and_eq_true, Bool.not_eq_true', decide_eq_true_eq, decide_eq_false_iff_not]
    omega
  have value : ((v.setWidth 128) <<< pos).getLsbD i = (decide (pos ≤ i) && v.getLsbD (i - pos)) := by
    rw [Bool.eq_iff_iff]
    simp [small]
  simp only [cregPut, BitVec.getLsbD_or, BitVec.getLsbD_and, BitVec.getLsbD_not, mask, value, small]
  by_cases inside : pos ≤ i ∧ i < pos + n
  · simp [inside]
  · simp [inside]

/-- A field read is the field's bits, extended. -/
theorem cregGet_eq (c : Word128) (pos m : Nat) (sx : Bool) :
    cregGet c pos (m + 1) sx = if sx then (c.extractLsb' pos (m + 1)).signExtend 64 else (c.extractLsb' pos (m + 1)).setWidth 64 := by
  have field : (c >>> pos).toNat % 2 ^ (m + 1) = (c.extractLsb' pos (m + 1)).toNat := by rw [BitVec.extractLsb'_toNat, BitVec.toNat_ushiftRight]
  rw [cregGet, field, Nat.add_sub_cancel]
  generalize c.extractLsb' pos (m + 1) = x
  have neg : 2 ^ m ≤ x.toNat ↔ ¬2 * x.toNat < 2 ^ (m + 1) := by
    rw [Nat.pow_succ]
    omega
  have zero : BitVec.ofNat 64 x.toNat = x.setWidth 64 := BitVec.ofNat_toNat 64 x
  cases sx with
  | false => exact zero
  | true =>
    simp only [Bool.true_and, decide_eq_true_eq, if_true, BitVec.signExtend, BitVec.toInt_eq_toNat_cond, neg]
    by_cases low : 2 * x.toNat < 2 ^ (m + 1)
    · simp [low]
    · simp [low]

/-- A field read, bit by bit. -/
theorem getLsbD_cregGet (c : Word128) (pos m : Nat) (sx : Bool) {i : Nat} (small : i < 64) :
    (cregGet c pos (m + 1) sx).getLsbD i = if i ≤ m then c.getLsbD (pos + i) else sx && c.getLsbD (pos + m) := by
  rw [cregGet_eq]
  cases sx with
  | false => simp [small]
  | true =>
    simp only [if_true, BitVec.getLsbD_signExtend, BitVec.msb_eq_getLsbD_last, BitVec.getLsbD_extractLsb', small, Nat.lt_succ_iff, decide_true, Bool.true_and, Nat.add_sub_cancel, le_refl]
    by_cases low : i ≤ m
    · simp [low]
    · simp [low]

section
variable (q : Seq) (n : BitVec 3) (v : Word128)

@[simp] theorem Seq.creg_put : Seq.creg { q with c := q.c.put n.toNat v } n = v := Map.getD_put_self ..

theorem Seq.reg_put {n : BitVec 5} (v : BitVec 64) (ne : n ≠ 0) : (q.put n v).reg n = v := by
  have : (n == 0) = false := by simpa using ne
  simp only [Seq.reg, Seq.put, this]
  exact Map.getD_put_self ..

theorem Seq.put_c (n : BitVec 5) (v : BitVec 64) : (q.put n v).c = q.c := by
  unfold Seq.put
  split <;> rfl

theorem Seq.put_pc (n : BitVec 5) (v : BitVec 64) : (q.put n v).pc = q.pc := by
  unfold Seq.put
  split <;> rfl
end

section
variable {s : State} {k : TileKey} (h : SeqAt s k) (c : BitVec 3) (pos : BitVec 7) (wm1 : BitVec 6) (a : BitVec 5)
include h

theorem execSeqCset_of {chk : Bool} (fits : chk = false ∨ ((s.seq k).reg a).toNat < 2 ^ (wm1.toNat + 1)) : execSeqCset c pos wm1 a chk s =
    seqNext s k { s.seq k with c := (s.seq k).c.put c.toNat (cregPut ((s.seq k).creg c) pos.toNat (wm1.toNat + 1) ((s.seq k).reg a)) } := by
  have : ¬(chk && decide (2 ^ (wm1.toNat + 1) ≤ ((s.seq k).reg a).toNat)) = true := by
    rw [Bool.and_eq_true, decide_eq_true_eq]
    rintro ⟨rfl, big⟩
    obtain off | fits := fits
    · cases off
    · omega
  simp only [execSeqCset, atSeq_of h, if_neg this]
  rfl

theorem execSeqCget_of (sx : Bool) : execSeqCget c pos wm1 a sx s = seqNext s k ((s.seq k).put a (cregGet ((s.seq k).creg c) pos.toNat (wm1.toNat + 1) sx)) := seqAlu_of h _

theorem execSeqCclr_of : execSeqCclr c pos wm1 s =
    seqNext s k { s.seq k with c := (s.seq k).c.put c.toNat (cregPut ((s.seq k).creg c) pos.toNat (wm1.toNat + 1) 0) } := seqAlu_of h _

theorem execSeqCclrAll_of : execSeqCclrAll c s = seqNext s k { s.seq k with c := (s.seq k).c.put c.toNat 0 } := seqAlu_of h _

theorem execSeqCset_traps (big : 2 ^ (wm1.toNat + 1) ≤ ((s.seq k).reg a).toNat) :
    execSeqCset c pos wm1 a true s = .next (raiseSeq s k causeSeqRange ((s.seq k).reg a)) := by
  simp only [execSeqCset, atSeq_of h, decide_eq_true big, Bool.and_self, if_true]
end

/-- A command register after a field has been put into it. -/
theorem getLsbD_creg_put (q : Seq) (c : BitVec 3) (pos m : Nat) (v : BitVec 64) {i : Nat} (small : i < 128) :
    (Seq.creg { q with c := q.c.put c.toNat (cregPut (q.creg c) pos (m + 1) v) } c).getLsbD i
      = if pos ≤ i ∧ i ≤ pos + m then v.getLsbD (i - pos) else (q.creg c).getLsbD i := by
  rw [Seq.creg_put, getLsbD_cregPut _ _ _ _ small]
  simp only [← Nat.add_assoc, Nat.lt_succ_iff]

/-- Settles O6: each field instruction by the bits it moves. -/
theorem seqCommandFields : Obligations.SeqCommandFields := by
  unfold Obligations.SeqCommandFields
  intro s k c pos wm1 a flag h
  refine ⟨fun fits => ⟨_, execSeqCset_of h c pos wm1 a fits, ?set⟩, fun chk big => ?traps, ⟨_, execSeqCget_of h c pos wm1 a flag, ?get⟩, ⟨_, execSeqCclr_of h c pos wm1, ?clr⟩, ⟨_, execSeqCclrAll_of h c, ?all⟩⟩
  case traps =>
    subst chk
    refine ⟨_, execSeqCset_traps h c pos wm1 a big, ?_⟩
    rw [raiseSeq_seq_self]
    exact ⟨rfl, rfl, rfl, rfl⟩
  all_goals rw [State.setSeq_seq_self]
  case set => exact ⟨rfl, rfl, fun i small => getLsbD_creg_put _ _ _ _ _ small⟩
  case clr =>
    refine ⟨rfl, rfl, fun i small => (getLsbD_creg_put _ _ _ _ _ small).trans ?_⟩
    simp only [BitVec.ofNat_eq_ofNat, BitVec.getLsbD_zero]
  case all => exact ⟨rfl, rfl, Map.getD_put_self ..⟩
  case get =>
    refine ⟨congrArg (· + 4) (Seq.put_pc ..), Seq.put_c .., fun ne i small => ?_⟩
    exact (congrArg (·.getLsbD i) (Seq.reg_put _ _ ne)).trans (getLsbD_cregGet _ _ _ _ small)

end Sys2Proof.Machine
end

section
/-! PROOF. The FIFOs of a sequencer (06 R195). -/

namespace Sys2Proof.Machine

/-- The header lane stands above lane 0 (R41). -/
theorem field_lanes (p : Payload) : Word.field p 0 64 = Word.lane p 1 ++ Word.lane p 0 :=
  (BitVec.extractLsb'_append_extractLsb'_eq_extractLsb' (x := p) (start₁ := 0) (len₁ := 32) (len₂ := 32) (start₂ := 32) rfl).symm

/-- An element that qualifies is the first of a list that it heads. -/
theorem takeFirst_cons {α : Type} {p : α → Bool} {x : α} (hit : p x = true) (xs : List α) : takeFirst p (x :: xs) = some (x, xs) := if_pos hit

/-! ### A word at a FIFO -/

section
variable {s : State} {k : TileKey} (h : SeqAt s k) (n : BitVec 3)
include h

theorem execSeqTokGive_enters (a : BitVec 5) (room : ((s.seq k).fifo n.toNat).length < 16) (first : (s.seq k).offers.getD n.toNat [] = []) :
    execSeqTokGive a n s = seqNext s k { s.seq k with
      q := (s.seq k).q.put n.toNat ((s.seq k).fifo n.toNat ++ [{ tt := .control, pay := ((s.seq k).reg a).setWidth 512, hb := (s.seq k).hb }]) } := by
  simp only [execSeqTokGive, atSeq_of h, first, room, decide_true, List.isEmpty_nil, Bool.and_self, if_true]
  rfl

/-- With no room the word stays where it stands, and the FIFO as it was. -/
theorem execSeqTokGive_held (a : BitVec 5) (full : 16 ≤ ((s.seq k).fifo n.toNat).length) :
    ∃ t, execSeqTokGive a n s = .next t ∧ (t.seq k).q = (s.seq k).q ∧ (t.seq k).pc = (s.seq k).pc := by
  simp only [execSeqTokGive, atSeq_of h, decide_eq_false (Nat.not_lt.mpr full), Bool.false_and, Bool.false_eq_true, if_false]
  split
  · exact ⟨_, rfl, rfl, rfl⟩
  · refine ⟨_, rfl, ?_⟩
    rw [State.setSeq_seq_self]
    exact ⟨rfl, rfl⟩

theorem execSeqTokTake_takes (d : BitVec 5) (head : Bool) {x : Tok} {xs : List Tok} (full : (s.seq k).fifo n.toNat = x :: xs) :
    execSeqTokTake d head n s = seqNext s k (({ (s.seq k).learn s x with q := (s.seq k).q.put n.toNat xs }).put d
      ((if head then x.header else Word.lane x.pay 1) ++ Word.lane x.pay 0)) := by
  simp only [execSeqTokTake, atSeq_of h, full, field_lanes]
  cases head <;> rfl

theorem execSeqTokTake_waits (d : BitVec 5) (head : Bool) (empty : (s.seq k).fifo n.toNat = []) : execSeqTokTake d head n s = .next s := by
  simp only [execSeqTokTake, atSeq_of h, empty]

theorem execSeqTokPoll_of (d : BitVec 5) : execSeqTokPoll d n s = seqNext s k ((s.seq k).put d (BitVec.ofNat 64 ((s.seq k).fifo n.toNat).length)) := seqAlu_of h _
end

/-! ### The FIFO takes what is offered -/

/-- A sequencer after its FIFO has taken a token. -/
def Seq.took (q : Seq) (n : Nat) (t : Tok) (rest : List Offer) : Seq := { q with q := q.q.put n (q.fifo n ++ [t]), offers := q.offers.put n rest }

theorem Seq.took_fifo (q : Seq) (n : Nat) (t : Tok) (rest : List Offer) : (q.took n t rest).fifo n = q.fifo n ++ [t] := Map.getD_put_self ..
theorem Seq.took_offers (q : Seq) (n : Nat) (t : Tok) (rest : List Offer) : (q.took n t rest).offers.getD n [] = rest := Map.getD_put_self ..

/-- A completion token that is offered changes no FIFO of a sequencer that is not saved. -/
theorem giveCompletion_fifo (s : State) (l : Nat) (st : Station) (j k : TileKey) (m n : Nat) (x : Tok) :
    ((giveCompletion s l st j m x).seq k).fifo n = (s.seq k).fifo n := by
  unfold giveCompletion setSeqIn
  cases saved : s.saved.get? l with
  | some y =>
    dsimp only
    split <;> rfl
  | none =>
    have awake : s.saved.has l = false := by rw [Map.has, saved]; rfl
    simp only [awake, Bool.false_and, Bool.false_eq_true, if_false, seqIn_of_not_saved saved]
    by_cases e : k = j
    · subst e
      rw [State.setSeq_seq_self]
      rfl
    · rw [State.setSeq_seq_ne _ _ _ _ e]

theorem offerNext_fifo (st : Station) (k : TileKey) (n c : Nat) (s : State) : ((offerNext st c s).seq k).fifo n = (s.seq k).fifo n := by
  induction c generalizing s with
  | zero => rfl
  | succ c ih =>
    rw [offerNext]
    split
    case h_2 => rfl
    case h_1 held _ =>
      have given (l j m x) : ((giveCompletion { s with held := held } l st j m x).seq k).fifo n = (s.seq k).fifo n := giveCompletion_fifo ..
      dsimp only
      split
      · exact given ..
      · exact (ih _).trans (given ..)

section
variable {s : State} {k : TileKey} {n : Nat} {rest : List Offer} (hf : s.focus = .fifo k n) (hk : s.seqs.has k = true)
  (hr : s.regions.has (s.seq k).region = true) (room : ((s.seq k).fifo n).length < 16)
include hf hk hr room

theorem execFifoTake_fabric {p : Parcel} (first : (s.seq k).offers.getD n [] = .fabric :: rest) (held : (s.tile k).ports.get? (0x40 + n) = some p) :
    ∃ t, execFifoTake s = .next t ∧ (t.seq k).fifo n = (s.seq k).fifo n ++ [p.tok] ∧ (t.tile k).ports.has (0x40 + n) = false ∧ (t.seq k).offers.getD n [] = rest := by
  simp only [execFifoTake, hf, hk, hr, first, held, takeFirst_cons, Offer.isGive, decide_eq_false (Nat.not_le.mpr room), Bool.not_true, Bool.false_and, Bool.not_false, Bool.or_self, Bool.false_eq_true, if_false]
  refine ⟨_, rfl, ?_⟩
  rw [State.setSeq_seq_self]
  refine ⟨Seq.took_fifo .., ?_, Seq.took_offers (s.seq k) n p.tok rest⟩
  rw [State.setSeq_tile, State.setTile_tile_self, Map.has, Map.get?_del_self]
  rfl

theorem execFifoTake_completion {st : Station} {x : Tok} (first : (s.seq k).offers.getD n [] = .completion st x :: rest) :
    ∃ t, execFifoTake s = .next t ∧ (t.seq k).fifo n = (s.seq k).fifo n ++ [x] := by
  simp only [execFifoTake, hf, hk, hr, first, takeFirst_cons, Offer.isGive, decide_eq_false (Nat.not_le.mpr room), Bool.not_true, Bool.false_and, Bool.not_false, Bool.or_self, Bool.false_eq_true, if_false]
  refine ⟨_, rfl, ?_⟩
  rw [offerNext_fifo, State.setSeq_seq_self]
  exact Seq.took_fifo ..

theorem execFifoTake_give {x : Tok} (goes : (s.seq k).stopped = false) (free : s.regionStops (s.seq k).region = false) (first : (s.seq k).offers.getD n [] = .give x :: rest) :
    ∃ t, execFifoTake s = .next t ∧ (t.seq k).fifo n = (s.seq k).fifo n ++ [x] ∧ (t.seq k).pc = (s.seq k).pc + 4 ∧ (t.seq k).offers.getD n [] = rest := by
  simp only [execFifoTake, hf, hk, hr, first, goes, free, takeFirst_cons, Offer.isGive, decide_eq_false (Nat.not_le.mpr room), Bool.not_true, Bool.and_false, Bool.not_false, Bool.or_self, Bool.false_eq_true, if_false]
  refine ⟨_, rfl, ?_⟩
  rw [State.setSeq_seq_self, State.setSeq_seq_self]
  exact ⟨Seq.took_fifo (s.seq k) n x rest, rfl, Seq.took_offers (s.seq k) n x rest⟩
end

/-- Settles O33: each word by its FIFO, and what the FIFO takes by what has been offered longest. -/
theorem seqFifos : Obligations.SeqFifos := by
  unfold Obligations.SeqFifos
  refine ⟨fun s k d a head n h => ⟨fun room first => ?_, execSeqTokGive_held h n a, fun x xs => execSeqTokTake_takes h n d head, execSeqTokTake_waits h n d head, execSeqTokPoll_of h n d⟩,
    fun s k n rest hf hk hr room => ⟨fun p => execFifoTake_fabric hf hk hr room, fun st x => execFifoTake_completion hf hk hr room, fun x => execFifoTake_give hf hk hr room⟩⟩
  refine ⟨_, execSeqTokGive_enters h n a room first, ?_⟩
  rw [State.setSeq_seq_self]
  exact ⟨Map.getD_put_self .., rfl, rfl⟩

end Sys2Proof.Machine
end

section
/-! PROOF. Configurations, seeds, phases, tail launches, events, fences and ends of a sequencer (06 R196 to R202; 01 R35). -/

namespace Sys2Proof.Machine

/-! ### Configurations, seeds and phases (R196 to R198) -/

theorem seedsWait_iff (s : State) (l : Nat) : seedsWait s l = true ↔ ∃ i x, (i, x) ∈ s.regions ∧ x.launch = l ∧ x.seeds ≠ [] := by
  simp [seedsWait]

/-- The slot that a seed of a register names. -/
def seedSlot (s : State) (k : TileKey) (v : BitVec 64) : Slot :=
  s.slot (regionTile (s.region (s.seq k).region) (Word.field v 0 11 : BitVec 11).toNat) (Word.field v 11 5 : BitVec 5).toNat

/-- What a target must satisfy to take a seed (R197, R239). -/
def SeedAdmits (s : State) (r rel : Nat) (n : BitVec 5) (p : Pos) (v : BitVec 64) : Prop :=
  rel ∈ regionRels (s.region r) ∧ (s.tile (regionTile (s.region r) rel)).slots.has n.toNat = true ∧ wordEnables (s.slot (regionTile (s.region r) rel) n.toNat).word p = true
    ∧ latchFed (s.tile (regionTile (s.region r) rel)) p n = false ∧ entryAt s r rel n.toNat p = false ∧ (Word.field v 18 16 : Tag).toNat ≤ 0xFF ∧ Word.field v 34 30 = (0 : BitVec 30)

theorem seedAdmits_iff (s : State) (r rel : Nat) (n : BitVec 5) (p : Pos) (v : BitVec 64) : SeedAdmits s r rel n p v ↔
    (!(regionRels (s.region r)).contains rel || !(s.tile (regionTile (s.region r) rel)).slots.has n.toNat || !wordEnables (s.slot (regionTile (s.region r) rel) n.toNat).word p
      || latchFed (s.tile (regionTile (s.region r) rel)) p n || entryAt s r rel n.toNat p || 0xFF < (Word.field v 18 16 : Tag) || Word.field v 34 30 != (0 : BitVec 30)) = false := by
  have low : (Word.field v 18 16 : Tag).toNat ≤ 0xFF ↔ ¬0xFF < (Word.field v 18 16 : Tag) := by bv_omega
  simp only [SeedAdmits, low, Bool.or_eq_false_iff, Bool.not_eq_false', List.contains_eq_mem, decide_eq_true_eq, decide_eq_false_iff_not, bne_eq_false_iff_eq, and_assoc]

/-- A seed's token in its latch: nothing but the latch takes part in its delivery. -/
theorem deliver_seed (s : State) (k : TileKey) (p : Pos) (n : BitVec 5) {t : Tok} (data : t.tt.isMarker = false) (plain : t.vc = 0) :
    ((deliver s k (.latch p n) { tok := t }).slot k n.toNat).at_ p = some t := by
  have sent : deliver s k (.latch p n) { tok := t } = s.setSlot k n.toNat ((s.slot k n.toNat).arrive p { t with vc := 0 }) := rfl
  have same : { t with vc := 0 } = t := by
    cases t
    cases plain
    rfl
  rw [sent, same, State.setSlot_slot_self, Slot.at_arrive_self _ fun _ => data]

section
variable {s : State} {k : TileKey} (h : SeqAt s k)
include h

/-- A sequencer that runs has a region. -/
theorem SeqAt.region : s.regions.has (s.seq k).region = true := by
  obtain ⟨-, -, runs, -, -⟩ := h
  simp only [seqRuns, Bool.and_eq_true] at runs
  exact runs.2

section
variable (a : BitVec 5) {blk : Block} (known : blockOf s (s.seq k).region (Word.field ((s.seq k).reg a) 0 12).toNat = some blk) (own : blk.region = (s.region (s.seq k).region).index)
include known own

theorem execSeqCfgLoad_names (free : (s.region (s.seq k).region).cfgNext = none)
    (idle : ¬((s.region (s.seq k).region).loading.isSome = true ∧ (s.region (s.seq k).region).cfgLoad = true)) :
    execSeqCfgLoad a s = .next ((s.setSeq k (s.seq k).step).setRegion (s.seq k).region { s.region (s.seq k).region with
      cfgNext := some (Word.field ((s.seq k).reg a) 0 12).toNat, due := (s.region (s.seq k).region).due || (s.region (s.seq k).region).quiet }) := by
  rw [← Bool.and_eq_true] at idle
  simp only [execSeqCfgLoad, atSeq_of h, known, own, free, bne_self_eq_false, Bool.false_eq_true, if_false, Option.isSome_none, Bool.false_or, if_neg idle]

theorem execSeqCfgLoad_waits (busy : (s.region (s.seq k).region).cfgNext.isSome = true
    ∨ ((s.region (s.seq k).region).loading.isSome = true ∧ (s.region (s.seq k).region).cfgLoad = true)) : execSeqCfgLoad a s = .next s := by
  rw [← Bool.and_eq_true, ← Bool.or_eq_true] at busy
  simp only [execSeqCfgLoad, atSeq_of h, known, own, bne_self_eq_false, Bool.false_eq_true, if_false, busy, if_true]
end

theorem execSeqCfgLoad_traps (a : BitVec 5) (not : blockOf s (s.seq k).region (Word.field ((s.seq k).reg a) 0 12).toNat = none
    ∨ ∃ blk, blockOf s (s.seq k).region (Word.field ((s.seq k).reg a) 0 12).toNat = some blk ∧ blk.region ≠ (s.region (s.seq k).region).index) :
    SeqTraps (.seqCfgLoad a) s k 0x22 ((s.seq k).reg a) := by
  refine seqTraps_of rfl ?_
  change execSeqCfgLoad a s = _
  obtain unknown | ⟨blk, known, other⟩ := not
  · simp only [execSeqCfgLoad, atSeq_of h, unknown]
  · simp only [execSeqCfgLoad, atSeq_of h, known, bne_iff_ne, ne_eq, other, not_false_eq_true, if_true]

theorem execSeqCfgWait_reports (d : BitVec 5) (free : (s.region (s.seq k).region).cfgNext = none) (idle : (s.region (s.seq k).region).loading = none) :
    execSeqCfgWait d s = seqNext s k ((s.seq k).put d (s.region (s.seq k).region).report) := by
  simp only [execSeqCfgWait, atSeq_of h, free, idle]
  rfl

theorem execSeqCfgWait_waits (d : BitVec 5) (busy : (s.region (s.seq k).region).cfgNext.isSome = true ∨ (s.region (s.seq k).region).loading.isSome = true) :
    execSeqCfgWait d s = .next s := by
  rw [← Bool.or_eq_true] at busy
  simp only [execSeqCfgWait, atSeq_of h, busy, if_true]

theorem execSeqSeed_waits (d a : BitVec 5) (busy : (s.region (s.seq k).region).loading.isSome = true ∨ seedsWait s (s.region (s.seq k).region).launch = true) :
    execSeqSeed d a s = .next s := by
  rw [← Bool.or_eq_true] at busy
  simp only [execSeqSeed, atSeq_of h, busy, if_true]

section
variable (d a : BitVec 5) (idle : (s.region (s.seq k).region).loading = none) (free : seedsWait s (s.region (s.seq k).region).launch = false)
include idle free

theorem execSeqSeed_noPos (none : Pos.ofCode (Word.field ((s.seq k).reg d) 16 2) = none) : SeqTraps (.seqSeed d a) s k 0x23 ((s.seq k).reg d) := by
  refine seqTraps_of rfl ?_
  change execSeqSeed d a s = _
  simp only [execSeqSeed, atSeq_of h, idle, free, none, Option.isSome_none, Bool.or_self, Bool.false_eq_true, if_false]

variable {p : Pos} (at_ : Pos.ofCode (Word.field ((s.seq k).reg d) 16 2) = some p)
include at_

theorem execSeqSeed_refused (no : ¬SeedAdmits s (s.seq k).region (Word.field ((s.seq k).reg d) 0 11 : BitVec 11).toNat (Word.field ((s.seq k).reg d) 11 5) p ((s.seq k).reg d)) :
    SeqTraps (.seqSeed d a) s k 0x23 ((s.seq k).reg d) := by
  refine seqTraps_of rfl ?_
  change execSeqSeed d a s = _
  rw [seedAdmits_iff, Bool.not_eq_false] at no
  simp only [execSeqSeed, atSeq_of h, idle, free, at_, Option.isSome_none, Bool.or_self, Bool.false_eq_true, if_false, no, if_true]

variable (admits : SeedAdmits s (s.seq k).region (Word.field ((s.seq k).reg d) 0 11 : BitVec 11).toNat (Word.field ((s.seq k).reg d) 11 5) p ((s.seq k).reg d))
include admits

theorem execSeqSeed_full (full : (seedSlot s k ((s.seq k).reg d)).at_ p ≠ none) : execSeqSeed d a s = .next s := by
  rw [seedAdmits_iff] at admits
  have held : (Slot.at_ (seedSlot s k ((s.seq k).reg d)) p).isSome = true := Option.isSome_iff_ne_none.mpr full
  rw [seedSlot] at held
  simp only [execSeqSeed, atSeq_of h, idle, free, at_, admits, held, Option.isSome_none, Bool.or_self, Bool.false_eq_true, if_false, if_true]

theorem execSeqSeed_takes (empty : (seedSlot s k ((s.seq k).reg d)).at_ p = none) (low : 0 ≤ (s.region (s.seq k).region).census)
    (high : (s.region (s.seq k).region).census < 2147483647) : execSeqSeed d a s =
      .next (deliver (censusAdd (s.setSeq k (s.seq k).step) (s.seq k).region 1) (regionTile (s.region (s.seq k).region) (Word.field ((s.seq k).reg d) 0 11 : BitVec 11).toNat)
        (.latch p (Word.field ((s.seq k).reg d) 11 5)) { tok := { tag := Word.field ((s.seq k).reg d) 18 16, pay := ((s.seq k).reg a).setWidth 512, hb := (s.seq k).hb } }) := by
  rw [seedAdmits_iff] at admits
  rw [seedSlot] at empty
  have counts : censusTrap (s.region (s.seq k).region).census 1 = none := by
    rw [censusTrap, if_neg (by omega), if_neg (by omega)]
  simp only [execSeqSeed, atSeq_of h, idle, free, at_, admits, empty, counts, Option.isSome_none, Bool.or_self, Bool.false_eq_true, if_false]

end

theorem execSeqCensusWait_gives (d : BitVec 5) (passed : (s.seq k).seen < (s.region (s.seq k).region).phase) : execSeqCensusWait d s =
    seqNext s k (({ s.seq k with seen := (s.region (s.seq k).region).phase }).put d ((s.region (s.seq k).region).phase.setWidth 64)) := by
  simp only [execSeqCensusWait, atSeq_of h, passed, if_true]
  rfl

theorem execSeqCensusWait_waits (d : BitVec 5) (same : (s.region (s.seq k).region).phase ≤ (s.seq k).seen) : execSeqCensusWait d s = .next s := by
  simp only [execSeqCensusWait, atSeq_of h, if_neg (BitVec.not_lt.mpr same)]
end

/-- Settles O34: each word by what the region holds. -/
theorem seqConfiguration : Obligations.SeqConfiguration := by
  unfold Obligations.SeqConfiguration
  intro s k d a h
  refine ⟨fun blk known own free idle => ⟨_, execSeqCfgLoad_names h a known own free idle, ?_⟩, fun blk => execSeqCfgLoad_waits h a, execSeqCfgLoad_traps h a,
    execSeqCfgWait_reports h d, execSeqCfgWait_waits h d, execSeqSeed_waits h d a, fun idle free p at_ =>
      ⟨fun admits empty low high => ⟨_, execSeqSeed_takes h d a idle free at_ admits empty low high, ?_⟩, execSeqSeed_full h d a idle free at_, execSeqSeed_refused h d a idle free at_⟩,
    seedsWait_iff _ _, execSeqSeed_noPos h d a, execSeqCensusWait_gives h d, execSeqCensusWait_waits h d⟩
  · rw [State.setRegion_region_self]
    exact ⟨State.setSeq_seq_self .., rfl, rfl, rfl⟩
  · refine ⟨?_, ?_, deliver_seed _ _ _ _ rfl rfl⟩
    · exact State.setSeq_seq_self ..
    · exact censusAdd_census ..

/-! ### Tail launches, events, fences and ends (R199 to R202; R35) -/

/-- Whether a tail launch may be named (R199). -/
def MayTail (s : State) (k : TileKey) (x : Nat) : Prop := (s.launch (s.region (s.seq k).region).launch).tailed = false ∧ x % 8 = 0 ∧ x + 128 ≤ 65536

theorem mayTail_iff (s : State) (k : TileKey) (x : Nat) : MayTail s k x ↔
    ((s.launch (s.region (s.seq k).region).launch).tailed || x % 8 != 0 || decide (65536 < x + 128)) = false := by
  simp only [MayTail, Bool.or_eq_false_iff, bne_eq_false_iff_eq, decide_eq_false_iff_not, Nat.not_lt, and_assoc]

section
variable {s : State} {k : TileKey} (h : SeqAt s k)
include h

section
variable (a : BitVec 5)

theorem execSeqLaunchTail_copies (may : MayTail s k ((s.seq k).reg a).toNat) (ok : ramBad s k ((s.seq k).reg a).toNat 128 = none) : execSeqLaunchTail a s =
    .next ((s.setSeq k (s.seq k).step).setLaunch (s.region (s.seq k).region).launch { s.launch (s.region (s.seq k).region).launch with
      tailed := true, tail := some (Mem.load s.ram (k * 65536 + ((s.seq k).reg a).toNat) 128 1024) }) := by
  rw [mayTail_iff] at may
  simp only [execSeqLaunchTail, atSeq_of h, may, Bool.false_eq_true, if_false, ramRead_of ok]

theorem execSeqLaunchTail_traps (not : ¬MayTail s k ((s.seq k).reg a).toNat) : SeqTraps (.seqLaunchTail a) s k 0x24 ((s.seq k).reg a) := by
  rw [mayTail_iff, Bool.not_eq_false] at not
  refine seqTraps_of rfl ?_
  change execSeqLaunchTail a s = _
  simp only [execSeqLaunchTail, atSeq_of h, not, if_true]
end

theorem execSeqWfe_pops (d : BitVec 5) (poll : Bool) {e : BitVec 64} {es : List (BitVec 64)} (event : (s.seq k).events = e :: es) :
    execSeqWfe d poll s = seqNext s k (({ s.seq k with events := es }).put d e) := by
  simp only [execSeqWfe, atSeq_of h, event]
  rfl

theorem execSeqWfe_empty (d : BitVec 5) (none : (s.seq k).events = []) : execSeqWfe d true s = seqNext s k ((s.seq k).put d 0) ∧ execSeqWfe d false s = .next s := by
  simp only [execSeqWfe, atSeq_of h, none]
  exact ⟨rfl, rfl⟩

section
variable {sc : BitVec 3} (known : sc.toNat < 5)
include known

theorem execSeqFence_completes (retired : seqCmdsOpen s k = false) (performed : released s (s.seq k).hb sc = true) : execSeqFence sc s = seqNext s k (s.seq k) := by
  have : ¬5 ≤ sc := by bv_omega
  simp only [execSeqFence, atSeq_of h, if_neg this, retired, performed, Bool.not_true, Bool.or_self, Bool.false_eq_true, if_false]
  rfl

theorem execSeqFence_waits (busy : seqCmdsOpen s k = true ∨ released s (s.seq k).hb sc = false) : execSeqFence sc s = .next s := by
  have : ¬5 ≤ sc := by bv_omega
  rw [← Bool.not_eq_true', ← Bool.or_eq_true] at busy
  simp only [execSeqFence, atSeq_of h, if_neg this, busy, if_true]
end

theorem execSeqFence_traps {sc : BitVec 3} (reserved : 5 ≤ sc.toNat) : SeqTraps (.seqFence sc) s k 0x20 0 := by
  have : 5 ≤ sc := by bv_omega
  refine seqTraps_of rfl ?_
  change execSeqFence sc s = _
  simp only [execSeqFence, atSeq_of h, if_pos this]

theorem execSeqTrap_raises (code : BitVec 16) : SeqTraps (.seqTrap code) s k 0x11 (code.setWidth 64) := by
  refine seqTraps_of rfl ?_
  change execSeqTrap code s = _
  rw [execSeqTrap, atSeq_of h]

theorem execSeqHalt_of : execSeqHalt s = .next (s.setSeq k { s.seq k with halted := true }) := atSeq_of h _

theorem execSeqIllegalFetch_reserved {e : DecodeError} (bad : decodeSeq (seqWord s k) = .error e) : SeqTraps .seqIllegalFetch s k 0x20 0 := by
  obtain ⟨-, -, -, inside, -⟩ := id h
  refine seqTraps_of rfl ?_
  change execSeqIllegalFetch s = _
  simp only [execSeqIllegalFetch, atSeq_of h, if_neg (Nat.not_le.mpr inside), bad]
end

/-- The fetch beyond the end of RAM reads no word of it. -/
theorem execSeqIllegalFetch_beyond {s : State} {k : TileKey} (hf : s.focus = .seq k) (hk : s.seqs.has k = true) (runs : seqRuns s k = true) (beyond : 65536 ≤ (s.seq k).pc.toNat) :
    SeqTraps .seqIllegalFetch s k 0x20 0x10000 := by
  refine seqTraps_of rfl ?_
  change execSeqIllegalFetch s = _
  simp only [execSeqIllegalFetch, atSeq, hf, hk, runs, beyond, Bool.not_true, Bool.false_eq_true, if_false, if_true, if_neg (Nat.not_lt.mpr beyond)]

/-- A tier event of a port of the region enters the queue. -/
theorem execEventEnqueue_enters {s : State} {k : TileKey} {p : Nat} {e : BitVec 64} {es : List (BitVec 64)} (hf : s.focus = .fifo k p) (hk : s.seqs.has k = true) (runs : (s.seq k).running = true)
    (open_ : (s.region (s.seq k).region).closed = false) (lets : (s.seq k).evmask ≠ 0) (room : (s.seq k).events.length < 16) (own : (s.tile p).region = some (s.seq k).region)
    (event : (s.port p).tier = e :: es) :
    execEventEnqueue s = .next ((s.setPort p { s.port p with tier := es }).setSeq k { s.seq k with events := (s.seq k).events ++ [e] }) := by
  simp only [execEventEnqueue, hf, hk, runs, open_, own, event, beq_eq_false_iff_ne.mpr lets, decide_eq_false (Nat.not_le.mpr room), Bool.not_true, Bool.or_self, Bool.false_eq_true, if_false, bne_self_eq_false]
/-- Settles O35: each word by its own case, and the queue by the event it takes. -/
theorem seqEventsAndEnds : Obligations.SeqEventsAndEnds := by
  unfold Obligations.SeqEventsAndEnds
  refine ⟨fun s k d a sc code h => ⟨fun may ok => ⟨_, execSeqLaunchTail_copies h a may ok, ?tail⟩, execSeqLaunchTail_traps h a, fun e es poll => execSeqWfe_pops h d poll,
      execSeqWfe_empty h d, execSeqFence_completes h, execSeqFence_waits h, execSeqFence_traps h, execSeqTrap_raises h code, execSeqHalt_of h, fun e => execSeqIllegalFetch_reserved h⟩,
    fun s k => execSeqIllegalFetch_beyond, fun s k p e es hf hk runs open_ lets room own event => ⟨_, execEventEnqueue_enters hf hk runs open_ lets room own event, ?event⟩⟩
  case tail =>
    refine ⟨State.setSeq_seq_self .., ?_⟩
    rw [State.setLaunch_launch_self]
    exact ⟨rfl, rfl⟩
  case event => exact ⟨State.setSeq_seq_self .., State.setPort_port_self ..⟩

end Sys2Proof.Machine
end

section
/-! PROOF. What reset leaves (06 R187; 19 R371, R372, R384). -/

namespace Sys2Proof.Machine

theorem backwater_resetReach : Reach.backwater (backwater Config.pcUnits 64) = true := by decide
theorem backwater_lastResetReach : Reach.backwater (backwater Config.pc63Units 56) = true := by decide

/-- A landing after the wipe holds a backwater reach, and PC63's also the table reach. -/
theorem resetLanding_reaches {pc : PcKey} {i : Nat} {e : BitVec 128} (there : (resetLanding pc).reaches.get? i = some e) :
    Reach.backwater e = true ∨ (pc % 64 = 63 ∧ i = 15 ∧ e = tableReach) := by
  unfold resetLanding at there
  split at there
  case isTrue last =>
    simp only [Map.get?] at there
    split at there
    · cases there
      exact .inl backwater_lastResetReach
    · split at there
      case isTrue slot =>
        cases there
        exact .inr ⟨eq_of_beq last, (eq_of_beq slot).symm, rfl⟩
      case isFalse => cases there
  case isFalse =>
    simp only [Map.get?] at there
    split at there
    · cases there
      exact .inl backwater_resetReach
    · cases there

theorem resetLanding_empty (pc : PcKey) : (resetLanding pc).riders = [] ∧ (resetLanding pc).weir = [] := by
  unfold resetLanding
  split <;> exact ⟨rfl, rfl⟩

/-- Keys stand only in slot 0. -/
theorem resetStack_keys (n : Nat) {i : Nat} (ne : i ≠ 0) : (resetStack n).keys.has i = false := by
  simp [resetStack, Map.has, Map.get?, ne.symm]

/-- Settles O56: field by field of the reset state. -/
theorem resetState : Obligations.ResetState :=
  ⟨rfl, nofun, fun _ => ⟨rfl, rfl, rfl⟩, rfl, rfl, rfl, rfl, rfl, rfl, rfl, rfl, fun _ _ _ _ => ⟨ite_self 0, rfl, rfl⟩, fun _ _ _ => resetLanding_reaches, resetLanding_empty,
    fun _ _ => resetStack_keys _, rfl, rfl, rfl, rfl, rfl, rfl, rfl⟩

end Sys2Proof.Machine
end

section
/-! PROOF. What a sequencer word leaves unchanged (06 R187, R188). -/

namespace Sys2Proof.Machine

/-! ### A property of the next state, if there is one -/

/-- Whatever next state an outcome holds has a property. -/
def NextHas (P : State → Prop) (o : Out) : Prop := ∀ t, o = .next t → P t

section
variable {P : State → Prop} {s : State} {k : TileKey}

@[simp] theorem nextHas_next {t : State} : NextHas P (.next t) ↔ P t := ⟨fun h => h t rfl, fun h _ e => by cases e; exact h⟩
@[simp] theorem nextHas_fault (e : Fault) : NextHas P (.fault e) := fun _ h => nomatch h
@[simp] theorem nextHas_refused (e : Refusal) : NextHas P (.refused e) := fun _ h => nomatch h

theorem nextHas_ite {c : Prop} [Decidable c] {a b : Out} (ha : NextHas P a) (hb : NextHas P b) : NextHas P (if c then a else b) := by
  split
  · exact ha
  · exact hb

theorem nextHas_mono {Q : State → Prop} (le : ∀ t, P t → Q t) {o : Out} (h : NextHas P o) : NextHas Q o := fun t e => le t (h t e)

section
variable (traps : ∀ c d, P (raiseSeq s k c d))
include traps

theorem nextHas_ramRead (a n : Nat) {go : Out} (goes : NextHas P go) : NextHas P (ramRead s k a n go) := by
  unfold ramRead
  split
  · exact nextHas_next.mpr (traps ..)
  · exact goes

variable (focus : s.focus = .seq k) (stays : P s)
include focus stays

/-- A word answers what its own case does, stays where it is, or traps where its RAM is bad. -/
theorem nextHas_atSeq (go : TileKey → Seq → Out) (goes : NextHas P (go k (s.seq k))) : NextHas P (atSeq s go) := by
  unfold atSeq
  rw [focus]
  exact nextHas_ite (nextHas_fault _) (nextHas_ite (nextHas_ite (nextHas_ramRead traps _ _ goes) goes) (nextHas_next.mpr stays))

theorem nextHas_seqMem (a : BitVec 5) (imm : BitVec 16) (n : Nat) (go : TileKey → Seq → Nat → Out)
    (goes : ((s.seq k).reg a + imm.signExtend 64).toNat % n = 0 → ((s.seq k).reg a + imm.signExtend 64).toNat < 65536 → NextHas P (go k (s.seq k) ((s.seq k).reg a + imm.signExtend 64).toNat)) :
    NextHas P (seqMem s a imm n go) := by
  refine nextHas_atSeq traps focus stays _ ?_
  dsimp only
  split
  · exact nextHas_next.mpr (traps ..)
  next inside =>
    simp only [Bool.or_eq_true, bne_iff_ne, decide_eq_true_eq, not_or, not_not, Nat.not_le] at inside
    exact goes inside.1 inside.2
end
end

/-! ### What every word keeps -/

/-- What every word of a sequencer keeps. -/
structure SeqOwn (k : TileKey) (s t : State) : Prop where
  dram     : t.dram = s.dram
  scratch  : t.scratch = s.scratch
  host     : t.host = s.host
  far      : t.far = s.far
  seqs     : ∀ j, j ≠ k → t.seq j = s.seq j
  landings : t.landings = s.landings
  bases    : t.bases = s.bases
  queues   : t.queues = s.queues
  kernels  : t.kernels = s.kernels
  dev      : t.dev = s.dev

/-- What every word but a store and a `seed` keeps. -/
structure SeqKeeps (k : TileKey) (s t : State) : Prop extends SeqOwn k s t where
  ram   : t.ram = s.ram
  tiles : t.tiles = s.tiles

section
variable {k : TileKey} {s t : State}

theorem SeqKeeps.refl (k : TileKey) (s : State) : SeqKeeps k s s := ⟨⟨rfl, rfl, rfl, rfl, fun _ _ => rfl, rfl, rfl, rfl, rfl, rfl⟩, rfl, rfl⟩

theorem seqOwn_setSeq (own : SeqOwn k s t) (q : Seq) : SeqOwn k s (t.setSeq k q) :=
  { own with seqs := fun j ne => (State.setSeq_seq_ne _ _ _ _ ne).trans (own.seqs j ne) }

theorem seqKeeps_setSeq (keeps : SeqKeeps k s t) (q : Seq) : SeqKeeps k s (t.setSeq k q) := { keeps with toSeqOwn := seqOwn_setSeq keeps.toSeqOwn q }

theorem seqKeeps_setSeq_self (k : TileKey) (s : State) (q : Seq) : SeqKeeps k s (s.setSeq k q) := seqKeeps_setSeq (.refl k s) q

theorem seqKeeps_raiseSeq (keeps : SeqKeeps k s t) (c : BitVec 8) (d : BitVec 64) : SeqKeeps k s (raiseSeq t k c d) := by
  have others (j : TileKey) (ne : j ≠ k) := (raiseSeq_seq_ne t k c d ne).trans (keeps.seqs j ne)
  rw [raiseSeq_rest] at others ⊢
  exact { keeps with seqs := others }

theorem seqKeeps_giveCompletion (keeps : SeqKeeps k s t) (l : Nat) (st : Station) (n : Nat) (x : Tok) : SeqKeeps k s (giveCompletion t l st k n x) := by
  have set (q : Seq) : SeqKeeps k s (setSeqIn t l k q) := by
    unfold setSeqIn
    split
    · exact { keeps with }
    · exact seqKeeps_setSeq keeps q
  unfold giveCompletion
  dsimp only
  split
  · exact set _
  · exact set _

theorem seqKeeps_offerCompletion (keeps : SeqKeeps k s t) (l : Nat) (st : Station) (n : Nat) (x : Tok) : SeqKeeps k s (offerCompletion t l st k n x) := by
  unfold offerCompletion
  split
  · exact { keeps with }
  · exact seqKeeps_giveCompletion keeps l st n x
end

/-- An outcome that keeps what every word but a store and a `seed` keeps. -/
def SeqFrames (k : TileKey) (s : State) (o : Out) : Prop := NextHas (SeqKeeps k s) o

section
variable {k : TileKey} {s : State}

theorem seqFrames_next {t : State} (keeps : SeqKeeps k s t) : SeqFrames k s (.next t) := nextHas_next.mpr keeps
theorem seqFrames_stays : SeqFrames k s (.next s) := seqFrames_next (.refl k s)
theorem seqFrames_raise (c : BitVec 8) (d : BitVec 64) : SeqFrames k s (.next (raiseSeq s k c d)) := seqFrames_next (seqKeeps_raiseSeq (.refl k s) c d)
theorem seqFrames_setSeq (q : Seq) : SeqFrames k s (.next (s.setSeq k q)) := seqFrames_next (seqKeeps_setSeq_self k s q)

theorem seqFrames_jump (q : Seq) (target : Int) : SeqFrames k s (seqJump s k q target) := nextHas_ite (seqFrames_raise _ _) (seqFrames_setSeq _)

variable (focus : s.focus = .seq k)
include focus

theorem seqFrames_atSeq (go : TileKey → Seq → Out) (goes : SeqFrames k s (go k (s.seq k))) : SeqFrames k s (atSeq s go) :=
  nextHas_atSeq (seqKeeps_raiseSeq (.refl k s)) focus (.refl k s) go goes

theorem seqFrames_alu (f : Seq → Seq) : SeqFrames k s (seqAlu s f) := seqFrames_atSeq focus _ (seqFrames_setSeq _)

theorem seqFrames_load (a : BitVec 5) (imm : BitVec 16) (n : Nat) (f : TileKey → Seq → Nat → Seq) :
    SeqFrames k s (seqMem s a imm n fun k q x => ramRead s k x n (.next (s.setSeq k (f k q x)))) :=
  nextHas_seqMem (seqKeeps_raiseSeq (.refl k s)) focus (.refl k s) a imm n _ fun _ _ => nextHas_ramRead (seqKeeps_raiseSeq (.refl k s)) _ _ (seqFrames_setSeq _)

theorem seqFrames_branch (d a : BitVec 5) (imm : BitVec 16) (cond : BitVec 64 → BitVec 64 → Bool) : SeqFrames k s (seqBranch s d a imm cond) :=
  seqFrames_atSeq focus _ (nextHas_ite (seqFrames_jump _ _) (seqFrames_setSeq _))

theorem seqFrames_execSeqJal (off : BitVec 26) : SeqFrames k s (execSeqJal off s) :=
  seqFrames_atSeq focus _ (nextHas_ite (seqFrames_raise _ _) (seqFrames_setSeq _))

theorem seqFrames_execSeqSget (d : BitVec 5) (n : BitVec 16) : SeqFrames k s (execSeqSget d n s) := by
  refine seqFrames_atSeq focus _ ?_
  split
  · exact seqFrames_setSeq _
  · exact seqFrames_raise _ _

theorem seqFrames_execSeqSset (a : BitVec 5) (n : BitVec 16) : SeqFrames k s (execSeqSset a n s) :=
  seqFrames_atSeq focus _ (nextHas_ite (seqFrames_setSeq _) (nextHas_ite (seqFrames_setSeq _) (seqFrames_raise _ _)))

theorem seqFrames_execSeqCset (c : BitVec 3) (pos : BitVec 7) (wm1 : BitVec 6) (a : BitVec 5) (chk : Bool) : SeqFrames k s (execSeqCset c pos wm1 a chk s) :=
  seqFrames_atSeq focus _ (nextHas_ite (seqFrames_raise _ _) (seqFrames_setSeq _))

theorem seqFrames_execSeqCissue (c : BitVec 3) : SeqFrames k s (execSeqCissue c s) := by
  refine seqFrames_atSeq focus _ (nextHas_ite (nextHas_ite ?_ ?_) (nextHas_ite seqFrames_stays ?_))
  · exact seqFrames_next (seqKeeps_offerCompletion (seqKeeps_setSeq_self ..) ..)
  · exact seqFrames_next (seqKeeps_raiseSeq (seqKeeps_setSeq_self ..) ..)
  · exact seqFrames_next { seqKeeps_setSeq_self k s _ with }

theorem seqFrames_execSeqTokGive (a : BitVec 5) (n : BitVec 3) : SeqFrames k s (execSeqTokGive a n s) :=
  seqFrames_atSeq focus _ (nextHas_ite (seqFrames_setSeq _) (nextHas_ite seqFrames_stays (seqFrames_setSeq _)))

theorem seqFrames_execSeqTokTake (d : BitVec 5) (h : Bool) (n : BitVec 3) : SeqFrames k s (execSeqTokTake d h n s) := by
  refine seqFrames_atSeq focus _ ?_
  split
  · exact seqFrames_stays
  · exact seqFrames_setSeq _

theorem seqFrames_execSeqCfgLoad (a : BitVec 5) : SeqFrames k s (execSeqCfgLoad a s) := by
  refine seqFrames_atSeq focus _ ?_
  dsimp only
  split
  · exact seqFrames_raise _ _
  · exact nextHas_ite (seqFrames_raise _ _) (nextHas_ite seqFrames_stays (seqFrames_next { seqKeeps_setSeq_self k s _ with }))

theorem seqFrames_execSeqCfgWait (d : BitVec 5) : SeqFrames k s (execSeqCfgWait d s) :=
  seqFrames_atSeq focus _ (nextHas_ite seqFrames_stays (seqFrames_setSeq _))

theorem seqFrames_execSeqCensusWait (d : BitVec 5) : SeqFrames k s (execSeqCensusWait d s) :=
  seqFrames_atSeq focus _ (nextHas_ite (seqFrames_setSeq _) seqFrames_stays)

theorem seqFrames_execSeqLaunchTail (a : BitVec 5) : SeqFrames k s (execSeqLaunchTail a s) :=
  seqFrames_atSeq focus _ (nextHas_ite (seqFrames_raise _ _)
    (nextHas_ramRead (seqKeeps_raiseSeq (.refl k s)) _ _ (seqFrames_next { seqKeeps_setSeq_self k s _ with })))

theorem seqFrames_execSeqWfe (d : BitVec 5) (poll : Bool) : SeqFrames k s (execSeqWfe d poll s) := by
  refine seqFrames_atSeq focus _ ?_
  split
  · exact seqFrames_setSeq _
  · exact nextHas_ite (seqFrames_setSeq _) seqFrames_stays

theorem seqFrames_execSeqFence (scope : BitVec 3) : SeqFrames k s (execSeqFence scope s) :=
  seqFrames_atSeq focus _ (nextHas_ite (seqFrames_raise _ _) (nextHas_ite seqFrames_stays (seqFrames_setSeq _)))

theorem seqFrames_execSeqTrap (code : BitVec 16) : SeqFrames k s (execSeqTrap code s) := seqFrames_atSeq focus _ (seqFrames_raise _ _)
theorem seqFrames_execSeqHalt : SeqFrames k s (execSeqHalt s) := seqFrames_atSeq focus _ (seqFrames_setSeq _)

/-- Every word but a store and a `seed`. -/
theorem seqFrames_exec {i : Instr} (layer : i.layer = .seq) (noSt : ∀ d a imm, i ≠ .seqSt d a imm) (noStw : ∀ d a imm, i ≠ .seqStw d a imm) (noSeed : ∀ d a, i ≠ .seqSeed d a) :
    SeqFrames k s (exec i s) := by
  cases i
  case seqSt d a imm => exact absurd rfl (noSt d a imm)
  case seqStw d a imm => exact absurd rfl (noStw d a imm)
  case seqSeed d a => exact absurd rfl (noSeed d a)
  case seqAdd | seqSub | seqAnd | seqOr | seqXor | seqShl | seqShr | seqSra | seqMul | seqMulh | seqSlt | seqSltu | seqMin | seqMax | seqDiv | seqRem =>
    unfold exec
    simp only [execSeqAdd, execSeqSub, execSeqAnd, execSeqOr, execSeqXor, execSeqShl, execSeqShr, execSeqSra, execSeqMul, execSeqMulh, execSeqSlt, execSeqSltu, execSeqMin, execSeqMax, execSeqDiv, execSeqRem, rWord]
    exact seqFrames_alu focus _
  case seqAddi | seqAndi | seqOri | seqXori | seqShli | seqShri | seqSrai | seqSlti | seqInsh | seqCget | seqCclr | seqCclrAll | seqTokPoll =>
    unfold exec
    simp only [execSeqAddi, execSeqAndi, execSeqOri, execSeqXori, execSeqShli, execSeqShri, execSeqSrai, execSeqSlti, execSeqInsh, iWord, execSeqCget, execSeqCclr, execSeqCclrAll, execSeqTokPoll]
    exact seqFrames_alu focus _
  case seqLd | seqLdw =>
    unfold exec
    simp only [execSeqLd, execSeqLdw]
    exact seqFrames_load focus _ _ _ _
  case seqBeq | seqBne | seqBlt | seqBge | seqBltu | seqBgeu =>
    unfold exec
    simp only [execSeqBeq, execSeqBne, execSeqBlt, execSeqBge, execSeqBltu, execSeqBgeu]
    exact seqFrames_branch focus _ _ _ _
  case seqJ | seqJr =>
    unfold exec
    simp only [execSeqJ, execSeqJr]
    exact seqFrames_atSeq focus _ (seqFrames_jump _ _)
  case seqJal => exact seqFrames_execSeqJal focus _
  case seqSget => exact seqFrames_execSeqSget focus _ _
  case seqSset => exact seqFrames_execSeqSset focus _ _
  case seqCset => exact seqFrames_execSeqCset focus _ _ _ _ _
  case seqCissue => exact seqFrames_execSeqCissue focus _
  case seqTokGive => exact seqFrames_execSeqTokGive focus _ _
  case seqTokTake => exact seqFrames_execSeqTokTake focus _ _ _
  case seqCfgLoad => exact seqFrames_execSeqCfgLoad focus _
  case seqCfgWait => exact seqFrames_execSeqCfgWait focus _
  case seqCensusWait => exact seqFrames_execSeqCensusWait focus _
  case seqLaunchTail => exact seqFrames_execSeqLaunchTail focus _
  case seqWfe => exact seqFrames_execSeqWfe focus _ _
  case seqFence => exact seqFrames_execSeqFence focus _
  case seqTrap => exact seqFrames_execSeqTrap focus _
  case seqHalt => exact seqFrames_execSeqHalt focus
  all_goals cases layer

/-! ### Stores and `seed` -/

/-- What a store of `n` bytes at byte `x` of a sequencer's RAM keeps. -/
structure StoreKeeps (k : TileKey) (x n : Nat) (s t : State) : Prop extends SeqOwn k s t where
  tiles : t.tiles = s.tiles
  out   : ∀ b, b < k * 65536 + x ∨ k * 65536 + x + n ≤ b → Mem.read t.ram b = Mem.read s.ram b
  other : ∀ b, b / 65536 ≠ k → Mem.read t.ram b = Mem.read s.ram b

omit focus in
theorem SeqKeeps.store {t : State} (keeps : SeqKeeps k s t) (x n : Nat) : StoreKeeps k x n s t :=
  { keeps with out := fun _ _ => by rw [keeps.ram], other := fun _ _ => by rw [keeps.ram] }

omit focus in
/-- A store inside RAM changes the bytes it stores and no others. -/
theorem storeKeeps_store {x n : Nat} (aligned : x % n = 0) (inside : x < 65536) (whole : 65536 % n = 0) (q : Seq) {w : Nat} (v : BitVec w) (ecc : List Nat) :
    StoreKeeps k x n s { s.setSeq k q with ram := Mem.store s.ram (k * 65536 + x) n v, ramEcc := ecc } := by
  have fits : x + n ≤ 65536 := by
    obtain ⟨a, rfl⟩ := Nat.dvd_of_mod_eq_zero aligned
    obtain ⟨b, hb⟩ := Nat.dvd_of_mod_eq_zero whole
    have : a < b := Nat.lt_of_mul_lt_mul_left (hb ▸ inside)
    calc n * a + n = n * (a + 1) := rfl
      _ ≤ n * b := Nat.mul_le_mul_left n this
      _ = 65536 := hb.symm
  have out (b : Nat) (h : b < k * 65536 + x ∨ k * 65536 + x + n ≤ b) : Mem.read (Mem.store s.ram (k * 65536 + x) n v) b = Mem.read s.ram b :=
    Mem.read_writeN_out _ _ _ _ (by simpa [Word.toBytes] using h)
  exact { seqKeeps_setSeq_self k s q with
    out := out
    other := fun b ne => out b (by
      by_contra within
      obtain ⟨low, high⟩ := not_or.mp within
      exact ne (Nat.div_eq_of_lt_le (le_of_add_le_left (Nat.le_of_not_lt low)) (by
        have := Nat.lt_of_not_le high
        omega))) }

/-- A store that traps stores nothing. -/
theorem nextHas_execSeqSt (d a : BitVec 5) (imm : BitVec 16) : NextHas (StoreKeeps k ((s.seq k).reg a + imm.signExtend 64).toNat 8 s) (execSeqSt d a imm s) :=
  nextHas_seqMem (fun c d => (seqKeeps_raiseSeq (.refl k s) c d).store _ _) focus ((SeqKeeps.refl k s).store _ _) a imm 8 _
    fun aligned inside => nextHas_next.mpr (storeKeeps_store aligned inside rfl _ _ _)

theorem nextHas_execSeqStw (d a : BitVec 5) (imm : BitVec 16) : NextHas (StoreKeeps k ((s.seq k).reg a + imm.signExtend 64).toNat 4 s) (execSeqStw d a imm s) :=
  nextHas_seqMem (fun c d => (seqKeeps_raiseSeq (.refl k s) c d).store _ _) focus ((SeqKeeps.refl k s).store _ _) a imm 4 _
    fun aligned inside => nextHas_next.mpr (storeKeeps_store aligned inside rfl _ _ _)

omit focus in
theorem seqKeeps_censusAdd {t : State} (keeps : SeqKeeps k s t) (r : Nat) (d : Int) : SeqKeeps k s (censusAdd t r d) := by
  unfold censusAdd
  split
  · exact keeps
  · exact { keeps with }

omit focus in
/-- A token put into a latch changes one tile. -/
theorem deliver_latch (s : State) (j : TileKey) (p : Pos) (n : BitVec 5) (t : Tok) :
    deliver s j (.latch p n) { tok := t } = s.setSlot j n.toNat ((s.slot j n.toNat).arrive p { t with vc := 0 }) := rfl

/-- What a `seed` keeps: the tiles outside the region. -/
structure SeedKeeps (k : TileKey) (s t : State) : Prop extends SeqOwn k s t where
  ram   : t.ram = s.ram
  tiles : ∀ j, (∀ rel, rel ∈ regionRels (s.region (s.seq k).region) → j ≠ regionTile (s.region (s.seq k).region) rel) → t.tile j = s.tile j

omit focus in
theorem SeqKeeps.seed {t : State} (keeps : SeqKeeps k s t) : SeedKeeps k s t := { keeps with tiles := fun _ _ => by rw [State.tile, keeps.tiles, State.tile] }

omit focus in
/-- A slot of a tile of the region. -/
theorem seedKeeps_setSlot {t : State} (keeps : SeqKeeps k s t) {rel : Nat} (own : rel ∈ regionRels (s.region (s.seq k).region)) (n : Nat) (x : Slot) :
    SeedKeeps k s (t.setSlot (regionTile (s.region (s.seq k).region) rel) n x) :=
  { keeps with tiles := fun j out => (State.setSlot_tile_ne _ _ _ _ _ (out rel own)).trans (by rw [State.tile, keeps.tiles, State.tile]) }

theorem nextHas_execSeqSeed (d a : BitVec 5) : NextHas (SeedKeeps k s) (execSeqSeed d a s) := by
  have traps (c : BitVec 8) (d : BitVec 64) : SeedKeeps k s (raiseSeq s k c d) := (seqKeeps_raiseSeq (.refl k s) c d).seed
  have stays : SeedKeeps k s s := (SeqKeeps.refl k s).seed
  refine nextHas_atSeq traps focus stays _ (nextHas_ite (nextHas_next.mpr stays) ?_)
  dsimp only
  split
  · exact nextHas_next.mpr (traps _ _)
  next p _ =>
    split
    · exact nextHas_next.mpr (traps _ _)
    next admits =>
      rw [Bool.not_eq_true] at admits
      refine nextHas_ite (nextHas_next.mpr stays) ?_
      split
      · exact nextHas_next.mpr (traps _ _)
      · simp only [Bool.or_eq_false_iff, Bool.not_eq_false', List.contains_iff_mem] at admits
        obtain ⟨⟨⟨⟨⟨⟨own, -⟩, -⟩, -⟩, -⟩, -⟩, -⟩ := admits
        rw [nextHas_next, deliver_latch]
        exact seedKeeps_setSlot (seqKeeps_censusAdd (seqKeeps_setSeq_self k s _) _ 1) own _ _
end

/-- Reading a register that another write leaves alone. -/
theorem Seq.reg_put_ne (q : Seq) {d a : BitVec 5} (ne : a ≠ d) (v : BitVec 64) : (q.put d v).reg a = q.reg a := by
  unfold Seq.put Seq.reg
  split
  · rfl
  · split
    · rfl
    · exact Map.getD_put_ne _ _ _ _ _ (mt BitVec.eq_of_toNat_eq ne)

/-- Settles O51: `seqFrames_exec` for most words, the stores and `seed` by their own. -/
theorem sequencerFrame : Obligations.SequencerFrame := by
  unfold Obligations.SequencerFrame
  refine ⟨fun i s t k layer focus run => ?_, fun q v d => ⟨rfl, rfl, Seq.reg_put q v, fun a ne => Seq.reg_put_ne q ne v⟩⟩
  by_cases st : ∃ d a imm, i = .seqSt d a imm
  · obtain ⟨d, a, imm, rfl⟩ := st
    have kept := nextHas_execSeqSt focus d a imm t run
    refine ⟨kept.dram, kept.scratch, kept.host, kept.far, kept.other, fun no => absurd rfl (no d a imm).1, fun d' a' imm' => ⟨fun e b out => ?_, nofun⟩, kept.seqs,
      fun _ => kept.tiles, fun j _ => ?_, kept.landings, kept.bases, kept.queues, kept.kernels, kept.dev⟩
    · cases e
      exact kept.out b out
    · rw [State.tile, kept.tiles, State.tile]
  by_cases stw : ∃ d a imm, i = .seqStw d a imm
  · obtain ⟨d, a, imm, rfl⟩ := stw
    have kept := nextHas_execSeqStw focus d a imm t run
    refine ⟨kept.dram, kept.scratch, kept.host, kept.far, kept.other, fun no => absurd rfl (no d a imm).2, fun d' a' imm' => ⟨nofun, fun e b out => ?_⟩, kept.seqs,
      fun _ => kept.tiles, fun j _ => ?_, kept.landings, kept.bases, kept.queues, kept.kernels, kept.dev⟩
    · cases e
      exact kept.out b out
    · rw [State.tile, kept.tiles, State.tile]
  have noSt (d a imm) (e : i = .seqSt d a imm) := st ⟨d, a, imm, e⟩
  have noStw (d a imm) (e : i = .seqStw d a imm) := stw ⟨d, a, imm, e⟩
  have noStore (d a imm) : let x := k * 65536 + ((s.seq k).reg a + imm.signExtend 64).toNat
      (i = .seqSt d a imm → ∀ b, b < x ∨ x + 8 ≤ b → Mem.read t.ram b = Mem.read s.ram b)
      ∧ (i = .seqStw d a imm → ∀ b, b < x ∨ x + 4 ≤ b → Mem.read t.ram b = Mem.read s.ram b) :=
    ⟨fun e => absurd e (noSt d a imm), fun e => absurd e (noStw d a imm)⟩
  by_cases seed : ∃ d a, i = .seqSeed d a
  · obtain ⟨d, a, rfl⟩ := seed
    have kept := nextHas_execSeqSeed focus d a t run
    exact ⟨kept.dram, kept.scratch, kept.host, kept.far, fun b _ => by rw [kept.ram], fun _ => kept.ram, noStore, kept.seqs, fun no => absurd rfl (no d a), kept.tiles,
      kept.landings, kept.bases, kept.queues, kept.kernels, kept.dev⟩
  · have kept := seqFrames_exec focus layer noSt noStw (fun d a e => seed ⟨d, a, e⟩) t run
    exact ⟨kept.dram, kept.scratch, kept.host, kept.far, fun b _ => by rw [kept.ram], fun _ => kept.ram, noStore, kept.seqs, fun _ => kept.tiles,
      fun j _ => by rw [State.tile, kept.tiles, State.tile], kept.landings, kept.bases, kept.queues, kept.kernels, kept.dev⟩

end Sys2Proof.Machine
end

section
/-! PROOF. What a stream command's own step leaves unchanged (06 R157; 15 R346). -/

namespace Sys2Proof.Machine

/-! ### The state that commands leave alone -/

/-- What every command's own step leaves alone. -/
def leftByCmd (s : State) := (s.scratch, s.ram, s.host, s.far, s.seqs, s.regions, s.queues, s.kernels)

/-- What every command's own step but that of `bseq.new` and `statc` leaves alone. -/
def keptByCmd (s : State) := (leftByCmd s, s.dram, s.launches, s.contexts, s.tiles)

/-- An outcome that keeps what most commands keep. -/
def CmdFrames (s : State) (o : Out) : Prop := NextHas (fun t => keptByCmd t = keptByCmd s) o

section
variable {s : State}

theorem cmdFrames_next {t : State} (kept : keptByCmd t = keptByCmd s) : CmdFrames s (.next t) := nextHas_next.mpr kept
theorem cmdFrames_stays : CmdFrames s (.next s) := cmdFrames_next rfl

theorem keptByCmd_setPortIn (s : State) (l : Nat) (k : TileKey) (p : PortUnit) : keptByCmd (setPortIn s l k p) = keptByCmd s := by
  unfold setPortIn
  split <;> rfl

theorem keptByCmd_setPortAt (s : State) (c : Cmd) (k : TileKey) (p : PortUnit) : keptByCmd (setPortAt s c k p) = keptByCmd s := by
  unfold setPortAt
  split
  · exact keptByCmd_setPortIn ..
  · rfl

theorem keptByCmd_mapSet (s : State) (c v : Nat) (f : BitVec 128 → BitVec 128) : keptByCmd (mapSet s c v f) = keptByCmd s := rfl
theorem keptByCmd_sendRide (s : State) (id : Nat) (c : Cmd) (ms : List Member) : keptByCmd (sendRide s id c ms) = keptByCmd s := rfl

theorem keptByCmd_accDone (s : State) (a : Option Nat) : keptByCmd (accDone s a) = keptByCmd s := by cases a <;> rfl

theorem keptByCmd_foldl_accDone (as : List (Option Nat)) (s : State) : keptByCmd (as.foldl accDone s) = keptByCmd s := by
  induction as generalizing s with
  | nil => rfl
  | cons a as ih => exact (ih _).trans (keptByCmd_accDone s a)

theorem keptByCmd_foldClose (s : State) (id : Nat) : keptByCmd (foldClose s id) = keptByCmd s := by
  unfold foldClose
  dsimp only
  split <;> rfl

theorem Map.has_of_mem {α : Type} {m : Map α} {i : Nat} {x : α} (mem : (i, x) ∈ m) : m.has i = true := by
  induction m with
  | nil => cases mem
  | cons y m ih =>
    simp only [Map.has, Map.get?]
    split
    · rfl
    next ne =>
      obtain rfl | mem := List.mem_cons.mp mem
      · exact absurd (beq_self_eq_true _) ne
      · exact ih mem

theorem Map.mem_put {α : Type} {m : Map α} {i : Nat} {x : α} {y : Nat × α} (mem : y ∈ m.put i x) : y = (i, x) ∨ y ∈ m := by
  induction m with
  | nil => exact .inl (List.mem_singleton.mp mem)
  | cons z m ih =>
    rw [Map.put] at mem
    split at mem
    · exact List.mem_cons.mp mem
    · split at mem
      · exact (List.mem_cons.mp mem).imp_right (List.mem_cons_of_mem _)
      · obtain rfl | mem := List.mem_cons.mp mem
        · exact .inr List.mem_cons_self
        · exact (ih mem).imp_right (List.mem_cons_of_mem _)

/-- An engine that has evicted no further table writes nothing. -/
theorem setEngine_same (s : State) (n : Nat) (b : Stack) (same : b.evicted = (s.base n).evicted) : setEngine s n b = s.setBase n b := by
  have none : b.evicted.filter (fun t => !(s.base n).evicted.has t.1) = [] := by
    rw [List.filter_eq_nil_iff, same]
    intro t mem
    simp [Map.has_of_mem mem]
  simp only [setEngine, none, List.isEmpty_nil, if_true]

theorem cmdFrames_blockDone (n : Nat) (b : Stack) (id : Nat) (c : Cmd) (st : Nat) (same : b.evicted = (s.base n).evicted) : CmdFrames s (blockDone s n b id c st) := by
  rw [blockDone, setEngine_same s n b same]
  exact cmdFrames_next rfl

/-! ### Command by command -/

section
variable {P : State → Prop} {id : Nat} (focus : s.focus = .cmd id)
include focus

/-- A command's own step answers what its case does, or nothing. -/
theorem nextHas_atCmd (stays : P s) (go : Nat → Cmd → Out) (goes : NextHas P (go id (s.cmd id))) : NextHas P (atCmd s go) := by
  unfold atCmd
  rw [focus]
  exact nextHas_ite (nextHas_fault _) (nextHas_ite goes (nextHas_next.mpr stays))

theorem cmdFrames_atCmd (go : Nat → Cmd → Out) (goes : CmdFrames s (go id (s.cmd id))) : CmdFrames s (atCmd s go) :=
  nextHas_atCmd (P := fun t => keptByCmd t = keptByCmd s) focus rfl go goes

theorem cmdFrames_ride (ms : Cmd → List Member) (f : Cmd → Cmd) : CmdFrames s (atCmd s fun id c => .next (sendRide s id (f c) (ms c))) :=
  cmdFrames_atCmd focus _ (cmdFrames_next rfl)

theorem cmdFrames_execGather (h : CmdHead) (rid : BitVec 8) (ort : BitVec 4) : CmdFrames s (execGather h rid ort s) := cmdFrames_atCmd focus _ (cmdFrames_next rfl)

theorem cmdFrames_execKvride (h : CmdHead) (o : KvOps) : CmdFrames s (execKvride h o s) :=
  cmdFrames_atCmd focus _ (nextHas_ite cmdFrames_stays (cmdFrames_next rfl))

theorem cmdFrames_execAlight (h : CmdHead) (rid : BitVec 8) : CmdFrames s (execAlight h rid s) := by
  refine cmdFrames_atCmd focus _ ?_
  dsimp only
  split
  · exact cmdFrames_next rfl
  · refine nextHas_ite (cmdFrames_next rfl) (cmdFrames_next ?_)
    split
    · exact (keptByCmd_setPortAt ..).trans (keptByCmd_foldl_accDone ..)
    · split
      · exact (keptByCmd_foldClose ..).trans (keptByCmd_foldl_accDone ..)
      · exact (keptByCmd_setPortAt ..).trans (keptByCmd_foldl_accDone ..)

theorem cmdFrames_updStart : CmdFrames s (updStart s) := cmdFrames_atCmd focus _ (nextHas_ite (cmdFrames_next rfl) (cmdFrames_next rfl))

theorem cmdFrames_execPagein (h : CmdHead) (o : PageOps) : CmdFrames s (execPagein h o s) := by
  refine cmdFrames_atCmd focus _ ?_
  dsimp only
  split
  · exact nextHas_ite (cmdFrames_next rfl) (cmdFrames_next rfl)
  · exact cmdFrames_next rfl

theorem cmdFrames_execPageout (h : CmdHead) (o : PageOps) : CmdFrames s (execPageout h o s) := by
  refine cmdFrames_atCmd focus _ ?_
  dsimp only
  split
  · exact nextHas_ite (cmdFrames_next rfl) (nextHas_ite cmdFrames_stays (cmdFrames_next ((keptByCmd_sendRide ..).trans (keptByCmd_mapSet ..))))
  · exact cmdFrames_next rfl

theorem cmdFrames_atBlockCmd (stack seqid : Nat) (go : Nat → Cmd → Stack → Out)
    (goes : ∀ b, b.evicted = (s.base stack).evicted → CmdFrames s (go id (s.cmd id) b)) : CmdFrames s (atBlockCmd s stack seqid go) := by
  refine cmdFrames_atCmd focus _ ?_
  dsimp only
  split
  · exact cmdFrames_stays
  · refine nextHas_ite cmdFrames_stays (nextHas_ite (cmdFrames_blockDone _ _ _ _ _ rfl) (nextHas_ite (nextHas_ite (cmdFrames_next ?_) (cmdFrames_next rfl)) (goes _ rfl)))
    unfold beginRestore
    dsimp only
    split <;> rfl

theorem cmdFrames_execBseqRestore (h : CmdHead) (o : BseqOps) : CmdFrames s (execBseqRestore h o s) := by
  refine cmdFrames_atBlockCmd focus _ _ _ fun b same => ?_
  split
  · exact cmdFrames_blockDone _ _ _ _ _ same
  · exact cmdFrames_blockDone _ _ _ _ _ same

theorem cmdFrames_execBseqAddg (h : CmdHead) (o : BseqOps) : CmdFrames s (execBseqAddg h o s) := by
  refine cmdFrames_atBlockCmd focus _ _ _ fun b same => ?_
  split
  · exact cmdFrames_blockDone _ _ _ _ _ same
  · exact nextHas_ite (cmdFrames_blockDone _ _ _ _ _ same) (cmdFrames_blockDone _ _ _ _ _ same)

theorem cmdFrames_execBdrop (h : CmdHead) (seqid : BitVec 20) (stack : BitVec 5) : CmdFrames s (execBdrop h seqid stack s) := by
  unfold execBdrop
  extract_lets st q
  refine cmdFrames_atBlockCmd focus _ _ _ fun b same => ?_
  split
  · exact cmdFrames_blockDone _ _ _ _ _ same
  · split
    · exact cmdFrames_blockDone _ _ _ _ _ same
    · exact cmdFrames_next rfl

theorem cmdFrames_bindFrom (o : BindOps) (start : Bool) : CmdFrames s (bindFrom s o start) := cmdFrames_atCmd focus _ (cmdFrames_next rfl)

theorem cmdFrames_execUnbind (h : CmdHead) : CmdFrames s (execUnbind h s) := by
  refine cmdFrames_atCmd focus _ ?_
  dsimp only
  split
  · exact cmdFrames_next rfl
  · exact nextHas_ite (cmdFrames_next rfl) (cmdFrames_next rfl)

theorem cmdFrames_execEos (h : CmdHead) (ort : BitVec 4) (tag : Tag) : CmdFrames s (execEos h ort tag s) := cmdFrames_atCmd focus _ (cmdFrames_next rfl)

theorem cmdFrames_execTempo (h : CmdHead) (round : BitVec 32) (m : BitVec 16) : CmdFrames s (execTempo h round m s) := by
  refine cmdFrames_atCmd focus _ (nextHas_ite (cmdFrames_next rfl) (cmdFrames_next ?_))
  split <;> rfl

theorem cmdFrames_execDrainCmd (h : CmdHead) (m : BitVec 16) : CmdFrames s (execDrainCmd h m s) := cmdFrames_atCmd focus _ (cmdFrames_next rfl)
theorem cmdFrames_execFenceE (h : CmdHead) (eng : Bool) : CmdFrames s (execFenceE h eng s) := cmdFrames_atCmd focus _ (cmdFrames_next rfl)

theorem cmdFrames_execCfgld (h : CmdHead) (block : BitVec 12) : CmdFrames s (execCfgld h block s) := by
  refine cmdFrames_atCmd focus _ ?_
  dsimp only
  split
  · exact cmdFrames_next rfl
  · exact cmdFrames_next rfl

/-- Every command but `bseq.new` and `statc`. -/
theorem cmdFrames_exec {i : Instr} (layer : i.layer = .cmd) (noNew : ∀ h o, i ≠ .bseqNew h o) (noStatc : ∀ h reach seg, i ≠ .statc h reach seg) : CmdFrames s (exec i s) := by
  cases i
  case bseqNew h o => exact absurd rfl (noNew h o)
  case statc h reach seg => exact absurd rfl (noStatc h reach seg)
  case boardFlow | boardSnap | sieve | fold | copy =>
    unfold exec
    simp only [execBoardFlow, execBoardSnap, execSieve, execFold, execCopy]
    exact cmdFrames_ride focus _ _
  case gather h rid ort => exact cmdFrames_execGather focus h rid ort
  case kvride h o => exact cmdFrames_execKvride focus h o
  case alight h rid => exact cmdFrames_execAlight focus h rid
  case updW | updAdd | updMax | updScadd => exact cmdFrames_updStart focus
  case pagein h o => exact cmdFrames_execPagein focus h o
  case pageout h o => exact cmdFrames_execPageout focus h o
  case bseqRestore h o => exact cmdFrames_execBseqRestore focus h o
  case bseqAddg h o => exact cmdFrames_execBseqAddg focus h o
  case bdrop h seqid stack => exact cmdFrames_execBdrop focus h seqid stack
  case bindStart | bindResume => exact cmdFrames_bindFrom focus _ _
  case unbind h => exact cmdFrames_execUnbind focus h
  case eos h ort tag => exact cmdFrames_execEos focus h ort tag
  case tempo h round m => exact cmdFrames_execTempo focus h round m
  case drainCmd h m => exact cmdFrames_execDrainCmd focus h m
  case fenceE h eng => exact cmdFrames_execFenceE focus h eng
  case cfgld h block => exact cmdFrames_execCfgld focus h block
  all_goals cases layer
end
end

/-! ### `statc` -/

/-- Tiles that differ in their counters only. -/
def SameNets (s t : State) : Prop := ∀ k, (t.tile k).slots = (s.tile k).slots ∧ (t.tile k).routes = (s.tile k).routes ∧ (t.tile k).ports = (s.tile k).ports

theorem SameNets.of_tiles {s t : State} (same : t.tiles = s.tiles) : SameNets s t := fun k => by simp only [State.tile, same, and_self]

theorem SameNets.trans {s t u : State} (h : SameNets s t) (g : SameNets t u) : SameNets s u := fun k => by
  obtain ⟨h1, h2, h3⟩ := h k
  obtain ⟨g1, g2, g3⟩ := g k
  exact ⟨g1.trans h1, g2.trans h2, g3.trans h3⟩

theorem sameNets_counts (s : State) (k : TileKey) : SameNets s (s.setTile k { s.tile k with counts := [] }) := fun j => by
  by_cases e : j = k
  · subst e
    rw [State.setTile_tile_self]
    exact ⟨rfl, rfl, rfl⟩
  · rw [State.setTile_tile_ne _ _ _ _ e]
    exact ⟨rfl, rfl, rfl⟩

theorem sameNets_statReset (ts : List (TileKey × Tile)) (s : State) : SameNets s (statReset s ts) := by
  unfold statReset
  induction ts generalizing s with
  | nil => exact .of_tiles rfl
  | cons t ts ih => exact (sameNets_counts s t.1).trans (ih _)

/-- What a reset of counters leaves alone. -/
theorem statReset_kept (ts : List (TileKey × Tile)) (s : State) :
    leftByCmd (statReset s ts) = leftByCmd s ∧ (statReset s ts).dram = s.dram ∧ (statReset s ts).launches = s.launches ∧ (statReset s ts).contexts = s.contexts := by
  unfold statReset
  induction ts generalizing s with
  | nil => exact ⟨rfl, rfl, rfl, rfl⟩
  | cons t ts ih => exact ih (s.setTile t.1 _)

/-- What `statc` keeps: of launches and contexts all where it does not trap, and else all but those of its PT. -/
structure StatcKeeps (s t : State) (l : Nat) (noTrap : Prop) : Prop where
  left     : leftByCmd t = leftByCmd s
  dram     : t.dram = s.dram
  quiet    : noTrap → t.launches = s.launches ∧ t.contexts = s.contexts
  launches : ∀ x, x ≠ l → t.launch x = s.launch x
  contexts : ∀ x, x ≠ (s.launch l).ctx → t.ctx x = s.ctx x
  nets     : SameNets s t

section
variable {s : State} {l : Nat} {noTrap : Prop}

theorem statcKeeps_quiet {t : State} (left : leftByCmd t = leftByCmd s) (dram : t.dram = s.dram) (launches : t.launches = s.launches) (contexts : t.contexts = s.contexts) (nets : SameNets s t) :
    StatcKeeps s t l noTrap :=
  { left, dram, nets
    quiet := fun _ => ⟨launches, contexts⟩
    launches := fun x _ => by simp only [State.launch, launches]
    contexts := fun x _ => by simp only [State.ctx, contexts] }

theorem statcKeeps_setCmd (s : State) (id : Nat) (c : Cmd) : StatcKeeps s (s.setCmd id c) l noTrap := statcKeeps_quiet rfl rfl rfl rfl (.of_tiles rfl)

/-- The trap TEMPO_WEIR stops the update port and closes no region. -/
theorem raiseTrap_tempoWeir (s : State) (k : TileKey) (d : BitVec 64) : raiseTrap s (unitSite s k 0x30 0 none) causeTempoWeir d =
    (trapNoted s (unitSite s k 0x30 0 none) causeTempoWeir d).setPort k { s.port k with qStopped := true } := rfl

theorem statcKeeps_tempoWeir (k : TileKey) (d : BitVec 64) (traps : ¬noTrap) : StatcKeeps s (raiseTrap s (unitSite s k 0x30 0 none) causeTempoWeir d) (s.launchOf k) noTrap where
  left := rfl
  dram := rfl
  quiet := fun no => absurd no traps
  launches := fun _ ne => State.setLaunch_launch_ne _ _ _ _ ne
  contexts := fun _ ne => State.setCtx_ctx_ne _ _ _ _ ne
  nets := .of_tiles rfl

/-- When a `statc` cannot trap (R301). -/
def StatcFits (s : State) (c : Cmd) (reach : BitVec 4) (seg : BitVec 24) : Prop :=
  s.launchFlag c.launch 1 = false ∨ ∀ m loc, Stripe.place (stripe s c.ctx reach) seg.toNat = some (m, loc) → tempoHeldAt s m.pc < 2048

theorem nextHas_execStatc {id : Nat} (focus : s.focus = .cmd id) (h : CmdHead) (reach : BitVec 4) (seg : BitVec 24) :
    NextHas (fun t => StatcKeeps s t (s.launchOf (cmdPort (s.cmd id))) (StatcFits s (s.cmd id) reach seg)) (execStatc h reach seg s) := by
  have self : StatcKeeps s s (s.launchOf (cmdPort (s.cmd id))) (StatcFits s (s.cmd id) reach seg) := statcKeeps_quiet rfl rfl rfl rfl (.of_tiles rfl)
  refine nextHas_atCmd (P := fun t => StatcKeeps s t (s.launchOf (cmdPort (s.cmd id))) (StatcFits s (s.cmd id) reach seg)) focus self _ ?_
  dsimp only
  split
  · exact nextHas_next.mpr (statcKeeps_setCmd ..)
  next m loc placed =>
    refine nextHas_ite (nextHas_next.mpr (statcKeeps_setCmd ..)) ?_
    split
    next full =>
      refine nextHas_next.mpr (statcKeeps_tempoWeir _ _ ?_)
      simp only [Bool.and_eq_true, decide_eq_true_eq] at full
      obtain ⟨tempo, full⟩ := full
      rintro (off | fits)
      · rw [cmdRound, off] at tempo
        cases tempo
      · exact absurd (fits m loc placed) (Nat.not_lt.mpr full)
    · obtain ⟨left, dram, launches, contexts⟩ := statReset_kept (statTiles s (s.cmd id).region) s
      exact nextHas_next.mpr (statcKeeps_quiet left dram launches contexts (sameNets_statReset _ _))
end

/-! ### `bseq.new` -/

/-- The free segments that are found lie in the range that is searched. -/
theorem freeSegs_lt (used : List Nat) (fuel n i : Nat) : ∀ x ∈ freeSegs used fuel n i, x < i + fuel := by
  induction fuel generalizing n i with
  | zero => simp [freeSegs]
  | succ fuel ih =>
    cases n with
    | zero => simp [freeSegs]
    | succ n =>
      intro x mem
      rw [freeSegs] at mem
      split at mem
      · have := ih _ _ x mem
        omega
      · obtain rfl | mem := List.mem_cons.mp mem
        · omega
        · have := ih _ _ x mem
          omega

/-- Pieces of equal length, one for each element. -/
theorem length_flatMap_of_length {α β : Type} {f : α → List β} {n : Nat} (each : ∀ x, (f x).length = n) (l : List α) : (l.flatMap f).length = n * l.length := by
  induction l with
  | nil => rfl
  | cons x l ih => rw [List.flatMap_cons, List.length_append, ih, each, List.length_cons, Nat.mul_succ, Nat.add_comm]

theorem recordBytes_length (fresh : Nat) (t : SeqTable) : (recordBytes fresh t).length = 576 := by
  have toBytes (v : Word64) : (Word.toBytes 8 v).length = 8 := by simp [Word.toBytes]
  have entries : (recordBytes fresh t).length = _ + _ := List.length_append
  rw [entries, length_flatMap_of_length (n := 8) fun g => ?_]
  · simp
  · split <;> exact toBytes _

/-- What an evicted table writes fits into the segments it fills (R346). -/
theorem tableSegs_fit (fresh : Nat) (t : SeqTable) : ∀ x ∈ tableSegs fresh t, x.1 ∈ t.places ∧ x.2.length ≤ 4096 := by
  intro x mem
  have := List.of_mem_zip (show (x.1, x.2) ∈ _ from mem)
  refine ⟨this.1, ?_⟩
  obtain e | mem := List.mem_cons.mp this.2
  · rw [e, recordBytes_length]
    decide
  · obtain ⟨g, -, mem⟩ := List.mem_flatMap.mp mem
    obtain ⟨i, -, e⟩ := List.mem_map.mp mem
    rw [← e]
    exact List.length_take_le _ _

/-- The bytes of the table reach of a stack. -/
def InTableReach (n a : Nat) : Prop := ∃ x, x < 67108864 ∧ a = extentByte (tableLanding n) tableReach x

theorem extentByte_add (pc : PcKey) (e : BitVec 128) (o x : Nat) : extentByte pc e o + x = extentByte pc e (o + x) := Nat.add_assoc ..

/-- A write of segments of the table reach changes no byte outside it. -/
theorem read_writeSegs {n a : Nat} (out : ¬InTableReach n a) (segs : List (Nat × List Byte)) (fit : ∀ x ∈ segs, x.1 < 16384 ∧ x.2.length ≤ 4096) (m : List Host.Cell) :
    Mem.read (segs.foldl (fun m x => Mem.writeN m (extentByte (tableLanding n) tableReach (4096 * x.1)) x.2) m) a = Mem.read m a := by
  induction segs generalizing m with
  | nil => rfl
  | cons y ys ih =>
    rw [List.forall_mem_cons] at fit
    obtain ⟨⟨low, short⟩, fit⟩ := fit
    refine (ih fit _).trans (Mem.read_writeN_out _ _ _ _ ?_)
    by_contra inside
    obtain ⟨above, below⟩ := not_or.mp inside
    obtain ⟨d, rfl⟩ := Nat.exists_eq_add_of_le (Nat.le_of_not_lt above)
    rw [extentByte_add] at out
    refine out ⟨4096 * y.1 + d, ?_, rfl⟩
    have := Nat.lt_of_add_lt_add_left (Nat.lt_of_not_le below)
    omega

/-- An engine whose newly evicted tables lie in the table reach writes only there. -/
theorem setEngine_dram {s : State} {n a : Nat} (out : ¬InTableReach n a) (b : Stack)
    (fit : ∀ t ∈ b.evicted, (s.base n).evicted.has t.1 = false → ∀ p ∈ t.2.places, p < 16384) : Mem.read (setEngine s n b).dram a = Mem.read s.dram a := by
  have tables (l : List (Nat × SeqTable)) (fit : ∀ t ∈ l, ∀ p ∈ t.2.places, p < 16384) (m : List Host.Cell) :
      Mem.read (l.foldl (fun m t => (tableSegs s.fresh t.2).foldl (fun m x => Mem.writeN m (extentByte (n * 64 + 63) tableReach (4096 * x.1)) x.2) m) m) a = Mem.read m a := by
    induction l generalizing m with
    | nil => rfl
    | cons t l ih =>
      rw [List.forall_mem_cons] at fit
      refine (ih fit.2 _).trans (read_writeSegs out _ (fun x mem => ?_) m)
      obtain ⟨place, short⟩ := tableSegs_fit _ _ x mem
      exact ⟨fit.1 _ place, short⟩
  unfold setEngine
  dsimp only
  split
  · rfl
  · refine tables _ (fun t mem => ?_) _
    obtain ⟨mem, new⟩ := List.mem_filter.mp mem
    exact fit t mem (by simpa using new)

/-- Room for a record evicts at most one table, into free segments of the table reach. -/
theorem recordRoom_evicted {b b1 : Stack} {keep : Nat} (room : recordRoom b keep = some b1) :
    ∀ t ∈ b1.evicted, b.evicted.has t.1 = false → ∀ p ∈ t.2.places, p < 16384 := by
  have old (t : Nat × SeqTable) (mem : t ∈ b.evicted) (new : b.evicted.has t.1 = false) : False := by
    rw [Map.has_of_mem (x := t.2) mem] at new
    cases new
  unfold recordRoom at room
  split at room
  · cases room
    exact fun t mem new => (old t mem new).elim
  · obtain ⟨v, -, room⟩ := Option.bind_eq_some_iff.mp room
    unfold evict at room
    dsimp only at room
    split at room
    · cases room
      intro t mem new p place
      obtain rfl | mem := Map.mem_put mem
      · simpa using freeSegs_lt _ _ _ _ p place
      · exact (old t mem new).elim
    · cases room

theorem setEngine_left (s : State) (n : Nat) (b : Stack) :
    leftByCmd (setEngine s n b) = leftByCmd s ∧ (setEngine s n b).launches = s.launches ∧ (setEngine s n b).contexts = s.contexts ∧ (setEngine s n b).tiles = s.tiles := by
  unfold setEngine
  dsimp only
  split <;> exact ⟨rfl, rfl, rfl, rfl⟩

/-- What `bseq.new` keeps. -/
structure NewKeeps (s t : State) (n : Nat) : Prop where
  left     : leftByCmd t = leftByCmd s
  launches : t.launches = s.launches
  contexts : t.contexts = s.contexts
  tiles    : t.tiles = s.tiles
  dram     : ∀ a, ¬InTableReach n a → Mem.read t.dram a = Mem.read s.dram a

theorem nextHas_blockDone {s : State} {n : Nat} (b : Stack) (id : Nat) (c : Cmd) (st : Nat)
    (fit : ∀ t ∈ b.evicted, (s.base n).evicted.has t.1 = false → ∀ p ∈ t.2.places, p < 16384) : NextHas (NewKeeps s · n) (blockDone s n b id c st) := by
  obtain ⟨left, launches, contexts, tiles⟩ := setEngine_left s n b
  exact nextHas_next.mpr ⟨left, launches, contexts, tiles, fun a out => setEngine_dram out b fit⟩

theorem nextHas_execBseqNew {s : State} {id : Nat} (focus : s.focus = .cmd id) (h : CmdHead) (o : BseqOps) : NextHas (NewKeeps s · o.stack.toNat) (execBseqNew h o s) := by
  have self : NewKeeps s s o.stack.toNat := ⟨rfl, rfl, rfl, rfl, fun _ _ => rfl⟩
  have stays := nextHas_next (P := (NewKeeps s · o.stack.toNat)).mpr self
  have same (b : Stack) (e : b.evicted = (s.base o.stack.toNat).evicted) : ∀ t ∈ b.evicted, (s.base o.stack.toNat).evicted.has t.1 = false → ∀ p ∈ t.2.places, p < 16384 := by
    intro t mem new
    rw [e] at mem
    rw [Map.has_of_mem (x := t.2) mem] at new
    cases new
  unfold execBseqNew
  extract_lets st
  refine nextHas_atCmd (P := (NewKeeps s · o.stack.toNat)) focus self _ ?_
  dsimp only
  split
  · exact stays
  · refine nextHas_ite stays (nextHas_ite (nextHas_blockDone _ _ _ _ (same _ rfl)) (nextHas_ite (nextHas_blockDone _ _ _ _ (same _ rfl)) ?_))
    split
    · exact nextHas_blockDone _ _ _ _ (same _ rfl)
    next b1 room => exact nextHas_blockDone _ _ _ _ fun t mem new => recordRoom_evicted room t mem new

/-- Settles O53: `cmdFrames_exec` for most commands, `statc` and `bseq.new` by their own. -/
theorem commandFrame : Obligations.CommandFrame := by
  unfold Obligations.CommandFrame
  intro i s t id layer focus run
  by_cases new : ∃ h o, i = .bseqNew h o
  · obtain ⟨h, o, rfl⟩ := new
    obtain ⟨left, launches, contexts, tiles, dram⟩ := nextHas_execBseqNew focus h o t run
    simp only [leftByCmd, Prod.mk.injEq] at left
    obtain ⟨scratch, ram, host, far, seqs, regions, queues, kernels⟩ := left
    refine ⟨fun no => absurd rfl (no h o), scratch, ram, host, far, fun h' o' e a out => ?_, seqs, regions, queues, kernels, fun _ => ⟨launches, contexts, tiles⟩, nofun, SameNets.of_tiles tiles⟩
    cases e
    exact dram a fun ⟨x, low, e⟩ => out x low e
  have noNew (h o) (e : i = .bseqNew h o) := new ⟨h, o, e⟩
  by_cases statc : ∃ h reach seg, i = .statc h reach seg
  · obtain ⟨h, reach, seg, rfl⟩ := statc
    obtain ⟨left, dram, quiet, launches, contexts, nets⟩ := nextHas_execStatc focus h reach seg t run
    simp only [leftByCmd, Prod.mk.injEq] at left
    obtain ⟨scratch, ram, host, far, seqs, regions, queues, kernels⟩ := left
    refine ⟨fun _ => dram, scratch, ram, host, far, fun h o e => absurd e (noNew h o), seqs, regions, queues, kernels, fun no => absurd rfl (no h reach seg), fun h' reach' seg' e => ?_, nets⟩
    cases e
    exact ⟨quiet, launches, contexts⟩
  · have noStatc (h reach seg) (e : i = .statc h reach seg) := statc ⟨h, reach, seg, e⟩
    have kept : keptByCmd t = keptByCmd s := cmdFrames_exec focus layer noNew noStatc t run
    simp only [keptByCmd, leftByCmd, Prod.mk.injEq] at kept
    obtain ⟨⟨scratch, ram, host, far, seqs, regions, queues, kernels⟩, dram, launches, contexts, tiles⟩ := kept
    exact ⟨fun _ => dram, scratch, ram, host, far, fun h o e => absurd e (noNew h o), seqs, regions, queues, kernels, fun _ => ⟨launches, contexts, tiles⟩,
      fun h reach seg e => absurd e (noStatc h reach seg), SameNets.of_tiles tiles⟩

end Sys2Proof.Machine
end

section
/-! PROOF. Block commands (06 R177, R178; 15 R333, R345). -/

namespace Sys2Proof.Machine

/-- A command whose own step is to come makes it. -/
theorem atCmd_of {s : State} {id : Nat} (h : CmdAt s id) (go : Nat → Cmd → Out) : atCmd s go = go id (s.cmd id) := by
  obtain ⟨focus, there, started, step, goes, live⟩ := h
  simp [atCmd, focus, there, started, step, goes, live]

/-! ### Groups -/

theorem mem_bseqGroups (o : BseqOps) (g : Nat) : g ∈ bseqGroups o ↔ o.g0.toNat ≤ g ∧ g ≤ o.g0.toNat + o.gnm1.toNat := by
  simp only [bseqGroups, List.mem_map, List.mem_range]
  exact ⟨fun ⟨i, low, e⟩ => by omega, fun ⟨low, high⟩ => ⟨g - o.g0.toNat, by omega, by omega⟩⟩

/-- Groups that are added have empty leaves. -/
theorem get?_addGroups (m : Map Group) (o : BseqOps) (g : Nat) :
    (addGroups m (bseqGroups o) o.policy).get? g = if o.g0.toNat ≤ g ∧ g ≤ o.g0.toNat + o.gnm1.toNat then some { policy := o.policy } else m.get? g := by
  have pairs : addGroups m (bseqGroups o) o.policy = ((bseqGroups o).map (fun g => (g, ({ policy := o.policy } : Group)))).foldl (fun (m : Map Group) e => m.put e.1 e.2) m := by
    rw [List.foldl_map]
    rfl
  rw [pairs, Map.get?_foldl_put (v := { policy := o.policy })]
  · have hit : (∃ e ∈ (bseqGroups o).map (fun g => (g, ({ policy := o.policy } : Group))), e.1 = g) ↔ g ∈ bseqGroups o := by simp
    simp only [hit, mem_bseqGroups]
  · intro e mem _
    obtain ⟨g, -, rfl⟩ := List.mem_map.mp mem
    rfl

/-- A table whose leaves are all empty has no group that holds a block. -/
theorem fullGroup_none {t : SeqTable} (empty : ∀ g y, (g, y) ∈ t.groups → y.leaf = []) : fullGroup t = none := by
  rw [fullGroup, List.find?_eq_none]
  intro g mem
  simp [empty g.1 g.2 mem]

/-! ### A block command at its turn -/

/-- The engine of a stack without a request. -/
def withoutReq (s : State) (n i : Nat) : Stack := { s.base n with reqs := (s.base n).reqs.eraseIdx i }

section
variable {s : State} {id i n q : Nat} (h : CmdAt s id) (req : cmdReqIdx (s.base n) id = some i) (turn : reqTurn s (s.base n) i = true)
include h req turn

theorem atBlockCmd_denied (go : Nat → Cmd → Stack → Out) (foreign : cmdForeign s (s.cmd id).ctx (s.cmd id).word = true) :
    atBlockCmd s n q go = blockDone s n (withoutReq s n i) id (s.cmd id) CStat.denied := by
  simp only [atBlockCmd, atCmd_of h, req, turn, foreign, Bool.not_true, Bool.false_eq_true, if_false, if_true]
  rfl

theorem atBlockCmd_goes (go : Nat → Cmd → Stack → Out) (own : cmdForeign s (s.cmd id).ctx (s.cmd id).word = false) (resident : needsRestore s (s.base n) (.cmd id) = none) :
    atBlockCmd s n q go = go id (s.cmd id) (withoutReq s n i) := by
  simp only [atBlockCmd, atCmd_of h, req, turn, own, resident, Bool.not_true, Bool.false_eq_true, if_false, Option.isSome_none]
  rfl

theorem execBseqNew_denied (hd : CmdHead) (o : BseqOps) (at_ : o.stack.toNat = n) (foreign : cmdForeign s (s.cmd id).ctx (s.cmd id).word = true) :
    execBseqNew hd o s = blockDone s n (withoutReq s n i) id (s.cmd id) CStat.denied := by
  subst at_
  simp only [execBseqNew, atCmd_of h, req, turn, foreign, Bool.not_true, Bool.false_eq_true, if_false, if_true]
  rfl
end

/-- A command that is done at an engine which evicts nothing. -/
theorem blockDone_eq {s : State} {n : Nat} {b : Stack} (same : b.evicted = (s.base n).evicted) (id : Nat) (c : Cmd) (st : Nat) :
    blockDone s n b id c st = .next ((s.setBase n b).setCmd id { c with admitted := true, status := st }) := by
  rw [blockDone, setEngine_same s n b same]

/-- A sequence with a table at the engine needs none restored. -/
theorem needsRestore_resident {s : State} {b : Stack} {id q : Nat} (names : (Word.field (s.cmd id).word 76 20 : BitVec 20).toNat = q) {x : SeqTable} (table : b.seqs.get? q = some x) :
    needsRestore s b (.cmd id) = none := by
  simp only [needsRestore, reqSeq, names, table, Option.isNone_some, Bool.false_and, Bool.false_eq_true, if_false]

/-- A table that is evicted is restored for its own context only (R333). -/
theorem needsRestore_foreign {s : State} {b : Stack} {id q : Nat} (names : (Word.field (s.cmd id).word 76 20 : BitVec 20).toNat = q)
    (foreign : ∀ x, b.evicted.get? q = some x → x.ctx ≠ (s.cmd id).ctx) : needsRestore s b (.cmd id) = none := by
  have none : (b.evicted.get? q).any (fun t => t.ctx == reqCtx s (.cmd id)) = false := by
    cases e : b.evicted.get? q with
    | none => rfl
    | some x => exact beq_eq_false_iff_ne.mpr (foreign x e)
  simp only [needsRestore, reqSeq, names, none, Bool.and_false, Bool.false_eq_true, if_false]

/-! ### What each does -/

/-- A command that is done with a status and leaves the tables as they are. -/
def BlockLeaves (s : State) (id n i : Nat) (o : Out) (st : Nat) : Prop :=
  ∃ t, o = .next t ∧ t.cmd id = { s.cmd id with admitted := true, status := st } ∧ (t.base n).reqs = (s.base n).reqs.eraseIdx i ∧ (t.base n).seqs = (s.base n).seqs

theorem blockDone_leaves (s : State) (id n i st : Nat) : BlockLeaves s id n i (blockDone s n (withoutReq s n i) id (s.cmd id) st) st := by
  rw [blockDone_eq (by rfl)]
  refine ⟨_, rfl, State.setCmd_cmd_self .., ?_⟩
  rw [State.setCmd_base, State.setBase_base_self]
  exact ⟨rfl, rfl⟩

/-- A command that is done, with one table of its engine put anew. -/
theorem blockDone_puts (s : State) (id n i q u : Nat) (x : SeqTable) :
    ∃ t, blockDone s n { withoutReq s n i with seqs := (withoutReq s n i).seqs.put q x, uses := u } id (s.cmd id) 0 = .next t
      ∧ t.cmd id = { s.cmd id with admitted := true, status := 0 } ∧ (t.base n).seqs.get? q = some x := by
  rw [blockDone_eq (by rfl)]
  refine ⟨_, rfl, State.setCmd_cmd_self .., ?_⟩
  rw [State.setCmd_base, State.setBase_base_self]
  exact Map.get?_put_self ..

section
variable {s : State} {id i : Nat} (hd : CmdHead) (o : BseqOps) (h : CmdAt s id) (req : cmdReqIdx (s.base o.stack.toNat) id = some i)
  (turn : reqTurn s (s.base o.stack.toNat) i = true)
include h req turn

theorem execBseqNew_creates (own : cmdForeign s (s.cmd id).ctx (s.cmd id).word = false) (new : anyTable (s.base o.stack.toNat) o.seqid.toNat = none)
    (room : (s.base o.stack.toNat).seqs.length < Config.seqRecords) : execBseqNew hd o s =
      blockDone s o.stack.toNat { withoutReq s o.stack.toNat i with
        seqs := (withoutReq s o.stack.toNat i).seqs.put o.seqid.toNat
          { ctx := (s.cmd id).ctx, pool := o.pool.toNat, used := (s.base o.stack.toNat).uses, groups := addGroups [] (bseqGroups o) o.policy }
        uses := (s.base o.stack.toNat).uses + 1 } id (s.cmd id) 0 := by
  have fits : recordRoom (withoutReq s o.stack.toNat i) o.seqid.toNat = some (withoutReq s o.stack.toNat i) := if_pos room
  rw [withoutReq] at fits
  simp only [execBseqNew, atCmd_of h, req, turn, own, new, fits, Bool.not_true, Bool.false_eq_true, if_false, Option.isSome_none]
  rfl

theorem execBseqNew_exists (own : cmdForeign s (s.cmd id).ctx (s.cmd id).word = false) (old : anyTable (s.base o.stack.toNat) o.seqid.toNat ≠ none) :
    execBseqNew hd o s = blockDone s o.stack.toNat (withoutReq s o.stack.toNat i) id (s.cmd id) CStat.exist := by
  have there : (anyTable (s.base o.stack.toNat) o.seqid.toNat).isSome = true := Option.isSome_iff_ne_none.mpr old
  simp only [execBseqNew, atCmd_of h, req, turn, own, there, Bool.not_true, Bool.false_eq_true, if_false, if_true]
  rfl

variable (own : cmdForeign s (s.cmd id).ctx (s.cmd id).word = false)
include own

section
variable (ready : needsRestore s (s.base o.stack.toNat) (.cmd id) = none)
include ready

theorem execBseq_noSeq (none : (s.base o.stack.toNat).seqs.get? o.seqid.toNat = none) :
    execBseqRestore hd o s = blockDone s o.stack.toNat (withoutReq s o.stack.toNat i) id (s.cmd id) CStat.noSeq
      ∧ execBseqAddg hd o s = blockDone s o.stack.toNat (withoutReq s o.stack.toNat i) id (s.cmd id) CStat.noSeq
      ∧ execBdrop hd o.seqid o.stack s = blockDone s o.stack.toNat (withoutReq s o.stack.toNat i) id (s.cmd id) CStat.noSeq := by
  have none : (withoutReq s o.stack.toNat i).seqs.get? o.seqid.toNat = .none := none
  simp only [execBseqRestore, execBseqAddg, execBdrop, atBlockCmd_goes h req turn _ own ready, none, and_self]

variable {x : SeqTable} (table : (s.base o.stack.toNat).seqs.get? o.seqid.toNat = some x)
include table

theorem execBseqRestore_uses : execBseqRestore hd o s = blockDone s o.stack.toNat { withoutReq s o.stack.toNat i with
    seqs := (withoutReq s o.stack.toNat i).seqs.put o.seqid.toNat { x with used := (s.base o.stack.toNat).uses }, uses := (s.base o.stack.toNat).uses + 1 } id (s.cmd id) 0 := by
  have table : (withoutReq s o.stack.toNat i).seqs.get? o.seqid.toNat = some x := table
  simp only [execBseqRestore, atBlockCmd_goes h req turn _ own ready, table]
  rfl

theorem execBseqAddg_adds (new : ∀ g, o.g0.toNat ≤ g → g ≤ o.g0.toNat + o.gnm1.toNat → x.groups.get? g = none) :
    execBseqAddg hd o s = blockDone s o.stack.toNat { withoutReq s o.stack.toNat i with
      seqs := (withoutReq s o.stack.toNat i).seqs.put o.seqid.toNat { x with groups := addGroups x.groups (bseqGroups o) o.policy, used := (s.base o.stack.toNat).uses }
      uses := (s.base o.stack.toNat).uses + 1 } id (s.cmd id) 0 := by
  have table : (withoutReq s o.stack.toNat i).seqs.get? o.seqid.toNat = some x := table
  have none : (bseqGroups o).any x.groups.has = false := by
    rw [List.any_eq_false]
    intro g mem
    obtain ⟨low, high⟩ := (mem_bseqGroups o g).mp mem
    rw [Map.has, new g low high]
    decide
  simp only [execBseqAddg, atBlockCmd_goes h req turn _ own ready, table, none, Bool.false_eq_true, if_false]
  rfl

theorem execBseqAddg_exists {g : Nat} (low : o.g0.toNat ≤ g) (high : g ≤ o.g0.toNat + o.gnm1.toNat) (old : x.groups.has g = true) :
    execBseqAddg hd o s = blockDone s o.stack.toNat (withoutReq s o.stack.toNat i) id (s.cmd id) CStat.exist := by
  have table : (withoutReq s o.stack.toNat i).seqs.get? o.seqid.toNat = some x := table
  have some_ : (bseqGroups o).any x.groups.has = true := List.any_eq_true.mpr ⟨g, (mem_bseqGroups o g).mpr ⟨low, high⟩, old⟩
  simp only [execBseqAddg, atBlockCmd_goes h req turn _ own ready, table, some_, if_true]

theorem execBdrop_ends (empty : fullGroup x = none) : execBdrop hd o.seqid o.stack s = blockDone s o.stack.toNat { withoutReq s o.stack.toNat i with
    seqs := (withoutReq s o.stack.toNat i).seqs.del o.seqid.toNat
    dropping := (withoutReq s o.stack.toNat i).dropping.filter (· != o.seqid.toNat) } id (s.cmd id) 0 := by
  have table : (withoutReq s o.stack.toNat i).seqs.get? o.seqid.toNat = some x := table
  simp only [execBdrop, atBlockCmd_goes h req turn _ own ready, table, empty]

/-- The engine after a block of a table has been freed. -/
def blockFreed (b : Stack) (q : Nat) (x : SeqTable) (g : Nat) (y : Group) : Stack :=
  let b1 := poolMark b x.pool (y.leaf.headD 0).toNat false
  { b1 with
    seqs := b1.seqs.put q { x with groups := x.groups.put g { y with leaf := y.leaf.drop 1, frame := if (y.leaf.drop 1).isEmpty then 0x7FF else y.frame } }
    dropping := q :: b1.dropping.filter (· != q) }

theorem execBdrop_frees {g : Nat} {y : Group} (full : fullGroup x = some (g, y)) : execBdrop hd o.seqid o.stack s =
    .next ((s.setBase o.stack.toNat (blockFreed (s.base o.stack.toNat) o.seqid.toNat x g y)).setCmd id { s.cmd id with detail := (s.cmd id).detail + 1 }) := by
  have table : (withoutReq s o.stack.toNat i).seqs.get? o.seqid.toNat = some x := table
  simp only [execBdrop, atBlockCmd_goes h req turn _ own ready, table, full]
  rfl
end
end

theorem blockFreed_seqs (b : Stack) (q : Nat) (x : SeqTable) (g : Nat) {y : Group} {a : BitVec 32} {as : List (BitVec 32)} (leaf : y.leaf = a :: as) :
    ∃ z, (blockFreed b q x g y).seqs.get? q = some z ∧ (z.groups.get? g).map (fun u => u.leaf) = some as := by
  refine ⟨_, Map.get?_put_self .., ?_⟩
  rw [Map.get?_put_self, leaf]
  rfl

theorem blockFreed_pool {b : Stack} {x : SeqTable} {p : Pool} (pool : b.pools.get? x.pool = some p) (q g : Nat) {y : Group} {a : BitVec 32} {as : List (BitVec 32)} (leaf : y.leaf = a :: as) :
    ((blockFreed b q x g y).pools.get? x.pool).map (fun p => p.used) = some (p.used.filter (· != a.toNat)) := by
  have pools : (blockFreed b q x g y).pools = b.pools.put x.pool { p with used := p.used.filter (· != a.toNat) } := by
    simp only [blockFreed, poolMark, pool, leaf]
    rfl
  rw [pools, Map.get?_put_self]
  rfl

/-- Settles O41: each command by its turn at the engine and the table it finds there. -/
theorem blockCommands : Obligations.BlockCommands := by
  unfold Obligations.BlockCommands
  intro s id i hd o h c n q b done req turn names
  have leaves (st : Nat) : done (blockDone s n (withoutReq s n i) id c st) st := blockDone_leaves s id n i st
  refine ⟨fun foreign x mem => ?denied, fun own => ⟨fun new room => ?creates, fun old => ?taken, fun foreign none => ?noSeq, fun x table => ?table⟩⟩
  case denied =>
    have at_ {go : Nat → Cmd → Stack → Out} {x : Out} (e : x = atBlockCmd s n q go) : done x 5 := by
      rw [e, atBlockCmd_denied h req turn _ foreign]
      exact leaves 5
    simp only [List.mem_cons, List.not_mem_nil, or_false] at mem
    obtain rfl | rfl | rfl | rfl := mem
    · have := execBseqNew_denied h req turn hd o rfl foreign
      exact (show done (execBseqNew hd o s) 5 from this ▸ leaves 5)
    · exact at_ (x := execBseqRestore hd o s) rfl
    · exact at_ (x := execBseqAddg hd o s) rfl
    · have : execBdrop hd o.seqid o.stack s = blockDone s n (withoutReq s n i) id c CStat.denied := by
        rw [execBdrop]
        exact atBlockCmd_denied h req turn _ foreign
      exact (show done (execBdrop hd o.seqid o.stack s) 5 from this ▸ leaves 5)
  case creates =>
    change ∃ t, execBseqNew hd o s = _ ∧ _
    rw [execBseqNew_creates hd o h req turn own new room]
    obtain ⟨t, run, done, table⟩ := blockDone_puts s id n i q _ _
    exact ⟨t, run, done, _, table, rfl, rfl, get?_addGroups [] o⟩
  case taken =>
    have := execBseqNew_exists hd o h req turn own old
    exact (show done (execBseqNew hd o s) 10 from this ▸ leaves 10)
  case noSeq =>
    obtain ⟨restore, addg, drop⟩ := execBseq_noSeq hd o h req turn own (needsRestore_foreign names foreign) none
    exact ⟨(show done (execBseqRestore hd o s) 9 from restore ▸ leaves 9), (show done (execBseqAddg hd o s) 9 from addg ▸ leaves 9),
      (show done (execBdrop hd o.seqid o.stack s) 9 from drop ▸ leaves 9)⟩
  case table =>
    have ready := needsRestore_resident names table
    refine ⟨?restore, fun new => ?adds, fun g low high old => ?old, fun empty => ?ends, fun g y a as full leaf => ?frees⟩
    case restore =>
      change ∃ t, execBseqRestore hd o s = _ ∧ _
      rw [execBseqRestore_uses hd o h req turn own ready table]
      exact blockDone_puts s id n i q _ _
    case adds =>
      change ∃ t, execBseqAddg hd o s = _ ∧ _
      rw [execBseqAddg_adds hd o h req turn own ready table new]
      obtain ⟨t, run, done, put⟩ := blockDone_puts s id n i q _ _
      exact ⟨t, run, done, _, put, get?_addGroups x.groups o⟩
    case old =>
      have := execBseqAddg_exists hd o h req turn own ready table low high old
      exact (show done (execBseqAddg hd o s) 10 from this ▸ leaves 10)
    case ends =>
      change ∃ t, execBdrop hd o.seqid o.stack s = _ ∧ _
      rw [execBdrop_ends hd o h req turn own ready table (fullGroup_none empty), blockDone_eq (by rfl)]
      refine ⟨_, rfl, State.setCmd_cmd_self .., ?_⟩
      rw [State.setCmd_base, State.setBase_base_self]
      exact Map.get?_del_self ..
    case frees =>
      change ∃ t z, execBdrop hd o.seqid o.stack s = _ ∧ _
      rw [execBdrop_frees hd o h req turn own ready table full]
      obtain ⟨z, seqs, groups⟩ := blockFreed_seqs b q x g leaf
      refine ⟨_, z, rfl, congrArg (·.detail) (State.setCmd_cmd_self ..), ?_⟩
      rw [State.setCmd_base, State.setBase_base_self]
      exact ⟨seqs, groups, fun p pool => blockFreed_pool pool q g leaf⟩

end Sys2Proof.Machine
end

section
/-! PROOF. Commands of a port: bindings, markers, fences, configurations, page moves (06 R175, R179 to R185; 12 R301), and the address generator (06 R181). -/

namespace Sys2Proof.Machine

/-! ### Map entries with TIER and TRANSIT set anew (R334, R342) -/

section
variable (e : BitVec 128) (far transit : Bool)

theorem MapEntry.moved_valid : MapEntry.valid (MapEntry.moved e far transit) = true := by
  simp (disch := omega) [MapEntry.valid, MapEntry.moved, MapEntry.mk, bit_append_high, -Nat.reduceAdd]
theorem MapEntry.moved_ctx : MapEntry.ctx (MapEntry.moved e far transit) = MapEntry.ctx e := by
  simp (disch := omega) [MapEntry.ctx, MapEntry.moved, MapEntry.mk, field_append_high, field_append_low, -Nat.reduceAdd]
theorem MapEntry.moved_vpn : MapEntry.vpn (MapEntry.moved e far transit) = MapEntry.vpn e := by
  simp (disch := omega) [MapEntry.vpn, MapEntry.moved, MapEntry.mk, field_append_high, field_append_low, -Nat.reduceAdd]
theorem MapEntry.moved_far : MapEntry.far (MapEntry.moved e far transit) = far := by
  simp (disch := omega) [MapEntry.far, MapEntry.moved, MapEntry.mk, bit_append_high, bit_append_low, -Nat.reduceAdd]
theorem MapEntry.moved_transit : MapEntry.transit (MapEntry.moved e far transit) = transit := by
  simp (disch := omega) [MapEntry.transit, MapEntry.moved, MapEntry.mk, bit_append_high, bit_append_low, -Nat.reduceAdd]

theorem entryFor_moved {c v : Nat} {e : BitVec 128} (own : entryFor c v e = true) : entryFor c v (MapEntry.moved e far transit) = true := by
  simp only [entryFor, Bool.and_eq_true] at own ⊢
  rw [MapEntry.moved_valid, MapEntry.moved_ctx, MapEntry.moved_vpn]
  exact ⟨⟨rfl, own.1.2⟩, own.2⟩
end

/-- What a change that keeps an entry's CTX and VPN leaves of the entry. -/
theorem mapFind_mapSet (s : State) {c v : Nat} {f : BitVec 128 → BitVec 128} (keeps : ∀ e, entryFor c v e = true → entryFor c v (f e) = true) :
    mapFind (mapSet s c v f) c v = (mapFind s c v).map (fun x => (x.1, f x.2)) := by
  have own : ∀ x : Nat × BitVec 128, entryFor c v (if entryFor c v x.2 then f x.2 else x.2) = entryFor c v x.2 := by
    intro x
    split
    next h => rw [keeps _ h, h]
    · rfl
  simp only [mapFind, mapSet, State.setBase_base_self, Map.mapV, List.find?_map]
  have same : ((fun x : Nat × BitVec 128 => entryFor c v x.2) ∘ fun kv : Nat × BitVec 128 => (kv.1, if entryFor c v kv.2 then f kv.2 else kv.2)) = fun x => entryFor c v x.2 :=
    funext own
  rw [same]
  cases found : List.find? (fun x => entryFor c v x.2) (s.base (homeOf v)).home with
  | none => rfl
  | some x =>
    have own := List.find?_some found
    simp only [Option.map_some, own, if_true]

/-! ### The address generator (R181) -/

/-- The counters after a number of addresses. -/
def lcAfter (t : Tile) (lc : List Nat) (j : Nat) : List Nat := (List.range j).foldl (fun lc _ => lcNext t 4 0 lc) lc

theorem lcAfter_succ (t : Tile) (lc : List Nat) (j : Nat) : lcAfter t lc (j + 1) = lcAfter t (lcNext t 4 0 lc) j := by
  simp only [lcAfter, List.range_succ_eq_map, List.foldl_cons, List.foldl_map]

section
variable (t : Tile) (base : BitVec 56)

/-- The address of a set of counters as a sum over the levels. -/
theorem genAddr_eq_sum (lc : List Nat) : genAddr t base lc =
    BitVec.ofInt 56 (base.toNat + ((List.range (nlvl t)).map fun i => (lc.getD i 0 : Int) * ((t.units.getD (2 + i) 0).extractLsb' 0 32).toInt).sum) := by
  rw [genAddr, List.sum_eq_foldl, List.foldl_map]
  rfl

/-- Address `j` of a token, while the loops have not ended. -/
theorem genTake_get (n : Nat) (lc : List Nat) {j : Nat} (low : j < n) (goes : ∀ i, i ≤ j → genEnded t (lcAfter t lc i) = false) :
    (genTake t base n lc).1[j]? = some (genAddr t base (lcAfter t lc j)) := by
  induction n generalizing lc j with
  | zero => omega
  | succ n ih =>
    have first : genEnded t lc = false := goes 0 (Nat.zero_le j)
    simp only [genTake, first, Bool.false_eq_true, if_false]
    cases j with
    | zero => rfl
    | succ j =>
      rw [List.getElem?_cons_succ, lcAfter_succ]
      exact ih _ (by omega) fun i le => lcAfter_succ t lc i ▸ goes (i + 1) (by omega)

/-- The loops that end after `c` addresses give no more than these. -/
theorem genTake_length (n : Nat) (lc : List Nat) {c : Nat} (low : c ≤ n) (goes : ∀ i, i < c → genEnded t (lcAfter t lc i) = false) (ends : genEnded t (lcAfter t lc c) = true) :
    (genTake t base n lc).1.length = c := by
  induction n generalizing lc c with
  | zero => exact (Nat.le_zero.mp low).symm
  | succ n ih =>
    cases c with
    | zero =>
      have : genEnded t lc = true := ends
      simp only [genTake, this, if_true, List.length_nil]
    | succ c =>
      have first : genEnded t lc = false := goes 0 (Nat.succ_pos c)
      rw [lcAfter_succ] at ends
      simp only [genTake, first, Bool.false_eq_true, if_false, List.length_cons]
      rw [ih _ (by omega) (fun i lt => lcAfter_succ t lc i ▸ goes (i + 1) (by omega)) ends]

/-- The addresses of a token: those of the loops in order, the last one repeated (R181). -/
theorem genTake_fills (lc : List Nat) {j c : Nat} (some_ : 1 ≤ c) (le : c ≤ j) (low : j < 8) (goes : ∀ i, i < c → genEnded t (lcAfter t lc i) = false)
    (ends : genEnded t (lcAfter t lc c) = true) :
    (genTake t base 8 lc).1.getD j ((genTake t base 8 lc).1.getLastD 0) = genAddr t base (lcAfter t lc (c - 1)) := by
  have length := genTake_length t base 8 lc (by omega) goes ends
  have last := genTake_get t base 8 lc (j := c - 1) (by omega) fun i lt => goes i (by omega)
  have beyond : (genTake t base 8 lc).1[j]? = none := List.getElem?_eq_none (by omega)
  rw [List.getD_eq_getElem?_getD, beyond, Option.getD_none, List.getLastD_eq_getLast?, List.getLast?_eq_getElem?, length, last]
  rfl
end

theorem getD_setAt {l : List Nat} {i : Nat} (small : i < l.length) (x j : Nat) : (setAt l i x).getD j 0 = if j = i then x else l.getD j 0 := by
  have set : setAt l i x = l.set i x := by rw [setAt, List.set_eq_take_append_cons_drop, if_pos small]
  rw [set, List.getD_eq_getElem?_getD, List.getElem?_set, List.getD_eq_getElem?_getD]
  by_cases e : j = i
  · rw [if_pos e.symm, if_pos small, if_pos e]
    rfl
  · rw [if_neg (Ne.symm e), if_neg e]

/-- The odometer: levels below `i` that are at their end go to 0, level `i` counts (R181). -/
theorem getD_lcNext (t : Tile) {i : Nat} (last : i < nlvl t) (n m : Nat) (lc : List Nat) (four : i < lc.length) (low : m ≤ i) (high : i < m + n)
    (full : ∀ j, m ≤ j → j < i → cntOf t j ≤ lc.getD j 0 + 1) (counts : lc.getD i 0 + 1 < cntOf t i ∨ i + 1 = nlvl t) (j : Nat) :
    (lcNext t n m lc).getD j 0 = if m ≤ j ∧ j < i then 0 else if j = i then lc.getD i 0 + 1 else lc.getD j 0 := by
  induction n generalizing m lc with
  | zero => omega
  | succ n ih =>
    by_cases here : m = i
    · subst here
      have stop : (decide (lc.getD m 0 + 1 < cntOf t m) || m + 1 == nlvl t) = true := by simpa using counts
      simp only [lcNext, stop, if_true]
      rw [getD_setAt four]
      split_ifs <;> omega
    · have carry : (decide (lc.getD m 0 + 1 < cntOf t m) || m + 1 == nlvl t) = false := by
        have := full m (Nat.le_refl m) (by omega)
        simp only [Bool.or_eq_false_iff, decide_eq_false_iff_not, beq_eq_false_iff_ne]
        omega
      have inside : m < lc.length := by omega
      have kept (j : Nat) (ne : j ≠ m) : (setAt lc m 0).getD j 0 = lc.getD j 0 := by rw [getD_setAt inside, if_neg ne]
      simp only [lcNext, carry, Bool.false_eq_true, if_false]
      rw [ih (m + 1) (setAt lc m 0) (by rwa [length_setAt inside]) (by omega) (by omega) (fun j le lt => by rw [kept j (by omega)]; exact full j (by omega) lt)
        (by rwa [kept i (by omega)]), kept i (by omega), getD_setAt inside]
      split_ifs <;> omega

/-! ### The generator's step -/

theorem deliver_port (s : State) (k : TileKey) (d : Tgt) (x : Parcel) (j : TileKey) : (deliver s k d x).port j = s.port j := by
  rw [(sentFrom_deliver s k d x).rest]
  rfl

/-- The token of eight addresses that a generator sends. -/
def addressTok (s : State) (k : TileKey) : Tok :=
  { seq := BitVec.ofNat 8 (s.port k).sent, hb := genPast s (s.port k)
    pay := Word.ofA64 fun i => ((genTake (s.tile k) (s.port k).base 8 (s.port k).lc).1.getD i ((genTake (s.tile k) (s.port k).base 8 (s.port k).lc).1.getLastD 0)).setWidth 64 }

theorem addressTok_a64 (s : State) (k : TileKey) {j : Nat} (low : j < 8) : Word.a64 (addressTok s k).pay j =
    ((genTake (s.tile k) (s.port k).base 8 (s.port k).lc).1.getD j ((genTake (s.tile k) (s.port k).base 8 (s.port k).lc).1.getLastD 0)).setWidth 64 := by
  rw [addressTok, a64_ofA64 _ low]

theorem addressTok_get {s : State} {k : TileKey} {j : Nat} (low : j < 8) (goes : ∀ i, i ≤ j → genEnded (s.tile k) (lcAfter (s.tile k) (s.port k).lc i) = false) :
    Word.a64 (addressTok s k).pay j = (genAddr (s.tile k) (s.port k).base (lcAfter (s.tile k) (s.port k).lc j)).setWidth 64 := by
  rw [addressTok_a64 s k low, List.getD_eq_getElem?_getD, genTake_get _ _ 8 _ low goes]
  rfl

section
variable {s : State} {k : TileKey} (h : UnitAt s k .pt) {tgt : Tgt} (to_ : (Tgt.ofCode (Word.field ((s.tile k).units.getD 1 0) 46 12)).getD .none = tgt)
  (bound : (s.port k).gen.isSome = true) (runs : s.regionStops (s.regionOf k) = false) (on : (s.port k).stopAt = none) (free : targetFree (s.tile k) tgt = true)
include h to_ bound runs on free

theorem execAddressGenerate_sends (more : genEnded (s.tile k) (s.port k).lc = false) : execAddressGenerate s =
    .next ((deliver s k tgt { tok := addressTok s k }).setPort k { s.port k with
      lc := (genTake (s.tile k) (s.port k).base 8 (s.port k).lc).2, sent := (s.port k).sent + 1 }) := by
  have bound : (s.port k).gen.isNone = false := by rw [Option.isNone_eq_false_iff]; exact bound
  simp only [execAddressGenerate, atTile_of h, to_, bound, runs, on, free, more, Bool.false_and, Bool.or_self, Bool.false_eq_true, if_false, Option.isSome_none, Bool.not_true]
  rfl

theorem execAddressGenerate_ends (ended : genEnded (s.tile k) (s.port k).lc = true) : execAddressGenerate s =
    .next (genStop (deliver s k tgt { tok := { tt := .eos, seq := BitVec.ofNat 8 (s.port k).sent, hb := genPast s (s.port k) } }) k) := by
  have bound : (s.port k).gen.isNone = false := by rw [Option.isNone_eq_false_iff]; exact bound
  simp only [execAddressGenerate, atTile_of h, to_, bound, runs, on, free, ended, Bool.false_and, Bool.or_self, Bool.false_eq_true, if_false, if_true, Option.isSome_none, Bool.not_true]
end

/-- A generator that no `unbind` waits for just stops. -/
theorem genStop_eq {s : State} {k : TileKey} (on : (s.port k).stopAt = none) : genStop s k = s.setPort k { s.port k with gen := none } := by
  simp only [genStop, on]

/-! ### Commands -/

section
variable {s : State} {id : Nat} (h : CmdAt s id) (hd : CmdHead)
include h

/-- The PT's generator as a `bind` sets it up. -/
def boundPort (s : State) (id : Nat) (o : BindOps) : PortUnit :=
  { s.port (cmdPort (s.cmd id)) with gen := some id, base := if o.base = 0 then unitBase (s.tile (cmdPort (s.cmd id))) else o.base, stopAt := none }

theorem bindFrom_starts (o : BindOps) (start : Bool) : ∃ t, bindFrom s o start = .next t
    ∧ t.port (cmdPort (s.cmd id)) = (if start then { boundPort s id o with lc := [0, 0, 0, 0], sent := 0 } else boundPort s id o) ∧ (t.cmd id).admitted = true := by
  refine ⟨_, atCmd_of h _, ?_, congrArg (·.admitted) (State.setCmd_cmd_self ..)⟩
  rw [State.setCmd_port, State.setPort_port_self]
  simp only [boundPort, beq_iff_eq]

theorem execUnbind_idle (idle : (s.port (cmdPort (s.cmd id))).gen = none) : execUnbind hd s = .next (s.setCmd id { s.cmd id with
    admitted := true, extended := true, detail := (s.port (cmdPort (s.cmd id))).lc.getD 0 0, detail2 := (s.port (cmdPort (s.cmd id))).lc.getD 1 0 }) := by
  simp only [execUnbind, atCmd_of h, idle]

theorem execUnbind_waits (runs : (s.port (cmdPort (s.cmd id))).gen.isSome = true) (on : (s.port (cmdPort (s.cmd id))).stopAt = none) :
    execUnbind hd s = .next ((s.setCmd id { s.cmd id with admitted := true }).setPort (cmdPort (s.cmd id)) { s.port (cmdPort (s.cmd id)) with stopAt := some id }) := by
  obtain ⟨g, gen⟩ := Option.isSome_iff_exists.mp runs
  simp only [execUnbind, atCmd_of h, gen, on, Option.isSome_none, Bool.false_eq_true, if_false]

theorem execEos_of (ort : BitVec 4) (tag : Tag) : execEos hd ort tag s =
    .next (s.setCmd id { s.cmd id with admitted := true, out := [{ rider := 1536, route := ort.toNat, tok := { tt := .eos, tag := tag } }] }) := atCmd_of h _

theorem execFenceE_of (eng : Bool) : execFenceE hd eng s = .next (s.setCmd id { s.cmd id with admitted := true }) := atCmd_of h _

/-- The marker that a command sends on each of the routes it names. -/
def markersOut (s : State) (id : Nat) (m : BitVec 16) (x : Tok) : List Leaving :=
  (maskRoutes (s.tile (cmdPort (s.cmd id))) m).map (fun r => { rider := 1536, route := r, tok := x })

section
variable (round : BitVec 32) (m : BitVec 16)

theorem execDrainCmd_of : execDrainCmd hd m s = .next (s.setCmd id { s.cmd id with admitted := true, out := markersOut s id m { tt := .drain } }) := atCmd_of h _

theorem execTempo_plain (plain : s.launchFlag (s.cmd id).launch 1 = false) : execTempo hd round m s =
    .next { s.setCmd id { s.cmd id with admitted := true, out := markersOut s id m { tt := .tempo, pay := round.setWidth 512 }, pending := [], sentAt := s.sends } with sends := s.sends + 1 } := by
  simp only [execTempo, atCmd_of h, plain, Bool.false_and, Bool.false_eq_true, if_false]
  rfl

theorem execTempo_waits (tempo : s.launchFlag (s.cmd id).launch 1 = true) (diverted : roundDiverted s (cmdPort (s.cmd id)) round.toNat = true) :
    execTempo hd round m s = .next (s.setCmd id { s.cmd id with underway := true }) := by
  simp only [execTempo, atCmd_of h, tempo, diverted, Bool.and_self, if_true]

theorem execTempo_marks (tempo : s.launchFlag (s.cmd id).launch 1 = true) (none : roundDiverted s (cmdPort (s.cmd id)) round.toNat = false) : execTempo hd round m s =
    .next (State.setPort { s.setCmd id { s.cmd id with
        admitted := true, out := markersOut s id m { tt := .tempo, pay := round.setWidth 512 }, pending := ctxLandings s (s.cmd id).ctx, sentAt := s.sends } with sends := s.sends + 1 }
      (cmdPort (s.cmd id)) { s.port (cmdPort (s.cmd id)) with cr := round.toNat + 1 }) := by
  simp only [execTempo, atCmd_of h, tempo, none, Bool.and_false, Bool.false_eq_true, if_false, if_true]
  rfl
end

theorem execCfgld_stages (blk : BitVec 12) {x : Block} (there : (s.kernelOf (s.cmd id).launch).blocks.get? blk.toNat = some x) : ∃ t, execCfgld hd blk s = .next t
    ∧ t.cmd id = { s.cmd id with admitted := true } ∧ ((s.launch (s.cmd id).launch).regions.getD x.region 0, blk.toNat) ∈ t.staging.getD hd.die.toNat [] := by
  simp only [execCfgld, atCmd_of h, there]
  refine ⟨_, rfl, State.setCmd_cmd_self .., ?_⟩
  rw [Map.upd, Map.getD_put_self]
  exact List.mem_cons_self

theorem execCfgld_none (blk : BitVec 12) (none : (s.kernelOf (s.cmd id).launch).blocks.get? blk.toNat = none) :
    execCfgld hd blk s = .next (s.setCmd id { s.cmd id with admitted := true, status := 14 }) := by
  simp only [execCfgld, atCmd_of h, none]

section
variable (o : PageOps) {x : Nat} {e : BitVec 128} (entry : mapFind s (s.cmd id).ctx o.vpn.toNat = some (x, e))
include entry

theorem execPagein_moves (far : MapEntry.far e = true) (still : MapEntry.transit e = false) : execPagein hd o s =
    .next ((mapSet s (s.cmd id).ctx o.vpn.toNat (fun e => MapEntry.moved e true true)).setCmd id { s.cmd id with admitted := true, underway := true }) := by
  simp only [execPagein, atCmd_of h, entry, far, still, Bool.not_false, Bool.and_self, if_true]

theorem execPagein_near (near : MapEntry.far e = false) : execPagein hd o s = .next (s.setCmd id { s.cmd id with admitted := true, status := 12 }) := by
  simp only [execPagein, atCmd_of h, entry, near, Bool.false_and, Bool.false_eq_true, if_false]
end
end

/-- A round mark reaches its landing. -/
theorem execRoundMark_notes {s : State} {k : TileKey} {pc : PcKey} {id : Nat} {c : Cmd} (focus : s.focus = .mark k pc)
    (due : s.cmds.find? (fun c => c.2.station == .port k && cmdCode c.2.word == 0x30 && c.2.pending.contains pc) = some (id, c)) (first : earlierSent s c.station pc c.sentAt = false) :
    execRoundMark s = .next ((s.setCmd id { c with pending := c.pending.erase pc }).setLanding pc { s.landing pc with
      marks := (c.launch, k, (Word.field c.word 16 32).toNat) :: (s.landing pc).marks.filter (fun m => !(m.1 == c.launch && m.2.1 == k)) }) := by
  simp only [execRoundMark, focus, due, first, Bool.false_eq_true, if_false]

/-- Settles O42: each command at its port, the generator by the addresses it takes, the mark by its landing. -/
theorem portCommands : Obligations.PortCommands := by
  unfold Obligations.PortCommands
  refine ⟨fun s id hd o po ort tag round m eng blk h => ?commands, fun s k h bound runs on free => ⟨fun more => ?sends, fun ended => ?ends⟩, fun s k pc id c focus due first => ?mark⟩
  case commands =>
    refine ⟨bindFrom_starts h o true, bindFrom_starts h o false, execUnbind_idle h hd, fun runs on => ⟨_, execUnbind_waits h hd runs on, State.setPort_port_self ..⟩, execEos_of h hd ort tag,
      execDrainCmd_of h hd m, fun plain => ⟨_, execTempo_plain h hd round m plain, rfl, State.setCmd_cmd_self ..⟩, execTempo_waits h hd round m,
      fun tempo none => ⟨_, execTempo_marks h hd round m tempo none, State.setPort_port_self .., State.setCmd_cmd_self ..⟩, execFenceE_of h hd eng,
      fun x => execCfgld_stages h hd blk, execCfgld_none h hd blk, fun x e entry => ⟨fun far still => ?pagein, execPagein_near h hd po entry⟩⟩
    have found := mapFind_mapSet s (c := (s.cmd id).ctx) (v := po.vpn.toNat) (f := fun e => MapEntry.moved e true true) fun e own => entryFor_moved true true own
    rw [entry] at found
    exact ⟨_, _, execPagein_moves h hd po entry far still, State.setCmd_cmd_self .., found, MapEntry.moved_transit .., MapEntry.moved_far ..⟩
  case sends =>
    have first : ∀ i, i ≤ 0 → genEnded (s.tile k) (lcAfter (s.tile k) (s.port k).lc i) = false := fun i le => Nat.le_zero.mp le ▸ more
    refine ⟨addressTok s k, execAddressGenerate_sends h rfl bound runs on free more, rfl, rfl, addressTok_get (by decide) first, fun j low goes => ?_, fun j c some_ le low goes ended => ?_,
      fun lc i four levels last counts full j low => ?_⟩
    · rw [addressTok_get low goes, genAddr_eq_sum]
      rfl
    · rw [addressTok_a64 s k low, genTake_fills (s.tile k) (s.port k).base (s.port k).lc some_ le low goes ended, genAddr_eq_sum]
      rfl
    · have := getD_lcNext (s.tile k) last 4 0 lc (by omega) (Nat.zero_le i) (by omega) (fun j _ => full j) counts j
      simpa using this
  case ends =>
    refine ⟨_, execAddressGenerate_ends h rfl bound runs on free ended, ?_⟩
    rw [genStop_eq (by rw [deliver_port, on]), State.setPort_port_self, deliver_port]
    exact ⟨rfl, rfl⟩
  case mark =>
    refine ⟨_, execRoundMark_notes focus due first, State.setCmd_cmd_self .., ?_⟩
    rw [State.setLanding_landing_self]

end Sys2Proof.Machine
end

section
/-! PROOF. The gather unit, `kvride`, the eddy queue and the firmware's answer (06 R168, R169; 15 R333, R337, R340, R343, R347). -/

namespace Sys2Proof.Machine

/-! ### What serving requests leaves of tiles and ports -/

/-- At most the requests of gather units have changed, and no window has grown. -/
def ReqsOnly (s t : State) : Prop :=
  t.tiles = s.tiles ∧ ∀ j, ∃ w r, t.port j = { s.port j with window := w, ready := r } ∧ w.length ≤ (s.port j).window.length

section
variable {s t u : State}

theorem ReqsOnly.of_same (tiles : t.tiles = s.tiles) (ports : t.ports = s.ports) : ReqsOnly s t :=
  ⟨tiles, fun j => ⟨(s.port j).window, (s.port j).ready, by rw [State.port, ports, State.port], Nat.le_refl _⟩⟩

theorem ReqsOnly.refl (s : State) : ReqsOnly s s := .of_same rfl rfl

theorem ReqsOnly.trans (h : ReqsOnly s t) (g : ReqsOnly t u) : ReqsOnly s u := by
  obtain ⟨tiles, ports⟩ := h
  obtain ⟨tiles', ports'⟩ := g
  refine ⟨tiles'.trans tiles, fun j => ?_⟩
  obtain ⟨w, r, port, le⟩ := ports j
  obtain ⟨w', r', port', le'⟩ := ports' j
  refine ⟨w', r', by rw [port', port], ?_⟩
  rw [port] at le'
  exact le'.trans le

theorem ReqsOnly.tile (h : ReqsOnly s t) (j : TileKey) : t.tile j = s.tile j := by rw [State.tile, h.1, State.tile]

theorem reqsOnly_setPort (s : State) (k : TileKey) {w r : List Req} (le : w.length ≤ (s.port k).window.length) : ReqsOnly s (s.setPort k { s.port k with window := w, ready := r }) := by
  refine ⟨rfl, fun j => ?_⟩
  by_cases e : j = k
  · subst e
    exact ⟨w, r, State.setPort_port_self .., le⟩
  · exact ⟨(s.port j).window, (s.port j).ready, State.setPort_port_ne _ _ _ _ e, Nat.le_refl _⟩

/-- The requests of the unit at which a gather stands, saved or not. -/
theorem reqsOnly_setPortAt (s : State) (c : Cmd) (k : TileKey) {w r : List Req} (le : w.length ≤ (portAt s c k).window.length) :
    ReqsOnly s (setPortAt s c k { portAt s c k with window := w, ready := r }) := by
  unfold portAt setPortAt at *
  cases away : c.away with
  | none =>
    rw [away] at le
    exact reqsOnly_setPort s k le
  | some l =>
    rw [away] at le
    unfold portIn setPortIn at *
    dsimp only at le ⊢
    cases saved : s.saved.get? l with
    | none =>
      rw [saved] at le
      exact reqsOnly_setPort s k le
    | some y => exact .of_same rfl rfl

theorem foldl_accDone_rest (as : List Req) (s : State) : as.foldl (fun x r => accDone x r.access) s = { s with accs := (as.foldl (fun x r => accDone x r.access) s).accs } := by
  induction as generalizing s with
  | nil => rfl
  | cons a as ih =>
    rw [List.foldl_cons, ih, accDone_rest]

theorem reqsOnly_flushReplies (k : TileKey) (id : Nat) (fuel : Nat) (s : State) : ReqsOnly s (flushReplies s k id fuel) := by
  induction fuel generalizing s with
  | zero => exact .refl s
  | succ fuel ih =>
    rw [flushReplies]
    split
    · exact .refl s
    next r rest _ =>
      have sent := reqsOnly_setPortAt s (s.cmd id) k (w := (portAt s (s.cmd id) k).window) (r := rest) (Nat.le_refl _)
      exact sent.trans ((ReqsOnly.of_same rfl rfl).trans (ih _))

theorem reqsOnly_finishReqs (s : State) (k : TileKey) (id : Nat) : ReqsOnly s (finishReqs s k id) := by
  unfold finishReqs
  extract_lets c p full ready s1
  have done : s1 = { s with accs := s1.accs } := foldl_accDone_rest _ s
  have performed : ReqsOnly s s1 := by
    rw [done]
    exact .of_same rfl rfl
  have here : p = portAt s1 c k := by
    rw [done]
    rfl
  rw [here]
  refine performed.trans ((reqsOnly_setPortAt s1 c k ?_).trans (reqsOnly_flushReplies k id _ _))
  exact List.length_filter_le ..

theorem foldl_reqsOnly {α : Type} {f : State → α → State} (keeps : ∀ s x, ReqsOnly s (f s x)) (xs : List α) (s : State) : ReqsOnly s (xs.foldl f s) := by
  induction xs generalizing s with
  | nil => exact .refl s
  | cons x xs ih => exact (keeps s x).trans (ih _)

theorem reqsOnly_addWants {s t : State} {id : Nat} {kind : RideKind} {pc : PcKey} {ws : List (Nat × Nat × Nat)} (added : addWants s id kind pc ws = some t) : ReqsOnly s t := by
  unfold addWants at added
  dsimp only at added
  split at added
  · split at added
    · cases added
    · cases added
      exact .of_same rfl rfl
  · split at added
    · cases added
    · cases added
      exact .of_same rfl rfl

theorem reqsOnly_placeReq (s : State) (id : Nat) (r : Req) : ReqsOnly s (placeReq s id r) := by
  refine foldl_reqsOnly (fun x i => ?_) _ s
  split
  · exact .refl x
  · split
    next m loc _ _ =>
      cases added : addWants x id .gather m.pc [(m.slot, loc, 0)] with
      | none => exact .refl x
      | some y => exact reqsOnly_addWants added
    · exact .refl x

theorem reqsOnly_fenceGather (s : State) (id : Nat) : ReqsOnly s (fenceGather s id) := by
  unfold fenceGather
  extract_lets c k cut p w
  split
  · exact .refl s
  · have cuts := reqsOnly_setPortAt s c k (w := w) (r := p.ready) (by rw [List.length_map])
    exact cuts.trans ((ReqsOnly.of_same rfl rfl).trans (reqsOnly_finishReqs _ _ _))

/-- A request that enters the window of a unit leaves the rest of the unit. -/
theorem acceptReq_keeps (s : State) (k : TileKey) (id : Nat) (r : Req) : (acceptReq s k id r).tiles = s.tiles
    ∧ ∃ w x, (acceptReq s k id r).port k = { s.port k with window := w, ready := x } := by
  unfold acceptReq
  extract_lets c bad cut r1 st s1 p
  have kept := (reqsOnly_placeReq (s1.setPort k { p with window := p.window ++ [r1] }) id r1).trans (reqsOnly_finishReqs _ k id)
  refine ⟨kept.1, ?_⟩
  obtain ⟨w, x, port, -⟩ := kept.2 k
  refine ⟨w, x, port.trans ?_⟩
  rw [State.setPort_port_self]
  rfl
end

/-! ### The gather unit (R168) -/

theorem Map.has_del_self {α : Type} (m : Map α) (i : Nat) : (m.del i).has i = false := by rw [Map.has, Map.get?_del_self]; rfl

@[simp] theorem portDrain_port (s : State) (k : TileKey) (p : Nat) (t : Tok) (j : TileKey) : (portDrain s k p t).port j = s.port j := by
  unfold portDrain
  split <;> rfl

@[simp] theorem portTake_port (s : State) (k : TileKey) (p : Nat) (j : TileKey) : (portTake s k p).port j = s.port j := rfl

/-- A unit port that has given up its token is empty. -/
theorem portTake_empty (s : State) (k : TileKey) (p : Nat) : ((portTake s k p).tile k).ports.has p = false := by
  rw [portTake_tile]
  exact Map.has_del_self _ _

theorem portDrop_empty (s : State) (k : TileKey) (p : Nat) (t : Tok) : ((portDrop s k p t).tile k).ports.has p = false := by
  rw [portDrop, portDrain_tile, portTake_tile]
  exact Map.has_del_self _ _

/-- The state in which an open gather unit has listed what it could. -/
def wantsListed (s : State) (k : TileKey) (id : Nat) : State := (((fenceGather s id).port k).window).foldl (fun x r => placeReq x id r) (fenceGather s id)

theorem reqsOnly_wantsListed (s : State) (k : TileKey) (id : Nat) : ReqsOnly s (wantsListed s k id) :=
  (reqsOnly_fenceGather s id).trans (foldl_reqsOnly (fun s r => reqsOnly_placeReq s id r) _ _)

section
variable {s : State} {k : TileKey} {id : Nat} {x : Parcel} (h : UnitAt s k .pt) (open_ : (s.port k).gather = some id) (more : (s.port k).closing = none)
  (goes : (s.port k).gStopped = false) (tok : (s.tile k).ports.get? 0x31 = some x)
include h open_ more goes tok

theorem execGatherRequest_takes (isReq : x.tok.tt = .data ∨ x.tok.tt = .control) (room : (s.port k).window.length < 64) :
    ∃ t, execGatherRequest s = .next t ∧ (t.tile k).ports.has 0x31 = false ∧ (t.port k).accepts = (s.port k).accepts + 1 := by
  obtain ⟨-, ports⟩ := reqsOnly_wantsListed s k id
  obtain ⟨w, r, port, le⟩ := ports k
  have fits : ¬64 ≤ ((wantsListed s k id).port k).window.length := by
    rw [port]
    exact Nat.not_le.mpr (le.trans_lt room)
  rw [wantsListed] at fits
  have step : execGatherRequest s = .next (acceptReq ((portTake (wantsListed s k id) k 0x31).setPort k { (portTake (wantsListed s k id) k 0x31).port k with accepts := (s.port k).accepts + 1 }) k id
      { order := (s.port k).accepts, tag := x.tok.tag, seq := x.tok.seq, addrs := (List.range 8).map (Word.a64 x.tok.pay), hb := pastOf s [x.tok], access := x.tok.acc }) := by
    obtain data | control := isReq
    · simp only [execGatherRequest, atTile_of h, open_, more, goes, tok, data, Option.isSome_none, Bool.or_self, Bool.false_eq_true, if_false, if_neg fits]
      rfl
    · simp only [execGatherRequest, atTile_of h, open_, more, goes, tok, control, Option.isSome_none, Bool.or_self, Bool.false_eq_true, if_false, if_neg fits]
      rfl
  refine ⟨_, step, ?_⟩
  obtain ⟨tiles, w, r, port⟩ := acceptReq_keeps ((portTake (wantsListed s k id) k 0x31).setPort k { (portTake (wantsListed s k id) k 0x31).port k with accepts := (s.port k).accepts + 1 }) k id
    { order := (s.port k).accepts, tag := x.tok.tag, seq := x.tok.seq, addrs := (List.range 8).map (Word.a64 x.tok.pay), hb := pastOf s [x.tok], access := x.tok.acc }
  rw [State.tile, tiles, port, State.setPort_port_self]
  exact ⟨portTake_empty .., rfl⟩

theorem execGatherRequest_closes (eos : x.tok.tt = .eos) :
    ∃ t, execGatherRequest s = .next t ∧ (t.tile k).ports.has 0x31 = false ∧ (t.port k).closing = some x.tok := by
  have step : execGatherRequest s = .next ((portDrop (wantsListed s k id) k 0x31 x.tok).setPort k { (portDrop (wantsListed s k id) k 0x31 x.tok).port k with closing := some x.tok }) := by
    simp only [execGatherRequest, atTile_of h, open_, more, goes, tok, eos, Option.isSome_none, Bool.or_self, Bool.false_eq_true, if_false]
    rfl
  refine ⟨_, step, portDrop_empty _ k _ _, ?_⟩
  rw [State.setPort_port_self]
end

/-! ### The eddy queue (R337, R338, R340) -/

/-- A trap of an eddy entry stops no unit. -/
theorem raiseTrap_eddy (s : State) {x : Site} {k : TileKey} {e : Nat} (agent : x.agent = .eddy k e) (c : BitVec 8) (d : BitVec 64) :
    (raiseTrap s x c d).tiles = s.tiles ∧ (raiseTrap s x c d).ports = s.ports := by
  unfold raiseTrap
  simp only [agent, setStopped]
  split <;> exact ⟨rfl, rfl⟩

/-- The events of an entry leave tiles and entries. -/
theorem eddyEvents_keeps (s : State) (k : TileKey) (e : Nat) (x : Eddy) : (eddyEvents s k e x).tiles = s.tiles ∧ ((eddyEvents s k e x).port k).eddy = (s.port k).eddy := by
  unfold eddyEvents
  induction failedElems x generalizing s with
  | nil => exact ⟨rfl, rfl⟩
  | cons a as ih =>
    rw [List.foldl_cons]
    obtain ⟨tiles, eddy⟩ := ih (if elemClass a == 3 then s.setPort k { s.port k with tier := (s.port k).tier ++ [tierWord k e (vaVpn a)] }
      else raiseTrap s { unitSite s k 0x31 (BitVec.ofNat 64 e) (some { tt := .fault, vc := x.vc, tag := x.tag, seq := x.seq, pay := x.body }) with agent := .eddy k e }
        (if elemClass a == 2 then causePerm else causeUnmapped) a)
    refine ⟨tiles.trans ?_, eddy.trans ?_⟩
    · split
      · rfl
      · exact (raiseTrap_eddy s rfl _ _).1
    · split
      · rw [State.setPort_port_self]
      · rw [State.port, (raiseTrap_eddy s rfl _ _).2, State.port]

/-- The entry that a fault token at `pt.g` takes. -/
def divertedEntry (s : State) (k : TileKey) (x : Parcel) (id : Nat) : Eddy :=
  { kv := false, cls := lowestClass x.tok.pay, order := (s.port k).accepts, tag := x.tok.tag, seq := x.tok.seq, body := x.tok.pay, cmd := id
    acc := x.tok.wr, round := x.round, hb := pastOf s [x.tok], access := x.tok.acc, vc := x.tok.vc }

/-- A fault token takes the lowest free entry. -/
theorem execEddyDivert_takes {s : State} {k : TileKey} {id : Nat} {x : Parcel} (h : UnitAt s k .pt) (open_ : (s.port k).gather = some id) (more : (s.port k).closing = none)
    (goes : (s.port k).gStopped = false) (tok : (s.tile k).ports.get? 0x31 = some x) (fault : x.tok.tt = .fault) {e : Nat} (free : (s.port k).eddy.lowestFree 64 0 = some e) :
    ∃ t d, execEddyDivert s = .next t ∧ (t.tile k).ports.has 0x31 = false ∧ (t.port k).eddy.get? e = some d ∧ d.kv = false ∧ d.tag = x.tok.tag ∧ d.seq = x.tok.seq ∧ d.body = x.tok.pay
      ∧ d.cmd = id ∧ d.vc = x.tok.vc ∧ d.round = x.round := by
  have waits : faultWaits (s.tile k) (s.port k) = some (x, id) := by
    simp only [faultWaits, tok, open_, fault, more, goes]
    rfl
  simp only [execEddyDivert, atTile_of h, free, waits]
  refine ⟨_, divertedEntry s k x id, rfl, ?_, ?_, rfl, rfl, rfl, rfl, rfl, rfl, rfl⟩
  · rw [State.tile, (eddyEvents_keeps ..).1]
    exact portTake_empty ..
  · rw [(eddyEvents_keeps ..).2, State.setPort_port_self]
    exact Map.get?_put_self ..

section
variable {s : State} {k : TileKey} {x : Parcel} (h : UnitAt s k .pt) (goes : (s.port k).rStopped = false) (tok : (s.tile k).ports.get? 0x32 = some x) (resume : x.tok.tt = .resume)
include h goes tok resume

theorem execResumeToken_names (known : (Word.lane x.tok.pay 0).toNat < 64) :
    execResumeToken s = .next ((resumeEntry (portTake s k 0x32) k (Word.lane x.tok.pay 0).toNat).getD s) := by
  have : ¬63 < (Word.lane x.tok.pay 0).toNat := by omega
  simp only [execResumeToken, atTile_of h, tok, goes, resume, decide_eq_false this, TT.isMarker, bne_self_eq_false, Bool.or_self, Bool.false_eq_true, if_false]
  rfl

theorem execResumeToken_traps (beyond : 64 ≤ (Word.lane x.tok.pay 0).toNat) : execResumeToken s = .next (raiseTrap s (unitSite s k 0x32 0 (some x.tok)) 0x02 0) := by
  have : 63 < (Word.lane x.tok.pay 0).toNat := by omega
  simp only [execResumeToken, atTile_of h, tok, goes, resume, decide_eq_true this, TT.isMarker, Bool.or_true, if_true, Bool.false_eq_true, if_false]
  rfl
end

/-- The request that an entry becomes once its elements translate. -/
def resumedReq (s : State) (d : Eddy) : Req :=
  { order := d.order, tag := d.tag, seq := d.seq, addrs := (List.range 8).map (Word.a64 (retranslate s (s.cmd d.cmd).ctx d)), diverted := true, hb := d.hb, access := d.access }

/-- An entry whose elements all translate enters the window. -/
theorem resumeEntry_releases {s : State} {k : TileKey} {e : Nat} {d : Eddy} (entry : (s.port k).eddy.get? e = some d) (plain : d.kv = false) (room : (s.port k).window.length < 64)
    (ok : ∀ i, i < 8 → elemClass (Word.a64 (retranslate s (s.cmd d.cmd).ctx d) i) = 0) :
    resumeEntry s k e = some (acceptReq (s.setPort k { s.port k with eddy := (s.port k).eddy.del e }) k d.cmd (resumedReq s d)) := by
  have all : (List.range 8).all (fun i => elemClass (Word.a64 (retranslate s (s.cmd d.cmd).ctx d) i) == 0) = true := by
    rw [List.all_eq_true]
    intro i mem
    rw [beq_iff_eq]
    exact ok i (List.mem_range.mp mem)
  unfold resumeEntry
  extract_lets p
  split
  next none => cases entry.symm.trans none
  next x found =>
    cases entry.symm.trans found
    exact (if_neg (by rw [plain]; decide)).trans ((if_pos all).trans (if_neg (Nat.not_le.mpr room)))

/-! ### The firmware's answer (R343) -/

/-- Whether the far tier is accepted and a page lies in a far pool of a context. -/
def FarKnown (s : State) (c : Nat) (fpool : BitVec 16) (fpage : Nat) : Prop := feature s 3 = true ∧ ∃ p, (s.ctx c).farpools.get? fpool.toNat = some p ∧ fpage < p.pages.toNat

theorem farKnown_iff (s : State) (c : Nat) (fpool : BitVec 16) (fpage : Nat) :
    FarKnown s c fpool fpage ↔ (!feature s 3 || !((s.ctx c).farpools.get? fpool.toNat).any (fun p => fpage < p.pages.toNat)) = false := by
  simp [FarKnown, Option.any_eq_true]

section
variable {s : State} {k : TileKey} {w : BitVec 64} {ws : List (BitVec 64)} {fpool : BitVec 16} {fpage : Nat} (focus : s.focus = .tile k) (event : (s.port k).tier = w :: ws)
  (clear : tierToSeq s k = false)
  (first : s.cmds.any (fun x => x.2.origin == .firmware && cmdCode x.2.word == 0x19 && x.2.ctx == s.ctxOf k && x.2.phase != .done
    && (Word.field x.2.word 61 35).toNat == (Word.field w 0 35 : BitVec 35).toNat) = false)
  (place : farPlace s (s.ctxOf k) (Word.field w 0 35 : BitVec 35).toNat = some (fpool, fpage))
include focus event clear first place

theorem execFirmwareTierEvent_ignores (no : ¬FarKnown s (s.ctxOf k) fpool fpage) : execFirmwareTierEvent s = .next (s.setPort k { s.port k with tier := ws }) := by
  rw [farKnown_iff, Bool.not_eq_false] at no
  simp only [execFirmwareTierEvent, focus, event, clear, first, place, no, Bool.false_eq_true, if_false, if_true]

/-- The firmware's `pagein` as it stands at its engine. -/
def firmwareCmd (s : State) (k : TileKey) (v : Nat) (fpool : BitVec 16) (fpage : Nat) : Cmd :=
  { word := firmwarePagein (12 + Config.tierEngine s.fresh / 32 % 2) (Config.tierEngine s.fresh % 32) v fpool fpage
    station := .engine (12 + Config.tierEngine s.fresh / 32 % 2) (Config.tierEngine s.fresh % 32), origin := .firmware
    launch := s.launchOf k, ctx := s.ctxOf k, region := 0, phase := .accepted, order := s.sends }

theorem execFirmwareTierEvent_answers (known : FarKnown s (s.ctxOf k) fpool fpage)
    (room : (waitingAt s (.engine (12 + Config.tierEngine s.fresh / 32 % 2) (Config.tierEngine s.fresh % 32))).length < 16) :
    execFirmwareTierEvent s = .next { (s.setPort k { s.port k with tier := ws }).setCmd (s.nextCmd + 1) (firmwareCmd s k (Word.field w 0 35 : BitVec 35).toNat fpool fpage) with
      nextCmd := s.nextCmd + 1, sends := s.sends + 1, fresh := s.fresh + 1 } := by
  rw [farKnown_iff] at known
  simp only [execFirmwareTierEvent, focus, event, clear, first, place, known, Bool.false_eq_true, if_false, if_neg (Nat.not_le.mpr room)]
  rfl
end

/-! ### Admission of a `kvride` (R333, R347) -/

section
variable {s : State} {id i n q : Nat} (focus : s.focus = .cmd id) (there : s.cmds.has id = true) (started : (s.cmd id).phase = .started) (code : cmdCode (s.cmd id).word = 5)
  (goes : (s.cmd id).stopped = false) (new : (s.cmd id).admitted = false) (stack : (Word.field (s.cmd id).word 65 5 : BitVec 5).toNat = n)
  (names : (Word.field (s.cmd id).word 76 20 : BitVec 20).toNat = q) (req : cmdReqIdx (s.base n) id = some i) (turn : reqTurn s (s.base n) i = true)
include focus there started code goes new stack names req turn

omit names in
theorem execKvrideAdmit_denied (foreign : cmdForeign s (s.cmd id).ctx (s.cmd id).word = true) :
    execKvrideAdmit s = .next ((s.setBase n (withoutReq s n i)).setCmd id { s.cmd id with admitted := true, status := 5 }) := by
  simp only [execKvrideAdmit, focus, there, started, code, goes, new, stack, req, turn, foreign, Bool.not_true, bne_self_eq_false, Bool.or_self, Bool.false_eq_true, if_false, if_true]
  rfl

variable (own : cmdForeign s (s.cmd id).ctx (s.cmd id).word = false) (resident : (s.base n).evicted.get? q = none)
include own resident

theorem execKvrideAdmit_noSeq (none : groupOf (s.base n) (s.cmd id).ctx q (Word.field (s.cmd id).word 70 6 : BitVec 6).toNat = none) :
    execKvrideAdmit s = .next ((s.setBase n (withoutReq s n i)).setCmd id { s.cmd id with admitted := true, status := 9 }) := by
  have ready : needsRestore s (s.base n) (.cmd id) = .none := needsRestore_foreign names (by simp [resident])
  simp only [execKvrideAdmit, focus, there, started, code, goes, new, stack, names, req, turn, own, ready, none, Bool.not_true, bne_self_eq_false, Bool.or_self, Bool.false_eq_true, if_false,
    Option.isSome_none]
  rfl

theorem execKvrideAdmit_admits {t : SeqTable} {x : Group} (table : groupOf (s.base n) (s.cmd id).ctx q (Word.field (s.cmd id).word 70 6 : BitVec 6).toNat = some (t, x)) :
    execKvrideAdmit s = .next (kvWants ((s.setBase n (groupPut (withoutReq s n i) q t (Word.field (s.cmd id).word 70 6 : BitVec 6).toNat x)).setCmd id
      { s.cmd id with admitted := true, blocks := kvSnapshot s (s.cmd id) t x }) id) := by
  have ready : needsRestore s (s.base n) (.cmd id) = .none := needsRestore_foreign names (by simp [resident])
  simp only [execKvrideAdmit, focus, there, started, code, goes, new, stack, names, req, turn, own, ready, table, Bool.not_true, bne_self_eq_false, Bool.or_self, Bool.false_eq_true, if_false,
    Option.isSome_none]
  rfl
end

theorem execGather_opens {s : State} {id : Nat} (h : CmdAt s id) (hd : CmdHead) (rid : BitVec 8) (ort : BitVec 4) : execGather hd rid ort s =
    .next ((s.setCmd id { s.cmd id with admitted := true }).setPort (cmdPort (s.cmd id)) { s.port (cmdPort (s.cmd id)) with gather := some id, closing := none, window := [], ready := [] }) :=
  atCmd_of h _

theorem execKvride_asks {s : State} {id : Nat} (h : CmdAt s id) (hd : CmdHead) (o : KvOps) (new : (s.cmd id).underway = false) :
    execKvride hd o s = .next (blockRequest (s.setCmd id { s.cmd id with underway := true }) id o.stack.toNat) := by
  simp only [execKvride, atCmd_of h, new, Bool.false_eq_true, if_false]

/-- Settles O39: each by its unit, the resumption by what its elements translate to. -/
theorem gatherAndEddy : Obligations.GatherAndEddy := by
  unfold Obligations.GatherAndEddy
  refine ⟨fun s id hd rid ort o h => ⟨⟨_, execGather_opens h hd rid ort, State.setCmd_cmd_self .., State.setPort_port_self ..⟩,
      fun new => ⟨_, execKvride_asks h hd o new, State.setCmd_cmd_self .., congrArg (·.reqs) (State.setBase_base_self ..)⟩⟩,
    fun s id i focus there started code goes new req turn resident => ⟨execKvrideAdmit_denied focus there started code goes new rfl req turn,
      fun own => execKvrideAdmit_noSeq focus there started code goes new rfl rfl req turn own resident,
      fun t x own => execKvrideAdmit_admits focus there started code goes new rfl rfl req turn own resident⟩,
    fun s k id x h open_ more goes tok => ⟨execGatherRequest_takes h open_ more goes tok, execGatherRequest_closes h open_ more goes tok, fun e fault free => execEddyDivert_takes h open_ more goes tok fault free⟩,
    fun s k x h goes tok resume => ⟨fun known none => ?unused, fun d known entry plain room ok => ?released, execResumeToken_traps h goes tok resume⟩,
    fun s k w ws fpool fpage focus event clear first place => ⟨execFirmwareTierEvent_ignores focus event clear first place,
      fun known room => ⟨_, execFirmwareTierEvent_answers focus event clear first place known room, State.setPort_port_self .., State.setCmd_cmd_self ..⟩⟩⟩
  case unused =>
    have step := execResumeToken_names h goes tok resume known
    rw [resumeEntry, portTake_port, none] at step
    exact step
  case released =>
    have step := execResumeToken_names h goes tok resume known
    rw [resumeEntry_releases (s := portTake s k 0x32) (d := d) entry plain room ok] at step
    obtain ⟨tiles, w, r, port⟩ := acceptReq_keeps ((portTake s k 0x32).setPort k { (portTake s k 0x32).port k with eddy := ((portTake s k 0x32).port k).eddy.del (Word.lane x.tok.pay 0).toNat }) k d.cmd
      (resumedReq (portTake s k 0x32) d)
    refine ⟨_, step, ?_⟩
    rw [Option.getD_some, State.tile, tiles, port, State.setPort_port_self]
    exact ⟨portTake_empty .., Map.get?_del_self ..⟩

end Sys2Proof.Machine
end

section
/-! PROOF. Updates, from their token to the memory they change (06 R171, R172, R186; 11 R269, R278, R279; 18 R369). -/

namespace Sys2Proof.Machine

/-! ### Words stored one after another, each by what it held -/

/-- The words from an address on, word `i` by `f i` of what it held. -/
def storeEach (base : Nat) (f : Nat → Lane → Lane) (n : Nat) (d : List Host.Cell) : List Host.Cell :=
  (List.range n).foldl (fun d i => Mem.store d (base + 4 * i) 4 (f i (Mem.load d (base + 4 * i) 4 32))) d

section
variable (base : Nat) (f : Nat → Lane → Lane) (n : Nat) {d : List Host.Cell}

theorem storeEach_succ : storeEach base f (n + 1) d =
    Mem.store (storeEach base f n d) (base + 4 * n) 4 (f n (Mem.load (storeEach base f n d) (base + 4 * n) 4 32)) := by
  simp only [storeEach, List.range_succ, List.foldl_append, List.foldl_cons, List.foldl_nil]

theorem storeEach_wf (wf : Mem.wf d = true) : Mem.wf (storeEach base f n d) = true := by
  induction n with
  | zero => exact wf
  | succ n ih => exact storeEach_succ base f n ▸ Mem.store_wf _ _ _ _ ih

theorem read_storeEach_out {a : Nat} (out : a < base ∨ base + 4 * n ≤ a) : Mem.read (storeEach base f n d) a = Mem.read d a := by
  induction n with
  | zero => rfl
  | succ n ih =>
    rw [storeEach_succ, Mem.read_store_out _ _ (by omega)]
    exact ih (by omega)

/-- Word `i` becomes `f i` of what it held. -/
theorem load_storeEach (wf : Mem.wf d = true) {i : Nat} (low : i < n) :
    (Mem.load (storeEach base f n d) (base + 4 * i) 4 32 : Lane) = f i (Mem.load d (base + 4 * i) 4 32) := by
  induction n with
  | zero => omega
  | succ n ih =>
    rw [storeEach_succ]
    by_cases last : i = n
    · subst last
      rw [Mem.load_store_self (storeEach_wf base f i wf), Mem.load_congr fun a lo hi => read_storeEach_out base f i (by omega)]
    · rw [← ih (by omega)]
      exact Mem.load_congr fun a lo hi => Mem.read_store_out _ _ (by omega)
end

theorem Mem.readN_one (m : List Host.Cell) (a : Nat) : Mem.readN m a 1 = [Mem.read m a] := rfl

/-! ### What one update does (R172, R282, R369) -/

/-- A word after an update, in the words of the command's rule. -/
theorem updWord_becomes (op : UpdOp) (ety : BitVec 4) (f v : Lane) : updWord op ety f v = match op with
    | .write => v
    | .add => if ety = 2 then BitVec.ofNat 32 (Fp.add Fp.f32 .rn f.toNat v.toNat).bits else f + v
    | .max => if ety = 2 then BitVec.ofNat 32 (Fp.minMax Fp.f32 true f.toNat v.toNat)
        else if ety = 0 then (if f.toInt < v.toInt then v else f) else (if f.toNat < v.toNat then v else f)
    | .scadd x y => match Fp.mulV (Fp.f32.read x.toNat) (Fp.f32.read f.toNat), Fp.mulV (Fp.f32.read y.toNat) (Fp.f32.read v.toNat) with
      | some p, some q => BitVec.ofNat 32 (Fp.addV Fp.f32 .rn p q).bits
      | _, _ => 0x7FC00000 := by
  cases op with
  | write => rfl
  | add => simp only [updWord, beq_iff_eq]
  | max => simp only [updWord, beq_iff_eq, BitVec.slt_iff_toInt_lt, BitVec.ult_iff_toNat_lt]
  | scadd => rfl

theorem countUpd_rest (s : State) (id : Nat) (done : Bool) : countUpd s id done = { s with cmds := (countUpd s id done).cmds } := by
  unfold countUpd
  split
  · rfl
  · dsimp only
    split <;> rfl

theorem countUpd_applied (s : State) {id : Nat} (owned : id ≠ 0) (done : Bool) :
    ((countUpd s id done).cmd id).applied = if done then (s.cmd id).applied + 1 else (s.cmd id).applied := by
  rw [countUpd, if_neg (by simpa using owned)]
  cases done <;> simp

/-- The state after an update that is not discarded, but for the counts of its command. -/
def wordsWritten (s : State) (m : Member) (w : Weir) : State :=
  { accDone s w.acc with
    dram := storeEach (segByte m w.seg (4 * w.word)) (fun i f => updWord w.op w.ety f (w.vals.getD i 0)) w.vals.length s.dram
    poison := if w.op == .write && w.vals.length == 16 then s.poison.filter (· != segByte m w.seg (w.word / 16 * 64)) else s.poison
    tags := if w.ftag == 0 then s.tags else s.tags.put (tagKey m.pc m.slot w.seg) w.ftag }

section
variable {s : State} {m : Member} {w : Weir}

theorem segByte_word (i : Nat) : segByte m w.seg (4 * (w.word + i)) = segByte m w.seg (4 * w.word) + 4 * i := by
  simp only [segByte, extentByte]
  omega

theorem applyWeir_discards (bad : s.poison.contains (segByte m w.seg (w.word / 16 * 64)) = true) (part : ¬(w.op = .write ∧ w.vals.length = 16)) :
    applyWeir s m w = countUpd (accDone s w.acc) w.cmd false := by
  have notWhole : (w.op == .write && w.vals.length == 16) = false := by simpa using part
  rw [applyWeir, accDone_rest]
  simp only [bad, notWhole, Bool.not_false, Bool.and_self, if_true]

theorem applyWeir_applies (goes : ¬s.poison.contains (segByte m w.seg (w.word / 16 * 64)) = true ∨ (w.op = .write ∧ w.vals.length = 16)) :
    applyWeir s m w = countUpd (wordsWritten s m w) w.cmd true := by
  have passes : (s.poison.contains (segByte m w.seg (w.word / 16 * 64)) && !(w.op == .write && w.vals.length == 16)) = false := by
    rcases goes with clean | ⟨op, whole⟩
    · rw [eq_false_of_ne_true clean, Bool.false_and]
    · simp [op, whole]
  rw [applyWeir, wordsWritten, accDone_rest]
  simp only [passes, Bool.false_eq_true, if_false, segByte_word]
  rfl

theorem wordsWritten_clean (goes : ¬s.poison.contains (segByte m w.seg (w.word / 16 * 64)) = true ∨ (w.op = .write ∧ w.vals.length = 16)) :
    (wordsWritten s m w).poison.contains (segByte m w.seg (w.word / 16 * 64)) = false := by
  simp only [wordsWritten]
  split
  case isTrue => simp
  case isFalse part => simpa using goes.resolve_right (by simpa using part)

theorem wordsWritten_dram : (wordsWritten s m w).dram =
    storeEach (segByte m w.seg (4 * w.word)) (fun i f => updWord w.op w.ety f (w.vals.getD i 0)) w.vals.length s.dram := rfl

/-- A word that an update names, after it. -/
theorem wordsWritten_word (wf : Mem.wf s.dram = true) {i : Nat} {v : Lane} (val : w.vals[i]? = some v) :
    (Mem.load (wordsWritten s m w).dram (segByte m w.seg (4 * w.word) + 4 * i) 4 32 : Lane) = updWord w.op w.ety (Mem.load s.dram (segByte m w.seg (4 * w.word) + 4 * i) 4 32) v := by
  have low : i < w.vals.length := (List.getElem?_eq_some_iff.mp val).1
  have is : w.vals.getD i 0 = v := by rw [List.getD_eq_getElem?_getD, val, Option.getD_some]
  rw [wordsWritten_dram, load_storeEach _ _ _ wf low, is]

theorem wordsWritten_out {a : Nat} (out : a < segByte m w.seg (4 * w.word) ∨ segByte m w.seg (4 * w.word) + 4 * w.vals.length ≤ a) :
    Mem.readN (wordsWritten s m w).dram a 1 = Mem.readN s.dram a 1 := by
  rw [Mem.readN_one, Mem.readN_one, wordsWritten_dram, read_storeEach_out _ _ _ out]

theorem cmd_accDone (s : State) (a : Option Nat) (id : Nat) : (accDone s a).cmd id = s.cmd id := by rw [accDone_rest]; rfl
end

/-! ### An update command starts (R171, R172, R186, R301) -/

section
variable {s : State} {id : Nat} (h : CmdAt s id)
include h

theorem updStart_turn (done : ∀ j x, (j, x) ∈ s.cmds → sameStation (s.cmd id) x = true → x.phase = .started → x.order < (s.cmd id).order → isUpd x = true → updTokens x ≤ x.taken) :
    updStart s = .next (s.setCmd id { s.cmd id with admitted := true }) := by
  have first : startedAt s (s.cmd id) (fun _ x => x.order < (s.cmd id).order && isUpd x && x.taken < updTokens x) = false := by
    rw [startedAt, List.any_eq_false]
    rintro ⟨j, x⟩ isIn passes
    simp only [Bool.and_eq_true, beq_iff_eq, decide_eq_true_eq] at passes
    obtain ⟨⟨station, started⟩, ⟨before, upd⟩, more⟩ := passes
    have := done j x isIn station started before upd
    omega
  simp only [updStart, atCmd_of h, first, Bool.false_eq_true, if_false]

theorem updStart_waits (more : ∃ j x, (j, x) ∈ s.cmds ∧ sameStation (s.cmd id) x = true ∧ x.phase = .started ∧ x.order < (s.cmd id).order ∧ isUpd x = true ∧ x.taken < updTokens x) :
    updStart s = .next (s.setCmd id { s.cmd id with underway := true }) := by
  obtain ⟨j, x, isIn, station, started, before, upd, more⟩ := more
  have later : startedAt s (s.cmd id) (fun _ x => x.order < (s.cmd id).order && isUpd x && x.taken < updTokens x) = true := by
    rw [startedAt, List.any_eq_true]
    exact ⟨(j, x), isIn, by simp [station, started, before, upd, more]⟩
  simp only [updStart, atCmd_of h, later, if_true]

variable (hd : CmdHead) {reach : BitVec 4} {seg : BitVec 24}

theorem execStatc_outside (none_ : Stripe.place (stripe s (s.cmd id).ctx reach) seg.toNat = none) :
    execStatc hd reach seg s = .next (s.setCmd id { s.cmd id with admitted := true, status := 8 }) := by
  simp only [execStatc, atCmd_of h, cmdStripe, none_]

variable {m : Member} {loc : Nat} (place : Stripe.place (stripe s (s.cmd id).ctx reach) seg.toNat = some (m, loc))
  (room : weirRoom s m.pc 1 = true) (goes : (s.port (cmdPort (s.cmd id))).qStopped = false)
include place room goes

theorem execStatc_traps (tempo : cmdRound s (s.cmd id) ≠ none) (full : 2048 ≤ tempoHeldAt s m.pc) :
    ∃ d, execStatc hd reach seg s = .next (raiseTrap s (unitSite s (cmdPort (s.cmd id)) 0x30 0 none) 0x13 d) := by
  simp only [execStatc, atCmd_of h, cmdStripe, place, room, goes, Option.isSome_iff_ne_none.mpr tempo, full, Bool.not_true, Bool.or_self, Bool.false_eq_true, if_false, decide_true, Bool.and_self, if_true]
  exact ⟨_, rfl⟩

/-- The posting that `statc` makes of the region's counters. -/
def statWeir (s : State) (id : Nat) (m : Member) (loc : Nat) : Weir :=
  { cmd := id, slot := m.slot, seg := loc, word := 0, op := .add, ety := 1, stamp := 0, round := cmdRound s (s.cmd id), key := tempoKey (s.cmd id) 0
    vals := (List.range 16).map (fun i => if i < 11 then statSum (statTiles s (s.cmd id).region) i else 0) }

theorem execStatc_posts (fits : cmdRound s (s.cmd id) ≠ none → tempoHeldAt s m.pc < 2048) :
    ∃ t, execStatc hd reach seg s = .next t ∧ t.cmd id = { s.cmd id with admitted := true, posted := 1, flight := [(s.sends, m.pc, statWeir s id m loc)] } := by
  have passes : ((cmdRound s (s.cmd id)).isSome && decide (2048 ≤ tempoHeldAt s m.pc)) = false := by
    rw [Bool.and_eq_false_imp, Option.isSome_iff_ne_none, decide_eq_false_iff_not, Nat.not_le]
    exact fits
  simp only [execStatc, atCmd_of h, cmdStripe, place, room, goes, passes, Bool.not_true, Bool.or_self, Bool.false_eq_true, if_false]
  exact ⟨_, rfl, State.setCmd_cmd_self ..⟩
end

/-! ### A token at `pt.q` (R171, R172) -/

section
variable {s : State} {k : TileKey} (h : UnitAt s k .pt) {x : Parcel} (tok : (s.tile k).ports.get? 0x30 = some x)
  {id : Nat} {c : Cmd} (turn : updTaking s k = some (id, c)) (goes : (s.port k).qStopped = false) (data : x.tok.tt = .data)
include h tok turn goes data

theorem execUpdTokenTake_outside (none_ : Stripe.place (stripe s c.ctx (Word.field c.word 92 4)) (x.tok.tag.toNat * 256 + x.tok.seq.toNat) = none) :
    ∃ t, execUpdTokenTake s = .next t ∧ (t.tile k).ports.has 0x30 = false ∧ (t.cmd id).missed = c.missed + 1 ∧ (c.status = 0 → (t.cmd id).status = 8) := by
  simp only [execUpdTokenTake, atTile_of h, tok, turn, goes, data, tagSeq, none_, TT.isMarker]
  refine ⟨_, rfl, ?_, ?_, fun ok => ?_⟩
  · rw [State.setCmd_tile, accDone_rest]
    exact portTake_empty s k 0x30
  · rw [State.setCmd_cmd_self]
  · rw [State.setCmd_cmd_self, ok]
    rfl

variable {m : Member} {loc : Nat} (place : Stripe.place (stripe s c.ctx (Word.field c.word 92 4)) (x.tok.tag.toNat * 256 + x.tok.seq.toNat) = some (m, loc))
  (room : weirRoom s m.pc 1 = true) (pair : cmdCode c.word = 0x13 → id ∈ (s.landing m.pc).pairs ∨ (s.landing m.pc).pairs.length < 2)
  (fits : cmdRound s c ≠ none → tempoHeldAt s m.pc < 2048)
include place room pair fits

theorem execUpdTokenTake_posts : ∃ t, execUpdTokenTake s = .next t ∧ (t.tile k).ports.has 0x30 = false
    ∧ t.cmd id = { c with taken := c.taken + 1, posted := c.posted + 1, flight := c.flight ++ [(s.sends, m.pc, updOf s id c m loc x.tok)], hb := hbJoin c.hb (pastOf s [x.tok]) } := by
  have noTrap : ((cmdRound s c).isSome && decide (2048 ≤ tempoHeldAt s m.pc)) = false := by
    rw [Bool.and_eq_false_imp, Option.isSome_iff_ne_none, decide_eq_false_iff_not, Nat.not_le]
    exact fits
  have noWait : (!weirRoom s m.pc 1 || (cmdCode c.word == 0x13 && !(s.landing m.pc).pairs.contains id && decide (2 ≤ (s.landing m.pc).pairs.length))) = false := by
    rw [room, Bool.not_true, Bool.false_or, Bool.and_eq_false_imp, Bool.and_eq_true, beq_iff_eq, decide_eq_false_iff_not, Nat.not_le]
    rintro ⟨scale, new⟩
    exact (pair scale).resolve_left (by simpa using new)
  simp only [execUpdTokenTake, atTile_of h, tok, turn, goes, data, tagSeq, place, TT.isMarker, noWait, noTrap, Bool.false_eq_true, if_false]
  refine ⟨_, rfl, ?_, ?_⟩
  · have tiles : ∀ u : State, u.tiles = (portTake s k 0x30).tiles → (u.tile k).ports.has 0x30 = false := fun u same => by
      rw [State.tile, same]
      exact portTake_empty s k 0x30
    exact tiles _ (by dsimp only; split <;> rfl)
  · have cmds : ∀ (y : Cmd) (u : State), u.cmds = (s.setCmd id y).cmds → u.cmd id = y := fun y u same => by
      rw [State.cmd, same]
      exact State.setCmd_cmd_self ..
    exact cmds _ _ (by dsimp only; split <;> rfl)
end

/-! ### A landing accepts a posting (R278) -/

section
variable {s : State} {id : Nat} {pc : PcKey} (hf : s.focus = .cmdAt id pc) (present : s.cmds.has id = true)
  {no : Nat} {w : Weir} {rest : List (Nat × PcKey × Weir)} (first : (s.cmd id).flight = (no, pc, w) :: rest)
  (inOrder : earlierSent s (s.cmd id).station pc no = false) (open_ : fencedPc s pc = false) (room : (s.landing pc).weir.length < 4096)
include hf present first inOrder open_ room

theorem execPostingAccept_stamps : ∃ t, execPostingAccept s = .next t ∧ t.cmd id = { s.cmd id with flight := rest } ∧ (t.landing pc).order = (s.landing pc).order + 1
    ∧ (t.landing pc).weir = (s.landing pc).weir ++ [{ w with stamp := (s.landing pc).order }] := by
  have step : execPostingAccept s = .next (accStamped (weirPut (s.setCmd id { s.cmd id with flight := rest }) pc w) w.acc) := by
    simp only [execPostingAccept, hf, present, first, takeFirst_cons, beq_self_eq_true, inOrder, open_, room, Bool.not_true, Bool.false_eq_true, if_false, if_true]
  have stamped : ∀ (u : State) (a : Option Nat), accStamped u a = { u with accs := (accStamped u a).accs } := fun u a => by
    unfold accStamped
    split
    · split <;> rfl
    · rfl
  refine ⟨_, step, ?_⟩
  rw [stamped]
  exact ⟨State.setCmd_cmd_self .., congrArg Landing.order (State.setLanding_landing_self ..), congrArg Landing.weir (State.setLanding_landing_self ..)⟩
end

/-! ### A visit where nothing rides (R269, R279) -/

theorem accDone_landings (s : State) (a : Option Nat) : (accDone s a).landings = s.landings := by rw [accDone_rest]

theorem applyWeir_landings (s : State) (m : Member) (w : Weir) : (applyWeir s m w).landings = s.landings := by
  unfold applyWeir
  extract_lets u gran whole mem v
  split
  · rw [countUpd_rest]
    exact accDone_landings s w.acc
  · rw [countUpd_rest]
    exact accDone_landings s w.acc

theorem poisonSegment_rest (s : State) (m : Member) (loc : Nat) : poisonSegment s m loc =
    { s with poison := (poisonSegment s m loc).poison, decayed := (poisonSegment s m loc).decayed } := by
  unfold poisonSegment
  dsimp only
  split <;> rfl

theorem setLanding_riders (s : State) {pc : PcKey} {ld : Landing} (same : ld.riders = (s.landing pc).riders) (q : PcKey) :
    ((s.setLanding pc ld).landing q).riders = (s.landing q).riders := by
  by_cases e : q = pc
  · subst e
    rw [State.setLanding_landing_self, same]
  · rw [State.setLanding_landing_ne _ _ _ _ e]

theorem applyUpdates_riders (s : State) (m : Member) (loc : Nat) (q : PcKey) : ((applyUpdates s m loc).landing q).riders = (s.landing q).riders := by
  have all : ∀ (ws : List Weir) (u : State), (ws.foldl (fun x w => applyWeir x m w) u).landings = u.landings := fun ws => by
    induction ws with
    | nil => exact fun _ => rfl
    | cons w ws ih => exact fun u => (ih _).trans (applyWeir_landings u m w)
  unfold applyUpdates
  extract_lets ld now ws
  split
  · rfl
  · rw [State.landing, all]
    exact setLanding_riders s (ld := { ld with weir := ld.weir.filter fun w => !now w }) rfl q

theorem freePairs_rest (s : State) (pc : PcKey) : freePairs s pc = { s with landings := (freePairs s pc).landings } := by
  unfold freePairs
  dsimp only
  split <;> rfl

theorem freePairs_riders (s : State) (pc q : PcKey) : ((freePairs s pc).landing q).riders = (s.landing q).riders := by
  unfold freePairs
  extract_lets ld busy
  split
  · rfl
  · exact setLanding_riders s (ld := { ld with pairs := ld.pairs.filter busy }) rfl q

/-- What the riders of a visit find: the segment read, the updates applied, and the poison that the reading found. -/
def visited (s : State) (m : Member) (loc : Nat) : State :=
  { freePairs (applyUpdates (poisonSegment s m loc) m loc) m.pc with poison := (poisonSegment s m loc).poison }

theorem visited_riders (s : State) (m : Member) (loc : Nat) (q : PcKey) : ((visited s m loc).landing q).riders = (s.landing q).riders := by
  have keeps : ((visited s m loc).landing q).riders = ((poisonSegment s m loc).landing q).riders := (freePairs_riders ..).trans (applyUpdates_riders ..)
  rw [keeps, poisonSegment_rest]
  rfl

/-- The state in which the riders of a visit have been served, with the poison that the updates leave. -/
def served (s : State) (m : Member) (loc : Nat) : State :=
  let u := visited s m loc
  let old := (u.landing m.pc).riders
  let v := visitRiders u m loc old
  let s2 := { v.1 with poison := (freePairs (applyUpdates (poisonSegment s m loc) m loc) m.pc).poison }.setLanding m.pc
    { v.1.landing m.pc with riders := v.2 ++ (v.1.landing m.pc).riders.drop old.length }
  old.foldl (fun x r => if r.cmd == 0 then x else foldClose x r.cmd) s2

section
variable {s : State} {pc : PcKey} {slot : Nat} {e : BitVec 128} (hf : s.focus = .landing pc slot) (reach : (s.landing pc).reaches.get? slot = some e)
  (valid : Reach.valid e = true) (awake : s.dev.wiping = false)
include hf reach valid awake

theorem execSegmentVisit_waits (turn : visitTurn s ⟨pc, slot, e⟩ = false) : execSegmentVisit s = .next s := by
  simp only [execSegmentVisit, hf, reach, valid, awake, turn, Bool.not_true, Bool.not_false, Bool.false_or, if_true]

theorem execSegmentVisit_of (turn : visitTurn s ⟨pc, slot, e⟩ = true) : execSegmentVisit s =
    .next (cursorNext (served s ⟨pc, slot, e⟩ ((s.landing pc).cursors.getD slot (0, 0)).1) ⟨pc, slot, e⟩ ((s.landing pc).cursors.getD slot (0, 0)).1 ((s.landing pc).cursors.getD slot (0, 0)).2) := by
  simp only [execSegmentVisit, hf, reach, valid, awake, turn, Bool.not_true, Bool.or_self, Bool.false_eq_true, if_false]
  rfl
end

theorem served_dram {s : State} {m : Member} (none_ : (s.landing m.pc).riders = []) (loc : Nat) :
    (served s m loc).dram = (applyUpdates (poisonSegment s m loc) m loc).dram := by
  have nobody : ((visited s m loc).landing m.pc).riders = [] := (visited_riders ..).trans none_
  have alone : (served s m loc).dram = (visited s m loc).dram := by
    unfold served
    simp only [nobody, visitRiders, List.foldl_nil, State.setLanding]
  rw [alone, visited, freePairs_rest]

theorem cursorNext_cursor (s : State) (m : Member) (loc lap : Nat) :
    ((cursorNext s m loc lap).landing m.pc).cursors.getD m.slot (0, 0) = if Reach.lseg m.entry ≤ loc + 1 then (0, lap + 1) else (loc + 1, lap) := by
  rw [cursorNext, State.setLanding_landing_self, Map.getD_put_self]
  split <;> rfl

/-- Settles O40: the start of each update command, its tokens, what a landing stamps, what one update does to the words of its granule, and a visit. -/
theorem updateCommands : Obligations.UpdateCommands := by
  unfold Obligations.UpdateCommands
  refine ⟨fun s id hd o reach seg i h => ⟨?turn, ?waits, ?traps, ?posts, fun none_ => execStatc_outside h hd none_⟩, fun s k id c x h tok turn goes data => ⟨?takes, execUpdTokenTake_outside h tok turn goes data⟩,
    fun s id pc no w rest hf present first inOrder open_ room => execPostingAccept_stamps hf present first inOrder open_ room, fun s m w wf => ⟨?discards, fun goes => ?applies⟩,
    fun s pc slot e hf reach valid awake none_ => ⟨execSegmentVisit_waits hf reach valid awake, fun turn => ?visit⟩⟩
  case turn =>
    intro isIn done
    have step := updStart_turn h done
    simp only [List.mem_cons, List.not_mem_nil, or_false] at isIn
    obtain rfl | rfl | rfl | rfl := isIn
    all_goals exact step
  case waits =>
    intro isIn more
    have step := updStart_waits h more
    simp only [List.mem_cons, List.not_mem_nil, or_false] at isIn
    obtain rfl | rfl | rfl | rfl := isIn
    all_goals exact step
  case traps => exact fun m loc place room goes tempo full => execStatc_traps h hd place room goes tempo full
  case posts =>
    intro m loc place room goes fits
    obtain ⟨t, step, posted⟩ := execStatc_posts h hd place room goes fits
    exact ⟨t, statWeir s id m loc, step, posted, rfl, rfl, rfl, rfl, rfl, rfl, rfl, rfl, rfl⟩
  case takes =>
    intro m loc place room pair fits
    obtain ⟨t, step, taken, posted⟩ := execUpdTokenTake_posts h tok turn goes data place room pair fits
    refine ⟨t, updOf s id c m loc x.tok, step, taken, posted, rfl, rfl, rfl, ?_, ?_, ?_, ?_, rfl, rfl, rfl, ?_, ?_⟩
    · intro code
      simp [updOf, updOpOf, code]
    · intro code
      simp [updOf, updOpOf, code]
    · intro code
      simp [updOf, updOpOf, code]
    · intro code
      simp [updOf, updOpOf, code]
    · rw [updOf, List.length_map, List.length_range]
    · intro j low
      rw [updOf, List.length_map, List.length_range] at low
      rw [updOf, List.getElem?_map, List.getElem?_range low, Option.map_some]
  case discards =>
    intro bad part
    rw [applyWeir_discards bad part]
    refine ⟨?_, ?_, fun owned => ?_⟩
    · rw [countUpd_rest, accDone_rest]
    · rw [countUpd_rest, accDone_rest]
    · rw [countUpd_applied _ owned, cmd_accDone]
      rfl
  case applies =>
    rw [applyWeir_applies goes]
    refine ⟨?_, fun owned => ?_, fun i v val => ?_, fun a out => ?_⟩
    · rw [countUpd_rest]
      exact wordsWritten_clean goes
    · rw [countUpd_applied _ owned]
      exact congrArg (fun c => c.applied + 1) (cmd_accDone s w.acc w.cmd)
    · rw [countUpd_rest]
      exact (wordsWritten_word wf val).trans (updWord_becomes ..)
    · rw [countUpd_rest]
      exact wordsWritten_out out
  case visit =>
    exact ⟨_, execSegmentVisit_of hf reach valid awake turn, served_dram none_ _, cursorNext_cursor ..⟩

end Sys2Proof.Machine
end

section
/-! PROOF. The life of a launch: retirement, admission, slices, pre-emption, trap records (06 R202; 14 R320 to R322, R330; 15 R348, R350, R351; 18 R363, R364, R366). -/

namespace Sys2Proof.Machine

/-- What every step of a fold leaves alone, the fold leaves alone. -/
theorem foldl_leaves {α β γ : Type} (get : α → γ) (f : α → β → α) (step : ∀ a b, get (f a b) = get a) (bs : List β) (a : α) : get (bs.foldl f a) = get a := by
  induction bs generalizing a with
  | nil => rfl
  | cons b bs ih => exact (ih (f a b)).trans (step a b)

/-! ### What the completion of packets leaves of launches and their tiles (R315) -/

/-- The launches with what is theirs on the quads. -/
def launchSide (s : State) := (s.launches, s.regions, s.saved, s.tiles)

section
variable (s : State)

theorem launchSide_completePacket (q : Nat) (t : BitVec 64) (c : Completion) : launchSide (completePacket s q t c) = launchSide s := rfl

theorem launchSide_bindVerdict (id : Nat) : launchSide (bindVerdict s id) = launchSide s := by
  unfold bindVerdict
  extract_lets c
  split
  · split
    · rfl
    · split <;> rfl
  · rfl

theorem launchSide_issueBind (q : Nat) (o : Open) (l : Nat) : launchSide (issueBind s q o l) = launchSide s := by
  unfold issueBind
  extract_lets r rg rel k id x
  split
  · exact launchSide_completePacket ..
  · split
    · exact launchSide_completePacket ..
    · exact launchSide_bindVerdict ..

theorem launchSide_settleBinds (t : BitVec 64) (l : Option Nat) : launchSide (settleBinds s t l) = launchSide s := by
  unfold settleBinds
  refine foldl_leaves launchSide _ (fun z q => ?_) _ _
  extract_lets mine z1
  split
  · refine foldl_leaves launchSide _ (fun y o => ?_) _ _
    cases l with
    | some n => exact launchSide_issueBind ..
    | none => exact launchSide_completePacket ..
  · rfl

theorem launchSide_settleUnload (handle : Nat) : launchSide (settleUnload s handle) = launchSide s := by
  unfold settleUnload
  split
  · rfl
  · split
    · rfl
    · exact foldl_leaves launchSide _ (fun x c => launchSide_completePacket x _ _ _) _ _

theorem launchSide_launchOver (q : Nat) (t : BitVec 64) (hs : List Nat) (c : Completion) : launchSide (launchOver s q t hs c) = launchSide s :=
  (foldl_leaves launchSide _ launchSide_settleUnload _ _).trans (launchSide_settleBinds ..)

theorem launchSide_completeLaunch (l n : Nat) : launchSide (completeLaunch s l n) = launchSide s := launchSide_launchOver ..

theorem launchSide_settleKills (c : Nat) : launchSide (settleKills s c) = launchSide s := by
  unfold settleKills
  extract_lets x
  split
  · rfl
  · exact foldl_leaves launchSide _ (fun z k => launchSide_completePacket z _ _ _) _ _
end

section
variable {s t : State} (same : launchSide t = launchSide s)
include same

theorem launch_of_launchSide (l : Nat) : t.launch l = s.launch l := by rw [State.launch, (Prod.mk.inj same).1, State.launch]
theorem regions_of_launchSide : t.regions = s.regions := (Prod.mk.inj (Prod.mk.inj same).2).1
theorem tiles_of_launchSide : t.tiles = s.tiles := (Prod.mk.inj (Prod.mk.inj (Prod.mk.inj same).2).2).2
end

/-! ### Entries that are dropped -/

theorem Map.get?_keep {α : Type} (m : Map α) (p : Nat → Bool) (i : Nat) : (m.keep fun j _ => p j).get? i = if p i then m.get? i else none := by
  induction m with
  | nil => simp [Map.keep, Map.get?]
  | cons kv m ih =>
    obtain ⟨j, v⟩ := kv
    simp only [Map.keep] at ih ⊢
    by_cases hj : j = i
    · subst hj
      cases hp : p j <;> simp [hp, Map.get?, ih]
    · cases hp : p j <;> simp [hp, Map.get?, ih, hj]

theorem Map.has_keep_others {α : Type} (m : Map α) {is : List Nat} {i : Nat} (isIn : i ∈ is) : (m.keep fun j _ => !is.contains j).has i = false := by
  rw [Map.has, Map.get?_keep m (fun j => !is.contains j), if_neg (by simpa using isIn)]
  rfl

/-! ### Closed regions -/

theorem State.region_mapV {s t : State} {f : Region → Region} (is : t.regions = s.regions.mapV fun _ r => f r) {i : Nat} (has : s.regions.has i = true) : t.region i = f (s.region i) := by
  rw [State.region, is, State.region, Map.getD, Map.getD, Map.get?_mapV]
  obtain ⟨r, found⟩ := Option.isSome_iff_exists.mp has
  rw [found]
  rfl

theorem closeLaunch_closes (s : State) (l : Nat) {i : Nat} (has : s.regions.has i = true) (own : (s.region i).launch = l) : ((closeLaunch s l).region i).closed = true := by
  rw [State.region_mapV (s := s) (t := closeLaunch s l) (f := fun r => if r.launch == l then { r with closed := true } else r) rfl has]
  simp [own]

/-! ### Retirement (R202, R320) -/

section
variable {s : State} {l : Nat} (hf : s.focus = .launch l) (has : s.launches.has l = true)
include hf has

theorem execKernelRetire_waits (on : kernelOver s l = false) : execKernelRetire s = .next s := by
  simp only [execKernelRetire, hf, has, on, Bool.not_true, Bool.not_false, Bool.false_eq_true, if_false, if_true]

theorem execKernelRetire_retires (over_ : kernelOver s l = true) (last : (s.launch l).tail = none) :
    ∃ t, execKernelRetire s = .next t ∧ (t.launch l).phase = .retired ∧ ∀ r, r ∈ (s.launch l).regions → t.regions.has r = false := by
  have step : execKernelRetire s = .next (completeLaunch (closeRegions s l) l Status.ok) := by
    simp only [execKernelRetire, hf, has, over_, last, Bool.not_true, Bool.false_eq_true, if_false]
  have side := launchSide_completeLaunch (closeRegions s l) l Status.ok
  refine ⟨_, step, ?_, fun r isIn => ?_⟩
  · rw [launch_of_launchSide side]
    exact congrArg Launch.phase (State.setLaunch_launch_self s l _)
  · rw [regions_of_launchSide side]
    exact Map.has_keep_others _ isIn
end

/-! ### The end of a kill (R367) -/

/-- What a kill that ends leaves of its launch: it is retired, its regions are gone, and of one that ran, its tiles. -/
theorem endKill_ends (s : State) (l : Nat) (live : (s.launch l).phase ≠ .retired) : ((endKill s l).launch l).phase = .retired
    ∧ (∀ r, r ∈ (s.launch l).regions → (endKill s l).regions.has r = false)
    ∧ ((s.launch l).phase = .running → ∀ k, k ∈ launchKeys (s.launch l) → (endKill s l).tiles.has k = false) := by
  unfold endKill
  extract_lets x s1 s2 s3 s4 q s5 named s6
  rw [if_neg (by simpa using live)]
  have side : launchSide (settleKills (completeLaunch s6 l Status.killed) x.ctx) = launchSide s6 := (launchSide_settleKills ..).trans (launchSide_completeLaunch ..)
  refine ⟨?_, fun r isIn => ?_, fun runs k isIn => ?_⟩
  · rw [launch_of_launchSide side]
    exact congrArg Launch.phase (State.setLaunch_launch_self s5 l _)
  · rw [regions_of_launchSide side]
    exact Map.has_keep_others _ isIn
  · have cleared : s6.tiles = (clearKeys s3 (launchKeys x)).tiles := by
      have : s4 = clearKeys s3 (launchKeys x) := if_pos (by simpa using runs)
      exact show s4.tiles = _ by rw [this]
    rw [tiles_of_launchSide side, cleared]
    exact Map.has_keep_others _ isIn

/-! ### Pre-emption (R348, R350) -/

theorem fillPages_queues (s : State) (c : Nat) (pages : List Nat) : (fillPages s c pages).queues = s.queues := by
  unfold fillPages
  split
  · rfl
  · extract_lets ms
    refine foldl_leaves State.queues _ (fun z pg => ?_) pages s
    rfl

theorem moveShadows_queues (s : State) (keys : List TileKey) : (moveShadows s keys).queues = s.queues := by
  unfold moveShadows
  refine foldl_leaves State.queues _ (fun z y => ?_) _ _
  extract_lets x z1
  split
  · exact fillPages_queues ..
  · rfl

/-- What a launch that has been saved leaves of itself (R350). -/
theorem saveLaunch_saves (s : State) (l : Nat) (pages : List Nat) : ((saveLaunch s l pages).launch l).phase = .saved ∧ ((saveLaunch s l pages).launch l).flags = (s.launch l).flags ||| 8
    ∧ (saveLaunch s l pages).saved.has l = true ∧ ((saveLaunch s l pages).queue (s.launch l).queue).resumes = (s.queue (s.launch l).queue).resumes ++ [l] := by
  unfold saveLaunch
  extract_lets x keys mine y s1 named s2 q s3
  have queue : s2.queue x.queue = s.queue x.queue := by
    have same : s2.queues = s.queues := (moveShadows_queues ..).trans (fillPages_queues ..)
    rw [State.queue, same, State.queue]
  refine ⟨congrArg Launch.phase (State.setLaunch_launch_self s3 l _), congrArg Launch.flags (State.setLaunch_launch_self s3 l _), Map.has_put_self s1.saved l y, ?_⟩
  rw [State.setQueue_queue_self, ← queue]

/-- A launch that has come back from its save reach: it runs, and no saved state of it is left. -/
structure Back (s : State) (l : Nat) : Prop where
  runs : (s.launch l).phase = .running
  done : (s.launch l).resuming = false
  gone : s.saved.has l = false

section
variable {s t : State} {l : Nat}

theorem Back.of_same (h : Back s l) (launches : t.launches = s.launches) (saved : t.saved = s.saved) : Back t l where
  runs := by rw [State.launch, launches]; exact h.runs
  done := by rw [State.launch, launches]; exact h.done
  gone := by rw [saved]; exact h.gone

/-- A trap of a sequencer is counted at its launch, which goes on. -/
theorem Back.raiseSeq (h : Back s l) (k : TileKey) (c : BitVec 8) (d : BitVec 64) : Back (raiseSeq s k c d) l := by
  have counted : Back (s.setLaunch (s.launchOf k) { s.launch (s.launchOf k) with records := (s.launch (s.launchOf k)).records + 1, trapTimes := s.dev.dtime :: (s.launch (s.launchOf k)).trapTimes }) l := by
    by_cases own : l = s.launchOf k
    · subst own
      exact ⟨(congrArg Launch.phase (State.setLaunch_launch_self ..)).trans h.runs, (congrArg Launch.resuming (State.setLaunch_launch_self ..)).trans h.done, h.gone⟩
    · exact ⟨by rw [State.setLaunch_launch_ne _ _ _ _ own]; exact h.runs, by rw [State.setLaunch_launch_ne _ _ _ _ own]; exact h.done, h.gone⟩
  unfold Sys2Proof.Machine.raiseSeq raiseTrap
  dsimp only [seqSite, setStopped]
  split
  · exact counted.of_same rfl rfl
  · exact counted.of_same rfl rfl

theorem Back.seqFail (h : Back s l) (k : TileKey) : Back (seqFail s l k) l := by
  unfold Sys2Proof.Machine.seqFail
  extract_lets q
  split
  · exact h
  · split
    · exact h
    · exact (h.of_same (t := s.setSeq k _) rfl rfl).raiseSeq ..

theorem back_resumeLaunch {y : Saved} (saved : s.saved.get? l = some y) (unanswered : y.answers = []) : Back (resumeLaunch s l) l := by
  have restored : Back (restoreLaunch s l y) l :=
    ⟨congrArg Launch.phase (State.setLaunch_launch_self (clearKeys s (launchKeys (s.launch l))) l _), congrArg Launch.resuming (State.setLaunch_launch_self (clearKeys s (launchKeys (s.launch l))) l _),
      Map.has_del_self s.saved l⟩
  have failed (qs : Map Seq) : ∀ z : State, Back z l → Back (qs.foldl (fun z q => Machine.seqFail z l q.1) z) l := by
    induction qs with
    | nil => exact fun _ h => h
    | cons q qs ih => exact fun z h => ih _ (h.seqFail q.1)
  unfold resumeLaunch
  rw [saved]
  dsimp only
  rw [unanswered, List.foldl_nil]
  have released {γ : Type} (get : State → γ) (kept : ∀ (z : State) (r : TileKey × Nat), get (z.setPort r.1 { z.port r.1 with resumes := (z.port r.1).resumes ++ [r.2] }) = get z) :=
    foldl_leaves get _ kept y.releases (restoreLaunch s l y)
  have released : Back (y.releases.foldl (fun z r => z.setPort r.1 { z.port r.1 with resumes := (z.port r.1).resumes ++ [r.2] }) (restoreLaunch s l y)) l :=
    restored.of_same (released State.launches fun _ _ => rfl) (released State.saved fun _ _ => rfl)
  split
  · exact failed _ _ released
  · exact released
end

section
variable {s : State} {l : Nat} (hf : s.focus = .launch l) (has : s.launches.has l = true)
include hf has

theorem execPreempt_resuming (back : (s.launch l).resuming = true) : execPreempt s = .next (if restoring s l then s else resumeLaunch s l) := by
  simp only [execPreempt, hf, has, back, Bool.not_true, Bool.false_eq_true, if_false, if_true]

variable (there : (s.launch l).resuming = false) (runs : (s.launch l).phase = .running)
include there runs

theorem execPreempt_killing (kill : (s.launch l).killing = true) : execPreempt s = .next (if killSettled s l (s.launch l) then endKill s l else s) := by
  simp only [execPreempt, hf, has, there, runs, kill, bne_self_eq_false, Bool.not_true, Bool.false_eq_true, if_false, if_true]

variable (stop : (s.launch l).stopping = true) (noKill : (s.launch l).killing = false)
include stop noKill

theorem execPreempt_saves {pages : List Nat} (room : takePages s (s.launch l) = some pages)
    (settled : ∀ k ∈ launchKeys (s.launch l), unitStops s k (s.tile k) = true ∧ tileSettled s k = true) : execPreempt s = .next (saveLaunch s l pages) := by
  have all : (launchKeys (s.launch l)).all (fun k => unitStops s k (s.tile k) && tileSettled s k) = true :=
    List.all_eq_true.mpr fun k isIn => Bool.and_eq_true_iff.mpr (settled k isIn)
  simp only [execPreempt, hf, has, there, runs, stop, noKill, room, all, bne_self_eq_false, Bool.not_true, Bool.false_eq_true, if_false, if_true]

theorem execPreempt_full (full : takePages s (s.launch l) = none) : ∃ t, execPreempt s = .next t
    ∧ t.launch l = { s.launch l with stopping := false } ∧ (t.ctx (s.launch l).ctx).left = (s.ctx (s.launch l).ctx).slice := by
  simp only [execPreempt, hf, has, there, runs, stop, noKill, full, bne_self_eq_false, Bool.not_true, Bool.false_eq_true, if_false]
  exact ⟨_, rfl, State.setLaunch_launch_self .., congrArg Context.left (State.setCtx_ctx_self ..)⟩
end

/-! ### Admission (R320, R321) -/

theorem startLaunch_launch (s : State) (q : Nat) (o : Open) (places : List (Nat × Nat × Nat)) (flags : Nat) (started : BitVec 64) :
    ∃ x, (startLaunch s q o places flags started).launch (s.launches.length + 1) = x ∧ x.phase = .running ∧ x.ticket = o.ticket ∧ x.stamp = o.stamp ∧ x.packet = o.packet ∧ x.queue = q
      ∧ x.ctx = (s.queue q).ctx ∧ x.places = places ∧ x.handle = Launch.handleOf o.packet := by
  unfold startLaunch
  extract_lets l k x
  have placed : ((List.range k.regions.length).foldl (fun s1 i => startRegion s1 l o.packet k i places) (s.setLaunch l x)).launches = (s.setLaunch l x).launches :=
    foldl_leaves State.launches (fun s1 i => startRegion s1 l o.packet k i places) (fun _ _ => rfl) _ _
  refine ⟨x, ?_, rfl, rfl, rfl, rfl, rfl, rfl, rfl, rfl⟩
  rw [launch_of_launchSide (launchSide_settleBinds ..), State.launch, placed]
  exact State.setLaunch_launch_self s l x

theorem execAdmissionDecision_starts {s : State} {c : Cand} {p : List (Nat × Nat × Nat)} (hf : s.focus = .device) (noLate : dropLate s = s) (none_ : reservedOf s (ranked s) = none)
    (new : c.again = none) (first : firstFit (s.setDev { s.dev with reserved := none }) (ranked s) = some ([], c, p)) :
    ∃ t x, execAdmissionDecision s = .next t ∧ t.launch (s.launches.length + 1) = x ∧ x.phase = .running ∧ x.ticket = c.entry.ticket ∧ x.stamp = c.entry.stamp ∧ x.packet = c.entry.packet
      ∧ x.queue = c.queue ∧ x.ctx = (s.queue c.queue).ctx ∧ x.places = p ∧ x.handle = Launch.handleOf c.entry.packet := by
  have step : execAdmissionDecision s = .next (admitOver (s.setDev { s.dev with reserved := none }) [] c p) := by
    simp only [execAdmissionDecision, hf, noLate, none_, first]
  have admits : admitOver (s.setDev { s.dev with reserved := none }) [] c p = admitCand (s.setDev { s.dev with reserved := none }) c p := rfl
  rw [step, admits, admitCand, new]
  obtain ⟨x, is, phase, ticket, stamp, packet, queue, ctx, rest⟩ := startLaunch_launch
    ((s.setDev { s.dev with reserved := none }).setQueue c.queue (dropWaiting (s.queue c.queue) c.entry)) c.queue c.entry p
    (c.entry.flags ||| if !s.dev.bid && pastDeadline (s.setDev { s.dev with reserved := none }) c.entry.packet then 1 else 0) (if c.entry.flags / 2 % 2 == 1 then c.entry.started else 0)
  refine ⟨_, x, rfl, is, phase, ticket, stamp, packet, queue, ?_, rest⟩
  rw [ctx, State.setQueue_queue_self]
  rfl

/-! ### Slices (R330) -/

section
variable {s : State} {c : Nat} (hf : s.focus = .ctx c)
include hf

theorem execSliceExpiry_waits (on : (s.ctx c).left ≠ 0) : execSliceExpiry s = .next s := by
  have more : ((s.ctx c).left != 0) = true := by simpa using on
  simp only [execSliceExpiry, hf, more, if_true]

theorem execSliceExpiry_starts (over_ : (s.ctx c).left = 0) :
    ∃ t, execSliceExpiry s = .next t ∧ t.ctx c = { s.ctx c with left := (s.ctx c).slice } ∧ ∀ l, (s.launch l).ctx ≠ c → t.launch l = s.launch l := by
  simp only [execSliceExpiry, hf, over_, bne_self_eq_false, Bool.false_eq_true, if_false]
  refine ⟨_, rfl, ?_, fun l foreign => ?_⟩
  · split
    · exact State.setCtx_ctx_self s c _
    · exact State.setCtx_ctx_self s c _
  · split
    case isFalse => rfl
    case isTrue =>
      rw [State.launch, State.launch, Map.getD, Map.getD, Map.get?_mapV]
      rw [State.launch, Map.getD] at foreign
      cases there : s.launches.get? l with
      | none =>
        rw [show (s.setCtx c { s.ctx c with left := (s.ctx c).slice }).launches.get? l = none from there]
        rfl
      | some x =>
        rw [there] at foreign
        have other : (x.ctx == c) = false := by simpa using foreign
        rw [show (s.setCtx c { s.ctx c with left := (s.ctx c).slice }).launches.get? l = some x from there]
        simp only [Option.map_some, other, Bool.false_and, Bool.false_eq_true, if_false]
end

/-! ### Trap records (R363, R364, R366) -/

section
variable {s : State} {c : Nat} (hf : s.focus = .ctx c) {r : Trap} {rest : List Trap} (first : (s.ctx c).offered = r :: rest) (enters : r.fatal = true ∨ tqUsed (s.ctx c) ≤ 253)
include hf first enters

/-- The state in which a record has entered a trap queue, in use or answered at once. -/
def recordPut (s : State) (c k : Nat) (r : Trap) (rest : List Trap) (used : Bool) : State :=
  s.setCtx c { s.ctx c with offered := rest, tq := (s.ctx c).tq.put k { trap := r, used := used } }

theorem execTrapRecordEnter_free {k : Nat} (free : tqFree (s.ctx c) 256 0 = some k) :
    execTrapRecordEnter s = .next (if (s.ctx c).handler then recordPut s c k r rest true else answerTrap (recordPut s c k r rest false) 3 r) := by
  have taken : takeFirst (fun t : Trap => t.fatal || tqUsed (s.ctx c) ≤ 253) (r :: rest) = some (r, rest) := takeFirst_cons (by simpa using enters) rest
  simp only [execTrapRecordEnter, hf, first, taken, free]
  exact (apply_ite Host.Outcome.next _ _ _).symm

theorem execTrapRecordEnter_full (full : tqFree (s.ctx c) 256 0 = none) : ∃ t, execTrapRecordEnter s = .next t
    ∧ t.ctx c = { s.ctx c with offered := rest, lost := (s.ctx c).lost + 1, over_ := true, frozen := true }
    ∧ ∀ i, s.regions.has i = true → (s.launch (s.region i).launch).ctx = c → (t.region i).closed = true := by
  have taken : takeFirst (fun t : Trap => t.fatal || tqUsed (s.ctx c) ≤ 253) (r :: rest) = some (r, rest) := takeFirst_cons (by simpa using enters) rest
  let u := s.setCtx c { s.ctx c with offered := rest, lost := (s.ctx c).lost + 1, over_ := true }
  have step : execTrapRecordEnter s = .next (freeze u c) := by
    simp only [execTrapRecordEnter, hf, first, taken, full]
    rfl
  refine ⟨_, step, ?_, fun i there own => ?_⟩
  · exact (State.setCtx_ctx_self u c _).trans (congrArg (fun x : Context => { x with frozen := true }) (State.setCtx_ctx_self s c _))
  · rw [State.region_mapV (s := s) (t := freeze u c) (f := fun r => if (u.launch r.launch).ctx == c then { r with closed := true } else r) rfl there]
    have mine : ((u.launch (s.region i).launch).ctx == c) = true := beq_iff_eq.mpr own
    rw [mine]
    rfl
end

section
variable {s : State} {r : Trap}

/-- KILL of a launch that runs: it begins to stop. -/
theorem answerTrap_running (unsaved : s.saved.get? r.launch = none) (runs : (s.launch r.launch).phase = .running) :
    ((answerTrap s 3 r).launch r.launch).killing = true
      ∧ ∀ i, s.regions.has i = true → (s.region i).launch = r.launch → ((answerTrap s 3 r).region i).closed = true := by
  let u := s.setLaunch r.launch { s.launch r.launch with records := (s.launch r.launch).records - 1 }
  have launch : u.launch r.launch = { s.launch r.launch with records := (s.launch r.launch).records - 1 } := State.setLaunch_launch_self ..
  have answered : answerTrap s 3 r = killLaunch u r.launch := by
    unfold answerTrap
    rw [unsaved]
    rfl
  have killed : killLaunch u r.launch = (closeLaunch u r.launch).setLaunch r.launch { u.launch r.launch with killing := true, stopping := false } := by
    have phase : (u.launch r.launch).phase = .running := by rw [launch]; exact runs
    unfold killLaunch
    dsimp only
    rw [phase]
  rw [answered, killed]
  exact ⟨congrArg Launch.killing (State.setLaunch_launch_self ..), fun i there own => closeLaunch_closes u r.launch there own⟩

/-- A saved launch keeps its answer. -/
theorem answerTrap_saved {y : Saved} (saved : s.saved.get? r.launch = some y) (away : (s.launch r.launch).resuming = false) :
    (answerTrap s 3 r).saved.get? r.launch = some { y with answers := y.answers ++ [(3, r)] } := by
  unfold answerTrap
  dsimp only
  rw [saved, away]
  exact Map.get?_put_self ..

/-- KILL of a launch that is being restored ends it. -/
theorem answerTrap_resuming {y : Saved} (saved : s.saved.get? r.launch = some y) (back : (s.launch r.launch).resuming = true) (phase : (s.launch r.launch).phase = .saved) :
    ((answerTrap s 3 r).launch r.launch).phase = .retired := by
  let u := s.setLaunch r.launch { s.launch r.launch with records := (s.launch r.launch).records - 1 }
  have phase : (u.launch r.launch).phase = .saved := (congrArg Launch.phase (State.setLaunch_launch_self ..)).trans phase
  have answered : answerTrap s 3 r = endKill u r.launch := by
    have killed : killLaunch u r.launch = endKill u r.launch := by
      unfold killLaunch
      dsimp only
      rw [phase]
    have kills : ((s.launch r.launch).resuming && 3 == 3) = true := by rw [back]; rfl
    unfold answerTrap
    dsimp only
    rw [saved]
    exact (if_pos kills).trans killed
  rw [answered]
  exact (endKill_ends u r.launch (by rw [phase]; decide)).1
end

/-- Settles O45: the ends and beginnings of a launch, step by step, and the record that may end it. -/
theorem launchLife : Obligations.LaunchLife := by
  unfold Obligations.LaunchLife
  refine ⟨fun s l hf has => ⟨fun over_ last => execKernelRetire_retires hf has over_ last, execKernelRetire_waits hf has, ?saves, ?full, ?kills, ?resumes⟩,
    fun s c p hf noLate none_ new first => ?admits,
    fun s c hf => ⟨execSliceExpiry_starts hf, execSliceExpiry_waits hf, fun r rest first enters => ⟨?handled, ?answered, execTrapRecordEnter_full hf first enters⟩⟩⟩
  case saves =>
    intro pages stop noKill there runs room settled
    exact ⟨_, execPreempt_saves hf has there runs stop noKill room settled, saveLaunch_saves s l pages⟩
  case full => exact fun stop noKill there runs full => execPreempt_full hf has there runs stop noKill full
  case kills =>
    intro kill there runs
    have step := execPreempt_killing hf has there runs kill
    refine ⟨fun settled => ?_, fun on => ?_⟩
    · rw [settled] at step
      obtain ⟨phase, regions, tiles⟩ := endKill_ends s l (by rw [runs]; decide)
      exact ⟨_, step, phase, regions, tiles runs⟩
    · rw [on] at step
      exact step
  case resumes =>
    intro back
    have step := execPreempt_resuming hf has back
    refine ⟨fun on => ?_, fun y off saved unanswered => ?_⟩
    · rw [on] at step
      exact step
    · rw [off] at step
      obtain ⟨runs, done, gone⟩ := back_resumeLaunch saved unanswered
      exact ⟨_, step, runs, done, gone⟩
  case admits =>
    obtain ⟨t, x, step, is, started⟩ := execAdmissionDecision_starts hf noLate none_ new first
    refine ⟨t, step, ?_⟩
    rw [is]
    exact started
  case handled =>
    intro k free handler
    have step := execTrapRecordEnter_free hf first enters free
    rw [handler] at step
    exact step
  case answered =>
    intro k free noHandler
    have step := execTrapRecordEnter_free hf first enters free
    rw [noHandler] at step
    exact ⟨_, step, fun unsaved runs => answerTrap_running (s := recordPut s c k r rest false) unsaved runs,
      fun y saved => ⟨fun away => answerTrap_saved (s := recordPut s c k r rest false) saved away, fun back phase => answerTrap_resuming (s := recordPut s c k r rest false) saved back phase⟩⟩

end Sys2Proof.Machine
end

section
/-! PROOF. O38 is refuted: its clause for the rider of a `kvride` does not ask that the rider's command is one (11 R277, 06 R167). -/

namespace Sys2Proof.Machine

/-- A `fold` that is underway, has no lane and waits for no member (06 R167). -/
def strayFold : Cmd :=
  { word := (4 : BitVec 7) ++ (0 : BitVec 121), station := .port 0, origin := .firmware, launch := 0, ctx := 0, region := 0, phase := .started, underway := true }

/-- A rider of kind `kv` that stands for that `fold` and wants the segment at the cursor. -/
def strayRider : Rider := { cmd := 1, slot := 0, kind := .kv, on := true, want := [(0, 0, 0)] }

/-- The landing where the rider stands alone, about to visit that segment. -/
def strayState : State :=
  { focus := .landing 0 0, cmds := [(1, strayFold)], landings := [(0, { reaches := [(0, tableReach)], riders := [strayRider] })] }

theorem device_tableReach : Reach.device tableReach = true := by decide

/-- A reach of the device's belongs to no stripe, and waits for no turn. -/
theorem strayState_turn : visitTurn strayState ⟨0, 0, tableReach⟩ = true := by
  simp [visitTurn, Reach.named, device_tableReach]

/-- The visit takes the rider off, with which the `fold` has alighted everywhere, and its result leaves. -/
theorem strayState_visit : ∃ t, execSegmentVisit strayState = .next t ∧ (t.cmd 1).extended = true :=
  ⟨_, execSegmentVisit_of rfl rfl (by decide) rfl strayState_turn, rfl⟩

/-- What O38 says the visit leaves of the command is a `fold` whose result has not left. -/
theorem strayState_claimed : (kvEmit (visited strayState ⟨0, 0, tableReach⟩ 0)
    (kvCollect (visited strayState ⟨0, 0, tableReach⟩ 0) ((visited strayState ⟨0, 0, tableReach⟩ 0).cmd 1) ⟨0, 0, tableReach⟩ 0)).extended = false := rfl

/-- Refutes O38. Its last clause on a visit, for a rider of kind `kv`, says that the command becomes `kvEmit u y`, and lacks the hypothesis that the command is a `kvride` (code 5). With a `fold` (code 4) whose only rider has that kind, the rider alights at the visit and the result token of the `fold` leaves (R167), so that the command is not `kvEmit u y`. What is wrong is the missing hypothesis: the commands of the model register no rider of this kind for a `fold`. -/
theorem not_rideCommands : ¬ Obligations.RideCommands := by
  unfold Obligations.RideCommands
  rintro ⟨-, -, -, -, visits, -⟩
  obtain ⟨t, step, -, -, -, -, kv⟩ := visits strayState 0 0 tableReach strayRider rfl rfl (by decide) rfl strayState_turn rfl rfl (by decide)
  obtain ⟨-, -, emits⟩ := kv rfl (by decide) rfl
  obtain ⟨t', step', extended⟩ := strayState_visit
  obtain rfl : t = t' := Host.Outcome.next.inj (step.symm.trans step')
  have claimed : (t.cmd 1).extended = false := (congrArg Cmd.extended (emits rfl rfl)).trans strayState_claimed
  exact absurd (extended.symm.trans claimed) (by decide)

end Sys2Proof.Machine
end
